-- ==== Sys2Proof/Word.lean ====
section
/-!
DEFINITION. Words, register numbers and the plainest helpers on them (00_scope R7, R8, R10; 12_number_formats R218).
-/
namespace Sys2Proof

/-- A memory word and a general register: 64 bits (R8, R207). -/
abbrev Word := BitVec 64
/-- Half of a bundle, a `.w` datum (R8, R235). -/
abbrev W32 := BitVec 32
/-- The smallest addressable unit (R7). -/
abbrev Byte := BitVec 8
/-- A general register number, g0 to g31 (R207). -/
abbrev Reg := Fin 32
/-- An array tag, t0 to t7 (R383). -/
abbrev Tag := Fin 8
/-- A ring, h0 to h7 (R338). -/
abbrev RingNo := Fin 8
/-- An accumulator, a0 to a3 (R206). -/
abbrev Acc := Fin 4
/-- A bundle index, 0 to 8191 (R206). -/
abbrev Bundle13 := BitVec 13

/-- `1` or `0` in a whole register, as the compares write it (R253). -/
def boolWord (b : Bool) : Word := if b then 1 else 0

/-- Bits `hi` down to `lo` of a word as a natural number (R7). -/
def field (w : Word) (hi lo : Nat) : Nat := (w.toNat >>> lo) % 2 ^ (hi + 1 - lo)

/-- Bit `i` of a word. -/
def bitOf (w : Word) (i : Nat) : Bool := w.toNat.testBit i

/-- `v`, cut to `n` bits, placed at bit `lo`. -/
def place (v n lo : Nat) : Nat := (v % 2 ^ n) <<< lo

end Sys2Proof
end

