-- ==== Sys2Proof/Syntax.lean ====
section
/-!
DEFINITION. The syntax: one constructor of `Instr` per row of spec/opcode_table.json, the instructions of both
bundle words (13_instruction_formats R235 to R241 and the engine chapters) and the part's own events
(95_what_each_step_holds.md). Register numbers, operation codes and formats are constructors, so no meaning sees a raw
encoding. An event carries what it is about: a core index, an in-flight access, the data an outside party supplies.
-/
namespace Sys2Proof

/-- Access sizes `.b .h .w .d` (R8, R237). -/
inductive Size | b | h | w | d
deriving DecidableEq, Repr

/-- Bytes of an access. -/
def Size.bytes : Size → Nat
  | .b => 1 | .h => 2 | .w => 4 | .d => 8

/-- Ordering scopes (R9, R192, R237); code 7 is illegal and has no constructor. -/
inductive Scope | core | quad | layer | tower | pkg | pod | sys
deriving DecidableEq, Repr

/-- Rounding codes 0 to 4 (R225); codes 5 to 7 are illegal and have no constructor. -/
inductive Rm | rne | rtz | rdn | rup | dyn
deriving DecidableEq, Repr

/-- A rounding mode in force: codes 0 to 3 (R225, R229). -/
inductive Mode | rne | rtz | rdn | rup
deriving DecidableEq, Repr

/-- The two priorities of a firing, and so the two banks of a core (R110, R207). -/
inductive Prio | low | high
deriving DecidableEq, Repr

/-- AMO operations 0 to 8 (R239, R280). -/
inductive AmoOp | add | and | or | xor | min | max | minn | maxn | swap
deriving DecidableEq, Repr

/-- RED operations: AMO 0 to 7, or the FP32 sum with its own rounding code (R239, R282). -/
inductive RedOp
  | int (op : AmoOp)
  | fadd (r : Rm)
deriving DecidableEq, Repr

/-- Barrier levels 0 to 7 (R239, R324). -/
inductive Level | quad | row | col | layer | fold | tower | pkg | pod
deriving DecidableEq, Repr

/-- Treatments of the destination's full/empty bits by a copy (R186, R330). -/
inductive CopyMode | copy | full | keep | arrive
deriving DecidableEq, Repr

/-- Conditions of RWAIT (R339, R344). -/
inductive RingCond | filled | free | idle
deriving DecidableEq, Repr

/-- Operand formats of MFOLD (R351). -/
inductive FoldFmt | fp16 | bf16 | e4m3 | e5m2 | int8 | dxb8 | dxb6 | dxb4
deriving DecidableEq, Repr

/-- Formats MNAR narrows to (R365). -/
inductive NarFmt | fp32 | fp16 | bf16 | e4m3 | e5m2 | dxb8 | dxb6 | dxb4 | i32 | i8
deriving DecidableEq, Repr

/-- Formats MWID widens from (R365). -/
inductive WidFmt | fp32 | fp16 | bf16 | i32
deriving DecidableEq, Repr

/-- How ACMP combines its result into a tag (R388). -/
inductive TagOp | set | and | or | andn
deriving DecidableEq, Repr

/-- The key of ACMP: a register, or 17 immediate bits (R388). -/
inductive KeySrc
  | reg (a : Reg)
  | imm (k : BitVec 17)
deriving DecidableEq, Repr

/-- An array field: data bits `off` to `off + wm1` of a row (R384). -/
structure Field where
  off : BitVec 9
  wm1 : BitVec 6
deriving DecidableEq, Repr

/-- The built-in sequences, codes 0 to 23 (R397). -/
inductive SeqCode
  | mov | add | sub | adds | subs | muln | muli | muls | neg | abs | min | max | shr | sar | shl | satn
  | clt | ceq | cltn | f16add | f16mul | f16muls | f16fri | f16toi
deriving DecidableEq, Repr

/-- Integer types of the conversions (R262). -/
inductive IntTy | i32 | n32 | i64 | n64
deriving DecidableEq, Repr

/-- Floating types of CVTIF and CVTFI (R262). -/
inductive FpTy | f32 | f16 | bf16
deriving DecidableEq, Repr

/-- Pairs of CVTFF (R262). -/
inductive FfPair | f32f16 | f32bf16 | f32e4m3 | f32e5m2 | f16f32 | bf16f32 | e4m3f32 | e5m2f32
deriving DecidableEq, Repr

/-- Formats of PK2 and UNPK (R262). -/
inductive NarrowFmt | f16 | bf16 | e4m3 | e5m2
deriving DecidableEq, Repr

/-- What one access does at its executing agent (R177, R270, R274, R278, R280 to R282). Operand values and the
rounding mode are those of the issuing firing at issue. -/
inductive AccOp
  | load (sz : Size)
  | store (sz : Size) (v : Word)
  | amo (op : AmoOp) (w : Bool) (v : Word) (fe : Bool)
  | cas (w : Bool) (cmp new : Word)
  | red (op : AmoOp) (w : Bool) (v : Word)
  | redFadd (m : Mode) (v : Word)
  | ldw | ldt
  | stp (v : Word)
  | stf (v : Word)
  | emp | feq
  | ldwt | ldtt
  | stpt (v : Word)
  | park (expected : Bool)
  /-- The arming of the transient blocks of the page of `bytes` that holds the address (R279). -/
  | tarm (bytes : Nat) (life : BitVec 16)
  /-- What an engine reads: a word with its bit (R186, R331). -/
  | fetch
  /-- An engine's write of a word, with the bit that it leaves, or leaving the bit alone (R186, R331). -/
  | put (v : Word) (full : Option Bool)
  /-- An engine's empty of a word (R186, R343). -/
  | clear
  /-- Consecutive words that another package stores or reads with one request (R41). -/
  | storeWords (ws : List Word)
  | loadWords (n : Nat)
deriving DecidableEq, Repr

/-- How an executing agent answers an access (R29, R177, R188, R319). -/
inductive Answer
  /-- Performed; the value a reader gets. -/
  | done (v : Word)
  /-- The word's full/empty bit did not let the attempt succeed. -/
  | notReady
  /-- The attempt arrived at an unarmed transient block (R188). -/
  | expired
  /-- The access consumed poison (R29). -/
  | poisoned
  /-- The access read an array segment or tag byte with bad parity, of this row (R404). -/
  | parity (row : Nat)
  /-- A word with its bit, for an engine (R186). -/
  | word (v : Word) (full : Bool)
  /-- Consecutive words (R41). -/
  | words (ws : List Word)
deriving DecidableEq, Repr

/-- The answer of a destination core to a message or a remote push (R319, R341). -/
inductive MsgAnswer | accept | refuse | invalid
deriving DecidableEq, Repr

/-- A page-move or page-collapse request at a migration token's home (R68, R146, R148, R150). -/
inductive TokenReq
  /-- A host page move: request id, direction (true: to the host), launch, virtual address, host destination, result word. -/
  | host (rid : W32) (toHost : Bool) (lid : W32) (va : Nat) (dest : Nat) (result : Nat)
  /-- A device fault: an F/E operation of this core's firing met a page resident in a host window (R148). -/
  | toDevice (c : Nat) (p : Prio) (va : Nat)
  /-- A write to a duplicated page (R150). -/
  | collapse (c : Nat) (p : Prio) (va : Nat)
  /-- Service firmware sets or clears attribute bits of a page under its token (R151, R156). -/
  | setAttr (lid : W32) (va : Nat) (attr : BitVec 9)
  /-- Service firmware duplicates a page into the tower's replica frame (R149, R150). -/
  | duplicate (lid : W32) (va : Nat) (tower : Nat) (frame : Nat)
deriving DecidableEq, Repr

/-- What a span-link packet carries (R41, R193). -/
inductive Packet
  /-- A SEND to a port: source package, source core, launch, port address and payload. -/
  | message (lid : W32) (port : Word) (words : List Word)
  /-- A remote ring push: launch, core address word, ring. -/
  | push (lid : W32) (addr : Word) (h : RingNo)
  /-- A code store, with its source package and its number there (R201). -/
  | code (src : BitVec 12) (rid : Nat) (addr : Nat) (w : Word)
  /-- A start message (R89). -/
  | start (c : Nat)
  /-- A pod barrier token of a launch id (R324). -/
  | barrier (src : BitVec 12) (lid : W32)
  /-- A pod reward broadcast, or RCLR when `r` is none; `left` names the arrays that have not accepted it, once it has been
  presented (R416). -/
  | reward (lid : W32) (r : Option (BitVec 16)) (s : Word) (left : Option (List Nat))
  /-- A remote wake notice for a word: of a fill, of an empty, or, with none, of an expiry (R42, R188). -/
  | wake (pa : Nat) (fill : Option Bool)
  /-- A remote access request: source package, its number there, the operation, the physical address, and whether the page is
  transient (R41, R165). -/
  | request (src : BitVec 12) (rid : Nat) (op : AccOp) (pa : Nat) (tr : Bool)
  /-- The response to an access this package sent (R41). -/
  | response (k : Nat) (a : Answer)
deriving DecidableEq, Repr

/-- One flit of a span link: header fields of R35, the receive slot that its sender put it into (R43; log entry 117), what its
receiver finds of the CRC and of the reserved fields, and the packet that its payload completes, if it completes one. -/
structure Flit where
  seq   : BitVec 12
  ack   : BitVec 12
  nak   : Bool
  adaptive : Bool
  /-- 0 first, 1 middle, 2 last, 3 whole packet. -/
  pos   : BitVec 2
  slot  : BitVec 8
  fslot : BitVec 8
  frun  : BitVec 8
  crcOk : Bool
  reservedZero : Bool
  lane  : Nat
  packet : Option Packet
deriving DecidableEq, Repr

/-- A signature, taken ideally: the public key under which it verifies, and what it was made over (R79; log entry 120). -/
structure Signature where
  key     : Nat
  version : BitVec 32
  boot    : List Word
  service : List Word
deriving DecidableEq, Repr

/-- The contents of a firmware slot: version, boot image, service image as bundles, and one signature over all three (R79). -/
structure FwImage where
  version : BitVec 32
  boot    : List Word
  service : List Word
  sig     : Signature
deriving DecidableEq, Repr

/-- What a start stage reports when it finishes: the units whose self test or training failed (fenced, R74), and a
failure of the whole start (R76), as its code and detail. -/
structure StageResult where
  fencedLayers : BitVec 32
  fencedTowers : BitVec 8
  fail : Option (BitVec 8 × BitVec 16)
deriving DecidableEq, Repr

/-- What a scrub read finds in its block (R28, R164). -/
inductive ScrubResult | clean | corrected | uncorrectable
deriving DecidableEq, Repr

/-- The window of a register write: the package control window, or the link window or MSI-X table of PCIe link 0 or 1 (R48); or the
size of BAR 4 of a link's function, as log2 (R47). -/
inductive RegWin
  | pkg
  | link (l : Nat)
  | msix (l : Nat)
  | bar4 (l : Nat)
deriving DecidableEq, Repr

/-- What a request of the host that wants a completion is: a read of some bytes through BAR 4, one of BAR 0, or an AtomicOp (R45,
R48, R50). -/
inductive HostReq
  | memory (len : Nat)
  | control (len : Nat)
  | atomic
deriving DecidableEq, Repr

/-- The claimant of a block of grains or the reporter of a batch: the layer distributor of layer 4t + k, or the tower
master of tower t (R92, R93). -/
inductive GrainLevel
  | layer (i : Nat)
  | tower (t : Nat)
deriving DecidableEq, Repr

/-- The instructions and events: one constructor per row of spec/opcode_table.json. A lone form (`…Lone`) takes its
immediate, displacement or target from E (R236). A mask is `none` for MU = 1 (R385). An instruction acts for the core
and bank that issue it. An event acts on the subject that the state names when it comes about (`State.here`, `evPrio`,
`evNum`: a core, a priority, a number); its arguments are what an outside party supplies. -/
inductive Instr
  /-- `BR` (R306): Always-taken branch, PC-relative, placing its target behind two delay bundles. -/
  | br (n : Bool) (t : BitVec 18)
  /-- `BR_LONE` (R307): Lone always-taken branch to the absolute bundle index held in E. -/
  | brLone (n : Bool) (t : Bundle13)
  /-- `CALL` (R310): Always-taken PC-relative branch that writes g31 with its own bundle index plus 3. -/
  | call (n : Bool) (t : BitVec 18)
  /-- `CALL_LONE` (R310): Lone call to the absolute bundle index in E, linking g31. -/
  | callLone (n : Bool) (t : Bundle13)
  /-- `JMP` (R306): Always-taken jump to the bundle index in ga bits 12:0. -/
  | jmp (a : Reg)
  /-- `CALLR` (R310): Jump to the bundle index in ga that also links g31. -/
  | callr (a : Reg)
  /-- `BZ` (R306): Branch taken when ga is zero, optionally nullifying its delay bundles. -/
  | bz (a : Reg) (n : Bool) (t : BitVec 18)
  /-- `BZ_LONE` (R307): Lone BZ with an absolute target in E. -/
  | bzLone (a : Reg) (n : Bool) (t : Bundle13)
  /-- `BNZ` (R306): Branch taken when ga is nonzero. -/
  | bnz (a : Reg) (n : Bool) (t : BitVec 18)
  /-- `BNZ_LONE` (R307): Lone BNZ with an absolute target in E. -/
  | bnzLone (a : Reg) (n : Bool) (t : Bundle13)
  /-- `BLTZ` (R306): Branch taken when ga read as i64 is negative. -/
  | bltz (a : Reg) (n : Bool) (t : BitVec 18)
  /-- `BLTZ_LONE` (R307): Lone BLTZ with an absolute target in E. -/
  | bltzLone (a : Reg) (n : Bool) (t : Bundle13)
  /-- `BGEZ` (R306): Branch taken when ga read as i64 is non-negative. -/
  | bgez (a : Reg) (n : Bool) (t : BitVec 18)
  /-- `BGEZ_LONE` (R307): Lone BGEZ with an absolute target in E. -/
  | bgezLone (a : Reg) (n : Bool) (t : Bundle13)
  /-- `BEQ` (R306): Branch taken when ga equals gb. -/
  | beq (a b : Reg) (n : Bool) (t : BitVec 13)
  /-- `BEQ_LONE` (R307): Lone BEQ with an absolute target in E. -/
  | beqLone (a b : Reg) (n : Bool) (t : Bundle13)
  /-- `BNE` (R306): Branch taken when ga differs from gb. -/
  | bne (a b : Reg) (n : Bool) (t : BitVec 13)
  /-- `BNE_LONE` (R307): Lone BNE with an absolute target in E. -/
  | bneLone (a b : Reg) (n : Bool) (t : Bundle13)
  /-- `BLT` (R306): Branch taken when ga is less than gb as i64. -/
  | blt (a b : Reg) (n : Bool) (t : BitVec 13)
  /-- `BLT_LONE` (R307): Lone BLT with an absolute target in E. -/
  | bltLone (a b : Reg) (n : Bool) (t : Bundle13)
  /-- `BGE` (R306): Branch taken when ga is at least gb as i64. -/
  | bge (a b : Reg) (n : Bool) (t : BitVec 13)
  /-- `BGE_LONE` (R307): Lone BGE with an absolute target in E. -/
  | bgeLone (a b : Reg) (n : Bool) (t : Bundle13)
  /-- `BLTN` (R306): Branch taken when ga is less than gb as n64. -/
  | bltn (a b : Reg) (n : Bool) (t : BitVec 13)
  /-- `BLTN_LONE` (R307): Lone BLTN with an absolute target in E. -/
  | bltnLone (a b : Reg) (n : Bool) (t : Bundle13)
  /-- `BGEN` (R306): Branch taken when ga is at least gb as n64. -/
  | bgen (a b : Reg) (n : Bool) (t : BitVec 13)
  /-- `BGEN_LONE` (R307): Lone BGEN with an absolute target in E. -/
  | bgenLone (a b : Reg) (n : Bool) (t : Bundle13)
  /-- `LOOP` (R311): Decrements ga and branches while the new value is nonzero. -/
  | loop (a : Reg) (n : Bool) (t : BitVec 18)
  /-- `LOOP_LONE` (R311): Lone LOOP with an absolute target in E. -/
  | loopLone (a : Reg) (n : Bool) (t : Bundle13)
  /-- `MOVL` (R242): Writes gd with the sign-extended 14-bit immediate. -/
  | movl (d : Reg) (i : BitVec 14)
  /-- `MOVL_LONE` (R242): Lone MOVL writing gd with the sign-extended 32-bit E. -/
  | movlLone (d : Reg) (e : W32)
  /-- `MOVLH` (R242): Lone instruction that writes E into gd bits 63:32 and keeps bits 31:0. -/
  | movlh (d : Reg) (e : W32)
  /-- `TRAP` (R291): Ends the firing with cause SOFT and INFO equal to the immediate. -/
  | trap (i : BitVec 14)
  /-- `SLEEP` (R293): Holds its bundle for the immediate number of ticks. -/
  | sleep (i : BitVec 14)
  /-- `BRK` (R292): Traps SOFT with INFO 0x4000 plus the immediate when BRKEN is set, otherwise does nothing. -/
  | brk (i : BitVec 14)
  /-- `LD` (R270): Loads a value of the given size and sign-extends it into gd. -/
  | ld (d a : Reg) (sz : Size) (p : BitVec 9)
  /-- `LD_LONE` (R267): Lone LD with a byte displacement in E. -/
  | ldLone (d a : Reg) (sz : Size) (e : W32)
  /-- `LDN` (R270): Loads a value of the given size and zero-extends it into gd. -/
  | ldn (d a : Reg) (sz : Size) (p : BitVec 9)
  /-- `LDN_LONE` (R267): Lone LDN with a byte displacement in E. -/
  | ldnLone (d a : Reg) (sz : Size) (e : W32)
  /-- `ST` (R270): Stores the low bits of gd at the given size. -/
  | st (d a : Reg) (sz : Size) (p : BitVec 9)
  /-- `ST_LONE` (R267): Lone ST with a byte displacement in E. -/
  | stLone (d a : Reg) (sz : Size) (e : W32)
  /-- `LDX` (R270): Indexed load from ga plus gb, sign-extended. -/
  | ldx (d a b : Reg) (sz : Size)
  /-- `STX` (R270): Indexed store of gd to ga plus gb. -/
  | stx (d a b : Reg) (sz : Size)
  /-- `LDA` (R272): Load that is an acquire at the instruction's scope. -/
  | lda (d a : Reg) (sz : Size) (sc : Scope) (p : BitVec 9)
  /-- `LDA_LONE` (R272): Lone LDA with a byte displacement in E. -/
  | ldaLone (d a : Reg) (sz : Size) (sc : Scope) (e : W32)
  /-- `STL` (R272): Store that is a release at the instruction's scope. -/
  | stl (d a : Reg) (sz : Size) (sc : Scope) (p : BitVec 9)
  /-- `STL_LONE` (R272): Lone STL with a byte displacement in E. -/
  | stlLone (d a : Reg) (sz : Size) (sc : Scope) (e : W32)
  /-- `PREF` (R273): Hint that brings a line into the L1, dropped in the listed cases and never trapping. -/
  | pref (a : Reg) (p : BitVec 9)
  /-- `PREF_LONE` (R273): Lone PREF with a byte displacement in E. -/
  | prefLone (a : Reg) (e : W32)
  /-- `LDW` (R274): Waits for the word to be full and reads it, as an acquire. -/
  | ldw (d a : Reg) (sc : Scope) (p : BitVec 9)
  /-- `LDW_LONE` (R274): Lone LDW with a byte displacement in E. -/
  | ldwLone (d a : Reg) (sc : Scope) (e : W32)
  /-- `LDT` (R274): Waits for the word to be full, reads it and sets it empty, as an acquire. -/
  | ldt (d a : Reg) (sc : Scope) (p : BitVec 9)
  /-- `LDT_LONE` (R274): Lone LDT with a byte displacement in E. -/
  | ldtLone (d a : Reg) (sc : Scope) (e : W32)
  /-- `STP` (R274): Waits for the word to be empty, writes gd and sets it full, as a release. -/
  | stp (d a : Reg) (sc : Scope) (p : BitVec 9)
  /-- `STP_LONE` (R274): Lone STP with a byte displacement in E. -/
  | stpLone (d a : Reg) (sc : Scope) (e : W32)
  /-- `STF` (R274): Writes gd and sets the word full regardless of state, as a release. -/
  | stf (d a : Reg) (sc : Scope) (p : BitVec 9)
  /-- `STF_LONE` (R274): Lone STF with a byte displacement in E. -/
  | stfLone (d a : Reg) (sc : Scope) (e : W32)
  /-- `EMP` (R274): Sets the word empty without changing its data. -/
  | emp (a : Reg) (p : BitVec 9)
  /-- `EMP_LONE` (R274): Lone EMP with a byte displacement in E. -/
  | empLone (a : Reg) (e : W32)
  /-- `FEQ` (R274): Returns the word's full/empty bit in gd. -/
  | feq (d a : Reg) (p : BitVec 9)
  /-- `FEQ_LONE` (R274): Lone FEQ with a byte displacement in E. -/
  | feqLone (d a : Reg) (e : W32)
  /-- `LDWT` (R275): Single attempt of LDW that writes a status into g(d+1). -/
  | ldwt (d a : Reg) (sc : Scope) (p : BitVec 9)
  /-- `LDWT_LONE` (R275): Lone LDWT with a byte displacement in E. -/
  | ldwtLone (d a : Reg) (sc : Scope) (e : W32)
  /-- `LDTT` (R275): Single attempt of LDT that writes a status into g(d+1). -/
  | ldtt (d a : Reg) (sc : Scope) (p : BitVec 9)
  /-- `LDTT_LONE` (R275): Lone LDTT with a byte displacement in E. -/
  | ldttLone (d a : Reg) (sc : Scope) (e : W32)
  /-- `STPT` (R275): Single attempt of STP that writes a status into g(d+1). -/
  | stpt (d a : Reg) (sc : Scope) (p : BitVec 9)
  /-- `STPT_LONE` (R275): Lone STPT with a byte displacement in E. -/
  | stptLone (d a : Reg) (sc : Scope) (e : W32)
  /-- `AMO` (R280): Atomic read-modify-write returning the old value, optionally waiting for a full word. -/
  | amo (d a b : Reg) (op : AmoOp) (sc : Scope) (w fe : Bool)
  /-- `CAS` (R281): Compare-and-swap that returns the old value in gd. -/
  | cas (d a b : Reg) (sc : Scope) (w : Bool)
  /-- `RED` (R282): Atomic reduction into memory that returns nothing, including FP32 FADD. -/
  | red (a b : Reg) (op : RedOp) (sc : Scope) (w : Bool)
  /-- `FENCE_ORD` (R198): Waits until every earlier access is performed and orders it before every later access and packet at the scope. -/
  | fenceOrd (sc : Scope)
  /-- `SEND` (R318): Releases and sends a 1-8 word message to a port, retrying on refusal within the budget. -/
  | send (a b : Reg) (l : Fin 8)
  /-- `RECV` (R323): Reads one word of a message held at an input port of the firing's instance. -/
  | recv (d a : Reg) (p w : Fin 8)
  /-- `PCNT` (R323): Returns the messages held and the free words of an input port. -/
  | pcnt (d : Reg) (p : Fin 8)
  /-- `BAR` (R327): Arrives at a barrier level and waits for the phase to release. -/
  | bar (l : Level)
  /-- `BARA` (R327): Arrives at a barrier level without waiting. -/
  | bara (l : Level)
  /-- `BARW` (R327): Waits for the core's pending arrival at a barrier level to release. -/
  | barw (l : Level)
  /-- `RBC` (R416): Broadcasts an FP16 reward with a stamp to the arrays within the scope. -/
  | rbc (a b : Reg) (sc : Scope)
  /-- `RCLR` (R417): Broadcasts that no reward exists through a stamp, raising the targets' horizon. -/
  | rclr (b : Reg) (sc : Scope)
  /-- `MIGR` (R297): Translates an address and migrates the firing to the core above its vault when permitted. -/
  | migr (a : Reg)
  /-- `PARK` (R278): Observes a word's full/empty bit and parks, stalls or traps until it differs from the expected state. -/
  | park (d a : Reg) (p : BitVec 9)
  /-- `PARK_LONE` (R278): Lone PARK with a byte displacement in E. -/
  | parkLone (d a : Reg) (e : W32)
  /-- `TARM` (R279): Arms every transient block of the addressed page with a new deadline. -/
  | tarm (a : Reg) (p : BitVec 9)
  /-- `TARM_LONE` (R279): Lone TARM with a byte displacement in E. -/
  | tarmLone (a : Reg) (e : W32)
  /-- `CPY` (R331): Issues a one-dimensional copy of words with a full/empty treatment and an optional completion word. -/
  | cpy (d a b c w : Reg) (mode : CopyMode) (sc : Scope)
  /-- `CPY2` (R331): Issues a two-dimensional copy of elements, optionally transposing. -/
  | cpy2 (d a b c w st : Reg) (mode : CopyMode) (sc : Scope) (esz : Size) (tr : Bool)
  /-- `CPYW` (R336): Waits for the attached copies named in its mask and traps if one stopped. -/
  | cpyw (mask : BitVec 8)
  /-- `RCFG` (R340): Configures or unconfigures a ring's base and slot parameters. -/
  | rcfg (h : RingNo) (a b : Reg)
  /-- `RPUSH` (R341): Pushes the tail slot of a local or remote ring as filled, as a release. -/
  | rpush (h : RingNo) (remote : Bool) (a : Reg)
  /-- `RPOP` (R342): Pops the head slot of a ring and returns its address, or the empty marker. -/
  | rpop (h : RingNo) (d : Reg)
  /-- `RWAIT` (R344): Holds until a ring has enough filled or free slots, or is idle. -/
  | rwait (h : RingNo) (n : BitVec 6) (cond : RingCond)
  /-- `RFREE` (R343): Frees the oldest held slots of a ring, emptying their words in FE mode. -/
  | rfree (h : RingNo) (n : BitVec 6)
  /-- `RQ` (R344): Returns a selected part of a ring's state. -/
  | rq (h : RingNo) (d : Reg) (sel : Fin 5)
  /-- `MFOLD` (R353): Joins or issues a gang or solo fold operation adding A times B into an accumulator. -/
  | mfold (acc : Acc) (fmt : FoldFmt) (home : Fin 4) (ra rb : RingNo) (solo pin : Bool) (nkm1 : BitVec 8)
  /-- `MZERO` (R366): Queues the clearing of an accumulator. -/
  | mzero (acc : Acc)
  /-- `MNAR` (R368): Queues the narrowing of an accumulator to memory or to array rows. -/
  | mnar (acc : Acc) (fmt : NarFmt) (rm : Rm) (a b c : Reg) (arr : Option (BitVec 9))
  /-- `MWID` (R367): Queues the widening of memory elements into an accumulator. -/
  | mwid (acc : Acc) (fmt : WidFmt) (a b : Reg)
  /-- `MREC` (R369): Waits for operations on an accumulator and returns the latest fold record. -/
  | mrec (acc : Acc) (d : Reg)
  /-- `MWAIT` (R370): Waits for queued operations on the masked accumulators and traps on their failures. -/
  | mwait (mask : BitVec 4)
  /-- `MQ` (R371): Returns the fold member set, active sets, fenced layers and queue occupancy. -/
  | mq (d : Reg)
  /-- `ACMP` (R388): Compares an array field with a key in selected rows and combines the result into a tag. -/
  | acmp (dt : Tag) (mask : Option Tag) (op : TagOp) (key : KeySrc) (f : Field)
  /-- `AWRT` (R389): Writes an immediate value into a field of every selected row. -/
  | awrt (mask : Option Tag) (f : Field) (v : BitVec 17)
  /-- `ASEQ` (R397): Runs a built-in arithmetic sequence over selected rows, pass by pass. -/
  | aseq (code : SeqCode) (mask : Option Tag) (dt : Tag) (s : Reg) (w1m1 w2m1 : BitVec 4) (doff aoff boff : BitVec 9)
  /-- `AUSQ` (R401): Runs user pass words from the sequence store with given field bases. -/
  | ausq (start : BitVec 8) (doff aoff boff : BitVec 9)
  /-- `ABND` (R390): Sets a tag in every row whose index lies below ga minus gb. -/
  | abnd (dt : Tag) (a b : Reg)
  /-- `ATAG` (R391): Combines two tags of every row with a four-bit function. -/
  | atag (dt ta tb : Tag) (fn : BitVec 4)
  /-- `ACNT` (R392): Counts the rows whose tag is set. -/
  | acnt (d : Reg) (ta : Tag)
  /-- `AFST` (R392): Returns the lowest tagged row, optionally clearing its tag. -/
  | afst (d : Reg) (ta : Tag) (clr : Bool)
  /-- `ARSUM` (R393): Sums a field over the selected rows. -/
  | arsum (d : Reg) (mask : Option Tag) (sg : Bool) (f : Field)
  /-- `ARD` (R394): Reads a field of one row into gd. -/
  | ard (d a : Reg) (sg : Bool) (f : Field)
  /-- `AWR` (R394): Writes gb into a field of one row. -/
  | awr (a b : Reg) (f : Field)
  /-- `ASCW` (R389): Writes a register value into a field of every selected row. -/
  | ascw (mask : Option Tag) (a : Reg) (f : Field)
  /-- `ASQL` (R399): Loads the 256-word sequence store from memory through a shadow copy. -/
  | asql (a : Reg)
  /-- `ARWS` (R395): Returns the array's row count. -/
  | arws (d : Reg)
  /-- `ATRC` (R412): Checks the stamp, waits for the horizon, and advances every plastic row's trace. -/
  | atrc (s : Reg)
  /-- `ARWD` (R421): Applies a reward to this array at once without stamps. -/
  | arwd (a : Reg)
  /-- `MFC` (R285): Reads a control register into gd. -/
  | mfc (d : Reg) (n : BitVec 14)
  /-- `MTC` (R285): Writes ga into a control register for later bundles. -/
  | mtc (a : Reg) (n : BitVec 14)
  /-- `RESUME` (R298): Checks an FCR, releases at pkg scope and ships it as a resume entry to a core of its quad. -/
  | resume (a b : Reg)
  /-- `TLBW` (R299): Service instruction that installs a translation entry in a core's TLBs. -/
  | tlbw (d a b : Reg)
  /-- `TLBI` (R299): Service instruction that invalidates selected entries in the layer's TLBs. -/
  | tlbi (a : Reg)
  /-- `TLBS` (R299): Service instruction that performs a package shoot-down. -/
  | tlbs (a : Reg)
  /-- `ADD` (R253): Writes ga plus gb modulo 2^64. -/
  | add (d a b : Reg)
  /-- `SUB` (R253): Writes ga minus gb modulo 2^64. -/
  | sub (d a b : Reg)
  /-- `MUL` (R253): Writes the low 64 bits of the product. -/
  | mul (d a b : Reg)
  /-- `MULH` (R253): Writes the high 64 bits of the signed product. -/
  | mulh (d a b : Reg)
  /-- `MULHN` (R253): Writes the high 64 bits of the natural product. -/
  | mulhn (d a b : Reg)
  /-- `DIV` (R254): Signed division truncated towards zero, with defined zero-divisor and overflow results. -/
  | div (d a b : Reg)
  /-- `DIVN` (R254): Natural division, all ones for a zero divisor. -/
  | divn (d a b : Reg)
  /-- `REM` (R254): Signed remainder carrying the dividend's sign. -/
  | rem (d a b : Reg)
  /-- `REMN` (R254): Natural remainder, the dividend for a zero divisor. -/
  | remn (d a b : Reg)
  /-- `AND` (R253): Bitwise and. -/
  | andR (d a b : Reg)
  /-- `OR` (R253): Bitwise or. -/
  | orR (d a b : Reg)
  /-- `XOR` (R253): Bitwise exclusive or. -/
  | xorR (d a b : Reg)
  /-- `ANDN` (R253): ga and not gb. -/
  | andn (d a b : Reg)
  /-- `ORN` (R253): ga or not gb. -/
  | orn (d a b : Reg)
  /-- `SHL` (R253): Shift left by gb mod 64. -/
  | shl (d a b : Reg)
  /-- `SHR` (R253): Logical shift right by gb mod 64. -/
  | shr (d a b : Reg)
  /-- `SAR` (R253): Arithmetic shift right by gb mod 64. -/
  | sar (d a b : Reg)
  /-- `ROL` (R253): Rotate left by gb mod 64. -/
  | rol (d a b : Reg)
  /-- `MIN` (R253): Signed minimum. -/
  | minR (d a b : Reg)
  /-- `MAX` (R253): Signed maximum. -/
  | maxR (d a b : Reg)
  /-- `MINN` (R253): Natural minimum. -/
  | minn (d a b : Reg)
  /-- `MAXN` (R253): Natural maximum. -/
  | maxn (d a b : Reg)
  /-- `CEQ` (R253): Writes 1 when ga equals gb, else 0. -/
  | ceq (d a b : Reg)
  /-- `CNE` (R253): Writes 1 when ga differs from gb, else 0. -/
  | cne (d a b : Reg)
  /-- `CLT` (R253): Signed less-than compare. -/
  | clt (d a b : Reg)
  /-- `CLE` (R253): Signed less-or-equal compare. -/
  | cle (d a b : Reg)
  /-- `CLTN` (R253): Natural less-than compare. -/
  | cltn (d a b : Reg)
  /-- `CLEN` (R253): Natural less-or-equal compare. -/
  | clen (d a b : Reg)
  /-- `SEL` (R253): Writes ga when gd is nonzero and gb otherwise. -/
  | sel (d a b : Reg)
  /-- `CLZ` (R253): Counts leading zero bits. -/
  | clz (d a : Reg)
  /-- `CTZ` (R253): Counts trailing zero bits. -/
  | ctz (d a : Reg)
  /-- `POPC` (R253): Counts one bits. -/
  | popc (d a : Reg)
  /-- `SXB` (R253): Sign-extends bits 7:0. -/
  | sxb (d a : Reg)
  /-- `SXH` (R253): Sign-extends bits 15:0. -/
  | sxh (d a : Reg)
  /-- `SXW` (R253): Sign-extends bits 31:0. -/
  | sxw (d a : Reg)
  /-- `ZXB` (R253): Zero-extends bits 7:0. -/
  | zxb (d a : Reg)
  /-- `ZXH` (R253): Zero-extends bits 15:0. -/
  | zxh (d a : Reg)
  /-- `ZXW` (R253): Zero-extends bits 31:0. -/
  | zxw (d a : Reg)
  /-- `ADDW` (R253): 32-bit add, sign-extended. -/
  | addw (d a b : Reg)
  /-- `SUBW` (R253): 32-bit subtract, sign-extended. -/
  | subw (d a b : Reg)
  /-- `MULW` (R253): 32-bit multiply, sign-extended. -/
  | mulw (d a b : Reg)
  /-- `BEXT` (R256): Extracts a bit field of ga, zero-extended. -/
  | bext (d a : Reg) (pos len : BitVec 6)
  /-- `BINS` (R256): Inserts low bits of ga into a field of gd. -/
  | bins (d a : Reg) (pos len : BitVec 6)
  /-- `BSWP` (R253): Reverses the bytes of ga. -/
  | bswp (d a : Reg)
  /-- `ADDI` (R255): Adds the sign-extended immediate. -/
  | addi (d a : Reg) (i : BitVec 14)
  /-- `ANDI` (R255): Ands with the sign-extended immediate. -/
  | andi (d a : Reg) (i : BitVec 14)
  /-- `ORI` (R255): Ors with the sign-extended immediate. -/
  | ori (d a : Reg) (i : BitVec 14)
  /-- `XORI` (R255): Exclusive-ors with the sign-extended immediate. -/
  | xori (d a : Reg) (i : BitVec 14)
  /-- `SHLI` (R255): Shift left by an immediate amount. -/
  | shli (d a : Reg) (s : BitVec 6)
  /-- `SHRI` (R255): Logical shift right by an immediate amount. -/
  | shri (d a : Reg) (s : BitVec 6)
  /-- `SARI` (R255): Arithmetic shift right by an immediate amount. -/
  | sari (d a : Reg) (s : BitVec 6)
  /-- `CEQI` (R255): Writes 1 when ga equals the immediate. -/
  | ceqi (d a : Reg) (i : BitVec 14)
  /-- `CLTI` (R255): Signed less-than compare with the immediate. -/
  | clti (d a : Reg) (i : BitVec 14)
  /-- `CLTNI` (R255): Natural less-than compare with the sign-extended immediate. -/
  | cltni (d a : Reg) (i : BitVec 14)
  /-- `MOVI` (R255): Writes the sign-extended immediate. -/
  | movi (d : Reg) (i : BitVec 14)
  /-- `MOVHI` (R255): Writes the sign-extended immediate shifted left by 32. -/
  | movhi (d : Reg) (i : BitVec 14)
  /-- `FADD` (R258): FP32 addition rounded once. -/
  | fadd (d a b : Reg) (r : Rm)
  /-- `FSUB` (R258): FP32 subtraction rounded once. -/
  | fsub (d a b : Reg) (r : Rm)
  /-- `FMUL` (R258): FP32 multiplication rounded once. -/
  | fmul (d a b : Reg) (r : Rm)
  /-- `FMA` (R258): FP32 fused gd plus ga times gb. -/
  | fma (d a b : Reg) (r : Rm)
  /-- `FMS` (R258): FP32 fused gd minus ga times gb. -/
  | fms (d a b : Reg) (r : Rm)
  /-- `FDIV` (R258): FP32 division rounded once. -/
  | fdiv (d a b : Reg) (r : Rm)
  /-- `FSQRT` (R258): FP32 square root rounded once. -/
  | fsqrt (d a : Reg) (r : Rm)
  /-- `FMIN` (R259): FP32 minimum with −0 below +0. -/
  | fmin (d a b : Reg)
  /-- `FMAX` (R259): FP32 maximum with −0 below +0. -/
  | fmax (d a b : Reg)
  /-- `FCEQ` (R260): FP32 equality compare. -/
  | fceq (d a b : Reg)
  /-- `FCLT` (R260): FP32 less-than compare. -/
  | fclt (d a b : Reg)
  /-- `FCLE` (R260): FP32 less-or-equal compare. -/
  | fcle (d a b : Reg)
  /-- `FABS` (R261): Clears the FP32 sign bit. -/
  | fabs (d a : Reg)
  /-- `FNEG` (R261): Inverts the FP32 sign bit. -/
  | fneg (d a : Reg)
  /-- `FCPYS` (R261): Copies the sign of gb onto ga. -/
  | fcpys (d a b : Reg)
  /-- `CVTIF` (R264): Converts an integer to a floating-point format. -/
  | cvtif (d a : Reg) (src : IntTy) (dst : FpTy) (r : Rm)
  /-- `CVTFI` (R265): Converts a floating-point value to an integer, saturating with invalid. -/
  | cvtfi (d a : Reg) (src : FpTy) (dst : IntTy) (r : Rm)
  /-- `CVTFF` (R264): Converts between floating-point formats. -/
  | cvtff (d a : Reg) (p : FfPair) (r : Rm)
  /-- `PK2` (R266): Converts two FP32 values to a narrow format and packs them. -/
  | pk2 (d a : Reg) (f : NarrowFmt) (r : Rm)
  /-- `UNPK` (R266): Widens two packed narrow values to FP32. -/
  | unpk (d a : Reg) (f : NarrowFmt)
  /-- `SENSOR_SAMPLE` (R20): Every 1400 ticks a thermal sensor is sampled and its register updated. -/
  | sensorSample (j : Nat) (temp : BitVec 16)
  /-- `RAIL_RISE` (R71): Rails rise; the flash record decides between a restored status and a power-on, and stage 0 begins. -/
  | railRise (readable : Bool)
  /-- `STAGE_COMPLETE` (R74): A start stage finishes and the next stage begins, up to setting READY. -/
  | stageComplete (r : StageResult)
  /-- `DOE_FIRMWARE_IMAGE` (R78): In recovery mode a firmware image delivered over DOE is verified and written to flash. -/
  | doeFirmwareImage (slot : Bool) (img : FwImage)
  /-- `ALLOWANCE_WINDOW_BOUNDARY` (R373): At each 44,800-tick boundary every layer's allowance is set and usage cleared. -/
  | allowanceWindowBoundary (meas : BitVec 16)
  /-- `REGISTER_WRITE` (R48): A write to a package or link register without behaviour of its own stores the writable fields. -/
  | registerWrite (win : RegWin) (off : Nat) (v : Word)
  /-- `LANE_FAILING` (R31): A vertical lane's CRC error count exceeds its threshold and the lane is marked failing. -/
  | laneFailing (path lane : Nat)
  /-- `LANE_MARGIN_TEST` (R31): Once per second each idle path is margin tested, marking failing lanes. -/
  | laneMarginTest (path : Nat) (bad : List Nat)
  /-- `FLIT_RECEIVE` (R36): A span-link flit is received, checked, acknowledged and its returned ACK, NAK and slot credits applied. -/
  | flitReceive (l : Nat) (f : Flit)
  /-- `SPAN_ID_SET` (R38): Writing SET fixes the package id read-only until cold start. -/
  | spanIdSet (v : Word)
  /-- `REMOTE_ACCESS_ARRIVE` (R41): A remote access from another package is performed at the home base die and answered. -/
  | remoteAccessArrive (src : BitVec 12) (rid : Nat) (op : AccOp) (pa : Nat) (tr : Bool)
  /-- `REMOTE_MESSAGE_PRESENT` (R321): The receiving base die presents an arriving cross-package message to its port. -/
  | remoteMessagePresent (l : Nat) (p : Packet)
  /-- `HOST_APERTURE_READ` (R50): A host read through BAR 4 is performed coherently at sys scope. -/
  | hostApertureRead (l off : Nat) (rq : HostReq)
  /-- `HOST_APERTURE_WRITE` (R50): A host write through BAR 4 is performed coherently at sys scope. -/
  | hostApertureWrite (l off : Nat) (data : List Byte)
  /-- `HOST_FILL_WRITE` (R50): A host write to the FILL sub-window is an STF at sys scope after earlier posted writes. -/
  | hostFillWrite (l off : Nat) (data : List Byte)
  /-- `HOST_EMPTY_WRITE` (R50): A host write to the EMPTY sub-window is an EMP at sys scope. -/
  | hostEmptyWrite (l off : Nat) (data : List Byte)
  /-- `HOST_FILL_READ` (R50): A host read of the FILL sub-window returns the word as an ordinary load. -/
  | hostFillRead (l off : Nat)
  /-- `HOST_STATE_READ` (R50): A host read of the STATE sub-window returns the word's full/empty bit. -/
  | hostStateRead (l off : Nat)
  /-- `QCTL_WRITE` (R53): A write to QCTL sets the queue's enable, clearing COUNT when EN rises. -/
  | qctlWrite (l q : Nat) (v : Word)
  /-- `CANCEL` (R67): Writing a launch id ends that launch with CANCELLED. -/
  | cancel (l : Nat) (lid : W32)
  /-- `RECORD_ACCEPT` (R54): The master reads, validates and enters a filled launch record, empties the header and advances COUNT. -/
  | recordAccept (l q : Nat)
  /-- `PAGE_MOVE_REQUEST` (R68): The master accepts a host page-move request and sends it to the token home. -/
  | pageMoveRequest (l q : Nat)
  /-- `LAUNCH_START` (R96): A released launch starts when its cores are free, after descriptor checks, clearing, code load and priming. -/
  | launchStart (lid : W32)
  /-- `PREEMPT_SAVE` (R100): After the halt each held core's state is saved to its slot. -/
  | preemptSave (lid : W32)
  /-- `LAUNCH_RESUME` (R98): A pre-empted launch is restored on its cores when they are all free. -/
  | launchResume (lid : W32)
  /-- `LAUNCH_COMPLETE` (R63): A finished launch releases its cores and writes its record, CWORD and MSI-X. -/
  | launchComplete (lid : W32)
  /-- `CANCEL_CORES_FREED` (R432): Once every core of a cancelled launch has stopped its engine work the cores are freed and completion follows. -/
  | cancelCoresFreed (lid : W32)
  /-- `GRAIN_BLOCK_CLAIM` (R92): A layer distributor or tower master claims a block of grains from the level above. -/
  | grainBlockClaim (lid : W32) (level : GrainLevel)
  /-- `GRAIN_REPORT_BATCH` (R93): Waiting grain reports move up a level when their count or age limit is reached. -/
  | grainReportBatch (lid : W32) (level : GrainLevel)
  /-- `TOKEN_REQUEST` (R146): A request arrives at a migration token's home, is stamped and wins or loses the token. -/
  | tokenRequest (rq : TokenReq)
  /-- `TRANSLATION_REQUEST` (R138): A quad TLB miss sends a request to a translation service core. -/
  | translationRequest (c : Nat) (p : Prio) (va : Word)
  /-- `SCRUB_READ` (R164): The patrol scrubber reads and corrects a block in an idle bank tick. -/
  | scrubRead (layer blk : Nat) (r : ScrubResult) (last : Bool)
  /-- `SCRUB_FORCED` (R164): A bank with no idle tick for 4096 ticks gives the scrubber one access. -/
  | scrubForced (b blk : Nat) (r : ScrubResult)
  /-- `BARRIER_RELEASE` (R327): A barrier phase releases at every member at its completion plus latency. -/
  | barrierRelease (l : Level) (lid : W32) (grp : Nat)
  /-- `BARPH_WITHDRAW` (R325): Writing a WD bit withdraws a pending barrier arrival. -/
  | barphWithdraw (c : Nat) (v : Word)
  /-- `POD_BARRIER_TOKEN` (R324): A pod barrier token arrives over a span link and counts toward the pod phase. -/
  | podBarrierToken (src : BitVec 12) (lid : W32)
  /-- `ASTEP_WRITE` (R417): An MTC to %astep may make held rewards due and mark them late. -/
  | astepWrite (c : Nat) (v : Word)
  /-- `AFLD_WRITE` (R405): An MTC to %afld is stored only when the five fields fit and are disjoint. -/
  | afldWrite (c : Nat) (v : Word)
  /-- `PCIE_LINK_DOWN` (R63): A PCIe link leaves the up state, or later returns to it, which decides whether a completion's MSI-X message can be sent on it. -/
  | pcieLinkDown (l : Nat) (up : Bool)
  /-- `MESSAGE_ANSWER_ARRIVE` (R318): The ACCEPT, REFUSE or INVALID answer to a SEND, a remote push or a reward broadcast reaches the source core D ticks after the destination answered, issuing the bundle, starting the 16-tick retry wait or trapping PROT. -/
  | messageAnswerArrive (c : Nat) (p : Prio) (a : MsgAnswer)
  /-- `NOP_C` (R242): Word C no-operation; changes no state. -/
  | nopC
  /-- `END` (R312): Ends the firing after its A word and the waits of R200 and R251, consuming IRATE messages per input port and checking rates for strict actors. -/
  | endFiring
  /-- `FENCE_R` (R198): Waits until every earlier remote store of the firing is acknowledged. -/
  | fenceR
  /-- `FENCE_A` (R198): Orders earlier vault accesses through either window before later vault accesses. -/
  | fenceA
  /-- `FENCE_E` (R198): Waits until the firing's engine commands and pending reward operations have completed. -/
  | fenceE
  /-- `LTRIG` (R296): Releases at pkg scope and adds one to the launch's trigger total once per instance mark. -/
  | ltrig
  /-- `SEAL` (R294): Executing the SEAL bundle traps SEAL. -/
  | seal
  /-- `NOP_A` (R242): Word A no-operation. -/
  | nopA
  /-- `SELF_RAIL_REMOVAL` (R71): After the flash record write completes the package removes its own rails. -/
  | selfRailRemoval
  /-- `STAGE_TIMEOUT` (R74): A start stage exceeds its limit and the start fails with STAGE_TIME. -/
  | stageTimeout
  /-- `START_RETRY` (R76): One second after a failed start the package starts cold again, in recovery mode at three attempts. -/
  | startRetry
  /-- `START_CTL_COLD` (R72): A COLD write records the flash record and starts cold, clearing recovery mode. -/
  | startCtlCold
  /-- `START_CTL_WARM` (R77): A WARM write discards firings and launches and runs stages 2 and 5. -/
  | startCtlWarm
  /-- `DOE_ATTESTATION_REQUEST` (R80): An attestation request is signed with the next identity index or refused. -/
  | doeAttestationRequest
  /-- `ALLOWANCE_OVERRUN` (R375): A layer's fold usage reaches its budget, setting OVER and making it inactive for later starts. -/
  | allowanceOverrun
  /-- `LANE_SPARE_SWAP` (R32): Once the path has drained a spare lane is swapped in and trained. -/
  | laneSpareSwap
  /-- `LANE_REPAIR_RELEASE` (R32): After training the path is released and waiting transactions proceed. -/
  | laneRepairRelease
  /-- `MASTER_ELECTION_DONE` (R82): After a fence the rerun election completes and the new masters take up their roles. -/
  | masterElectionDone
  /-- `LINK_RETRAIN_DONE` (R37): Retraining ends and the replay buffer is resent first. -/
  | linkRetrainDone
  /-- `LINK_DOWN` (R40): A link goes down; DOWN is set and unacknowledged packets are held. -/
  | linkDown
  /-- `LINK_RESEND` (R40): Writing RESEND sends the held packets over the new ordered routes. -/
  | linkResend
  /-- `REMOTE_WAKE_NOTICE` (R42): A fill of a remotely watched word sends a wake notice to the parked firing's tower. -/
  | remoteWakeNotice
  /-- `OUTBOUND_QUEUE_SEND` (R321): The base die sends the next queued cross-package message when an ordered receive slot is free. -/
  | outboundQueueSend
  /-- `REMOTE_PRESENT_RETRY` (R321): A refused cross-package message is presented again 16 ticks later. -/
  | remotePresentRetry
  /-- `FUNCTION_LEVEL_RESET` (R46): An FLR of a link disables its queues, cancels its launches and resets its registers. -/
  | functionLevelReset
  /-- `START_MESSAGE_ARRIVE` (R108): A start message reaches a core, making its NIN = 0 instances ready. -/
  | startMessageArrive
  /-- `GRAIN_CLAIM` (R92): A core with no grain firing claims one grain from its layer distributor. -/
  | grainClaim
  /-- `SHOOTDOWN_ARRIVE` (R141): A shoot-down reaches a core, which invalidates entries and acknowledges after its accesses are performed. -/
  | shootdownArrive
  /-- `SHOOTDOWN_COMPLETE` (R141): All acknowledgements reach the issuer and the shoot-down completes. -/
  | shootdownComplete
  /-- `ENTRY_START` (R110): At a bundle boundary the core chooses a firing to issue or an entry to start. -/
  | entryStart
  /-- `MESSAGE_ARRIVE` (R319): A message reaches a destination core and is accepted, refused or declared invalid. -/
  | messageArrive
  /-- `SEND_RETRY` (R318): A refused SEND or push attempt is sent again 16 ticks after the answer. -/
  | sendRetry
  /-- `FCR_DELIVER` (R123): When the fault actor's port 0 has 64 free words the first waiting FCR is reserved and appended. -/
  | fcrDeliver
  /-- `HOLD_BUFFER_OFFER` (R123): Every 64 ticks a core offers its held FCR to the park-table set again. -/
  | holdBufferOffer
  /-- `FE_ATTEMPT` (R178): A waiting F/E operation makes its next attempt when the retry interval elapses. -/
  | feAttempt
  /-- `WAKE_APPEND` (R184): A woken FCR is appended as a resume entry to its origin core's low FIFO after the wake delay. -/
  | wakeAppend
  /-- `TRANSIENT_EXPIRY` (R188): At a block's deadline its full words become empty and its parked entries are woken. -/
  | transientExpiry
  /-- `MIGRATION_DEPART` (R117): Once its messages are accepted a migrating firing writes its FCR and ships it to the target core. -/
  | migrationDepart
  /-- `FCR_ARRIVE` (R118): A migrated or resumed FCR reaches its core, is checked and becomes a resume entry. -/
  | fcrArrive
  /-- `RESUME_ENTRY_DUE` (R109): A due resume entry is appended when its FIFO falls below 448 entries. -/
  | resumeEntryDue
  /-- `WATCHDOG_EXPIRY` (R122): A firing's unresolved-operation count reaches the limit and it traps WATCHDOG. -/
  | watchdogExpiry
  /-- `CORE_SLEEP` (R142): A core idle for 4096 ticks sleeps. -/
  | coreSleep
  /-- `CORE_WAKE` (R215): A sleeping core wakes on an append and flushes its L1 TLB. -/
  | coreWake
  /-- `ACCESS_ARRIVE` (R435): An access is performed at its executing agent in its arrival tick. -/
  | accessArrive
  /-- `LOAD_RETURN` (R211): A load's data returns and is written into its register. -/
  | loadReturn
  /-- `STORE_ACK` (R435): A store's acknowledgement reaches the issuing core. -/
  | storeAck
  /-- `REFRESH_OP` (R163): A vault bank starts a 40-tick refresh operation at its spacing. -/
  | refreshOp
  /-- `REFRESH_OP_END` (R163): A refresh operation ends and waiting accesses proceed. -/
  | refreshOpEnd
  /-- `COPY_DATA_PHASE` (R332): After the last FE.ARRIVE empty is acknowledged the copy's data phase starts. -/
  | copyDataPhase
  /-- `COPY_COMPLETION_FILL` (R334): When all copy writes are acknowledged or the copy stops, its completion value is filled. -/
  | copyCompletionFill
  /-- `RING_PUSH_ARRIVE` (R341): A remote push reaches a ring's core and is accepted, refused or invalid. -/
  | ringPushArrive
  /-- `RING_SLOT_FREED` (R343): A pending slot becomes free when its last empty is performed. -/
  | ringSlotFreed
  /-- `BARRIER_TIMEOUT` (R328): A barrier hold exceeds %barb and the firing traps BAR_TIMEOUT. -/
  | barrierTimeout
  /-- `SLEEP_EXPIRY` (R293): A SLEEP's count runs out and its bundle issues. -/
  | sleepExpiry
  /-- `FOLD_JOIN_COMPLETE` (R353): The gang join completes and its parameters are compared. -/
  | foldJoinComplete
  /-- `FOLD_OP_START` (R354): A fold operation heading every member queue starts, latching the active set. -/
  | foldOpStart
  /-- `FOLD_ROUND_END` (R358): A fold round ends, its partials are added, slots freed and trips or fences applied. -/
  | foldRoundEnd
  /-- `FOLD_OP_COMPLETE` (R358): A fold operation's last round ends and its record is written. -/
  | foldOpComplete
  /-- `ACC_OP_COMPLETE` (R368): An MZERO, MWID or MNAR completes or stops. -/
  | accOpComplete
  /-- `REWARD_BROADCAST_ARRIVE` (R417): A reward or clear broadcast reaches an array and is accepted or refused. -/
  | rewardBroadcastArrive
  /-- `BROADCAST_RETRY` (R416): A refused broadcast is resent to the array 16 ticks later. -/
  | broadcastRetry
  /-- `REWARD_APPLY_START` (R419): A due reward application starts when the array is free. -/
  | rewardApplyStart
  /-- `REWARD_APPLY_DONE` (R418): A reward application's 2000 passes finish, updating weights and flags. -/
  | rewardApplyDone
  /-- `BOARD_RAIL_REMOVAL` (R71): The board removes the rails without the package having recorded it, so the next start is a power-on. -/
  | boardRailRemoval
  /-- `ARRAY_LAST_PASS` (R386): A multi-pass array instruction (ASEQ, AUSQ, ARSUM, ACNT, ATRC, ARWD) makes its last pass, issues its bundle, writes its result or %astep, and frees the array for waiting window accesses and due applications. -/
  | arrayLastPass
deriving DecidableEq, Repr

end Sys2Proof
end

