-- ==== Sys2Proof/WellFormed.lean ====
section
/-!
DEFINITION. Which terms of `Instr` are instructions of the device: the limits that R238, R239 and the engine chapters set
beyond what the constructors' own types say, and the index ranges of events.
-/
namespace Sys2Proof

/-- A field that fits the row (R384). -/
def Field.fits (f : Field) : Bool := decide (f.off.toNat + f.wm1.toNat + 1 ≤ 512)

/-- Whether a sequence has a destination field d (R397). -/
def SeqCode.usesD : SeqCode → Bool
  | .clt | .ceq | .cltn => false
  | _ => true
/-- Whether a sequence has a field a (R397). -/
def SeqCode.usesA : SeqCode → Bool
  | .adds | .subs => false
  | _ => true
/-- Whether a sequence has a field b (R397). -/
def SeqCode.usesB : SeqCode → Bool
  | .muln | .muli | .clt | .ceq | .cltn | .f16add | .f16mul => true
  | _ => false
/-- Whether a sequence reads a scalar register (R397). -/
def SeqCode.usesS : SeqCode → Bool
  | .adds | .subs | .muls | .shr | .sar | .shl | .f16muls => true
  | _ => false
/-- Whether a sequence has a second width (R397). -/
def SeqCode.usesW2 : SeqCode → Bool
  | .muln | .muli | .muls | .satn => true
  | _ => false
/-- The FP16 sequences, which use the scratch field (R398). -/
def SeqCode.fp16 : SeqCode → Bool
  | .f16add | .f16mul | .f16muls | .f16fri | .f16toi => true
  | _ => false

/-- Width of d (R397). -/
def SeqCode.wd (c : SeqCode) (w1 w2 : Nat) : Nat :=
  match c with
  | .muln | .muli | .muls => w1 + w2
  | .satn => w2
  | .clt | .ceq | .cltn => 0
  | .f16add | .f16mul | .f16muls | .f16fri => 16
  | _ => w1
/-- Width of a (R397). -/
def SeqCode.wa (c : SeqCode) (w1 : Nat) : Nat :=
  match c with
  | .adds | .subs => 0
  | .f16toi => 16
  | _ => w1
/-- Width of b (R397). -/
def SeqCode.wb (c : SeqCode) (w1 w2 : Nat) : Nat :=
  match c with
  | .muln | .muli => w2
  | .clt | .ceq | .cltn => w1
  | .f16add | .f16mul => 16
  | _ => 0
/-- Limits of the widths (R397). -/
def SeqCode.widthsOk (c : SeqCode) (w1 w2 : Nat) : Bool :=
  match c with
  | .muln | .muli | .muls => decide (w1 + w2 ≤ 32)
  | .satn => decide (w2 ≤ w1)
  | .f16add | .f16mul | .f16muls => decide (w1 = 16)
  | _ => true

/-- Two fields have no bit in common; a field of width 0 has none. -/
def disjoint (o1 w1 o2 w2 : Nat) : Bool := decide (w1 = 0 ∨ w2 = 0 ∨ o1 + w1 ≤ o2 ∨ o2 + w2 ≤ o1)

/-- Limits of ASEQ (R396). -/
def aseqWf (code : SeqCode) (mask : Option Tag) (dt : Tag) (s : Reg) (w1m1 w2m1 : BitVec 4) (doff aoff boff : BitVec 9) : Bool :=
  let w1 := w1m1.toNat + 1
  let w2 := if code.usesW2 then w2m1.toNat + 1 else 0
  let wd := code.wd w1 w2
  let wa := code.wa w1
  let wb := code.wb w1 w2
  let d := doff.toNat
  let a := aoff.toNat
  let b := boff.toNat
  let sc := if code.fp16 then 32 else 0
  (mask != some dt) && code.widthsOk w1 w2 &&
  (code.usesD || d == 0) && (code.usesA || a == 0) && (code.usesB || b == 0) && (code.usesS || s.val == 0) &&
  (code.usesW2 || w2m1.toNat == 0) &&
  decide (d + wd ≤ 512) && decide (a + wa ≤ 512) && decide (b + wb ≤ 512) &&
  (!code.fp16 || decide (d + 48 ≤ 512)) &&
  (disjoint d wd a wa || (d == a && wd == wa)) && (disjoint d wd b wb || (d == b && wd == wb)) &&
  (disjoint (d + 16) sc a wa || (d + 16 == a && sc == wa)) && (disjoint (d + 16) sc b wb || (d + 16 == b && sc == wb))

/-- Width in bits of an element MNAR writes (R365). -/
def NarFmt.width : NarFmt → Nat
  | .fp32 | .i32 => 32
  | .fp16 | .bf16 => 16
  | .e4m3 | .e5m2 | .dxb8 | .i8 => 8
  | .dxb6 => 6
  | .dxb4 => 4
/-- The dual-exponent formats of MNAR. -/
def NarFmt.isDxb : NarFmt → Bool
  | .dxb8 | .dxb6 | .dxb4 => true
  | _ => false
/-- The formats in which MNAR names a rounding (R365). -/
def NarFmt.rounds : NarFmt → Bool
  | .fp16 | .bf16 | .e4m3 | .e5m2 => true
  | _ => false

/-- Limits of MNAR (R365). -/
def mnarWf (fmt : NarFmt) (rm : Rm) (b c : Reg) (arr : Option (BitVec 9)) : Bool :=
  (fmt.rounds || rm == .rne) && (fmt.isDxb || c.val == 0) &&
  (match arr with
   | none => true
   | some o => !fmt.isDxb && b.val == 0 && decide (o.toNat + fmt.width ≤ 512))

/-- Control register numbers below 0x100 that R286 assigns; 0x100 and above are legal in the encoding (R238). -/
def ctlAssigned (n : BitVec 14) : Bool :=
  let k := n.toNat
  decide (k ≤ 0x00B) || (0x010 ≤ k && k ≤ 0x017) || k == 0x020 || k == 0x021 || (0x030 ≤ k && k ≤ 0x037) ||
  (0x040 ≤ k && k ≤ 0x04A) || decide (0x100 ≤ k)

/-- Compute cores 0 to 8191 and service cores up to 8319. -/
def coreOk (c : Nat) : Bool := decide (c < 8320)

/-- A well-formed instruction or event. -/
def Instr.wf : Instr → Bool
  | .amo _ _ _ _ _ w fe => w || !fe
  | .red _ _ op _ w => (match op with | .int o => o != .swap | .fadd _ => !w)
  | .send _ b l => decide (b.val + l.val ≤ 31)
  | .rbc _ _ sc | .rclr _ sc => sc != .sys
  | .cpy2 _ _ _ _ _ _ mode _ esz tr => !(tr && mode == .copy && esz != .d)
  | .rpush _ remote a => remote || a.val == 0
  | .rwait _ n cond => cond != .idle || n.toNat == 0
  | .mfold _ _ home ra rb solo _ _ => ra != rb && (!solo || home.val == 0)
  | .mnar _ fmt rm _ b c arr => mnarWf fmt rm b c arr
  | .acmp _ _ _ _ f | .awrt _ f _ | .ard _ _ _ f | .awr _ _ f | .ascw _ _ f => f.fits
  | .arsum _ _ _ f => f.fits && decide (f.wm1.toNat < 48)
  | .aseq code mask dt s w1 w2 d a b => aseqWf code mask dt s w1 w2 d a b
  | .mfc _ n | .mtc _ n => ctlAssigned n
  | .sensorSample j _ => decide (j < 84)
  | .flitReceive l _ | .remoteMessagePresent l _ => decide (l < 16)
  | .hostApertureRead l _ _ | .hostApertureWrite l _ _ | .hostFillWrite l _ _ | .hostEmptyWrite l _ _
  | .hostFillRead l _ | .hostStateRead l _ | .cancel l _ | .pcieLinkDown l _ => decide (l < 2)
  | .qctlWrite l q _ | .recordAccept l q | .pageMoveRequest l q => decide (l < 2) && decide (q < 8)
  | .astepWrite c _ | .afldWrite c _ | .barphWithdraw c _ => coreOk c
  | _ => true

end Sys2Proof
end

