-- ==== Sys2Proof/Decode.lean ====
section
/-!
DEFINITION. From the 64 bits of a bundle to its two instructions, and back (13_instruction_formats R235 to R246 and the
encoding tables of the engine chapters). Decoding is total: a pattern that is no bundle is rejected by the name of the
first item of R243 that it fails.
-/
namespace Sys2Proof

/-! ### Bit fields of a word read as a number -/

/-- Bits `lo + n - 1` down to `lo`. -/
def fld (w lo n : Nat) : Nat := w / 2 ^ lo % 2 ^ n
/-- A register field. -/
def reg (w lo : Nat) : Reg := ⟨w / 2 ^ lo % 32, Nat.mod_lt _ (by decide)⟩
/-- A one-bit field. -/
def flag (w lo : Nat) : Bool := decide (w / 2 ^ lo % 2 = 1)
/-- A one-bit field as a number. -/
def bit (b : Bool) : Nat := if b then 1 else 0
/-- An immediate, displacement or target field of `n` bits. -/
def bv (n w lo : Nat) : BitVec n := BitVec.ofNat n (w / 2 ^ lo)
/-- A three-bit field. -/
def fin8 (w lo : Nat) : Fin 8 := ⟨w / 2 ^ lo % 8, Nat.mod_lt _ (by decide)⟩
/-- A two-bit field. -/
def fin4 (w lo : Nat) : Fin 4 := ⟨w / 2 ^ lo % 4, Nat.mod_lt _ (by decide)⟩
/-- The selector of RQ; 5 to 7 are illegal (R339). -/
def sel5? (n : Nat) : Option (Fin 5) := if h : n < 5 then some ⟨n, h⟩ else none
/-- A row mask: MU selects every row (R385). -/
def mask (w mu mt : Nat) : Option Tag := if flag w mu then none else some (fin8 w mt)
/-- MU of a mask. -/
def maskMu : Option Tag → Nat | none => 1 | some _ => 0
/-- MT of a mask, zero with MU = 1. -/
def maskMt : Option Tag → Nat | none => 0 | some t => t.val
/-- The key of ACMP (R388). -/
def key (w e : Nat) : KeySrc := if flag w 14 then .reg (reg w 9) else .imm (bv 17 e 15)
/-- KR of a key. -/
def KeySrc.kr : KeySrc → Nat | .reg _ => 1 | .imm _ => 0
/-- The register field of a key. -/
def KeySrc.a : KeySrc → Nat | .reg a => a.val | .imm _ => 0
/-- The KEY field of a key. -/
def KeySrc.imm17 : KeySrc → Nat | .reg _ => 0 | .imm k => k.toNat
/-- An array field: OFF and WM1 of E (R384). -/
def afield (e : Nat) : Field := { off := bv 9 e 0, wm1 := bv 6 e 9 }
/-- MNAR's ARR and OFF (R365); OFF without ARR is illegal. -/
def arr? (e : Nat) : Option (Option (BitVec 9)) :=
  if flag e 0 then some (some (bv 9 e 1)) else if fld e 1 9 = 0 then some none else none
/-- ARR of MNAR. -/
def arrBit : Option (BitVec 9) → Nat | none => 0 | some _ => 1
/-- OFF of MNAR. -/
def arrOff : Option (BitVec 9) → Nat | none => 0 | some o => o.toNat

/-! ### Codes of the enumerations -/

/-- The code of each `Size` (R237). -/
def Size.code : Size → Nat
  | .b => 0
  | .h => 1
  | .w => 2
  | .d => 3
/-- `Size` of a code. -/
def Size.ofCode (n : Nat) : Size :=
  match n with
  | 0 => .b
  | 1 => .h
  | 2 => .w
  | _ => .d
/-- The code of each `Scope` (R237). -/
def Scope.code : Scope → Nat
  | .core => 0
  | .quad => 1
  | .layer => 2
  | .tower => 3
  | .pkg => 4
  | .pod => 5
  | .sys => 6
/-- `Scope` of a code; any other code is illegal. -/
def Scope.ofCode? (n : Nat) : Option Scope :=
  match n with
  | 0 => some .core
  | 1 => some .quad
  | 2 => some .layer
  | 3 => some .tower
  | 4 => some .pkg
  | 5 => some .pod
  | 6 => some .sys
  | _ => none
/-- The code of each `Rm` (R225). -/
def Rm.code : Rm → Nat
  | .rne => 0
  | .rtz => 1
  | .rdn => 2
  | .rup => 3
  | .dyn => 4
/-- `Rm` of a code; any other code is illegal. -/
def Rm.ofCode? (n : Nat) : Option Rm :=
  match n with
  | 0 => some .rne
  | 1 => some .rtz
  | 2 => some .rdn
  | 3 => some .rup
  | 4 => some .dyn
  | _ => none
/-- The code of each `AmoOp` (R239). -/
def AmoOp.code : AmoOp → Nat
  | .add => 0
  | .and => 1
  | .or => 2
  | .xor => 3
  | .min => 4
  | .max => 5
  | .minn => 6
  | .maxn => 7
  | .swap => 8
/-- `AmoOp` of a code; any other code is illegal. -/
def AmoOp.ofCode? (n : Nat) : Option AmoOp :=
  match n with
  | 0 => some .add
  | 1 => some .and
  | 2 => some .or
  | 3 => some .xor
  | 4 => some .min
  | 5 => some .max
  | 6 => some .minn
  | 7 => some .maxn
  | 8 => some .swap
  | _ => none
/-- The code of each `Level` (R239). -/
def Level.code : Level → Nat
  | .quad => 0
  | .row => 1
  | .col => 2
  | .layer => 3
  | .fold => 4
  | .tower => 5
  | .pkg => 6
  | .pod => 7
/-- `Level` of a code. -/
def Level.ofCode (n : Nat) : Level :=
  match n with
  | 0 => .quad
  | 1 => .row
  | 2 => .col
  | 3 => .layer
  | 4 => .fold
  | 5 => .tower
  | 6 => .pkg
  | _ => .pod
/-- The code of each `CopyMode` (R330). -/
def CopyMode.code : CopyMode → Nat
  | .copy => 0
  | .full => 1
  | .keep => 2
  | .arrive => 3
/-- `CopyMode` of a code. -/
def CopyMode.ofCode (n : Nat) : CopyMode :=
  match n with
  | 0 => .copy
  | 1 => .full
  | 2 => .keep
  | _ => .arrive
/-- The code of each `RingCond` (R339). -/
def RingCond.code : RingCond → Nat
  | .filled => 0
  | .free => 1
  | .idle => 2
/-- `RingCond` of a code; any other code is illegal. -/
def RingCond.ofCode? (n : Nat) : Option RingCond :=
  match n with
  | 0 => some .filled
  | 1 => some .free
  | 2 => some .idle
  | _ => none
/-- The code of each `FoldFmt` (R351). -/
def FoldFmt.code : FoldFmt → Nat
  | .fp16 => 0
  | .bf16 => 1
  | .e4m3 => 2
  | .e5m2 => 3
  | .int8 => 4
  | .dxb8 => 5
  | .dxb6 => 6
  | .dxb4 => 7
/-- `FoldFmt` of a code; any other code is illegal. -/
def FoldFmt.ofCode? (n : Nat) : Option FoldFmt :=
  match n with
  | 0 => some .fp16
  | 1 => some .bf16
  | 2 => some .e4m3
  | 3 => some .e5m2
  | 4 => some .int8
  | 5 => some .dxb8
  | 6 => some .dxb6
  | 7 => some .dxb4
  | _ => none
/-- The code of each `NarFmt` (R365). -/
def NarFmt.code : NarFmt → Nat
  | .fp32 => 0
  | .fp16 => 1
  | .bf16 => 2
  | .e4m3 => 3
  | .e5m2 => 4
  | .dxb8 => 5
  | .dxb6 => 6
  | .dxb4 => 7
  | .i32 => 8
  | .i8 => 9
/-- `NarFmt` of a code; any other code is illegal. -/
def NarFmt.ofCode? (n : Nat) : Option NarFmt :=
  match n with
  | 0 => some .fp32
  | 1 => some .fp16
  | 2 => some .bf16
  | 3 => some .e4m3
  | 4 => some .e5m2
  | 5 => some .dxb8
  | 6 => some .dxb6
  | 7 => some .dxb4
  | 8 => some .i32
  | 9 => some .i8
  | _ => none
/-- The code of each `TagOp` (R388). -/
def TagOp.code : TagOp → Nat
  | .set => 0
  | .and => 1
  | .or => 2
  | .andn => 3
/-- `TagOp` of a code. -/
def TagOp.ofCode (n : Nat) : TagOp :=
  match n with
  | 0 => .set
  | 1 => .and
  | 2 => .or
  | _ => .andn
/-- The code of each `SeqCode` (R397). -/
def SeqCode.code : SeqCode → Nat
  | .mov => 0
  | .add => 1
  | .sub => 2
  | .adds => 3
  | .subs => 4
  | .muln => 5
  | .muli => 6
  | .muls => 7
  | .neg => 8
  | .abs => 9
  | .min => 10
  | .max => 11
  | .shr => 12
  | .sar => 13
  | .shl => 14
  | .satn => 15
  | .clt => 16
  | .ceq => 17
  | .cltn => 18
  | .f16add => 19
  | .f16mul => 20
  | .f16muls => 21
  | .f16fri => 22
  | .f16toi => 23
/-- `SeqCode` of a code; any other code is illegal. -/
def SeqCode.ofCode? (n : Nat) : Option SeqCode :=
  match n with
  | 0 => some .mov
  | 1 => some .add
  | 2 => some .sub
  | 3 => some .adds
  | 4 => some .subs
  | 5 => some .muln
  | 6 => some .muli
  | 7 => some .muls
  | 8 => some .neg
  | 9 => some .abs
  | 10 => some .min
  | 11 => some .max
  | 12 => some .shr
  | 13 => some .sar
  | 14 => some .shl
  | 15 => some .satn
  | 16 => some .clt
  | 17 => some .ceq
  | 18 => some .cltn
  | 19 => some .f16add
  | 20 => some .f16mul
  | 21 => some .f16muls
  | 22 => some .f16fri
  | 23 => some .f16toi
  | _ => none
/-- The code of each `IntTy` (R262). -/
def IntTy.code : IntTy → Nat
  | .i32 => 0
  | .n32 => 1
  | .i64 => 2
  | .n64 => 3
/-- `IntTy` of a code; any other code is illegal. -/
def IntTy.ofCode? (n : Nat) : Option IntTy :=
  match n with
  | 0 => some .i32
  | 1 => some .n32
  | 2 => some .i64
  | 3 => some .n64
  | _ => none
/-- The code of each `FpTy` (R262). -/
def FpTy.code : FpTy → Nat
  | .f32 => 0
  | .f16 => 1
  | .bf16 => 2
/-- `FpTy` of a code; any other code is illegal. -/
def FpTy.ofCode? (n : Nat) : Option FpTy :=
  match n with
  | 0 => some .f32
  | 1 => some .f16
  | 2 => some .bf16
  | _ => none
/-- The code of each `FfPair` (R262). -/
def FfPair.code : FfPair → Nat
  | .f32f16 => 0
  | .f32bf16 => 1
  | .f32e4m3 => 2
  | .f32e5m2 => 3
  | .f16f32 => 4
  | .bf16f32 => 5
  | .e4m3f32 => 6
  | .e5m2f32 => 7
/-- `FfPair` of a code; any other code is illegal. -/
def FfPair.ofCode? (n : Nat) : Option FfPair :=
  match n with
  | 0 => some .f32f16
  | 1 => some .f32bf16
  | 2 => some .f32e4m3
  | 3 => some .f32e5m2
  | 4 => some .f16f32
  | 5 => some .bf16f32
  | 6 => some .e4m3f32
  | 7 => some .e5m2f32
  | _ => none
/-- The code of each `NarrowFmt` (R262). -/
def NarrowFmt.code : NarrowFmt → Nat
  | .f16 => 0
  | .bf16 => 1
  | .e4m3 => 2
  | .e5m2 => 3
/-- `NarrowFmt` of a code; any other code is illegal. -/
def NarrowFmt.ofCode? (n : Nat) : Option NarrowFmt :=
  match n with
  | 0 => some .f16
  | 1 => some .bf16
  | 2 => some .e4m3
  | 3 => some .e5m2
  | _ => none
/-- The code of each `WidFmt` (R365). -/
def WidFmt.code : WidFmt → Nat
  | .fp32 => 0
  | .fp16 => 1
  | .bf16 => 2
  | .i32 => 8
/-- `WidFmt` of a code; any other code is illegal. -/
def WidFmt.ofCode? (n : Nat) : Option WidFmt :=
  match n with
  | 0 => some .fp32
  | 1 => some .fp16
  | 2 => some .bf16
  | 8 => some .i32
  | _ => none

/-- The operation of RED: 8 is FADD with its rounding code in bits 21:19 (R239). -/
def redop? (w : Nat) : Option RedOp :=
  if fld w 5 4 = 8 then (Rm.ofCode? (fld w 19 3)).map .fadd
  else if fld w 5 4 < 8 then (AmoOp.ofCode? (fld w 5 4)).map .int else none
/-- The operation code of RED. -/
def RedOp.code : RedOp → Nat | .int o => o.code | .fadd _ => 8
/-- The rounding field of RED, zero but for FADD. -/
def RedOp.round : RedOp → Nat | .int _ => 0 | .fadd r => r.code
/-- The pair of CVTIF: 4·T + S (R262). -/
def cvtif? (n : Nat) : Option (IntTy × FpTy) :=
  (IntTy.ofCode? (n % 4)).bind fun s => (FpTy.ofCode? (n / 4)).map fun t => (s, t)
/-- The pair of CVTFI: 4·S + T (R262). -/
def cvtfi? (n : Nat) : Option (FpTy × IntTy) :=
  (FpTy.ofCode? (n / 4)).bind fun s => (IntTy.ofCode? (n % 4)).map fun t => (s, t)

/-! ### Reading one instruction, given that its fixed fields are as they must be -/

/-- Word C (and E when lone) of an assigned op7; `none` where a field value is illegal (R238, R239 and the engine chapters). -/
def readC (lone : Bool) (w e : Nat) : Option Instr :=
  match w / 2 ^ 24 % 128 with
  | 0x00 => some (.nopC)
  | 0x01 => some (.endFiring)
  | 0x02 => if lone then some (.brLone (flag w 18) (bv 13 e 0))
    else some (.br (flag w 18) (bv 18 w 0))
  | 0x03 => if lone then some (.callLone (flag w 18) (bv 13 e 0))
    else some (.call (flag w 18) (bv 18 w 0))
  | 0x04 => some (.jmp (reg w 14))
  | 0x05 => some (.callr (reg w 14))
  | 0x06 => if lone then some (.bzLone (reg w 19) (flag w 18) (bv 13 e 0))
    else some (.bz (reg w 19) (flag w 18) (bv 18 w 0))
  | 0x07 => if lone then some (.bnzLone (reg w 19) (flag w 18) (bv 13 e 0))
    else some (.bnz (reg w 19) (flag w 18) (bv 18 w 0))
  | 0x08 => if lone then some (.bltzLone (reg w 19) (flag w 18) (bv 13 e 0))
    else some (.bltz (reg w 19) (flag w 18) (bv 18 w 0))
  | 0x09 => if lone then some (.bgezLone (reg w 19) (flag w 18) (bv 13 e 0))
    else some (.bgez (reg w 19) (flag w 18) (bv 18 w 0))
  | 0x0A => if lone then some (.beqLone (reg w 19) (reg w 14) (flag w 13) (bv 13 e 0))
    else some (.beq (reg w 19) (reg w 14) (flag w 13) (bv 13 w 0))
  | 0x0B => if lone then some (.bneLone (reg w 19) (reg w 14) (flag w 13) (bv 13 e 0))
    else some (.bne (reg w 19) (reg w 14) (flag w 13) (bv 13 w 0))
  | 0x0C => if lone then some (.bltLone (reg w 19) (reg w 14) (flag w 13) (bv 13 e 0))
    else some (.blt (reg w 19) (reg w 14) (flag w 13) (bv 13 w 0))
  | 0x0D => if lone then some (.bgeLone (reg w 19) (reg w 14) (flag w 13) (bv 13 e 0))
    else some (.bge (reg w 19) (reg w 14) (flag w 13) (bv 13 w 0))
  | 0x0E => if lone then some (.bltnLone (reg w 19) (reg w 14) (flag w 13) (bv 13 e 0))
    else some (.bltn (reg w 19) (reg w 14) (flag w 13) (bv 13 w 0))
  | 0x0F => if lone then some (.bgenLone (reg w 19) (reg w 14) (flag w 13) (bv 13 e 0))
    else some (.bgen (reg w 19) (reg w 14) (flag w 13) (bv 13 w 0))
  | 0x10 => if lone then some (.loopLone (reg w 19) (flag w 18) (bv 13 e 0))
    else some (.loop (reg w 19) (flag w 18) (bv 18 w 0))
  | 0x11 => if lone then some (.movlLone (reg w 19) (bv 32 e 0))
    else some (.movl (reg w 19) (bv 14 w 0))
  | 0x12 => some (.movlh (reg w 19) (bv 32 e 0))
  | 0x13 => some (.trap (bv 14 w 0))
  | 0x14 => some (.sleep (bv 14 w 0))
  | 0x15 => some (.brk (bv 14 w 0))
  | 0x18 => if lone then some (.ldLone (reg w 19) (reg w 14) (Size.ofCode (fld w 12 2)) (bv 32 e 0))
    else some (.ld (reg w 19) (reg w 14) (Size.ofCode (fld w 12 2)) (bv 9 w 0))
  | 0x19 => if lone then some (.ldnLone (reg w 19) (reg w 14) (Size.ofCode (fld w 12 2)) (bv 32 e 0))
    else some (.ldn (reg w 19) (reg w 14) (Size.ofCode (fld w 12 2)) (bv 9 w 0))
  | 0x1A => if lone then some (.stLone (reg w 19) (reg w 14) (Size.ofCode (fld w 12 2)) (bv 32 e 0))
    else some (.st (reg w 19) (reg w 14) (Size.ofCode (fld w 12 2)) (bv 9 w 0))
  | 0x1B => some (.ldx (reg w 19) (reg w 14) (reg w 9) (Size.ofCode (fld w 0 2)))
  | 0x1C => some (.stx (reg w 19) (reg w 14) (reg w 9) (Size.ofCode (fld w 0 2)))
  | 0x1D => if lone then (Scope.ofCode? (fld w 9 3)).bind fun xsc => some (.ldaLone (reg w 19) (reg w 14) (Size.ofCode (fld w 12 2)) xsc (bv 32 e 0))
    else (Scope.ofCode? (fld w 9 3)).bind fun xsc => some (.lda (reg w 19) (reg w 14) (Size.ofCode (fld w 12 2)) xsc (bv 9 w 0))
  | 0x1E => if lone then (Scope.ofCode? (fld w 9 3)).bind fun xsc => some (.stlLone (reg w 19) (reg w 14) (Size.ofCode (fld w 12 2)) xsc (bv 32 e 0))
    else (Scope.ofCode? (fld w 9 3)).bind fun xsc => some (.stl (reg w 19) (reg w 14) (Size.ofCode (fld w 12 2)) xsc (bv 9 w 0))
  | 0x1F => if lone then some (.prefLone (reg w 14) (bv 32 e 0))
    else some (.pref (reg w 14) (bv 9 w 0))
  | 0x20 => if lone then if fld w 12 2 = 3 then (Scope.ofCode? (fld w 9 3)).bind fun xsc => some (.ldwLone (reg w 19) (reg w 14) xsc (bv 32 e 0)) else none
    else if fld w 12 2 = 3 then (Scope.ofCode? (fld w 9 3)).bind fun xsc => some (.ldw (reg w 19) (reg w 14) xsc (bv 9 w 0)) else none
  | 0x21 => if lone then if fld w 12 2 = 3 then (Scope.ofCode? (fld w 9 3)).bind fun xsc => some (.ldtLone (reg w 19) (reg w 14) xsc (bv 32 e 0)) else none
    else if fld w 12 2 = 3 then (Scope.ofCode? (fld w 9 3)).bind fun xsc => some (.ldt (reg w 19) (reg w 14) xsc (bv 9 w 0)) else none
  | 0x22 => if lone then if fld w 12 2 = 3 then (Scope.ofCode? (fld w 9 3)).bind fun xsc => some (.stpLone (reg w 19) (reg w 14) xsc (bv 32 e 0)) else none
    else if fld w 12 2 = 3 then (Scope.ofCode? (fld w 9 3)).bind fun xsc => some (.stp (reg w 19) (reg w 14) xsc (bv 9 w 0)) else none
  | 0x23 => if lone then if fld w 12 2 = 3 then (Scope.ofCode? (fld w 9 3)).bind fun xsc => some (.stfLone (reg w 19) (reg w 14) xsc (bv 32 e 0)) else none
    else if fld w 12 2 = 3 then (Scope.ofCode? (fld w 9 3)).bind fun xsc => some (.stf (reg w 19) (reg w 14) xsc (bv 9 w 0)) else none
  | 0x24 => if lone then if fld w 12 2 = 3 then some (.empLone (reg w 14) (bv 32 e 0)) else none
    else if fld w 12 2 = 3 then some (.emp (reg w 14) (bv 9 w 0)) else none
  | 0x25 => if lone then if fld w 12 2 = 3 then some (.feqLone (reg w 19) (reg w 14) (bv 32 e 0)) else none
    else if fld w 12 2 = 3 then some (.feq (reg w 19) (reg w 14) (bv 9 w 0)) else none
  | 0x26 => if lone then if fld w 12 2 = 3 then (Scope.ofCode? (fld w 9 3)).bind fun xsc => some (.ldwtLone (reg w 19) (reg w 14) xsc (bv 32 e 0)) else none
    else if fld w 12 2 = 3 then (Scope.ofCode? (fld w 9 3)).bind fun xsc => some (.ldwt (reg w 19) (reg w 14) xsc (bv 9 w 0)) else none
  | 0x27 => if lone then if fld w 12 2 = 3 then (Scope.ofCode? (fld w 9 3)).bind fun xsc => some (.ldttLone (reg w 19) (reg w 14) xsc (bv 32 e 0)) else none
    else if fld w 12 2 = 3 then (Scope.ofCode? (fld w 9 3)).bind fun xsc => some (.ldtt (reg w 19) (reg w 14) xsc (bv 9 w 0)) else none
  | 0x28 => if lone then if fld w 12 2 = 3 then (Scope.ofCode? (fld w 9 3)).bind fun xsc => some (.stptLone (reg w 19) (reg w 14) xsc (bv 32 e 0)) else none
    else if fld w 12 2 = 3 then (Scope.ofCode? (fld w 9 3)).bind fun xsc => some (.stpt (reg w 19) (reg w 14) xsc (bv 9 w 0)) else none
  | 0x29 => (AmoOp.ofCode? (fld w 5 4)).bind fun xop => (Scope.ofCode? (fld w 2 3)).bind fun xsc => some (.amo (reg w 19) (reg w 14) (reg w 9) xop xsc (flag w 1) (flag w 0))
  | 0x2A => (Scope.ofCode? (fld w 2 3)).bind fun xsc => some (.cas (reg w 19) (reg w 14) (reg w 9) xsc (flag w 1))
  | 0x2B => (redop? w).bind fun xop => (Scope.ofCode? (fld w 2 3)).bind fun xsc => some (.red (reg w 14) (reg w 9) xop xsc (flag w 1))
  | 0x2C => match fld w 0 2 with
    | 0 => (Scope.ofCode? (fld w 2 3)).bind fun xsc => some (.fenceOrd xsc)
    | 1 => some .fenceR
    | 2 => some .fenceA
    | _ => some .fenceE
  | 0x30 => some (.send (reg w 14) (reg w 9) (fin8 w 0))
  | 0x31 => some (.recv (reg w 19) (reg w 14) (fin8 w 6) (fin8 w 3))
  | 0x32 => some (.pcnt (reg w 19) (fin8 w 6))
  | 0x33 => some (.bar (Level.ofCode (fld w 0 3)))
  | 0x34 => some (.bara (Level.ofCode (fld w 0 3)))
  | 0x35 => some (.barw (Level.ofCode (fld w 0 3)))
  | 0x36 => (Scope.ofCode? (fld w 2 3)).bind fun xsc => some (.rbc (reg w 14) (reg w 9) xsc)
  | 0x37 => (Scope.ofCode? (fld w 2 3)).bind fun xsc => some (.rclr (reg w 9) xsc)
  | 0x38 => some (.ltrig)
  | 0x39 => some (.migr (reg w 14))
  | 0x3A => if lone then if fld w 12 2 = 3 then some (.parkLone (reg w 19) (reg w 14) (bv 32 e 0)) else none
    else if fld w 12 2 = 3 then some (.park (reg w 19) (reg w 14) (bv 9 w 0)) else none
  | 0x3B => if lone then if fld w 12 2 = 3 then some (.tarmLone (reg w 14) (bv 32 e 0)) else none
    else if fld w 12 2 = 3 then some (.tarm (reg w 14) (bv 9 w 0)) else none
  | 0x40 => (Scope.ofCode? (fld e 7 3)).bind fun xsc => some (.cpy (reg w 19) (reg w 14) (reg w 9) (reg w 4) (reg e 0) (CopyMode.ofCode (fld e 5 2)) xsc)
  | 0x41 => (Scope.ofCode? (fld e 7 3)).bind fun xsc => some (.cpy2 (reg w 19) (reg w 14) (reg w 9) (reg w 4) (reg e 0) (reg e 10) (CopyMode.ofCode (fld e 5 2)) xsc (Size.ofCode (fld e 15 2)) (flag e 17))
  | 0x42 => some (.cpyw (bv 8 w 0))
  | 0x43 => some (.rcfg (fin8 w 21) (reg w 11) (reg w 6))
  | 0x44 => some (.rpush (fin8 w 21) (flag w 0) (reg w 11))
  | 0x45 => some (.rpop (fin8 w 21) (reg w 16))
  | 0x46 => (RingCond.ofCode? (fld w 0 2)).bind fun xcond => some (.rwait (fin8 w 21) (bv 6 w 10) xcond)
  | 0x47 => some (.rfree (fin8 w 21) (bv 6 w 10))
  | 0x48 => (sel5? (fld w 0 3)).bind fun xsel => some (.rq (fin8 w 21) (reg w 16) xsel)
  | 0x50 => (FoldFmt.ofCode? (fld w 18 4)).bind fun xfmt => some (.mfold (fin4 w 22) xfmt (fin4 w 16) (fin8 w 13) (fin8 w 10) (flag w 9) (flag w 8) (bv 8 e 0))
  | 0x51 => some (.mzero (fin4 w 22))
  | 0x52 => (NarFmt.ofCode? (fld w 18 4)).bind fun xfmt => (Rm.ofCode? (fld w 15 3)).bind fun xrm => (arr? e).bind fun xarr => some (.mnar (fin4 w 22) xfmt xrm (reg w 10) (reg w 5) (reg w 0) xarr)
  | 0x53 => (WidFmt.ofCode? (fld w 18 4)).bind fun xfmt => some (.mwid (fin4 w 22) xfmt (reg w 10) (reg w 5))
  | 0x54 => some (.mrec (fin4 w 22) (reg w 17))
  | 0x55 => some (.mwait (bv 4 w 0))
  | 0x56 => some (.mq (reg w 17))
  | 0x60 => some (.acmp (fin8 w 21) (mask w 17 18) (TagOp.ofCode (fld w 15 2)) (key w e) (afield e))
  | 0x61 => some (.awrt (mask w 17 18) (afield e) (bv 17 e 15))
  | 0x62 => (SeqCode.ofCode? (fld w 19 5)).bind fun xcode => some (.aseq xcode (mask w 15 16) (fin8 w 12) (reg w 6) (bv 4 w 2) (bv 4 e 27) (bv 9 e 0) (bv 9 e 9) (bv 9 e 18))
  | 0x63 => some (.ausq (bv 8 w 16) (bv 9 e 0) (bv 9 e 9) (bv 9 e 18))
  | 0x64 => some (.abnd (fin8 w 21) (reg w 9) (reg w 4))
  | 0x65 => some (.atag (fin8 w 21) (fin8 w 18) (fin8 w 15) (bv 4 w 11))
  | 0x66 => some (.acnt (reg w 19) (fin8 w 16))
  | 0x67 => some (.afst (reg w 19) (fin8 w 16) (flag w 15))
  | 0x68 => some (.arsum (reg w 19) (mask w 15 16) (flag w 14) (afield e))
  | 0x69 => some (.ard (reg w 19) (reg w 14) (flag w 13) (afield e))
  | 0x6A => some (.awr (reg w 14) (reg w 9) (afield e))
  | 0x6B => some (.ascw (mask w 17 18) (reg w 9) (afield e))
  | 0x6C => some (.asql (reg w 14))
  | 0x6D => some (.arws (reg w 19))
  | 0x6E => some (.atrc (reg w 9))
  | 0x6F => some (.arwd (reg w 9))
  | 0x70 => some (.mfc (reg w 19) (bv 14 w 0))
  | 0x71 => some (.mtc (reg w 14) (bv 14 w 0))
  | 0x72 => some (.resume (reg w 14) (reg w 9))
  | 0x73 => some (.tlbw (reg w 19) (reg w 14) (reg w 9))
  | 0x74 => some (.tlbi (reg w 14))
  | 0x75 => some (.tlbs (reg w 14))
  | 0x7F => some (.seal)
  | _ => none

/-- Word A of an assigned op8; `none` where a field value is illegal (R241). -/
def readA (w : Nat) : Option Instr :=
  match w / 2 ^ 24 % 256 with
  | 0x00 => some (.nopA)
  | 0x01 => some (.add (reg w 19) (reg w 14) (reg w 9))
  | 0x02 => some (.sub (reg w 19) (reg w 14) (reg w 9))
  | 0x03 => some (.mul (reg w 19) (reg w 14) (reg w 9))
  | 0x04 => some (.mulh (reg w 19) (reg w 14) (reg w 9))
  | 0x05 => some (.mulhn (reg w 19) (reg w 14) (reg w 9))
  | 0x06 => some (.div (reg w 19) (reg w 14) (reg w 9))
  | 0x07 => some (.divn (reg w 19) (reg w 14) (reg w 9))
  | 0x08 => some (.rem (reg w 19) (reg w 14) (reg w 9))
  | 0x09 => some (.remn (reg w 19) (reg w 14) (reg w 9))
  | 0x0A => some (.andR (reg w 19) (reg w 14) (reg w 9))
  | 0x0B => some (.orR (reg w 19) (reg w 14) (reg w 9))
  | 0x0C => some (.xorR (reg w 19) (reg w 14) (reg w 9))
  | 0x0D => some (.andn (reg w 19) (reg w 14) (reg w 9))
  | 0x0E => some (.orn (reg w 19) (reg w 14) (reg w 9))
  | 0x0F => some (.shl (reg w 19) (reg w 14) (reg w 9))
  | 0x10 => some (.shr (reg w 19) (reg w 14) (reg w 9))
  | 0x11 => some (.sar (reg w 19) (reg w 14) (reg w 9))
  | 0x12 => some (.rol (reg w 19) (reg w 14) (reg w 9))
  | 0x13 => some (.minR (reg w 19) (reg w 14) (reg w 9))
  | 0x14 => some (.maxR (reg w 19) (reg w 14) (reg w 9))
  | 0x15 => some (.minn (reg w 19) (reg w 14) (reg w 9))
  | 0x16 => some (.maxn (reg w 19) (reg w 14) (reg w 9))
  | 0x17 => some (.ceq (reg w 19) (reg w 14) (reg w 9))
  | 0x18 => some (.cne (reg w 19) (reg w 14) (reg w 9))
  | 0x19 => some (.clt (reg w 19) (reg w 14) (reg w 9))
  | 0x1A => some (.cle (reg w 19) (reg w 14) (reg w 9))
  | 0x1B => some (.cltn (reg w 19) (reg w 14) (reg w 9))
  | 0x1C => some (.clen (reg w 19) (reg w 14) (reg w 9))
  | 0x1D => some (.sel (reg w 19) (reg w 14) (reg w 9))
  | 0x1E => some (.clz (reg w 19) (reg w 14))
  | 0x1F => some (.ctz (reg w 19) (reg w 14))
  | 0x20 => some (.popc (reg w 19) (reg w 14))
  | 0x21 => some (.sxb (reg w 19) (reg w 14))
  | 0x22 => some (.sxh (reg w 19) (reg w 14))
  | 0x23 => some (.sxw (reg w 19) (reg w 14))
  | 0x24 => some (.zxb (reg w 19) (reg w 14))
  | 0x25 => some (.zxh (reg w 19) (reg w 14))
  | 0x26 => some (.zxw (reg w 19) (reg w 14))
  | 0x27 => some (.addw (reg w 19) (reg w 14) (reg w 9))
  | 0x28 => some (.subw (reg w 19) (reg w 14) (reg w 9))
  | 0x29 => some (.mulw (reg w 19) (reg w 14) (reg w 9))
  | 0x2A => some (.bext (reg w 19) (reg w 14) (bv 6 w 6) (bv 6 w 0))
  | 0x2B => some (.bins (reg w 19) (reg w 14) (bv 6 w 6) (bv 6 w 0))
  | 0x2C => some (.bswp (reg w 19) (reg w 14))
  | 0x40 => some (.addi (reg w 19) (reg w 14) (bv 14 w 0))
  | 0x41 => some (.andi (reg w 19) (reg w 14) (bv 14 w 0))
  | 0x42 => some (.ori (reg w 19) (reg w 14) (bv 14 w 0))
  | 0x43 => some (.xori (reg w 19) (reg w 14) (bv 14 w 0))
  | 0x44 => some (.shli (reg w 19) (reg w 14) (bv 6 w 0))
  | 0x45 => some (.shri (reg w 19) (reg w 14) (bv 6 w 0))
  | 0x46 => some (.sari (reg w 19) (reg w 14) (bv 6 w 0))
  | 0x47 => some (.ceqi (reg w 19) (reg w 14) (bv 14 w 0))
  | 0x48 => some (.clti (reg w 19) (reg w 14) (bv 14 w 0))
  | 0x49 => some (.cltni (reg w 19) (reg w 14) (bv 14 w 0))
  | 0x4A => some (.movi (reg w 19) (bv 14 w 0))
  | 0x4B => some (.movhi (reg w 19) (bv 14 w 0))
  | 0x60 => (Rm.ofCode? (fld w 6 3)).bind fun xr => some (.fadd (reg w 19) (reg w 14) (reg w 9) xr)
  | 0x61 => (Rm.ofCode? (fld w 6 3)).bind fun xr => some (.fsub (reg w 19) (reg w 14) (reg w 9) xr)
  | 0x62 => (Rm.ofCode? (fld w 6 3)).bind fun xr => some (.fmul (reg w 19) (reg w 14) (reg w 9) xr)
  | 0x63 => (Rm.ofCode? (fld w 6 3)).bind fun xr => some (.fma (reg w 19) (reg w 14) (reg w 9) xr)
  | 0x64 => (Rm.ofCode? (fld w 6 3)).bind fun xr => some (.fms (reg w 19) (reg w 14) (reg w 9) xr)
  | 0x65 => (Rm.ofCode? (fld w 6 3)).bind fun xr => some (.fdiv (reg w 19) (reg w 14) (reg w 9) xr)
  | 0x66 => (Rm.ofCode? (fld w 6 3)).bind fun xr => some (.fsqrt (reg w 19) (reg w 14) xr)
  | 0x67 => some (.fmin (reg w 19) (reg w 14) (reg w 9))
  | 0x68 => some (.fmax (reg w 19) (reg w 14) (reg w 9))
  | 0x69 => some (.fceq (reg w 19) (reg w 14) (reg w 9))
  | 0x6A => some (.fclt (reg w 19) (reg w 14) (reg w 9))
  | 0x6B => some (.fcle (reg w 19) (reg w 14) (reg w 9))
  | 0x6C => some (.fabs (reg w 19) (reg w 14))
  | 0x6D => some (.fneg (reg w 19) (reg w 14))
  | 0x6E => some (.fcpys (reg w 19) (reg w 14) (reg w 9))
  | 0x70 => (cvtif? (fld w 9 5)).bind fun xp => (Rm.ofCode? (fld w 6 3)).bind fun xr => some (.cvtif (reg w 19) (reg w 14) xp.1 xp.2 xr)
  | 0x71 => (cvtfi? (fld w 9 5)).bind fun xp => (Rm.ofCode? (fld w 6 3)).bind fun xr => some (.cvtfi (reg w 19) (reg w 14) xp.1 xp.2 xr)
  | 0x72 => (FfPair.ofCode? (fld w 9 5)).bind fun xp => (Rm.ofCode? (fld w 6 3)).bind fun xr => some (.cvtff (reg w 19) (reg w 14) xp xr)
  | 0x73 => (NarrowFmt.ofCode? (fld w 9 5)).bind fun xf => (Rm.ofCode? (fld w 6 3)).bind fun xr => some (.pk2 (reg w 19) (reg w 14) xf xr)
  | 0x74 => (NarrowFmt.ofCode? (fld w 9 5)).bind fun xf => some (.unpk (reg w 19) (reg w 14) xf)
  | _ => none

/-! ### The items of R243 -/

/-- How a word C may be lone (R236, R238). -/
inductive LoneRule | never | either | always
deriving DecidableEq, Repr

/-- The LONE column of R238. -/
def loneRule (op : Nat) : LoneRule :=
  match op with
  | 0x02 => .either
  | 0x03 => .either
  | 0x06 => .either
  | 0x07 => .either
  | 0x08 => .either
  | 0x09 => .either
  | 0x0A => .either
  | 0x0B => .either
  | 0x0C => .either
  | 0x0D => .either
  | 0x0E => .either
  | 0x0F => .either
  | 0x10 => .either
  | 0x11 => .either
  | 0x12 => .always
  | 0x18 => .either
  | 0x19 => .either
  | 0x1A => .either
  | 0x1D => .either
  | 0x1E => .either
  | 0x1F => .either
  | 0x20 => .either
  | 0x21 => .either
  | 0x22 => .either
  | 0x23 => .either
  | 0x24 => .either
  | 0x25 => .either
  | 0x26 => .either
  | 0x27 => .either
  | 0x28 => .either
  | 0x3A => .either
  | 0x3B => .either
  | 0x40 => .always
  | 0x41 => .always
  | 0x42 => .always
  | 0x43 => .always
  | 0x44 => .always
  | 0x45 => .always
  | 0x46 => .always
  | 0x47 => .always
  | 0x48 => .always
  | 0x50 => .always
  | 0x51 => .always
  | 0x52 => .always
  | 0x53 => .always
  | 0x54 => .always
  | 0x55 => .always
  | 0x56 => .always
  | 0x60 => .always
  | 0x61 => .always
  | 0x62 => .always
  | 0x63 => .always
  | 0x64 => .always
  | 0x65 => .always
  | 0x66 => .always
  | 0x67 => .always
  | 0x68 => .always
  | 0x69 => .always
  | 0x6A => .always
  | 0x6B => .always
  | 0x6C => .always
  | 0x6D => .always
  | 0x6E => .always
  | 0x6F => .always
  | _ => .never

/-- The op7 values R238 assigns. -/
def assignedC (op : Nat) : Bool :=
  [0x00, 0x01, 0x02, 0x03, 0x04, 0x05, 0x06, 0x07, 0x08, 0x09, 0x0A, 0x0B, 0x0C, 0x0D, 0x0E, 0x0F, 0x10, 0x11, 0x12, 0x13, 0x14, 0x15, 0x18, 0x19, 0x1A, 0x1B, 0x1C, 0x1D, 0x1E, 0x1F, 0x20, 0x21, 0x22, 0x23, 0x24, 0x25, 0x26, 0x27, 0x28, 0x29, 0x2A, 0x2B, 0x2C, 0x30, 0x31, 0x32, 0x33, 0x34, 0x35, 0x36, 0x37, 0x38, 0x39, 0x3A, 0x3B, 0x40, 0x41, 0x42, 0x43, 0x44, 0x45, 0x46, 0x47, 0x48, 0x50, 0x51, 0x52, 0x53, 0x54, 0x55, 0x56, 0x60, 0x61, 0x62, 0x63, 0x64, 0x65, 0x66, 0x67, 0x68, 0x69, 0x6A, 0x6B, 0x6C, 0x6D, 0x6E, 0x6F, 0x70, 0x71, 0x72, 0x73, 0x74, 0x75, 0x7F].contains op

/-- The op8 values R241 assigns. -/
def assignedA (op : Nat) : Bool :=
  [0x00, 0x01, 0x02, 0x03, 0x04, 0x05, 0x06, 0x07, 0x08, 0x09, 0x0A, 0x0B, 0x0C, 0x0D, 0x0E, 0x0F, 0x10, 0x11, 0x12, 0x13, 0x14, 0x15, 0x16, 0x17, 0x18, 0x19, 0x1A, 0x1B, 0x1C, 0x1D, 0x1E, 0x1F, 0x20, 0x21, 0x22, 0x23, 0x24, 0x25, 0x26, 0x27, 0x28, 0x29, 0x2A, 0x2B, 0x2C, 0x40, 0x41, 0x42, 0x43, 0x44, 0x45, 0x46, 0x47, 0x48, 0x49, 0x4A, 0x4B, 0x60, 0x61, 0x62, 0x63, 0x64, 0x65, 0x66, 0x67, 0x68, 0x69, 0x6A, 0x6B, 0x6C, 0x6D, 0x6E, 0x70, 0x71, 0x72, 0x73, 0x74].contains op

/-- The fields of word C that must be zero, as (low bit, width), by op7 and LONE (R236, R238, R239). -/
def zeroC (op : Nat) (lone : Bool) (w : Nat) : List (Nat × Nat) :=
  match op with
  | 0x00 => [(0, 24)]
  | 0x01 => [(0, 24)]
  | 0x02 => if lone then [(0, 18), (19, 5)] else [(19, 5)]
  | 0x03 => if lone then [(0, 18), (19, 5)] else [(19, 5)]
  | 0x04 => [(0, 14), (19, 5)]
  | 0x05 => [(0, 14), (19, 5)]
  | 0x06 => if lone then [(0, 18)] else []
  | 0x07 => if lone then [(0, 18)] else []
  | 0x08 => if lone then [(0, 18)] else []
  | 0x09 => if lone then [(0, 18)] else []
  | 0x0A => if lone then [(0, 13)] else []
  | 0x0B => if lone then [(0, 13)] else []
  | 0x0C => if lone then [(0, 13)] else []
  | 0x0D => if lone then [(0, 13)] else []
  | 0x0E => if lone then [(0, 13)] else []
  | 0x0F => if lone then [(0, 13)] else []
  | 0x10 => if lone then [(0, 18)] else []
  | 0x11 => if lone then [(0, 19)] else [(14, 5)]
  | 0x12 => [(0, 19)]
  | 0x13 => if lone then [(0, 24)] else [(14, 10)]
  | 0x14 => if lone then [(0, 24)] else [(14, 10)]
  | 0x15 => if lone then [(0, 24)] else [(14, 10)]
  | 0x18 => if lone then [(0, 12)] else [(9, 3)]
  | 0x19 => if lone then [(0, 12)] else [(9, 3)]
  | 0x1A => if lone then [(0, 12)] else [(9, 3)]
  | 0x1B => [(2, 7)]
  | 0x1C => [(2, 7)]
  | 0x1D => if lone then [(0, 9)] else []
  | 0x1E => if lone then [(0, 9)] else []
  | 0x1F => if lone then [(0, 14), (19, 5)] else [(9, 5), (19, 5)]
  | 0x20 => if lone then [(0, 9)] else []
  | 0x21 => if lone then [(0, 9)] else []
  | 0x22 => if lone then [(0, 9)] else []
  | 0x23 => if lone then [(0, 9)] else []
  | 0x24 => if lone then [(0, 12), (19, 5)] else [(9, 3), (19, 5)]
  | 0x25 => if lone then [(0, 12)] else [(9, 3)]
  | 0x26 => if lone then [(0, 9)] else []
  | 0x27 => if lone then [(0, 9)] else []
  | 0x28 => if lone then [(0, 9)] else []
  | 0x29 => []
  | 0x2A => [(0, 1), (5, 4)]
  | 0x2B => [(0, 1), (22, 2)]
  | 0x2C => if fld w 0 2 = 0 then [(5, 19)] else [(2, 22)]
  | 0x30 => [(3, 6), (19, 5)]
  | 0x31 => [(0, 3), (9, 5)]
  | 0x32 => [(0, 6), (9, 10)]
  | 0x33 => [(3, 21)]
  | 0x34 => [(3, 21)]
  | 0x35 => [(3, 21)]
  | 0x36 => [(0, 2), (5, 4), (19, 5)]
  | 0x37 => [(0, 2), (5, 4), (14, 10)]
  | 0x38 => [(0, 24)]
  | 0x39 => [(0, 14), (19, 5)]
  | 0x3A => if lone then [(0, 12)] else [(9, 3)]
  | 0x3B => if lone then [(0, 12), (19, 5)] else [(9, 3), (19, 5)]
  | 0x40 => [(0, 4)]
  | 0x41 => [(0, 4)]
  | 0x42 => [(8, 16)]
  | 0x43 => [(0, 6), (16, 5)]
  | 0x44 => [(1, 10), (16, 5)]
  | 0x45 => [(0, 16)]
  | 0x46 => [(2, 8), (16, 5)]
  | 0x47 => [(0, 10), (16, 5)]
  | 0x48 => [(3, 13)]
  | 0x50 => [(0, 8)]
  | 0x51 => [(0, 22)]
  | 0x52 => []
  | 0x53 => [(0, 5), (15, 3)]
  | 0x54 => [(0, 17)]
  | 0x55 => [(4, 20)]
  | 0x56 => [(0, 17), (22, 2)]
  | 0x60 => [(0, 9)]
  | 0x61 => [(0, 17), (21, 3)]
  | 0x62 => [(0, 2), (11, 1)]
  | 0x63 => [(0, 16)]
  | 0x64 => [(0, 4), (14, 7)]
  | 0x65 => [(0, 11)]
  | 0x66 => [(0, 16)]
  | 0x67 => [(0, 15)]
  | 0x68 => [(0, 14)]
  | 0x69 => [(0, 13)]
  | 0x6A => [(0, 9), (19, 5)]
  | 0x6B => [(0, 9), (14, 3), (21, 3)]
  | 0x6C => [(0, 14), (19, 5)]
  | 0x6D => [(0, 19)]
  | 0x6E => [(0, 9), (14, 10)]
  | 0x6F => [(0, 9), (14, 10)]
  | 0x70 => if lone then [(0, 19)] else [(14, 5)]
  | 0x71 => if lone then [(0, 14), (19, 5)] else [(19, 5)]
  | 0x72 => [(0, 9), (19, 5)]
  | 0x73 => [(0, 9)]
  | 0x74 => [(0, 14), (19, 5)]
  | 0x75 => [(0, 14), (19, 5)]
  | 0x7F => [(0, 24)]
  | _ => []

/-- The fields of E that must be zero in a CX instruction (engine chapters). -/
def zeroE (op : Nat) : List (Nat × Nat) :=
  match op with
  | 0x40 => [(10, 22)]
  | 0x41 => [(18, 14)]
  | 0x42 => [(0, 32)]
  | 0x43 => [(0, 32)]
  | 0x44 => [(0, 32)]
  | 0x45 => [(0, 32)]
  | 0x46 => [(0, 32)]
  | 0x47 => [(0, 32)]
  | 0x48 => [(0, 32)]
  | 0x50 => [(8, 24)]
  | 0x51 => [(0, 32)]
  | 0x52 => [(10, 22)]
  | 0x53 => [(0, 32)]
  | 0x54 => [(0, 32)]
  | 0x55 => [(0, 32)]
  | 0x56 => [(0, 32)]
  | 0x62 => [(31, 1)]
  | 0x63 => [(27, 5)]
  | 0x64 => [(0, 32)]
  | 0x65 => [(0, 32)]
  | 0x66 => [(0, 32)]
  | 0x67 => [(0, 32)]
  | 0x68 => [(15, 17)]
  | 0x69 => [(15, 17)]
  | 0x6A => [(15, 17)]
  | 0x6B => [(15, 17)]
  | 0x6C => [(0, 32)]
  | 0x6D => [(0, 32)]
  | 0x6E => [(0, 32)]
  | 0x6F => [(0, 32)]
  | _ => []

/-- The fields of word A that must be zero (R240, R241). -/
def zeroA (op : Nat) : List (Nat × Nat) :=
  match op with
  | 0x00 => [(0, 24)]
  | 0x01 | 0x02 | 0x03 | 0x04 | 0x05 | 0x06 | 0x07 | 0x08 | 0x09 | 0x0A | 0x0B | 0x0C | 0x0D | 0x0E | 0x0F | 0x10 | 0x11 | 0x12 | 0x13 | 0x14 | 0x15 | 0x16 | 0x17 | 0x18 | 0x19 | 0x1A | 0x1B | 0x1C | 0x1D | 0x27 | 0x28 | 0x29 | 0x67 | 0x68 | 0x69 | 0x6A | 0x6B | 0x6E | 0x74 => [(0, 9)]
  | 0x1E | 0x1F | 0x20 | 0x21 | 0x22 | 0x23 | 0x24 | 0x25 | 0x26 | 0x2C | 0x6C | 0x6D => [(0, 14)]
  | 0x2A | 0x2B => [(12, 2)]
  | 0x44 | 0x45 | 0x46 => [(6, 8)]
  | 0x4A | 0x4B => [(14, 5)]
  | 0x60 | 0x61 | 0x62 | 0x63 | 0x64 | 0x65 | 0x70 | 0x71 | 0x72 | 0x73 => [(0, 6)]
  | 0x66 => [(0, 6), (9, 5)]
  | _ => []

/-- A field that must be zero only under a condition that holds (R243 item 2): MT with MU = 1, the unused key of ACMP,
RED's rounding bits without FADD, an unused operand of ASEQ, and word A of SEAL. -/
def condZero (op w e : Nat) : Bool :=
  match op with
  | 0x2B => fld w 5 4 != 8 && fld w 19 3 != 0
  | 0x60 => (flag w 17 && fld w 18 3 != 0) || (if flag w 14 then fld e 15 17 != 0 else fld w 9 5 != 0)
  | 0x61 | 0x6B => flag w 17 && fld w 18 3 != 0
  | 0x62 => (flag w 15 && fld w 16 3 != 0) ||
      (match SeqCode.ofCode? (fld w 19 5) with
       | none => false
       | some c => (!c.usesD && fld e 0 9 != 0) || (!c.usesA && fld e 9 9 != 0) || (!c.usesB && fld e 18 9 != 0) ||
                   (!c.usesS && fld w 6 5 != 0) || (!c.usesW2 && fld e 27 4 != 0))
  | 0x68 => flag w 15 && fld w 16 3 != 0
  | 0x7F => e != 0
  | _ => false

/-- The sub-fields that an engine chapter wants zero under a condition, of RPUSH, RWAIT, MFOLD and MNAR (R243 item 2, R338 to R344,
R352, R365); `w` is word C, and `e` is E, or 0 where the bundle is not lone. -/
def condSub (op w e : Nat) : Bool :=
  match op with
  | 0x44 => !flag w 0 && fld w 11 5 != 0
  | 0x46 => fld w 0 2 == 2 && fld w 10 6 != 0
  | 0x50 => flag w 9 && fld w 16 2 != 0
  | 0x52 =>
    let f := fld w 18 4
    ((f == 0 || (5 ≤ f && f ≤ 9)) && fld w 15 3 != 0) || (!(5 ≤ f && f ≤ 7) && fld w 0 5 != 0) ||
      (flag e 0 && fld w 5 5 != 0) || (!flag e 0 && fld e 1 9 != 0)
  | _ => false

/-- The items of R243, in its order: the first that fails is CCHK's CAUSE plus one (R245). -/
inductive Illegal
  | opcode | zeroField | scope7 | fieldValue | lone | operandLimit
deriving DecidableEq, Repr

/-- CCHK's CAUSE of an item (R245). -/
def Illegal.cause : Illegal → BitVec 3
  | .opcode => 0 | .zeroField => 1 | .scope7 => 2 | .fieldValue => 3 | .lone => 4 | .operandLimit => 5

/-- The CM instructions, whose bits 11:9 are a scope (R237, R238). -/
def isCM (op : Nat) : Bool := (0x18 ≤ op && op ≤ 0x1A) || (0x1D ≤ op && op ≤ 0x28) || op == 0x3A || op == 0x3B

/-- Whether a field list is all zero. -/
def allZero (w : Nat) (l : List (Nat × Nat)) : Bool := l.all fun p => fld w p.1 p.2 == 0

/-- LONE = 1 or 0 where R238 does not allow it. -/
def loneBad (op : Nat) (lone : Bool) : Bool :=
  match loneRule op with
  | .never => lone | .either => false | .always => !lone

/-- The branches, calls and LOOP with a PC-relative target, of 13 and of 18 bits (R238). -/
def isBranch (op : Nat) : Bool := op == 0x02 || op == 0x03 || (0x06 ≤ op && op ≤ 0x10)
/-- The target in E of a lone branch is no bundle index (R243 item 6). -/
def loneFar (op : Nat) (lone : Bool) (e : Nat) : Bool := lone && isBranch op && decide (8192 ≤ e)

/-- The branch target of a non-lone branch, or E of a lone one, outside 0 to 8191; a SEND past g31 (R243 item 6). -/
def limitBad (index : Nat) (lone : Bool) (w e : Nat) : Bool :=
  let op := w / 2 ^ 24 % 128
  if op == 0x30 then decide (31 < fld w 9 5 + fld w 0 3)
  else if isBranch op then
    if lone then loneFar op lone e
    else targetBad index (if (0x0A ≤ op && op ≤ 0x0F) then (BitVec.ofNat 13 w).toInt else (BitVec.ofNat 18 w).toInt)
  else false
where
  targetBad (index : Nat) (disp : Int) : Bool := decide ((index : Int) + disp < 0 ∨ 8192 ≤ (index : Int) + disp)

/-- The opcodes a service core's checker treats as unassigned (R217). -/
def serviceBarred (op : Nat) : Bool :=
  (0x43 ≤ op && op ≤ 0x48) || (0x50 ≤ op && op ≤ 0x56) || (0x60 ≤ op && op ≤ 0x6F)

/-- A bundle as its instructions: word C, and word A, which is NOP when the bundle is lone (R235). -/
structure Bundle where
  c : Instr
  a : Instr
deriving DecidableEq, Repr

/-- Whether the values of an instruction's fields in word C are legal where its bundle is not lone, though it must be: E then holds no
field of it. -/
def wfAlone : Instr → Bool
  | .aseq code mask dt _ w1m1 _ _ _ _ => mask != some dt && (code.fp16 == false || code == .f16fri || code == .f16toi || w1m1.toNat == 15)
  | .acmp .. | .awrt .. | .ard .. | .awr .. | .ascw .. | .arsum .. | .mnar .. | .cpy2 .. => true
  | i => i.wf
/-- The register number of an MFC or MTC that is lone, though it may not be, is E: word C with E in the place of imm14 (R236, R243). -/
def loneNumber (op : Nat) (lone : Bool) (w e : Nat) : Nat :=
  if lone && (op == 0x70 || op == 0x71) then w / 16384 * 16384 + min e 16383 else w
/-- Whether a field of a bundle has an illegal value (R243 item 4). The limit of a SEND is one of item 6. -/
def valueBad (lone : Bool) (w e : Nat) : Bool :=
  let op := w / 2 ^ 24 % 128
  let c : Option Bool := match loneRule op with
    | .always => if lone then (readC true w e).map Instr.wf else (readC true w 0).map wfAlone
    | .either => (readC lone w e).map Instr.wf
    | .never => (readC false (loneNumber op lone w e) 0).map fun i => i.wf || op == 0x30
  !c.getD false || (!lone && !((readA e).map Instr.wf).getD false)

/-- The code checker's verdict on a 64-bit pattern for bundle `index` of a core (R243, R246): the bundle, or the first
item that fails. -/
def checkBundle (svc : Bool) (index : Nat) (b : Nat) : Except Illegal Bundle :=
  let w := b % 2 ^ 32
  let e := b / 2 ^ 32 % 2 ^ 32
  let lone := flag w 31
  let op := w / 2 ^ 24 % 128
  let opA := e / 2 ^ 24 % 256
  let x := if lone then e else 0
  if op == 0x7F then (if w = 0x7F000000 ∧ e = 0 then .ok { c := .seal, a := .nopA } else .error (if lone then .lone else .zeroField))
  else if !assignedC op || (svc && serviceBarred op) || (!lone && !assignedA opA) then .error .opcode
  else if !allZero w (zeroC op lone w) || (lone && !allZero e (zeroE op)) || condZero op w x || condSub op w x
      || (!lone && !allZero e (zeroA opA)) then .error .zeroField
  else if isCM op && fld w 9 3 == 7 then .error .scope7
  else if valueBad lone w e then .error .fieldValue
  else if loneBad op lone then .error .lone
  else if limitBad index lone w e then .error .operandLimit
  else
    match readC lone w e, (if lone then some .nopA else readA e) with
    | some c, some a => .ok { c := c, a := a }
    | _, _ => .error .fieldValue

/-- The decoder of a core (R246): the instructions of a bundle in its store. Limits that depend on the bundle's own index
were checked when it was stored. -/
def decodeBundle (b : Nat) : Option Bundle :=
  let w := b % 2 ^ 32
  let e := b / 2 ^ 32 % 2 ^ 32
  let lone := flag w 31
  let op := w / 2 ^ 24 % 128
  if assignedC op && allZero w (zeroC op lone w) && !loneBad op lone && !condZero op w (if lone || op == 0x7F then e else 0)
      && !loneFar op lone e && (if lone then allZero e (zeroE op) else assignedA (e / 2 ^ 24 % 256) && allZero e (zeroA (e / 2 ^ 24 % 256))) then
    match readC lone w e, (if lone then some .nopA else readA e) with
    | some c, some a => if c.wf && a.wf then some { c := c, a := a } else none
    | _, _ => none
  else none

/-! ### The encoder -/

/-- The bits an instruction contributes to its bundle: word C (with E when lone) in its place, word A in bits 63:32.
An event has no encoding. -/
def encode : Instr → Option Nat
  | .nopC => some (0x00000000)
  | .endFiring => some (0x01000000)
  | .br n t => some (0x02000000 + bit n * 262144 + t.toNat)
  | .brLone n t => some (0x82000000 + bit n * 262144 + (t.toNat) * 2 ^ 32)
  | .call n t => some (0x03000000 + bit n * 262144 + t.toNat)
  | .callLone n t => some (0x83000000 + bit n * 262144 + (t.toNat) * 2 ^ 32)
  | .jmp a => some (0x04000000 + a.val * 16384)
  | .callr a => some (0x05000000 + a.val * 16384)
  | .bz a n t => some (0x06000000 + a.val * 524288 + bit n * 262144 + t.toNat)
  | .bzLone a n t => some (0x86000000 + a.val * 524288 + bit n * 262144 + (t.toNat) * 2 ^ 32)
  | .bnz a n t => some (0x07000000 + a.val * 524288 + bit n * 262144 + t.toNat)
  | .bnzLone a n t => some (0x87000000 + a.val * 524288 + bit n * 262144 + (t.toNat) * 2 ^ 32)
  | .bltz a n t => some (0x08000000 + a.val * 524288 + bit n * 262144 + t.toNat)
  | .bltzLone a n t => some (0x88000000 + a.val * 524288 + bit n * 262144 + (t.toNat) * 2 ^ 32)
  | .bgez a n t => some (0x09000000 + a.val * 524288 + bit n * 262144 + t.toNat)
  | .bgezLone a n t => some (0x89000000 + a.val * 524288 + bit n * 262144 + (t.toNat) * 2 ^ 32)
  | .beq a b n t => some (0x0A000000 + a.val * 524288 + b.val * 16384 + bit n * 8192 + t.toNat)
  | .beqLone a b n t => some (0x8A000000 + a.val * 524288 + b.val * 16384 + bit n * 8192 + (t.toNat) * 2 ^ 32)
  | .bne a b n t => some (0x0B000000 + a.val * 524288 + b.val * 16384 + bit n * 8192 + t.toNat)
  | .bneLone a b n t => some (0x8B000000 + a.val * 524288 + b.val * 16384 + bit n * 8192 + (t.toNat) * 2 ^ 32)
  | .blt a b n t => some (0x0C000000 + a.val * 524288 + b.val * 16384 + bit n * 8192 + t.toNat)
  | .bltLone a b n t => some (0x8C000000 + a.val * 524288 + b.val * 16384 + bit n * 8192 + (t.toNat) * 2 ^ 32)
  | .bge a b n t => some (0x0D000000 + a.val * 524288 + b.val * 16384 + bit n * 8192 + t.toNat)
  | .bgeLone a b n t => some (0x8D000000 + a.val * 524288 + b.val * 16384 + bit n * 8192 + (t.toNat) * 2 ^ 32)
  | .bltn a b n t => some (0x0E000000 + a.val * 524288 + b.val * 16384 + bit n * 8192 + t.toNat)
  | .bltnLone a b n t => some (0x8E000000 + a.val * 524288 + b.val * 16384 + bit n * 8192 + (t.toNat) * 2 ^ 32)
  | .bgen a b n t => some (0x0F000000 + a.val * 524288 + b.val * 16384 + bit n * 8192 + t.toNat)
  | .bgenLone a b n t => some (0x8F000000 + a.val * 524288 + b.val * 16384 + bit n * 8192 + (t.toNat) * 2 ^ 32)
  | .loop a n t => some (0x10000000 + a.val * 524288 + bit n * 262144 + t.toNat)
  | .loopLone a n t => some (0x90000000 + a.val * 524288 + bit n * 262144 + (t.toNat) * 2 ^ 32)
  | .movl d i => some (0x11000000 + d.val * 524288 + i.toNat)
  | .movlLone d e => some (0x91000000 + d.val * 524288 + (e.toNat) * 2 ^ 32)
  | .movlh d e => some (0x92000000 + d.val * 524288 + (e.toNat) * 2 ^ 32)
  | .trap i => some (0x13000000 + i.toNat)
  | .sleep i => some (0x14000000 + i.toNat)
  | .brk i => some (0x15000000 + i.toNat)
  | .ld d a sz p => some (0x18000000 + d.val * 524288 + a.val * 16384 + sz.code * 4096 + p.toNat)
  | .ldLone d a sz e => some (0x98000000 + d.val * 524288 + a.val * 16384 + sz.code * 4096 + (e.toNat) * 2 ^ 32)
  | .ldn d a sz p => some (0x19000000 + d.val * 524288 + a.val * 16384 + sz.code * 4096 + p.toNat)
  | .ldnLone d a sz e => some (0x99000000 + d.val * 524288 + a.val * 16384 + sz.code * 4096 + (e.toNat) * 2 ^ 32)
  | .st d a sz p => some (0x1A000000 + d.val * 524288 + a.val * 16384 + sz.code * 4096 + p.toNat)
  | .stLone d a sz e => some (0x9A000000 + d.val * 524288 + a.val * 16384 + sz.code * 4096 + (e.toNat) * 2 ^ 32)
  | .ldx d a b sz => some (0x1B000000 + d.val * 524288 + a.val * 16384 + b.val * 512 + sz.code)
  | .stx d a b sz => some (0x1C000000 + d.val * 524288 + a.val * 16384 + b.val * 512 + sz.code)
  | .lda d a sz sc p => some (0x1D000000 + d.val * 524288 + a.val * 16384 + sz.code * 4096 + sc.code * 512 + p.toNat)
  | .ldaLone d a sz sc e => some (0x9D000000 + d.val * 524288 + a.val * 16384 + sz.code * 4096 + sc.code * 512 + (e.toNat) * 2 ^ 32)
  | .stl d a sz sc p => some (0x1E000000 + d.val * 524288 + a.val * 16384 + sz.code * 4096 + sc.code * 512 + p.toNat)
  | .stlLone d a sz sc e => some (0x9E000000 + d.val * 524288 + a.val * 16384 + sz.code * 4096 + sc.code * 512 + (e.toNat) * 2 ^ 32)
  | .pref a p => some (0x1F000000 + a.val * 16384 + p.toNat)
  | .prefLone a e => some (0x9F000000 + a.val * 16384 + (e.toNat) * 2 ^ 32)
  | .ldw d a sc p => some (0x20000000 + 12288 + d.val * 524288 + a.val * 16384 + sc.code * 512 + p.toNat)
  | .ldwLone d a sc e => some (0xA0000000 + 12288 + d.val * 524288 + a.val * 16384 + sc.code * 512 + (e.toNat) * 2 ^ 32)
  | .ldt d a sc p => some (0x21000000 + 12288 + d.val * 524288 + a.val * 16384 + sc.code * 512 + p.toNat)
  | .ldtLone d a sc e => some (0xA1000000 + 12288 + d.val * 524288 + a.val * 16384 + sc.code * 512 + (e.toNat) * 2 ^ 32)
  | .stp d a sc p => some (0x22000000 + 12288 + d.val * 524288 + a.val * 16384 + sc.code * 512 + p.toNat)
  | .stpLone d a sc e => some (0xA2000000 + 12288 + d.val * 524288 + a.val * 16384 + sc.code * 512 + (e.toNat) * 2 ^ 32)
  | .stf d a sc p => some (0x23000000 + 12288 + d.val * 524288 + a.val * 16384 + sc.code * 512 + p.toNat)
  | .stfLone d a sc e => some (0xA3000000 + 12288 + d.val * 524288 + a.val * 16384 + sc.code * 512 + (e.toNat) * 2 ^ 32)
  | .emp a p => some (0x24000000 + 12288 + a.val * 16384 + p.toNat)
  | .empLone a e => some (0xA4000000 + 12288 + a.val * 16384 + (e.toNat) * 2 ^ 32)
  | .feq d a p => some (0x25000000 + 12288 + d.val * 524288 + a.val * 16384 + p.toNat)
  | .feqLone d a e => some (0xA5000000 + 12288 + d.val * 524288 + a.val * 16384 + (e.toNat) * 2 ^ 32)
  | .ldwt d a sc p => some (0x26000000 + 12288 + d.val * 524288 + a.val * 16384 + sc.code * 512 + p.toNat)
  | .ldwtLone d a sc e => some (0xA6000000 + 12288 + d.val * 524288 + a.val * 16384 + sc.code * 512 + (e.toNat) * 2 ^ 32)
  | .ldtt d a sc p => some (0x27000000 + 12288 + d.val * 524288 + a.val * 16384 + sc.code * 512 + p.toNat)
  | .ldttLone d a sc e => some (0xA7000000 + 12288 + d.val * 524288 + a.val * 16384 + sc.code * 512 + (e.toNat) * 2 ^ 32)
  | .stpt d a sc p => some (0x28000000 + 12288 + d.val * 524288 + a.val * 16384 + sc.code * 512 + p.toNat)
  | .stptLone d a sc e => some (0xA8000000 + 12288 + d.val * 524288 + a.val * 16384 + sc.code * 512 + (e.toNat) * 2 ^ 32)
  | .amo d a b op sc w fe => some (0x29000000 + d.val * 524288 + a.val * 16384 + b.val * 512 + op.code * 32 + sc.code * 4 + bit w * 2 + bit fe)
  | .cas d a b sc w => some (0x2A000000 + d.val * 524288 + a.val * 16384 + b.val * 512 + sc.code * 4 + bit w * 2)
  | .red a b op sc w => some (0x2B000000 + a.val * 16384 + b.val * 512 + op.code * 32 + op.round * 524288 + sc.code * 4 + bit w * 2)
  | .fenceOrd sc => some (0x2C000000 + sc.code * 4)
  | .fenceR => some (0x2C000000 + 1)
  | .fenceA => some (0x2C000000 + 2)
  | .fenceE => some (0x2C000000 + 3)
  | .send a b l => some (0x30000000 + a.val * 16384 + b.val * 512 + l.val)
  | .recv d a p w => some (0x31000000 + d.val * 524288 + a.val * 16384 + p.val * 64 + w.val * 8)
  | .pcnt d p => some (0x32000000 + d.val * 524288 + p.val * 64)
  | .bar l => some (0x33000000 + l.code)
  | .bara l => some (0x34000000 + l.code)
  | .barw l => some (0x35000000 + l.code)
  | .rbc a b sc => some (0x36000000 + a.val * 16384 + b.val * 512 + sc.code * 4)
  | .rclr b sc => some (0x37000000 + b.val * 512 + sc.code * 4)
  | .ltrig => some (0x38000000)
  | .migr a => some (0x39000000 + a.val * 16384)
  | .park d a p => some (0x3A000000 + 12288 + d.val * 524288 + a.val * 16384 + p.toNat)
  | .parkLone d a e => some (0xBA000000 + 12288 + d.val * 524288 + a.val * 16384 + (e.toNat) * 2 ^ 32)
  | .tarm a p => some (0x3B000000 + 12288 + a.val * 16384 + p.toNat)
  | .tarmLone a e => some (0xBB000000 + 12288 + a.val * 16384 + (e.toNat) * 2 ^ 32)
  | .cpy d a b c w mode sc => some (0xC0000000 + d.val * 524288 + a.val * 16384 + b.val * 512 + c.val * 16 + (w.val + mode.code * 32 + sc.code * 128) * 2 ^ 32)
  | .cpy2 d a b c w st mode sc esz tr => some (0xC1000000 + d.val * 524288 + a.val * 16384 + b.val * 512 + c.val * 16 + (w.val + st.val * 1024 + mode.code * 32 + sc.code * 128 + esz.code * 32768 + bit tr * 131072) * 2 ^ 32)
  | .cpyw mask => some (0xC2000000 + mask.toNat)
  | .rcfg h a b => some (0xC3000000 + h.val * 2097152 + a.val * 2048 + b.val * 64)
  | .rpush h remote a => some (0xC4000000 + h.val * 2097152 + bit remote + a.val * 2048)
  | .rpop h d => some (0xC5000000 + h.val * 2097152 + d.val * 65536)
  | .rwait h n cond => some (0xC6000000 + h.val * 2097152 + n.toNat * 1024 + cond.code)
  | .rfree h n => some (0xC7000000 + h.val * 2097152 + n.toNat * 1024)
  | .rq h d sel => some (0xC8000000 + h.val * 2097152 + d.val * 65536 + sel.val)
  | .mfold acc fmt home ra rb solo pin nkm1 => some (0xD0000000 + acc.val * 4194304 + fmt.code * 262144 + home.val * 65536 + ra.val * 8192 + rb.val * 1024 + bit solo * 512 + bit pin * 256 + (nkm1.toNat) * 2 ^ 32)
  | .mzero acc => some (0xD1000000 + acc.val * 4194304)
  | .mnar acc fmt rm a b c arr => some (0xD2000000 + acc.val * 4194304 + fmt.code * 262144 + rm.code * 32768 + a.val * 1024 + b.val * 32 + c.val + (arrBit arr + arrOff arr * 2) * 2 ^ 32)
  | .mwid acc fmt a b => some (0xD3000000 + acc.val * 4194304 + fmt.code * 262144 + a.val * 1024 + b.val * 32)
  | .mrec acc d => some (0xD4000000 + acc.val * 4194304 + d.val * 131072)
  | .mwait mask => some (0xD5000000 + mask.toNat)
  | .mq d => some (0xD6000000 + d.val * 131072)
  | .acmp dt mask op key f => some (0xE0000000 + dt.val * 2097152 + maskMt mask * 262144 + maskMu mask * 131072 + op.code * 32768 + key.kr * 16384 + key.a * 512 + (key.imm17 * 32768 + f.off.toNat + f.wm1.toNat * 512) * 2 ^ 32)
  | .awrt mask f v => some (0xE1000000 + maskMt mask * 262144 + maskMu mask * 131072 + (f.off.toNat + f.wm1.toNat * 512 + v.toNat * 32768) * 2 ^ 32)
  | .aseq code mask dt s w1m1 w2m1 doff aoff boff => some (0xE2000000 + code.code * 524288 + maskMt mask * 65536 + maskMu mask * 32768 + dt.val * 4096 + s.val * 64 + w1m1.toNat * 4 + (w2m1.toNat * 134217728 + doff.toNat + aoff.toNat * 512 + boff.toNat * 262144) * 2 ^ 32)
  | .ausq start doff aoff boff => some (0xE3000000 + start.toNat * 65536 + (doff.toNat + aoff.toNat * 512 + boff.toNat * 262144) * 2 ^ 32)
  | .abnd dt a b => some (0xE4000000 + dt.val * 2097152 + a.val * 512 + b.val * 16)
  | .atag dt ta tb fn => some (0xE5000000 + dt.val * 2097152 + ta.val * 262144 + tb.val * 32768 + fn.toNat * 2048)
  | .acnt d ta => some (0xE6000000 + d.val * 524288 + ta.val * 65536)
  | .afst d ta clr => some (0xE7000000 + d.val * 524288 + ta.val * 65536 + bit clr * 32768)
  | .arsum d mask sg f => some (0xE8000000 + d.val * 524288 + maskMt mask * 65536 + maskMu mask * 32768 + bit sg * 16384 + (f.off.toNat + f.wm1.toNat * 512) * 2 ^ 32)
  | .ard d a sg f => some (0xE9000000 + d.val * 524288 + a.val * 16384 + bit sg * 8192 + (f.off.toNat + f.wm1.toNat * 512) * 2 ^ 32)
  | .awr a b f => some (0xEA000000 + a.val * 16384 + b.val * 512 + (f.off.toNat + f.wm1.toNat * 512) * 2 ^ 32)
  | .ascw mask a f => some (0xEB000000 + maskMt mask * 262144 + maskMu mask * 131072 + a.val * 512 + (f.off.toNat + f.wm1.toNat * 512) * 2 ^ 32)
  | .asql a => some (0xEC000000 + a.val * 16384)
  | .arws d => some (0xED000000 + d.val * 524288)
  | .atrc s => some (0xEE000000 + s.val * 512)
  | .arwd a => some (0xEF000000 + a.val * 512)
  | .mfc d n => some (0x70000000 + d.val * 524288 + n.toNat)
  | .mtc a n => some (0x71000000 + a.val * 16384 + n.toNat)
  | .resume a b => some (0x72000000 + a.val * 16384 + b.val * 512)
  | .tlbw d a b => some (0x73000000 + d.val * 524288 + a.val * 16384 + b.val * 512)
  | .tlbi a => some (0x74000000 + a.val * 16384)
  | .tlbs a => some (0x75000000 + a.val * 16384)
  | .seal => some (0x7F000000)
  | .nopA => some ((0x00000000) * 2 ^ 32)
  | .add d a b => some ((0x01000000 + d.val * 524288 + a.val * 16384 + b.val * 512) * 2 ^ 32)
  | .sub d a b => some ((0x02000000 + d.val * 524288 + a.val * 16384 + b.val * 512) * 2 ^ 32)
  | .mul d a b => some ((0x03000000 + d.val * 524288 + a.val * 16384 + b.val * 512) * 2 ^ 32)
  | .mulh d a b => some ((0x04000000 + d.val * 524288 + a.val * 16384 + b.val * 512) * 2 ^ 32)
  | .mulhn d a b => some ((0x05000000 + d.val * 524288 + a.val * 16384 + b.val * 512) * 2 ^ 32)
  | .div d a b => some ((0x06000000 + d.val * 524288 + a.val * 16384 + b.val * 512) * 2 ^ 32)
  | .divn d a b => some ((0x07000000 + d.val * 524288 + a.val * 16384 + b.val * 512) * 2 ^ 32)
  | .rem d a b => some ((0x08000000 + d.val * 524288 + a.val * 16384 + b.val * 512) * 2 ^ 32)
  | .remn d a b => some ((0x09000000 + d.val * 524288 + a.val * 16384 + b.val * 512) * 2 ^ 32)
  | .andR d a b => some ((0x0A000000 + d.val * 524288 + a.val * 16384 + b.val * 512) * 2 ^ 32)
  | .orR d a b => some ((0x0B000000 + d.val * 524288 + a.val * 16384 + b.val * 512) * 2 ^ 32)
  | .xorR d a b => some ((0x0C000000 + d.val * 524288 + a.val * 16384 + b.val * 512) * 2 ^ 32)
  | .andn d a b => some ((0x0D000000 + d.val * 524288 + a.val * 16384 + b.val * 512) * 2 ^ 32)
  | .orn d a b => some ((0x0E000000 + d.val * 524288 + a.val * 16384 + b.val * 512) * 2 ^ 32)
  | .shl d a b => some ((0x0F000000 + d.val * 524288 + a.val * 16384 + b.val * 512) * 2 ^ 32)
  | .shr d a b => some ((0x10000000 + d.val * 524288 + a.val * 16384 + b.val * 512) * 2 ^ 32)
  | .sar d a b => some ((0x11000000 + d.val * 524288 + a.val * 16384 + b.val * 512) * 2 ^ 32)
  | .rol d a b => some ((0x12000000 + d.val * 524288 + a.val * 16384 + b.val * 512) * 2 ^ 32)
  | .minR d a b => some ((0x13000000 + d.val * 524288 + a.val * 16384 + b.val * 512) * 2 ^ 32)
  | .maxR d a b => some ((0x14000000 + d.val * 524288 + a.val * 16384 + b.val * 512) * 2 ^ 32)
  | .minn d a b => some ((0x15000000 + d.val * 524288 + a.val * 16384 + b.val * 512) * 2 ^ 32)
  | .maxn d a b => some ((0x16000000 + d.val * 524288 + a.val * 16384 + b.val * 512) * 2 ^ 32)
  | .ceq d a b => some ((0x17000000 + d.val * 524288 + a.val * 16384 + b.val * 512) * 2 ^ 32)
  | .cne d a b => some ((0x18000000 + d.val * 524288 + a.val * 16384 + b.val * 512) * 2 ^ 32)
  | .clt d a b => some ((0x19000000 + d.val * 524288 + a.val * 16384 + b.val * 512) * 2 ^ 32)
  | .cle d a b => some ((0x1A000000 + d.val * 524288 + a.val * 16384 + b.val * 512) * 2 ^ 32)
  | .cltn d a b => some ((0x1B000000 + d.val * 524288 + a.val * 16384 + b.val * 512) * 2 ^ 32)
  | .clen d a b => some ((0x1C000000 + d.val * 524288 + a.val * 16384 + b.val * 512) * 2 ^ 32)
  | .sel d a b => some ((0x1D000000 + d.val * 524288 + a.val * 16384 + b.val * 512) * 2 ^ 32)
  | .clz d a => some ((0x1E000000 + d.val * 524288 + a.val * 16384) * 2 ^ 32)
  | .ctz d a => some ((0x1F000000 + d.val * 524288 + a.val * 16384) * 2 ^ 32)
  | .popc d a => some ((0x20000000 + d.val * 524288 + a.val * 16384) * 2 ^ 32)
  | .sxb d a => some ((0x21000000 + d.val * 524288 + a.val * 16384) * 2 ^ 32)
  | .sxh d a => some ((0x22000000 + d.val * 524288 + a.val * 16384) * 2 ^ 32)
  | .sxw d a => some ((0x23000000 + d.val * 524288 + a.val * 16384) * 2 ^ 32)
  | .zxb d a => some ((0x24000000 + d.val * 524288 + a.val * 16384) * 2 ^ 32)
  | .zxh d a => some ((0x25000000 + d.val * 524288 + a.val * 16384) * 2 ^ 32)
  | .zxw d a => some ((0x26000000 + d.val * 524288 + a.val * 16384) * 2 ^ 32)
  | .addw d a b => some ((0x27000000 + d.val * 524288 + a.val * 16384 + b.val * 512) * 2 ^ 32)
  | .subw d a b => some ((0x28000000 + d.val * 524288 + a.val * 16384 + b.val * 512) * 2 ^ 32)
  | .mulw d a b => some ((0x29000000 + d.val * 524288 + a.val * 16384 + b.val * 512) * 2 ^ 32)
  | .bext d a pos len => some ((0x2A000000 + d.val * 524288 + a.val * 16384 + pos.toNat * 64 + len.toNat) * 2 ^ 32)
  | .bins d a pos len => some ((0x2B000000 + d.val * 524288 + a.val * 16384 + pos.toNat * 64 + len.toNat) * 2 ^ 32)
  | .bswp d a => some ((0x2C000000 + d.val * 524288 + a.val * 16384) * 2 ^ 32)
  | .addi d a i => some ((0x40000000 + d.val * 524288 + a.val * 16384 + i.toNat) * 2 ^ 32)
  | .andi d a i => some ((0x41000000 + d.val * 524288 + a.val * 16384 + i.toNat) * 2 ^ 32)
  | .ori d a i => some ((0x42000000 + d.val * 524288 + a.val * 16384 + i.toNat) * 2 ^ 32)
  | .xori d a i => some ((0x43000000 + d.val * 524288 + a.val * 16384 + i.toNat) * 2 ^ 32)
  | .shli d a s => some ((0x44000000 + d.val * 524288 + a.val * 16384 + s.toNat) * 2 ^ 32)
  | .shri d a s => some ((0x45000000 + d.val * 524288 + a.val * 16384 + s.toNat) * 2 ^ 32)
  | .sari d a s => some ((0x46000000 + d.val * 524288 + a.val * 16384 + s.toNat) * 2 ^ 32)
  | .ceqi d a i => some ((0x47000000 + d.val * 524288 + a.val * 16384 + i.toNat) * 2 ^ 32)
  | .clti d a i => some ((0x48000000 + d.val * 524288 + a.val * 16384 + i.toNat) * 2 ^ 32)
  | .cltni d a i => some ((0x49000000 + d.val * 524288 + a.val * 16384 + i.toNat) * 2 ^ 32)
  | .movi d i => some ((0x4A000000 + d.val * 524288 + i.toNat) * 2 ^ 32)
  | .movhi d i => some ((0x4B000000 + d.val * 524288 + i.toNat) * 2 ^ 32)
  | .fadd d a b r => some ((0x60000000 + d.val * 524288 + a.val * 16384 + b.val * 512 + r.code * 64) * 2 ^ 32)
  | .fsub d a b r => some ((0x61000000 + d.val * 524288 + a.val * 16384 + b.val * 512 + r.code * 64) * 2 ^ 32)
  | .fmul d a b r => some ((0x62000000 + d.val * 524288 + a.val * 16384 + b.val * 512 + r.code * 64) * 2 ^ 32)
  | .fma d a b r => some ((0x63000000 + d.val * 524288 + a.val * 16384 + b.val * 512 + r.code * 64) * 2 ^ 32)
  | .fms d a b r => some ((0x64000000 + d.val * 524288 + a.val * 16384 + b.val * 512 + r.code * 64) * 2 ^ 32)
  | .fdiv d a b r => some ((0x65000000 + d.val * 524288 + a.val * 16384 + b.val * 512 + r.code * 64) * 2 ^ 32)
  | .fsqrt d a r => some ((0x66000000 + d.val * 524288 + a.val * 16384 + r.code * 64) * 2 ^ 32)
  | .fmin d a b => some ((0x67000000 + d.val * 524288 + a.val * 16384 + b.val * 512) * 2 ^ 32)
  | .fmax d a b => some ((0x68000000 + d.val * 524288 + a.val * 16384 + b.val * 512) * 2 ^ 32)
  | .fceq d a b => some ((0x69000000 + d.val * 524288 + a.val * 16384 + b.val * 512) * 2 ^ 32)
  | .fclt d a b => some ((0x6A000000 + d.val * 524288 + a.val * 16384 + b.val * 512) * 2 ^ 32)
  | .fcle d a b => some ((0x6B000000 + d.val * 524288 + a.val * 16384 + b.val * 512) * 2 ^ 32)
  | .fabs d a => some ((0x6C000000 + d.val * 524288 + a.val * 16384) * 2 ^ 32)
  | .fneg d a => some ((0x6D000000 + d.val * 524288 + a.val * 16384) * 2 ^ 32)
  | .fcpys d a b => some ((0x6E000000 + d.val * 524288 + a.val * 16384 + b.val * 512) * 2 ^ 32)
  | .cvtif d a src dst r => some ((0x70000000 + d.val * 524288 + a.val * 16384 + (4 * dst.code + src.code) * 512 + r.code * 64) * 2 ^ 32)
  | .cvtfi d a src dst r => some ((0x71000000 + d.val * 524288 + a.val * 16384 + (4 * src.code + dst.code) * 512 + r.code * 64) * 2 ^ 32)
  | .cvtff d a p r => some ((0x72000000 + d.val * 524288 + a.val * 16384 + p.code * 512 + r.code * 64) * 2 ^ 32)
  | .pk2 d a f r => some ((0x73000000 + d.val * 524288 + a.val * 16384 + f.code * 512 + r.code * 64) * 2 ^ 32)
  | .unpk d a f => some ((0x74000000 + d.val * 524288 + a.val * 16384 + f.code * 512) * 2 ^ 32)
  | _ => none

/-- Whether an instruction is one of word A. -/
def Instr.isA : Instr → Bool
  | .nopA .. => true
  | .add .. => true
  | .sub .. => true
  | .mul .. => true
  | .mulh .. => true
  | .mulhn .. => true
  | .div .. => true
  | .divn .. => true
  | .rem .. => true
  | .remn .. => true
  | .andR .. => true
  | .orR .. => true
  | .xorR .. => true
  | .andn .. => true
  | .orn .. => true
  | .shl .. => true
  | .shr .. => true
  | .sar .. => true
  | .rol .. => true
  | .minR .. => true
  | .maxR .. => true
  | .minn .. => true
  | .maxn .. => true
  | .ceq .. => true
  | .cne .. => true
  | .clt .. => true
  | .cle .. => true
  | .cltn .. => true
  | .clen .. => true
  | .sel .. => true
  | .clz .. => true
  | .ctz .. => true
  | .popc .. => true
  | .sxb .. => true
  | .sxh .. => true
  | .sxw .. => true
  | .zxb .. => true
  | .zxh .. => true
  | .zxw .. => true
  | .addw .. => true
  | .subw .. => true
  | .mulw .. => true
  | .bext .. => true
  | .bins .. => true
  | .bswp .. => true
  | .addi .. => true
  | .andi .. => true
  | .ori .. => true
  | .xori .. => true
  | .shli .. => true
  | .shri .. => true
  | .sari .. => true
  | .ceqi .. => true
  | .clti .. => true
  | .cltni .. => true
  | .movi .. => true
  | .movhi .. => true
  | .fadd .. => true
  | .fsub .. => true
  | .fmul .. => true
  | .fma .. => true
  | .fms .. => true
  | .fdiv .. => true
  | .fsqrt .. => true
  | .fmin .. => true
  | .fmax .. => true
  | .fceq .. => true
  | .fclt .. => true
  | .fcle .. => true
  | .fabs .. => true
  | .fneg .. => true
  | .fcpys .. => true
  | .cvtif .. => true
  | .cvtfi .. => true
  | .cvtff .. => true
  | .pk2 .. => true
  | .unpk .. => true
  | _ => false

/-- Whether an instruction is one of word C. -/
def Instr.isC (i : Instr) : Bool := (encode i).isSome && !i.isA

/-- The bundle that holds an instruction and NOP in its other word. -/
def soloBundle (i : Instr) : Bundle := if i.isA then { c := .nopC, a := i } else { c := i, a := .nopA }

/-- The place of a table row's bits in a bundle: word C where they are a legal word C, else word A (log entry 2). -/
def tableBundle (nbits w : Nat) : Nat :=
  let v := w % 2 ^ nbits
  if (decodeBundle v).isSome then v else v * 2 ^ 32

/-- What the decoder reads from a table row's bits: rows of both words are numbered from bit 0 of their own word. -/
def decodeTableWord (nbits w : Nat) : Option Instr :=
  (decodeBundle (tableBundle nbits w)).map fun b => if b.c = .nopC then (if b.a = .nopA then .nopC else b.a) else b.c

end Sys2Proof
end

