-- ==== Sys2Proof/Machine/Numbers.lean ====
section
/-!
DEFINITION. The number formats, the rounding functions and the dual-exponent blocks (12_number_formats R221 to R234).
Values are exact: a finite value is a sign and a quotient of two natural numbers, and only the rounding functions
narrow.
-/
namespace Sys2Proof.Machine

/-- The binary formats (R221). -/
inductive FpFmt | fp32 | fp16 | bf16 | e5m2 | e4m3
deriving DecidableEq, Repr

/-- Width in bits (R221). -/
def FpFmt.bits : FpFmt → Nat | .fp32 => 32 | .fp16 | .bf16 => 16 | .e5m2 | .e4m3 => 8
/-- Number of fraction bits p (R221). -/
def FpFmt.frac : FpFmt → Nat | .fp32 => 23 | .fp16 => 10 | .bf16 => 7 | .e5m2 => 2 | .e4m3 => 3
/-- Exponent bias (R221). -/
def FpFmt.bias : FpFmt → Nat | .fp32 | .bf16 => 127 | .fp16 | .e5m2 => 15 | .e4m3 => 7
/-- Largest finite magnitude, as its encoding (R221). -/
def FpFmt.maxFinite : FpFmt → Nat
  | .fp32 => 0x7F7FFFFF | .fp16 => 0x7BFF | .bf16 => 0x7F7F | .e5m2 => 0x7B | .e4m3 => 0x7E
/-- The canonical NaN (R221, R223). -/
def FpFmt.nan : FpFmt → Nat
  | .fp32 => 0x7FC00000 | .fp16 => 0x7E00 | .bf16 => 0x7FC0 | .e5m2 => 0x7E | .e4m3 => 0x7F
/-- +Inf; E4M3 has none, and its NaN stands here (R221, R223). -/
def FpFmt.inf : FpFmt → Nat
  | .fp32 => 0x7F800000 | .fp16 => 0x7C00 | .bf16 => 0x7F80 | .e5m2 => 0x7C | .e4m3 => 0x7F
/-- The sign bit's weight. -/
def FpFmt.sign (f : FpFmt) : Nat := 2 ^ (f.bits - 1)

/-- The value of an encoding (R222): a NaN with whether it signals, an infinity, or the exact quotient `n / d`. -/
inductive Val
  | nan (signalling : Bool)
  | inf (neg : Bool)
  | fin (neg : Bool) (n d : Nat)
deriving DecidableEq, Repr

/-! ### The sticky flags (R230) -/

/-- Invalid operation. -/
def fNV : BitVec 5 := 1
/-- Divide by zero. -/
def fDZ : BitVec 5 := 2
/-- Overflow. -/
def fOF : BitVec 5 := 4
/-- Underflow. -/
def fUF : BitVec 5 := 8
/-- Inexact. -/
def fNX : BitVec 5 := 16
/-- A flag raised under a condition. -/
def flagIf (b : Bool) (f : BitVec 5) : BitVec 5 := if b then f else 0

/-! ### Decoding (R222) -/

/-- `m · 2^k` as a quotient. -/
def scaled (neg : Bool) (m : Nat) (k : Int) : Val :=
  if 0 ≤ k then .fin neg (m * 2 ^ k.toNat) 1 else .fin neg m (2 ^ (-k).toNat)

/-- The value that the low bits of `w` encode in format `f` (R222, R263). -/
def FpFmt.decode (f : FpFmt) (w : Nat) : Val :=
  let neg := w.testBit (f.bits - 1)
  let mag := w % f.sign
  let e := mag / 2 ^ f.frac
  let fr := mag % 2 ^ f.frac
  if f = .e4m3 ∧ mag = 0x7F then .nan false
  else if f ≠ .e4m3 ∧ mag = f.inf then .inf neg
  else if f ≠ .e4m3 ∧ f.inf < mag then .nan (!fr.testBit (f.frac - 1))
  else if e = 0 then scaled neg fr (1 - f.bias - f.frac)
  else scaled neg (2 ^ f.frac + fr) ((e : Int) - f.bias - f.frac)

/-! ### Rounding (R225, R226) -/

/-- The integer from the non-negative quotient `n / d` for a value of sign `neg` (R225). -/
def intround (n d : Nat) (m : Mode) (neg : Bool) : Nat :=
  let q := n / d
  let r := n % d
  match m with
  | .rtz => q
  | .rdn => if neg && r != 0 then q + 1 else q
  | .rup => if !neg && r != 0 then q + 1 else q
  | .rne => if 2 * r > d || (2 * r == d && q % 2 == 1) then q + 1 else q

/-- intround of `(n / d) / 2^q` (R226). -/
def introundAt (n d : Nat) (q : Int) (m : Mode) (neg : Bool) : Nat :=
  if 0 ≤ q then intround n (d * 2 ^ q.toNat) m neg else intround (n * 2 ^ (-q).toNat) d m neg

/-- Whether `(n / d) / 2^q` is an integer. -/
def exactAt (n d : Nat) (q : Int) : Bool :=
  if 0 ≤ q then n % (d * 2 ^ q.toNat) == 0 else (n * 2 ^ (-q).toNat) % d == 0

/-- `⌊log2 (n / d)⌋` of a positive quotient (R226). -/
def log2Quot (n d : Nat) : Int :=
  let k : Int := (Nat.log2 n : Int) - Nat.log2 d
  let ge : Bool := if 0 ≤ k then decide (d * 2 ^ k.toNat ≤ n) else decide (d ≤ n * 2 ^ (-k).toNat)
  if ge then k else k - 1

/-- The encoding of a magnitude with a sign. -/
def FpFmt.signed (f : FpFmt) (neg : Bool) (mag : Nat) : Nat := if neg then f.sign + mag else mag

/-- What a result beyond the largest finite value becomes (R226). -/
def FpFmt.overflow (f : FpFmt) (m : Mode) (neg : Bool) : Nat :=
  if f = .e4m3 then f.signed neg f.maxFinite
  else if m = .rne ∨ (m = .rup ∧ neg = false) ∨ (m = .rdn ∧ neg = true) then f.signed neg f.inf
  else f.signed neg f.maxFinite

/-- round(x, F, m) of R226: the encoding and the flags. -/
def FpFmt.round (f : FpFmt) (m : Mode) (x : Val) : Nat × BitVec 5 :=
  match x with
  | .nan _ => (f.nan, 0)
  | .inf neg => if f = .e4m3 then (f.nan, fNV) else (f.signed neg f.inf, 0)
  | .fin neg n d =>
    if n = 0 then (f.signed neg 0, 0) else
    let e := log2Quot n d
    let emin : Int := 1 - f.bias
    let q := max e emin - f.frac
    let y := introundAt n d q m neg
    let mag := (max e emin - emin).toNat * 2 ^ f.frac + y
    let inexact := !exactAt n d q
    let yu := introundAt n d (e - f.frac) m neg
    let tiny := decide (e + 1 < emin) || (decide (e + 1 = emin) && decide (yu < 2 ^ (f.frac + 1)))
    let fl := flagIf inexact fNX ||| flagIf (tiny && inexact) fUF
    if f.maxFinite < mag then (f.overflow m neg, fl ||| fOF ||| fNX) else (f.signed neg mag, fl)

/-- The named roundings of R227 discard the flags. -/
def fp32RNE (x : Val) : Nat := (FpFmt.fp32.round .rne x).1
/-- As fp32RNE, to FP16. -/
def fp16RNE (x : Val) : Nat := (FpFmt.fp16.round .rne x).1
/-- As fp32RNE, to BF16. -/
def bf16RNE (x : Val) : Nat := (FpFmt.bf16.round .rne x).1
/-- The integer nearest to `n / d`; on a tie, the even one (R227). -/
def roundRNE (n d : Nat) : Nat := intround n d .rne false
/-- `min(max(n, 0), 4095)` (R227). -/
def sat12 (n : Int) : Nat := (min (max n 0) 4095).toNat

/-! ### Exact arithmetic on values (R224, R228) -/

/-- Whether a value is a NaN. -/
def Val.isNan : Val → Bool | .nan _ => true | _ => false
/-- Whether a value is a signalling NaN. -/
def Val.isSnan : Val → Bool | .nan s => s | _ => false
/-- Whether a value is ±0. -/
def Val.isZero : Val → Bool | .fin _ n _ => n == 0 | _ => false
/-- Whether a value is finite. -/
def Val.isFin : Val → Bool | .fin .. => true | _ => false
/-- Whether a value is an infinity. -/
def Val.isInf : Val → Bool | .inf _ => true | _ => false
/-- The sign of a value; a NaN counts as positive. -/
def Val.neg : Val → Bool | .nan _ => false | .inf s => s | .fin s _ _ => s
/-- The value with the other sign. -/
def Val.negate : Val → Val | .nan s => .nan s | .inf s => .inf (!s) | .fin s n d => .fin (!s) n d
/-- The value of an integer; 0 is +0. -/
def Val.ofInt (i : Int) : Val := .fin (decide (i < 0)) i.natAbs 1
/-- A finite value's exact numerator over `d`, with its sign. -/
def signedNum (neg : Bool) (n : Nat) : Int := if neg then -(n : Int) else n

/-- The exact sum of two values that are no NaN; `none` where Inf meets Inf of the other sign (R228, R258). -/
def Val.add (m : Mode) : Val → Val → Option Val
  | .inf s, .inf t => if s = t then some (.inf s) else none
  | .inf s, _ => some (.inf s)
  | _, .inf t => some (.inf t)
  | .fin s a b, .fin t c d =>
    if a = 0 ∧ c = 0 ∧ s = t then some (.fin s 0 1) else
    let n := signedNum s a * d + signedNum t c * b
    some (if n = 0 then .fin (decide (m = .rdn)) 0 1 else .fin (decide (n < 0)) n.natAbs (b * d))
  | x, _ => some x

/-- The exact product of two values that are no NaN; `none` for 0 · Inf (R258). -/
def Val.mul : Val → Val → Option Val
  | .fin s a b, .fin t c d => some (.fin (s != t) (a * c) (b * d))
  | x, y => if x.isZero || y.isZero then none else some (.inf (x.neg != y.neg))

/-- Less-than on values that are no NaN; +0 and −0 are equal. -/
def Val.lt : Val → Val → Bool
  | .inf s, .inf t => s && !t
  | .inf s, _ => s
  | _, .inf t => !t
  | .fin s a b, .fin t c d => decide (signedNum s a * d < signedNum t c * b)
  | _, _ => false

/-- Equality of values that are no NaN; +0 and −0 are equal. -/
def Val.eq (x y : Val) : Bool := !x.isNan && !y.isNan && !x.lt y && !y.lt x

/-- The integer square root, one bit of the result for each unit of fuel from the top. -/
def isqrtAux (n : Nat) : Nat → Nat → Nat
  | 0, r => r
  | k + 1, r => let c := r + 2 ^ k; isqrtAux n k (if c * c ≤ n then c else r)

/-- `⌊√n⌋`. -/
def isqrt (n : Nat) : Nat := isqrtAux n (Nat.log2 n / 2 + 1) 0

/-- The square root of a non-negative finite value, exact where it is a quotient of these and otherwise replaced by one
between the same two neighbours of any format of R221, so that every rounding is that of the exact root. -/
def sqrtVal (n d : Nat) : Val :=
  let big := n * d * 2 ^ 400
  let r := isqrt big
  .fin false (2 * r + (if r * r = big then 0 else 1)) (2 * d * 2 ^ 200)

/-! ### The dual-exponent blocks (R231 to R234) -/

/-- The dual-exponent formats (R231). -/
inductive DxbFmt | dxb8 | dxb6 | dxb4
deriving DecidableEq, Repr

/-- Bits of an element (R231). -/
def DxbFmt.bits : DxbFmt → Nat | .dxb8 => 8 | .dxb6 => 6 | .dxb4 => 4
/-- Bits of m (R231). -/
def DxbFmt.mbits : DxbFmt → Nat | .dxb8 => 6 | .dxb6 => 4 | .dxb4 => 2
/-- Largest m (R231). -/
def DxbFmt.mmax : DxbFmt → Nat | .dxb8 => 63 | .dxb6 => 15 | .dxb4 => 3
/-- Offset (R231). -/
def DxbFmt.off : DxbFmt → Nat | .dxb8 => 5 | .dxb6 => 3 | .dxb4 => 1

/-- Whether a scale word makes its block legal (R232). -/
def dxbLegal (scale : Nat) : Bool :=
  let e1 := scale / 256 % 256
  let e0 := scale % 256
  if e1 = 0xFF then e0 != 0xFF else decide (e0 ≤ e1 ∧ e1 - e0 ≤ 24)

/-- fromDXB of R232; `none` is ILLEGAL. -/
def fromDXB (f : DxbFmt) (scale el : Nat) : Option Val :=
  let e1 := scale / 256 % 256
  let e0 := scale % 256
  let m := el % 2 ^ f.mbits
  let neg := el.testBit f.mbits
  let sel := el.testBit (f.mbits + 1)
  if !dxbLegal scale then none
  else if e1 = 0xFF ∧ sel = true then some (if m = 0 then .inf neg else .nan false)
  else some (scaled neg m (((if sel then e1 else e0) : Int) - 127 - f.off))

/-- roundRNE of `(n / d) / 2^(e − 127 − off)` (R234). -/
def dxbQuot (f : DxbFmt) (n d e : Nat) : Nat := introundAt n d ((e : Int) - 127 - f.off) .rne false

/-- The largest magnitude of FP32 encodings. -/
def maxMag (l : List Nat) : Nat := l.foldl (fun a w => max a (w % 2 ^ 31)) 0

/-- topExp of R234 over the FP32 encodings of finite values. -/
def topExp (f : DxbFmt) (l : List Nat) : Nat :=
  let a := maxMag l
  if a = 0 then 0 else
  let e := max (a / 2 ^ 23) 1
  match FpFmt.fp32.decode a with
  | .fin _ n d => min (if f.mmax < dxbQuot f n d e then e + 1 else e) 0xFE
  | _ => 0xFE

/-- One element of toDXB (R234). -/
def dxbElem (f : DxbFmt) (e1 e0 : Nat) (w : Nat) : Nat :=
  let enc (sel neg : Bool) (m : Nat) : Nat :=
    (if sel then 2 ^ (f.mbits + 1) else 0) + (if neg then 2 ^ f.mbits else 0) + m
  match FpFmt.fp32.decode w with
  | .inf s => enc true s 0
  | .nan _ => enc true false 1
  | .fin s n d =>
    let q0 := dxbQuot f n d e0
    if e1 = 0xFF ∨ q0 ≤ f.mmax then
      let m := min q0 f.mmax
      enc false (m != 0 && s) m
    else
      let m := min (dxbQuot f n d e1) f.mmax
      enc true (m != 0 && s) m

/-- toDXB of R234: the scale word and the elements of a block of FP32 encodings. -/
def toDXB (f : DxbFmt) (gap : Nat) (v : List Nat) : Nat × List Nat :=
  let fin := v.filter fun w => (FpFmt.fp32.decode w).isFin
  if fin.length < v.length then
    let e0 := topExp f fin
    (0xFF * 256 + e0, v.map (dxbElem f 0xFF e0))
  else if v.all fun w => w % 2 ^ 31 == 0 then (0, v.map fun _ => 0)
  else
    let e1 := topExp f v
    let e0 := e1 - gap
    (e1 * 256 + e0, v.map (dxbElem f e1 e0))

end Sys2Proof.Machine
end

