-- ==== Sys2Proof/Machine/Flags.lean ====
section
/-!
DEFINITION. The value and the flags of each rounding instruction of slot A (14_scalar R257 to R266), and the integer
division and bit-field corners (R254, R256).
-/
namespace Sys2Proof.Machine

/-- A 64-bit result and the flags it raises. -/
abbrev FRes := Word × BitVec 5

/-- The invalid result of FP32 (R258). -/
def fpNan (fl : BitVec 5) : FRes := (0x7FC00000, fl)
/-- The FP32 value in bits 31:0 of a register (R257). -/
def f32 (w : Word) : Val := FpFmt.fp32.decode (w.toNat % 2 ^ 32)
/-- Round to FP32 into bits 31:0, joining flags raised before (R257, R258). -/
def f32Round (m : Mode) (fl : BitVec 5) (x : Val) : FRes :=
  let r := FpFmt.fp32.round m x
  (BitVec.ofNat 64 r.1, fl ||| r.2)
/-- An exact value rounded, or the invalid result (R258). -/
def f32Result (m : Mode) (x : Option Val) : FRes :=
  match x with
  | none => fpNan fNV
  | some v => f32Round m 0 v
/-- The NaN rule that stands before every operation of R258. -/
def f32Guard (ops : List Val) (r : FRes) : FRes :=
  if ops.any Val.isNan then fpNan (flagIf (ops.any Val.isSnan) fNV) else r

/-- FADD (R258). -/
def faddRes (m : Mode) (a b : Word) : FRes := f32Guard [f32 a, f32 b] (f32Result m ((f32 a).add m (f32 b)))
/-- FSUB (R258). -/
def fsubRes (m : Mode) (a b : Word) : FRes := f32Guard [f32 a, f32 b] (f32Result m ((f32 a).add m (f32 b).negate))
/-- FMUL (R258). -/
def fmulRes (m : Mode) (a b : Word) : FRes := f32Guard [f32 a, f32 b] (f32Result m ((f32 a).mul (f32 b)))
/-- FMA (R258). -/
def fmaRes (m : Mode) (z a b : Word) : FRes :=
  f32Guard [f32 z, f32 a, f32 b] (f32Result m (((f32 a).mul (f32 b)).bind fun p => (f32 z).add m p))
/-- FMS (R258). -/
def fmsRes (m : Mode) (z a b : Word) : FRes :=
  f32Guard [f32 z, f32 a, f32 b] (f32Result m (((f32 a).mul (f32 b)).bind fun p => (f32 z).add m p.negate))
/-- FDIV (R258). -/
def fdivRes (m : Mode) (a b : Word) : FRes :=
  f32Guard [f32 a, f32 b] <|
  match f32 a, f32 b with
  | .inf _, .inf _ => fpNan fNV
  | .inf s, y => f32Round m 0 (.inf (s != y.neg))
  | .fin s _ _, .inf t => f32Round m 0 (.fin (s != t) 0 1)
  | .fin s n d, .fin t p q =>
    if p = 0 then if n = 0 then fpNan fNV else f32Round m fDZ (.inf (s != t))
    else f32Round m 0 (.fin (s != t) (n * q) (d * p))
  | _, _ => fpNan 0
/-- FSQRT (R258). -/
def fsqrtRes (m : Mode) (a : Word) : FRes :=
  f32Guard [f32 a] <|
  match f32 a with
  | .inf s => if s then fpNan fNV else f32Round m 0 (.inf false)
  | .fin s n d => if n = 0 then f32Round m 0 (.fin s 0 1) else if s then fpNan fNV else f32Round m 0 (sqrtVal n d)
  | .nan _ => fpNan 0

/-- Less-than with −0 below +0 (R259). -/
def ltZ (x y : Val) : Bool := x.lt y || (x.isZero && y.isZero && x.neg && !y.neg)
/-- FMIN (R259). -/
def fminRes (a b : Word) : FRes :=
  f32Guard [f32 a, f32 b] ((if ltZ (f32 b) (f32 a) then b else a) &&& 0xFFFFFFFF, 0)
/-- FMAX (R259). -/
def fmaxRes (a b : Word) : FRes :=
  f32Guard [f32 a, f32 b] ((if ltZ (f32 a) (f32 b) then b else a) &&& 0xFFFFFFFF, 0)
/-- FCEQ: invalid only for a signalling NaN (R260). -/
def fceqRes (a b : Word) : FRes :=
  (boolWord ((f32 a).eq (f32 b)), flagIf ((f32 a).isSnan || (f32 b).isSnan) fNV)
/-- FCLT: invalid for any NaN (R260). -/
def fcltRes (a b : Word) : FRes :=
  let n := (f32 a).isNan || (f32 b).isNan
  (boolWord (!n && (f32 a).lt (f32 b)), flagIf n fNV)
/-- FCLE: invalid for any NaN (R260). -/
def fcleRes (a b : Word) : FRes :=
  let n := (f32 a).isNan || (f32 b).isNan
  (boolWord (!n && !(f32 b).lt (f32 a)), flagIf n fNV)
/-- A sign operation: a NaN operand gives the canonical NaN, and no flag is raised (R261). -/
def fsignRes (a r : Word) : FRes := if (f32 a).isNan then fpNan 0 else (r, 0)
/-- FABS (R261). -/
def fabsRes (a : Word) : FRes := fsignRes a (a &&& 0x7FFFFFFF)
/-- FNEG (R261). -/
def fnegRes (a : Word) : FRes := fsignRes a ((a &&& 0xFFFFFFFF) ^^^ 0x80000000)
/-- FCPYS (R261). -/
def fcpysRes (a b : Word) : FRes := fsignRes a ((a &&& 0x7FFFFFFF) ||| (b &&& 0x80000000))

/-! ### Conversions (R262 to R266) -/

/-- The integer that a source of an integer type holds (R262, R263). -/
def intOf (t : IntTy) (a : Word) : Int :=
  match t with
  | .i32 => (a.setWidth 32).toInt
  | .n32 => (a.setWidth 32).toNat
  | .i64 => a.toInt
  | .n64 => a.toNat
/-- Least value of an integer type (R218). -/
def intMin : IntTy → Int | .i32 => -2147483648 | .i64 => -9223372036854775808 | .n32 | .n64 => 0
/-- Largest value of an integer type (R218). -/
def intMax : IntTy → Int
  | .i32 => 2147483647 | .i64 => 9223372036854775807 | .n32 => 4294967295 | .n64 => 18446744073709551615
/-- An integer result in a register: two's complement of the whole width, which sign-extends an i32 and zero-extends an
n32 (R263). -/
def intWord (n : Int) : Word := BitVec.ofInt 64 n

/-- The binary format of CVTIF and CVTFI (R262). -/
def fpTyFmt : FpTy → FpFmt | .f32 => .fp32 | .f16 => .fp16 | .bf16 => .bf16

/-- CVTIF (R264). -/
def cvtifRes (s : IntTy) (t : FpTy) (m : Mode) (a : Word) : FRes :=
  let r := (fpTyFmt t).round m (Val.ofInt (intOf s a))
  (BitVec.ofNat 64 r.1, r.2)

/-- CVTFI (R265). -/
def cvtfiRes (s : FpTy) (t : IntTy) (m : Mode) (a : Word) : FRes :=
  match (fpTyFmt s).decode a.toNat with
  | .nan _ => (0, fNV)
  | .inf neg => (intWord (if neg then intMin t else intMax t), fNV)
  | .fin neg n d =>
    let i := signedNum neg (intround n d m neg)
    if i < intMin t then (intWord (intMin t), fNV)
    else if intMax t < i then (intWord (intMax t), fNV)
    else (intWord i, flagIf (n % d != 0) fNX)

/-- A conversion between binary formats: a signalling NaN raises invalid (R264). -/
def cvtFmt (src dst : FpFmt) (m : Mode) (w : Nat) : Nat × BitVec 5 :=
  let x := src.decode w
  let r := dst.round m x
  (r.1, flagIf x.isSnan fNV ||| r.2)

/-- Source and target of a CVTFF pair (R262). -/
def ffPairFmts : FfPair → FpFmt × FpFmt
  | .f32f16 => (.fp32, .fp16) | .f32bf16 => (.fp32, .bf16) | .f32e4m3 => (.fp32, .e4m3) | .f32e5m2 => (.fp32, .e5m2)
  | .f16f32 => (.fp16, .fp32) | .bf16f32 => (.bf16, .fp32) | .e4m3f32 => (.e4m3, .fp32) | .e5m2f32 => (.e5m2, .fp32)

/-- CVTFF (R264). -/
def cvtffRes (p : FfPair) (m : Mode) (a : Word) : FRes :=
  let r := cvtFmt (ffPairFmts p).1 (ffPairFmts p).2 m a.toNat
  (BitVec.ofNat 64 r.1, r.2)

/-- The format of PK2 and UNPK (R262). -/
def narrowFmt : NarrowFmt → FpFmt | .f16 => .fp16 | .bf16 => .bf16 | .e4m3 => .e4m3 | .e5m2 => .e5m2

/-- PK2: both conversions, the flags joined (R266). -/
def pk2Res (f : NarrowFmt) (m : Mode) (a : Word) : FRes :=
  let lo := cvtFmt .fp32 (narrowFmt f) m (a.toNat % 2 ^ 32)
  let hi := cvtFmt .fp32 (narrowFmt f) m (a.toNat / 2 ^ 32)
  (BitVec.ofNat 64 (hi.1 * 2 ^ (narrowFmt f).bits + lo.1), lo.2 ||| hi.2)

/-- UNPK: both widenings, exact (R266). -/
def unpkRes (f : NarrowFmt) (a : Word) : FRes :=
  let w := (narrowFmt f).bits
  let lo := cvtFmt (narrowFmt f) .fp32 .rne (a.toNat % 2 ^ w)
  let hi := cvtFmt (narrowFmt f) .fp32 .rne (a.toNat / 2 ^ w % 2 ^ w)
  (BitVec.ofNat 64 (hi.1 * 2 ^ 32 + lo.1), lo.2 ||| hi.2)

/-! ### Integer corners -/

/-- DIV (R253, R254). -/
def divWord (a b : Word) : Word := if b = 0 then BitVec.allOnes 64 else BitVec.ofInt 64 (a.toInt.tdiv b.toInt)
/-- DIVN (R253, R254). -/
def divnWord (a b : Word) : Word := if b = 0 then BitVec.allOnes 64 else a / b
/-- REM (R253, R254). -/
def remWord (a b : Word) : Word := if b = 0 then a else BitVec.ofInt 64 (a.toInt.tmod b.toInt)
/-- REMN (R253, R254). -/
def remnWord (a b : Word) : Word := if b = 0 then a else a % b
/-- MULH (R253). -/
def mulhWord (a b : Word) : Word := BitVec.ofInt 64 (a.toInt * b.toInt / 2 ^ 64)
/-- MULHN (R253). -/
def mulhnWord (a b : Word) : Word := BitVec.ofNat 64 (a.toNat * b.toNat / 2 ^ 64)
/-- The shift amount of a register: `b mod 64` (R253). -/
def shAmt (b : Word) : Nat := b.toNat % 64
/-- ROL (R253). -/
def rolWord (a b : Word) : Word := a.rotateLeft (shAmt b)
/-- CLZ (R253). -/
def clzWord (a : Word) : Word := if a = 0 then 64 else BitVec.ofNat 64 (63 - Nat.log2 a.toNat)
/-- Number of trailing zero bits among the low `k` bits. -/
def ctzNat : Nat → Nat → Nat
  | 0, _ => 0
  | k + 1, n => if n % 2 = 1 then 0 else ctzNat k (n / 2) + 1
/-- CTZ (R253). -/
def ctzWord (a : Word) : Word := BitVec.ofNat 64 (ctzNat 64 a.toNat)
/-- Number of one bits among the low `k` bits. -/
def popNat : Nat → Nat → Nat
  | 0, _ => 0
  | k + 1, n => n % 2 + popNat k (n / 2)
/-- POPC (R253). -/
def popcWord (a : Word) : Word := BitVec.ofNat 64 (popNat 64 a.toNat)
/-- Sign extension from the low `n` bits (R253). -/
def sxFrom (n : Nat) (a : Word) : Word := (a.setWidth n).signExtend 64
/-- Zero extension from the low `n` bits (R253). -/
def zxFrom (n : Nat) (a : Word) : Word := (a.setWidth n).setWidth 64
/-- BSWP: byte j of the result is byte 7 − j (R253). -/
def bswpWord (a : Word) : Word :=
  BitVec.ofNat 64 ((List.range 8).foldl (fun acc j => acc * 256 + a.toNat / 256 ^ j % 256) 0)
/-- The length of a bit field: 0 means 64 (R256). -/
def bfLen (len : BitVec 6) : Nat := if len = 0 then 64 else len.toNat
/-- `2^L − 1` in 64 bits. -/
def lowMask (l : Nat) : Word := BitVec.ofNat 64 (2 ^ l - 1)
/-- BEXT (R256). -/
def bextWord (a : Word) (pos len : BitVec 6) : Word := (a >>> pos.toNat) &&& lowMask (bfLen len)
/-- BINS (R256). -/
def binsWord (d a : Word) (pos len : BitVec 6) : Word :=
  let mk := lowMask (bfLen len) <<< pos.toNat
  (d &&& ~~~mk) ||| ((a <<< pos.toNat) &&& mk)

end Sys2Proof.Machine
end

