-- ==== Sys2Proof/Config.lean ====
section
/-!
DEFINITION. What the manual leaves to the implementation. Each constant has no body: no proof can see a value of it, so
every statement holds whatever it is. Each is applied to a plain counter of the state (a fresh value each time) or to
the operands it depends on; the assumption log names each.
-/
namespace Sys2Proof.Config

/-- A word read from a host window: the host's memory is outside the package (R130). Log entry 4. -/
opaque hostWord : Nat → Word
/-- The byte of engine state that a save slot holds at an offset; its layout is the implementation's own (R101). Log entry 6. -/
opaque engineByte : Nat → Byte
/-- The allowance that keeps MEAS within LIMIT, from MEAS and LIMIT, for a layer (R25 gives no formula). Log entry 5. -/
opaque powerAllowance : BitVec 16 → BitVec 12 → Nat → BitVec 8
/-- Which of the sizes of BAR 4 was chosen (R47: resizable). Log entry 7. -/
opaque bar4Log2 : Nat
/-- A value or a choice the manual leaves open, the n-th taken. Log entry 8. -/
opaque freeWord : Nat → Word

/-- Whether a cache holds the line that an access looks for, the n-th time it matters: what the L1s and the slices hold is no part of
State. Log entry 107. -/
opaque lineThere : Nat → Bool
/-- Spare rows of a vault layer when it is made (R75 gives no number). Log entry 121. -/
opaque spareRows : Nat

end Sys2Proof.Config
end

