-- ==== Sys2Proof/Machine/Sparse.lean ====
section
/-!
DEFINITION. Sparse data in one canonical form: a list of key and value pairs with strictly rising keys, in which no
entry holds what an unlisted key reads as. Equal contents are then equal lists.
-/
namespace Sys2Proof.Sparse

variable {α : Type}

/-- The value at a key; an unlisted key reads as `d` says. -/
def get (d : Nat → α) : List (Nat × α) → Nat → α
  | [], k => d k
  | (j, v) :: m, k => if j = k then v else if k < j then d k else get d m k

/-- Put `v` at `k` into a strictly rising list, whatever the default. -/
def insert : List (Nat × α) → Nat → α → List (Nat × α)
  | [], k, v => [(k, v)]
  | (j, w) :: m, k, v =>
    if j = k then (k, v) :: m else if k < j then (k, v) :: (j, w) :: m else (j, w) :: insert m k v

/-- Take the entry of `k` out of a strictly rising list. -/
def remove : List (Nat × α) → Nat → List (Nat × α)
  | [], _ => []
  | (j, w) :: m, k => if j = k then m else if k < j then (j, w) :: m else (j, w) :: remove m k

/-- Write `v` at `k`; writing what an unlisted key reads as removes the entry. -/
def set [DecidableEq α] (d : Nat → α) (m : List (Nat × α)) (k : Nat) (v : α) : List (Nat × α) :=
  if v = d k then remove m k else insert m k v

/-- The keys rise strictly from above `lo`. -/
def risingFrom : Option Nat → List (Nat × α) → Bool
  | _, [] => true
  | lo, (j, _) :: m => (match lo with | none => true | some l => decide (l < j)) && risingFrom (some j) m

/-- The canonical form. -/
def wf [DecidableEq α] (d : Nat → α) (m : List (Nat × α)) : Bool :=
  risingFrom none m && m.all fun e => decide (e.2 ≠ d e.1)

end Sys2Proof.Sparse
end

