-- ==== Sys2Proof/Machine/State.lean ====
section
/-!
DEFINITION. The state of the package as plain data, and the state right after reset. Every structure names the rule of
spec/ that gives it. Cores, layers, routes and the like that hold nothing but reset values are not listed (Sparse).
-/
namespace Sys2Proof.Machine

/-- Why the machine stops. One reason only: the device has no state from which to go on. -/
inductive Fault
  /-- Raised by the step when the bundle at the PC is no instruction. The code checker keeps such a pattern out of every
  store (R243, R246), so no reachable state raises it. Safe. -/
  | illegalBundle
deriving DecidableEq, Repr

/-- Why an instruction has no meaning. -/
inductive Refusal
  /-- Raised by a dispatch arm whose instruction has no meaning yet. Safe. -/
  | notModelled (mnemonic : String)
deriving DecidableEq, Repr

/-- A queued event: it comes about at the first step at or after its tick. -/
structure Timed where
  due : Nat
  /-- Order among events of one tick (R160, R182, R319: ascending core index). -/
  rank : Nat
  /-- What the event is about: a core, a priority, a number. -/
  core : Nat
  prio : Prio
  num : Nat
  ev  : Instr
deriving DecidableEq, Repr

/-! ### The firing and its bank -/

/-- What an entry of a park table waits for (R181, R109, R123). -/
inductive ParkKind
  | taker | putter | waiter
  | watcher (expected : Bool)
  /-- An FCR that waits for the fault actor's port. -/
  | port
  /-- An FCR that has arrived for a resume entry. -/
  | resume
deriving DecidableEq, Repr

/-- A trap to be taken: cause (R300), INFO and FADDR (R125). -/
structure TrapInfo where
  cause : BitVec 8
  info  : BitVec 48
  faddr : Word
deriving DecidableEq, Repr

/-- Where a result that is on its way goes (R211). -/
inductive Dest
  | gpr (r : Reg)
  | fpctl
deriving DecidableEq, Repr

/-- A result written at tick `due`, visible to bundles that issue at or after it (R211). -/
structure Pend where
  due : Nat
  /-- A result of an A word: kept over another of the same tick (R211). -/
  isA : Bool
  dst : Dest
  val : Word
deriving DecidableEq, Repr

/-- Flags ORed into %fpst in tick `due` (R230, R252). -/
structure PendFlags where
  due : Nat
  fl  : BitVec 5
deriving DecidableEq, Repr

/-- Where one attempt stands (R178, R318, R322, R433); `α` is the answer. -/
inductive Try (α : Type)
  /-- The attempt has left the core: access or message number. -/
  | flying (k : Nat)
  /-- The answer has reached the core. -/
  | answered (a : α)
  /-- Between two attempts: the tick of the next. -/
  | resting (due : Nat)
  /-- The next attempt is to be made. -/
  | ready
deriving DecidableEq, Repr

/-- Where the access of a bundle stands in the translation service (R135 steps 3, 5 and 6, R138). -/
inductive Xl
  | none
  /-- The firing waits in the translation service for the page of an address: the service core that its request went to, and
  whether the access writes (R138). -/
  | waiting (va : Word) (svc : Nat) (wr : Bool)
  /-- The service answered with a fault for the page of an address: PAGE. -/
  | fault (va : Word)
deriving DecidableEq, Repr

/-- Which part of a barrier instruction holds: its arrive, or its wait, with an arrival of its own or of an earlier BARA
(R327, R328). -/
inductive BarStage
  | arrive
  | wait (own : Bool)
deriving DecidableEq, Repr

/-- Where the C word of a held bundle stands (R210). -/
inductive Op
  /-- Nothing begun. -/
  | idle
  /-- A waiting F/E operation, AMO with respect-F/E or PARK: attempts begun, the word's key and physical address, the
  latency of a result at the agent (R276, R283), and the latest attempt (R178, R179). -/
  | fe (tries key pa lat : Nat) (t : Try Answer)
  /-- A SEND or RPUSH: refusals counted, and the latest attempt (R318). -/
  | send (refused : Nat) (t : Try MsgAnswer)
  /-- A PARK whose answer comes at load latency, until a tick (R278). -/
  | reading (till : Nat)
  /-- A RESUME or ASQL whose words are being loaded, by `n` accesses from number `first` on (R298, R399). -/
  | gather (first n : Nat)
  /-- A TLBI or TLBS whose shoot-down has left, by its number (R299). -/
  | shoot (id : Nat)
  /-- SLEEP until a tick (R293). -/
  | sleep (till : Nat) (fin : Bool)
  /-- BAR, BARA or BARW at a level (R327). -/
  | bar (l : Level) (st : BarStage)
  /-- An array instruction of several passes: passes made when it last began to run, its sequence code where it has one, the
  tick since which it runs (none while it stands at a pass boundary), whether its last pass has come, and the stamp of an ATRC
  (R386, R402, R412). -/
  | array (done : Nat) (code since : Option Nat) (fin : Bool) (stamp : Word)
  /-- MFOLD: joined; the operation it became once the join completed; whether all places are taken (R353). -/
  | fold (op : Option Nat) (placed : Bool)
deriving DecidableEq, Repr

/-- A departure that waits for outstanding results (R214, R200, R117). -/
inductive Leaving
  | trap (t : TrapInfo)
  /-- A park on the word of a key and physical address, as what. -/
  | park (key pa : Nat) (kind : ParkKind)
  | migrate (target : Nat)
  | ended
deriving DecidableEq, Repr

/-- What the C word decided about the path (R303). -/
inductive Flow
  | seq
  | taken (t : Bundle13)
  | annul
deriving DecidableEq, Repr

/-- Whether the bank has a firing and whether it may issue (R110, R112). -/
inductive Run | none | running | suspended
deriving DecidableEq, Repr

/-- A register bank with the firing that holds it (R207, R111, R125). -/
structure Bank where
  run    : Run
  lid    : BitVec 32
  act    : Nat
  inst   : Nat
  home   : Nat
  migc   : BitVec 4
  svc    : Bool
  start  : Nat
  /-- First tick at which a bundle may issue (R111, R112). -/
  readyAt : Nat
  g      : Vector Word 32
  pc     : Bundle13
  npc1   : Bundle13
  npc2   : Bundle13
  ann1   : Bool
  ann2   : Bool
  fpctl  : BitVec 2
  fpst   : BitVec 5
  rbud   : BitVec 16
  barb   : BitVec 16
  sidx   : Word
  scount : BitVec 32
  /-- HEAD and LEN of %pin0 to %pin7 as the firing started (R107): bits 15:0. -/
  pins   : Vector (BitVec 16) 8
  anch   : Bool
  ocnt   : Vector (BitVec 8) 8
  wdc    : Nat
  /-- Ticks the operation of the bundle has been held since its first attempt, that tick among them (R115, R278). -/
  feHeld : Nat
  /-- The attempt in progress is the last budgeted one (R179, R433). -/
  lastOne : Bool
  /-- Ticks one bundle has been held at a barrier (R328). -/
  barHeld : Nat
  /-- The level at which the BAR at hand has arrived, and whether that phase has released since (R327 to R329). -/
  arrOwn : Option (Level × Bool)
  /-- The ticks before `readyAt` are those in which annulled bundles are dropped (R303, R304). -/
  skipping : Bool
  /-- FCR word 10 (R125, R402). -/
  pass   : Word
  /-- SEQ of the firing's latest fold operation (R350). -/
  lastSeq : BitVec 32
  /-- Woken from a park: the re-execution makes one attempt (R183). -/
  woken  : Bool
  /-- It has been suspended since the attempt of its held bundle left the core (R113, R322, R433). -/
  wasSusp : Bool
  /-- A store or SEND dropped towards an unreachable package (R39). -/
  dropped : Option Word
  /-- A trap that an access answered with after its bundle issued (R29). -/
  async  : Option TrapInfo
  leaving : Option Leaving
  xl     : Xl
  /-- The address of a write that a token's queue has let go on, and that has still to leave (R150). -/
  lands  : Option Word
  /-- Ticks that the translation of the access in hand adds to it (R136). -/
  xlat   : Nat
  op     : Op
  flow   : Flow
  /-- The C word of the bundle has issued. -/
  issued : Bool
  pend   : List Pend
  pendFl : List PendFlags
deriving DecidableEq, Repr

/-- A bank without a firing. -/
def Bank.reset : Bank :=
  { run := .none, lid := 0, act := 0, inst := 0, home := 0, migc := 0, svc := false, start := 0, readyAt := 0,
    g := .replicate 32 0, pc := 0, npc1 := 1, npc2 := 2, ann1 := false, ann2 := false, fpctl := 0, fpst := 0, rbud := 0,
    barb := 0, sidx := 0, scount := 0, pins := .replicate 8 0, anch := false, ocnt := .replicate 8 0, wdc := 0,
    feHeld := 0, lastOne := false, barHeld := 0, arrOwn := none, skipping := false, pass := 0, lastSeq := 0, woken := false,
    wasSusp := false, dropped := none, async := none, leaving := none, xl := .none, lands := none, xlat := 0, op := .idle,
    flow := .seq, issued := false, pend := [], pendFl := [] }

/-! ### Parts of a compute core -/

/-- An input port's FIFO in the mailbox store (R105, R101): first mailbox word, size in words, head offset in it, lengths
of the held messages from the head, and words reserved for an FCR (R123). -/
structure Port where
  base : Nat
  size : Nat
  head : Nat
  msgs : List Nat
  reserved : Nat
deriving DecidableEq, Repr

/-- An instance placed on the core (R101, R104, R108); `gidx` is its index in the launch's instance table. -/
structure Inst where
  gidx : Nat
  act  : Nat
  placed : Bool
  disabled : Bool
  inflight : Bool
  trig : Bool
  queued : Bool
  started : Bool
  waitIn : Bool
  ports : List Port
deriving DecidableEq, Repr

/-- An entry of the run queue (R109), with the tick of its append (R110); a resume entry names the park-table entry that
holds its FCR. -/
inductive Entry
  | inst (i tk : Nat)
  | resume (k tk : Nat)
deriving DecidableEq, Repr

/-- A row of the associative array (R383). -/
structure Row where
  bits : BitVec 512
  tags : BitVec 8
deriving DecidableEq, Repr

/-- Every row after initialisation (R75, R383). -/
def Row.reset : Row := { bits := 0, tags := 0 }

/-- A ring descriptor (R338). -/
structure Ring where
  base   : BitVec 56
  log2sz : BitVec 5
  nslot  : BitVec 7
  fe     : Bool
  valid  : Bool
  tail   : BitVec 6
  head   : BitVec 6
  freep  : BitVec 6
  filled : BitVec 7
  held   : BitVec 7
  pend   : BitVec 7
  /-- The fold sequencer has read the head slot in this tick, and takes it behind the core's own instruction (R345, R359). -/
  read   : Bool
  pushes : BitVec 32
  pops   : BitVec 32
deriving DecidableEq, Repr

/-- A ring after the core is given to a launch (R103, R338). -/
def Ring.reset : Ring :=
  { base := 0, log2sz := 0, nslot := 0, fe := false, valid := false, tail := 0, head := 0, freep := 0, filled := 0,
    held := 0, pend := 0, read := false, pushes := 0, pops := 0 }

/-- How a copy or a fold-queue item ended early: cause, INFO and fault address (R333, R336, R368). -/
structure Stop where
  cause : BitVec 8
  info  : BitVec 48
  faddr : Word
deriving DecidableEq, Repr

/-- An outstanding copy (R330 to R337); `owner` is the firing it is attached to, as in `Access.fid`. -/
structure Copy where
  id    : Nat
  owner : Option Nat
  twoD  : Bool
  dst   : Word
  src   : Word
  cols  : Nat
  rows  : Nat
  sstr  : Int
  dstr  : Int
  esz   : Size
  tr    : Bool
  mode  : CopyMode
  sc    : Scope
  cw    : Option Word
  lid   : BitVec 32
  /-- Tick of issue, %tlife at it, and the transient blocks armed so far (R167, R332). -/
  arm   : Nat
  life  : Nat
  armed : List Nat
  /-- The vault layers that have been in zone 1 or above since the issue (R167). -/
  hot   : BitVec 32
  /-- The emptying phase of FE.ARRIVE is over (R332). -/
  emptied : Bool
  /-- Destination words emptied or written in the present phase, and, behind them, the words whose source reads have left: of each,
  the numbers of the reads. -/
  pos   : Nat
  reads : List (List Nat)
  /-- The tick from which its lines may move (R337). -/
  start : Nat
  /-- The completion fill is on its way (R334). -/
  filling : Bool
  stop  : Option Stop
  sealed : Option Bundle13
  /-- Writes and fill are over. -/
  done  : Bool
deriving DecidableEq, Repr

/-- One member's join of a gang operation (R353). -/
structure Join where
  fold : Nat
  core : Nat
  prio : Prio
  acc  : Acc
  fmt  : FoldFmt
  home : Fin 4
  ra   : RingNo
  rb   : RingNo
  pin  : Bool
  nkm1 : BitVec 8
  fmask : BitVec 4
  fpin : BitVec 4
  /-- Tick of the join. -/
  at_ : Nat
deriving DecidableEq, Repr

/-- An item of a core's fold queue (R206, R353, R365). -/
inductive QItem
  | fold (op : Nat)
  /-- The place of an operation that was withdrawn behind the issue of this member's MFOLD: it joins again (R353). -/
  | join (j : Join)
  | zero (acc : Acc)
  /-- MNAR: rows formed so far, and the gap of DXB formats, read at its issue (R234, R368). -/
  | nar (acc : Acc) (fmt : NarFmt) (rm : Mode) (ga gb gc : Word) (arr : Option (BitVec 9)) (row gap : Nat)
  /-- MWID: whether its data have returned (R367). -/
  | wid (acc : Acc) (fmt : WidFmt) (ga gb : Word) (fin : Bool)
deriving DecidableEq, Repr

/-- A queue item with the firing that issued it, none once that has ended, and whether it has started (R366). -/
structure QEntry where
  owner : Option Nat
  item  : QItem
  begun : Bool
deriving DecidableEq, Repr

/-- A failure that the next covering MWAIT, MREC or FENCE.E of the firing takes (R354, R361, R367, R368, R436). -/
structure QFail where
  owner : Nat
  acc   : Acc
  /-- The operation was an MFOLD's (R369). -/
  fold  : Bool
  stop  : Stop
deriving DecidableEq, Repr

/-- The record that MREC returns (R369). -/
structure Rec where
  gd : Word
  gs : Word
deriving DecidableEq, Repr

/-- A reward held or queued in the array (R417). -/
structure Reward where
  r    : BitVec 16
  s    : Word
  late : Bool
  due  : Bool
deriving DecidableEq, Repr

/-- The outstanding broadcast of a core (R416): `r` none is RCLR; the targets that have not accepted. -/
structure Bcast where
  r  : Option (BitVec 16)
  s  : Word
  sc : Scope
  left : List Nat
deriving DecidableEq, Repr

/-- An entry of a TLB (R136, R137): space, page-size code, virtual and physical page number (address bits 55:16), attributes. -/
structure TlbEntry where
  space : BitVec 10
  size  : BitVec 2
  vpn   : BitVec 40
  pfn   : BitVec 40
  attr  : BitVec 9
  /-- Bit 13 of the leaf: the frame lies in a host window (R140). -/
  host  : Bool
deriving DecidableEq, Repr

/-- A trapped FCR in a hold buffer: where it is offered (R123). -/
structure Hold where
  fcr : List Word
  tower : Nat
  pset  : Nat
  lid : BitVec 32
deriving DecidableEq, Repr

/-- A core: compute cores 0 to 8191 (R128), service cores 8192 + 4·layer + j (R3, R216). -/
structure Core where
  /-- The launch that holds the core and its space number (R289). -/
  launch : Option (BitVec 32 × BitVec 10)
  /-- The launch is pre-empted or cancelled: no bundle issues (R119, R432). -/
  halt   : Bool
  low    : Bank
  high   : Bank
  /-- The bank that issues (R110). -/
  cur    : Prio
  fifoLow  : List Entry
  fifoHigh : List Entry
  insts  : List Inst
  /-- The hold buffer of each bank: the record in it first, and any that wait behind it (R123). -/
  holdLow  : List Hold
  holdHigh : List Hold
  /-- The grain that the core runs: index (R92). -/
  grain  : Option Nat
  brken  : Bool
  cause  : BitVec 30
  wdlim  : BitVec 16
  dfpctl : BitVec 2
  drbud  : BitVec 16
  dbarb  : BitVec 16
  barArr : BitVec 8
  barSense : BitVec 8
  fmask  : BitVec 4
  flast  : BitVec 4
  fpin   : BitVec 4
  fsamp  : BitVec 16
  gap8   : BitVec 8
  gap4   : BitVec 8
  tlife  : BitVec 16
  astep  : Word
  ahz    : Word
  rlag   : BitVec 8
  eta    : BitVec 16
  lambda : BitVec 8
  tinc   : BitVec 12
  afld   : BitVec 36
  plas   : BitVec 3
  alate  : BitVec 32
  aflags : BitVec 3
  aprow  : BitVec 13
  /-- Accumulator elements, 1024·acc + 32i + j (R352). -/
  acc    : List (Nat × BitVec 32)
  rows   : List (Nat × Row)
  /-- Array segments and tag bytes with bad parity: 9·row + segment, segment 8 the tag byte (R404). -/
  badPar : List Nat
  /-- Accumulator elements with bad parity, numbered as in `acc` (R27, domain 7). -/
  badAcc : List Nat
  seq    : List (Nat × Word)
  asql   : Option Word
  rings  : Vector Ring 8
  copies : List Copy
  /-- The copy that moved a line last, and the words moved so far in the tick at which its engine goes on (R337). -/
  lastLine : Nat
  /-- Addresses that the core's engines wait for in the translation service, or, with `true`, could not have (R333). -/
  misses : List (Word × Bool)
  fq     : List QEntry
  qfails : List QFail
  recs   : Vector (Option Rec) 4
  rewards : List Reward
  /-- The application under way: the reward, passes made when it last began to run, the tick since which it runs (R419). -/
  apply  : Option (Reward × Nat × Option Nat)
  bcast  : Option Bcast
  /-- L1 TLB, most recently used first (R136). -/
  tlb    : List TlbEntry
  /-- Tick since which the core has been idle (R142). -/
  idleAt : Nat
  asleep : Bool
  /-- A fetch of these bundles finds bad parity (R212). -/
  badCode : List Nat
  /-- The tick of the latest code store into the core's instruction store, which took its port (R212). -/
  codeAt : Option Nat
deriving DecidableEq, Repr

/-- A core as initialisation and the clearing of R103 leave it; register values of R286 to R409. -/
def Core.reset : Core :=
  { launch := none, halt := false, low := Bank.reset, high := Bank.reset, cur := .low, fifoLow := [], fifoHigh := [],
    insts := [], holdLow := [], holdHigh := [], grain := none, brken := false, cause := 0, wdlim := 0, dfpctl := 0,
    drbud := 0, dbarb := 0, barArr := 0, barSense := 0, fmask := 0xF, flast := 0, fpin := 0, fsamp := 0, gap8 := 4,
    gap4 := 2, tlife := 32000, astep := 0, ahz := 0, rlag := 0, eta := 0x3C00, lambda := 0x80, tinc := 0x080,
    afld := 0x1E8F06000, plas := 0, alate := 0, aflags := 0, aprow := 0, acc := [], rows := [], badPar := [], badAcc := [],
    seq := [], asql := none, rings := .replicate 8 Ring.reset, copies := [], lastLine := 7, misses := [], fq := [], qfails := [],
    recs := .replicate 4 none, rewards := [], apply := none, bcast := none, tlb := [], idleAt := 0, asleep := false,
    badCode := [], codeAt := none }

/-! ### Accesses, messages and parked firings -/

/-- The agent that performs an access (R134, R165, R178, R435). -/
inductive Agent
  | l1 | slice | vault | window | unit
  | host (l : Nat)
  | package (p : BitVec 12)
deriving DecidableEq, Repr

/-- An access that has left its instruction and is not over (R189). `key` is the canonical local address (one key for
both vault windows); `remote` marks a remote store (R189). -/
structure Access where
  id    : Nat
  core  : Nat
  prio  : Prio
  /-- The firing: its launch, home core and instance as one number. -/
  fid   : Nat
  op    : AccOp
  va    : Word
  pa    : Nat
  key   : Nat
  agent : Agent
  /-- The page is transient (R165). -/
  tr    : Bool
  /-- The register a value goes to, and how it is widened: none zero-extends, some n sign-extends from n bits. -/
  dst   : Option (Reg × Option Nat)
  /-- The status register of a try form (R275). -/
  st    : Option Reg
  /-- Its bundle collects the value with those of others (R298, R399). -/
  grp   : Bool
  /-- The answer that has come back for such a bundle. -/
  back  : Option Answer
  /-- The TLB entry that it was translated through (R141). -/
  ent   : TlbEntry
  acq   : Bool
  rel   : Option Scope
  remote : Bool
  /-- The last budgeted attempt: what it registers at the agent when it fails (R180). -/
  reg   : Option ParkKind
  /-- The tick at which it left the core: its issue, or the tick until which its firing's order kept it there (R32, R206). -/
  sent  : Nat
  /-- It has waited at its agent for a refresh operation (R163). -/
  late  : Bool
  /-- Its slice had no line for it, and asks the vault (R161). -/
  miss  : Bool
  /-- Its request has entered an outbound queue (R41). -/
  gone  : Bool
  /-- Wake notices of its word that have come since then: of a fill, of an empty, or of an expiry (R42). -/
  told  : List (Option Bool)
  /-- Performed at its agent, with this answer. -/
  ans   : Option Answer
deriving DecidableEq, Repr

/-- A message, remote push or FCR on its way (R193, R318, R341). -/
inductive MsgKind
  | send (port : Word) (words : List Word)
  | push (addr : Word) (h : RingNo)
deriving DecidableEq, Repr

/-- A message in flight: number, source core and bank, launch, destination core. -/
structure Msg where
  id   : Nat
  src  : Nat
  prio : Prio
  lid  : BitVec 32
  dst  : Nat
  kind : MsgKind
deriving DecidableEq, Repr

/-- Where an entry stands (R109, R183, R184). -/
inductive ParkState
  | parked | woken | due | queued
  /-- 64 words are reserved for it (R123). -/
  | reserved
  /-- Its wake is held while the launch is pre-empted (R184). -/
  | heldWake
deriving DecidableEq, Repr

/-- An entry of a tower's park table (R181): `order` is the park order (R182). -/
structure ParkEntry where
  id    : Nat
  tower : Nat
  pset  : Nat
  way   : Nat
  kind  : ParkKind
  key   : Nat
  fcr   : List Word
  st    : ParkState
  origin : Nat
  lid   : BitVec 32
  home  : Nat
  inst  : Nat
  prio  : Prio
  order : Nat
  /-- The tick at which a reserved message is appended (R123), or at which the watchdog of a parked firing ends it, 0 for
  none (R122); while the launch is pre-empted, the ticks left until then, and one more. -/
  due  : Nat
  /-- The tick since which the watchdog counts the parked firing, and the ticks that it has counted before (R121). -/
  since : Nat
  ticks : Nat
  /-- A store or SEND that the firing dropped, whose trap has still to come (R39). -/
  dropped : Option Word
deriving DecidableEq, Repr

/-- An FCR in transit by migration or RESUME, or waiting for a free entry of its set (R109, R118). -/
structure Transit where
  id   : Nat
  fcr  : List Word
  core : Nat
  lid  : BitVec 32
  home : Nat
  inst : Nat
  prio : Prio
  /-- It has reached its core and waits for an entry. -/
  arrived : Bool
  /-- As in a park-table entry. -/
  dropped : Option Word
deriving DecidableEq, Repr

/-! ### Folds -/

/-- A fold operation (R352 to R363). -/
structure FoldOp where
  id    : Nat
  fold  : Nat
  acc   : Acc
  fmt   : FoldFmt
  home  : Nat
  rings : List (Nat × RingNo × RingNo)
  /-- The joins that it was committed from (R353). -/
  joined : List Join
  solo  : Bool
  pin   : Bool
  nk    : Nat
  /-- Member layers. -/
  members : BitVec 4
  /-- Layers whose MFOLD has taken its place (R353). -/
  placed : BitVec 4
  begun : Bool
  seq   : BitVec 32
  active : BitVec 4
  active2 : BitVec 4
  split : Nat
  msplit : Bool
  rounds : Nat
  ill   : Bool
  nan   : Bool
  ovf   : Bool
  sampled : Bool
  abort : Bool
  preempted : Bool
  /-- The sampler's reference (R363), element by element. -/
  ref   : List (BitVec 32)
  /-- The end of the round in progress (R358). -/
  busy  : Option Nat
  /-- The operation stands at a round boundary at which trips have still to act (R360). -/
  bound : Bool
  stop  : Option Stop
  /-- Its last round has ended, or it has stopped. -/
  fin   : Bool
deriving DecidableEq, Repr

/-! ### Launches -/

/-- An actor of a launch (R85). -/
structure Actor where
  entry  : Bundle13
  high   : Bool
  strict : Bool
  keep   : Bool
  nin    : Nat
  nout   : Nat
  irate  : List Nat
  orate  : List Nat
  depth  : List Nat
deriving DecidableEq, Repr

/-- An instance-table entry (R86). -/
structure InstDesc where
  act : Nat
  group : Nat
  t : Nat
  k : Nat
  x : Nat
  y : Nat
  pin : Nat
deriving DecidableEq, Repr

/-- Where a launch stands (R64, R94, R96 to R99, R432). -/
inductive LState
  | waiting | released | running | halting | preempted | cancelling | finished
deriving DecidableEq, Repr

/-- The launch record as accepted (R56 to R59). -/
structure LRec where
  lid : BitVec 32
  sweep : Bool
  prio : Nat
  rsafe : Bool
  msix : Bool
  vec : Nat
  link : Nat
  root : Nat
  layout : Nat
  desc : Nat
  w3 : Word
  w4 : Word
  w5 : Word
  save : Nat
  crec : Nat
  cword : Nat
  preds : List (BitVec 32 × Nat × Bool)
  rbud : BitVec 16
  wdlim : BitVec 16
  fsamp : BitVec 16
  rm : BitVec 2
  barb : BitVec 16
deriving DecidableEq, Repr

/-- A block of grains held by a layer distributor or tower master (R92). -/
structure GBlock where
  holder : GrainLevel
  grains : List Nat
deriving DecidableEq, Repr

/-- Grain reports waiting at a distributor (R93): grains, firing counts, tick of the oldest. -/
structure GReport where
  holder : GrainLevel
  grains : List Nat
  firings : Nat
  oldest : Nat
deriving DecidableEq, Repr

/-- A launch of the package launch table (R54, R83). -/
structure Launch where
  r     : LRec
  st    : LState
  status : BitVec 8
  space : BitVec 10
  /-- Order of release (R96). -/
  order : Nat
  actors : List Actor
  insts : List InstDesc
  faulti : Nat
  swact : Nat
  coden : Nat
  code  : Nat
  map   : Nat
  cores : List Nat
  /-- Instance-table index, core and number on the core (R88, R89). -/
  placed : List (Nat × Nat × Nat)
  /-- Grains never issued, from this one on (R92). -/
  nextGrain : Nat
  pool  : List Nat
  blocks : List GBlock
  issued : List (Nat × Nat)
  reports : List GReport
  confirmed : List Nat
  trig  : Nat
  faults : Nat
  reissued : Nat
  firings : Nat
  startT : Nat
  preempts : Nat
  lossy : Bool
  /-- Grain firings that RESUME has continued since their record was consumed: home core, instance, first index (R93). -/
  resumed : List (Nat × Nat × Word)
  /-- Instances lost to a fence that have still to be placed again (R95): table index, core, number. -/
  lost : List (Nat × Nat × Nat)
  /-- A firing of the fault actor has trapped, and its instance has not been enabled again since (R123). -/
  faultOff : Bool
deriving DecidableEq, Repr

/-- Engine state that leaves the core with a pre-empted launch (R100, R101). -/
structure Saved where
  lid : BitVec 32
  core : Nat
  copies : List Copy
  fq : List QEntry
  qfails : List QFail
  rewards : List Reward
  apply : Option (Reward × Nat × Option Nat)
  bcast : Option Bcast
  holdLow : List Hold
  holdHigh : List Hold
  asql : Option Word
  /-- The fold operations that held MFOLD bundles became (R362), dropped accesses, and what no record of the slot holds. -/
  foldLow : Option Nat
  foldHigh : Option Nat
  dropLow : Option Word
  dropHigh : Option Word
  wokenLow : Bool
  wokenHigh : Bool
  arrLow : Option (Level × Bool)
  arrHigh : Option (Level × Bool)
  brken : Bool
  cause : BitVec 30
  badPar : List Nat
  badAcc : List Nat
  /-- Bundles with bad parity, and poisoned mailbox words by their index (R26, R29). -/
  badCode : List Nat
  badMail : List Nat
  recs : Vector (Option Rec) 4
  grain : Option Nat
  /-- The fold operations of which the core is a member (R362). -/
  ops : List FoldOp
deriving DecidableEq, Repr

/-! ### The package -/

/-- A launch queue (R53). -/
structure Queue where
  base  : BitVec 37
  en    : Bool
  kind  : Bool
  log2n : BitVec 5
  count : BitVec 32
deriving DecidableEq, Repr

/-- A queue at reset (R53). -/
def Queue.reset : Queue := { base := 0, en := false, kind := false, log2n := 4, count := 0 }

/-- What the device sends the host (R50, R51, R63). -/
inductive HostOut
  | data (bytes : List Byte) (poisoned : Bool)
  | unsupported
  | msix (vec : Nat)
deriving DecidableEq, Repr

/-- A PCIe link's function: link window, MSI-X table, TLPs sent, latest first (R45 to R53, R63). -/
structure PcieLink where
  aper   : BitVec 44
  fe     : BitVec 12
  dropped : BitVec 32
  queues : Vector Queue 8
  /-- MSI-X table words, by word number: address in word 2v, data and vector control in word 2v + 1 (R48). -/
  table  : List (Nat × Word)
  pending : BitVec 64
  up     : Bool
  /-- log2 of the size of BAR 4, 34 to 44 (R47). -/
  bar4   : Nat
  /-- Posted writes not yet performed (R52): number, local offset, data. -/
  posted : List (Nat × Nat × List Byte)
  out    : List HostOut
deriving DecidableEq, Repr

/-- What a word of the MSI-X table holds at reset: every vector masked, as PCI Express has it (log entry 12). -/
def msixReset (i : Nat) : Word := if i % 2 = 1 then 0x100000000 else 0

/-- log2 of the BAR 4 size before the host has chosen one: one of the sizes of R47; the manual does not say which (log entry 7). -/
def bar4Bits : Nat := 34 + Config.bar4Log2 % 11
/-- A PCIe link at reset. -/
def PcieLink.reset : PcieLink :=
  { aper := 0, fe := 0, dropped := 0, queues := .replicate 8 Queue.reset, table := [], pending := 0, up := false, bar4 := bar4Bits,
    posted := [], out := [] }

/-- A packet of an outbound side of a span link: the tower whose base die queues it, in the queue of a link, 16 for none; the firing that
sent it, 0 for none, the destination package and the packet (R40, R43, R321). -/
structure OutPk where
  tower : Nat
  queue : Nat
  owner : Nat
  dst   : BitVec 12
  pk    : Packet
deriving DecidableEq, Repr

/-- A flit that has been sent and not acknowledged, with the packet that it completes as it was queued, and the times that it has been
replayed (R36, R37). -/
structure TxFlit where
  replays : Nat
  src  : Option OutPk
  dst  : BitVec 12
  flit : Flit
deriving DecidableEq, Repr

/-- A span link (R34 to R43). -/
structure SpanLink where
  width : BitVec 4
  down  : Bool
  /-- Width after the retraining in progress (R37). -/
  retrain : Option (BitVec 4)
  txSeq : BitVec 12
  rxSeq : BitVec 12
  /-- A NAK is owed to the other side; and one has been sent, so that flits are discarded until its replay comes (R36). -/
  nak   : Bool
  awaits : Bool
  /-- An acknowledgement is owed to the other side (R36). -/
  owed  : Bool
  /-- Sent and not acknowledged, oldest first (R36). -/
  replay : List TxFlit
  /-- The sender's map of receive slots in use (R43). -/
  slots : BitVec 256
  /-- CRC failures of each lane in the present 2^20 flits, and the flits received in them (R37). -/
  laneErr : List (Nat × Nat)
  flits : Nat
  /-- Own receive slots freed and not yet returned, and those of the adaptive packet whose last flit has still to come (R35, R43). -/
  freed : List Nat
  parts : List Nat
  /-- Held by a link-down, oldest first (R40). -/
  heldPk : List OutPk
  /-- The packages whose ordered traffic waits for RESEND since the link went down (R40). -/
  affected : List (BitVec 12)
  /-- Waiting to be sent, oldest first (R321). -/
  outq  : List OutPk
  /-- Receive slots of the other side that hold messages of firings, with the firings (R43, R117). -/
  inSlot : List (Nat × Nat)
  /-- Ordered packets in receive slots that wait to be presented, oldest first, with their slots (R43, R321). -/
  rxq   : List (Nat × Packet)
  /-- Flits handed to the wire, latest first, with the packages that they are for. -/
  sent  : List (BitVec 12 × Flit)
deriving DecidableEq, Repr

/-- A span link at reset: not trained (R40). -/
def SpanLink.reset : SpanLink :=
  { width := 0, down := true, retrain := none, txSeq := 0, rxSeq := 0, nak := false, awaits := false, owed := false,
    replay := [], slots := 0, laneErr := [], flits := 0, freed := [], parts := [], heldPk := [], affected := [], outq := [], inSlot := [], rxq := [], sent := [] }

/-- A route-table entry (R39). -/
structure Route where
  olink : BitVec 4
  valid : Bool
  amask : BitVec 16
deriving DecidableEq, Repr

/-- A route at reset (R39). -/
def Route.reset : Route := { olink := 0, valid := false, amask := 0 }

/-- A thermal sensor (R20). -/
structure Sensor where
  temp  : BitVec 16
  valid : Bool
  zone  : BitVec 2
  stamp : BitVec 32
deriving DecidableEq, Repr

/-- A sensor at reset (R20). -/
def Sensor.reset : Sensor := { temp := 0, valid := false, zone := 0, stamp := 0 }

/-- What the package keeps per compute layer 4t + k (R24, R83, R162, R245, R374). -/
structure Layer where
  cap   : BitVec 8
  allow : BitVec 8
  used  : Nat
  /-- Busy times of cores that are not in `used` yet: from a tick to another, exclusive (R375). -/
  runs  : List (Nat × Nat)
  overran  : Bool
  fenced : Bool
  feedback : BitVec 10
  vcap  : BitVec 10
  interval : BitVec 10
  scrubc : BitVec 16
  /-- Corrected errors of the patrol pass in progress, and of the pass before the last (R162). -/
  scrubNow : BitVec 16
  cchkCount : BitVec 16
  cchkBundle : BitVec 13
  cchkCore : BitVec 8
  cchkSvc : Bool
  cchkCause : BitVec 3
  /-- Plane-pool bytes in use (R159, R187). -/
  planeUsed : Nat
  /-- Spare rows of the vault layer that no bad row has been mapped to (R75). -/
  spareRows : Nat
deriving DecidableEq, Repr

/-- A layer at reset (R24, R162, R245, R374). -/
def Layer.reset : Layer :=
  { cap := 0xFF, allow := 0xFF, used := 0, runs := [], overran := false, fenced := false, feedback := 0x40, vcap := 0x40,
    interval := 0x40, scrubc := 0, scrubNow := 0, cchkCount := 0, cchkBundle := 0, cchkCore := 0, cchkSvc := false,
    cchkCause := 0, planeUsed := 0, spareRows := Config.spareRows }

/-- START_STATUS (R70). -/
structure StartStatus where
  stage : BitVec 4
  ready : Bool
  recovery : Bool
  warm  : Bool
  code  : BitVec 8
  attempts : BitVec 4
  detail : BitVec 16
deriving DecidableEq, Repr

/-- START_STATUS at a power-on (R70, R71). -/
def StartStatus.reset : StartStatus :=
  { stage := 0, ready := false, recovery := false, warm := false, code := 0, attempts := 0, detail := 0 }

/-- Why the package removes its own rails: after a failed start, a shutdown (R23), or for a cold start (R71). -/
inductive Why | failed | thermal | cold
deriving DecidableEq, Repr

/-- A slot as delivered: version 0, empty images, signed with key 0 (log entry 120). -/
def FwImage.blank : FwImage := { version := 0, boot := [], service := [], sig := { key := 0, version := 0, boot := [], service := [] } }

/-- The start sequencer, flash and fuses (R70 to R80). -/
structure Start where
  status : StartStatus
  /-- The rails are up. -/
  rails : Bool
  /-- The package is shutting down: cores stopped, rails about to fall (R23). -/
  down  : Bool
  why   : Why
  /-- A start is in progress, and whether it is a warm one (R74, R77). -/
  running : Bool
  warmRun : Bool
  /-- The tick at which the stage in progress began (R74). -/
  since : Nat
  flash : StartStatus
  self  : Bool
  fencedLayers : BitVec 32
  fencedTowers : BitVec 8
  slotA : FwImage
  slotB : FwImage
  /-- The fused verification key, the fused minimum version, and the service image of the slot that stage 1 accepted (R79). -/
  fusedKey : Nat
  minVersion : BitVec 32
  service : List Word
  /-- Fuse steps burnt, and the next unused signature index (R80). -/
  idStep : Nat
  idNext : Nat
  flashOk : Bool
  /-- Attestation requests answered: index signed, or none when refused; latest first. -/
  attest : List (Option Nat)
deriving DecidableEq, Repr

/-- An armed transient block (R167, R168). -/
structure Block where
  blk  : Nat
  arm  : Nat
  life : Nat
  deadline : Nat
deriving DecidableEq, Repr

/-- A migration token that is taken or waited for (R145, R146): launch, page, and the waiting requests in stamp order. -/
structure Token where
  lid  : BitVec 32
  va   : Nat
  holder : Option TokenReq
  shoot : Nat
  waiting : List TokenReq
deriving DecidableEq, Repr

/-- A shoot-down in progress (R141): the selection and the cores that have not acknowledged. -/
structure Shoot where
  id    : Nat
  space : BitVec 10
  size  : BitVec 2
  vpn   : BitVec 40
  allv  : Bool
  alls  : Bool
  left  : List Nat
  done  : Bool
  /-- The service core that it leaves from (R141, R145). -/
  src   : Nat
  /-- A bundle of a bank of that core holds for it (R299). -/
  issuer : Option Prio
deriving DecidableEq, Repr

/-- A device-side F/E plane of a page resident in a host window (R187): its empty words, as word offsets in the page. -/
structure Plane where
  lid  : BitVec 32
  va   : Nat
  layer : Nat
  bytes : Nat
  empties : List Nat
  /-- The attributes that the page had on the device, where a host window does not take them (R134). -/
  attr  : BitVec 9
deriving DecidableEq, Repr

/-- A vertical path to a vault that is not in its initial state (R31 to R33). -/
structure Path where
  spares : Nat
  failing : List Nat
  quiesced : Bool
  /-- The tick of the latest request to quiesce the path: what left its core before it is on the path (R32). -/
  since : Nat
  exhausted : Bool
  /-- CRC errors of each lane in the present 2^20 beats, and the beats made in them (R31). -/
  laneErr : List (Nat × Nat)
  beats : Nat
deriving DecidableEq, Repr

/-- A path as made (R31). -/
def Path.reset : Path :=
  { spares := 8, failing := [], quiesced := false, since := 0, exhausted := false, laneErr := [], beats := 0 }

/-- What the check code of a block or word will find at its next read: the domain whose code it is, 0 to 4 (R27), and whether
the error is beyond what the code corrects (R26, R28). -/
structure Flaw where
  domain : Fin 5
  hard   : Bool
deriving DecidableEq, Repr

/-- A vault bank's state: tick of its last refresh operation, end of what occupies it (R163), its open row (R158). -/
structure Bankst where
  last : Option Nat
  busy : Option Nat
  row  : Option Nat
deriving DecidableEq, Repr

/-- A bank that has not refreshed, with no open row (R158, R163). -/
def Bankst.reset : Bankst := { last := none, busy := none, row := none }

/-- The whole package. -/
structure State where
  tick  : Nat
  /-- The tick at which the timebase was last started at 0 (R17, R74 stage 5). -/
  epoch : Nat
  /-- Cores that have still to move in this tick. -/
  turn  : List Nat
  /-- The core whose bundle is being executed, or that the event being carried out is about. -/
  here  : Nat
  /-- The priority and the number that the event being carried out is about. -/
  evPrio : Prio
  evNum : Nat
  queue : List Timed
  /-- The model's own counter of free values taken. -/
  free  : Nat
  /-- The model's own schedule: the times the accesses, walks and services to come will take; where it is empty the
  manual's figure is taken (log entry 3). -/
  delays : List Nat
  nextId : Nat
  mem   : List Host.Cell
  /-- Addresses of the empty words, rising (R174). -/
  empties : List Nat
  /-- Addresses of the poisoned blocks of 64 bytes, rising (R27, R29). -/
  poison : List Nat
  /-- Addresses of the words that are poisoned by themselves, in an L1, an LLC slice or a mailbox store, rising (R27, R29). -/
  wpoison : List Nat
  /-- Errors not yet found, by the block or word that they are in (R26 to R28). -/
  flaws : List (Nat × Flaw)
  /-- Vault blocks of 64 bytes that stay uncorrectable when they are written, by their keys, rising (R75). -/
  dead : List Nat
  /-- The model's own schedule of transmission errors: each beat or flit to come takes an entry; 0, and an empty list, stand for
  none, `n + 1` for an error on lane `n` (R28, R31; log entry 105). -/
  noise : List Nat
  cores : List (Nat × Core)
  accesses : List Access
  msgs  : List Msg
  park  : List ParkEntry
  transit : List Transit
  setfull : Vector (BitVec 32) 8
  quadTlb : List (Nat × TlbEntry)
  joins : List Join
  foldOps : List FoldOp
  foldSeq : List (Nat × BitVec 32)
  launches : List Launch
  history : List (BitVec 32 × BitVec 8)
  saved : List Saved
  masterVacant : Bool
  links : Vector PcieLink 2
  span  : Vector SpanLink 16
  routes : List (Nat × Route)
  pkgId : BitVec 12
  pkgSet : Bool
  pwrLimit : BitVec 12
  pwrMeas : BitVec 16
  limiting : Bool
  corr  : Vector (BitVec 32) 12
  uncorr : Vector (BitVec 32) 12
  sensors : Vector Sensor 84
  layers : Vector Layer 32
  fencedTowers : BitVec 8
  devBase : Word
  devCount : BitVec 32
  /-- Entries of the log that wait for their HBM stack (R22, R364). -/
  devPend : List (List Word)
  devLost : BitVec 32
  boot  : Start
  blocks : List Block
  tokens : List Token
  replicas : List (BitVec 32 × Nat × Nat × Nat)
  frames : List (Nat × Nat)
  planes : List Plane
  shoots : List Shoot
  paths : List (Nat × Path)
  banks : List (Nat × Bankst)
  /-- Tick at which refresh began, at stage 4 of a start (R163). -/
  refreshFrom : Option Nat
  /-- Pod barriers: launch id and packages whose token stands (R324). -/
  podTokens : List (BitVec 12 × BitVec 32)
  /-- Remote watches registered here for words of this package (R42). -/
  watches : List (BitVec 12 × Nat)
  /-- Of the busy cores, what the control registers that events may change read as when the tick began (R285): register number,
  for the ports of the high bank plus 0x1000. -/
  seen : List (Nat × List (Nat × Word))
deriving DecidableEq, Repr

/-- Stage 0 of a power-on at tick 0 is late behind its limit of 50 ms (R74). -/
def stageZeroLate : Timed := { due := 35000001, rank := 1000000, core := 0, prio := .low, num := 0, ev := .stageTimeout }
/-- The sensors take their first samples 1400 ticks after power-on (R20; log entry 119). -/
def firstSample : Timed :=
  { due := 1400, rank := 1, core := 0, prio := .low, num := 1, ev := .sensorSample 0 (Config.freeWord 0 |>.setWidth 16) }

/-- The package as power-on leaves it: registers at the reset values of the rules, memory as R75 initialises it. -/
def State.reset : State :=
  { tick := 0, epoch := 0, turn := [], here := 0, evPrio := .low, evNum := 0, queue := [firstSample, stageZeroLate], free := 1,
    delays := [], nextId := 1, mem := [], empties := [], poison := [], wpoison := [], flaws := [], dead := [], noise := [], cores := [],
    accesses := [], msgs := [], park := [], transit := [], setfull := .replicate 8 0, quadTlb := [], joins := [],
    foldOps := [], foldSeq := [], launches := [], history := [], saved := [], masterVacant := false,
    links := .replicate 2 PcieLink.reset, span := .replicate 16 SpanLink.reset, routes := [], pkgId := 0, pkgSet := false,
    pwrLimit := 0xBB8, pwrMeas := 0, limiting := false, corr := .replicate 12 0, uncorr := .replicate 12 0,
    sensors := .replicate 84 Sensor.reset, layers := .replicate 32 Layer.reset, fencedTowers := 0, devBase := 0,
    devCount := 0, devPend := [], devLost := 0,
    boot := { status := StartStatus.reset, rails := true, down := false, why := .cold, running := true, warmRun := false, since := 0, flash := StartStatus.reset, self := false,
              fencedLayers := 0, fencedTowers := 0, slotA := FwImage.blank, slotB := FwImage.blank,
              fusedKey := 0, minVersion := 0, service := [], idStep := 1, idNext := 0, flashOk := true,
              attest := [] },
    blocks := [], tokens := [], replicas := [], frames := [], planes := [], shoots := [], paths := [], banks := [], refreshFrom := none,
    podTokens := [], watches := [], seen := [] }

end Sys2Proof.Machine
end

