-- ==== Sys2Proof/Machine/Base.lean ====
section
/-!
DEFINITION. Cores, banks, general registers, and the model's clockwork: the queue of events, the schedule of delays, fresh
numbers and free values (11_core R207 to R213).
-/
namespace Sys2Proof.Machine

/-! ### Cores and banks -/

/-- A core; one that is not listed is as power-on left it. -/
def State.core (s : State) (c : Nat) : Core := Sparse.get (fun _ => Core.reset) s.cores c
/-- Put a core. -/
def State.setCore (s : State) (c : Nat) (k : Core) : State := { s with cores := Sparse.insert s.cores c k }
/-- Change a core. -/
def State.modCore (s : State) (c : Nat) (f : Core → Core) : State := s.setCore c (f (s.core c))

/-- The bank of a priority (R207). -/
def Core.bank (k : Core) : Prio → Bank | .low => k.low | .high => k.high
/-- Put a bank. -/
def Core.setBank (k : Core) (p : Prio) (b : Bank) : Core :=
  match p with
  | .low => { k with low := b }
  | .high => { k with high := b }
/-- Change a bank. -/
def Core.modBank (k : Core) (p : Prio) (f : Bank → Bank) : Core := k.setBank p (f (k.bank p))

/-- A bank of a core. -/
def State.bank (s : State) (c : Nat) (p : Prio) : Bank := (s.core c).bank p
/-- Change a bank of a core. -/
def State.modBank (s : State) (c : Nat) (p : Prio) (f : Bank → Bank) : State := s.modCore c fun k => k.modBank p f

/-- The core that issues. -/
def State.mine (s : State) : Core := s.core s.here
/-- Change the core that issues. -/
def State.modMine (s : State) (f : Core → Core) : State := s.modCore s.here f
/-- The bank that issues (R208: a firing never reads or writes the other). -/
def State.me (s : State) : Bank := s.mine.bank s.mine.cur
/-- Change the bank that issues. -/
def State.modMe (s : State) (f : Bank → Bank) : State := s.modMine fun k => k.modBank k.cur f

/-! ### General registers (R207, R209, R211) -/

/-- A register as it stands: g0 reads zero (R207). -/
def Bank.rd (b : Bank) (r : Reg) : Word := if r = 0 then 0 else b.g.get r
/-- A register of the issuing firing, as it stands before the issue tick (R209). -/
def State.rd (s : State) (r : Reg) : Word := s.me.rd r
/-- A payload of consecutive registers (R317). -/
def Bank.rdFrom (b : Bank) (r : Reg) (n : Nat) : List Word := (List.range n).map fun i => b.rd ⟨(r.val + i) % 32, Nat.mod_lt _ (by decide)⟩

/-- Put a result among those on their way: in the order in which they land, an A result after a C result of the same
tick, so that it is kept (R211). -/
def pendInsert (l : List Pend) (p : Pend) : List Pend :=
  match l with
  | [] => [p]
  | q :: m => if q.due < p.due || (q.due == p.due && (!q.isA || p.isA)) then q :: pendInsert m p else p :: q :: m

/-- A result for a register, written at a tick; a write to g0 is discarded (R207). -/
def Bank.write (b : Bank) (isA : Bool) (due : Nat) (r : Reg) (v : Word) : Bank :=
  if r = 0 then b else { b with pend := pendInsert b.pend { due := due, isA := isA, dst := .gpr r, val := v } }

/-- A result of the C word with a latency (R211). -/
def State.wrC (s : State) (lat : Nat) (r : Reg) (v : Word) : State := s.modMe fun b => b.write false (s.tick + lat) r v
/-- A result of the A word with a latency (R249). -/
def State.wrA (s : State) (lat : Nat) (r : Reg) (v : Word) : State := s.modMe fun b => b.write true (s.tick + lat) r v
/-- A result of the A word with the flags it raises in the tick it is written (R230, R252). -/
def State.wrAF (s : State) (lat : Nat) (r : Reg) (v : Word × BitVec 5) : State :=
  s.modMe fun b =>
    let b' := b.write true (s.tick + lat) r v.1
    { b' with pendFl := b'.pendFl ++ (if v.2 = 0 then [] else [{ due := s.tick + lat, fl := v.2 }]) }

/-- One result lands. -/
def Bank.landOne (b : Bank) (p : Pend) : Bank :=
  match p.dst with
  | .gpr r => { b with g := b.g.set r p.val }
  | .fpctl => { b with fpctl := p.val.setWidth 2 }
/-- The results written at or before a tick land, in order (R211). -/
def Bank.land (b : Bank) (t : Nat) : Bank :=
  let b' := (b.pend.filter fun p => p.due ≤ t).foldl Bank.landOne b
  { b' with pend := b.pend.filter fun p => t < p.due }
/-- The flags of results written at or before a tick are ORed into %fpst (R230, R252). -/
def Bank.landFlags (b : Bank) (t : Nat) : Bank :=
  { b with fpst := (b.pendFl.filter fun p => p.due ≤ t).foldl (fun f p => f ||| p.fl) b.fpst,
           pendFl := b.pendFl.filter fun p => t < p.due }

/-- Whether a result for a register is on its way (R210 item 1). -/
def Bank.pending (b : Bank) (r : Reg) : Bool := b.pend.any fun p => decide (p.dst = .gpr r)

/-- The rounding mode that an rm code names for a firing (R225, R252). -/
def Bank.mode (b : Bank) : Rm → Mode
  | .rne => .rne
  | .rtz => .rtz
  | .rdn => .rdn
  | .rup => .rup
  | .dyn => if b.fpctl = 0 then .rne else if b.fpctl = 1 then .rtz else if b.fpctl = 2 then .rdn else .rup
/-- The same for the issuing firing. -/
def State.mode (s : State) (r : Rm) : Mode := s.me.mode r

/-! ### The queue of events and the model's own counters -/

/-- Put an event into the queue: by tick, then by rank, then in the order of coming (R160, R319). -/
def queueInsert (q : List Timed) (e : Timed) : List Timed :=
  match q with
  | [] => [e]
  | f :: r => if f.due < e.due || (f.due == e.due && f.rank ≤ e.rank) then f :: queueInsert r e else e :: f :: r
/-- An event at a tick, about a core, a priority and a number; it ranks by the core. -/
def State.enqueue (s : State) (due core : Nat) (p : Prio) (num : Nat) (ev : Instr) : State :=
  { s with queue := queueInsert s.queue { due := due, rank := core + 1, core := core, prio := p, num := num, ev := ev } }
/-- An event at a tick that comes before every arrival of its tick (R419). -/
def State.enqueueFirst (s : State) (due core : Nat) (p : Prio) (num : Nat) (ev : Instr) : State :=
  { s with queue := queueInsert s.queue { due := due, rank := 0, core := core, prio := p, num := num, ev := ev } }
/-- An event at a tick that comes after every arrival, wake and release of its tick (R122, R328). -/
def State.enqueueLast (s : State) (due core : Nat) (p : Prio) (num : Nat) (ev : Instr) : State :=
  { s with queue := queueInsert s.queue { due := due, rank := 1000000, core := core, prio := p, num := num, ev := ev } }
/-- An event of the package, some ticks from now, about a number. -/
def State.later (s : State) (d num : Nat) (ev : Instr) : State := s.enqueue (s.tick + d) 0 .low num ev
/-- The time that an access, walk or service takes: the next entry of the schedule, or the manual's figure (log entry 3). -/
def State.delay (s : State) (figure : Nat) : Nat := s.delays.headD figure
/-- The time of what may take longer than the manual's figure, and not less: the next entry of the schedule adds to it. -/
def State.slack (s : State) (figure : Nat) : Nat := figure + s.delays.headD 0
/-- The schedule after one time is taken. -/
def State.delayed (s : State) : State := { s with delays := s.delays.tail }
/-- The state after a fresh number, `nextId`, is taken. -/
def State.bumpId (s : State) : State := { s with nextId := s.nextId + 1 }
/-- The timebase (R17). -/
def State.timebase (s : State) : Nat := s.tick - s.epoch
/-- The next free value. -/
def State.freeVal (s : State) : Word := Config.freeWord s.free
/-- The state after a free value is taken. -/
def State.bumpFree (s : State) : State := { s with free := s.free + 1 }

/-! ### Holding and issuing a bundle (R209, R210, R213) -/

/-- A bank whose C word has issued: the operation is over, its count starts afresh (R121), and word 10 of a record is spent (R402). -/
def Bank.issueC (b : Bank) : Bank :=
  let b1 := { b with issued := true, op := .idle, xl := .none, wdc := 0, barHeld := 0, arrOwn := none, woken := false, wasSusp := false }
  { b1 with feHeld := 0, lands := none, lastOne := false, xlat := 0, pass := 0 }
/-- The C word of the bundle takes effect in this tick. -/
def State.issue (s : State) : State := s.modMe Bank.issueC
/-- The bundle is held by a resource; no count runs (R210 item 2). -/
def State.hold (s : State) : State := s
/-- Whether the first attempt of a waiting operation has been made (R115, R278). -/
def Op.begun : Op → Bool | .fe .. => true | _ => false
/-- The bundle is held by an unresolved operation: the watchdog's count runs, and its expiry falls due in the next tick
when it has reached the limit (R121, R122). -/
def State.holdOp (s : State) : State :=
  let s' := s.modMe fun b => { b with wdc := b.wdc + 1, feHeld := b.feHeld + if b.op.begun then 1 else 0 }
  let lim := s.mine.wdlim.toNat * 1024
  if lim ≠ 0 ∧ lim ≤ s'.me.wdc then s'.enqueueLast (s.tick + 1) s.here s.mine.cur 0 .watchdogExpiry else s'
/-- What the C word decided about the path (R303). -/
def State.flow (s : State) (f : Flow) : State := s.modMe fun b => { b with flow := f }

/-- A bit as a number. -/
def bitN (b : Bool) : Nat := if b then 1 else 0

/-! ### Sorting -/

/-- Put an element into a sorted list. -/
def insertBy {α : Type} (le : α → α → Bool) (x : α) : List α → List α
  | [] => [x]
  | y :: l => if le x y then x :: y :: l else y :: insertBy le x l
/-- Sort a list; equal elements keep their order. -/
def sortBy {α : Type} (le : α → α → Bool) (l : List α) : List α := l.foldr (insertBy le) []

/-! ### Places (R2, R15, R128, R136, R155) -/

/-- Tower of a compute or service core. -/
def coreTower (c : Nat) : Nat := if c < 8192 then c / 1024 else (c - 8192) / 16
/-- Compute layer 4t + k of a compute or service core. -/
def coreLayer (c : Nat) : Nat := if c < 8192 then c / 256 else (c - 8192) / 4
/-- x of a core: the four service cores of a layer stand on its east edge (R3, R14). -/
def coreX (c : Nat) : Nat := if c < 8192 then c % 16 else 15
/-- y of a core. The manual gives the service cores no y; the model takes 0, 4, 8 and 12 (log entry 109). -/
def coreY (c : Nat) : Nat := if c < 8192 then c / 16 % 16 else 4 * (c % 4)
/-- Whether a core is a service core (R216). -/
def isSvc (c : Nat) : Bool := decide (8192 ≤ c)
/-- What a service core is for (R3). -/
inductive SvcRole | translation | distributor | housekeeping
deriving DecidableEq, Repr
/-- The role of a service core: the four of a layer are, in the order of their numbers, two translation cores, the distributor and
the housekeeping core; the manual does not number them (log entry 109). -/
def svcRole (c : Nat) : SvcRole := if c % 4 < 2 then .translation else if c % 4 = 2 then .distributor else .housekeeping
/-- The service core of a layer that has a role; of the two translation cores, the first. -/
def roleCore (i : Nat) (r : SvcRole) : Nat := 8192 + 4 * i + (((List.range 4).find? fun j => svcRole j == r).getD 0)
/-- Quad of a compute core. -/
def coreQuad (c : Nat) : Nat := coreLayer c * 64 + coreY c / 2 * 8 + coreX c / 2
/-- The cores of a compute core's quad. -/
def quadCores (c : Nat) : List Nat := (List.range 4).map fun i =>
  c / 256 * 256 + (c / 16 % 16 / 2 * 2 + i / 2) * 16 + c % 16 / 2 * 2 + i % 2
/-- Distance on a ring of 16. -/
def ringDist (a b : Nat) : Nat := min ((a + 16 - b) % 16) ((b + 16 - a) % 16)
/-- Torus hops between two cores' places (R155). -/
def torusHops (c d : Nat) : Nat := ringDist (coreX c) (coreX d) + ringDist (coreY c) (coreY d)
/-- Distance of two numbers. -/
def absDiff (a b : Nat) : Nat := max a b - min a b
/-- Inter-tower hops (R15). -/
def towerHops (i j : Nat) : Nat := absDiff (i % 4) (j % 4) + absDiff (i / 4) (j / 4)

end Sys2Proof.Machine
end

