-- ==== Sys2Proof/Machine/Mem.lean ====
section
/-!
DEFINITION. Memory: what an unlisted byte reads as, reading and writing, full/empty bits, poison, the address map and home
towers (07_translation R126 to R131, 04_startup R75, 09_full_empty R174, 01_package R29). Memory is keyed by the local
offset of an address, with both vault windows brought to the vault-linear one (R129).
-/
namespace Sys2Proof.Machine

/-! ### The windows (R127, R128) -/

/-- Start of the layer-interleaved vault window. -/
def vaultBase : Nat := 0x10000000000
/-- Start of the vault-linear window. -/
def linearBase : Nat := 0x14000000000
/-- Start of the associative-array window. -/
def arrayBase : Nat := 0x18000000000
/-- Start of the instruction-store window. -/
def istoreBase : Nat := 0x18100000000
/-- Start of the mailbox window. -/
def mailBase : Nat := 0x18200000000
/-- Start of the package control window. -/
def ctlBase : Nat := 0x18300000000
/-- Keys of the service cores' instruction stores, which have no address (R216). -/
def svcStoreBase : Nat := 0x1000000000000000

/-- Address of bundle `i` of a core's instruction store (R128, R216). -/
def bundleKey (c i : Nat) : Nat :=
  if c < 8192 then istoreBase + c * 0x10000 + 8 * (i % 8192) else svcStoreBase + (c - 8192) * 0x10000 + 8 * (i % 8192)
/-- Address of mailbox word `i` of a core (R128). -/
def mailKey (c i : Nat) : Nat := mailBase + c * 0x8000 + 8 * (i % 4096)

/-- Whether a key lies in an instruction store. -/
def inStore (a : Nat) : Bool := (istoreBase ≤ a && a < istoreBase + 0x20000000) || decide (svcStoreBase ≤ a)

/-! ### Bytes (R7, R75) -/

/-- What a byte that nothing has written reads as: memory initialisation writes every word zero and every bundle SEAL,
whose fourth byte is 0x7F (R75). -/
def memUnlisted (a : Nat) : Byte := if inStore a && a % 8 == 3 then 0x7F else 0

/-- The canonical form of memory. -/
def Memory.wf (m : List Host.Cell) : Bool := Sparse.wf memUnlisted m

/-- A byte of memory. -/
def State.rdByte (s : State) (a : Nat) : Byte := Sparse.get memUnlisted s.mem a
/-- `n` bytes from an address, least significant first (R7). -/
def memRead (m : List Host.Cell) : Nat → Nat → Nat
  | _, 0 => 0
  | a, n + 1 => (Sparse.get memUnlisted m a).toNat + 256 * memRead m (a + 1) n
/-- Write the low `n` bytes of a number, least significant first (R7). -/
def memWrite (m : List Host.Cell) : Nat → Nat → Nat → List Host.Cell
  | _, 0, _ => m
  | a, n + 1, v => memWrite (Sparse.set memUnlisted m a (BitVec.ofNat 8 v)) (a + 1) n (v / 256)

/-- `n` bytes of memory. -/
def State.rdN (s : State) (a n : Nat) : Nat := memRead s.mem a n
/-- A word of memory. -/
def State.rdWord (s : State) (a : Nat) : Word := BitVec.ofNat 64 (memRead s.mem a 8)
/-- Write `n` bytes of memory. -/
def State.wrN (s : State) (a n v : Nat) : State := { s with mem := memWrite s.mem a n v }
/-- Write a word of memory. -/
def State.wrWord (s : State) (a : Nat) (v : Word) : State := s.wrN a 8 v.toNat
/-- Words of memory. -/
def State.rdWords (s : State) (a n : Nat) : List Word := (List.range n).map fun i => s.rdWord (a + 8 * i)
/-- Write words of memory. -/
def State.wrWords (s : State) (a : Nat) : List Word → State
  | [] => s
  | w :: ws => (s.wrWord a w).wrWords (a + 8) ws

/-! ### Rising lists of addresses -/

/-- Put a number into a rising list. -/
def addKey : List Nat → Nat → List Nat
  | [], k => [k]
  | j :: l, k => if j = k then j :: l else if k < j then k :: j :: l else j :: addKey l k
/-- Take a number out of a list. -/
def delKey (l : List Nat) (k : Nat) : List Nat := l.filter fun j => j != k

/-! ### Full/empty bits and poison (R174, R29) -/

/-- The word that holds an address. -/
def wordOf (a : Nat) : Nat := a / 8 * 8
/-- Whether a word is full. -/
def State.full (s : State) (a : Nat) : Bool := !s.empties.contains (wordOf a)
/-- Set a word's bit. -/
def State.setFE (s : State) (a : Nat) (full : Bool) : State :=
  { s with empties := if full then delKey s.empties (wordOf a) else addKey s.empties (wordOf a) }
/-- Whether a key lies in the mailbox window. -/
def inMail (a : Nat) : Bool := decide (mailBase ≤ a) && decide (a < ctlBase)
/-- The block of 64 bytes that holds an address (R27). -/
def blockAt (a : Nat) : Nat := a / 64 * 64
/-- Whether the code of an error's domain covers a block of 64 bytes; the others cover a word (R27). -/
def Flaw.wide (x : Flaw) : Bool := x.domain == 2 || x.domain == 3
/-- Where an error at an address lies: its block or its word (R27). -/
def Flaw.unit (x : Flaw) (a : Nat) : Nat := if x.wide then blockAt a else wordOf a
/-- Whether the word at an address is poisoned, by itself or with its block (R27, R29). -/
def State.poisoned (s : State) (a : Nat) : Bool := s.poison.contains (blockAt a) || s.wpoison.contains (wordOf a)
/-- A write of a whole word clears the poison of the word, and an error that the word's own code would have found; of a block it
covers a part only (R29). -/
def State.unpoison (s : State) (a : Nat) : State :=
  { s with wpoison := delKey s.wpoison (wordOf a), flaws := s.flaws.filter fun x => x.2.wide || x.1 != wordOf a }
/-- The errors that the codes at an address would have found are gone. -/
def State.clearFlaw (s : State) (a : Nat) : State := { s with flaws := s.flaws.filter fun x => x.1 != x.2.unit a }
/-- A write that covers a block clears its poison (R29). -/
def State.heal (s : State) (a : Nat) : State :=
  { s with poison := delKey s.poison (blockAt a), wpoison := s.wpoison.filter fun k => blockAt k != blockAt a,
           flaws := s.flaws.filter fun x => blockAt x.1 != blockAt a }
/-- Poison a block (R26, R29). -/
def State.addPoison (s : State) (a : Nat) : State := { s with poison := addKey s.poison (blockAt a) }
/-- Poison a word (R26, R29). -/
def State.addWordPoison (s : State) (a : Nat) : State := { s with wpoison := addKey s.wpoison (wordOf a) }
/-- Whether a store of `n` bytes consumes poison: one that does not cover what is poisoned (R29, R269). -/
def State.merges (s : State) (a n : Nat) : Bool := s.poison.contains (blockAt a) || (s.wpoison.contains (wordOf a) && n != 8)

/-! ### The address map (R127 to R131) -/

/-- Package id of a physical address. -/
def pkgOf (pa : Nat) : BitVec 12 := BitVec.ofNat 12 (pa / 2 ^ 44)
/-- Local offset of a physical address. -/
def offOf (pa : Nat) : Nat := pa % 2 ^ 44

/-- Where a local offset leads. -/
inductive Place
  | hbm
  /-- A vault: number 256·(4t + k) + 16y + x, which is its core's number, and the offset in it (R129). -/
  | vault (v ofs : Nat)
  | array (c ofs : Nat)
  | istore (c ofs : Nat)
  | mailbox (c ofs : Nat)
  | control (ofs : Nat)
  | hostWin (l ofs : Nat)
  | unassigned
deriving DecidableEq, Repr

/-- Vault and offset of an offset in the layer-interleaved window (R129). -/
def interleave (o : Nat) : Nat × Nat :=
  let line := o % 2 ^ 33 / 128
  (o / 2 ^ 33 * 256 + line % 256, line / 256 * 128 + o % 128)

/-- The local map (R127); offsets 0x4_8000 to 0x7_FFFF of an array block are unassigned (R128). -/
def placeOf (o : Nat) : Place :=
  if o < 0xC000000000 then .hbm
  else if o < vaultBase then .unassigned
  else if o < linearBase then let v := interleave (o - vaultBase); .vault v.1 v.2
  else if o < arrayBase then .vault ((o - linearBase) / 2 ^ 25) ((o - linearBase) % 2 ^ 25)
  else if o < istoreBase then
    let r := o - arrayBase
    if r % 0x80000 < 0x48000 then .array (r / 0x80000) (r % 0x80000) else .unassigned
  else if o < istoreBase + 0x20000000 then .istore ((o - istoreBase) / 0x10000) ((o - istoreBase) % 0x10000)
  else if o < mailBase then .unassigned
  else if o < mailBase + 0x10000000 then .mailbox ((o - mailBase) / 0x8000) ((o - mailBase) % 0x8000)
  else if o < ctlBase then .unassigned
  else if o < ctlBase + 0x100000 then .control (o - ctlBase)
  else if o < 0x80000000000 then .unassigned
  else if o < 0xC0000000000 then .hostWin 0 (o - 0x80000000000)
  else .hostWin 1 (o - 0xC0000000000)

/-- The one key of a local offset: both vault windows lead to the vault-linear address (R129). -/
def keyOf (o : Nat) : Nat :=
  match placeOf o with
  | .vault v ofs => linearBase + v * 2 ^ 25 + ofs
  | _ => o

/-- The XOR of the eleven 3-bit fields at bits 9:7 to 39:37 (R131). -/
def hbmHome (a : Nat) : Nat := (List.range 11).foldl (fun x i => x ^^^ (a / 2 ^ (7 + 3 * i) % 8)) 0
/-- Whether a tower is fenced whole. -/
def State.towerFenced (s : State) (t : Nat) : Bool := s.fencedTowers.getLsbD t
/-- The first unfenced tower from `t` on, wrapping; `t` where all are fenced (R131). -/
def State.unfencedFrom (s : State) (t : Nat) : Nat :=
  match (List.range 8).find? fun i => !s.towerFenced ((t + i) % 8) with
  | some i => (t + i) % 8
  | none => t
/-- Home tower of a local offset, for an access from a core (R131). -/
def State.homeTower (s : State) (c o : Nat) : Nat :=
  match placeOf o with
  | .hbm | .unassigned => s.unfencedFrom (hbmHome o)
  | .vault v _ => v / 1024
  | .array c' _ | .istore c' _ | .mailbox c' _ => c' / 1024
  | .control _ => coreTower c
  | .hostWin l _ => if l = 0 then 4 else 7

/-- Set of a word in a park table, from its physical address, or that in the vault-linear window (R181). -/
def parkSet (a : Nat) : Nat := ((a / 8) ^^^ (a / 2 ^ 16) ^^^ (a / 2 ^ 29) ^^^ (a / 2 ^ 42)) % 8192
/-- Set of a word in a park table, from its key: of another package's word, the key holds the physical address (R42, R181). -/
def State.parkSetOf (s : State) (key : Nat) : Nat := parkSet (if 2 ^ 61 ≤ key then key - 2 ^ 61 else s.pkgId.toNat * 2 ^ 44 + key)

/-! ### The array window (R128) -/

/-- A row of a core's array. -/
def Core.row (k : Core) (n : Nat) : Row := Sparse.get (fun _ => Row.reset) k.rows n
/-- Put a row. -/
def Core.setRow (k : Core) (n : Nat) (r : Row) : Core := { k with rows := Sparse.set (fun _ => Row.reset) k.rows n r }
/-- `n` bytes at an offset of an array block: data bits of a row, or the tags in a tag word (R128). -/
def arrayRead (k : Core) (o n : Nat) : Nat :=
  if o < 0x40000 then (k.row (o / 64)).bits.toNat / 2 ^ (8 * (o % 64)) % 2 ^ (8 * n)
  else (k.row ((o - 0x40000) / 8)).tags.toNat / 2 ^ (8 * (o % 8)) % 2 ^ (8 * n)
/-- Replace `n` bits at bit `lo` of a number. -/
def putBits (w lo n v : Nat) : Nat := w - w / 2 ^ lo % 2 ^ n * 2 ^ lo + v % 2 ^ n * 2 ^ lo
/-- Write `n` bytes at an offset of an array block; bits 63:8 of a tag word are ignored (R128, R271). -/
def arrayWrite (k : Core) (o n v : Nat) : Core :=
  if o < 0x40000 then
    let r := k.row (o / 64)
    k.setRow (o / 64) { r with bits := BitVec.ofNat 512 (putBits r.bits.toNat (8 * (o % 64)) (8 * n) v) }
  else if o % 8 = 0 then
    let i := (o - 0x40000) / 8
    k.setRow i { (k.row i) with tags := BitVec.ofNat 8 v }
  else k

end Sys2Proof.Machine
end

