-- ==== Sys2Proof/Machine/Registers.lean ====
section
/-!
DEFINITION. The package control window, the link windows and the MSI-X tables: what a register reads as and what a write
stores (01_package R19, R20, R24, R30; 02_span_links R38 to R40; 03_host_interface R48, R49, R53; 04_startup R70 to R73;
05_distribution R83; 08_memory_hierarchy R162; 09_full_empty R185; 13_instruction_formats R245; 20_fold R364).
-/
namespace Sys2Proof.Machine

/-- An element of a fixed list of registers, or the value of an absent one. -/
def vget {α : Type} {n : Nat} (v : Vector α n) (i : Nat) (d : α) : α := v.toList.getD i d
/-- Put an element; an index out of range changes nothing. -/
def vset {α : Type} {n : Nat} (v : Vector α n) (i : Nat) (x : α) : Vector α n := v.setIfInBounds i x

/-- What a layer that is not there would hold. -/
def State.layer (s : State) (i : Nat) : Layer := vget s.layers i Layer.reset
/-- Change a layer's record. -/
def State.modLayer (s : State) (i : Nat) (f : Layer → Layer) : State := { s with layers := vset s.layers i (f (s.layer i)) }
/-- The distributor of the package's lowest unfenced layer, the package master (R3, R81). -/
def State.distCore (s : State) : Nat :=
  roleCore (((List.range 32).find? fun i => !(s.layer i).fenced).getD 0) .distributor
/-- A sensor (R20). -/
def State.sensor (s : State) (j : Nat) : Sensor := vget s.sensors j Sensor.reset
/-- Sensor of compute layer 4t + k: 9t + 2k + 2 (R20, R377). -/
def computeSensor (i : Nat) : Nat := 9 * (i / 4) + 2 * (i % 4) + 2
/-- Sensor of the vault layer beneath compute layer 4t + k: 9t + 2k + 1 (R20, R377). -/
def vaultSensor (i : Nat) : Nat := 9 * (i / 4) + 2 * (i % 4) + 1
/-- The hard trip of a compute layer: its own, its near vault layer's or the base die's sensor in zone 3 (R22). -/
def State.trip (s : State) (i : Nat) : Bool :=
  (s.sensor (computeSensor i)).zone == 3 || (s.sensor (vaultSensor i)).zone == 3 || (s.sensor (9 * (i / 4))).zone == 3
/-- ALLOW of a layer: 0 during a hard trip (R22, R25). -/
def State.allowOf (s : State) (i : Nat) : BitVec 8 := if s.trip i then 0 else (s.layer i).allow
/-- The usage U of a layer over the ticks before one (R375). -/
def Layer.usage (l : Layer) (t : Nat) : Nat := l.used + (l.runs.map fun r => min t r.2 - r.1).sum
/-- ⌊U / 44,800⌋, saturating (R374). -/
def usedField (u : Nat) : Nat := min (u / 44800) 0xFF

/-- START_STATUS as a word (R70). -/
def StartStatus.word (x : StartStatus) : Word :=
  BitVec.ofNat 64 (place x.stage.toNat 4 0 + place x.ready.toNat 1 4 + place x.recovery.toNat 1 5 + place x.warm.toNat 1 6 +
    place x.code.toNat 8 16 + place x.attempts.toNat 4 24 + place x.detail.toNat 16 32)
/-- A bit per layer. -/
def State.fencedLayers (s : State) : Nat :=
  (List.range 32).foldl (fun n i => n + (if (s.layer i).fenced then 2 ^ i else 0)) 0
/-- Entries of a tower's park table in use (R185). -/
def State.parkUsed (s : State) (t : Nat) : Nat := (s.park.filter fun e => e.tower == t).length
/-- A route-table entry (R39). -/
def State.route (s : State) (p : BitVec 12) : Route := Sparse.get (fun _ => Route.reset) s.routes p.toNat
/-- A span link. -/
def State.spanLink (s : State) (l : Nat) : SpanLink := vget s.span l SpanLink.reset
/-- Change a span link. -/
def State.modSpan (s : State) (l : Nat) (f : SpanLink → SpanLink) : State := { s with span := vset s.span l (f (s.spanLink l)) }
/-- A PCIe link. -/
def State.link (s : State) (l : Nat) : PcieLink := vget s.links l PcieLink.reset
/-- Change a PCIe link. -/
def State.modLink (s : State) (l : Nat) (f : PcieLink → PcieLink) : State := { s with links := vset s.links l (f (s.link l)) }
/-- A queue of a link (R53). -/
def PcieLink.queue (x : PcieLink) (q : Nat) : Queue := vget x.queues q Queue.reset
/-- Change a queue of a link. -/
def PcieLink.modQueue (x : PcieLink) (q : Nat) (f : Queue → Queue) : PcieLink := { x with queues := vset x.queues q (f (x.queue q)) }

/-- SENSOR (R20). -/
def sensorWord (x : Sensor) : Word :=
  BitVec.ofNat 64 (x.temp.toNat + place x.valid.toNat 1 16 + place x.zone.toNat 2 17 + place x.stamp.toNat 32 32)
/-- The allowance cap register of a layer (R24). -/
def State.capWord (s : State) (i : Nat) : Word := BitVec.ofNat 64 ((s.layer i).cap.toNat + place (s.allowOf i).toNat 8 8)
/-- PWR_LIM (R19). -/
def State.pwrWord (s : State) : Word :=
  BitVec.ofNat 64 (s.pwrLimit.toNat + place s.pwrMeas.toNat 16 16 + place s.limiting.toNat 1 32)
/-- The error counter of a domain (R30). -/
def State.errWord (s : State) (d : Nat) : Word :=
  BitVec.ofNat 64 ((vget s.corr d 0).toNat + place (vget s.uncorr d 0).toNat 32 32)
/-- The status register of a span link (R40). -/
def spanWord (x : SpanLink) : Word :=
  BitVec.ofNat 64 (x.width.toNat + place x.down.toNat 1 4 + place (min x.heldPk.length 0xFFFF) 16 16)
/-- VAULT_REF of a vault layer (R162). -/
def vaultRefWord (x : Layer) : Word :=
  BitVec.ofNat 64 (x.interval.toNat + place x.feedback.toNat 10 10 + place x.vcap.toNat 10 20 + place x.scrubc.toNat 16 32)
/-- CCHK of a layer (R245). -/
def cchkWord (x : Layer) : Word :=
  BitVec.ofNat 64 (x.cchkCount.toNat + place x.cchkBundle.toNat 13 16 + place x.cchkCore.toNat 8 29 +
    place x.cchkSvc.toNat 1 37 + place x.cchkCause.toNat 3 38)
/-- A route-table entry as a word (R39). -/
def routeWord (x : Route) : Word :=
  BitVec.ofNat 64 (x.olink.toNat + place x.valid.toNat 1 4 + place x.amask.toNat 16 16)

/-- The register of a bank of equal registers that an aligned offset names: base, count. -/
def regIn (o base n : Nat) : Option Nat := if base ≤ o ∧ o < base + 8 * n then some ((o - base) / 8) else none

/-- A word of the package control window; an unassigned offset reads zero (R48). -/
def State.ctlRead (s : State) (o : Nat) : Word :=
  match regIn o 0 84, regIn o 0x400 32, regIn o 0x600 12, regIn o 0x800 16, regIn o 0xA00 32, regIn o 0xB00 8,
        regIn o 0xC00 32, regIn o 0x10000 4096 with
  | some j, _, _, _, _, _, _, _ => sensorWord (s.sensor j)
  | _, some i, _, _, _, _, _, _ => s.capWord i
  | _, _, some d, _, _, _, _, _ => s.errWord d
  | _, _, _, some l, _, _, _, _ => spanWord (s.spanLink l)
  | _, _, _, _, some i, _, _, _ => vaultRefWord (s.layer i)
  | _, _, _, _, _, some t, _, _ => BitVec.ofNat 64 (s.parkUsed t + place (vget s.setfull t 0).toNat 32 32)
  | _, _, _, _, _, _, some i, _ => cchkWord (s.layer i)
  | _, _, _, _, _, _, _, some p => routeWord (s.route (BitVec.ofNat 12 p))
  | _, _, _, _, _, _, _, _ =>
    match o with
    | 0x500 => s.pwrWord
    | 0x700 => BitVec.ofNat 64 (s.pkgId.toNat + place s.pkgSet.toNat 1 12)
    | 0x900 => s.boot.status.word
    | 0x910 => BitVec.ofNat 64 (s.boot.fencedLayers.toNat + place s.boot.fencedTowers.toNat 8 32)
    | 0x920 => BitVec.ofNat 64 (s.fencedLayers + place s.fencedTowers.toNat 8 32)
    | 0xD00 => s.devBase
    | 0xD08 => BitVec.ofNat 64 (s.devCount.toNat + place s.devLost.toNat 32 32)
    | _ => 0

/-- LIMIT as a write stores it: 1000 to 3000 (R19). -/
def limitOf (v : Nat) : BitVec 12 := BitVec.ofNat 12 (min (max (v % 4096) 1000) 3000)
/-- DEVLOG_BASE as a write stores it: for LOG2N above 20, which is outside the register's values, a free value is stored (R364;
log entry 13). -/
def devBaseOf (v free : Word) : Word :=
  BitVec.ofNat 64 ((if 20 < v.toNat % 64 then free.toNat % 64 else v.toNat % 64) + v.toNat / 4096 % 2 ^ 44 * 4096)

/-- A write to a register of the package control window that has no behaviour of its own: its writable fields are stored,
and a read-only or unassigned one is left alone (R48). -/
def State.ctlPlain (s : State) (o : Nat) (v : Word) : State :=
  match regIn o 0x400 32, regIn o 0x600 12, regIn o 0xB00 8, regIn o 0xC00 32, regIn o 0x10000 4096 with
  | some i, _, _, _, _ => s.modLayer i fun x => { x with cap := v.setWidth 8 }
  | _, some d, _, _, _ =>
    { s with corr := vset s.corr d (v.setWidth 32), uncorr := vset s.uncorr d ((v >>> 32).setWidth 32) }
  | _, _, some t, _, _ => { s with setfull := vset s.setfull t ((v >>> 32).setWidth 32) }
  | _, _, _, some i, _ => s.modLayer i fun x => { x with cchkCount := v.setWidth 16 }
  | _, _, _, _, some p =>
    let r : Route := ⟨v.setWidth 4, bitOf v 4, (v >>> 16).setWidth 16⟩
    let s1 := { s with routes := Sparse.set (fun _ => Route.reset) s.routes p r }
    (s1.podTokens.map Prod.snd).eraseDups.foldl (fun st l => st.later 0 0 (.podBarrierToken s.pkgId l)) s1
  | _, _, _, _, _ =>
    match o with
    | 0x500 => { s with pwrLimit := limitOf v.toNat }
    | 0xD00 => { s with devBase := devBaseOf v s.freeVal, free := s.free + 1 }
    | 0xD08 => { s with devCount := v.setWidth 32, devLost := (v >>> 32).setWidth 32 }
    | _ => s

/-- A write to the package control window: a register with a behaviour of its own brings about its event (R38, R40, R72). -/
def State.ctlWrite (s : State) (o : Nat) (v : Word) : State :=
  match regIn o 0x800 16 with
  | some l => if bitOf v 5 then s.later 0 l .linkResend else s
  | none =>
    if o = 0x700 then s.later 0 0 (.spanIdSet v)
    else if o = 0x908 then
      if bitOf v 1 then s.later 0 0 .startCtlCold else if bitOf v 0 then s.later 0 0 .startCtlWarm else s
    else s.ctlPlain o v

/-- `n` bytes of the control window, taken from the word that holds them. -/
def State.ctlReadN (s : State) (o n : Nat) : Nat := (s.ctlRead (wordOf o)).toNat / 2 ^ (8 * (o % 8)) % 2 ^ (8 * n)
/-- A write of `n` bytes to the control window: merged with the word as it reads (log entry 14). -/
def State.ctlWriteN (s : State) (o n v : Nat) : State :=
  s.ctlWrite (wordOf o) (BitVec.ofNat 64 (putBits (s.ctlRead (wordOf o)).toNat (8 * (o % 8)) (8 * n) v))

/-! ### The link window (R49, R53) and the MSI-X table (R48) -/

/-- LOG2N as a write stores it: 4 to 16 (R53). -/
def log2nOf (v : Nat) : BitVec 5 := BitVec.ofNat 5 (min (max (v % 32) 4) 16)
/-- APER_BASE: its bits below log2 of the BAR 4 size read as zero (R49). -/
def PcieLink.aperBase (x : PcieLink) : Nat := x.aper.toNat / 2 ^ x.bar4 * 2 ^ x.bar4
/-- A word of a link window. -/
def linkRead (x : PcieLink) (o : Nat) : Word :=
  if o < 0x100 then
    let q := x.queue (o / 32)
    if o % 32 = 0 then BitVec.ofNat 64 (q.base.toNat * 128)
    else if o % 32 = 8 then BitVec.ofNat 64 (q.en.toNat + place q.kind.toNat 1 1 + place q.log2n.toNat 5 8)
    else if o % 32 = 16 then q.count.setWidth 64
    else 0
  else if o = 0x100 then BitVec.ofNat 64 (x.fe.toNat * 2 ^ 32)
  else if o = 0x108 then BitVec.ofNat 64 x.aperBase
  else if o = 0x118 then x.dropped.setWidth 64
  else 0

/-- A write to a register of a link window without behaviour of its own (R49, R53): QBASE is ignored while EN = 1; APER_BASE
keeps the bits from log2 of the BAR 4 size up. -/
def State.linkPlain (s : State) (l o : Nat) (v : Word) : State :=
  if o < 0x100 then
    if o % 32 = 0 then
      s.modLink l fun x => x.modQueue (o / 32) fun q => if q.en then q else { q with base := (v >>> 7).setWidth 37 }
    else s
  else if o = 0x100 then s.modLink l fun x => { x with fe := (v >>> 32).setWidth 12 }
  else if o = 0x108 then
    s.modLink l fun x => { x with aper := BitVec.ofNat 44 (v.toNat / 2 ^ x.bar4 * 2 ^ x.bar4) }
  else if o = 0x118 then s.modLink l fun x => { x with dropped := v.setWidth 32 }
  else s

/-- A write to a link window: QCTL and CANCEL bring about their events (R53, R67). -/
def State.linkWrite (s : State) (l o : Nat) (v : Word) : State :=
  if o < 0x100 ∧ o % 32 = 8 then s.later 0 0 (.qctlWrite l (o / 32) v)
  else if o = 0x110 then s.later 0 0 (.cancel l (v.setWidth 32))
  else s.linkPlain l o v

/-- A word of the MSI-X table (R48). -/
def PcieLink.msix (x : PcieLink) (i : Nat) : Word := Sparse.get msixReset x.table i
/-- Whether a vector is masked: bit 0 of its vector control. -/
def PcieLink.masked (x : PcieLink) (v : Nat) : Bool := bitOf (x.msix (2 * v + 1)) 32
/-- Send an MSI-X message: the pending bit is set where the vector is masked (R63). -/
def PcieLink.sendMsix (x : PcieLink) (v : Nat) : PcieLink :=
  if x.masked v then { x with pending := x.pending ||| BitVec.ofNat 64 (2 ^ v) } else { x with out := .msix v :: x.out }
/-- A write to the MSI-X table; clearing a vector's mask sends what is pending. -/
def PcieLink.msixWrite (x : PcieLink) (o : Nat) (v : Word) : PcieLink :=
  if o < 0x400 then
    let y := { x with table := Sparse.set msixReset x.table (o / 8) v }
    let e := o / 16
    if y.pending.getLsbD e && !y.masked e then
      { y with pending := y.pending &&& ~~~BitVec.ofNat 64 (2 ^ e), out := .msix e :: y.out }
    else y
  else x

/-- Count errors in a domain, saturating (R30). -/
def satAdd {n : Nat} (x : BitVec n) (k : Nat) : BitVec n := BitVec.ofNat n (min (x.toNat + k) (2 ^ n - 1))
/-- A corrected error (R28, R30). -/
def State.countCorr (s : State) (d : Nat) : State := { s with corr := vset s.corr d (satAdd (vget s.corr d 0) 1) }
/-- An uncorrectable error (R26, R30). -/
def State.countUncorr (s : State) (d : Nat) : State := { s with uncorr := vset s.uncorr d (satAdd (vget s.uncorr d 0) 1) }
/-- A read finds an error: a correctable one is corrected in place and counted; another is counted, and leaves poison (R26 to
R28, R30). -/
def State.meetOne (s : State) (a : Nat) (x : Flaw) : State :=
  let s1 := { s with flaws := s.flaws.filter fun y => !(y.2 == x && y.1 == x.unit a) }
  if !x.hard then s1.countCorr x.domain.val
  else if x.wide then (s1.countUncorr x.domain.val).addPoison a else (s1.countUncorr x.domain.val).addWordPoison a
/-- A read of the word at an address finds the errors that its codes show (R26 to R28). -/
def State.meet (s : State) (a : Nat) : State :=
  (s.flaws.filter fun y => y.1 == y.2.unit a).foldl (fun st y => st.meetOne a y.2) s
/-- A write of a whole word reads the rest of its block only (R27, R29). -/
def State.meetBlock (s : State) (a : Nat) : State :=
  (s.flaws.filter fun y => y.2.wide && y.1 == y.2.unit a).foldl (fun st y => st.meetOne a y.2) s

end Sys2Proof.Machine
end

