-- ==== Sys2Proof/Machine/Ops.lean ====
section
/-!
DEFINITION. The shared operations on firings: instances and ports, the run queue, full/empty events and wakes, the park
tables, the Firing Context Record, taking an exception and returning from one (06_firings R104 to R125, 09_full_empty R180
to R184, 16_system R288, R300, R301).
-/
namespace Sys2Proof.Machine

/-! ### Launches, actors, instances (R85, R88, R104) -/

/-- The launch of an id. -/
def State.launchOf (s : State) (lid : BitVec 32) : Option Launch := s.launches.find? fun l => l.r.lid == lid
/-- Change a launch. -/
def State.modLaunch (s : State) (lid : BitVec 32) (f : Launch → Launch) : State :=
  { s with launches := s.launches.map fun l => if l.r.lid == lid then f l else l }
/-- Look whether a launch is complete, soon (R94: the distributors detect it within 4000 ticks). -/
def State.poke (s : State) (lid : BitVec 32) : State := s.later 1 0 (.launchComplete lid)
/-- Look whether the launches that wait may start, now (R64, R96). -/
def State.pokeStarts (s : State) : State :=
  s.launches.foldl (fun st l => if l.st == .waiting || l.st == .released || l.st == .preempted then
    st.later 0 0 (if l.st == .preempted then .launchResume l.r.lid else .launchStart l.r.lid) else st) s
/-- An actor of a launch. -/
def State.actorOf (s : State) (lid : BitVec 32) (a : Nat) : Option Actor := (s.launchOf lid).bind fun l => l.actors[a]?
/-- The launch id that holds a core. -/
def Core.lid? (k : Core) : Option (BitVec 32) := k.launch.map Prod.fst
/-- The space number of a core's launch (R289). -/
def Core.space (k : Core) : BitVec 10 := (k.launch.map Prod.snd).getD 0
/-- A firing as one number: launch, home core and instance. -/
def firingKey (lid : BitVec 32) (home inst : Nat) : Nat := (lid.toNat * 16384 + home) * 64 + inst
/-- The firing that holds a bank. -/
def Bank.key (b : Bank) : Nat := firingKey b.lid b.home b.inst
/-- Whether the firing of a bank may park or migrate: low priority and not anchored (R115, R117). -/
def Bank.loose (b : Bank) (p : Prio) : Bool := p == .low && !b.anch
/-- Mark the issuing firing anchored (R115). -/
def State.anchor (s : State) : State := s.modMe fun b => { b with anch := true }

/-- An instance of a core. -/
def State.inst (s : State) (c n : Nat) : Option Inst := (s.core c).insts[n]?
/-- Change an instance. -/
def State.modInst (s : State) (c n : Nat) (f : Inst → Inst) : State := s.modCore c fun k => { k with insts := k.insts.modify n f }
/-- The actor of an instance. -/
def State.instActor (s : State) (c n : Nat) : Option Actor :=
  match (s.core c).lid?, s.inst c n with
  | some lid, some i => s.actorOf lid i.act
  | _, _ => none

/-! ### Input ports (R105, R107) -/

/-- Words that a port's messages occupy. -/
def Port.words (q : Port) : Nat := q.msgs.sum
/-- Free words of a port (R319); words reserved for an FCR are not free (R123). -/
def Port.free (q : Port) : Nat := q.size - q.words - q.reserved
/-- Mailbox word index of a ring offset. -/
def Port.at (q : Port) (o : Nat) : Nat := q.base + (if q.size = 0 then 0 else o % q.size)
/-- HEAD and LEN of %pin (R107). -/
def Port.headLen (q : Port) : BitVec 16 :=
  BitVec.ofNat 16 (q.at q.head % 4096 + place (match q.msgs with | [] => 0 | n :: _ => if n = 64 then 0xF else n) 4 12)
/-- Advance the head past `n` messages (R114). -/
def Port.advance (q : Port) (n : Nat) : Port :=
  { q with head := (if q.size = 0 then 0 else (q.head + (q.msgs.take n).sum) % q.size), msgs := q.msgs.drop n }
/-- A port of an instance. -/
def Inst.port (i : Inst) (p : Nat) : Option Port := i.ports[p]?

/-! ### Idleness, sleep and the run queue (R109, R110, R142, R215) -/

/-- Whether a core finds nothing to issue and has no copy or fold operation outstanding (R215). -/
def Core.idle (k : Core) : Bool :=
  k.low.run == .none && k.high.run == .none && k.fifoLow.isEmpty && k.fifoHigh.isEmpty && k.copies.isEmpty && k.fq.isEmpty
/-- Whether a core sleeps: it has been idle for 4096 ticks (R142). -/
def State.sleeps (s : State) (c : Nat) : Bool :=
  let k := s.core c
  k.asleep || (k.idle && decide (k.idleAt + 4096 ≤ s.tick))
/-- A FIFO of the run queue. -/
def Core.fifo (k : Core) : Prio → List Entry | .low => k.fifoLow | .high => k.fifoHigh
/-- Put a FIFO. -/
def Core.setFifo (k : Core) (p : Prio) (l : List Entry) : Core :=
  match p with
  | .low => { k with fifoLow := l }
  | .high => { k with fifoHigh := l }
/-- The tick of an entry's append. -/
def Entry.tick : Entry → Nat | .inst _ t => t | .resume _ t => t
/-- Append an entry; a sleeping core wakes 20 ticks later (R109, R215). -/
def State.push (s : State) (c : Nat) (p : Prio) (e : Entry) : State :=
  let s' := s.modCore c fun k => { k.setFifo p (k.fifo p ++ [e]) with asleep := s.sleeps c }
  if s.sleeps c then s'.enqueue (s.tick + 20) c p 0 .coreWake else s'

/-- Whether an instance with input ports is ready (R108). -/
def State.isReady (s : State) (c n : Nat) : Bool :=
  match s.inst c n, s.instActor c n with
  | some i, some a =>
    i.placed && !i.disabled && !i.waitIn && !i.inflight && !i.queued && a.nin != 0 &&
    (List.range a.nin).all fun j => decide (a.irate.getD j 1 ≤ (((i.port j).map fun q => q.msgs.length).getD 0))
  | _, _ => false
/-- The priority of an instance's firings. -/
def State.instPrio (s : State) (c n : Nat) : Prio := if ((s.instActor c n).map (·.high)).getD false then .high else .low
/-- Append the instance entry of an instance (R109). -/
def State.pushInst (s : State) (c n : Nat) : State :=
  (s.modInst c n fun i => { i with queued := true }).push c (s.instPrio c n) (.inst n s.tick)
/-- Append the entry of an instance that has become ready (R108, R109). -/
def State.checkReady (s : State) (c n : Nat) : State := if s.isReady c n then s.pushInst c n else s

/-! ### The park tables (R109, R181) -/

/-- An entry by its number. -/
def State.parkEntry (s : State) (id : Nat) : Option ParkEntry := s.park.find? fun e => e.id == id
/-- Change an entry. -/
def State.modPark (s : State) (id : Nat) (f : ParkEntry → ParkEntry) : State :=
  { s with park := s.park.map fun e => if e.id == id then f e else e }
/-- The set that the mailbox of a core hashes to (R109). -/
def State.coreSet (s : State) (c : Nat) : Nat := s.parkSetOf (mailKey c 0)
/-- Whether an FCR waits in transit for a set (R109). -/
def State.owed (s : State) (tower pset : Nat) : Bool :=
  s.transit.any fun t => t.arrived && coreTower t.core == tower && s.coreSet t.core == pset
/-- Whether a set has a free entry for a park, a remote park or a hold-buffer offer (R109, R181). -/
def State.setRoom (s : State) (tower pset : Nat) : Bool :=
  decide ((s.park.filter fun e => e.tower == tower && e.pset == pset).length < 8) && !s.owed tower pset
/-- The lowest free way of a set. -/
def State.freeWay (s : State) (tower pset : Nat) : Nat :=
  ((List.range 8).find? fun w => !(s.park.any fun e => e.tower == tower && e.pset == pset && e.way == w)).getD 0
/-- A refusal of a full set counts (R185). -/
def State.countSetFull (s : State) (t : Nat) : State := { s with setfull := vset s.setfull t (satAdd (vget s.setfull t 0) 1) }

/-- Whether a launch is pre-empted, so that its wakes are held (R97, R184). -/
def State.preempted (s : State) (lid : BitVec 32) : Bool :=
  match s.launchOf lid with
  | some l => l.st == .preempted || l.st == .halting
  | none => false
/-- Append the resume entry of a park-table entry, or mark it due while its FIFO holds 448 entries or its launch is pre-empted (R97);
`order` then says in
which order entries fell due (R109). -/
def State.pushResume (s : State) (e : ParkEntry) : State :=
  if ((s.core e.origin).fifo e.prio).length < 448 ∧ s.preempted e.lid = false then
    (s.modPark e.id fun x => { x with st := .queued }).push e.origin e.prio (.resume e.id s.tick)
  else (s.modPark e.id fun x => { x with st := .due, order := s.nextId }).bumpId

/-- An FCR in transit takes a free entry of its core's set (R109). -/
def State.letIn (s : State) (t : Transit) : State :=
  let e : ParkEntry :=
    { id := s.nextId, tower := coreTower t.core, pset := s.coreSet t.core, way := s.freeWay (coreTower t.core) (s.coreSet t.core), kind := .resume, key := mailKey t.core 0,
      fcr := t.fcr, st := .due, origin := t.core, lid := t.lid, home := t.home, inst := t.inst, prio := t.prio,
      order := s.nextId, due := 0, since := s.tick, ticks := 0, dropped := t.dropped }
  ({ s with park := s.park ++ [e], transit := s.transit.filter fun u => u.id != t.id }.bumpId).pushResume e
/-- An entry is freed; the first FCR waiting in transit for its set takes it (R109). -/
def State.freePark (s : State) (id : Nat) : State :=
  match s.parkEntry id with
  | none => s
  | some e =>
    let s' := { s with park := s.park.filter fun x => x.id != id }
    match s'.transit.find? fun t => t.arrived && coreTower t.core == e.tower && s.coreSet t.core == e.pset with
    | some t => s'.letIn t
    | none => s'

/-! ### Fills, empties and wakes (R183, R184, R42) -/

/-- Wake an entry: the watchdog's count stops, unless a pre-emption has stopped it (R121), and its FCR is appended 24 ticks later, and
36 more for each inter-tower hop (R184). -/
def State.wakeEntry (s : State) (e : ParkEntry) : State :=
  (s.modPark e.id fun x =>
      { x with st := .woken, ticks := if x.st == .parked && !x.fcr.isEmpty && !s.preempted e.lid then x.ticks + (s.tick - x.since) else x.ticks }).enqueue
    (s.tick + 24 + 36 * towerHops e.tower (coreTower e.origin)) e.origin .low e.id .wakeAppend
/-- The entry first in park order of a list (R182). -/
def firstParked (l : List ParkEntry) : List ParkEntry :=
  match l with
  | [] => []
  | e :: r => [r.foldl (fun a b => if b.order < a.order then b else a) e]
/-- The entries that a fill or an empty of a word wakes (R183). -/
def State.wakes (s : State) (key : Nat) (fill : Bool) : List ParkEntry :=
  let here := s.park.filter fun e => e.key == key && e.st == .parked
  if fill then
    (here.filter fun e => e.kind == .waiter) ++ firstParked (here.filter fun e => e.kind == .taker) ++
      here.filter fun e => e.kind == .watcher false
  else firstParked (here.filter fun e => e.kind == .putter) ++ here.filter fun e => e.kind == .watcher true
/-- Key of the header of the slot that a queue serves next (R53, R54). -/
def Queue.header (q : Queue) : Nat := keyOf (q.base.toNat * 128 + 128 * (q.count.toNat % 2 ^ q.log2n.toNat))
/-- The master looks at those of some queues that are enabled, in the next tick, once each; queues go in ascending order of link, then
of number (R54). -/
def State.lookAt (s : State) (qs : List (Nat × Nat)) : State :=
  (qs.filter fun x => ((s.link x.1).queue x.2).en).foldl (fun st x =>
    let ev : Instr := if ((s.link x.1).queue x.2).kind then .pageMoveRequest x.1 x.2 else .recordAccept x.1 x.2
    if st.queue.any fun e => decide (e.ev = ev) then st else st.enqueue (s.tick + 1) (8 * x.1 + x.2) .low 0 ev) s
/-- The master looks at a queue. -/
def State.pokeQueue (s : State) (l q : Nat) : State := s.lookAt [(l, q)]
/-- Every queue of the package, by link, then by number. -/
def allQueues : List (Nat × Nat) := (List.range 16).map fun i => (i / 8, i % 8)
/-- The master looks at every queue. -/
def State.pokeQueues (s : State) : State := s.lookAt allQueues
/-- A fill of the header that a queue waits on is seen (R54). -/
def State.noteHeader (s : State) (key : Nat) : State :=
  s.lookAt (allQueues.filter fun x => ((s.link x.1).queue x.2).header == key)

/-- A fill or an empty of a word: wakes here, and wake notices for the packages that watch the word (R42, R183). -/
def State.feEvent (s : State) (key : Nat) (fill : Bool) : State :=
  let s1 := (s.wakes key fill).foldl State.wakeEntry s
  let s2 := if s.watches.any fun w => w.2 == key then s1.later 0 (3 * key + bitN fill) .remoteWakeNotice else s1
  if fill then s2.noteHeader key else s2
/-- A write leaves a word full: a fill (R177). -/
def State.fill (s : State) (a : Nat) : State := (s.setFE a true).feEvent (wordOf a) true
/-- A word is set empty: an empty (R177). -/
def State.empty (s : State) (a : Nat) : State := (s.setFE a false).feEvent (wordOf a) false
/-- A filling write of a whole word. -/
def State.fillWord (s : State) (a : Nat) (v : Word) : State := ((s.wrWord a v).unpoison a).fill a

/-! ### Messages into a port (R105, R106, R108) -/

/-- Write the words of a message into a ring of the mailbox store, full, from ring offset `o` (R105, R175). -/
def State.mailWrite (s : State) (c : Nat) (q : Port) (o : Nat) : List Word → State
  | [] => s
  | w :: ws => (s.fillWord (mailKey c (q.at o)) w).mailWrite c q (o + 1) ws
/-- Append a message that fits; an instance that waits for new input waits no longer, and it may become ready (R105, R108). -/
def State.appendMsg (s : State) (c n p : Nat) (ws : List Word) : State :=
  match (s.inst c n).bind fun i => i.port p with
  | none => s
  | some q =>
    ((s.mailWrite c q (q.head + q.words) ws).modInst c n fun i =>
      { i with waitIn := false, ports := i.ports.modify p fun r => { r with msgs := r.msgs ++ [ws.length] } }).checkReady c n

/-! ### CRC-32C (R56) -/

/-- One bit of the reflected Castagnoli division. -/
def crcBit (c : Nat) : Nat := if c % 2 = 1 then (c / 2) ^^^ 0x82F63B78 else c / 2
/-- One byte. -/
def crcByte (c b : Nat) : Nat :=
  let x := (c ^^^ b) % 2 ^ 32
  crcBit (crcBit (crcBit (crcBit (crcBit (crcBit (crcBit (crcBit x)))))))
/-- The bytes of a number, least significant first. -/
def crcBytes (c : Nat) : Nat → Nat → Nat
  | 0, _ => c
  | n + 1, v => crcBytes (crcByte c (v % 256)) n (v / 256)
/-- CRC-32C of a list of words: initial value and final complement all ones (R56). -/
def crc32c (ws : List Word) : Nat := (ws.foldl (fun c w => crcBytes c 8 w.toNat) 0xFFFFFFFF) ^^^ 0xFFFFFFFF

/-! ### The Firing Context Record (R125) -/

/-- The KIND of an FCR (R125). -/
inductive FcrKind | trap | park | migrate | preempt | corrupt
deriving DecidableEq, Repr

/-- Code of a KIND. -/
def FcrKind.code : FcrKind → Nat | .trap => 0 | .park => 1 | .migrate => 2 | .preempt => 3 | .corrupt => 4

/-- %pin i of a firing: HEAD and LEN as at its start, AVAIL as it is (R107); zero for an absent port. -/
def State.pinWord (s : State) (b : Bank) (i : Nat) : Word :=
  match (s.inst b.home b.inst).bind fun n => n.port i with
  | none => 0
  | some q => BitVec.ofNat 64 ((vget b.pins i 0).toNat + place (min q.msgs.length 255) 8 16)

/-- One bit per outstanding copy of a firing (R125 word 11). -/
def copyMask (k : Core) (owner : Nat) : Nat :=
  k.copies.foldl (fun m x => if x.owner == some owner && !x.done then m ||| 2 ^ x.id else m) 0

/-- Words 0 to 62 of the FCR of the firing in a bank (R125). -/
def State.fcrBody (s : State) (c : Nat) (p : Prio) (kind : FcrKind) (t : TrapInfo) (waddr : Nat) : List Word :=
  let b := s.bank c p
  let w (n : Nat) : Word := BitVec.ofNat 64 n
  [ w (b.lid.toNat + place b.act 6 32 + place b.inst 6 38 + place (bitN (p == .high)) 1 44 + place b.home 13 46),
    b.pc.setWidth 64, b.npc1.setWidth 64, b.npc2.setWidth 64,
    w (bitN b.ann1 + place (bitN b.ann2) 1 1 + place (bitN b.anch) 1 2 + place (bitN b.svc) 1 3 + place b.migc.toNat 4 4),
    w (t.cause.toNat + place kind.code 8 8 + place t.info.toNat 48 16), t.faddr, w waddr, w b.start, b.sidx, b.pass,
    w (copyMask (s.core c) b.key + place b.lastSeq.toNat 32 8), b.scount.setWidth 64,
    w ((List.range 8).foldl (fun n j => n + place (vget b.ocnt j 0).toNat 8 (8 * j)) 0),
    w (b.fpctl.toNat + place b.fpst.toNat 8 8 + place b.rbud.toNat 16 16 + place b.barb.toNat 16 32),
    w (min b.wdc 0xFFFFFFFF) ] ++
  ((List.range 8).map fun i => s.pinWord b i) ++ List.replicate 8 0 ++ b.g.toList.tail
/-- Close a record with its integrity word (R125 word 63). -/
def sealFcr (body : List Word) : List Word := body ++ [BitVec.ofNat 64 (crc32c body)]
/-- The FCR of the firing in a bank (R125). -/
def State.fcr (s : State) (c : Nat) (p : Prio) (kind : FcrKind) (t : TrapInfo) (waddr : Nat) : List Word :=
  sealFcr (s.fcrBody c p kind t waddr)
/-- A word of a record. -/
def fcrWord (f : List Word) (i : Nat) : Word := f.getD i 0
/-- Whether a record passes its check (R124, R125). -/
def fcrOk (f : List Word) : Bool := f.length == 64 && fcrWord f 63 == BitVec.ofNat 64 (crc32c (f.take 63))
/-- The record as delivered to the fault actor after a failed check: KIND CORRUPT, CAUSE MEMERR, INFO 0, word 63 afresh (R124). -/
def corruptFcr (f : List Word) : List Word := sealFcr ((f.take 63).set 5 0x414)
/-- No trap. -/
def noTrap : TrapInfo := { cause := 0, info := 0, faddr := 0 }

/-- RETURN FROM AN EXCEPTION, and every other continuation of a firing: the bank that a record restores (R124, R125).
Reserved fields, KIND and CAUSE are ignored (R298). -/
def bankOfFcr (f : List Word) : Bank :=
  let w (i : Nat) : Nat := (fcrWord f i).toNat
  { Bank.reset with
    run := .running, lid := (fcrWord f 0).setWidth 32, act := w 0 / 2 ^ 32 % 64, inst := w 0 / 2 ^ 38 % 64,
    home := w 0 / 2 ^ 46 % 8192, pc := (fcrWord f 1).setWidth 13, npc1 := (fcrWord f 2).setWidth 13,
    npc2 := (fcrWord f 3).setWidth 13, ann1 := bitOf (fcrWord f 4) 0, ann2 := bitOf (fcrWord f 4) 1,
    anch := bitOf (fcrWord f 4) 2, svc := bitOf (fcrWord f 4) 3, migc := (fcrWord f 4 >>> 4).setWidth 4, start := w 8,
    sidx := fcrWord f 9, pass := fcrWord f 10, lastSeq := (fcrWord f 11 >>> 8).setWidth 32,
    scount := (fcrWord f 12).setWidth 32, ocnt := Vector.ofFn fun j => (fcrWord f 13 >>> (8 * j.val)).setWidth 8,
    fpctl := (fcrWord f 14).setWidth 2, fpst := (fcrWord f 14 >>> 8).setWidth 5, rbud := (fcrWord f 14 >>> 16).setWidth 16,
    barb := (fcrWord f 14 >>> 32).setWidth 16, wdc := w 15 % 2 ^ 32,
    pins := Vector.ofFn fun i => (fcrWord f (16 + i.val)).setWidth 16,
    g := Vector.ofFn fun r => if r.val = 0 then 0 else fcrWord f (31 + r.val) }

/-! ### Delivery to the fault actor (R123) -/

/-- Core and number of a launch's fault actor instance. -/
def faultActor (l : Launch) : Option (Nat × Nat) :=
  if l.faulti = 0xFFFFF then none else (l.placed.find? fun x => x.1 == l.faulti).map fun x => x.2
/-- Index of the grain that begins at an index of a sweep (R91). -/
def grainOf (l : Launch) (sidx : Word) : Nat := ((sidx - l.r.w3).toNat) / max 1 (l.r.w5.toNat % 2 ^ 32)
/-- A grain is complete: its report waits at the layer distributor of a core, which sends a batch when 8 wait or 2048 ticks
after the oldest (R93); `n` is its count of firings ended by END. -/
def State.grainDone (s : State) (lid : BitVec 32) (c g n : Nat) : State :=
  let lv : GrainLevel := .layer (coreLayer c)
  let add (r : GReport) : GReport := { r with grains := r.grains ++ [g], firings := r.firings + n }
  let s' := s.modLaunch lid fun l =>
    { l with reports := if l.reports.any fun r => r.holder == lv
        then l.reports.map fun r => if r.holder == lv then add r else r
        else l.reports ++ [{ holder := lv, grains := [g], firings := n, oldest := s.tick }] }
  match (s'.launchOf lid).bind fun l => l.reports.find? fun r => r.holder == lv with
  | some r =>
    if 8 ≤ r.grains.length then s'.later 0 0 (.grainReportBatch lid lv)
    else if r.grains.length = 1 then s'.later 2048 0 (.grainReportBatch lid lv) else s'
  | none => s'
/-- Whether a record is that of a grain firing of a launch. -/
def isGrain (l : Launch) (f : List Word) : Bool :=
  l.r.sweep && decide ((fcrWord f 0).toNat / 2 ^ 32 % 64 = l.swact) && fcrWord f 12 != 0
/-- An FCR that nobody will resume: a trapped grain counts as complete (R93, R94). -/
def State.fcrGone (s : State) (l : Launch) (c : Nat) (f : List Word) : State :=
  if isGrain l f then s.grainDone l.r.lid c (grainOf l (fcrWord f 9)) 0 else s

/-- Put a record that waits for port 0 of a fault actor on core `fc`, whose mailbox address is `key`, into its set, if the
set takes it (R123, R181). -/
def State.portPark (s : State) (fc key : Nat) (h : Hold) : Option State :=
  if s.setRoom h.tower h.pset then
    let w0 := (fcrWord h.fcr 0).toNat
    let e : ParkEntry :=
      { id := s.nextId, tower := h.tower, pset := h.pset, way := s.freeWay h.tower h.pset, kind := .port, key := key, fcr := h.fcr, st := .parked,
        origin := fc, lid := h.lid, home := w0 / 2 ^ 46 % 8192, inst := w0 / 2 ^ 38 % 64,
        prio := if w0.testBit 44 then .high else .low, order := s.nextId, due := 0, since := s.tick, ticks := 0, dropped := none }
    some (({ s with park := s.park ++ [e] }.bumpId).enqueue s.tick fc .low 0 .fcrDeliver)
  else none
/-- The hold buffer of a bank, with what waits behind it. -/
def Core.held (k : Core) : Prio → List Hold | .low => k.holdLow | .high => k.holdHigh
/-- Put the hold buffer of a bank. -/
def Core.setHeld (k : Core) (p : Prio) (l : List Hold) : Core :=
  match p with
  | .low => { k with holdLow := l }
  | .high => { k with holdHigh := l }
/-- A record that its set refuses stays in the bank's hold buffer, behind one that is there already, and is offered again in 64
ticks (R123, R185). -/
def State.holdFcr (s : State) (c : Nat) (p : Prio) (h : Hold) : State :=
  let s1 := (s.modCore c fun k => k.setHeld p (k.held p ++ [h])).countSetFull h.tower
  if ((s.core c).held p).isEmpty then s1.enqueue (s.tick + 64) c p 0 .holdBufferOffer else s1
/-- Send an FCR of a firing of core `c`, bank `p`, whose instance is `inst` of core `home`, to the fault actor: discarded
where R123 says, else into the park table of the core's tower, else into the bank's hold buffer. -/
def State.deliver (s : State) (c : Nat) (p : Prio) (lid : BitVec 32) (home inst : Nat) (f : List Word) : State :=
  match s.launchOf lid with
  | none => s
  | some l =>
    match faultActor l with
    | none => s.fcrGone l c f
    | some (fc, n) =>
      match s.inst fc n with
      | none => s.fcrGone l c f
      | some i =>
        match i.port 0 with
        | none => s.fcrGone l c f
        | some q =>
          if fc = home ∧ n = inst then
            ((s.modInst fc n fun j => { j with disabled := true }).modLaunch lid fun x => { x with faultOff := true }).fcrGone l c f
          else if q.size < 64 ∨ l.faultOff = true ∧ i.disabled = true then s.fcrGone l c f
          else
            let h : Hold := { fcr := f, tower := coreTower c, pset := s.parkSetOf (mailKey fc q.base), lid := lid }
            match s.portPark fc (mailKey fc q.base) h with
            | some s' => s'
            | none => s.holdFcr c p h

/-- A record is delivered as CORRUPT, and its instance is treated as after a WATCHDOG trap (R102, R124). -/
def State.corruptTo (s : State) (c : Nat) (p : Prio) (lid : BitVec 32) (home inst : Nat) (f : List Word) : State :=
  let g := corruptFcr f
  let s1 := s.modCore c fun k =>
    { k with cause := BitVec.ofNat 30 (0x414 + place (fcrWord g 1).toNat 13 16 + place (bitN (p == .high)) 1 29) }
  let s2 := (s1.modInst home inst fun i => { i with inflight := false, disabled := true }).modLaunch lid fun l =>
    { l with faults := l.faults + 1 }
  (s2.deliver c p lid home inst g).poke lid
/-- An FCR failed its check: an uncorrectable error of domain 11, and the record is delivered as CORRUPT (R124). -/
def State.corrupt (s : State) (c : Nat) (p : Prio) (lid : BitVec 32) (home inst : Nat) (f : List Word) : State :=
  (s.countUncorr 11).corruptTo c p lid home inst f

/-! ### Leaving the core (R114 to R117, R200, R214, R251, R301) -/

/-- Whether an access is a plain store at the own L1, which a departure need not wait for (R189, R200). -/
def Access.l1Store (a : Access) : Bool := a.agent == .l1 && a.dst.isNone && a.st.isNone && a.reg.isNone &&
  (match a.op with | .store _ _ | .red .. | .redFadd .. | .stf _ | .emp => true | _ => false)
/-- Whether a message of a firing to another package has still to be taken by its port: it waits in an outbound queue or for RESEND,
or stands in a receive slot of the other side (R43, R117, R321). -/
def State.msgsOut (s : State) (fid : Nat) : Bool :=
  s.span.toList.any fun x => ((x.outq ++ x.heldPk).any fun e => e.owner == fid) || x.inSlot.any fun e => e.2 == fid
/-- Whether everything a departure waits for is over: outstanding loads, attempts, slot A results, SEND attempts and remote
stores of the firing, and for a migration all its messages (R117, R200, R214, R251, R301, R322, R433). -/
def State.quiet (s : State) (c : Nat) (p : Prio) : Bool :=
  let b := s.bank c p
  b.pend.isEmpty && (b.pendFl.all fun x => decide (x.due ≤ s.tick)) &&
  !(s.accesses.any fun a => a.fid == b.key && !a.l1Store && !(a.grp && a.back.isSome)) &&
  !(s.msgs.any fun m => m.src == c && m.prio == p) &&
  (match b.leaving with | some (.migrate _) => !s.msgsOut b.key | _ => true)

/-- The entry that a firing's last failed attempt registered (R180). -/
def State.registered (s : State) (b : Bank) : Option ParkEntry :=
  s.park.find? fun e => e.lid == b.lid && e.home == b.home && e.inst == b.inst && e.fcr.isEmpty
/-- A firing that does not park after all gives its registered entry back. -/
def State.unregister (s : State) (b : Bank) : State :=
  match s.registered b with
  | some e => s.freePark e.id
  | none => s
/-- The copies of a firing that leaves are detached (R335); one that has stopped and is over is forgotten, and so are the
failures of its fold and accumulator operations (R367, R368, R436). -/
def Core.detach (k : Core) (owner : Nat) : Core :=
  let f (x : Copy) : Copy := if x.owner == some owner then { x with owner := none } else x
  let g (x : QEntry) : QEntry := if x.owner == some owner then { x with owner := none } else x
  { k with copies := (k.copies.map f).filter fun x => !(x.done && x.owner.isNone), fq := k.fq.map g,
           qfails := k.qfails.filter fun x => x.owner != owner }
/-- A core that finds nothing to issue is idle from this tick, and sleeps 4096 ticks later (R142, R215). -/
def State.restIdle (s : State) (c : Nat) : State :=
  if (s.core c).idle then (s.modCore c fun k => { k with idleAt := s.tick }).enqueue (s.tick + 4096) c .low 0 .coreSleep
  else s
/-- Words that a firing which leaves had loaded for its bundle are dropped (R298, R399). -/
def State.dropGroup (s : State) (fid : Nat) : State :=
  { s with accesses := (s.accesses.filter fun a => !(a.fid == fid && a.grp && a.back.isSome)).map fun a =>
      if a.fid == fid then { a with grp := false } else a }
/-- The bank is free (R110); the firing is gone, and a core that runs a grain no longer may leave the membership of barriers (R324). -/
def State.clearBank (s : State) (c : Nat) (p : Prio) : State :=
  let s1 := ((s.dropGroup (s.bank c p).key).modCore c fun k => (k.detach (k.bank p).key).setBank p Bank.reset).restIdle c
  if (s.bank c p).scount = 0 then s1 else s1.enqueue s.tick c .low 0 .grainClaim

/-- A grain firing is over for the core that claimed the grain, which may claim another (R92). -/
def State.endGrain (s : State) (b : Bank) : State :=
  if b.scount = 0 then s
  else
    let mine (k : Core) : Bool := match s.launchOf b.lid, k.grain with | some l, some g => g == grainOf l b.sidx | _, _ => true
    (s.modCore b.home fun k => if mine k then { k with grain := none } else k).enqueue s.tick b.home .low 0 .grainClaim
/-- Whether a firing runs a grain of a sweep (R91). -/
def Bank.grainOf (b : Bank) (l : Launch) : Option Nat :=
  if l.r.sweep ∧ b.act = l.swact ∧ b.scount ≠ 0 then some (Sys2Proof.Machine.grainOf l b.sidx) else none
/-- A grain that is lost goes back to the pool, ahead of any never issued, or is dropped (R95). -/
def Launch.loseGrain (l : Launch) (g : Nat) : Launch :=
  let l1 := { l with issued := l.issued.filter fun x => x.1 != g }
  if l.confirmed.contains g || l.pool.contains g then l1
  else if l.r.rsafe then { l1 with pool := sortBy (fun a b => decide (a ≤ b)) (g :: l.pool), reissued := l.reissued + 1 }
  else { l1 with confirmed := g :: l.confirmed, lossy := true }
/-- A firing is lost to a fence away from its home core: its instance is free again, and its grain is reissued or dropped (R95; of
a graph launch that is not reissue-safe, a part is lost: log entry 112). -/
def State.loseFiring (s : State) (b : Bank) : State :=
  match s.launchOf b.lid with
  | none => s
  | some l =>
    let s1 := s.modLaunch b.lid fun x => match b.grainOf l with
      | some g => x.loseGrain g
      | none => { x with lossy := x.lossy || !l.r.rsafe }
    if (s.core b.home).lid? ≠ some b.lid then s1.poke b.lid
    else (((s1.modInst b.home b.inst fun i => { i with inflight := false }).checkReady b.home b.inst).endGrain b).poke b.lid
/-- The record of a trap is written and the trap is over: FCR, %cause, delivery, FAULTS; the instance waits for new input,
or after WATCHDOG is disabled (R108, R114, R122, R288, R301). -/
def State.trapDepart (s : State) (c : Nat) (p : Prio) (t : TrapInfo) : State :=
  let b := s.bank c p
  let f := s.fcr c p .trap t 0
  let s1 := s.modCore c fun k =>
    { k with cause := BitVec.ofNat 30 (t.cause.toNat + place b.pc.toNat 13 16 + place (bitN (p == .high)) 1 29) }
  let s2 := ((s1.unregister b).clearBank c p).modInst b.home b.inst fun i =>
    { i with inflight := false, disabled := i.disabled || t.cause == 0x0A, waitIn := i.waitIn || t.cause != 0x0A }
  let s3 := s2.modLaunch b.lid fun l => { l with faults := l.faults + 1 }
  ((s3.deliver c p b.lid b.home b.inst f).endGrain b).poke b.lid

/-- The record of a park is written into the registered entry; without one the set was full, and the firing traps FE_BUDGET
(R116, R181). The watchdog goes on counting, unless the launch is being pre-empted (R121); its expiry is looked at when every wake of its tick has come (R122). -/
def State.parkDepart (s : State) (c : Nat) (p : Prio) (pa : Nat) : State :=
  let b := s.bank c p
  match s.registered b with
  | none => s.trapDepart c p { cause := 0x06, info := 0, faddr := 0 }
  | some e =>
    let lim := (s.core c).wdlim.toNat * 1024
    let stopped := s.preempted b.lid
    let due := if lim = 0 then 0 else if stopped then lim - b.wdc + 1 else s.tick + (lim - b.wdc)
    let s' := (s.modPark e.id fun x => { x with fcr := s.fcr c p .park noTrap pa, due := due, since := s.tick, ticks := 0, dropped := b.dropped }).clearBank c p
    if lim = 0 ∨ stopped = true then s' else s'.enqueueFirst (due + 1) c p e.id .watchdogExpiry

/-- Advance the ports of an instance by its rates at END, and complete the grains whose FCRs a fault-actor firing consumed
without resuming them (R93, R114). -/
def State.consume (s : State) (c n : Nat) : State :=
  match s.inst c n, s.instActor c n, (s.core c).lid? with
  | some i, some a, some lid =>
    let taken : List (List Word) := ((List.range a.nin).map fun j =>
      match i.port j with
      | none => []
      | some q => ((List.range (a.irate.getD j 1)).filterMap fun m =>
          if q.msgs.getD m 0 = 64 then
            some ((List.range 64).map fun w => s.rdWord (mailKey c (q.at (q.head + (q.msgs.take m).sum + w)))) else none)).flatten
    let s1 := s.modInst c n fun i' =>
      { i' with ports := i'.ports.mapIdx fun j q => q.advance (a.irate.getD j 1) }
    let s2 := taken.foldl (fun st f =>
      let home := (fcrWord f 0).toNat / 2 ^ 46 % 8192
      let k := (fcrWord f 0).toNat / 2 ^ 38 % 64
      match st.launchOf lid with
      | some l =>
        let key := (home, k, fcrWord f 9)
        if l.resumed.contains key then st.modLaunch lid fun l => { l with resumed := l.resumed.erase key } else st.fcrGone l home f
      | none => st) s1
    if s2.park.any fun e => e.kind == .port && e.st == .parked && e.origin == c then s2.enqueue s.tick c .low 0 .fcrDeliver else s2
  | _, _, _ => s

/-- The stores at its own L1 that a firing which has ended leaves behind are no accesses of the instance's next firing (R194). -/
def State.leaveBehind (s : State) (fid : Nat) : State :=
  { s with accesses := s.accesses.map fun a => if a.fid == fid then { a with fid := fid + 2 ^ 60 } else a }
/-- END takes effect: ports advance, the instance is free again and may be ready, a grain is reported (R92, R93, R114). -/
def State.endDepart (s : State) (c : Nat) (p : Prio) : State :=
  let b := s.bank c p
  let s1 := (((s.leaveBehind b.key).clearBank c p).consume b.home b.inst).modInst b.home b.inst fun i => { i with inflight := false }
  let s2 := s1.checkReady b.home b.inst
  match s2.launchOf b.lid with
  | some l =>
    if l.r.sweep ∧ b.act = l.swact ∧ b.scount ≠ 0 then
      ((s2.endGrain b).grainDone b.lid c (grainOf l b.sidx) 1).poke b.lid
    else (s2.modLaunch b.lid fun l => { l with firings := l.firings + 1 }).poke b.lid
  | none => s2

/-- A bank that leaves does so once everything it waits for is over, the flags of this tick's results among it (R251, R252); a
migration's record is written by its own event. An
access that meets poison or bad parity while the core waits turns the departure into a trap (R29, R120, R214). -/
def State.tryLeave (s0 : State) (c : Nat) (p : Prio) : State :=
  if (s0.bank c p).leaving.isSome && s0.quiet c p then
    let s := s0.modBank c p (Bank.landFlags · s0.tick)
    match (s.bank c p).leaving, (s.bank c p).async with
    | none, _ => s
    | some (.trap t), _ => s.trapDepart c p t
    | some _, some t => s.trapDepart c p t
    | some (.park _ pa _), none => s.parkDepart c p pa
    | some (.migrate _), none => s.enqueue s.tick c p 0 .migrationDepart
    | some .ended, none => s.endDepart c p
  else s0

/-- The bank is about to leave: nothing of the bundle it stands at is done. -/
def Bank.leave (b : Bank) (l : Leaving) : Bank :=
  { b with leaving := some l, op := .idle, xl := .none, lands := none, flow := .seq, issued := false, feHeld := 0, lastOne := false, arrOwn := none }
/-- FCR word 10 of a sequence that stands after some passes (R402). -/
def passWord (done code : Nat) : Word := BitVec.ofNat 64 (done % 65536 + place code 8 16 + 2 ^ 24)
/-- A bank whose sequence stops at the pass boundary of a tick: word 10 takes the passes done (R402). -/
def Bank.keepPass (b : Bank) (t : Nat) : Bank :=
  match b.op with
  | .array d (some c) st _ _ => { b with pass := passWord (d + st.elim 0 fun x => t - x) c }
  | _ => b
/-- A firing leaves its core (R114). -/
def State.leaveAs (s : State) (c : Nat) (p : Prio) (l : Leaving) : State :=
  (s.modBank c p fun b => (b.keepPass s.tick).leave l).tryLeave c p

/-- Number of a barrier level (R324). -/
def levelIx : Level → Nat
  | .quad => 0 | .row => 1 | .col => 2 | .layer => 3 | .fold => 4 | .tower => 5 | .pkg => 6 | .pod => 7
/-- Group of a core at a level, as one number (R324). -/
def barGroup (l : Level) (c : Nat) : Nat :=
  match l with
  | .quad => coreQuad c
  | .row => coreLayer c * 16 + coreY c
  | .col => coreLayer c * 16 + coreX c
  | .layer => coreLayer c
  | .fold => coreTower c * 256 + c % 256
  | .tower => coreTower c
  | .pkg | .pod => 0
/-- Whether a phase is complete and its release on its way (R324). -/
def State.phaseDone (s : State) (l : Level) (lid : BitVec 32) (grp : Nat) : Bool :=
  s.queue.any fun e => decide (e.ev = .barrierRelease l lid grp)
/-- Whether a core has arrived at a level (R325). -/
def Core.arrived (k : Core) (l : Level) : Bool := k.barArr.getLsbD (levelIx l)
/-- Put a core's ARR bit of a level. -/
def Core.setArr (k : Core) (l : Level) (v : Bool) : Core :=
  let b : BitVec 8 := BitVec.ofNat 8 (2 ^ levelIx l)
  { k with barArr := if v then k.barArr ||| b else k.barArr &&& ~~~b }
/-- The phase in which a bank's BAR has arrived has released, or the arrival has been withdrawn: the BAR waits no longer, and a later
arrival of the core is not its own (R325, R328). -/
def Bank.phaseOver (b : Bank) (l : Level) : Bank := if b.arrOwn = some (l, false) then { b with arrOwn := some (l, true) } else b
/-- Withdraw a core's pending arrival: one whose phase is complete stands until the release (R325). -/
def State.withdraw (s : State) (c : Nat) (l : Level) : State :=
  if s.phaseDone l ((s.core c).lid?.getD 0) (barGroup l c) then s
  else s.modCore c fun k => { (k.setArr l false) with low := k.low.phaseOver l, high := k.high.phaseOver l }
/-- A BAR that traps withdraws its own arrival (R328). -/
def State.dropArrival (s : State) (c : Nat) (p : Prio) : State :=
  match (s.bank c p).arrOwn with
  | some (l, false) => s.withdraw c l
  | _ => s

/-- TAKING AN EXCEPTION. The firing in bank `p` of core `c` traps: no part of the bundle takes effect; once its outstanding
results and remote stores have come in, its FCR is written with KIND TRAP and the PC queue at that bundle, %cause takes the
cause, a BAR's own arrival is withdrawn (R328), the record goes to the fault actor, and FAULTS counts it (R114, R123, R213, R301). -/
def State.takeTrap (s : State) (c : Nat) (p : Prio) (cause : BitVec 8) (info : BitVec 48) (faddr : Word) : State :=
  (s.dropArrival c p).leaveAs c p (.trap { cause := cause, info := info, faddr := faddr })
/-- The issuing firing traps at its bundle. -/
def State.trapHere (s : State) (cause : BitVec 8) (info : BitVec 48) (faddr : Word) : State :=
  s.takeTrap s.here s.mine.cur cause info faddr

/-- Kinds of a waiting operation's park (R181), for the budget's end (R115). -/
def State.budgetEnd (s : State) (key pa : Nat) (kind : ParkKind) : State :=
  if s.me.anch then s.trapHere 0x06 0 0
  else if s.mine.cur = .high then s.trapHere 0x15 0 0
  else s.leaveAs s.here s.mine.cur (.park key pa kind)

/-- Register a firing as a pending park, in the step of its last failed attempt: it takes an entry of the word's set, or
finds the set full, which counts (R180, R181, R185). Of one tick, first registrations come before those of woken firings,
each in ascending core index (R182). `tower` is the table's. -/
def State.registerPark (s : State) (c : Nat) (p : Prio) (tower key : Nat) (kind : ParkKind) : State :=
  let b := s.bank c p
  if s.setRoom tower (s.parkSetOf key) then
    let e : ParkEntry :=
      { id := s.nextId, tower := tower, pset := s.parkSetOf key, way := s.freeWay tower (s.parkSetOf key), kind := kind, key := key, fcr := [], st := .parked, origin := c,
        lid := b.lid, home := b.home, inst := b.inst, prio := p,
        order := (2 * s.tick + bitN b.woken) * 16384 + c, due := 0, since := s.tick, ticks := 0, dropped := b.dropped }
    ({ s with park := s.park ++ [e] }).bumpId
  else s.countSetFull tower

end Sys2Proof.Machine
end

