-- ==== Sys2Proof/Machine/Translate.lean ====
section
/-!
DEFINITION. Pages, TLBs, the table walk of LAYOUT 0 and the checks of an access in their order (07_translation R126, R132 to
R144; 06_firings R117).
-/
namespace Sys2Proof.Machine

/-! ### Attributes (R133, R134, R137): R W X C S M T H D from bit 0 -/

/-- Attribute R. -/
def attrR (a : BitVec 9) : Bool := a.getLsbD 0
/-- Attribute W. -/
def attrW (a : BitVec 9) : Bool := a.getLsbD 1
/-- Attribute X. -/
def attrX (a : BitVec 9) : Bool := a.getLsbD 2
/-- Attribute C. -/
def attrC (a : BitVec 9) : Bool := a.getLsbD 3
/-- Attribute S. -/
def attrS (a : BitVec 9) : Bool := a.getLsbD 4
/-- Attribute M. -/
def attrM (a : BitVec 9) : Bool := a.getLsbD 5
/-- Attribute T. -/
def attrT (a : BitVec 9) : Bool := a.getLsbD 6
/-- Attribute H. -/
def attrH (a : BitVec 9) : Bool := a.getLsbD 7
/-- Attribute D. -/
def attrD (a : BitVec 9) : Bool := a.getLsbD 8

/-- log2 of a page size (R132, R137). -/
def pageBits (size : BitVec 2) : Nat := if size = 0 then 16 else if size = 1 then 21 else if size = 2 then 30 else 35
/-- Virtual address of an entry's page. -/
def TlbEntry.vbase (e : TlbEntry) : Nat := e.vpn.toNat * 2 ^ 16
/-- Physical address of an entry's frame. -/
def TlbEntry.pbase (e : TlbEntry) : Nat := e.pfn.toNat * 2 ^ 16
/-- Bytes of an entry's page. -/
def TlbEntry.bytes (e : TlbEntry) : Nat := 2 ^ pageBits e.size
/-- Whether an entry holds an address of a space (R136). -/
def TlbEntry.holds (e : TlbEntry) (space : BitVec 10) (va : Nat) : Bool :=
  e.space == space && va / e.bytes == e.vbase / e.bytes
/-- Whether two entries of one space overlap (R137). -/
def TlbEntry.overlaps (e f : TlbEntry) : Bool :=
  e.space == f.space && decide (e.vbase < f.vbase + f.bytes) && decide (f.vbase < e.vbase + e.bytes)
/-- Whether a frame lies in a host window. -/
def inHost (pa : Nat) : Bool := match placeOf (offOf pa) with | .hostWin .. => true | _ => false

/-- The window of an offset, by number; parts of the map that are unassigned have numbers of their own (R127). -/
def windowOf (o : Nat) : Nat :=
  (([0xC000000000, vaultBase, linearBase, arrayBase, istoreBase, istoreBase + 0x20000000, mailBase, mailBase + 0x10000000, ctlBase,
    ctlBase + 0x100000, 0x80000000000, 0xC0000000000].filter fun b => decide (b ≤ o)).length)
/-- Whether a window number is that of a per-core, control or host window (R134). -/
def windowPlain (n : Nat) : Bool := n == 4 || n == 5 || n == 7 || n == 9 || n == 11 || n == 12
/-- Whether an entry may be installed: low bits zero, a page in one window, and the combinations of R134 (R132, R137). -/
def TlbEntry.legal (e : TlbEntry) : Bool :=
  let a := e.attr
  let n := windowOf (offOf e.pbase)
  let ok3 := !(attrM a && (attrC a || attrS a)) && !(attrS a && !attrC a)
  e.vbase % e.bytes == 0 && e.pbase % e.bytes == 0 && n == windowOf (offOf (e.pbase + e.bytes - 1)) && ok3 &&
  !(attrD a && (attrM a || attrT a)) && (!attrM a || n == 0) && (!attrT a || n == 2 || n == 3) &&
  (!windowPlain n || !(attrC a || attrS a))

/-! ### TLBs (R136, R137) -/

/-- Set of an entry in its quad TLB (R136). -/
def TlbEntry.set (e : TlbEntry) : Nat := ((e.vbase / e.bytes) ^^^ e.space.toNat) % 128
/-- Put an entry first into an L1 TLB of 64 entries; overlapping ones are replaced (R136, R137). -/
def tlbPut (l : List TlbEntry) (e : TlbEntry) : List TlbEntry := (e :: l.filter fun f => !f.overlaps e).take 64
/-- Keep at most `n` entries of a quad's set. -/
def quadTrim (q set : Nat) : Nat → List (Nat × TlbEntry) → List (Nat × TlbEntry)
  | _, [] => []
  | n, x :: l =>
    if x.1 = q ∧ x.2.set = set then
      match n with
      | 0 => quadTrim q set 0 l
      | m + 1 => x :: quadTrim q set m l
    else x :: quadTrim q set n l
/-- Put an entry first into a quad TLB of 128 sets of 8 ways (R136, R137). -/
def quadPut (l : List (Nat × TlbEntry)) (q : Nat) (e : TlbEntry) : List (Nat × TlbEntry) :=
  quadTrim q e.set 8 ((q, e) :: l.filter fun x => !(x.1 == q && x.2.overlaps e))
/-- Install an entry in a core's L1 TLB and its quad's TLB (R137). -/
def State.install (s : State) (c : Nat) (e : TlbEntry) : State :=
  ({ s with quadTlb := quadPut s.quadTlb (coreQuad c) e }).modCore c fun k => { k with tlb := tlbPut k.tlb e }
/-- Look an address of a space up in a core's L1 TLB, then in its quad's (R136). -/
def State.lookup (s : State) (c : Nat) (space : BitVec 10) (va : Nat) : Option TlbEntry :=
  match (s.core c).tlb.find? fun e => e.holds space va with
  | some e => some e
  | none =>
    if isSvc c then none else (s.quadTlb.find? fun x => x.1 == coreQuad c && x.2.holds space va).map Prod.snd
/-- Whether an entry that an access of a core uses is in its L1 TLB; else it came from the quad's (R136). -/
def State.inL1Tlb (s : State) (c : Nat) (e : TlbEntry) : Bool := isSvc c || (s.core c).tlb.contains e
/-- A hit is the most recently used entry of the L1 TLB; one that came from the quad's is copied, and is the most recently used of
its set there (R136). -/
def State.useEntry (s : State) (c : Nat) (e : TlbEntry) : State :=
  (if s.inL1Tlb c e then s else { s with quadTlb := quadPut s.quadTlb (coreQuad c) e }).modCore c fun k =>
    { k with tlb := tlbPut k.tlb e }
/-- An access of the issuing firing uses an entry; one from the quad TLB adds 3 ticks (R136). -/
def State.touch (s : State) (c : Nat) (e : TlbEntry) : State :=
  (s.useEntry c e).modMe fun b => { b with xlat := if s.inL1Tlb c e then 0 else 3 }
/-- Whether the selection of a TLBI, TLBS or shoot-down covers an entry (R141, R299). -/
def Shoot.covers (x : Shoot) (e : TlbEntry) : Bool :=
  x.alls || (e.space == x.space && (x.allv ||
    (let b := 2 ^ pageBits x.size
     decide (e.vbase < x.vpn.toNat * 2 ^ 16 + b) && decide (x.vpn.toNat * 2 ^ 16 < e.vbase + e.bytes))))
/-- Invalidate what a selection covers in a core's L1 TLB and in its quad's (R141). -/
def State.invalidate (s : State) (c : Nat) (x : Shoot) : State :=
  ({ s with quadTlb := s.quadTlb.filter fun y => !(y.1 == coreQuad c && !isSvc c && x.covers y.2) }).modCore c fun k =>
    { k with tlb := k.tlb.filter fun e => !x.covers e }

/-! ### The walk of LAYOUT 0 (R139, R140) -/

/-- Index of an address at a level (R139). -/
def walkIndex (level va : Nat) : Nat :=
  match level with
  | 0 => va / 2 ^ 47 % 512
  | 1 => va / 2 ^ 35 % 4096
  | 2 => va / 2 ^ 25 % 1024
  | _ => va / 2 ^ 16 % 512
/-- Whether a leaf of a size may stand at a level (R139, R140). -/
def leafOk (level : Nat) (size : BitVec 2) : Bool :=
  match level with
  | 0 => false
  | 1 => size == 3
  | 2 => size == 2
  | _ => size == 0 || size == 1
/-- Whether a NEXT is aligned to the table it names (R140). -/
def nextOk (level next : Nat) : Bool :=
  match level with
  | 0 => next % 2 ^ 15 == 0
  | 1 => next % 2 ^ 13 == 0
  | _ => true
/-- The leaf entry of a table word (R140). -/
def leafEntry (space : BitVec 10) (va : Nat) (w : Word) : TlbEntry :=
  let size : BitVec 2 := (w >>> 11).setWidth 2
  { space := space, size := size, vpn := BitVec.ofNat 40 (va / 2 ^ pageBits size * 2 ^ pageBits size / 2 ^ 16),
    pfn := (w >>> 16).setWidth 40, attr := (w >>> 2).setWidth 9, host := bitOf w 13 }
/-- Whether a word cannot be read: it is poisoned, or a read would find it beyond correction (R26, R29). -/
def State.unreadable (s : State) (a : Nat) : Bool := s.poisoned a || s.flaws.any fun y => y.2.hard && y.1 == y.2.unit a
/-- The physical addresses of the table words that a walk reads (R139, R140). -/
def State.walkWords (s : State) (va : Nat) : Nat → Nat → Nat → List Nat
  | 0, _, _ => []
  | fuel + 1, level, table =>
    let at_ := table + 8 * walkIndex level va
    let w := s.rdWord (keyOf (offOf at_))
    if pkgOf at_ ≠ s.pkgId then []
    else if bitOf w 0 = false ∨ bitOf w 1 = true ∨ level = 3 then [at_]
    else at_ :: s.walkWords va fuel (level + 1) (field w 55 12 * 2 ^ 12)
/-- The same for an address of a launch's space. -/
def State.tableWords (s : State) (l : Launch) (va : Nat) : List Nat :=
  if l.r.layout = 0 then s.walkWords va 4 0 l.r.root else []
/-- Walk from a table at a level, `fuel` levels at most; `none` is PAGE. It answers with the leaf and the address of its
word. A table word that cannot be read is no valid entry: the manual gives a walk no other outcome (log entry 18). -/
def State.walkFrom (s : State) (space : BitVec 10) (va : Nat) : Nat → Nat → Nat → Option (TlbEntry × Nat)
  | 0, _, _ => none
  | fuel + 1, level, table =>
    let at_ := table + 8 * walkIndex level va
    let w := s.rdWord (keyOf (offOf at_))
    if pkgOf at_ ≠ s.pkgId ∨ s.unreadable (keyOf (offOf at_)) = true then none
    else if bitOf w 0 = false ∨ field w 63 56 ≠ 0 then none
    else if bitOf w 1 then
      if field w 15 14 ≠ 0 then none
      else if !leafOk level ((w >>> 11).setWidth 2) then none
      else some (leafEntry space va w, at_)
    else if field w 11 2 ≠ 0 then none
    else
      let next := field w 55 12 * 2 ^ 12
      if level = 3 ∨ nextOk level next = false then none else s.walkFrom space va fuel (level + 1) next
/-- The leaf of an address in a launch's space (R138 to R140); any other LAYOUT gives PAGE. -/
def State.leaf (s : State) (l : Launch) (va : Nat) : Option (TlbEntry × Nat) :=
  if l.r.layout = 0 then s.walkFrom l.space va 4 0 l.r.root else none
/-- Entries of a table of a level, and log2 of the bytes that each covers (R139). -/
def walkFan : Nat → Nat | 0 => 512 | 1 => 4096 | 2 => 1024 | _ => 512
/-- The same. -/
def walkShift : Nat → Nat | 0 => 47 | 1 => 35 | 2 => 25 | _ => 16
/-- The leaves that tables of this package lead to, from a table at a level, `fuel` levels at most (R139, R140). -/
def State.leavesIn (s : State) (space : BitVec 10) : Nat → Nat → Nat → Nat → List TlbEntry
  | 0, _, _, _ => []
  | fuel + 1, level, table, va =>
    ((List.range (walkFan level)).map fun i =>
      let at_ := table + 8 * i
      let w := s.rdWord (keyOf (offOf at_))
      let v := va + i * 2 ^ walkShift level
      if pkgOf at_ ≠ s.pkgId ∨ bitOf w 0 = false ∨ field w 63 56 ≠ 0 then []
      else if bitOf w 1 then (if field w 15 14 = 0 ∧ leafOk level ((w >>> 11).setWidth 2) = true then [leafEntry space v w] else [])
      else if field w 11 2 ≠ 0 ∨ level = 3 then []
      else s.leavesIn space fuel (level + 1) (field w 55 12 * 2 ^ 12) v).flatten
/-- The leaves of a launch's space. -/
def State.leavesOf (s : State) (l : Launch) : List TlbEntry :=
  if l.r.layout = 0 then s.leavesIn l.space 4 0 l.r.root 0 else []
/-- Whether a launch maps a transient page onto the frame that holds a physical address of this package (R165). -/
def State.transientAt (s : State) (o : Nat) : Bool :=
  s.launches.any fun l => (s.leavesOf l).any fun e =>
    attrT e.attr && pkgOf e.pbase == s.pkgId &&
      (match placeOf (offOf e.pbase), placeOf o with
       | .vault .., .vault .. =>
         let a := keyOf o
         if offOf e.pbase < linearBase then
           (let f := offOf e.pbase - vaultBase
            let x := a - linearBase
            let l' := x / 2 ^ 25 % 256
            let p := x / 2 ^ 33 * 2 ^ 33 + x % 2 ^ 25 / 128 * 2 ^ 15 + l' * 128 + x % 128
            decide (f ≤ p) && decide (p < f + e.bytes))
         else decide (offOf e.pbase ≤ a) && decide (a < offOf e.pbase + e.bytes)
       | _, _ => false)
/-- The replica of a duplicated page in a tower, or the primary frame (R149). -/
def State.replicaFor (s : State) (l : Launch) (e : TlbEntry) (tower : Nat) : TlbEntry :=
  if attrD e.attr then
    match s.replicas.find? fun x => x.1 == l.r.lid && x.2.1 == e.vbase && x.2.2.1 == tower with
    | some x => { e with pfn := BitVec.ofNat 40 (x.2.2.2 / 2 ^ 16) }
    | none => e
  else e
/-- What a walk for a core answers: an entry that may be installed (R138). -/
def State.walkFor (s : State) (l : Launch) (c va : Nat) : Option TlbEntry :=
  match s.leaf l va with
  | none => none
  | some (e, _) => let e' := s.replicaFor l e (coreTower c); if e'.legal then some e' else none

/-! ### Where an access is performed (R134, R165, R178) -/

/-- The executing agent of an access (R134, R165, R178). -/
def State.agentOf (s : State) (a : BitVec 9) (pa : Nat) : Agent :=
  if pkgOf pa ≠ s.pkgId then .package (pkgOf pa) else
  match placeOf (offOf pa) with
  | .hostWin l _ => .host l
  | .array .. | .istore .. | .mailbox .. | .control .. => .window
  | .hbm => if attrM a then .unit else if attrC a then (if attrS a then .slice else .l1) else .unit
  | .vault .. => if attrT a then .vault else if attrC a then (if attrS a then .slice else .l1) else .vault
  | .unassigned => .unit

/-! ### The checks in order (R135) -/

/-- What an access asks of its page and its target. -/
structure Req where
  va    : Word
  /-- Alignment in bytes (R268). -/
  size  : Nat
  r     : Bool
  w     : Bool
  /-- An F/E operation (R176). -/
  fe    : Bool
  /-- An AMO with respect-F/E (R176). -/
  amoFE : Bool
  /-- A plain store narrower than 8 bytes, or an atomic: refused by the instruction-store window (R268). -/
  noStore : Bool
deriving DecidableEq, Repr

/-- The outcome of the checks. -/
inductive Xres
  | go (e : TlbEntry) (pa : Nat)
  | trap (cause : BitVec 8) (faddr : Word)
  /-- The firing waits in the translation service; the request to send, if it is not sent yet. -/
  | wait (send : Option Instr)
  /-- It waits for its copies before it migrates (R117). -/
  | waitCopies
  | migrate (target : Nat)
deriving DecidableEq, Repr

/-- The core that is nearest to a vault, by torus hops, then by number (R117). -/
def nearest (v : Nat) : List Nat → Option Nat
  | [] => none
  | c :: l =>
    match nearest v l with
    | none => some c
    | some d => if torusHops v c < torusHops v d ∨ (torusHops v c = torusHops v d ∧ c % 256 ≤ d % 256) then some c else some d
/-- The target of a migration to the vault of a key: the launch's core directly above it, else its nearest one on the
layer, if the launch holds any there (R117). -/
def State.migTarget (s : State) (lid : BitVec 32) (v : Nat) : Option Nat :=
  match s.launchOf lid with
  | none => none
  | some l => if l.cores.contains v then some v else nearest v (l.cores.filter fun c => c / 256 == v / 256)
/-- Whether an owner has copies outstanding on a core. -/
def Core.hasCopy (k : Core) (owner : Nat) : Bool := k.copies.any fun x => x.owner == some owner && !x.done
/-- The target, where the firing is loose, has migrated fewer than 15 times, and the launch holds a core there (R117). -/
def State.mayMigrate (s : State) (v : Nat) : Option Nat :=
  if s.me.loose s.mine.cur && decide (s.me.migc ≠ 15) then s.migTarget s.me.lid v else none

/-- The last step of the checks: the physical target (R127, R135 step 8, R176, R268). -/
def targetTrap (s : State) (rq : Req) (pa : Nat) : Option (BitVec 8 × Word) :=
  match placeOf (offOf pa) with
  | .istore .. => if rq.fe || rq.amoFE || rq.noStore then some (0x03, rq.va) else none
  | .control .. => if rq.fe || rq.amoFE then some (0x14, BitVec.ofNat 64 (wordOf pa)) else none
  | .unassigned => if pkgOf pa = s.pkgId then some (0x14, BitVec.ofNat 64 (wordOf pa)) else none
  | _ => none

/-- Whether a firing waits in the translation service. -/
def Xl.waits : Xl → Bool | .waiting .. => true | _ => false
/-- The checks of an access by the issuing firing, in the order of R135; the first that fails decides. -/
def State.resolve (s : State) (rq : Req) : Xres :=
  if rq.va.toNat % rq.size ≠ 0 then .trap 0x03 rq.va
  else if 2 ^ 56 ≤ rq.va.toNat then .trap 0x05 rq.va
  else if s.me.xl.waits then .wait none
  else if s.me.xl = .fault rq.va then .trap 0x05 rq.va
  else
      match s.lookup s.here s.mine.space rq.va.toNat with
      | none => .wait (some (.translationRequest s.here s.mine.cur rq.va))
      | some e =>
        let pa := e.pbase + rq.va.toNat % e.bytes
        let ctl : Bool := match placeOf (offOf pa) with | .control _ => !isSvc s.here | _ => false
        if (rq.r && !attrR e.attr) || (rq.w && !attrW e.attr) || ctl then .trap 0x04 rq.va
        else if rq.fe && e.host then .wait (some (.tokenRequest (.toDevice s.here s.mine.cur rq.va.toNat)))
        else if rq.w && attrD e.attr then .wait (some (.tokenRequest (.collapse s.here s.mine.cur rq.va.toNat)))
        else
          let done : Xres := match targetTrap s rq pa with
            | some t => .trap t.1 t.2
            | none => .go e pa
          match placeOf (offOf pa) with
          | .vault v _ =>
            if attrH e.attr && decide (pkgOf pa = s.pkgId) && decide (v / 1024 ≠ coreTower s.here) then
              match s.mayMigrate v with
              | some t => if s.mine.hasCopy s.me.key then .waitCopies else .migrate t
              | none => done
            else done
          | _ => done

/-- The translation service core that a core's misses go to: 0 or 1 of its layer, by x (R3, R138). -/
def translationCore (c : Nat) : Nat := 8192 + 4 * coreLayer c + (if coreX c ≤ 7 then 0 else 1)
/-- The tick at which a request of the issuing core is answered: behind the earlier misses of the core (R138). -/
def State.serviceDue (s : State) (ev : Instr) : Nat :=
  let own := s.tick + s.delay 120
  match ev with
  | .translationRequest .. => s.queue.foldl (fun d e => match e.ev with
      | .translationRequest c _ _ => if c = s.here then max d e.due else d
      | _ => d) own
  | _ => own
/-- The firing goes into the translation service: a request leaves once, under a number of its own (R138, R146). -/
def State.enterService (s : State) (va : Word) (wr : Bool) (send : Option Instr) : State :=
  match send with
  | none => s.holdOp
  | some ev =>
    (((s.modMe fun b => { b with xl := .waiting va (translationCore s.here) wr }).delayed.enqueue (s.serviceDue ev) s.here s.mine.cur
      s.nextId ev).bumpId).holdOp

/-- Run the checks of an access; where they pass, go on with its translation and physical address. -/
def State.withPage (s : State) (rq : Req) (k : State → TlbEntry → Nat → State) : State :=
  match s.resolve rq with
  | .go e pa => k (s.touch s.here e) e pa
  | .trap cause faddr => s.trapHere cause 0 faddr
  | .wait send => s.enterService rq.va rq.w send
  | .waitCopies => s.holdOp
  | .migrate t => s.leaveAs s.here s.mine.cur (.migrate t)

end Sys2Proof.Machine
end

