-- ==== Sys2Proof/Machine/Access.lean ====
section
/-!
DEFINITION. Accesses from their issue to their answer: what one does at its executing agent, in which order they may be
performed, and how the answer comes back (09_full_empty R174 to R188, 10_consistency R189 to R200, 08_memory_hierarchy R161,
R168, R435, 15_memory_instructions R270 to R283, 01_package R29, 13_instruction_formats R243 to R245).
-/
namespace Sys2Proof.Machine

/-! ### Code stores (R243 to R245) -/

/-- Item of R243, less one, as CCHK holds it (R245). -/
def cchkOf (x : Illegal) : Nat := x.cause.toNat
/-- A stored bundle has good parity, and the store takes the instruction store's port in its tick (R212). -/
def State.freshCode (s : State) (c i : Nat) : State :=
  (s.unpoison (bundleKey c i)).modCore c fun k =>
    { k with badCode := k.badCode.filter fun j => j != i, codeAt := some s.tick }
/-- The word that the code checker stores, and the log of a replacement (R243, R244, R245). -/
def State.codeStore (s : State) (c i : Nat) (w : Word) : State :=
  match checkBundle (isSvc c) i w.toNat with
  | .ok _ => (s.wrWord (bundleKey c i) w).freshCode c i
  | .error x =>
    ((s.wrWord (bundleKey c i) 0x7F000000).freshCode c i).modLayer (coreLayer c) fun y =>
      { y with cchkCount := satAdd y.cchkCount 1, cchkBundle := BitVec.ofNat 13 i,
               cchkCore := BitVec.ofNat 8 (if isSvc c then (c - 8192) % 4 else c % 256), cchkSvc := isSvc c,
               cchkCause := BitVec.ofNat 3 (cchkOf x) }

/-! ### Transient blocks (R165 to R168) -/

/-- The transient block of a vault key: an aligned 64 KiB of vault offset in one vault. -/
def blockOf (key : Nat) : Nat := (key - linearBase) / 2 ^ 16
/-- Whether a block is armed at this tick; the deadline tick itself counts as expired (R168). -/
def State.armed (s : State) (blk : Nat) : Bool := s.blocks.any fun b => b.blk == blk && decide (s.tick < b.deadline)
/-- Whether an access finds its block unarmed (R168). -/
def State.unarmed (s : State) (tr : Bool) (key : Nat) : Bool := tr && !s.armed (blockOf key)

/-- Whether an access that does not come through a page of its own finds a word in an unarmed block of a transient page (R165,
R168). -/
def State.spent (s : State) (o : Nat) : Bool :=
  match placeOf o with
  | .vault .. => !s.armed (blockOf (keyOf o)) && s.transientAt o
  | _ => false
/-- The transient blocks that hold a byte of a range of vault addresses, given by its local offset and its size in bytes:
one after another in the vault-linear window; of each vault of the layers it spans in the interleaved one (R165). -/
def blocksOf (o n : Nat) : List Nat :=
  if o < linearBase then
    let lo := o - vaultBase
    let hi := lo + n - 1
    ((List.range (hi / 2 ^ 33 + 1 - lo / 2 ^ 33)).map fun j =>
      let l := lo / 2 ^ 33 + j
      let b := if j = 0 then lo % 2 ^ 33 / 2 ^ 24 else 0
      let e := if l = hi / 2 ^ 33 then hi % 2 ^ 33 / 2 ^ 24 else 511
      ((List.range 256).map fun v => (List.range (e + 1 - b)).map fun i => (l * 256 + v) * 512 + b + i).flatten).flatten
  else
    let lo := (o - linearBase) / 2 ^ 16
    (List.range ((o - linearBase + n - 1) / 2 ^ 16 + 1 - lo)).map fun i => lo + i

/-- Key of the first byte of a block. -/
def blockKey (blk : Nat) : Nat := linearBase + blk * 2 ^ 16
/-- Whether a key lies in a block. -/
def inBlock (blk a : Nat) : Bool := decide (blockKey blk ≤ a) && decide (a < blockKey blk + 2 ^ 16)
/-- Every word of a block is set empty in the list of empty words, which stays rising. -/
def emptyBlock (l : List Nat) (blk : Nat) : List Nat :=
  (l.filter fun a => decide (a < blockKey blk)) ++ (List.range 8192).map (fun i => blockKey blk + 8 * i) ++
    l.filter fun a => decide (blockKey blk + 2 ^ 16 ≤ a)
/-- Arming an unarmed block sets all its words to zero and empty (R168). -/
def State.clearBlock (s : State) (blk : Nat) : State :=
  { s with mem := s.mem.filter fun x => !inBlock blk x.1, empties := emptyBlock s.empties blk,
           poison := s.poison.filter (fun a => !inBlock blk a), wpoison := s.wpoison.filter (fun a => !inBlock blk a),
           flaws := s.flaws.filter fun x => !inBlock blk x.1 }
/-- Whether the sensor of the vault layer of a block stands in zone 1 or above (R167). -/
def State.hotBlock (s : State) (blk : Nat) : Bool := (s.sensor (vaultSensor (blk / 131072))).zone != 0
/-- The deadline of a block armed at a tick, by whether its layer has been in zone 1 or above since (R167). -/
def deadlineOf (arm life : Nat) (hot : Bool) : Nat := arm + life * (if hot then 350 else 700)
/-- A re-armed block's vault spends 40 ticks in each of its banks (R168). -/
def State.refreshVault (s : State) (v : Nat) : State :=
  { s with banks := (List.range 16).foldl (fun m i =>
      Sparse.set (fun _ => Bankst.reset) m (v * 16 + i)
        { (Sparse.get (fun _ => Bankst.reset) m (v * 16 + i)) with busy := some (s.tick + 40) }) s.banks }
/-- Arm one block as of a tick: an armed one keeps its contents and takes the new deadline (R167, R168). -/
def State.armBlockAt (s : State) (arm life : Nat) (hot : Bool) (blk : Nat) : State :=
  let s' := if s.armed blk then s.refreshVault (blk / 512) else s.clearBlock blk
  let dl := deadlineOf arm life hot
  ({ s' with blocks := { blk := blk, arm := arm, life := life, deadline := dl } ::
      s'.blocks.filter fun b => b.blk != blk }).enqueue dl 0 .low blk .transientExpiry
/-- Arm one block now. -/
def State.armBlock (s : State) (life blk : Nat) : State := s.armBlockAt s.tick life (s.hotBlock blk) blk
/-- Arm every block of a page, given by its local offset and size (R167, R279). -/
def State.armPageAt (s : State) (o n life : Nat) : State := (blocksOf o n).foldl (State.armBlock · life) s

/-! ### Data and bits at the place of an address -/

/-- The full/empty bit plane of a page that is resident in a host window, for an access (R174, R187). -/
def State.planeOf (s : State) (lid : BitVec 32) (va : Nat) : Option Plane :=
  s.planes.find? fun x => x.lid == lid && decide (x.va ≤ va) && decide (va < x.va + 64 * x.bytes)
/-- Whether the word of an access is full. -/
def State.wordFull (s : State) (lid : BitVec 32) (va pa key : Nat) : Bool :=
  match placeOf (offOf pa) with
  | .hostWin .. => match s.planeOf lid va with
    | some x => !x.empties.contains ((va - x.va) / 8)
    | none => true
  | _ => s.full key

/-- The array segment or tag byte, 9·row + segment, that an offset of an array block lies in (R404). -/
def segmentOf (o : Nat) : Nat := if o < 0x40000 then 9 * (o / 64) + o % 64 / 8 else 9 * ((o - 0x40000) / 8) + 8
/-- Read `n` bytes at a physical address of this package; a host window answers with a free value (R130). -/
def State.placeRead (s : State) (pa key n : Nat) : Nat :=
  match placeOf (offOf pa) with
  | .array c o => arrayRead (s.core c) o n
  | .control o => s.ctlReadN o n
  | .hostWin .. => (Config.hostWord s.free).toNat % 2 ^ (8 * n)
  | _ => s.rdN key n
/-- What a read takes from the model's counters. -/
def State.placeRead' (s : State) (pa : Nat) : State :=
  match placeOf (offOf pa) with
  | .hostWin .. => s.bumpFree
  | _ => s
/-- Write `n` bytes at a physical address of this package (R271); a code store passes the checker (R243). A store to a host
window leaves the package. -/
def State.placeWrite (s : State) (pa key n v : Nat) : State :=
  match placeOf (offOf pa) with
  | .array c o => s.modCore c fun k => arrayWrite { k with badPar := k.badPar.filter fun x => !(n == 8 && x == segmentOf o) } o n v
  | .control o => s.ctlWriteN o n v
  | .hostWin .. => s
  | .istore c o => if n = 8 then s.codeStore c (o / 8) (BitVec.ofNat 64 v) else s
  | _ => s.wrN key n v

/-- The bit of a word of a plane (R187). -/
def Plane.mark (x : Plane) (va : Nat) (full : Bool) : Plane :=
  { x with empties := if full then delKey x.empties ((va - x.va) / 8) else addKey x.empties ((va - x.va) / 8) }
/-- A write or an empty of an engine leaves a word's bit, with its event: in the word's storage, or, of a page in a host window, in
the page's plane, if it has one (R174, R186, R187). -/
def State.setBit (s : State) (lid : BitVec 32) (va pa key : Nat) (full : Bool) : State :=
  match placeOf (offOf pa) with
  | .hostWin .. =>
    match s.planeOf lid va with
    | some x => ({ s with planes := s.planes.map fun y => if y == x then y.mark va full else y }).feEvent (wordOf key) full
    | none => s
  | _ => if full then s.fill key else s.empty key

/-! ### Atomic operations (R280, R281, R282) -/

/-- The new value of an AMO of `n` bits (R280). -/
def amoVal (op : AmoOp) (n : Nat) (old b : Nat) : Nat :=
  let x : BitVec n := BitVec.ofNat n old
  let y : BitVec n := BitVec.ofNat n b
  match op with
  | .add => (x + y).toNat
  | .and => (x &&& y).toNat
  | .or => (x ||| y).toNat
  | .xor => (x ^^^ y).toNat
  | .min => if x.toInt ≤ y.toInt then x.toNat else y.toNat
  | .max => if x.toInt ≤ y.toInt then y.toNat else x.toNat
  | .minn => min x.toNat y.toNat
  | .maxn => max x.toNat y.toNat
  | .swap => y.toNat
/-- Bytes of an atomic. -/
def atomBytes (w : Bool) : Nat := if w then 8 else 4

/-! ### One access at its agent (R177, R188, R190) -/

/-- What an access that reads a place meets there: poison (R29), or bad parity in an array (R404). -/
def State.bad (s : State) (pa key : Nat) : Option Answer :=
  match placeOf (offOf pa) with
  | .array c o => if (s.core c).badPar.contains (segmentOf o) then some (.parity (segmentOf o / 9)) else none
  | _ => if s.poisoned key then some .poisoned else none
/-- An access that reads its place: answered by what it meets there, else as `r` says. -/
def State.guarded (s : State) (pa key : Nat) (r : Answer × State) : Answer × State :=
  match s.bad pa key with
  | some a => (a, s)
  | none => r

/-- An attempt that does not read the data of its word: it still consumes poison (R29). -/
def State.sound (s : State) (key : Nat) (r : Answer × State) : Answer × State := if s.poisoned key then (.poisoned, s) else r
/-- A read-modify-write: `f` maps the old value to the new one, or to none where nothing is written. -/
def State.rmw (s : State) (tr : Bool) (pa key n : Nat) (f : Nat → Option Nat) : Answer × State :=
  if s.unarmed tr key then (.done 0, s)
  else
    let old := s.placeRead pa key n
    let s' := s.placeRead' pa
    s.guarded pa key (.done (BitVec.ofNat 64 old),
      match f old with
      | some v => s'.placeWrite pa key n v
      | none => s')

/-- A filling write of a word at its place. -/
def State.fillAt (s : State) (pa key : Nat) (v : Word) : State := ((s.placeWrite pa key 8 v.toNat).unpoison key).fill key

/-- The keys of `n` consecutive words from a physical address. -/
def runKeys (pa n : Nat) : List Nat := (List.range n).map fun i => keyOf (offOf (pa + 8 * i))
/-- Consecutive whole words are stored; one of an unarmed block is discarded (R41, R168). -/
def State.storeRun (s : State) (tr : Bool) (pa : Nat) : List Word → State
  | [] => s
  | w :: ws =>
    let key := keyOf (offOf pa)
    (if s.unarmed tr key then s else (s.placeWrite pa key 8 w.toNat).unpoison key).storeRun tr (pa + 8) ws
/-- Consecutive words are read (R41, R168). -/
def State.loadRun (s : State) (tr : Bool) (pa n : Nat) : List Word :=
  (List.range n).map fun i =>
    let a := pa + 8 * i
    if s.unarmed tr (keyOf (offOf a)) then 0 else BitVec.ofNat 64 (s.placeRead a (keyOf (offOf a)) 8)
/-- Whether a run of words covers a block of 64 bytes (R29). -/
def coversBlock (pa : Nat) (n : Nat) : Bool := pa % 64 == 0 && n == 8

/-- What one access does at its executing agent in this package, as one indivisible step, and how it is answered: R177 for
the F/E operations, R188 for an unarmed block, R29 for poison, R270 to R283 for the rest. A respect-F/E AMO that succeeds
leaves its word full through a write, and so is a fill (R175, R177). `lid` is the issuing launch. -/
def State.doOp (s : State) (lid : BitVec 32) (op : AccOp) (va pa key : Nat) (tr : Bool) : Answer × State :=
  let full := s.wordFull lid va pa key
  match op with
  | .load sz =>
    if s.unarmed tr key then (.done 0, s)
    else s.guarded pa key (.done (BitVec.ofNat 64 (s.placeRead pa key sz.bytes)), s.placeRead' pa)
  | .store sz v =>
    if s.unarmed tr key then (.done 0, s)
    else if s.merges key sz.bytes then (.poisoned, s)
    else
      let s' := s.placeWrite pa key sz.bytes (v.toNat % 2 ^ (8 * sz.bytes))
      (.done 0, if sz.bytes = 8 then s'.unpoison key else s')
  | .amo op w v fe =>
    if fe && s.unarmed tr key then (.expired, s)
    else if fe && !full then s.sound key (.notReady, s)
    else
      let r := s.rmw tr pa key (atomBytes w) fun old => some (amoVal op (8 * atomBytes w) old v.toNat)
      match fe, r.1 with
      | true, .done _ => (r.1, r.2.fill key)
      | _, _ => r
  | .cas w cmp new =>
    s.rmw tr pa key (atomBytes w) fun old =>
      if old = cmp.toNat % 2 ^ (8 * atomBytes w) then some (new.toNat % 2 ^ (8 * atomBytes w)) else none
  | .red op w v => s.rmw tr pa key (atomBytes w) fun old => some (amoVal op (8 * atomBytes w) old v.toNat)
  | .redFadd m v => s.rmw tr pa key 4 fun old => some (faddRes m (BitVec.ofNat 64 old) v).1.toNat
  | .ldw =>
    if s.unarmed tr key then (.expired, s) else if !full then s.sound key (.notReady, s)
    else s.guarded pa key (.done (BitVec.ofNat 64 (s.placeRead pa key 8)), s.placeRead' pa)
  | .ldt =>
    if s.unarmed tr key then (.expired, s) else if !full then s.sound key (.notReady, s)
    else s.guarded pa key (.done (BitVec.ofNat 64 (s.placeRead pa key 8)), (s.placeRead' pa).empty key)
  | .stp v =>
    if s.unarmed tr key then (.done 0, s) else s.sound key (if full then (.notReady, s) else (.done 0, s.fillAt pa key v))
  | .stf v => if s.unarmed tr key then (.done 0, s) else if s.merges key 8 then (.poisoned, s) else (.done 0, s.fillAt pa key v)
  | .emp => if s.unarmed tr key then (.done 0, s) else if s.merges key 8 then (.poisoned, s) else (.done 0, s.empty key)
  | .feq =>
    if s.unarmed tr key then (.done 0, s) else s.guarded pa key (.done (boolWord full), s)
  | .ldwt =>
    if s.unarmed tr key then (.expired, s) else if !full then s.sound key (.notReady, s)
    else s.guarded pa key (.done (BitVec.ofNat 64 (s.placeRead pa key 8)), s.placeRead' pa)
  | .ldtt =>
    if s.unarmed tr key then (.expired, s) else if !full then s.sound key (.notReady, s)
    else s.guarded pa key (.done (BitVec.ofNat 64 (s.placeRead pa key 8)), (s.placeRead' pa).empty key)
  | .stpt v =>
    if s.unarmed tr key then (.expired, s)
    else s.sound key (if full then (.notReady, s) else (.done 0, s.fillAt pa key v))
  | .park expected =>
    let bit := !s.unarmed tr key && full
    let r : Answer × State := if bit = expected then (.notReady, s) else (.done 0, s)
    if s.unarmed tr key then r else s.sound key r
  | .fetch =>
    if s.unarmed tr key then (.word 0 false, s)
    else s.guarded pa key (.word (BitVec.ofNat 64 (s.placeRead pa key 8)) full, s.placeRead' pa)
  | .put v f =>
    if s.unarmed tr key then (.done 0, s)
    else
      let s' := (s.placeWrite pa key 8 v.toNat).unpoison key
      (.done 0, match f with | none => s' | some b => s'.setBit lid va pa key b)
  | .clear => (.done 0, if s.unarmed tr key then s else s.setBit lid va pa key false)
  | .storeWords ws =>
    let ks := (runKeys pa ws.length).filter fun k => !s.unarmed tr k
    if coversBlock pa ws.length then (.done 0, ks.foldl State.heal (s.storeRun tr pa ws))
    else if ks.any fun k => s.merges k 8 then (.poisoned, s)
    else (.done 0, s.storeRun tr pa ws)
  | .loadWords n =>
    match ((List.range n).filterMap fun i =>
        if s.unarmed tr (keyOf (offOf (pa + 8 * i))) then none else s.bad (pa + 8 * i) (keyOf (offOf (pa + 8 * i)))).head? with
    | some a => (a, s)
    | none => (.words (s.loadRun tr pa n), s)
  | .tarm bytes life => (.done 0, s.armPageAt (offOf pa / bytes * bytes) bytes life.toNat)

/-- Whether an access writes its word whole, without reading it: of a block it still reads the rest (R27, R29). -/
def accCovers : AccOp → Bool | .store .d _ | .stf _ | .put .. => true | _ => false
/-- Whether an access does not read or write one word. -/
def accArms : AccOp → Bool | .tarm .. | .storeWords _ | .loadWords _ => true | _ => false
/-- A run of words meets the errors in what it reads, or, where it does not cover its block, in what it merges with (R27, R29). -/
def State.meetRun (s : State) (pa : Nat) : AccOp → State
  | .storeWords ws => if coversBlock pa ws.length then s else (runKeys pa ws.length).foldl State.meetBlock s
  | .loadWords n => (runKeys pa n).foldl State.meet s
  | _ => s
/-- An access at its agent: it meets the errors in what it reads, and has its effect (R26, R28, R29). -/
def State.atPlace (s : State) (lid : BitVec 32) (op : AccOp) (va pa key : Nat) (tr : Bool) : Answer × State :=
  ((if s.unarmed tr key || accArms op then s else if accCovers op then s.meetBlock key else s.meet key).meetRun pa op).doOp lid op va
    pa key tr

/-! ### Kinds of access -/

/-- Whether an access reads a value for its firing: a load for R191. -/
def accLoads : AccOp → Bool
  | .load _ | .amo .. | .cas .. | .ldw | .ldt | .feq | .ldwt | .ldtt | .park _ | .fetch | .loadWords _ => true
  | _ => false
/-- Whether an access may change its location: a store for R191. -/
def accStores : AccOp → Bool
  | .store .. | .amo .. | .cas .. | .red .. | .redFadd .. | .ldt | .stp _ | .stf _ | .emp | .ldtt | .stpt _ | .tarm .. | .put .. | .clear | .storeWords _ => true
  | _ => false
/-- Bytes that an access touches. -/
def accBytes : AccOp → Nat
  | .load sz | .store sz _ => sz.bytes
  | .amo _ w _ _ | .cas w _ _ | .red _ w _ => atomBytes w
  | .redFadd .. => 4
  | .storeWords ws => 8 * ws.length
  | .loadWords n => 8 * n
  | _ => 8
/-- Whether an access is a waiting operation, whose bundle is held until it succeeds (R210, R276). -/
def accWaits : AccOp → Bool
  | .ldw | .ldt | .stp _ | .park _ => true
  | .amo _ _ _ fe => fe
  | _ => false
/-- Whether an access is a store and nothing else; of these, the ones that its own L1 does not perform are remote stores (R189,
R274, R282). -/
def accPure : AccOp → Bool
  | .store .. | .red .. | .redFadd .. | .stf _ | .emp | .tarm .. | .put .. | .clear | .storeWords _ => true
  | _ => false
/-- Whether an access is a plain store as far as its answer goes: nothing comes back but the acknowledgement. -/
def Access.isAck (a : Access) : Bool := a.dst.isNone && a.st.isNone && !a.grp && !(accWaits a.op)

/-- An access to a host window or to another package (R194). -/
def Access.far (a : Access) : Bool := match a.agent with | .host _ | .package _ => true | _ => false
/-- Scopes at which a release waits for every remote store (R194). -/
def scopeWide : Scope → Bool | .pod | .sys => true | _ => false

/-! ### The order of performing (R191, R194, R195) -/

/-- Whether a release at a scope still waits for an earlier access of its firing (R194). -/
def Access.owes (b : Access) (sc : Scope) : Bool := if b.remote && b.far then scopeWide sc else b.remote || b.ans.isNone
/-- Whether an access is one of the firing that issues: of this core or, before it migrated or was resumed, of another (R200). -/
def State.own (s : State) (a : Access) : Bool := a.fid == s.me.key
/-- Whether nothing that a release of the issuing firing at a scope waits for is left (R194). -/
def State.released (s : State) (sc : Scope) : Bool := !(s.accesses.any fun a => s.own a && a.owes sc)

/-- Whether an access arms a transient block that holds a word of another: it counts as a store to every word of its blocks (R191, R279). -/
def Access.arms (b a : Access) : Bool :=
  match b.op with
  | .tarm n _ =>
    (match placeOf (offOf a.pa) with | .vault .. => true | _ => false) && pkgOf a.pa == pkgOf b.pa &&
      (blocksOf (offOf b.pa / n * n) n).contains (blockOf (keyOf (offOf a.pa)))
  | _ => false
/-- Whether an earlier access `b` of the same firing keeps `a` from being performed: one address; an acquire that has not
returned; a load before a store; and everything earlier before a release, but remote stores to host windows and other
packages at pkg scope or narrower. -/
def Access.blocks (b a : Access) : Bool :=
  let same := decide (b.va.toNat < a.va.toNat + (accBytes a.op)) && decide (a.va.toNat < b.va.toNat + (accBytes b.op))
  ((same || b.arms a || a.arms b) && b.ans.isNone) || b.acq || ((accLoads b.op) && (accStores a.op)) ||
  (match a.rel with
   | none => false
   | some sc => b.owes sc)
/-- The core whose instruction store an operation stores code into, with its package (R193, R201). -/
def codeTarget (op : AccOp) (pa : Nat) : Option (BitVec 12 × Nat) :=
  match op, placeOf (offOf pa) with
  | .store .d _, .istore c _ => some (pkgOf pa, c)
  | _, _ => none
/-- The same of an access. -/
def Access.codeTo (a : Access) : Option (BitVec 12 × Nat) := codeTarget a.op a.pa
/-- Whether a code store of an access is on its way to its store, or to a link's queue. -/
def Access.codeOut (a : Access) : Bool := a.ans.isNone && !a.gone && a.codeTo.isSome
/-- Whether two accesses are code stores of one core into one store, the first not yet performed (R193). -/
def Access.codeBefore (b a : Access) : Bool := b.core == a.core && b.codeOut && b.codeTo == a.codeTo
/-- Whether an access may be performed now as far as its own firing's order goes, whatever core its firing was on (R191, R194,
R200); code stores that one core has sent into one store keep their order, and wait for none of its other firing that is still in
the store buffer (R193, R206). -/
def State.inOrder (s : State) (a : Access) : Bool :=
  !(s.accesses.any fun b =>
    (b.fid == a.fid && decide (b.id < a.id) && (b.blocks a || b.codeBefore a)) ||
    (b.fid != a.fid && (decide (b.sent < a.sent) || (b.sent == a.sent && decide (b.id < a.id))) && b.codeBefore a))

/-- Bank of a vault offset, and the row in it (R158). -/
def vaultBank (v ofs : Nat) : Nat := v * 16 + ofs / 128 % 16
/-- Row of a vault offset in its bank (R158). -/
def vaultRow (ofs : Nat) : Nat := ofs / 2 ^ 15
/-- Whether a bank's array instruction is making passes. -/
def Bank.passing (b : Bank) : Bool := match b.op with | .array _ _ (some _) _ _ => true | _ => false
/-- Whether the array of a core is making passes (R403). -/
def Core.arrayBusy (k : Core) : Bool :=
  k.low.passing || k.high.passing || (match k.apply with | some (_, _, e) => e.isSome | none => false)
/-- Whether a core is a compute core of C3 and a vault the one beneath its far vault layer D0, at its x,y: reached over the
spine (R13). -/
def overSpine (c v : Nat) : Bool := decide (c < 8192) && c / 256 % 4 == 3 && v + 768 == c
/-- The vertical path that an access from a core to a vault takes: the vault's own face-to-face bond, numbered by the vault, or
8192 + c for the TSVs of core c to the far vault beneath the same place (R13, R31); C3's far vault is over the spine, which
has no such path. The manual does not say which path an access from another x,y, another layer, a slice, the host or another
package takes; the model charges it to the vault's own bond (log entry 106). -/
def pathOf (c v : Nat) : Option Nat :=
  if overSpine c v then none else if c < 8192 ∧ v = c + 256 ∧ c / 256 % 4 ≠ 3 then some (8192 + c) else some v
/-- Whether a path takes what left its core at a tick: it is not quiesced, or that was on the path before, and the swap, which comes
200 ticks after the quiesce at the latest, has not begun (R32). -/
def State.pathOpen (s : State) (c v sent : Nat) : Bool :=
  match pathOf c v with
  | none => true
  | some p => let x := Sparse.get (fun _ => Path.reset) s.paths p; !x.quiesced || (decide (sent < x.since) && decide (s.tick < x.since + 200))
/-- Stack of an HBM offset (R169). -/
def hbmStack (o : Nat) : Nat := o / 4096 % 12
/-- Pseudo-channel of an HBM offset in its stack, with the memory-side unit of that number (R169, R170). -/
def hbmChannel (o : Nat) : Nat := o / 128 % 32 + 32 * (o / 65536 % 2)
/-- Whether the stack of an HBM offset takes a new request in this tick: none in zone 3 (R22); at half the rate in zone 2, for
which the model takes the even ticks (R21, R169; log entry 107). -/
def State.stackOpen (s : State) (o : Nat) : Bool :=
  let z := (s.sensor (72 + hbmStack o)).zone
  z != 3 && !(z == 2 && s.tick % 2 == 1)
/-- Whether a refresh operation or a re-arm occupies the bank of a vault offset (R163, R168). -/
def State.bankBusy (s : State) (v ofs : Nat) : Bool :=
  (Sparse.get (fun _ => Bankst.reset) s.banks (vaultBank v ofs)).busy.any fun e => decide (s.tick < e)
/-- Whether an agent takes an access of a core to a physical address of this package at this tick: a quiesced path (R32), a
refresh operation (R163), an HBM stack (R22), an array between passes (R403). An access that an L1 or an LLC slice performs is
no request to the vault or the stack (log entry 107). -/
def State.placeReady (s : State) (c : Nat) (ag : Agent) (pa sent : Nat) : Bool :=
  if ag = .l1 ∨ ag = .slice then true
  else match placeOf (offOf pa) with
  | .vault v ofs => s.pathOpen c v sent && !s.bankBusy v ofs
  | .hbm => s.stackOpen (offOf pa)
  | .array d _ => !(s.core d).arrayBusy
  | _ => true
/-- Whether a code store to a place has to wait for the store's port, which another has taken in this tick (R161, R212). -/
def State.portTaken (s : State) (pa : Nat) : Bool :=
  match placeOf (offOf pa) with
  | .istore c _ => (s.core c).codeAt == some s.tick
  | _ => false
/-- Whether the agent of an access takes it at this tick. -/
def State.agentReady (s : State) (a : Access) : Bool :=
  match a.agent with
  | .package _ | .host _ => true
  | ag => s.placeReady a.core ag a.pa a.sent && !(accStores a.op && s.portTaken a.pa)

/-! ### Times (R161) -/

/-- Whether a vault is the near one, or the far one through TSVs, of a core's layer: nothing but a refresh operation adds to
R161 there. -/
def vaultDirect (c v : Nat) : Bool :=
  coreLayer c == v / 256 || (coreTower c == v / 1024 && v / 256 % 4 == coreLayer c % 4 + 1)
/-- Ticks from issue to arrival at a vault (R161). -/
def vaultArrive (c v : Nat) : Nat :=
  let near := coreLayer c == v / 256
  let far := coreTower c == v / 1024 && v / 256 % 4 == coreLayer c % 4 + 1
  (if near then 4 else if far then 10 else 20) + 3 * torusHops c v + 36 * towerHops (coreTower c) (v / 1024)
/-- Ticks from issue to arrival at another core's window (R161). -/
def windowArrive (c d : Nat) : Nat :=
  (if coreLayer c = coreLayer d then 4 else 20) + 3 * torusHops c d + 36 * towerHops (coreTower c) (coreTower d)
/-- One-way time to the base die of a core's tower, on the ordered class (R321). -/
def outWay (c : Nat) : Nat := 12 + 3 * ringDist (coreX c) 15
/-- Ticks that an atomic adds, by its agent (R283). -/
def atomAdds (ag : Agent) : AccOp → Nat
  | .amo .. | .cas .. => (match ag with | .l1 => 2 | .unit | .host _ | .package _ => 0 | _ => 6)
  | _ => 0
/-- Ticks from issue to the tick in which the agent performs an access (R161, R435): an own L1 completes a hit 4 ticks from
issue, and makes the attempt of a waiting operation as it issues (R178). -/
def State.arriveFig (s : State) (c : Nat) (ag : Agent) (pa : Nat) (op : AccOp) : Nat :=
  match ag with
  | .l1 => if accWaits op then 0 else 4 + atomAdds ag op
  | .slice => 20 + 36 * towerHops (coreTower c) (s.homeTower c (offOf pa))
  | .unit => 100
  | .host _ => 100
  | .package _ => if (codeTarget op pa).isSome then outWay c else 140
  | .vault => match placeOf (offOf pa) with | .vault v _ => vaultArrive c v | _ => 20
  | .window => match placeOf (offOf pa) with
    | .array d _ | .istore d _ | .mailbox d _ => windowArrive c d
    | _ => 20
/-- The time that an access takes to its agent, with the next entry of the schedule: the figure itself for a vault or a window
that is reached without the spine; longer where the spine (R14) or a coherence action, a miss or a fill (R155, R157) may add to
it; any time where R161 gives a typical figure, or none (log entry 3). -/
def State.arriveTime (s : State) (c : Nat) (ag : Agent) (pa : Nat) (op : AccOp) : Nat :=
  let f := s.arriveFig c ag pa op
  match ag with
  | .unit | .host _ => s.delay f
  | .package _ => if (codeTarget op pa).isSome then f else s.delay f
  | .vault => match placeOf (offOf pa) with | .vault v _ => if vaultDirect c v then f else s.slack f | _ => s.slack f
  | .window => match placeOf (offOf pa) with
    | .array d _ | .istore d _ | .mailbox d _ => if coreLayer c = coreLayer d then f else s.slack f
    | _ => s.slack f
  | .l1 | .slice => s.slack f
/-- Whether an access to a vault bank finds its row open (R158). -/
def State.rowOpen (s : State) (pa : Nat) : Bool :=
  match placeOf (offOf pa) with
  | .vault v ofs => (Sparse.get (fun _ => Bankst.reset) s.banks (vaultBank v ofs)).row == some (vaultRow ofs)
  | _ => true
/-- The bank of an access keeps its row open (R158). -/
def State.openRow (s : State) (ag : Agent) (pa : Nat) : State :=
  match ag, placeOf (offOf pa) with
  | .vault, .vault v ofs =>
    let x := Sparse.get (fun _ => Bankst.reset) s.banks (vaultBank v ofs)
    { s with banks := Sparse.set (fun _ => Bankst.reset) s.banks (vaultBank v ofs) { x with row := some (vaultRow ofs) } }
  | _, _ => s
/-- Ticks from arrival to the answer at a core (R161, R283): `row` says whether a vault bank has the row open. -/
def answerFig (c : Nat) (ag : Agent) (pa : Nat) (op : AccOp) (row : Bool) : Nat :=
  (match ag with
   | .l1 => 0
   | .slice => 24
   | .unit | .host _ => 100
   | .package _ => 140
   | .vault => if row then 10 else 22
   | .window => match placeOf (offOf pa) with
     | .array d _ | .istore d _ | .mailbox d _ => if coreLayer c = coreLayer d then 4 else 10
     | _ => 4) + (if ag = .l1 then 0 else atomAdds ag op)
/-- The time that the answer of an access takes, with the next entry of the schedule, as for its arrival; where it waited for a
refresh operation, which closed the row, the whole closed-row latency follows the operation's end (R163). -/
def State.answerTime (s : State) (a : Access) : Nat :=
  let f := answerFig a.core a.agent a.pa a.op (s.rowOpen a.pa && !a.late)
  match a.agent with
  | .l1 => f
  | .unit | .host _ | .package _ => s.delay f
  | .vault => match placeOf (offOf a.pa) with
    | .vault v _ => if a.late then vaultArrive a.core v + f else if vaultDirect a.core v then f else s.slack f
    | _ => s.slack f
  | .window => match placeOf (offOf a.pa) with
    | .array d _ | .istore d _ | .mailbox d _ => if coreLayer a.core = coreLayer d then f else s.slack f
    | _ => s.slack f
  | .slice => s.slack f

/-! ### Transmission errors (R28, R31, R32) -/

/-- A replay of a beat or flit counts as a corrected error of its domain (R28). -/
def State.replayIn (s : State) (d : Nat) : State := if s.noise.headD 0 = 0 then s else s.countCorr d
/-- The next beat's entry of the schedule of transmission errors is taken. -/
def State.heard (s : State) : State := { s with noise := s.noise.tail }
/-- The CRC error count of a lane in a list, one up. -/
def laneUp : List (Nat × Nat) → Nat → List (Nat × Nat)
  | [], k => [(k, 1)]
  | (j, n) :: l, k => if j = k then (j, n + 1) :: l else (j, n) :: laneUp l k
/-- A beat on a path: an error on a lane counts for the lane, in the present 2^20 beats, and the beat is replayed (R31, R32). -/
def Path.beat (x : Path) (e : Nat) : Path :=
  let y := if e = 0 then x else { x with laneErr := laneUp x.laneErr ((e - 1) % 152) }
  if x.beats + 1 = 2 ^ 20 then { y with beats := 0, laneErr := [] } else { y with beats := x.beats + 1 }
/-- The lane of a path that has exceeded 16 errors with this beat (R31). -/
def Path.worn (x : Path) (e : Nat) : Option Nat :=
  if e = 0 then none else (x.laneErr.find? fun y => y.1 == (e - 1) % 152 && decide (16 < y.2)).map Prod.fst
/-- A flit crosses the package's network: a replay of it is a corrected error of domain 8 (R27, R28). -/
def State.crossing (s : State) : State := (s.replayIn 8).heard
/-- A TLP crosses a PCIe link: a replay of it is a corrected error of domain 10 (R27, R28). -/
def State.tlp (s : State) : State := (s.replayIn 10).heard
/-- The traffic of an access to its agent: a beat of a vertical path, or a flit of the package's network, both of domain 8, or a
TLP of a PCIe link, of domain 10 (R27, R28, R31). -/
def State.travel (s : State) (c : Nat) (ag : Agent) (pa : Nat) : State :=
  match ag with
  | .l1 => s
  | .host _ => s.tlp
  | .vault =>
    match placeOf (offOf pa) with
    | .vault v _ =>
      match pathOf c v with
      | some p =>
        let x := (Sparse.get (fun _ => Path.reset) s.paths p).beat (s.noise.headD 0)
        let s1 := { s with paths := Sparse.set (fun _ => Path.reset) s.paths p x }
        let s2 := match x.worn (s.noise.headD 0) with
          | some l => s1.later 0 0 (.laneFailing p l)
          | none => s1
        s2.crossing
      | none => s.crossing
    | _ => s.crossing
  | _ => s.crossing

/-! ### From issue to answer -/

/-- The park kind of a waiting operation (R181). -/
def accParkKind : AccOp → ParkKind
  | .ldt => .taker
  | .stp _ => .putter
  | .park e => .watcher e
  | _ => .waiter
/-- Tower whose park table an access's word uses: the word's home, or for a remote word the core's own (R42, R181). -/
def State.parkTower (s : State) (a : Access) : Nat :=
  match a.agent with
  | .package _ => coreTower a.core
  | _ => s.homeTower a.core (offOf a.pa)

/-- The answer of an attempt reaches the bank that waits for it (R178, R433). -/
def Bank.answer (b : Bank) (k : Nat) (ans : Answer) : Bank :=
  match b.op with
  | .fe n key pa lat (.flying j) => if j = k then { b with op := .fe n key pa lat (.answered ans) } else b
  | _ => b
/-- Take an access out of the list. -/
def State.dropAccess (s : State) (id : Nat) : State := { s with accesses := s.accesses.filter fun a => a.id != id }
/-- Mark an access performed. -/
def State.markDone (s : State) (id : Nat) (ans : Answer) : State :=
  { s with accesses := s.accesses.map fun a => if a.id == id then { a with ans := some ans } else a }

/-- The launch that an access is for: the one that its number names for the distributors, that of its core for an engine, else its
firing's. -/
def State.lidOf (s : State) (a : Access) : BitVec 32 :=
  if 2 ^ 63 ≤ a.fid then BitVec.ofNat 32 (a.fid - 2 ^ 63)
  else if 2 ^ 62 ≤ a.fid then ((s.core a.core).lid?).getD 0 else (s.bank a.core a.prio).lid
/-- An access is performed at its agent; a failed last attempt registers its firing as a pending park in the same step
(R180). -/
def State.performAt (s : State) (a : Access) : Answer × State :=
  let r := s.atPlace (s.lidOf a) a.op a.va.toNat a.pa a.key a.tr
  match r.1, a.reg with
  | .notReady, some kind =>
    if (r.2.bank a.core a.prio).key ≠ a.fid then (.notReady, r.2) else
    (.notReady, r.2.registerPark a.core a.prio (r.2.parkTower a) a.key kind)
  | ans, _ => (ans, r.2)

/-- The widening of a loaded value (R270). -/
def widen (sg : Option Nat) (v : Word) : Word := match sg with | none => v | some n => sxFrom n v
/-- The status of a try form (R275). -/
def tryStatus : Answer → Word | .done _ => 0 | .expired => 2 | _ => 1
/-- The value that an answer writes into the destination (R275: a failed try form writes 0). -/
def answerVal : Answer → Word | .done v | .word v _ => v | _ => 0

/-- Bad parity that an engine's read has met counts as its answer comes in (R30, R404). -/
def State.engineMet (s : State) (a : Access) : Answer → State
  | .parity _ => if 2 ^ 62 ≤ a.fid then s.countUncorr 6 else s
  | _ => s
/-- The answer of an access that is no waiting operation comes in: its registers are written in this tick, or poison traps
at the next boundary (R29, R211, R275). Where two accesses of a firing answer so before one boundary the manual does not say
whose trap is taken; the model takes the first (log entry 108). -/
def State.giveAnswer (s : State) (a : Access) (ans : Answer) : State :=
  if a.grp then { (s.engineMet a ans) with accesses := s.accesses.map fun b => if b.id == a.id then { b with back := some ans } else b }
  else
  let s0 := s.dropAccess a.id
  let s' := match ans with | .parity _ => s0.countUncorr 6 | _ => s0
  if (s'.bank a.core a.prio).key ≠ a.fid then
    if a.fid < 2 ^ 61 then s'.poke (BitVec.ofNat 32 (a.fid % 2 ^ 60 / 2 ^ 20)) else s'
  else s'.modBank a.core a.prio fun b =>
    match ans with
    | .poisoned => { b with async := b.async.or (some { cause := 0x14, info := 0, faddr := BitVec.ofNat 64 (wordOf a.pa) }) }
    | .parity row => { b with async := b.async.or (some { cause := 0x0E, info := BitVec.ofNat 48 row, faddr := 0 }) }
    | _ =>
      let b1 := match a.dst with
        | none => b
        | some (r, sg) => b.write false s.tick r (widen sg (answerVal ans))
      match a.st with
      | none => b1
      | some r => b1.write false s.tick r (tryStatus ans)

/-- An access comes to its agent: its traffic is counted, and a vault's bank has its row open (R28, R31, R158). -/
def State.visit (s : State) (c : Nat) (ag : Agent) (pa : Nat) : State := (s.travel c ag pa).openRow ag pa
/-- The agent that an access through no cache goes to, by its place. -/
def memAgent (pa : Nat) : Agent :=
  match placeOf (offOf pa) with
  | .vault .. => .vault
  | .hostWin l _ => .host l
  | _ => .unit
/-- An access of the package itself, the host or another package comes to its place, through no cache and over no path of a compute core's
own (R28, R31, R158; log entry 106). -/
def State.call (s : State) (pa : Nat) : State := s.visit s.distCore (memAgent pa) pa
/-- The answer of an access that has been performed leaves, over the way that the access came, and is there some ticks later (R28, R31,
R435); a write to the host, which PCI Express posts, has none on the link (log entry 105). -/
def State.answerIn (s : State) (a : Access) (d : Nat) : State :=
  let s1 := match a.agent with
    | .host _ => if a.isAck then s else s.travel a.core a.agent a.pa
    | _ => s.travel a.core a.agent a.pa
  s1.enqueue (s.tick + d) a.core a.prio a.id (if a.isAck then .storeAck else .loadReturn)
/-- An access that its slice has no line for: an HBM line comes from there, typically 190 ticks after the issue; a line of a vault is
asked for, 20 ticks on (R161). -/
def State.missAt (s : State) (a : Access) : State :=
  match placeOf (offOf a.pa) with
  | .vault .. =>
    let f (b : Access) : Access := if b.id == a.id then { b with miss := true } else b
    { s with accesses := s.accesses.map f }.enqueue (s.tick + 20) a.core a.prio a.id .accessArrive
  | _ => (s.call a.pa).delayed.answerIn a (s.delay 170)
/-- The vault's side of an access that its slice has no line for: it waits for its path and for a refresh operation, and finds the row open or
closed; the line then goes to the slice at (15, y) (R158, R161, R163). -/
def State.missVault (s : State) (a : Access) : State :=
  match placeOf (offOf a.pa) with
  | .vault v ofs =>
    if !s.pathOpen s.distCore v a.sent || s.bankBusy v ofs then s.enqueueFirst (s.tick + 1) a.core a.prio a.id .accessArrive
    else
      let d := (if s.rowOpen a.pa then 34 else 46) + atomAdds a.agent a.op + 3 * ringDist (coreX v) 15
      ((s.call a.pa).answerIn a (s.slack d)).delayed
  | _ => s
/-- An access is performed in this tick and its answer sent: at once to a firing that waits at its own L1, or to an engine whose
L1 it was, else by an event (R178, R435). Whether a slice holds the line is open (log entry 107). -/
def State.arrive (s : State) (a : Access) : State :=
  let d := s.answerTime a
  let r := (s.visit a.core a.agent a.pa).performAt a
  if accWaits a.op = true ∧ a.agent = .l1 then (r.2.dropAccess a.id).modBank a.core a.prio fun b => b.answer a.id r.1
  else
    let s1 := r.2.markDone a.id r.1
    if a.agent = .slice ∧ Config.lineThere s.free = false then s1.bumpFree.missAt a
    else if a.agent = .slice then s1.bumpFree.delayed.answerIn a d
    else if 2 ^ 62 ≤ a.fid ∧ d = 0 then s1.delayed.giveAnswer a r.1
    else s1.delayed.answerIn a d

/-- Whether a packet travels on the ordered class (R41). -/
def isOrdered : Packet → Bool | .request .. | .response .. => false | _ => true
/-- Whether a link that is down holds packets of the ordered class, or unacknowledged ones, for a package (R40). -/
def SpanLink.holdsFor (x : SpanLink) (p : BitVec 12) : Bool :=
  x.down && (x.heldPk.any (fun e => e.dst == p) || x.outq.any fun e => e.dst == p && isOrdered e.pk)
/-- A link that has gone down and was the one to a package, where new ordered packets wait until RESEND; else one that still holds earlier
ones (R40, R44). -/
def State.blockedBy (s : State) (p : BitVec 12) : Option Nat :=
  ((List.range 16).find? fun l => (s.spanLink l).affected.contains p).or
    ((List.range 16).find? fun l => (s.spanLink l).holdsFor p)
/-- The link that carries a packet to a package: OLINK, or for adaptive ones the lowest link of AMASK that is up, else the lowest of
AMASK, where they wait (R39, R40, R44). -/
def State.linkFor (s : State) (p : BitVec 12) (x : Packet) : Nat :=
  let r := s.route p
  if isOrdered x then (s.blockedBy p).getD r.olink.toNat
  else if r.amask = 0 then r.olink.toNat
  else
    let ls := (List.range 16).filter fun l => r.amask.getLsbD l
    ((ls.find? fun l => !(s.spanLink l).down).or ls.head?).getD r.olink.toNat
/-- A packet joins what a link is to send. On one that is down it waits for RESEND, and so do the ordered packets that follow it (R40,
R44). -/
def State.sendOver (s : State) (l : Nat) (x : OutPk) : State :=
  (s.modSpan l fun y =>
    { y with outq := y.outq ++ [x],
             affected := if y.down && isOrdered x.pk && !y.affected.contains x.dst then y.affected ++ [x.dst] else y.affected }).later 0 l
    .outboundQueueSend
/-- Put a packet into the outbound queue of its package's link (R321). -/
def State.sendOut (s : State) (x : OutPk) : State := s.sendOver (s.linkFor x.dst x.pk) x
/-- Put a packet that is no message of a core into the outbound queue of a package's link. -/
def State.toSpan (s : State) (p : BitVec 12) (x : Packet) : State := s.sendOut { tower := 0, queue := 16, owner := 0, dst := p, pk := x }
/-- The packet of an access to another package: a code store travels on the ordered class (R41, R201). -/
def State.requestOf (s : State) (id : Nat) (op : AccOp) (pa : Nat) (tr : Bool) : Packet :=
  match op, placeOf (offOf pa) with
  | .store .d v, .istore .. => .code s.pkgId id (offOf pa) v
  | _, _ => .request s.pkgId id op pa tr
/-- The request packet of an access to another package leaves (R41). -/
def State.sendRequest (s : State) (a : Access) : State :=
  let f (b : Access) : Access := if b.id == a.id then { b with gone := true } else b
  ({ s with accesses := s.accesses.map f }).toSpan (pkgOf a.pa) (s.requestOf a.id a.op a.pa a.tr)
/-- Key of a word of another package: its physical address, apart from every key of this one. -/
def remoteKey (pa : Nat) : Nat := 2 ^ 61 + (pkgOf pa).toNat * 2 ^ 44 + keyOf (offOf pa)
/-- Key of a physical address. -/
def State.keyFor (s : State) (pa : Nat) : Nat := if pkgOf pa = s.pkgId then keyOf (offOf pa) else remoteKey pa

/-- An access that its firing's order keeps at its core leaves it later (R191, R194, R206). -/
def State.keepHome (s : State) (a : Access) : State :=
  { s with accesses := s.accesses.map fun b => if b.id == a.id then { b with sent := s.tick + 1 } else b }
/-- An access waits at a busy bank (R163). -/
def State.keepLate (s : State) (a : Access) : State :=
  match placeOf (offOf a.pa) with
  | .vault v ofs => if s.bankBusy v ofs then
      { s with accesses := s.accesses.map fun b => if b.id == a.id then { b with late := true } else b } else s
  | _ => s
/-- An access comes to its executing agent: performed if its firing's order and the agent allow it, else at a later tick
(R191, R194, R435). Those that wait at an agent come before later arrivals, in the order in which they came (R32, R160, R170,
R403). -/
def State.accessArrive (s : State) (a : Access) : State :=
  if a.ans.isSome then (if a.miss then s.missVault a else s)
  else if !s.inOrder a then (s.keepHome a).enqueue (s.tick + 1) a.core a.prio a.id .accessArrive
  else if s.agentReady a then
    match a.agent with
    | .package _ => (s.visit a.core a.agent a.pa).sendRequest a
    | _ => s.arrive a
  else (s.keepLate a).enqueueFirst (s.tick + 1) a.core a.prio a.id .accessArrive

/-- Entries of a core's store buffer: stores at the own L1 that it has not completed, and remote stores that still wait to
be sent (R206). -/
def State.storeBuffer (s : State) (c : Nat) : Nat :=
  (s.accesses.filter fun a => a.core == c && a.isAck && a.ans.isNone && (a.agent == .l1 || !s.inOrder a)).length

/-- An access of the issuing bundle, through a TLB entry. -/
def State.accessFor (s : State) (e : TlbEntry) (pa : Nat) (op : AccOp) (va : Word) : Access :=
  let ag := s.agentOf e.attr pa
  { id := s.nextId, core := s.here, prio := s.mine.cur, fid := s.me.key, op := op, va := va, pa := pa, key := s.keyFor pa,
    agent := ag, tr := attrT e.attr, dst := none, st := none, grp := false, back := none, ent := e, acq := false, rel := none,
    remote := (accPure op) && !(ag == .l1), reg := none, sent := s.tick, late := false, miss := false, gone := false, told := [], ans := none }
/-- An access leaves its core: it goes to its agent, and one that needs no travel is performed at once. -/
def State.depart (s : State) (a : Access) : State :=
  let d := s.arriveTime a.core a.agent a.pa a.op + s.me.xlat
  let s' := (({ s with accesses := s.accesses ++ [a] }.bumpId).delayed).modMe fun b => { b with xlat := 0 }
  if d = 0 then s'.accessArrive a else s'.enqueue (s.tick + d) a.core a.prio a.id .accessArrive
/-- An access leaves the issuing bundle. -/
def State.launchAccess (s : State) (e : TlbEntry) (pa : Nat) (op : AccOp) (va : Word) (dst : Option (Reg × Option Nat))
    (st : Option Reg) (acq : Bool) (rel : Option Scope) (reg : Option ParkKind) : State :=
  s.depart { (s.accessFor e pa op va) with dst := dst, st := st, acq := acq, rel := rel, reg := reg }

/-- Whether the entry of a package's route is missing (R39). -/
def State.unreachable (s : State) (pa : Nat) : Bool := decide (pkgOf pa ≠ s.pkgId) && !(s.route (pkgOf pa)).valid

end Sys2Proof.Machine
end

