-- ==== Sys2Proof/Machine/Operands.lean ====
section
/-!
DEFINITION. The operand forms: effective addresses (R236, R267), branch targets (R307), immediates (R242, R255), port
addresses (R316), and the shapes that meanings share.
-/
namespace Sys2Proof.Machine

/-- What a meaning answers. -/
abbrev Out := Host.Outcome State Fault Refusal

/-! ### Addresses of CM and CR instructions (R267) -/

/-- A displacement of a CM word: sign-extended and multiplied by the size in bytes (R267). -/
def disp9 (p : BitVec 9) (size : Nat) : Word := p.signExtend 64 * BitVec.ofNat 64 size
/-- A lone displacement: E as a signed byte displacement (R236, R267). -/
def dispE (e : W32) : Word := e.signExtend 64
/-- The address of a CM instruction (R267). -/
def State.ea (s : State) (a : Reg) (size : Nat) (p : BitVec 9) : Word := s.rd a + disp9 p size
/-- The address of a lone CM instruction (R267). -/
def State.eaE (s : State) (a : Reg) (e : W32) : Word := s.rd a + dispE e
/-- The address of LDX and STX: an unscaled byte index (R267). -/
def State.eaX (s : State) (a b : Reg) : Word := s.rd a + s.rd b

/-! ### What an access asks (R135, R268) -/

/-- A load. -/
def reqLoad (va : Word) (n : Nat) : Req := ⟨va, n, true, false, false, false, false⟩
/-- A plain store. -/
def reqStore (va : Word) (n : Nat) : Req := ⟨va, n, false, true, false, false, n != 8⟩
/-- An F/E operation that only reads. -/
def reqFeRead (va : Word) : Req := ⟨va, 8, true, false, true, false, false⟩
/-- An F/E operation that may change its word. -/
def reqFeWrite (va : Word) : Req := ⟨va, 8, true, true, true, false, false⟩
/-- An atomic. -/
def reqAtom (va : Word) (n : Nat) (fe : Bool) : Req := ⟨va, n, true, true, false, fe, true⟩
/-- TARM. -/
def reqArm (va : Word) : Req := ⟨va, 8, false, true, false, false, false⟩

/-- An access that must be answered, towards a package without a route: MEMERR (R39). -/
def State.noRoute (s : State) (pa : Nat) : State := s.trapHere 0x14 0 (BitVec.ofNat 64 (wordOf pa))

/-! ### Branch targets (R307) -/

/-- The target of a PC-relative branch: its own bundle plus the displacement. -/
def relTarget (pc : Bundle13) {n : Nat} (t : BitVec n) : Bundle13 := pc + t.signExtend 13
/-- The bundle index in a register: bits 12:0. -/
def regTarget (w : Word) : Bundle13 := w.setWidth 13
/-- The link value of a call: its own bundle plus 3 (R310). -/
def linkOf (pc : Bundle13) : Word := (pc + 3).setWidth 64

/-! ### Immediates -/

/-- An immediate of 14 bits, sign-extended (R242, R255). -/
def sImm (i : BitVec 14) : Word := i.signExtend 64

/-! ### Port addresses (R316) -/

/-- A field of a port address. -/
def portInst (p : Word) : Nat := field p 5 0
/-- Destination core of a port address: tower, layer, y, x (R128, R316). -/
def portCore (p : Word) : Nat := field p 18 16 * 1024 + field p 15 14 * 256 + field p 13 10 * 16 + field p 9 6
/-- Destination package. -/
def portPkg (p : Word) : BitVec 12 := BitVec.ofNat 12 (field p 30 19)
/-- Input port of the destination instance. -/
def portPort (p : Word) : Nat := field p 33 31
/-- Output port of the sending firing. -/
def portOut (p : Word) : Nat := field p 36 34
/-- Whether a port address is well formed: VALID, and bits 62:37 zero (R316, R318). -/
def portOk (p : Word) : Bool := bitOf p 63 && field p 62 37 == 0

/-! ### Shapes -/

/-- A slot A instruction with two sources: its result is written after its latency (R249). -/
def State.alu2 (s : State) (lat : Nat) (d a b : Reg) (f : Word → Word → Word) : Out := .next (s.wrA lat d (f (s.rd a) (s.rd b)))
/-- A slot A instruction with one source. -/
def State.alu1 (s : State) (lat : Nat) (d a : Reg) (f : Word → Word) : Out := .next (s.wrA lat d (f (s.rd a)))
/-- A slot A instruction that raises flags in the tick its result is written (R230). -/
def State.aluF (s : State) (lat : Nat) (d : Reg) (r : FRes) : Out := .next (s.wrAF lat d r)
/-- A word C instruction that issues at once and writes one register with latency 1 (R211). -/
def State.setC (s : State) (d : Reg) (v : Word) : Out := .next (s.wrC 1 d v).issue
/-- A branch issues: taken, not taken, or not taken with both delay bundles annulled (R303). -/
def State.branch (s : State) (taken n : Bool) (t : Bundle13) : Out :=
  .next ((s.flow (if taken then .taken t else if n then .annul else .seq)).issue)

end Sys2Proof.Machine
end

