-- ==== Sys2Proof/Machine/Engine.lean ====
section
/-!
DEFINITION. What the engines of a core share: which layers are active, whether the array is free, and the values of the
control registers (16_system R285 to R289, 20_fold R346 to R350, 21_throttling R373 to R377, 22_associative_arrays R386,
23_learning R405 to R409).
-/
namespace Sys2Proof.Machine

/-! ### Active layers (R347, R376) -/

/-- Whether compute layer 4t + k is active for folds: unfenced, no trip, not over, allowance not 0 (R376). -/
def State.active (s : State) (i : Nat) : Bool :=
  !(s.layer i).fenced && !s.trip i && !(s.layer i).overran && (s.layer i).allow != 0
/-- A bit for each of the four layers of a tower. -/
def bits4 (f : Nat → Bool) : BitVec 4 := BitVec.ofNat 4 ((List.range 4).foldl (fun n k => n + bitN (f k) * 2 ^ k) 0)
/-- NOW of a tower (R347). -/
def State.nowSet (s : State) (t : Nat) : BitVec 4 := bits4 fun k => s.active (4 * t + k)
/-- The fenced layers of a tower (R371). -/
def State.fencedSet (s : State) (t : Nat) : BitVec 4 := bits4 fun k => (s.layer (4 * t + k)).fenced
/-- The member set that a core's %fmask names: without fenced layers (R346). -/
def State.memberSet (s : State) (c : Nat) : BitVec 4 := (s.core c).fmask &&& ~~~s.fencedSet (coreTower c)

/-! ### The array (R386, R387, R417, R419) -/

/-- Whether a reward application is due. -/
def Core.dueReward (k : Core) : Bool := k.rewards.any (·.due)
/-- Whether word 10 says that a firing stands inside a sequence (R402). -/
def Bank.midPass (b : Bank) : Bool := bitOf b.pass 24
/-- Whether a bank's firing stands or runs inside a sequence, also where a record has restored it there (R387, R402). -/
def Bank.inSequence (b : Bank) : Bool := b.midPass || (match b.op with | .array _ (some _) _ _ _ => true | _ => false)
/-- Whether a bank's firing is in an array instruction. -/
def Bank.inArray (b : Bank) : Bool := match b.op with | .array .. => true | _ => false
/-- Whether an MNAR is writing array rows. -/
def Core.narrowing (k : Core) : Bool := k.fq.any fun e => e.begun && (match e.item with | .nar _ _ _ _ _ _ (some _) _ _ => true | _ => false)
/-- The other priority. -/
def otherPrio : Prio → Prio | .low => .high | .high => .low
/-- Whether the array is free for an array instruction of a bank that has not begun (R386): no application is due or runs,
no MNAR writes rows, the other firing is in none. -/
def Core.arrayFree (k : Core) (p : Prio) : Bool :=
  k.apply.isNone && !k.dueReward && !k.narrowing && !(k.bank (otherPrio p)).inArray
/-- Rewards held or queued, the one being applied among them (R409, R417). -/
def Core.pendRewards (k : Core) : Nat := k.rewards.length + bitN k.apply.isSome

/-! ### Control registers (R285 to R289) -/

/-- %status (R287). -/
def Core.status (k : Core) (p : Prio) (svc : Bool) : Word :=
  BitVec.ofNat 64 (bitN (p == .high) + place (bitN (k.bank p).anch) 1 1 + place (bitN svc) 1 2 + place (bitN k.brken) 1 3 +
    place (bitN (k.low.run == .suspended)) 1 4)
/-- %core (R289); a service core shows its layer and tower. -/
def State.coreReg (s : State) (c : Nat) : Word :=
  BitVec.ofNat 64 (coreX c + place (coreY c) 4 4 + place (coreLayer c) 5 8 + place s.pkgId.toNat 12 16)
/-- %tallow (R374). -/
def State.tallow (s : State) (i : Nat) : Word :=
  let l := s.layer i
  BitVec.ofNat 64 ((s.allowOf i).toNat + place (usedField (l.usage s.tick)) 8 8 + place (bitN l.overran) 1 16 + place (bitN (s.trip i)) 1 17)
/-- %tsens (R377). -/
def State.tsens (s : State) (i : Nat) : Word :=
  let c := s.sensor (computeSensor i)
  let d := s.sensor (vaultSensor i)
  BitVec.ofNat 64 (c.temp.toNat + place d.temp.toNat 16 16 + place c.zone.toNat 2 32 + place d.zone.toNat 2 34)
/-- %aflag (R409). -/
def Core.aflag (k : Core) : Word :=
  BitVec.ofNat 64 (k.aflags.toNat + place k.aprow.toNat 13 16 + place k.pendRewards 3 32)

/-- A core-held register below 0x040 but %status, which depends on the reader. -/
def State.coreHeld (s : State) (c n : Nat) : Option Word :=
  let k := s.core c
  match n with
  | 0x001 => some (k.cause.setWidth 64)
  | 0x002 => some (s.coreReg c)
  | 0x003 => some (if isSvc c then 0 else match k.launch with
      | some (lid, sp) => BitVec.ofNat 64 (lid.toNat + place sp.toNat 10 32)
      | none => 0)
  | 0x005 => some (BitVec.ofNat 64 (s.timebase - 1))
  | 0x007 => some (k.wdlim.setWidth 64)
  | 0x020 => some (BitVec.ofNat 64 (k.barArr.toNat + place k.barSense.toNat 8 8))
  | 0x030 => some (k.fmask.setWidth 64)
  | 0x031 => some (BitVec.ofNat 64 (k.flast.toNat + place (s.nowSet (coreTower c)).toNat 4 4))
  | 0x032 => some (k.fpin.setWidth 64)
  | 0x033 => some (k.fsamp.setWidth 64)
  | 0x034 => some (s.tallow (coreLayer c))
  | 0x035 => some (s.tsens (coreLayer c))
  | 0x036 => some (BitVec.ofNat 64 (k.gap8.toNat + place k.gap4.toNat 8 8))
  | 0x037 => some (k.tlife.setWidth 64)
  | _ => none
/-- An array register (R405 to R409, R383). -/
def Core.arrayReg (k : Core) (n : Nat) : Option Word :=
  match n with
  | 0x040 => some k.astep
  | 0x041 => some k.ahz
  | 0x042 => some (k.rlag.setWidth 64)
  | 0x043 => some (k.eta.setWidth 64)
  | 0x044 => some (k.lambda.setWidth 64)
  | 0x045 => some (k.tinc.setWidth 64)
  | 0x046 => some (k.afld.setWidth 64)
  | 0x047 => some (k.plas.setWidth 64)
  | 0x048 => some (k.alate.setWidth 64)
  | 0x049 => some k.aflag
  | 0x04A => some 4096
  | _ => none
/-- A register held per bank, as the firing of a bank reads it. -/
def State.bankReg (s : State) (c : Nat) (p : Prio) (n : Nat) : Option Word :=
  let b := s.bank c p
  match n with
  | 0x000 => some ((s.core c).status p (isSvc c))
  | 0x004 => some (if isSvc c then 0 else BitVec.ofNat 64 (b.act % 64 + place b.inst 6 6 + place b.home 13 12))
  | 0x006 => some (b.rbud.setWidth 64)
  | 0x008 => some (b.fpctl.setWidth 64)
  | 0x009 => some (b.fpst.setWidth 64)
  | 0x00A => some b.sidx
  | 0x00B => some (b.scount.setWidth 64)
  | 0x021 => some (b.barb.setWidth 64)
  | _ => if 0x010 ≤ n ∧ n ≤ 0x017 then some (s.pinWord b (n - 0x010)) else none
/-- The core-held registers that an event of a tick may change. -/
def seenRegs : List Nat := [0x001, 0x002, 0x020, 0x031, 0x034, 0x035, 0x040, 0x041, 0x048, 0x049]
/-- What those registers of a core, and the ports of its firings, read as now (R285). -/
def State.seenOf (s : State) (c : Nat) : List (Nat × Word) :=
  seenRegs.map (fun n => (n, ((s.coreHeld c n).or ((s.core c).arrayReg n)).getD 0)) ++
    (List.range 8).map (fun i => (0x010 + i, s.pinWord (s.bank c .low) i)) ++
    (List.range 8).map fun i => (0x1010 + i, s.pinWord (s.bank c .high) i)
/-- Some registers of a core are noted anew: what changed them belongs to the tick before. -/
def State.seeAgain (s : State) (c : Nat) (l : List Nat) : State :=
  { s with seen := s.seen.map fun x =>
      if x.1 = c then (c, x.2.map fun y => if l.contains y.1 then (y.1, (((s.coreHeld c y.1).or ((s.core c).arrayReg y.1)).getD y.2)) else y)
      else x }
/-- What a register of the issuing core read as when the tick began, where it was noted. -/
def State.seenReg (s : State) (n : Nat) : Option Word :=
  let port := decide (0x010 ≤ n) && decide (n ≤ 0x017)
  if !port && !seenRegs.contains n then none
  else
  let m := if port && s.mine.cur == .high then n + 0x1000 else n
  ((s.seen.find? fun x => x.1 == s.here).bind fun x => x.2.find? fun y => y.1 == m).map Prod.snd
/-- The value that MFC returns: the one that stands before its issue tick (R285, R286); a number without a register reads 0. -/
def State.mfcVal (s : State) (n : Nat) : Word :=
  ((s.seenReg n).or ((s.bankReg s.here s.mine.cur n).or ((s.coreHeld s.here n).or (s.mine.arrayReg n)))).getD 0

/-- GAP8 and GAP4 as a write stores them (R233). -/
def gapOf (w : Word) (lo : Nat) : BitVec 8 := BitVec.ofNat 8 (min (field w (lo + 7) lo) 24)
/-- LIFE as a write stores it (R166). -/
def lifeOf (w : Word) : BitVec 16 := BitVec.ofNat 16 (min (max (w.toNat % 65536) 1) 32000)

/-- A write to a core-held register; those with an effect of their own bring about their event (R325, R405, R417). -/
def State.mtcCore (s : State) (n : Nat) (w : Word) : State :=
  match n with
  | 0x000 => s.modMine fun k => { k with brken := bitOf w 3 }
  | 0x007 => s.modMine fun k => { k with wdlim := w.setWidth 16 }
  | 0x020 => s.enqueue s.tick s.here s.mine.cur 0 (.barphWithdraw s.here w)
  | 0x030 => s.modMine fun k => { k with fmask := w.setWidth 4 }
  | 0x032 => s.modMine fun k => { k with fpin := w.setWidth 4 }
  | 0x033 => s.modMine fun k => { k with fsamp := w.setWidth 16 }
  | 0x036 => s.modMine fun k => { k with gap8 := gapOf w 0, gap4 := gapOf w 8 }
  | 0x037 => s.modMine fun k => { k with tlife := lifeOf w }
  | 0x040 => s.enqueue s.tick s.here s.mine.cur 0 (.astepWrite s.here w)
  | 0x042 => s.modMine fun k => { k with rlag := w.setWidth 8 }
  | 0x043 => s.modMine fun k => { k with eta := w.setWidth 16 }
  | 0x044 => s.modMine fun k => { k with lambda := w.setWidth 8 }
  | 0x045 => s.modMine fun k => { k with tinc := w.setWidth 12 }
  | 0x046 => s.enqueue s.tick s.here s.mine.cur 0 (.afldWrite s.here w)
  | 0x047 => s.modMine fun k => { k with plas := w.setWidth 3 }
  | 0x048 => s.modMine fun k => { k with alate := w.setWidth 32 }
  | 0x049 => s.modMine fun k => { k with aflags := w.setWidth 3 }
  | _ => s
/-- The value MTC writes: bank registers at once, with the core's default (R207); %fpctl acts from the next bundle on, so
that the A word of the same bundle uses the old mode (R252). -/
def State.mtcVal (s : State) (n : Nat) (w : Word) : State :=
  match n with
  | 0x006 => (s.modMe fun b => { b with rbud := w.setWidth 16 }).modMine fun k => { k with drbud := w.setWidth 16 }
  | 0x008 =>
    (s.modMe fun b => { b with pend := pendInsert b.pend { due := s.tick + 1, isA := false, dst := .fpctl, val := w } }).modMine
      fun k => { k with dfpctl := w.setWidth 2 }
  | 0x009 => s.modMe fun b => { b with fpst := w.setWidth 5 }
  | 0x021 => (s.modMe fun b => { b with barb := w.setWidth 16 }).modMine fun k => { k with dbarb := w.setWidth 16 }
  | _ => s.mtcCore n w

end Sys2Proof.Machine
end

