-- ==== Sys2Proof/Machine/System.lean ====
section
/-!
DEFINITION. System instructions: control registers, TRAP, BRK, SLEEP, SEAL, LTRIG, MIGR, RESUME, and the translation
instructions of service cores (16_system R285 to R301, 07_translation R137, R141, 11_core R217).
-/
namespace Sys2Proof.Machine

/-- `MFC`: the value before the issue tick, with latency 1 (R285); PRIV for a firmware register on a compute core (R217). -/
def execMfc (d : Reg) (n : BitVec 14) (s : State) : Out :=
  if 0x100 ≤ n.toNat ∧ isSvc s.here = false then .next (s.trapHere 0x02 0 0)
  else s.setC d (s.mfcVal n.toNat)
/-- Whether every earlier array command of a core is over, for an MTC to 0x040 to 0x049 (R285, R410). -/
def Core.arrayDone (k : Core) : Bool :=
  k.apply.isNone && !k.dueReward && !k.narrowing && !k.low.inArray && !k.high.inArray && !(k.cur == .high && k.low.inSequence)
/-- `MTC` (R285, R410). -/
def execMtc (a : Reg) (n : BitVec 14) (s : State) : Out :=
  if 0x100 ≤ n.toNat then
    if isSvc s.here then .next s.issue else .next (s.trapHere 0x02 0 0)
  else if 0x040 ≤ n.toNat ∧ n.toNat ≤ 0x049 ∧ s.mine.arrayDone = false then .next s.holdOp
  else .next (s.mtcVal n.toNat (s.rd a)).issue

/-- `TRAP` (R291). -/
def execTrap (i : BitVec 14) (s : State) : Out := .next (s.trapHere 0x13 (i.setWidth 48) 0)
/-- `BRK`: traps when BRKEN is set, else does nothing (R292). -/
def execBrk (i : BitVec 14) (s : State) : Out :=
  .next (if s.mine.brken then s.trapHere 0x13 (0x4000 + i.setWidth 48) 0 else s.issue)
/-- `SEAL` (R294). -/
def execSeal (s : State) : Out := .next (s.trapHere 0x01 0 0)
/-- `SLEEP`: holds for its number of ticks and issues in the next; the watchdog does not count them (R293). -/
def execSleep (i : BitVec 14) (s : State) : Out :=
  match s.me.op with
  | .sleep _ fin => .next (if fin then s.issue else s.hold)
  | _ =>
    if i = 0 then .next s.issue
    else .next (((s.modMe fun b => { b with op := .sleep (s.tick + i.toNat) false }).enqueue (s.tick + i.toNat) s.here
      s.mine.cur 0 .sleepExpiry).hold)
/-- `SLEEP_EXPIRY`: the count of the SLEEP that a bank holds runs out (R293). -/
def execSleepExpiry (s : State) : Out :=
  .next (s.modBank s.here s.evPrio fun b =>
    match b.op with
    | .sleep till false => if till ≤ s.tick then { b with op := .sleep till true } else b
    | _ => b)

/-- `LTRIG`: once its release is performed, one trigger of the launch unless the instance carries the mark (R296). -/
def execLtrig (s : State) : Out :=
  if s.released .pkg then
    let marked := ((s.inst s.me.home s.me.inst).map (·.trig)).getD false
    let s1 := if marked then s else (s.modLaunch s.me.lid fun l => { l with trig := l.trig + 1 }).pokeStarts
    .next (s1.modInst s.me.home s.me.inst fun i => { i with trig := true }).issue
  else .next s.holdOp

/-! ### MIGR (R117, R297) -/

/-- Steps 2 and 3 of the checks alone (R135, R297). -/
def State.translate (s : State) (va : Word) : Xres :=
  if 2 ^ 56 ≤ va.toNat then .trap 0x05 va
  else if s.me.xl.waits then .wait none
  else if s.me.xl = .fault va then .trap 0x05 va
  else
    match s.lookup s.here s.mine.space va.toNat with
    | none => .wait (some (.translationRequest s.here s.mine.cur va))
    | some e => .go e (e.pbase + va.toNat % e.bytes)
/-- The core that MIGR to a physical address moves to: the conditions of R117, a vault of this package, another core. -/
def State.migrTo (s : State) (pa : Nat) : Option Nat :=
  match placeOf (offOf pa) with
  | .vault v _ => if pkgOf pa = s.pkgId then (s.mayMigrate v).filter fun t => t != s.here else none
  | _ => none
/-- `MIGR`: translates, and departs behind the bundle where it may; else it has no effect (R297). -/
def execMigr (a : Reg) (s : State) : Out :=
  let va := s.rd a
  .next <| match s.translate va with
  | .go e pa =>
    match s.migrTo pa with
    | some t =>
      if s.mine.hasCopy s.me.key then s.holdOp
      else (s.touch s.here e).issue.modMe fun b => { b with leaving := some (.migrate t) }
    | none => (s.touch s.here e).issue
  | .trap cause faddr => s.trapHere cause 0 faddr
  | .wait send => s.enterService va false send
  | .waitCopies | .migrate _ => s.issue

/-! ### RESUME (R298) -/

/-- One-way time of a message between two cores of the package (R320). -/
def oneWay (c d : Nat) : Nat :=
  if c = d then 1
  else if coreLayer c = coreLayer d then 4 + 3 * torusHops c d
  else 12 + 3 * torusHops c d + 36 * towerHops (coreTower c) (coreTower d)

/-- Whether RESUME of a record to core `t` traps PROT (R298). -/
def State.resumeBad (s : State) (f : List Word) (t : Nat) : Bool :=
  let b := bankOfFcr f
  let lid := s.mine.lid?.getD 0
  let i := s.inst b.home b.inst
  decide (8191 < t) || b.lid != lid || (s.core t).lid? != some lid || (s.core b.home).lid? != some lid ||
  coreQuad t != coreQuad b.home || !((i.map (·.placed)).getD false) || (i.map (·.act)) != some b.act ||
  (b.anch && decide (t ≠ b.home)) || (b.svc && !isSvc s.here) || (i.map (·.inflight)).getD false
/-- Ship a record to a core as a resume entry; its instance is enabled, waits no longer, and is in flight (R298). -/
def State.shipResume (s : State) (f : List Word) (t : Nat) : State :=
  let b := bankOfFcr f
  let tr : Transit :=
    { id := s.nextId, fcr := f, core := t, lid := b.lid, home := b.home, inst := b.inst,
      prio := if bitOf (fcrWord f 0) 44 then .high else .low, arrived := false, dropped := none }
  ((({ s with transit := s.transit ++ [tr] }.bumpId).enqueue (s.tick + oneWay s.here t) t tr.prio tr.id .fcrArrive).modLaunch
    b.lid fun l => { l with resumed := if isGrain l f then l.resumed ++ [(b.home, b.inst, b.sidx)] else l.resumed,
                            faultOff := l.faultOff && faultActor l != some (b.home, b.inst) }).modInst
    b.home b.inst fun i => { i with disabled := false, waitIn := false, inflight := true }
/-- A read of the bundle that met poison or bad parity traps (R29, R404). -/
def State.badRead (s : State) (a : Answer) (pa : Nat) : State :=
  match a with
  | .parity row => (s.countUncorr 6).trapHere 0x0E (BitVec.ofNat 48 row) 0
  | _ => s.trapHere 0x14 0 (BitVec.ofNat 64 (wordOf pa))
/-- The first of `n` words from an address whose physical target traps (R127, R298). -/
def State.wordsTrap (s : State) (va pa n : Nat) : Option (BitVec 8 × Word) :=
  (List.range n).findSome? fun i => targetTrap s (reqLoad (BitVec.ofNat 64 (va + 8 * i)) 8) (pa + 8 * i)
/-- Loads of `n` words from an address leave, for the bundle to collect. -/
def State.loadWords (s : State) (e : TlbEntry) (va : Word) (pa n : Nat) : State :=
  (List.range n).foldl (fun st i =>
    st.depart { (st.accessFor e (pa + 8 * i) (.load .d) (va + BitVec.ofNat 64 (8 * i))) with grp := true }) s
/-- The accesses of a bundle that collects words, in order. -/
def State.grouped (s : State) (first n : Nat) : List Access :=
  s.accesses.filter fun a => a.grp && decide (first ≤ a.id) && decide (a.id < first + n)
/-- The answers that a bundle has collected, once all have come back; where one is bad, the first such with its address. -/
def collected (l : List Access) : Option (Except (Answer × Nat) (List Word)) :=
  if l.any fun a => a.back.isNone then none
  else match l.find? fun a => match a.back with | some (.done _) => false | _ => true with
    | some a => some (.error (a.back.getD .poisoned, a.pa))
    | none => some (.ok (l.map fun a => match a.back with | some (.done w) => w | _ => 0))
/-- The words that a bundle has collected are used. -/
def State.dropRead (s : State) (first n : Nat) : State :=
  { s with accesses := s.accesses.filter fun a => !(a.grp && decide (first ≤ a.id) && decide (a.id < first + n)) }
/-- Words that a bundle reads from memory by ordinary loads: its pages and every word's target are checked, then the loads leave
together, and the bundle is held until the last has come back (R298, R399). `n` words at `va`; `k` does what follows, and says
whether the bundle is over with it. -/
def State.readWords (s : State) (va : Word) (n : Nat) (k : State → List Word → Bool × State) : State :=
  match s.me.op with
  | .gather first m =>
    match collected (s.grouped first m) with
    | none => s.holdOp
    | some (.error (a, p)) => s.badRead a p
    | some (.ok l) =>
      if (k s l).1 then (k s l).2.dropRead first m else (k s l).2
  | _ =>
    s.withPage (reqLoad va 8) fun s e pa =>
      let n1 := min n ((e.bytes - va.toNat % e.bytes) / 8)
      let va2 := va + BitVec.ofNat 64 (8 * n1)
      let start (s : State) : State := s.modMe fun b => { b with op := .gather s.nextId n }
      if s.unreachable pa then s.noRoute pa
      else match s.wordsTrap va.toNat pa n1 with
        | some t => s.trapHere t.1 0 t.2
        | none =>
          if n1 = n then ((start s).loadWords e va pa n).holdOp
          else s.withPage (reqLoad va2 8) fun s e2 pa2 =>
            if s.unreachable pa2 then s.noRoute pa2
            else match s.wordsTrap va2.toNat pa2 (n - n1) with
              | some t => s.trapHere t.1 0 t.2
              | none => (((start s).loadWords e va pa n1).loadWords e2 va2 pa2 (n - n1)).holdOp
/-- `RESUME`: reads a record, checks it, releases at pkg scope and ships it (R298). -/
def execResume (a b : Reg) (s : State) : Out :=
  .next (s.readWords (s.rd a) 64 fun s f =>
    if s.resumeBad f (s.rd b).toNat then (false, s.trapHere 0x04 0 (s.rd a))
    else if s.released .pkg then (true, (s.shipResume f (s.rd b).toNat).issue)
    else (false, s.holdOp))

/-! ### Translation instructions of service cores (R299) -/

/-- The entry of two words, or none where R137 rejects it. -/
def tlbwEntry (w0 w1 : Word) : Option TlbEntry :=
  let e : TlbEntry :=
    { space := w0.setWidth 10, size := (w0 >>> 10).setWidth 2, vpn := (w0 >>> 16).setWidth 40, pfn := (w1 >>> 16).setWidth 40,
      attr := w1.setWidth 9, host := inHost (field w1 55 16 * 2 ^ 16) }
  if field w0 15 12 = 0 ∧ field w0 63 56 = 0 ∧ field w1 15 9 = 0 ∧ field w1 63 56 = 0 ∧ e.legal = true then some e else none
/-- A firing that waits in the translation service for a page that a word 0 names continues: with its entry, or with PAGE
where none was installed (R299). -/
def Bank.answerPage (b : Bank) (w0 : Word) (installed : Bool) : Bank :=
  match b.xl with
  | .waiting va _ _ =>
    let n := 2 ^ pageBits ((w0 >>> 10).setWidth 2)
    if va.toNat / n = field w0 55 16 * 2 ^ 16 / n then { b with xl := if installed then .none else .fault va } else b
  | _ => b
/-- Write an entry for a core and answer its waiting accesses. -/
def State.tlbWrite (s : State) (c : Nat) (w0 w1 : Word) : State :=
  let s1 := match tlbwEntry w0 w1 with
    | some e => s.install c e
    | none => s
  if (s.core c).space = w0.setWidth 10 then
    s1.modCore c fun k =>
      { k with low := k.low.answerPage w0 (tlbwEntry w0 w1).isSome, high := k.high.answerPage w0 (tlbwEntry w0 w1).isSome }
  else s1
/-- `TLBW` (R299). -/
def execTlbw (d a b : Reg) (s : State) : Out :=
  if isSvc s.here then
    let c := (s.rd d).toNat
    .next (if c < 8192 ∧ coreLayer c = coreLayer s.here then s.tlbWrite c (s.rd a) (s.rd b) else s).issue
  else .next (s.trapHere 0x02 0 0)

/-- The selection of TLBI and TLBS: word 0 of an entry with ALLV in bit 12 and ALLS in bit 13 (R299). -/
def shootOf (id : Nat) (w : Word) (cores : List Nat) (src : Nat) (p : Prio) : Shoot :=
  { id := id, space := w.setWidth 10, size := (w >>> 10).setWidth 2, vpn := (w >>> 16).setWidth 40, allv := bitOf w 12,
    alls := bitOf w 13, left := cores, done := false, src := src, issuer := some p }
/-- The tick at which the latest shoot-down on its way from a service core to a core arrives: they keep their order (R193). -/
def State.shootsUntil (s : State) (src c : Nat) : Nat :=
  (s.queue.filter fun e => decide (e.ev = .shootdownArrive) && e.core == c &&
    (s.shoots.any fun x => x.id == e.num && x.src == src)).foldl (fun t e => max t e.due) 0
/-- A shoot-down leaves for its cores, and reaches each after its own time, behind those that left its service core before (R141,
R193). -/
def State.shootAt (s : State) (x : Shoot) : List Nat → State
  | [] => s
  | c :: r => ((s.delayed).enqueue (max (s.tick + s.delay 20) (s.shootsUntil x.src c)) c .low x.id .shootdownArrive).shootAt x r
/-- Start a shoot-down; with no core to reach it completes in a tick. -/
def State.startShoot (s : State) (x : Shoot) : State :=
  let s1 := ({ s with shoots := s.shoots ++ [x] }).bumpId
  if x.left.isEmpty then s1.later 1 x.id .shootdownComplete else s1.shootAt x x.left
/-- The issuing bundle holds until its shoot-down has completed; one that is issued again starts another (R210, R299). -/
def State.shootIns (s : State) (w : Word) (cores : List Nat) : Out :=
  if isSvc s.here then
    match s.me.op with
    | .shoot id =>
      .next <| if s.shoots.any fun x => x.id == id && !x.done then s.holdOp
        else { s with shoots := s.shoots.filter fun y => y.id != id }.issue
    | _ => .next ((s.modMe fun b => { b with op := .shoot s.nextId }).startShoot
        (shootOf s.nextId w cores s.here s.mine.cur)).holdOp
  else .next (s.trapHere 0x02 0 0)
/-- Whether the bundle that started a shoot-down does not hold for it any more. -/
def State.orphan (s : State) (x : Shoot) : Bool :=
  match x.issuer with
  | some p => decide ((s.bank x.src p).op ≠ .shoot x.id)
  | none => false
/-- Cores of a compute layer, its service cores among them. -/
def layerCores (i : Nat) : List Nat := (List.range 256).map (fun j => i * 256 + j) ++ (List.range 4).map fun j => 8192 + 4 * i + j
/-- `TLBI`: the TLBs of the issuing core's own layer (R299). -/
def execTlbi (a : Reg) (s : State) : Out := s.shootIns (s.rd a) (layerCores (coreLayer s.here))
/-- The cores of a package shoot-down: those the launch of a space holds, or every compute core (R299). -/
def State.shootCores (s : State) (w : Word) : List Nat :=
  if bitOf w 13 then List.range 8192
  else match s.launches.find? fun l => l.space == w.setWidth 10 with
    | some l => l.cores
    | none => []
/-- `TLBS`: the package shoot-down (R141, R299). -/
def execTlbs (a : Reg) (s : State) : Out := s.shootIns (s.rd a) (s.shootCores (s.rd a))
/-- Whether an access in flight was translated through an entry that a selection covers (R141). -/
def State.usesPage (s : State) (c : Nat) (x : Shoot) : Bool :=
  s.accesses.any fun a => a.core == c && (a.remote || a.ans.isNone) && x.covers a.ent
/-- The entries of a quad's TLB that a selection covers go, while one of its cores is awake (R141, R142). -/
def State.invalidateQuad (s : State) (c : Nat) (x : Shoot) : State :=
  if isSvc c || (quadCores c).all s.sleeps then s
  else { s with quadTlb := s.quadTlb.filter fun y => !(y.1 == coreQuad c && x.covers y.2) }
/-- A shoot-down's acknowledgement comes in. -/
def State.shootAck (s : State) (id c : Nat) : State :=
  let f (x : Shoot) : Shoot := if x.id == id then { x with left := x.left.filter fun d => d != c } else x
  let s1 := { s with shoots := s.shoots.map f }
  match s1.shoots.find? fun x => x.id == id with
  | some x => if x.left.isEmpty then (s1.delayed).later (s1.delay 20) id .shootdownComplete else s1
  | none => s1
/-- `SHOOTDOWN_ARRIVE`: a sleeping core counts as acknowledged; any other invalidates, and acknowledges once every access it
translated through the page is performed (R141, R142). -/
def execShootdownArrive (s : State) : Out :=
  .next <| match s.shoots.find? fun x => x.id == s.evNum with
  | none => s
  | some x =>
    if s.sleeps s.here then (s.invalidateQuad s.here x).shootAck x.id s.here
    else
      let s1 := s.invalidate s.here x
      if s1.usesPage s.here x then s1.enqueue (s.tick + 1) s.here .low x.id .shootdownArrive else s1.shootAck x.id s.here
/-- A shoot-down that no core has still to acknowledge is complete; it is forgotten where no bundle holds for it. -/
def State.endShoot (s : State) (id : Nat) : State :=
  let f (x : Shoot) : Shoot := if x.id == id && x.left.isEmpty then { x with done := true } else x
  { s with shoots := (s.shoots.map f).filter fun x => !(x.done && s.orphan x) }
end Sys2Proof.Machine
end

