-- ==== Sys2Proof/Machine/Arrays.lean ====
section
/-!
DEFINITION. The associative array: rows, compares and writes, tags, reductions, built-in and user sequences, and how
passes run, stop and go on (22_associative_arrays R383 to R404).
-/
namespace Sys2Proof.Machine

/-! ### Rows, fields, tags (R383 to R385) -/

/-- Rows of an array on this part (R383). -/
def arrayRows : Nat := 4096
/-- Width of a field. -/
def fieldW (f : Field) : Nat := f.wm1.toNat + 1
/-- A field of a row, as a natural number. -/
def Row.get (r : Row) (o w : Nat) : Nat := r.bits.toNat / 2 ^ o % 2 ^ w
/-- A row with a field replaced. -/
def Row.put (r : Row) (o w v : Nat) : Row := { r with bits := BitVec.ofNat 512 (putBits r.bits.toNat o w v) }
/-- A tag of a row. -/
def Row.tag (r : Row) (t : Tag) : Bool := r.tags.getLsbD t.val
/-- A row with a tag replaced. -/
def Row.setTag (r : Row) (t : Tag) (v : Bool) : Row := { r with tags := BitVec.ofNat 8 (putBits r.tags.toNat t.val 1 (bitN v)) }
/-- Whether a mask selects a row (R385). -/
def Row.sel (r : Row) (m : Option Tag) : Bool := match m with | none => true | some t => r.tag t
/-- A pass over every row: all reads before all writes (R385). -/
def Core.mapRows (k : Core) (f : Nat → Row → Row) : Core :=
  { k with rows := (List.range arrayRows).filterMap fun n =>
      let r := f n (k.row n)
      if r = Row.reset then none else some (n, r) }
/-- A row index, modulo ROWS (R383). -/
def rowIx (w : Word) : Nat := w.toNat % arrayRows
/-- A number of `w` bits read in two's complement (R218). -/
def asInt (w v : Nat) : Int := if v % 2 ^ w < 2 ^ (w - 1) then (v % 2 ^ w : Nat) else (v % 2 ^ w : Nat) - (2 ^ w : Nat)
/-- The pattern of an integer in `w` bits. -/
def ofInt (w : Nat) (i : Int) : Nat := (i % (2 ^ w : Nat)).toNat

/-! ### Parity (R404) -/

/-- The segments that hold a bit of one of some fields (offset, width). -/
def segsOf (l : List (Nat × Nat)) : List Nat :=
  (List.range 8).filter fun i => l.any fun f => decide (f.1 < 64 * (i + 1)) && decide (64 * i < f.1 + f.2)
/-- The lowest row at which a pass finds bad parity: a tag byte of any row, or a segment of a named field in a selected
row. -/
def Core.badRow (k : Core) (m : Option Tag) (l : List (Nat × Nat)) : Option Nat :=
  ((k.badPar.filter fun x => x % 9 == 8 || (segsOf l).contains (x % 9) && (k.row (x / 9)).sel m).map fun x => x / 9).min?
/-- The same for an instruction of one row. -/
def Core.badOne (k : Core) (n : Nat) (l : List (Nat × Nat)) : Option Nat :=
  if k.badPar.any fun x => x / 9 == n && (x % 9 == 8 || (segsOf l).contains (x % 9)) then some n else none
/-- A pass that finds an error has no effect and traps AA_PARITY. -/
def State.parityTrap (s : State) (row : Nat) : State := (s.countUncorr 6).trapHere 0x0E (BitVec.ofNat 48 row) 0

/-! ### When a pass may be made (R204, R386, R387) -/

/-- A high firing meets the suspended low firing inside a sequence (R387). -/
def Core.nested (k : Core) : Bool := k.cur == .high && k.low.run == .suspended && k.low.inSequence
/-- Whether an earlier access of the issuing firing to its own array window is not performed (R204). -/
def State.windowWaits (s : State) : Bool :=
  s.accesses.any fun a => s.own a && a.ans.isNone && (match placeOf (offOf a.pa) with | .array c _ => c == s.here | _ => false)
/-- Whether the issuing firing may make its first pass in this tick (R386). -/
def State.mayPass (s : State) : Bool := s.mine.arrayFree s.mine.cur && !s.windowWaits
/-- An array instruction issues, and its firing is anchored (R115, R387). -/
def State.issueArray (s : State) : State := s.anchor.issue
/-- An array instruction of one pass: what it finds wrong, and what it does. -/
def State.onePass (s : State) (bad : Core → Option Nat) (f : State → State) : Out :=
  .next <|
  if s.mine.nested then s.trapHere 0x0D 0 0
  else if !s.mayPass then s.hold
  else
    match bad s.mine with
    | some row => s.parityTrap row
    | none => (f s).issueArray

/-! ### Instructions of one pass (R388 to R392, R394, R395) -/

/-- How ACMP combines a result into a tag (R388). -/
def tagOp (op : TagOp) (old m : Bool) : Bool :=
  match op with | .set => m | .and => old && m | .or => old || m | .andn => old && !m
/-- The key of ACMP (R388). -/
def State.acmpKey (s : State) : KeySrc → Nat | .reg a => (s.rd a).toNat | .imm k => k.toNat
/-- `ACMP` (R388). -/
def execAcmp (dt : Tag) (mask : Option Tag) (op : TagOp) (key : KeySrc) (f : Field) (s : State) : Out :=
  let o := f.off.toNat
  let w := fieldW f
  let key := s.acmpKey key % 2 ^ w
  s.onePass (·.badRow mask [(o, w)]) fun s => s.modMine fun k =>
    k.mapRows fun _ r => r.setTag dt (tagOp op (r.tag dt) (r.sel mask && r.get o w == key))
/-- A value goes into a field of every selected row (R389). -/
def State.writeRows (s : State) (mask : Option Tag) (f : Field) (v : Nat) : Out :=
  let o := f.off.toNat
  let w := fieldW f
  s.onePass (·.badRow mask [(o, w)]) fun s => s.modMine fun k =>
    k.mapRows fun _ r => if r.sel mask then r.put o w v else r
/-- `AWRT` (R389). -/
def execAwrt (mask : Option Tag) (f : Field) (v : BitVec 17) (s : State) : Out := s.writeRows mask f v.toNat
/-- `ASCW` (R389). -/
def execAscw (mask : Option Tag) (a : Reg) (f : Field) (s : State) : Out := s.writeRows mask f (s.rd a).toNat
/-- `ABND` (R390). -/
def execAbnd (dt : Tag) (a b : Reg) (s : State) : Out :=
  let l := (s.rd a - s.rd b).toInt
  s.onePass (·.badRow none []) fun s => s.modMine fun k => k.mapRows fun n r => r.setTag dt (decide ((n : Int) < l))
/-- Two tags combined by a function of four bits (R391). -/
def tagFn (fn : BitVec 4) (a b : Bool) : Bool := fn.getLsbD (2 * bitN a + bitN b)
/-- `ATAG` (R391). -/
def execAtag (dt ta tb : Tag) (fn : BitVec 4) (s : State) : Out :=
  s.onePass (·.badRow none []) fun s => s.modMine fun k => k.mapRows fun _ r => r.setTag dt (tagFn fn (r.tag ta) (r.tag tb))
/-- The lowest row with a tag set. -/
def Core.firstTag (k : Core) (t : Tag) : Option Nat := (List.range arrayRows).find? fun n => (k.row n).tag t
/-- `AFST` (R392). -/
def execAfst (d : Reg) (ta : Tag) (clr : Bool) (s : State) : Out :=
  s.onePass (·.badRow none []) fun s =>
    match s.mine.firstTag ta with
    | none => s.wrC 1 d (BitVec.allOnes 64)
    | some n =>
      (if clr then s.modMine fun k => k.setRow n ((k.row n).setTag ta false) else s).wrC 1 d (BitVec.ofNat 64 n)
/-- A field value as a register holds it (R394). -/
def fieldWord (sg : Bool) (w v : Nat) : Word := if sg then BitVec.ofInt 64 (asInt w v) else BitVec.ofNat 64 v
/-- `ARD` (R394). -/
def execArd (d a : Reg) (sg : Bool) (f : Field) (s : State) : Out :=
  let n := rowIx (s.rd a)
  let o := f.off.toNat
  let w := fieldW f
  s.onePass (·.badOne n [(o, w)]) fun s => s.wrC 1 d (fieldWord sg w ((s.mine.row n).get o w))
/-- `AWR` (R394). -/
def execAwr (a b : Reg) (f : Field) (s : State) : Out :=
  let n := rowIx (s.rd a)
  let o := f.off.toNat
  let w := fieldW f
  let v := (s.rd b).toNat
  s.onePass (·.badOne n [(o, w)]) fun s => s.modMine fun k => k.setRow n ((k.row n).put o w v)
/-- `ARWS` (R395). -/
def execArws (d : Reg) (s : State) : Out := s.onePass (·.badRow none []) fun s => s.wrC 1 d (BitVec.ofNat 64 arrayRows)

/-! ### Instructions of several passes (R386, R402) -/

/-- Whether word 10 belongs to a sequence of a code (R402). -/
def Bank.hasPass (b : Bank) (code : Nat) : Bool := bitOf b.pass 24 && field b.pass 23 16 == code
/-- The pass at which a sequence of a code begins, from word 10 (R402). -/
def Bank.savedPass (b : Bank) (code : Option Nat) : Nat :=
  match code with
  | some c => if b.hasPass c then field b.pass 15 0 else 0
  | none => 0
/-- A pass of a sequence finds bad parity: word 10 holds the passes before it (R404). -/
def State.passTrap (s : State) (done : Nat) (code : Option Nat) (row : Nat) : State :=
  (match code with
   | some c => s.modMe fun b => { b with pass := passWord done c }
   | none => s).parityTrap row
/-- The pass after `d` others: the last one of `p` takes effect and issues the bundle; after any other the array runs on, and
its last pass comes by an event. -/
def State.beginPasses (s : State) (p d : Nat) (code : Option Nat) (stamp : Word) (bad : Core → Option Nat)
    (last : State → State) : State :=
  match bad s.mine with
  | some row => s.passTrap d code row
  | none =>
    if p ≤ d + 1 then (last s).issueArray
    else
      ((s.modMe fun b => { b with op := .array d code (some s.tick) false stamp, pass := 0 }).enqueueFirst
        (s.tick + (p - d) - 1) s.here s.mine.cur s.tick .arrayLastPass).hold
/-- Whether an array command that began meanwhile keeps a sequence at its pass boundary. -/
def Core.outside (k : Core) : Bool := (match k.apply with | some (_, _, e) => e.isSome | none => false) || k.narrowing
/-- Whether the issuing firing's instruction of several passes may begin, or go on from word 10: a sequence with passes left comes
before the applications that wait for it (R386, R402, R419). -/
def State.mayBegin (s : State) (code : Option Nat) : Bool :=
  if code.any s.me.hasPass then !s.mine.outside && !s.windowWaits else s.mayPass
/-- An instruction of `p` passes that has not begun: it begins at once where the array is free. -/
def State.firstPass (s : State) (p : Nat) (code : Option Nat) (bad : Core → Option Nat) (last : State → State)
    (wait : State → State) : State :=
  if s.mine.nested then s.trapHere 0x0D 0 0
  else if !s.mayBegin code then wait s
  else (s.modMe fun b => { b with pass := 0 }).beginPasses p (s.me.savedPass code) code 0 bad last
/-- An instruction of `p` passes in one tick. Its effect on the rows is that of all passes, made with the last one (log
entry 23); `wait` is how it waits for the array. -/
def State.passes (s : State) (p : Nat) (code : Option Nat) (bad : Core → Option Nat) (last : State → State)
    (wait : State → State) : Out :=
  .next <|
  match s.me.op with
  | .array d _ (some st) fin _ =>
    match bad s.mine with
    | some row => s.passTrap (d + (s.tick - st)) code row
    | none => if fin then (last s).issueArray else s.hold
  | .array d _ none _ _ => if s.mine.outside then s.hold else s.beginPasses p d code 0 bad last
  | _ => s.firstPass p code bad last wait

/-- The rows with a tag set. -/
def Core.countTag (k : Core) (t : Tag) : Nat := (k.rows.filter fun x => x.2.tag t).length
/-- `ACNT` (R392). -/
def execAcnt (d : Reg) (ta : Tag) (s : State) : Out :=
  s.passes 3 none (·.badRow none []) (fun s => s.wrC 1 d (BitVec.ofNat 64 (s.mine.countTag ta))) State.hold
/-- The sum of a field over the selected rows (R393). -/
def Core.sumRows (k : Core) (mask : Option Tag) (sg : Bool) (o w : Nat) : Int :=
  ((k.rows.filter fun x => x.2.sel mask).map fun x => if sg then asInt w (x.2.get o w) else (x.2.get o w : Int)).sum
/-- `ARSUM` (R393). -/
def execArsum (d : Reg) (mask : Option Tag) (sg : Bool) (f : Field) (s : State) : Out :=
  let o := f.off.toNat
  let w := fieldW f
  s.passes (2 * w + 1) none (·.badRow mask [(o, w)])
    (fun s => s.wrC 1 d (BitVec.ofInt 64 (s.mine.sumRows mask sg o w))) State.hold

/-! ### Built-in sequences (R396 to R398) -/

/-- CODE of a sequence (R397). -/
def seqCode : SeqCode → Nat
  | .mov => 0 | .add => 1 | .sub => 2 | .adds => 3 | .subs => 4 | .muln => 5 | .muli => 6 | .muls => 7 | .neg => 8
  | .abs => 9 | .min => 10 | .max => 11 | .shr => 12 | .sar => 13 | .shl => 14 | .satn => 15 | .clt => 16 | .ceq => 17
  | .cltn => 18 | .f16add => 19 | .f16mul => 20 | .f16muls => 21 | .f16fri => 22 | .f16toi => 23
/-- Passes of a sequence (R397); `s` is the scalar. -/
def seqPasses (c : SeqCode) (w1 w2 : Nat) (s : Word) : Nat :=
  match c with
  | .mov | .shr | .sar | .shl => 2 * w1 + 1
  | .add | .sub => 8 * w1 + 2
  | .adds | .subs | .neg => 4 * w1 + 2
  | .muln => w2 * (8 * w1 + 2) + 1
  | .muli => w2 * (8 * w1 + 2) + 2 * (w1 + w2) + 1
  | .muls => popNat 64 (s.toNat % 2 ^ w2) * (8 * w1 + 2) + 1
  | .abs | .min | .max => 6 * w1 + 3
  | .satn => 2 * w1 + 2
  | .clt | .ceq | .cltn => 4 * w1 + 1
  | .f16add => 640
  | .f16mul | .f16muls => 1220
  | .f16fri | .f16toi => 260
/-- Widths of the fields d, a and b; 0 for one that a code does not use (R397). -/
def seqWidths (c : SeqCode) (w1 w2 : Nat) : Nat × Nat × Nat :=
  match c with
  | .mov | .add | .sub | .neg | .abs | .min | .max | .shr | .sar | .shl => (w1, w1, 0)
  | .adds | .subs => (w1, 0, 0)
  | .muln | .muli => (w1 + w2, w1, w2)
  | .muls => (w1 + w2, w1, 0)
  | .satn => (w2, w1, 0)
  | .clt | .ceq | .cltn => (0, w1, w1)
  | .f16add | .f16mul => (16, 16, 16)
  | .f16muls => (16, 16, 0)
  | .f16fri => (16, w1, 0)
  | .f16toi => (w1, 16, 0)
/-- Whether a code uses the scratch field above the 16-bit slot at DOFF (R398). -/
def seqScratch : SeqCode → Bool | .f16add | .f16mul | .f16muls | .f16fri | .f16toi => true | _ => false
/-- The FP16 value of a pattern. -/
def f16Of (v : Nat) : Val := FpFmt.fp16.decode (v % 65536)
/-- An FP16 result of two operands, and whether finite operands gave a NaN or an infinity (R398). -/
def f16Result (x y : Val) (r : Option Val) : Nat × Bool :=
  let v := if x.isNan || y.isNan then FpFmt.fp16.nan else match r with
    | none => FpFmt.fp16.nan
    | some z => fp16RNE z
  (v, x.isFin && y.isFin && !(f16Of v).isFin)
/-- F16TOI (R398). -/
def f16ToInt (w : Nat) (x : Val) : Nat × Bool :=
  let lo : Int := -(2 ^ (w - 1) : Nat)
  let hi : Int := (2 ^ (w - 1) : Nat) - 1
  match x with
  | .nan _ => (0, true)
  | .inf neg => (ofInt w (if neg then lo else hi), true)
  | .fin neg n d =>
    let r := signedNum neg (roundRNE n d)
    (ofInt w (min (max r lo) hi), decide (r < lo) || decide (hi < r))
/-- Effect of a sequence on one selected row: the value of d, from the fields d, a, b and the scalar, and the indicator
(R397, R398). -/
def seqRow (c : SeqCode) (w1 w2 : Nat) (s : Word) (d a b : Nat) : Nat × Bool :=
  let m := 2 ^ w1
  let sw := s.toNat % m
  let k := s.toNat
  match c with
  | .mov => (a, false)
  | .add => ((d + a) % m, decide (m ≤ d + a))
  | .sub => ((d + m - a) % m, decide (d < a))
  | .adds => ((d + sw) % m, decide (m ≤ d + sw))
  | .subs => ((d + m - sw) % m, decide (d < sw))
  | .muln => (a * b, false)
  | .muli => (ofInt (w1 + w2) (asInt w1 a * asInt w2 b), false)
  | .muls => (a * (k % 2 ^ w2), false)
  | .neg => ((m - a) % m, a == 2 ^ (w1 - 1))
  | .abs => (ofInt w1 (asInt w1 a).natAbs, a == 2 ^ (w1 - 1))
  | .min => (if asInt w1 a < asInt w1 d then a else d, decide (asInt w1 a < asInt w1 d))
  | .max => (if asInt w1 d < asInt w1 a then a else d, decide (asInt w1 d < asInt w1 a))
  | .shr => if w1 ≤ k then (0, a != 0) else (a / 2 ^ k, a % 2 ^ k != 0)
  | .sar =>
    let sg := decide (asInt w1 a < 0)
    let all := if sg then m - 1 else 0
    if w1 ≤ k then (all, a != all) else (ofInt w1 (asInt w1 a / (2 ^ k : Nat)), a % 2 ^ k != all % 2 ^ k)
  | .shl => if w1 ≤ k then (0, a != 0) else (a * 2 ^ k % m, a / 2 ^ (w1 - k) != 0)
  | .satn => (min a (2 ^ w2 - 1), decide (2 ^ w2 - 1 < a))
  | .clt => (0, decide (asInt w1 a < asInt w1 b))
  | .ceq => (0, a == b)
  | .cltn => (0, decide (a < b))
  | .f16add => f16Result (f16Of a) (f16Of b) ((f16Of a).add .rne (f16Of b))
  | .f16mul => f16Result (f16Of a) (f16Of b) ((f16Of a).mul (f16Of b))
  | .f16muls => f16Result (f16Of a) (f16Of k) ((f16Of a).mul (f16Of k))
  | .f16fri =>
    let r := FpFmt.fp16.round .rne (Val.ofInt (asInt w1 a))
    (r.1, r.2 &&& fNX != 0)
  | .f16toi => f16ToInt w1 (f16Of a)
/-- A sequence over every row: d and the scratch field of selected rows, the indicator tag of all (R385, R397, R398). -/
def Core.seqRows (k : Core) (c : SeqCode) (mask : Option Tag) (dt : Tag) (w1 w2 : Nat) (s : Word) (doff aoff boff : Nat) : Core :=
  let ws := seqWidths c w1 w2
  k.mapRows fun _ r =>
    if r.sel mask then
      let x := seqRow c w1 w2 s (r.get doff ws.1) (r.get aoff ws.2.1) (r.get boff ws.2.2)
      let r1 := if seqScratch c then r.put (doff + 16) 32 0 else r
      (r1.put doff ws.1 x.1).setTag dt x.2
    else r.setTag dt false
/-- The fields that a sequence names, its scratch field among them (R404). -/
def seqFields (c : SeqCode) (w1 w2 doff aoff boff : Nat) : List (Nat × Nat) :=
  let ws := seqWidths c w1 w2
  ([(doff, ws.1), (aoff, ws.2.1), (boff, ws.2.2)].filter fun f => f.2 != 0) ++
    if seqScratch c then [(doff + 16, 32)] else []
/-- `ASEQ` (R396 to R398). -/
def execAseq (code : SeqCode) (mask : Option Tag) (dt : Tag) (sr : Reg) (w1m1 w2m1 : BitVec 4) (doff aoff boff : BitVec 9)
    (s : State) : Out :=
  let w1 := w1m1.toNat + 1
  let w2 := w2m1.toNat + 1
  let v := s.rd sr
  s.passes (seqPasses code w1 w2 v) (some (seqCode code))
    (·.badRow mask (seqFields code w1 w2 doff.toNat aoff.toNat boff.toNat))
    (fun s => s.modMine fun k => k.seqRows code mask dt w1 w2 v doff.toNat aoff.toNat boff.toNat) State.hold

/-! ### User sequences (R399 to R401) -/

/-- A pass word; STOP where none is loaded (R399). -/
def Core.seqWord (k : Core) (i : Nat) : Word := Sparse.get (fun _ => 0xC000000000000000) k.seq i
/-- The store from 256 words. -/
def seqStore (l : List Word) : List (Nat × Word) :=
  (l.zipIdx.map fun x => (x.2, x.1)).filter fun x => x.2 != 0xC000000000000000
/-- The bit that a selector names; none for an unused one (R400). -/
def selBit (doff aoff boff : Nat) (sel : Nat) : Option Nat :=
  match sel / 64 with
  | 0 => some (doff + sel % 64)
  | 1 => some (aoff + sel % 64)
  | 2 => some (boff + sel % 64)
  | _ => none
/-- The used selectors of a pass word: number and bit. -/
def selectors (w : Word) (doff aoff boff : Nat) : List (Nat × Nat) :=
  (List.range 4).filterMap fun i => (selBit doff aoff boff (field w (8 * i + 7) (8 * i))).map fun b => (i, b)
/-- A tag number in a pass word. -/
def tagAt (w : Word) (lo : Nat) : Tag := ⟨field w (lo + 2) lo % 8, Nat.mod_lt _ (by decide)⟩
/-- The mask of a pass word. -/
def passMask (w : Word) : Option Tag := if bitOf w 53 then none else some (tagAt w 54)
/-- OP of a CMP word. -/
def passOp (w : Word) : TagOp :=
  match field w 58 57 with | 0 => .set | 1 => .and | 2 => .or | _ => .andn
/-- One user pass on one row (R400); of two selectors that write one bit, the higher is kept (log entry 22). -/
def passRow (w : Word) (doff aoff boff : Nat) (r : Row) : Row :=
  let sels := selectors w doff aoff boff
  match field w 63 62 with
  | 0 =>
    let m := r.sel (passMask w) && sels.all fun x => r.bits.getLsbD x.2 == bitOf w (49 + x.1)
    r.setTag (tagAt w 59) (tagOp (passOp w) (r.tag (tagAt w 59)) m)
  | 1 =>
    if r.sel (passMask w) then
      sels.foldl (fun r x => if x.2 < 512 then r.put x.2 1 (bitN (bitOf w (49 + x.1))) else r) r
    else r
  | 2 => r.setTag (tagAt w 59) (tagFn ((w >>> 55).setWidth 4) (r.tag (tagAt w 52)) (r.tag (tagAt w 49)))
  | _ => r
/-- Whether a user sequence ends with an entry (R401). -/
def passEnds (w : Word) (entry : Nat) : Bool := field w 63 62 == 3 || decide (255 ≤ entry)
/-- One pass of AUSQ, after `i` others. -/
def State.userPass (s : State) (start doff aoff boff i : Nat) (op : Op) : State :=
  match s.mine.badRow none [(doff, 64), (aoff, 64), (boff, 64)] with
  | some row => s.passTrap i (some 0x40) row
  | none =>
    let w := s.mine.seqWord (start + i)
    let s1 := s.modMine fun k => k.mapRows fun _ r => passRow w doff aoff boff r
    if passEnds w (start + i) then s1.issueArray else (s1.modMe fun b => { b with op := op, pass := 0 }).hold
/-- `AUSQ`: one pass word a tick (R401, R402). -/
def execAusq (start : BitVec 8) (doff aoff boff : BitVec 9) (s : State) : Out :=
  let go (i : Nat) (op : Op) : State := s.userPass start.toNat doff.toNat aoff.toNat boff.toNat i op
  .next <|
  match s.me.op with
  | .array d c (some st) f v => go (d + (s.tick - st)) (.array d c (some st) f v)
  | .array d c none f v => if s.mine.outside then s.hold else go d (.array d c (some s.tick) f v)
  | _ =>
    if s.mine.nested then s.trapHere 0x0D 0 0
    else if !s.mayBegin (some 0x40) then s.hold
    else let d := s.me.savedPass (some 0x40); go d (.array d (some 0x40) (some s.tick) false 0)
/-- `ASQL`: 256 words replace the store once all have arrived, in a pass that checks every tag byte (R399, R402, R404). -/
def execAsql (a : Reg) (s : State) : Out :=
  .next <|
  if s.mine.nested then s.trapHere 0x0D 0 0
  else if s.me.op = .idle ∧ s.mayPass = false then s.hold
  else s.readWords (s.rd a) 256 fun s l =>
    match s.mine.badRow none [] with
    | some row => (false, s.parityTrap row)
    | none => (true, (s.modMine fun k => { k with seq := seqStore l, asql := some (s.rd a) }).issueArray)

end Sys2Proof.Machine
end

