-- ==== Sys2Proof/Machine/LoadStore.lean ====
section
/-!
DEFINITION. Memory, full/empty and atomic instructions, PARK, TARM and three of the fences (15_memory_instructions R267 to
R284, 09_full_empty R176 to R181, 10_consistency R194 to R198, 08_memory_hierarchy R165 to R168).
-/
namespace Sys2Proof.Machine

/-! ### Operations that issue at once (R270, R272, R274, R275, R280 to R282) -/

/-- A store towards a package without a route is dropped; the first is remembered (R39). -/
def State.dropStore (s : State) (pa : Nat) : State :=
  s.modMe fun b => { b with dropped := some (b.dropped.getD (BitVec.ofNat 64 (wordOf pa))) }
/-- An access with an answer, behind its checks: it leaves, and the bundle issues. -/
def State.loadGo (s : State) (rq : Req) (op : AccOp) (dst : Option (Reg × Option Nat)) (st : Option Reg) (acq : Bool)
    (rel : Option Scope) : State :=
  s.withPage rq fun s e pa =>
    if s.unreachable pa then s.noRoute pa else (s.launchAccess e pa op rq.va dst st acq rel none).issue
/-- An access without an answer: held while the store buffer is full, else it leaves and the bundle issues (R206). -/
def State.storeGo (s : State) (rq : Req) (op : AccOp) (rel : Option Scope) : State :=
  if 16 ≤ s.storeBuffer s.here then s.hold else
  s.withPage rq fun s e pa =>
    if s.unreachable pa then (match op with | .store .. => (s.dropStore pa).issue | _ => s.noRoute pa)
    else (s.launchAccess e pa op rq.va none none false rel none).issue

/-- How LD and LDA widen (R270). -/
def signed (sz : Size) : Option Nat := some (8 * sz.bytes)
/-- The register of a try form's status (R275). -/
def nextReg (d : Reg) : Reg := ⟨(d.val + 1) % 32, Nat.mod_lt _ (by decide)⟩

/-- `LD` (R270). -/
def execLd (d a : Reg) (sz : Size) (p : BitVec 9) (s : State) : Out :=
  .next (s.loadGo (reqLoad (s.ea a sz.bytes p) sz.bytes) (.load sz) (some (d, signed sz)) none false none)
/-- `LD` lone (R267). -/
def execLdLone (d a : Reg) (sz : Size) (e : W32) (s : State) : Out :=
  .next (s.loadGo (reqLoad (s.eaE a e) sz.bytes) (.load sz) (some (d, signed sz)) none false none)
/-- `LDN` (R270). -/
def execLdn (d a : Reg) (sz : Size) (p : BitVec 9) (s : State) : Out :=
  .next (s.loadGo (reqLoad (s.ea a sz.bytes p) sz.bytes) (.load sz) (some (d, none)) none false none)
/-- `LDN` lone (R267). -/
def execLdnLone (d a : Reg) (sz : Size) (e : W32) (s : State) : Out :=
  .next (s.loadGo (reqLoad (s.eaE a e) sz.bytes) (.load sz) (some (d, none)) none false none)
/-- `ST` (R270). -/
def execSt (d a : Reg) (sz : Size) (p : BitVec 9) (s : State) : Out :=
  .next (s.storeGo (reqStore (s.ea a sz.bytes p) sz.bytes) (.store sz (s.rd d)) none)
/-- `ST` lone (R267). -/
def execStLone (d a : Reg) (sz : Size) (e : W32) (s : State) : Out :=
  .next (s.storeGo (reqStore (s.eaE a e) sz.bytes) (.store sz (s.rd d)) none)
/-- `LDX` (R270). -/
def execLdx (d a b : Reg) (sz : Size) (s : State) : Out :=
  .next (s.loadGo (reqLoad (s.eaX a b) sz.bytes) (.load sz) (some (d, signed sz)) none false none)
/-- `STX` (R270). -/
def execStx (d a b : Reg) (sz : Size) (s : State) : Out :=
  .next (s.storeGo (reqStore (s.eaX a b) sz.bytes) (.store sz (s.rd d)) none)
/-- `LDA`: a load and an acquire (R272); an acquire's scope decides what it synchronises with, not what it waits for. -/
def execLda (d a : Reg) (sz : Size) (_sc : Scope) (p : BitVec 9) (s : State) : Out :=
  .next (s.loadGo (reqLoad (s.ea a sz.bytes p) sz.bytes) (.load sz) (some (d, signed sz)) none true none)
/-- `LDA` lone (R267). -/
def execLdaLone (d a : Reg) (sz : Size) (_sc : Scope) (e : W32) (s : State) : Out :=
  .next (s.loadGo (reqLoad (s.eaE a e) sz.bytes) (.load sz) (some (d, signed sz)) none true none)
/-- `STL`: a store and a release at its scope (R272). -/
def execStl (d a : Reg) (sz : Size) (sc : Scope) (p : BitVec 9) (s : State) : Out :=
  .next (s.storeGo (reqStore (s.ea a sz.bytes p) sz.bytes) (.store sz (s.rd d)) (some sc))
/-- `STL` lone (R267). -/
def execStlLone (d a : Reg) (sz : Size) (sc : Scope) (e : W32) (s : State) : Out :=
  .next (s.storeGo (reqStore (s.eaE a e) sz.bytes) (.store sz (s.rd d)) (some sc))

/-- A prefetch: no trap and no walk. On a readable page whose lines the L1 takes, a line that the L1 does not hold is read, which finds what
errors its blocks hold, and the TLB entry is used; else it is dropped, with no effect (R172, R273). Whether the L1 holds the line is open
(log entry 107). -/
def State.prefetch (s : State) (va : Word) : State :=
  match (if va.toNat < 2 ^ 56 then s.lookup s.here s.mine.space va.toNat else none) with
  | some e =>
    let pa := e.pbase + va.toNat % e.bytes
    if attrR e.attr && s.agentOf e.attr pa == .l1 then
      let key := keyOf (offOf pa) / 128 * 128
      if Config.lineThere s.free then s.bumpFree.issue
      else (((s.bumpFree.useEntry s.here e).meetBlock key).meetBlock (key + 64)).issue
    else s.issue
  | none => s.issue
/-- `PREF` (R273). -/
def execPref (a : Reg) (p : BitVec 9) (s : State) : Out := .next (s.prefetch (s.ea a 1 p))
/-- `PREF` lone (R273). -/
def execPrefLone (a : Reg) (e : W32) (s : State) : Out := .next (s.prefetch (s.eaE a e))

/-- `STF` (R274). -/
def execStf (d a : Reg) (sc : Scope) (p : BitVec 9) (s : State) : Out :=
  .next (s.storeGo (reqFeWrite (s.ea a 8 p)) (.stf (s.rd d)) (some sc))
/-- `STF` lone (R267). -/
def execStfLone (d a : Reg) (sc : Scope) (e : W32) (s : State) : Out :=
  .next (s.storeGo (reqFeWrite (s.eaE a e)) (.stf (s.rd d)) (some sc))
/-- `EMP` (R274). -/
def execEmp (a : Reg) (p : BitVec 9) (s : State) : Out := .next (s.storeGo (reqFeWrite (s.ea a 8 p)) .emp none)
/-- `EMP` lone (R267). -/
def execEmpLone (a : Reg) (e : W32) (s : State) : Out := .next (s.storeGo (reqFeWrite (s.eaE a e)) .emp none)
/-- `FEQ` (R274). -/
def execFeq (d a : Reg) (p : BitVec 9) (s : State) : Out :=
  .next (s.loadGo (reqFeRead (s.ea a 8 p)) .feq (some (d, none)) none false none)
/-- `FEQ` lone (R267). -/
def execFeqLone (d a : Reg) (e : W32) (s : State) : Out :=
  .next (s.loadGo (reqFeRead (s.eaE a e)) .feq (some (d, none)) none false none)
/-- `LDWT`: one attempt, data and status; later accesses wait for the answer (R275). -/
def execLdwt (d a : Reg) (_sc : Scope) (p : BitVec 9) (s : State) : Out :=
  .next (s.loadGo (reqFeRead (s.ea a 8 p)) .ldwt (some (d, none)) (some (nextReg d)) true none)
/-- `LDWT` lone (R267). -/
def execLdwtLone (d a : Reg) (_sc : Scope) (e : W32) (s : State) : Out :=
  .next (s.loadGo (reqFeRead (s.eaE a e)) .ldwt (some (d, none)) (some (nextReg d)) true none)
/-- `LDTT` (R275). -/
def execLdtt (d a : Reg) (_sc : Scope) (p : BitVec 9) (s : State) : Out :=
  .next (s.loadGo (reqFeWrite (s.ea a 8 p)) .ldtt (some (d, none)) (some (nextReg d)) true none)
/-- `LDTT` lone (R267). -/
def execLdttLone (d a : Reg) (_sc : Scope) (e : W32) (s : State) : Out :=
  .next (s.loadGo (reqFeWrite (s.eaE a e)) .ldtt (some (d, none)) (some (nextReg d)) true none)
/-- `STPT`: a release; it writes the status only (R275). -/
def execStpt (d a : Reg) (sc : Scope) (p : BitVec 9) (s : State) : Out :=
  .next (s.loadGo (reqFeWrite (s.ea a 8 p)) (.stpt (s.rd d)) none (some (nextReg d)) true (some sc))
/-- `STPT` lone (R267). -/
def execStptLone (d a : Reg) (sc : Scope) (e : W32) (s : State) : Out :=
  .next (s.loadGo (reqFeWrite (s.eaE a e)) (.stpt (s.rd d)) none (some (nextReg d)) true (some sc))
/-- `CAS`: an acquire and a release at its scope, whether or not it writes (R281). -/
def execCas (d a b : Reg) (sc : Scope) (w : Bool) (s : State) : Out :=
  .next (s.loadGo (reqAtom (s.rd a) (atomBytes w) false) (.cas w (s.rd d) (s.rd b)) (some (d, none)) none true (some sc))
/-- What a RED does at its agent; FADD rounds in the mode in force at issue (R282). -/
def State.redOp (s : State) (op : RedOp) (w : Bool) (v : Word) : AccOp :=
  match op with
  | .int o => .red o w v
  | .fadd r => .redFadd (s.mode r) v
/-- `RED` (R282). -/
def execRed (a b : Reg) (op : RedOp) (sc : Scope) (w : Bool) (s : State) : Out :=
  .next (s.storeGo (reqAtom (s.rd a) (atomBytes w) false) (s.redOp op w (s.rd b)) (some sc))

/-! ### Waiting operations (R178, R179, R276, R433) -/

/-- A waiting operation: its request, what an attempt does, where its value goes, its latency at the own L1, and its
ordering. -/
structure Wait where
  rq  : Req
  op  : AccOp
  dst : Option Reg
  lat : Nat
  acq : Bool
  rel : Option Scope

/-- Whether the attempt after `n` others is the last: a woken firing makes one, others 1 + BUD (R179, R183). -/
def Bank.lastTry (b : Bank) (n : Nat) : Bool := b.woken || (b.rbud != 0xFFFF && decide (b.rbud.toNat ≤ n))
/-- The ticks of an anchored PARK's bound that are left: it observes for (BUD + 1) × 16 ticks; none where it has no bound
(R115, R278). -/
def Bank.parkLeft (b : Bank) : Option Nat :=
  if b.rbud = 0xFFFF then none else some ((b.rbud.toNat + 1) * 16 - b.feHeld)
/-- Whether an operation is the PARK of an anchored firing. -/
def Bank.anchoredPark (b : Bank) : AccOp → Bool | .park _ => b.anch | _ => false
/-- Whether the next attempt is the last; a PARK that may park makes one observation (R278), and one of an anchored firing is
the last at the end of its bound. -/
def State.lastAttempt (s : State) (w : Wait) (n : Nat) : Bool :=
  match w.op with
  | .park _ => if s.me.anch then s.me.parkLeft == some 0 else true
  | _ => s.me.lastTry n
/-- Ticks until the next attempt, where it is made away from the own L1 counted from its answer (R178, R278). -/
def State.restFor (s : State) (w : Wait) : Nat :=
  if s.me.anchoredPark w.op then match s.me.parkLeft with | some k => min 16 k | none => 16 else 16
/-- What a last attempt registers when it fails: only a firing that may park (R180). -/
def State.parkAs (s : State) (w : Wait) (n : Nat) : Option ParkKind :=
  if s.lastAttempt w n && s.me.loose s.mine.cur then some (accParkKind w.op) else none

/-- The answer of the latest attempt decides: success writes the result and issues the bundle; EXPIRED and poison trap; a
failure rests 16 ticks, or, after the last attempt, parks the firing or traps it (R115, R179, R188, R276, R433). -/
def State.settle (s : State) (w : Wait) (n key pa lat : Nat) (a : Answer) : State :=
  match a with
  | .done v | .word v _ =>
    match w.op with
    | .park _ => if lat = 0 then s.issue else (s.modMe fun b => { b with op := .reading (s.tick + lat) }).holdOp
    | _ => (match w.dst with
        | some d => s.wrC lat d v
        | none => s).issue
  | .words _ => s.issue
  | .expired => s.trapHere 0x10 0 0
  | .poisoned => s.trapHere 0x14 0 (BitVec.ofNat 64 (wordOf pa))
  | .parity row => (s.countUncorr 6).trapHere 0x0E (BitVec.ofNat 48 row) 0
  | .notReady =>
    if s.lastAttempt w (n - 1) then s.budgetEnd key pa (accParkKind w.op)
    else
      let due := s.tick + s.restFor w
      ((s.modMe fun b => { b with op := .fe n key pa lat (.resting due) }).enqueue due s.here s.mine.cur 0 .feAttempt).holdOp

/-- One attempt leaves the core; one at the own L1 may be answered in this tick (R178). -/
def State.attempt (s : State) (w : Wait) (n : Nat) : State :=
  s.withPage w.rq fun s e pa =>
    if s.unreachable pa then s.noRoute pa
    else
      let lat := if s.agentOf e.attr pa = .l1 then w.lat else 0
      let s1 := s.modMe fun b => { b with op := .fe (n + 1) (keyOf (offOf pa)) pa lat (.flying s.nextId), lands := none, wasSusp := false, lastOne := s.lastAttempt w n }
      let s2 := s1.launchAccess e pa w.op w.rq.va none none w.acq w.rel (s.parkAs w n)
      match s2.me.op with
      | .fe m key pa' l (.answered a) => s2.settle w m key pa' l a
      | _ => s2.holdOp

/-- A failure that came while the firing was suspended: the next attempt is made as it continues, without a rest; one whose
last attempt failed parks, or, if it has been woken since, makes one attempt as a woken firing does (R113, R433). -/
def State.failedSuspended (s : State) (w : Wait) (n key pa lat : Nat) : State :=
  if s.lastAttempt w (n - 1) then
    match s.registered s.me with
    | some e =>
      if e.st = .parked then s.settle w n key pa lat .notReady
      else ((s.freePark e.id).modMe fun b => { b with woken := true }).attempt w 0
    | none => s.settle w n key pa lat .notReady
  else s.attempt w n

/-- Whether an observation on its way has been made at its agent, and found the bit changed (R278). -/
def State.changed (s : State) (k : Nat) : Bool :=
  s.accesses.any fun a => a.id == k && (match a.ans with | none | some .notReady => false | some _ => true)
/-- A waiting operation in one tick: from where its latest attempt stands. At the end of an anchored PARK's bound an observation
that has not seen the bit change by then is waited for no longer (R278). -/
def State.waitFE (s : State) (w : Wait) : State :=
  match s.me.op with
  | .fe n key pa lat (.answered a) =>
    if s.me.wasSusp && a == .notReady then s.failedSuspended w n key pa lat else s.settle w n key pa lat a
  | .fe n key pa lat .ready =>
    if s.me.anchoredPark w.op && lat == 0 && s.me.parkLeft == some 0 then s.budgetEnd key pa (accParkKind w.op) else s.attempt w n
  | .fe _ key pa _ (.flying k) =>
    if s.me.anchoredPark w.op && s.me.parkLeft == some 0 && !s.changed k then s.budgetEnd key pa (accParkKind w.op) else s.holdOp
  | .fe _ _ _ _ _ => s.holdOp
  | .reading till => if till ≤ s.tick then s.issue else s.holdOp
  | _ => s.attempt w 0

/-- `LDW` (R274, R276). -/
def execLdw (d a : Reg) (_sc : Scope) (p : BitVec 9) (s : State) : Out :=
  .next (s.waitFE ⟨reqFeRead (s.ea a 8 p), .ldw, some d, 4, true, none⟩)
/-- `LDW` lone (R267). -/
def execLdwLone (d a : Reg) (_sc : Scope) (e : W32) (s : State) : Out :=
  .next (s.waitFE ⟨reqFeRead (s.eaE a e), .ldw, some d, 4, true, none⟩)
/-- `LDT` (R274, R276). -/
def execLdt (d a : Reg) (_sc : Scope) (p : BitVec 9) (s : State) : Out :=
  .next (s.waitFE ⟨reqFeWrite (s.ea a 8 p), .ldt, some d, 4, true, none⟩)
/-- `LDT` lone (R267). -/
def execLdtLone (d a : Reg) (_sc : Scope) (e : W32) (s : State) : Out :=
  .next (s.waitFE ⟨reqFeWrite (s.eaE a e), .ldt, some d, 4, true, none⟩)
/-- `STP` (R274, R276). -/
def execStp (d a : Reg) (sc : Scope) (p : BitVec 9) (s : State) : Out :=
  .next (s.waitFE ⟨reqFeWrite (s.ea a 8 p), .stp (s.rd d), none, 4, false, some sc⟩)
/-- `STP` lone (R267). -/
def execStpLone (d a : Reg) (sc : Scope) (e : W32) (s : State) : Out :=
  .next (s.waitFE ⟨reqFeWrite (s.eaE a e), .stp (s.rd d), none, 4, false, some sc⟩)
/-- `AMO`: with respect-F/E a waiting operation, else an access that issues at once (R280, R283). -/
def execAmo (d a b : Reg) (op : AmoOp) (sc : Scope) (w fe : Bool) (s : State) : Out :=
  let rq := reqAtom (s.rd a) (atomBytes w) fe
  .next (if fe then s.waitFE ⟨rq, .amo op w (s.rd b) true, some d, 6, true, some sc⟩
    else s.loadGo rq (.amo op w (s.rd b) false) (some (d, none)) none true (some sc))

/-- PARK: a non-anchored high firing whose observation fails traps HIGH_PARK, through `budgetEnd` (R278). -/
def State.parkOn (s : State) (d : Reg) (va : Word) : Out :=
  .next (s.waitFE ⟨{ reqFeRead va with fe := true }, .park (bitOf (s.rd d) 0), none, 4, false, none⟩)
/-- `PARK` (R278). -/
def execPark (d a : Reg) (p : BitVec 9) (s : State) : Out := s.parkOn d (s.ea a 8 p)
/-- `PARK` lone (R267). -/
def execParkLone (d a : Reg) (e : W32) (s : State) : Out := s.parkOn d (s.eaE a e)

/-! ### TARM (R165 to R168, R279) -/

/-- The record of a TARM whose blocks are armed: a remote store whose acknowledgement is on its way (R279). -/
def State.armSent (s : State) (e : TlbEntry) (pa : Nat) (va : Word) : State :=
  let a : Access := { (s.accessFor e pa (.tarm e.bytes s.mine.tlife) va) with ans := some (.done 0) }
  ((({ s with accesses := s.accesses ++ [a] }).bumpId).delayed).enqueue
    (s.tick + s.arriveTime s.here a.agent pa a.op + s.answerTime a) s.here s.mine.cur a.id .storeAck
/-- TARM behind its checks: it arms the blocks of a transient page at its issue tick, and its acknowledgement comes back as a
store's does; a page of another package is armed there, as the request arrives (R279; log entry 60). -/
def State.armPage (s : State) (va : Word) : State :=
  if 16 ≤ s.storeBuffer s.here then s.hold else
  s.withPage (reqArm va) fun s e pa =>
    if !attrT e.attr then s.issue
    else if s.unreachable pa then (s.dropStore pa).issue
    else if pkgOf pa = s.pkgId then
      ((s.armPageAt (offOf e.pbase) e.bytes s.mine.tlife.toNat).armSent e pa va).issue
    else (s.launchAccess e pa (.tarm e.bytes s.mine.tlife) va none none false none none).issue
/-- `TARM` (R279). -/
def execTarm (a : Reg) (p : BitVec 9) (s : State) : Out := .next (s.armPage (s.ea a 8 p))
/-- `TARM` lone (R267). -/
def execTarmLone (a : Reg) (e : W32) (s : State) : Out := .next (s.armPage (s.eaE a e))

/-! ### Fences (R198, R284) -/

/-- A dropped store or SEND traps MEMERR (R39); otherwise the fence issues once its condition holds. -/
def State.fence (s : State) (ready : Bool) : State :=
  match s.me.dropped with
  | some a => s.trapHere 0x14 0 a
  | none => if ready then s.issue else s.holdOp
/-- Whether an access is to vault memory, through either window. -/
def Access.vault (a : Access) : Bool := match placeOf (offOf a.pa) with | .vault .. => true | _ => false
/-- Whether every earlier access of the issuing firing to vault memory is performed (R198). -/
def State.vaultsDone (s : State) : Bool := !(s.accesses.any fun a => s.own a && a.vault && a.ans.isNone)
/-- `FENCE.ORD`: a release and an acquire at its scope, which includes FENCE.A (R198, R284). -/
def execFenceOrd (sc : Scope) (s : State) : Out := .next (s.fence (s.released sc && s.vaultsDone))
/-- `FENCE.R` (R198). -/
def execFenceR (s : State) : Out := .next (s.fence (!(s.accesses.any fun a => s.own a && a.remote)))
/-- `FENCE.A` (R198). -/
def execFenceA (s : State) : Out := .next (if s.vaultsDone then s.issue else s.holdOp)

end Sys2Proof.Machine
end

