-- ==== Sys2Proof/Machine/Pages.lean ====
section
/-!
DEFINITION. The translation service's part: walks for cores, migration tokens, page moves, collapses and replicas
(07_translation R138, R145 to R151, 09_full_empty R187, 03_host_interface R69).
-/
namespace Sys2Proof.Machine

/-! ### Answering a firing that waits in the service (R135, R138) -/

/-- An address that engines wait for is there, or cannot be had (R333). -/
def Core.missOver (k : Core) (va : Nat) (failed : Bool) : Core :=
  { k with misses := if failed then k.misses.map fun m => if m.1.toNat = va then (m.1, true) else m
      else k.misses.filter fun m => m.1.toNat != va }
/-- The firing that waits for an address goes on from step 3 of the checks, or meets PAGE; so do the core's engines that wait for
it (R135, R333). -/
def State.releaseXl (s : State) (c : Nat) (p : Prio) (va : Nat) (x : Xl) (lands : Bool) : State :=
  (s.modCore c fun k => k.missOver va (match x with | .fault _ => true | _ => false)).modBank c p fun b =>
    match b.xl with
    | .waiting w _ _ => if w.toNat = va then { b with xl := x, lands := if lands then some w else b.lands } else b
    | _ => b
/-- Whether the token of the page that holds an address of a launch is taken. -/
def State.inMotion (s : State) (l : Launch) (va : Nat) : Bool :=
  match s.leaf l va with
  | some (e, _) => s.tokens.any fun t => t.lid == l.r.lid && t.va == e.vbase
  | none => false
/-- Whether an earlier miss of a core still waits for its answer (R138). -/
def State.missAhead (s : State) (c : Nat) : Bool :=
  s.queue.any fun e => decide (e.num < s.evNum) && (match e.ev with | .translationRequest d _ _ => d == c | _ => false)
/-- Whether the stack of some of the words of this package at physical addresses takes no request in this tick (R22, R169). -/
def State.stacksShut (s : State) (pas : List Nat) : Bool :=
  pas.any fun a => (match placeOf (offOf a) with | .hbm => pkgOf a == s.pkgId && !s.stackOpen (offOf a) | _ => false)
/-- Reads of the words of this package at physical addresses, by the master or a walk: they open the rows of vaults, and find the errors
in what they read (R26, R28, R158). -/
def State.meetAll (s : State) (pas : List Nat) : State :=
  pas.foldl (fun st a => (st.call a).meet (keyOf (offOf a))) s
/-- `TRANSLATION_REQUEST`: the service walks the tables and answers with an entry or with PAGE, the misses of a core in the
order of their requests (R138); an access to a page in motion waits until its token is full (R146, R151), and a walk for an HBM
stack that takes no request (R22). -/
def execTranslationRequest (c : Nat) (p : Prio) (va : Word) (s : State) : Out :=
  .next <| match (s.core c).lid?.bind s.launchOf with
  | none => s.releaseXl c p va.toNat (.fault va) false
  | some l =>
    let pas := s.tableWords l va.toNat
    if s.missAhead c || s.inMotion l va.toNat || s.stacksShut pas then s.enqueue (s.tick + 1) c p s.evNum (.translationRequest c p va)
    else
      let s1 := s.meetAll pas
      match s1.walkFor l c va.toNat with
      | some e => (s1.install c e).releaseXl c p va.toNat .none false
      | none => s1.releaseXl c p va.toNat (.fault va) false

/-! ### Pages, frames and planes (R145, R147, R187) -/

/-- The compute layer whose service core holds the token of a page (R145). -/
def State.tokenLayer (s : State) (pa : Nat) : Nat :=
  match placeOf (offOf pa) with
  | .vault v _ => v / 256
  | _ =>
    let t := s.homeTower 0 (offOf pa)
    4 * t + ((List.range 4).find? fun k => !(s.layer (4 * t + k)).fenced).getD 0
/-- Room for planes in a layer, in bytes (R159). -/
def planeRoom : Nat := 944 * 2 ^ 20
/-- Bytes of a page's plane: one bit per word (R187). -/
def planeBytes (e : TlbEntry) : Nat := e.bytes / 64
/-- Rewrite a leaf, and all 32 copies of a leaf that is written 32 times (R139, R147). -/
def State.rewriteLeaf (s : State) (e : TlbEntry) (at_ : Nat) (f : Word → Word) : State :=
  let g (st : State) (a : Nat) : State := st.wrWord (keyOf (offOf a)) (f (st.rdWord (keyOf (offOf a))))
  if e.size = 1 ∨ e.size = 2 then (List.range 32).foldl (fun st i => g st (at_ / 256 * 256 + 8 * i)) s else g s at_
/-- A leaf with another frame. -/
def leafFrame (pa : Nat) (host : Bool) (w : Word) : Word :=
  BitVec.ofNat 64 (putBits (putBits w.toNat 13 1 (bitN host)) 16 40 (pa / 2 ^ 16))
/-- A leaf with other attributes. -/
def leafAttr (a : BitVec 9) (w : Word) : Word := BitVec.ofNat 64 (putBits w.toNat 2 9 a.toNat)
/-- The first word of a block of a frame that is written whole covers the block, and clears its poison (R29). -/
def State.covers (s : State) (a : Nat) : State := if a % 64 = 0 then s.heal a else s
/-- A word of a frame with its bit and poison, copied to another frame that is written whole (R147, R187): a move makes neither
a fill nor an empty (R177). -/
def State.moveWord (s : State) (src dst : Nat) : State :=
  let a := keyOf (offOf src)
  let b := keyOf (offOf dst)
  let s := ((s.call src).meet a).call dst
  let s1 := (s.wrWord b (s.rdWord a)).covers b
  let s2 := if s.poison.contains (blockAt a) then s1.addPoison b else if s.wpoison.contains (wordOf a) then s1.addWordPoison b
    else s1
  s2.setFE b (s.full a)
/-- Copy a page between two device frames. -/
def State.movePage (s : State) (src dst n : Nat) : State :=
  (List.range (n / 8)).foldl (fun st i => st.moveWord (src + 8 * i) (dst + 8 * i)) s
/-- The attributes of a leaf while its frame is in a host window, which takes C = S = M = 0 and no T: they are cleared there, and
come back with the page (R134, R147; log entry 20). -/
def hostAttr (a : BitVec 9) : BitVec 9 := a &&& 0x187
/-- A duplicated page loses its replicas, whose frames are free (R150). -/
def State.dropReplicas (s : State) (lid : BitVec 32) (e : TlbEntry) : State :=
  let mine := s.replicas.filter fun x => x.1 == lid && x.2.1 == e.vbase
  { s with replicas := s.replicas.filter fun x => !(x.1 == lid && x.2.1 == e.vbase),
           frames := s.frames ++ mine.map fun x => (x.2.2.2, pageBits e.size) }
/-- A page moves into a host window: its data are read, which finds the errors in them, and go to the host; its bits and
attributes go to a plane; its frame, and the replicas that it has, are free (R26, R147, R149, R187). -/
def State.toHostPage (s : State) (lid : BitVec 32) (e : TlbEntry) (at_ dest : Nat) : State :=
  let lay := s.tokenLayer e.pbase
  let pl : Plane :=
    { lid := lid, va := e.vbase, layer := lay, bytes := planeBytes e, attr := e.attr,
      empties := (List.range (e.bytes / 8)).filter fun i =>
        let k := keyOf (offOf (e.pbase + 8 * i))
        !s.full k || s.unarmed (attrT e.attr) k }
  let s1 := ((List.range (e.bytes / 64)).foldl (fun st i => (st.call (e.pbase + 64 * i)).meet (keyOf (offOf (e.pbase + 64 * i)))) s).dropReplicas lid e
  (({ s1 with planes := pl :: s1.planes, frames := s1.frames ++ [(e.pbase, pageBits e.size)] }).modLayer lay fun x =>
    { x with planeUsed := x.planeUsed + planeBytes e }).rewriteLeaf e at_ fun w => leafAttr (hostAttr e.attr) (leafFrame dest true w)
/-- A word of a page comes from the host: its data from there, its bit from the plane, or full where there is none. -/
def State.fetchWord (s : State) (pl : Option Plane) (dst i : Nat) : State :=
  let b := keyOf (offOf (dst + 8 * i))
  let s1 := (((s.call (dst + 8 * i)).wrWord b (Config.hostWord s.free)).covers b).bumpFree
  s1.setFE b (!((pl.map fun x => x.empties.contains i).getD false))
/-- A page moves to a device frame (R147, R187). -/
def State.toDevicePage (s : State) (lid : BitVec 32) (e : TlbEntry) (at_ : Nat) (frame : Nat) : State :=
  let pl := s.planes.find? fun x => x.lid == lid && x.va == e.vbase
  let s1 := (List.range (e.bytes / 8)).foldl (fun st i => st.fetchWord pl frame i) s
  let s2 := match pl with
    | some x => ({ s1 with planes := s1.planes.filter fun y => y != x }).modLayer x.layer fun z =>
        { z with planeUsed := z.planeUsed - x.bytes }
    | none => s1
  ({ s2 with frames := s2.frames.erase (frame, pageBits e.size) }).rewriteLeaf e at_ fun w =>
    leafAttr ((pl.map fun (x : Plane) => (x.attr &&& 0x78) ||| (e.attr &&& 0x187)).getD e.attr) (leafFrame frame false w)
/-- A free frame of a page's size. -/
def State.freeFrame (s : State) (e : TlbEntry) : Option Nat := (s.frames.find? fun x => x.2 == pageBits e.size).map Prod.fst

/-! ### Requests for a token (R146 to R151) -/

/-- The launch and address that a request is about. R69 answers NOT_MAPPED for a launch that is not running; the manual does not
list the states: the model takes a launch that halts for running, and one that is released, pre-empted or cancelled not (log
entry 110). -/
def State.reqPage (s : State) : TokenReq → Option (Launch × Nat)
  | .host _ _ lid va _ _ => (s.launchOf lid).bind fun l => if l.st == .running || l.st == .halting then some (l, va) else none
  | .toDevice c _ va => ((s.core c).lid?.bind s.launchOf).map fun l => (l, va)
  | .collapse c _ va => ((s.core c).lid?.bind s.launchOf).map fun l => (l, va)
  | .setAttr lid va _ => (s.launchOf lid).map fun l => (l, va)
  | .duplicate lid va _ _ => (s.launchOf lid).map fun l => (l, va)
/-- An access of the master to the word at a physical address of this package, which goes by no page. -/
def State.masterAccess (s : State) (pa : Nat) (op : AccOp) : Access :=
  { id := s.nextId, core := s.distCore, prio := .low, fid := 2 ^ 63, op := op, va := BitVec.ofNat 64 pa, pa := pa,
    key := keyOf (offOf pa), agent := .unit, tr := s.transientAt (offOf pa), dst := none, st := none, grp := false, back := none,
    ent := { space := 0, size := 0, vpn := 0, pfn := 0, attr := 0, host := false }, acq := false, rel := none, remote := true,
    reg := none, sent := s.tick, late := false, miss := false, gone := false, told := [], ans := none }
/-- The result of a host request: a filling store at sys scope, which waits for an HBM stack that takes no request, and is discarded
in an unarmed block (R22, R69, R168). -/
def State.moveResult (s : State) (rid : W32) (result code : Nat) : State :=
  let w : Word := BitVec.ofNat 64 (rid.toNat + place code 8 32)
  if s.stacksShut [result] then
    let a := s.masterAccess result (.put w (some true))
    { s with accesses := s.accesses ++ [a] }.bumpId.enqueue (s.tick + 1) a.core .low a.id .accessArrive
  else if s.spent (offOf result) then s
  else (s.call result).fillAt result (keyOf (offOf result)) w
/-- A request ends: a host's with a result code, a firing's by going on or, where `ok` fails, with PAGE. -/
def State.endReq (s : State) (rq : TokenReq) (code : Nat) : State :=
  match rq with
  | .host rid _ _ _ _ result => s.moveResult rid result code
  | .toDevice c p va => s.releaseXl c p va (if code = 0 then .none else .fault (BitVec.ofNat 64 va)) false
  | .collapse c p va => s.releaseXl c p va (if code = 0 then .none else .fault (BitVec.ofNat 64 va)) (code == 0)
  | .setAttr .. | .duplicate .. => s
/-- What keeps a request from starting: DONE where nothing is to be done, NO_MEMORY where no frame or plane is to be had. -/
def State.reqBar (s : State) (rq : TokenReq) (e : TlbEntry) : Option Nat :=
  match rq with
  | .host _ true .. =>
    if e.host then some 0
    else if planeRoom < (s.layer (s.tokenLayer e.pbase)).planeUsed + planeBytes e then some 4 else none
  | .host _ false .. | .toDevice .. => if !e.host then some 0 else if (s.freeFrame e).isNone then some 4 else none
  | .collapse .. => if attrD e.attr then none else some 0
  | .setAttr .. => none
  | .duplicate .. => if e.host || attrM e.attr || attrT e.attr then some 0 else none
/-- Whether a writing access to a page of a launch is still to be performed, by a firing that the token's queue has let go on, also
while it walks again, or on its way: the writes land in the order of the queue (R150). -/
def State.writeAhead (s : State) (l : Launch) (e : TlbEntry) : Bool :=
  (l.cores.any fun c => [(s.core c).low, (s.core c).high].any fun b =>
    b.run != .none && b.lands.any fun va => va.toNat / e.bytes == e.vbase / e.bytes) ||
  s.accesses.any fun a => a.ent.space == l.space && a.ans.isNone && accStores a.op && a.va.toNat / e.bytes == e.vbase / e.bytes
/-- Whether a request is that of a write. -/
def isCollapse : TokenReq → Bool | .collapse .. => true | _ => false
/-- `TOKEN_REQUEST`: a request is stamped as it enters the token home's queue: it takes a free token and starts the
shoot-down, or loses (R146, R147, R150). A queued write of a page that has been collapsed goes on once the write before it is
performed. -/
def execTokenRequest (rq : TokenReq) (s : State) : Out :=
  .next <| match s.reqPage rq with
  | none => s.endReq rq 2
  | some (l, va) =>
    match s.leaf l va with
    | none => s.endReq rq 2
    | some (e, _) =>
      if isCollapse rq && !attrD e.attr && s.writeAhead l e then s.later 1 0 (.tokenRequest rq) else
      if s.tokens.any fun t => t.lid == l.r.lid && t.va == e.vbase then
        match rq with
        | .host .. => s.endReq rq 1
        | _ =>
          let f (t : Token) : Token := if t.lid == l.r.lid && t.va == e.vbase then { t with waiting := t.waiting ++ [rq] } else t
          { s with tokens := s.tokens.map f }
      else
        match s.reqBar rq e with
        | some code => s.endReq rq code
        | none =>
          let x : Shoot :=
            { id := s.nextId, space := l.space, size := e.size, vpn := e.vpn, allv := false, alls := false, left := l.cores,
              done := false, src := 8192 + 4 * s.tokenLayer e.pbase, issuer := none }
          let tk : Token := { lid := l.r.lid, va := e.vbase, holder := some rq, shoot := s.nextId, waiting := [] }
          { s with tokens := s.tokens ++ [tk] }.startShoot x

/-- What the holder of a token does once its shoot-down is complete: data, bits and leaf (R147, R150, R151). -/
def State.carryOut (s : State) (rq : TokenReq) (lid : BitVec 32) (e : TlbEntry) (at_ : Nat) : State :=
  match rq with
  | .host _ true _ _ dest _ =>
    if planeRoom < (s.layer (s.tokenLayer e.pbase)).planeUsed + planeBytes e then s.endReq rq 4
    else (s.toHostPage lid e at_ dest).endReq rq 0
  | .host _ false .. | .toDevice .. =>
    match s.freeFrame e with
    | some f => (s.toDevicePage lid e at_ f).endReq rq 0
    | none => s.endReq rq 4
  | .collapse .. => ((s.dropReplicas lid e).rewriteLeaf e at_ (leafAttr (e.attr &&& 0xFF))).endReq rq 0
  | .setAttr _ _ a => (if attrD a then s else s.dropReplicas lid e).rewriteLeaf e at_ (leafAttr a)
  | .duplicate _ _ t f =>
    (({ s with replicas := s.replicas ++ [(lid, e.vbase, t, f)], frames := s.frames.erase (f, pageBits e.size) }).movePage
      e.pbase f e.bytes).rewriteLeaf e at_ (leafAttr (e.attr ||| 0x100))
/-- Requests that waited for a token go on in stamp order: an access to a page that was moving from step 3 of R135; a write or
another request comes again (R146, R150). -/
def State.againFrom (s : State) : List TokenReq → State
  | [] => s
  | .toDevice c p va :: r => (s.releaseXl c p va .none false).againFrom r
  | rq :: r => (s.later 1 0 (.tokenRequest rq)).againFrom r
/-- The token is filled: the holder's request is carried out, and the waiting ones go on (R147, R150). -/
def State.fillToken (s : State) (t : Token) : State :=
  let s0 := { s with tokens := s.tokens.filter fun u => !(u.lid == t.lid && u.va == t.va) }
  let s1 := match t.holder, (s0.launchOf t.lid).bind fun l => s0.leaf l t.va with
    | some rq, some (e, at_) => s0.carryOut rq t.lid e at_
    | some rq, none => s0.endReq rq 2
    | none, _ => s0
  s1.againFrom t.waiting
/-- The device frame that the holder of a token writes a page to (R147, R150). -/
def State.moveDest (s : State) (t : Token) (e : TlbEntry) : Option Nat :=
  match t.holder with
  | some (.host _ false ..) | some (.toDevice ..) => s.freeFrame e
  | some (.duplicate _ _ _ f) => some f
  | _ => none
/-- The physical addresses whose stacks the copy of a page needs, at its source and its destination: any 48 KiB of HBM lie in every stack (R147, R169). -/
def State.moveWords (s : State) (t : Token) : List Nat :=
  match (s.launchOf t.lid).bind fun l => s.leaf l t.va with
  | some (e, at_) => at_ :: ((e.pbase :: (s.moveDest t e).toList).map fun f => (List.range 12).map fun i => f + 4096 * i).flatten
  | none => []
/-- `SHOOTDOWN_COMPLETE`: every acknowledgement has reached the issuer; what waited for it goes on (R141, R147, R150), a copy
once every stack that it needs takes requests (R22). -/
def execShootdownComplete (s : State) : Out :=
  let s1 := s.endShoot s.evNum
  .next <| match s1.tokens.find? fun t => t.shoot == s.evNum, s1.shoots.find? fun x => x.id == s.evNum with
  | some t, some x =>
    if x.done && s1.stacksShut (s1.moveWords t) then s1.later 1 s.evNum .shootdownComplete
    else if x.done then ({ s1 with shoots := s1.shoots.filter fun y => y.id != x.id }).fillToken t else s1
  | _, _ => s1

end Sys2Proof.Machine
end

