-- ==== Sys2Proof/Machine/Copies.lean ====
section
/-!
DEFINITION. The translation that an engine of a core makes for itself, and the copy engine (19_copy_rings R330 to R337,
09_full_empty R186).
-/
namespace Sys2Proof.Machine

/-! ### An engine's own accesses (R333, R343, R367, R368) -/

/-- What an engine finds at an address. -/
inductive Found
  | go (e : TlbEntry) (pa : Nat)
  | stop (x : Stop)
  /-- It waits in the translation service. -/
  | wait
  /-- No TLB holds the page: a miss (R333). -/
  | miss
  /-- A write to a duplicated page, which must be collapsed first (R150). -/
  | collapse
deriving DecidableEq, Repr

/-- A stop with a cause and an address. -/
def stopAt (cause : BitVec 8) (a : Nat) : Stop := { cause := cause, info := 0, faddr := BitVec.ofNat 64 a }
/-- The checks of an engine's access, in the order of R135; a locality fault is performed remotely. -/
def State.find (s : State) (c : Nat) (lid : BitVec 32) (va : Word) (wr : Bool) : Found :=
  if 2 ^ 56 ≤ va.toNat ∨ (s.core c).misses.contains (va, true) = true then .stop (stopAt 0x05 va.toNat)
  else if (s.core c).misses.contains (va, false) then .wait
  else
    match s.lookup c (s.core c).space va.toNat with
    | none => if (s.launchOf lid).isNone then .stop (stopAt 0x05 va.toNat) else .miss
    | some e =>
      let pa := e.pbase + va.toNat % e.bytes
      let ctl : Bool := match placeOf (offOf pa) with | .control _ => !isSvc c | _ => false
      if (!wr && !attrR e.attr) || (wr && !attrW e.attr) || ctl then .stop (stopAt 0x04 va.toNat)
      else if wr && attrD e.attr then .collapse
      else if s.unreachable pa then .stop (stopAt 0x14 (wordOf pa))
      else if pkgOf pa = s.pkgId ∧ placeOf (offOf pa) = .unassigned then .stop (stopAt 0x14 (wordOf pa))
      else .go e pa
/-- An engine waits for an address in the translation service: for a walk, or for a page (R138, R148, R150, R333). -/
def State.engineWait (s : State) (c : Nat) (va : Word) (due : Nat) (ev : Instr) : State :=
  ((s.modCore c fun k => { k with misses := k.misses ++ [(va, false)] }).enqueue due c .low s.nextId ev).bumpId
/-- Ask for the walk of a page. -/
def State.askWalk (s : State) (c : Nat) (va : Word) : State :=
  (s.engineWait c va (s.tick + s.delay 120) (.translationRequest c .low va)).delayed
/-- Ask for the collapse of a duplicated page (R150). -/
def State.askCollapse (s : State) (c : Nat) (va : Word) : State :=
  s.engineWait c va s.tick (.tokenRequest (.collapse c .low va.toNat))
/-- Ask for the move of a page to the device (R148). -/
def State.askDevice (s : State) (c : Nat) (va : Word) : State :=
  s.engineWait c va s.tick (.tokenRequest (.toDevice c .low va.toNat))
/-- An engine goes to an address: it uses the entry, or asks for what it has to wait for, or learns why it cannot have it. -/
def State.follow (s : State) (c : Nat) (va : Word) : Found → Found × State
  | .go e pa => (.go e pa, s.useEntry c e)
  | .stop x => (.stop x, s.modCore c fun k => { k with misses := k.misses.filter fun m => m.1 != va })
  | .wait => (.wait, s)
  | .miss => (.wait, s.askWalk c va)
  | .collapse => (.wait, s.askCollapse c va)
/-- The same, with the checks. -/
def State.reach (s : State) (c : Nat) (lid : BitVec 32) (va : Word) (wr : Bool) : Found × State :=
  s.follow c va (s.find c lid va wr)

/-! ### Accesses of engines from issue to answer (R41, R161, R202, R435) -/

/-- The number under which the accesses of an engine of a core go: the writes of a copy by its id, 8 the accumulator queue, 9 a
fold, 10 + h a ring, 18 the reads of the copy of id 0, and so on. -/
def unitKey (c u : Nat) : Nat := 2 ^ 62 + 32 * c + u
/-- The number under which the distributors' accesses for a launch go, from the package master (R87). -/
def distKey (lid : BitVec 32) : Nat := 2 ^ 63 + lid.toNat
/-- An access of an engine leaves its core, as a firing's does: it is performed as it comes to its agent, and answered. With `back` the
engine collects the answer. -/
def State.engineSend (s : State) (c key : Nat) (e : TlbEntry) (va : Word) (pa : Nat) (op : AccOp) (back : Bool) : State :=
  let ag := s.agentOf e.attr pa
  let a : Access :=
    { id := s.nextId, core := c, prio := .low, fid := key, op := op, va := va, pa := pa, key := s.keyFor pa, agent := ag,
      tr := attrT e.attr, dst := none, st := none, grp := back, back := none, ent := e, acq := false, rel := none,
      remote := accPure op && !(ag == .l1), reg := none, sent := s.tick, late := false, miss := false, gone := false, told := [],
      ans := none }
  (({ s with accesses := s.accesses ++ [a] }.bumpId).delayed).enqueue (s.tick + s.arriveTime c ag pa op) c .low a.id .accessArrive
/-- An access of an engine: a read is collected. -/
def State.engineAsk (s : State) (c key : Nat) (e : TlbEntry) (va : Word) (pa : Nat) (op : AccOp) : State :=
  s.engineSend c key e va pa op (decide (op = .fetch))
/-- What an engine's read of a word has brought: none where it is not asked for. -/
def State.engineGot (s : State) (key pa : Nat) : Option (Option Answer) :=
  (s.accesses.find? fun a => a.fid == key && a.grp && a.pa == pa).map (·.back)
/-- Whether every write of an engine is acknowledged. -/
def State.acked (s : State) (key : Nat) : Bool := !(s.accesses.any fun a => a.fid == key && !a.grp)
/-- `n` bytes at an address, within the word that an answer brings, with the word's bit; or why not (R29, R404). -/
def answerBytes (pa n : Nat) : Answer → Except Stop (Nat × Bool)
  | .word v full => .ok (v.toNat / 2 ^ (8 * (pa % 8)) % 2 ^ (8 * n), full)
  | .parity row => .error { cause := 0x0E, info := BitVec.ofNat 48 row, faddr := 0 }
  | _ => .error (stopAt 0x14 (wordOf pa))
/-- `n` bytes at an address that an engine reads, within a word: their data and the word's bit, or why not; none means that the read is on
its way. -/
def State.engineRead (s : State) (c key : Nat) (va : Word) (e : TlbEntry) (pa n : Nat) :
    Option (Except Stop (Nat × Bool)) × State :=
  match s.engineGot key (wordOf pa) with
  | none => (none, s.engineAsk c key e va (wordOf pa) .fetch)
  | some none => (none, s)
  | some (some a) => (some (answerBytes pa n a), s)
/-- An engine writes a word and treats its bit, in one step: set as `full` says, or left alone (R168, R186); code goes into a store as a
code store (R333). -/
def State.engineWrite (s : State) (c key : Nat) (va : Word) (e : TlbEntry) (pa : Nat) (v : Word) (full : Option Bool) : State :=
  s.engineAsk c key e va pa (match placeOf (offOf pa) with | .istore .. => .store .d v | _ => .put v full)
/-- An engine sets a word empty (R186, R343). -/
def State.engineEmpty (s : State) (c key : Nat) (va : Word) (e : TlbEntry) (pa : Nat) : State := s.engineAsk c key e va pa .clear
/-- The first of some addresses that an engine cannot go to now, and why. -/
def State.firstStuck (s : State) (c : Nat) (lid : BitVec 32) (wr : Bool) (l : List Word) : Option (Word × Found) :=
  l.findSome? fun a => match s.find c lid a wr with | .go .. => none | f => some (a, f)

/-! ### The words of a copy (R331) -/

/-- Destination words in a row of the destination. -/
def Copy.perRow (x : Copy) : Nat := (if x.tr then x.rows else x.cols) * x.esz.bytes / 8
/-- Rows of the destination. -/
def Copy.destRows (x : Copy) : Nat := if x.tr then x.cols else x.rows
/-- Destination words. -/
def Copy.count (x : Copy) : Nat := x.destRows * x.perRow
/-- An address some bytes on. -/
def addrPlus (a : Word) (i : Int) : Word := a + BitVec.ofInt 64 i
/-- Address of a destination word. -/
def Copy.destAt (x : Copy) (n : Nat) : Word :=
  addrPlus x.dst ((n / x.perRow : Nat) * x.dstr + 8 * (n % x.perRow : Nat))
/-- The index of the `n`th destination word in ascending address order (R332, R333). -/
def Copy.index (x : Copy) (n : Nat) : Nat :=
  if 0 ≤ x.dstr then n else (x.destRows - 1 - n / x.perRow) * x.perRow + n % x.perRow
/-- The destination words in ascending address order (R332). -/
def Copy.rising (x : Copy) (n : Nat) : Word := x.destAt (x.index n)
/-- The source elements of a destination word, lowest first: addresses, each of `esz` bytes under a transpose, else one
whole word. -/
def Copy.sources (x : Copy) (n : Nat) : List Word :=
  if x.tr then
    let k := 8 / x.esz.bytes
    (List.range k).map fun i =>
      addrPlus x.src ((n % x.perRow * k + i : Nat) * x.sstr + (n / x.perRow * x.esz.bytes : Nat))
  else [addrPlus x.src ((n / x.perRow : Nat) * x.sstr + 8 * (n % x.perRow : Nat))]
/-- Bytes of a source element. -/
def Copy.elemBytes (x : Copy) : Nat := if x.tr then x.esz.bytes else 8

/-! ### The engine's work (R332, R333) -/

/-- A copy that has not completed. -/
def Core.copyOf (k : Core) (id : Nat) : Option Copy := k.copies.find? fun x => x.id == id && !x.done
/-- Change a copy that has not completed. -/
def State.modCopy (s : State) (c id : Nat) (f : Copy → Copy) : State :=
  let g (x : Copy) : Copy := if x.id == id && !x.done then f x else x
  s.modCore c fun k => { k with copies := k.copies.map g }
/-- The engine of a copy, for its writes. -/
def Copy.unit (x : Copy) (c : Nat) : Nat := unitKey c x.id
/-- The engine of a copy, for its reads. -/
def Copy.reader (x : Copy) (c : Nat) : Nat := unitKey c (18 + x.id)
/-- The blocks of a transient page that a copy's destination touches are armed as the page is translated, as of the tick of issue
(R167, R332); those of another package by requests. -/
def State.armCopy (s : State) (c : Nat) (x : Copy) (e : TlbEntry) : State :=
  if attrT e.attr then
    let touched := ((List.range x.count).map x.destAt).filter fun a => a.toNat / e.bytes == e.vbase / e.bytes
    let own := decide (pkgOf e.pbase = s.pkgId)
    let name (b : Nat) : Nat := if own then b else remoteKey (e.pbase / 2 ^ 44 * 2 ^ 44) + b
    let blks := (touched.map fun a => blockOf (keyOf (offOf (e.pbase + a.toNat % e.bytes)))).eraseDups
    let new := blks.filter fun b => !x.armed.contains (name b)
    let arm (st : State) (b : Nat) : State :=
      if own then st.armBlockAt x.arm x.life (x.hot.getLsbD (b / 131072)) b
      else st.engineAsk c (x.unit c) e x.dst (e.pbase / 2 ^ 44 * 2 ^ 44 + blockKey b) (.tarm (2 ^ 16) (BitVec.ofNat 16 x.life))
    (new.foldl arm s).modCopy c x.id fun y => { y with armed := y.armed ++ new.map name }
  else s
/-- Whether a request of a copy to arm blocks of another package is on its way; its writes there follow it. -/
def State.arming (s : State) (key : Nat) : Bool :=
  s.accesses.any fun a => a.fid == key && (match a.op with | .tarm .. => true | _ => false)
/-- Whether the code checker would replace a bundle that a copy writes (R334). -/
def sealedBy (pa : Nat) (v : Word) : Option Bundle13 :=
  match placeOf (offOf pa) with
  | .istore _ o => match checkBundle false (o / 8) v.toNat with
    | .ok _ => none
    | .error _ => some (BitVec.ofNat 13 (o / 8))
  | _ => none
/-- The bit that a copy write leaves (R186). -/
def copyBit (m : CopyMode) (src : Bool) : Option Bool :=
  match m with
  | .copy => some src
  | .full | .arrive => some true
  | .keep => none
/-- Whether an address lies in an instruction store. -/
def toStore (pa : Nat) : Bool := match placeOf (offOf pa) with | .istore .. => true | _ => false
/-- Whether an address lies in the package control window. -/
def toControl (pa : Nat) : Bool := match placeOf (offOf pa) with | .control _ => true | _ => false
/-- A copy stops (R333); what it has read ahead is dropped. -/
def State.stopCopy (s : State) (c : Nat) (x : Copy) (t : Stop) : State :=
  (s.dropGroup (x.reader c)).modCopy c x.id fun y => { y with stop := some t, reads := [] }
/-- The answers of the reads of a word, once all have come back. -/
def State.wordBack (s : State) : List Nat → Option (List Answer)
  | [] => some []
  | i :: r =>
    match (s.accesses.find? fun a => a.id == i).bind (·.back), s.wordBack r with
    | some a, some l => some (a :: l)
    | _, _ => none
/-- The source elements of a word, lowest first, from the answers of their reads: data, and the bit that FE.COPY takes; or why not. -/
def joinWord (n : Nat) : List (Word × Answer) → Except Stop (Nat × Bool)
  | [] => .ok (0, true)
  | (va, a) :: r =>
    match answerBytes va.toNat n a, joinWord n r with
    | .ok v, .ok w => .ok (v.1 + 2 ^ (8 * n) * w.1, v.2 && w.2)
    | .error t, _ | _, .error t => .error t
/-- The place of a copy's next destination word: there, or its stop, or not yet (R333). -/
def State.copyDest (s : State) (c : Nat) (x : Copy) : Found × State :=
  let dst := x.rising x.pos
  match s.reach c x.lid dst true with
  | (.go e pa, s0) =>
    if toControl pa then (.stop (stopAt 0x04 dst.toNat), s0)
    else if toStore pa && x.mode != .keep then (.stop (stopAt 0x14 (wordOf pa)), s0)
    else
      let s1 := s0.armCopy c x e
      if s1.arming (x.unit c) then (.wait, s1) else (.go e pa, s1)
  | r => r
/-- The write of a copy's next word leaves, once its source has come back; or the copy stops. It answers whether a word is done
(R331 to R333). -/
def State.copyWrite (s : State) (c : Nat) (x : Copy) : Bool × State :=
  match x.reads with
  | [] =>
    match s.firstStuck c x.lid false (x.sources (x.index x.pos)) with
    | some (a, .stop t) => (false, (s.follow c a (.stop t)).2.stopCopy c x t)
    | _ => (false, s)
  | ids :: rest =>
    match s.wordBack ids with
    | none => (false, s)
    | some l =>
      match joinWord x.elemBytes ((x.sources (x.index x.pos)).zip l) with
      | .error t => (false, s.stopCopy c x t)
      | .ok v =>
        match s.copyDest c x with
        | (.stop t, s0) => (false, s0.stopCopy c x t)
        | (.go e pa, s0) =>
          let w : Word := BitVec.ofNat 64 v.1
          let s1 := s0.engineWrite c (x.unit c) (x.rising x.pos) e pa w (copyBit x.mode v.2)
          (true, (ids.foldl State.dropAccess s1).modCopy c x.id fun y =>
            { y with pos := y.pos + 1, reads := rest, sealed := y.sealed.or (sealedBy pa w) })
        | (_, s0) => (false, s0)
/-- The words of a copy's present phase that it has emptied, or whose reads have left. -/
def Copy.head (x : Copy) : Nat := x.pos + x.reads.length
/-- Whether a copy has words of its present phase to empty or write. -/
def Copy.moving (x : Copy) : Bool := !x.done && x.stop.isNone && decide (x.pos < x.count)
/-- Whether a word of a copy begins a 128-byte line of its destination, or lies behind the last (R335, R337). -/
def Copy.lineAt (x : Copy) (n : Nat) : Bool :=
  n == 0 || decide (x.count ≤ n) || (x.rising n).toNat / 128 != (x.rising (n - 1)).toNat / 128
/-- Whether a copy stands at the start of a 128-byte line of its destination (R335). -/
def Copy.atLine (x : Copy) : Bool := !x.moving || x.lineAt x.pos
/-- Whether a halted copy may still read a word: one of the line that it is in (R335). -/
def Copy.inLine (x : Copy) : Bool := !x.lineAt x.pos && (x.rising x.head).toNat / 128 == (x.rising x.pos).toNat / 128
/-- The reads of a copy's next word leave, or, in the emptying phase of FE.ARRIVE, the empty of its next word; it answers whether a word
has moved so (R332, R333). -/
def State.copyMove (s : State) (c : Nat) (x : Copy) : Bool × State :=
  if x.emptied then
    let l := x.sources (x.index x.head)
    match s.firstStuck c x.lid false l with
    | some (_, .stop _) => (false, s)
    | some (a, f) => (false, (s.follow c a f).2)
    | none =>
      let ask (st : State × List Nat) (a : Word) : State × List Nat :=
        match st.1.reach c x.lid a false with
        | (.go e pa, s0) => (s0.engineAsk c (x.reader c) e a (wordOf pa) .fetch, st.2 ++ [s0.nextId])
        | _ => st
      let r := l.foldl ask (s, [])
      (true, r.1.modCopy c x.id fun y => { y with reads := y.reads ++ [r.2] })
  else
    match s.copyDest c x with
    | (.stop t, s0) => (false, s0.stopCopy c x t)
    | (.go e pa, s0) =>
      (true, (s0.engineEmpty c (x.unit c) (x.rising x.pos) e pa).modCopy c x.id fun y => { y with pos := y.pos + 1 })
    | (_, s0) => (false, s0)
/-- Whether a copy may move its next word now: a halt lets it only finish the line at hand (R335, R337). -/
def State.mayMove (s : State) (c : Nat) (x : Copy) : Bool :=
  x.moving && decide (x.head < x.count) && decide (x.start ≤ s.tick) && (!(s.core c).halt || x.inLine)
/-- The copies of a core in the order of their turns: the one in the midst of a line, then ascending id behind the one that moved last
(R337). -/
def Core.copyTurns (k : Core) : List Copy :=
  ((k.copyOf k.lastLine).toList.filter fun x => !x.lineAt x.head) ++
    ((List.range 8).map fun i => (k.lastLine + 1 + i) % 8).filterMap k.copyOf
/-- The first of some copies that can move a word moves it; the others are passed over. It answers with the copy. -/
def State.moveOne (s : State) (c : Nat) : List Copy → Option Nat × State
  | [] => (none, s)
  | x :: l =>
    if s.mayMove c x then
      match s.copyMove c x with
      | (true, s1) => (some x.id, s1)
      | (false, s1) => s1.moveOne c l
    else s.moveOne c l
/-- The engine moves up to `n` words: 64 bytes a tick, a line at a time (R337). -/
def State.moveLines (c : Nat) : Nat → State → State
  | 0, s => s
  | n + 1, s =>
    match s.moveOne c (s.core c).copyTurns with
    | (some id, s1) => State.moveLines c n (s1.modCore c fun k => { k with lastLine := id })
    | (none, s1) => s1
/-- Up to `n` words of a copy are written, in order. -/
def State.writeWords (c id : Nat) : Nat → State → Nat × State
  | 0, s => (0, s)
  | n + 1, s =>
    match (s.core c).copyOf id with
    | none => (n + 1, s)
    | some x =>
      if !x.moving || !x.emptied || ((s.core c).halt && x.lineAt x.pos) then (n + 1, s)
      else match s.copyWrite c x with
        | (true, s1) => State.writeWords c id n s1
        | (false, s1) => (n + 1, s1)
/-- The writes of a tick: 64 bytes for all copies of a core (R337). -/
def State.writeLines (s : State) (c : Nat) : State :=
  ((List.range 8).foldl (fun r id => State.writeWords c id r.1 r.2) (8, s)).2
/-- The empties of FE.ARRIVE are all acknowledged: the data phase begins (R332, R337). -/
def State.nextPhase (s : State) (c id : Nat) : State :=
  match (s.core c).copyOf id with
  | some x =>
    if !x.emptied && x.stop.isNone && decide (x.count ≤ x.pos) && s.acked (x.unit c) then
      s.modCopy c id fun y => { y with emptied := true, pos := 0, start := s.tick }
    else s
  | none => s
/-- Whether a copy's completion fill has been arranged for. -/
def State.fillDue (s : State) (c id : Nat) : Bool :=
  s.queue.any fun e => decide (e.ev = .copyCompletionFill) && e.core == c && e.num == id
/-- A copy that is through, or has stopped, with every write acknowledged, has its fill made in the next tick (R334, R337). -/
def State.copyOver (s : State) (c id : Nat) : State :=
  match (s.core c).copyOf id with
  | some x =>
    if (x.stop.isSome || (x.emptied && !x.moving)) && s.acked (x.unit c) && !s.fillDue c id then
      s.enqueue (s.tick + 1) c .low id .copyCompletionFill
    else s
  | none => s
/-- A halted copy that stands at the start of a line drops what it has read of the next ones (R335). -/
def State.copyRest (s : State) (c id : Nat) : State :=
  match (s.core c).copyOf id with
  | some x =>
    if (s.core c).halt && x.atLine && !x.reads.isEmpty then
      (s.dropGroup (x.reader c)).modCopy c id fun y => { y with reads := [] }
    else s
  | none => s
/-- The copy engine of a core goes on, unless it does so already. -/
def State.kickCopies (s : State) (c due : Nat) : State :=
  if s.queue.any fun e => decide (e.ev = .copyDataPhase) && e.core == c then s else s.enqueue due c .low 0 .copyDataPhase
/-- Whether the copy engine has work of a copy in hand, but its fill. -/
def State.copyWorks (s : State) (c : Nat) (x : Copy) : Bool := !x.done && !s.fillDue c x.id && !((s.core c).halt && x.atLine)
/-- `COPY_DATA_PHASE`: one tick of the copy engine. What has come back is written, up to 64 bytes, and up to 64 bytes more are asked
for or emptied; it goes on while it has copies in hand (R332, R335, R337). -/
def execCopyDataPhase (s : State) : Out :=
  let c := s.here
  let closes (st : State) (id : Nat) : State := (st.copyRest c id).copyOver c id
  let s1 := (List.range 8).foldl (fun st id => st.nextPhase c id) s
  let s2 := (List.range 8).foldl closes (State.moveLines c 8 (s1.writeLines c))
  .next (if (s2.core c).copies.any (s2.copyWorks c) then s2.kickCopies c (s.tick + 1) else s2)

/-! ### Completion (R334) -/

/-- The completion value. -/
def Copy.value (x : Copy) : Word :=
  BitVec.ofNat 64 (bitN x.stop.isSome + place ((x.stop.map fun t => t.cause.toNat).getD 0) 8 8 + place (bitN x.sealed.isSome) 1 16 +
    place ((x.sealed.map fun b => b.toNat).getD 0) 13 17 + place (if x.emptied then min x.pos 0xFFFFFFFF else 0) 32 32)
/-- A copy is over: it is forgotten, unless it stopped and its firing has still to learn of it (R336). -/
def State.endCopy (s : State) (c id : Nat) : State :=
  let s1 := ((s.modCopy c id fun x => { x with done := true }).modCore c fun k =>
    { k with copies := k.copies.filter fun x => !(x.id == id && x.done && (x.stop.isNone || x.owner.isNone)) }).restIdle c
  match (s.core c).lid? with
  | some l => s1.poke l
  | none => s1
/-- The place of a completion word, as for an STF there (R334). -/
def State.findFill (s : State) (c : Nat) (lid : BitVec 32) (va : Word) : Found :=
  match s.find c lid va true with
  | .go e pa =>
    if !attrR e.attr then .stop (stopAt 0x04 va.toNat)
    else
      match placeOf (offOf pa) with
      | .istore .. => .stop (stopAt 0x03 va.toNat)
      | .control .. => .stop (stopAt 0x14 (wordOf pa))
      | _ => .go e pa
  | o => o
/-- The completion word of a copy cannot take the fill: the copy counts as stopped (R334). -/
def State.noFill (s : State) (c : Nat) (x : Copy) (va : Word) (t : Stop) : State :=
  (s.stopCopy c x { t with faddr := va }).endCopy c x.id
/-- `COPY_COMPLETION_FILL`: every write of a copy is acknowledged, or it has stopped: its completion value is filled by a
store to its word, and once that is performed the copy is over (R334, R337). A completion word in a page that resides in a host window is moved to the device first
(R148). -/
def execCopyCompletionFill (s : State) : Out :=
  let c := s.here
  let again (st : State) : State := st.enqueue (s.tick + 1) c .low s.evNum .copyCompletionFill
  .next <|
    match (s.core c).copyOf s.evNum with
    | none => s
    | some x =>
      if x.moving then s
      else if !s.acked (x.unit c) then again s
      else if x.filling then s.endCopy c x.id
      else if (s.core c).halt then s
      else
        match x.cw with
        | none => s.endCopy c x.id
        | some va =>
          match s.follow c va (s.findFill c x.lid va) with
          | (.stop t, s1) => s1.noFill c x va t
          | (.go e pa, s1) =>
            if e.host then again (s1.askDevice c va)
            else
              again ((s1.engineAsk c (x.unit c) e va pa (.put x.value (some true))).modCopy c x.id fun y => { y with filling := true })
          | (_, s1) => again s1

/-! ### The instructions (R330 to R332, R336) -/

/-- Copies outstanding on a core. -/
def Core.active (k : Core) : List Copy := k.copies.filter fun x => !x.done
/-- Copies that a core may have outstanding: eight, and two on a service core (R206, R216). -/
def copyLimit (c : Nat) : Nat := if isSvc c then 2 else 8
/-- The lowest free copy id (R332). -/
def Core.freeCopy (k : Core) (n : Nat) : Option Nat := (List.range n).find? fun i => !(k.active.any fun x => x.id == i)
/-- The vault layers in zone 1 or above (R167). -/
def State.hotLayers (s : State) : BitVec 32 :=
  BitVec.ofNat 32 ((List.range 32).foldl (fun n i => n + bitN ((s.sensor (vaultSensor i)).zone != 0) * 2 ^ i) 0)
/-- The first offending value of the alignment checks, in their order (R332). -/
def misaligned (l : List (Word × Nat)) : Option Word := (l.find? fun v => v.1.toNat % v.2 != 0).map Prod.fst
/-- Start a copy under the lowest free id; with nothing to move it completes at issue (R331, R332). -/
def State.startCopy (s : State) (d : Reg) (checks : List Word) (f : Nat → Copy) : State :=
  match misaligned (checks.map fun v => (v, 8)) with
  | some v => s.trapHere 0x03 0 v
  | none =>
    match s.mine.freeCopy (copyLimit s.here) with
    | none => s.hold
    | some id =>
      let s1 := ((s.modMine fun k => { k with copies := k.copies ++ [f id] }).wrC 1 d (BitVec.ofNat 64 id)).issue
      if (f id).count = 0 then
        (s1.modCopy s.here id fun y => { y with emptied := true }).enqueue (s.tick + 1) s.here .low id .copyCompletionFill
      else s1.kickCopies s.here (s.tick + 2)
/-- The completion word of a copy: none for g0. -/
def State.completion (s : State) (w : Reg) : Option Word := if w = 0 then none else some (s.rd w)
/-- What every copy of the issuing firing starts with. -/
def State.newCopy (s : State) (a b w : Reg) (mode : CopyMode) (sc : Scope) (id : Nat) : Copy :=
  { id := id, owner := some s.me.key, twoD := false, dst := s.rd a, src := s.rd b, cols := 0, rows := 1, sstr := 0, dstr := 0,
    esz := .d, tr := false, mode := mode, sc := sc, cw := s.completion w, lid := s.me.lid, arm := s.tick,
    life := s.mine.tlife.toNat, armed := [], hot := s.hotLayers, emptied := mode != .arrive, pos := 0, reads := [], start := s.tick + 2,
    filling := false, stop := none, sealed := none, done := false }
/-- `CPY` (R331, R332). -/
def execCpy (d a b c w : Reg) (mode : CopyMode) (sc : Scope) (s : State) : Out :=
  .next (s.startCopy d [s.rd a, s.rd b, (s.completion w).getD 0] fun id =>
    { s.newCopy a b w mode sc id with cols := (s.rd c).toNat })
/-- A stride in a register: 32 bits, signed. -/
def strideOf (w : Word) (lo : Nat) : Word := ((w >>> lo).setWidth 32).signExtend 64
/-- `CPY2` (R331, R332). -/
def execCpy2 (d a b c w st : Reg) (mode : CopyMode) (sc : Scope) (esz : Size) (tr : Bool) (s : State) : Out :=
  let cols := field (s.rd c) 15 0
  let rows := field (s.rd c) 31 16
  let ss := strideOf (s.rd st) 0
  let ds := strideOf (s.rd st) 32
  .next (s.startCopy d
    ([s.rd a, s.rd b, (s.completion w).getD 0, ss, ds, BitVec.ofNat 64 (cols * esz.bytes)] ++
      if tr then [BitVec.ofNat 64 (rows * esz.bytes)] else []) fun id =>
    { s.newCopy a b w mode sc id with
      twoD := true, cols := cols, rows := rows, sstr := ss.toInt, dstr := ds.toInt, esz := esz, tr := tr })

/-- The copies attached to the issuing firing whose ids a mask names; 0 names all (R336). -/
def State.attached (s : State) (mask : BitVec 8) : List Copy :=
  s.mine.copies.filter fun x => x.owner == some s.me.key && (mask == 0 || mask.getLsbD x.id)
/-- The stopped one of lowest id. -/
def lowestStop (l : List Copy) : Option Stop :=
  ((List.range 8).findSome? fun i => l.find? fun x => x.id == i && x.stop.isSome).bind (·.stop)
/-- `CPYW`: waits for copies, and traps if one of them stopped (R336). -/
def execCpyw (mask : BitVec 8) (s : State) : Out :=
  let l := s.attached mask
  .next <|
  if l.any fun x => !x.done then s.holdOp
  else
    match lowestStop l with
    | some t => s.trapHere t.cause t.info t.faddr
    | none => s.issue

end Sys2Proof.Machine
end

