-- ==== Sys2Proof/Machine/Firings.lean ====
section
/-!
DEFINITION. Events of firings and of the run queue: choosing an entry, wakes, migration and arrival of records, delivery to
the fault actor, the watchdog, sleep and waking of a core (06_firings R105 to R125, 07_translation R142, 09_full_empty
R183, R184, R188, 11_core R215, 05_distribution R91, R92, 17_control_flow R302).
-/
namespace Sys2Proof.Machine

/-! ### Starting and continuing a firing (R110 to R113) -/

/-- First index and number of indices of a grain of a sweep (R91). -/
def grainRange (l : Launch) (g : Nat) : Word × BitVec 32 :=
  let n := max 1 (l.r.w5.toNat % 2 ^ 32)
  (l.r.w3 + BitVec.ofNat 64 (g * n), BitVec.ofNat 32 (min n (l.r.w4.toNat - g * n)))
/-- %sidx and %scount of a new firing: a grain's for the swept actor on a core that has claimed one, else 0 (R111). -/
def State.sweepOf (s : State) (c : Nat) (i : Inst) : Word × BitVec 32 :=
  match (s.core c).grain, (s.core c).lid?.bind s.launchOf with
  | some g, some l => if l.r.sweep ∧ i.act = l.swact then grainRange l g else (0, 0)
  | _, _ => (0, 0)
/-- The bank of a new firing of an instance, whose first bundle issues `d` ticks from now (R111). -/
def State.newBank (s : State) (c n d : Nat) (i : Inst) (a : Actor) : Bank :=
  let k := s.core c
  let sw := s.sweepOf c i
  { Bank.reset with
    run := .running, lid := k.lid?.getD 0, act := i.act, inst := n, home := c, svc := isSvc c, start := s.timebase,
    readyAt := s.tick + d, pc := a.entry, npc1 := a.entry + 1, npc2 := a.entry + 2, fpctl := k.dfpctl, rbud := k.drbud,
    barb := k.dbarb, sidx := sw.1, scount := sw.2,
    pins := Vector.ofFn fun p => match i.port p.val with
      | some q => if p.val < a.nin then q.headLen else 0
      | none => 0 }

/-- A grain whose entry is dropped goes back to the layer distributor that issued it (R92, R298). -/
def State.giveBack (s : State) (c : Nat) (i : Inst) : State :=
  match (s.core c).grain, (s.core c).lid?.bind s.launchOf with
  | some g, some l =>
    if l.r.sweep ∧ i.gidx = l.insts.length then
      let h : GrainLevel := .layer (coreLayer c)
      let old := ((l.blocks.find? fun b => b.holder == h).map fun b => b.grains).getD []
      (s.modLaunch l.r.lid fun x =>
        { x with blocks := { holder := h, grains := g :: old } :: x.blocks.filter fun b => b.holder != h,
                 issued := x.issued.filter fun y => y.1 != g }).modCore c fun k => { k with grain := none }
    else s
  | _, _ => s
/-- An instance entry that is chosen starts a firing; the triggered mark clears (R110, R111, R296). One whose instance has
a firing in flight or is disabled is dropped (R298). -/
def State.startInst (s : State) (c : Nat) (p : Prio) (n d : Nat) : State :=
  let s' := s.modInst c n fun i => { i with queued := false }
  match s'.inst c n, s'.instActor c n with
  | some i, some a =>
    if i.inflight || i.disabled then s'.giveBack c i
    else (s'.modInst c n fun i => { i with inflight := true, trig := false, started := true }).modBank c p
      fun _ => s'.newBank c n d i a
  | _, _ => s'

/-- A resume entry that is chosen: its record leaves the park table, is checked, and its firing continues (R111, R116,
R124). A firing woken from a park makes one attempt (R183). -/
def State.startResume (s : State) (c : Nat) (p : Prio) (k d : Nat) : State :=
  match s.parkEntry k with
  | none => s
  | some e =>
    let s' := s.freePark k
    if fcrOk e.fcr then
      s'.modBank c p fun _ =>
        { bankOfFcr e.fcr with readyAt := s.tick + d, dropped := e.dropped, wdc := (bankOfFcr e.fcr).wdc + e.ticks, woken := (match e.kind with | .port | .resume => false | _ => true) }
    else s'.corrupt c p e.lid e.home e.inst e.fcr

/-- A low firing is suspended at a tick: its bank stays in place; a SLEEP starts again, a sequence stands at the boundary
before the tick's pass, an array instruction that changes no row runs again in full, a RESUME or ASQL loads its words anew, a TLBI or TLBS
starts another shoot-down, a join that is not complete is made again, and an attempt that has left the core
goes on (R112, R293, R402, R433). -/
def Bank.suspend (b : Bank) (t : Nat) : Bank :=
  { b with run := .suspended, wasSusp := true, op := match b.op with
    | .sleep _ _ => .idle
    | .array d (some c) (some st) _ v => .array (d + (t - st)) (some c) none false v
    | .array _ none _ _ _ | .gather .. | .shoot _ => .idle
    | .fold none _ => .idle
    | o => o }
/-- A suspended firing continues 2 ticks after the high firing's last bundle: a retry whose wait was running is made at
once, and only an answer that came meanwhile counts as one of the suspension (R112, R113, R433). -/
def Bank.continue (b : Bank) (t : Nat) : Bank :=
  { b with run := .running, readyAt := max b.readyAt (t + 1),
           wasSusp := (match b.op with
             | .fe _ _ _ _ (.answered _) | .send _ (.answered _) => true
             | _ => false),
           op := match b.op with
             | .fe n key pa lat (.resting _) => .fe n key pa lat .ready
             | .send n (.resting _) => .send n .ready
             | o => o }

/-- The entry at the head of a FIFO, if it may be considered: appended before this tick, and the bank's hold buffer empty
(R110, R123). -/
def State.headEntry (s : State) (p : Prio) : Option Entry :=
  let k := s.mine
  let held := !(k.held p).isEmpty
  match k.fifo p with
  | [] => none
  | e :: _ => if held || decide (s.tick ≤ e.tick) then none else some e

/-- Where a low firing stands in a sequence of passes: whether the pass of this tick is its last one (R402). -/
def Bank.atPass (b : Bank) : Option Bool := match b.op with | .array _ (some _) (some _) fin _ => some fin | _ => none
/-- Whether a low firing's sequence makes its pass of this tick before a high entry suspends it: that of the tick in which the
entry is first considered, and the last one, with which its bundle issues (R112, R402). -/
def State.passFirst (s : State) (e : Entry) : Bool :=
  s.mine.low.run == .running && (match s.mine.low.atPass with
    | some fin => fin || decide (e.tick + 1 = s.tick)
    | none => false)
/-- Start the entry at the head of a FIFO: a high entry suspends a running low firing and issues its first bundle 2 ticks
after the boundary, which in a sequence is that of the pass before; any other entry in 3 (R111, R112, R402). A FIFO with room
again takes the entries that are due (R109). -/
def State.startEntry (s : State) (p : Prio) (e : Entry) : State :=
  let fast := p == .high && s.mine.low.run == .running
  let d := if fast then (if s.mine.low.atPass.isSome then 1 else 2) else 3
  let s1 := s.modMine fun k =>
    let k' := { k.setFifo p (k.fifo p).tail with cur := p }
    if fast then k'.modBank .low (Bank.suspend · s.tick) else k'
  let s1 := if fast then s1.dropGroup s.mine.low.key else s1
  let s2 := match e with
    | .inst n _ => s1.startInst s.here p n d
    | .resume k _ => s1.startResume s.here p k d
  let s3 := s2.restIdle s.here
  if s3.park.any fun x => x.st == .due && x.origin == s.here && x.prio == p then s3.enqueue s.tick s.here p 0 .resumeEntryDue
  else s3

/-- What a core issues from at a bundle boundary (R110). A sleeping core waits until it has woken (R215). -/
def State.choose (s : State) : State :=
  let k := s.mine
  if k.asleep then s
  else if k.high.run = .running then s.modMine fun k => { k with cur := .high }
  else
    match s.headEntry .high with
    | some e => if s.passFirst e then s.modMine fun k => { k with cur := .low } else s.startEntry .high e
    | none =>
      match k.low.run with
      | .suspended => s.modMine fun k => { k.modBank .low (Bank.continue · s.tick) with cur := .low }
      | .running => s.modMine fun k => { k with cur := .low }
      | .none => match s.headEntry .low with
        | some e => s.startEntry .low e
        | none => s

/-- `ENTRY_START`: at a bundle boundary the core chooses what to issue or start (R110). -/
def execEntryStart (s : State) : Out := .next s.choose

/-! ### Attempts, wakes and expiry (R178, R183, R184, R188) -/

/-- `FE_ATTEMPT`: the rest of a waiting operation is over (R178). -/
def execFeAttempt (s : State) : Out :=
  .next (s.modBank s.here s.evPrio fun b =>
    match b.op with
    | .fe n key pa lat (.resting d) => if d ≤ s.tick then { b with op := .fe n key pa lat .ready } else b
    | _ => b)

/-- `WAKE_APPEND`: a woken record is appended at its origin core; one that is not yet written is waited for, and one whose
launch is pre-empted is held (R180, R184). -/
def execWakeAppend (s : State) : Out :=
  .next <| match s.parkEntry s.evNum with
  | none => s
  | some e =>
    if e.st ≠ .woken then s
    else if s.preempted e.lid then s.modPark e.id fun x => { x with st := .heldWake }
    else if e.fcr.isEmpty then s.enqueue (s.tick + 1) s.here s.evPrio e.id .wakeAppend
    else s.pushResume e

/-- Whether an entry holds a firing parked on a word. -/
def ParkEntry.onWord (e : ParkEntry) : Bool :=
  e.st == .parked && (match e.kind with | .port | .resume => false | _ => true)
/-- A block expires: its words are zero, its full words become empty, and every firing parked on a word of it is woken (R168,
R188). -/
def State.expire (s : State) (blk : Nat) : State :=
  let s1 := { s with blocks := s.blocks.filter fun b => b.blk != blk, mem := s.mem.filter fun x => !inBlock blk x.1,
                     empties := emptyBlock s.empties blk }
  let s2 := (s1.park.filter fun e => e.onWord && inBlock blk e.key).foldl State.wakeEntry s1
  (s2.watches.filter fun w => inBlock blk w.2).foldl (fun st w => st.later 0 (3 * w.2 + 2) .remoteWakeNotice) s2
/-- `TRANSIENT_EXPIRY`: the deadline of an armed block (R168, R188). -/
def execTransientExpiry (s : State) : Out :=
  .next (if s.blocks.any fun b => b.blk == s.evNum && decide (b.deadline ≤ s.tick) then s.expire s.evNum else s)

/-! ### Migration and arrival of records (R109, R117, R118) -/

/-- `MIGRATION_DEPART`: the record is written with KIND MIGRATE and one more migration, and shipped to the target (R117). -/
def execMigrationDepart (s : State) : Out :=
  let b := s.bank s.here s.evPrio
  .next <| match b.leaving with
  | some (.migrate t) =>
    if s.quiet s.here s.evPrio then
      let s1 := s.modBank s.here s.evPrio fun b => { b with migc := b.migc + 1 }
      let tr : Transit :=
        { id := s.nextId, fcr := s1.fcr s.here s.evPrio .migrate noTrap 0, core := t, lid := b.lid, home := b.home,
          inst := b.inst, prio := s.evPrio, arrived := false, dropped := b.dropped }
      (({ s1 with transit := s1.transit ++ [tr] }.bumpId).clearBank s.here s.evPrio).enqueue (s.tick + oneWay s.here t) t
        s.evPrio tr.id .fcrArrive
    else s
  | _ => s

/-- `FCR_ARRIVE`: a record that migrated or was resumed reaches its core and takes an entry of the core's set, or waits for
one in order of arrival (R109). It stays on its way while its launch is pre-empted, and is lost with its layer (R95). -/
def execFcrArrive (s : State) : Out :=
  .next <| match s.transit.find? fun t => t.id == s.evNum with
  | none => s
  | some t =>
    if (s.launchOf t.lid).isNone || (s.layer (coreLayer t.core)).fenced then
      ({ s with transit := s.transit.filter fun u => u.id != t.id }.poke t.lid).loseFiring (bankOfFcr t.fcr)
    else if s.preempted t.lid then s.enqueue (s.tick + 16) s.here s.evPrio t.id .fcrArrive
    else if s.setRoom (coreTower t.core) (s.coreSet t.core) then s.letIn t
    else
      { s with transit := (s.transit.filter fun u => u.id != t.id) ++ [{ t with arrived := true }] }

/-- The entry of a core and priority that has been due for longest, of a launch that is not pre-empted. -/
def State.dueFirst (s : State) (c : Nat) (p : Prio) : Option ParkEntry :=
  (firstParked (s.park.filter fun e => e.st == .due && e.origin == c && e.prio == p && !s.preempted e.lid)).head?
/-- `RESUME_ENTRY_DUE`: a due resume entry is appended once its FIFO holds fewer than 448 entries (R109). -/
def execResumeEntryDue (s : State) : Out :=
  .next <| match s.dueFirst s.here s.evPrio with
  | some e => if ((s.core s.here).fifo s.evPrio).length < 448 then s.pushResume e else s
  | none => s

/-! ### The fault actor's port (R123) -/

/-- The fault actor instance of the launch that holds a core, if it stands on that core. -/
def State.faultHere (s : State) (c : Nat) : Option Nat :=
  match ((s.core c).lid?.bind s.launchOf).bind faultActor with
  | some (fc, n) => if fc = c then some n else none
  | none => none
/-- Append a reserved record to port 0 and free its entry. -/
def State.appendFcr (s : State) (c n : Nat) (e : ParkEntry) : State :=
  (((s.modInst c n fun i => { i with ports := i.ports.modify 0 fun q => { q with reserved := q.reserved - 64 } }).appendMsg c n 0
    e.fcr).freePark e.id).poke e.lid
/-- Reserve 64 words of port 0 for the record that has waited longest, one at a time. -/
def State.reserveFcr (s : State) (c n : Nat) : State :=
  let mine := s.park.filter fun e => e.kind == .port && e.origin == c && (s.core c).lid? == some e.lid
  match (firstParked (mine.filter fun e => e.st == .parked)).head?, (s.inst c n).bind fun i => i.port 0 with
  | some e, some q =>
    if 64 ≤ q.free ∧ (mine.any fun e => e.st == .reserved) = false then
      let due := s.tick + 24 + 36 * towerHops e.tower (coreTower c)
      ((s.modPark e.id fun x => { x with st := .reserved, due := due }).modInst c n fun i =>
        { i with ports := i.ports.modify 0 fun q => { q with reserved := q.reserved + 64 } }).enqueue due c .low 0 .fcrDeliver
    else s
  | _, _ => s
/-- `FCR_DELIVER`: a record whose words were reserved is appended; then the next is looked for (R123). -/
def execFcrDeliver (s : State) : Out :=
  .next <| match s.faultHere s.here with
  | none => s
  | some n =>
    if s.preempted ((s.core s.here).lid?.getD 0) then s
    else
      let due := s.park.filter fun e => e.kind == .port && e.origin == s.here && (s.core s.here).lid? == some e.lid && e.st == .reserved &&
        decide (e.due ≤ s.tick)
      (due.foldl (fun st e => st.appendFcr s.here n e) s).reserveFcr s.here n

/-- The record in a bank's hold buffer leaves it; one that waits behind it is offered in 64 ticks (R123). -/
def State.dropHeld (s : State) (c : Nat) (p : Prio) : State :=
  let r := ((s.core c).held p).tail
  let s1 := s.modCore c fun k => k.setHeld p r
  if r.isEmpty then s1 else s1.enqueue (s.tick + 64) c p 0 .holdBufferOffer
/-- A held record is discarded: nobody will resume its firing (R93, R123). -/
def State.discardFcr (s : State) (h : Hold) : State :=
  match s.launchOf h.lid with
  | some l => (s.fcrGone l s.here h.fcr).poke h.lid
  | none => s
/-- `HOLD_BUFFER_OFFER`: the held record is offered to its set again; a refusal counts, and the next offer follows in 64
ticks (R123, R185). Where a fence has taken the fault actor away, the record waits for an actor that is placed again, and is
discarded where none will be (R95). -/
def execHoldBufferOffer (s : State) : Out :=
  .next <| match (s.core s.here).held s.evPrio with
  | [] => s
  | h :: _ =>
    match (s.launchOf h.lid).bind faultActor with
    | none =>
      if (s.launchOf h.lid).any fun l => l.lost.any fun x => x.1 == l.faulti then
        s.enqueue (s.tick + 64) s.here s.evPrio 0 .holdBufferOffer
      else (s.dropHeld s.here s.evPrio).discardFcr h
    | some (fc, n) =>
      match (s.inst fc n).bind fun i => i.port 0 with
      | none => (s.dropHeld s.here s.evPrio).discardFcr h
      | some q =>
        match s.portPark fc (mailKey fc q.base) h with
        | some s' => s'.dropHeld s.here s.evPrio
        | none => (s.countSetFull h.tower).enqueue (s.tick + 64) s.here s.evPrio 0 .holdBufferOffer

/-! ### The watchdog (R121, R122) -/

/-- The opcode at a bundle of a core, for INFO of a WATCHDOG trap (R122). -/
def State.opcodeAt (s : State) (c : Nat) (pc : Bundle13) : BitVec 48 :=
  BitVec.ofNat 48 (field (s.rdWord (bundleKey c pc.toNat)) 30 24)
/-- Whether the operation of a bank's bundle is decided, so that the bundle issues or traps at this boundary (R120, R322, R353,
R433). -/
def Bank.resolved (b : Bank) : Bool :=
  match b.op with
  | .fe _ _ _ _ (.answered .notReady) => b.lastOne
  | .send _ (.answered .refuse) => false
  | .fe _ _ _ _ (.answered _) | .send _ (.answered _) | .fold (some _) true | .array _ _ _ true _ => true
  | _ => false
/-- Whether an attempt of a bank has left the core, or is decided, or whether its join has completed (R322, R353, R433). -/
def Bank.unsettled (b : Bank) : Bool :=
  b.resolved || (match b.op with
  | .fe _ _ _ _ (.flying _) | .send _ (.flying _) | .fold (some _) _ => true
  | _ => false)
/-- Whether an attempt of a bank is out, or has succeeded and its bundle has still to be completed (R433, R322). -/
def Bank.resolving (b : Bank) : Bool := b.unsettled
/-- A parked firing is ended: its record becomes that of a trap (R122). -/
def State.watchdogParked (s : State) (e : ParkEntry) : State :=
  let pc : Bundle13 := (fcrWord e.fcr 1).setWidth 13
  let w5 := BitVec.ofNat 64 (0x0A + place (s.opcodeAt e.origin pc).toNat 48 16)
  let lim := min ((s.core e.origin).wdlim.toNat * 1024) 0xFFFFFFFF
  let f := sealFcr ((((e.fcr.take 63).set 5 w5).set 7 0).set 15 (BitVec.ofNat 64 lim))
  let s1 := (s.freePark e.id).modCore e.origin fun k =>
    { k with cause := BitVec.ofNat 30 (0x0A + place pc.toNat 13 16 + place (bitN (e.prio == .high)) 1 29) }
  let s2 := (s1.modInst e.home e.inst fun i => { i with inflight := false, disabled := true }).modLaunch e.lid fun l =>
    { l with faults := l.faults + 1 }
  (s2.deliver e.origin e.prio e.lid e.home e.inst f).poke e.lid
/-- `WATCHDOG_EXPIRY`: of the running firing of a bank, or, by its number, of a parked one; a wake of the same tick has come
first, and an attempt that has left the core is waited for (R122). -/
def execWatchdogExpiry (s : State) : Out :=
  .next <|
  if s.evNum = 0 then
    let b := s.bank s.here s.evPrio
    let lim := (s.core s.here).wdlim.toNat * 1024
    if b.run = .running ∧ b.leaving = none ∧ lim ≠ 0 ∧ lim ≤ b.wdc ∧ b.unsettled = false then
      s.takeTrap s.here s.evPrio 0x0A (s.opcodeAt s.here b.pc) 0
    else s
  else
    match s.parkEntry s.evNum with
    | some e => if e.onWord && !s.preempted e.lid && decide (e.due ≤ s.tick) && e.due != 0 then s.watchdogParked e else s
    | none => s

/-! ### Sleep and waking of a core (R142, R215) -/

/-- `CORE_SLEEP`: a core that has been idle for 4096 ticks sleeps (R142). -/
def execCoreSleep (s : State) : Out :=
  .next (if (s.core s.here).idle && decide ((s.core s.here).idleAt + 4096 ≤ s.tick) then
    s.modCore s.here fun k => { k with asleep := true } else s)
/-- `CORE_WAKE`: a core wakes with an empty L1 TLB; the first of a sleeping quad flushes the quad TLB as well (R142, R215). -/
def execCoreWake (s : State) : Out :=
  let flush := !isSvc s.here && (quadCores s.here).all fun d => s.sleeps d || d == s.here
  let s1 := if flush then { s with quadTlb := s.quadTlb.filter fun x => x.1 != coreQuad s.here } else s
  .next (if (s.core s.here).asleep then s1.modCore s.here fun k => { k with asleep := false, tlb := [] } else s)

/-- `START_MESSAGE_ARRIVE`: the core may issue, and the instances without input ports become ready once; the swept actor
does so by its grains (R89, R108). It comes after everything that the distributors write for the launch is performed (R89). -/
def execStartMessageArrive (s : State) : Out :=
  match (s.core s.here).lid?.bind s.launchOf with
  | none => .next s
  | some l =>
    if !s.acked (distKey l.r.lid) then .next (s.enqueue (s.tick + 1) s.here .low 0 .startMessageArrive)
    else
    let s0 := (if l.st = .running then s.modCore s.here fun k => { k with halt := false } else s).poke l.r.lid
    let s1 := if l.r.sweep then s0.enqueue s.tick s.here .low 0 .grainClaim else s0
    .next ((List.range (s.core s.here).insts.length).foldl (fun st n =>
      match st.inst s.here n, st.instActor s.here n with
      | some i, some a =>
        if i.placed && !i.started && !i.queued && a.nin == 0 && !(l.r.sweep && i.act == l.swact) then
          (st.modInst s.here n fun j => { j with started := true }).pushInst s.here n
        else st
      | _, _ => st) s1)

end Sys2Proof.Machine
end

