-- ==== Sys2Proof/Machine/Messages.lean ====
section
/-!
DEFINITION. Messages and barriers (18_messages_barriers R316 to R329).
-/
namespace Sys2Proof.Machine

/-! ### SEND (R317, R318, R320 to R322) -/

/-- Whether the ordered-class release of the issuing firing is performed: everything earlier but remote stores (R197). -/
def State.orderedReleased (s : State) : Bool := !(s.accesses.any fun a => s.own a && !a.remote && a.ans.isNone)
/-- Whether a port address names another package. -/
def State.portFar (s : State) (port : Word) : Bool := portPkg port != s.pkgId
/-- One-way time of a message (R320, R321). -/
def State.msgWay (s : State) (c : Nat) (port : Word) : Nat := if s.portFar port then outWay c else oneWay c (portCore port)
/-- One attempt of a SEND leaves the core. -/
def State.sendTry (s : State) (port : Word) (ws : List Word) (n : Nat) : State :=
  let m : Msg :=
    { id := s.nextId, src := s.here, prio := s.mine.cur, lid := s.me.lid, dst := portCore port, kind := .send port ws }
  let s1 := s.modMe fun b => { b with op := .send n (.flying m.id), wasSusp := false }
  ({ s1 with msgs := s1.msgs ++ [m] }.bumpId.enqueue (s.tick + s.msgWay s.here port) s.here s.mine.cur m.id .messageArrive).holdOp
/-- One more message on an output port (R318). -/
def Bank.countOut (b : Bank) (port : Word) : Bank :=
  { b with ocnt := vset b.ocnt (portOut port) (satAdd (vget b.ocnt (portOut port) 0) 1) }
/-- A refusal is over: the next attempt leaves at once where the answer came while the firing was suspended, else in 16
ticks (R113, R318, R322). -/
def State.sendAgain (s : State) (n : Nat) (retry : State → Nat → State) : State :=
  if s.me.wasSusp then retry s n
  else
    ((s.modMe fun b => { b with op := .send n (.resting (s.tick + 16)) }).enqueue (s.tick + 16) s.here s.mine.cur 0
      .sendRetry).holdOp
/-- The answer to a SEND (R318, R321). -/
def State.sendAnswered (s : State) (port : Word) (ws : List Word) (n : Nat) (a : MsgAnswer) : State :=
  match a with
  | .accept => (s.modMe fun b => b.countOut port).issue
  | .invalid => s.trapHere 0x04 0 port
  | .refuse =>
    if s.portFar port then s.sendAgain n fun st m => st.sendTry port ws m
    else if n = s.me.rbud.toNat ∧ s.me.rbud ≠ 0xFFFF then s.trapHere 0x07 0 0
    else s.sendAgain (n + 1) fun st m => st.sendTry port ws m
/-- `SEND` (R318); one towards a package without a route is dropped (R39). -/
def execSend (a b : Reg) (l : Fin 8) (s : State) : Out :=
  let port := s.rd a
  let ws := s.me.rdFrom b (l.val + 1)
  .next <| match s.me.op with
  | .send n (.answered x) => s.sendAnswered port ws n x
  | .send n .ready => s.sendTry port ws n
  | .send _ _ => s.holdOp
  | _ =>
    if !portOk port then s.trapHere 0x04 0 port
    else if s.portFar port && !(s.route (portPkg port)).valid then
      (s.modMe fun b => { b with dropped := some (b.dropped.getD port) }).issue
    else if s.orderedReleased then s.sendTry port ws 0
    else s.holdOp
/-- `SEND_RETRY`: the rest of a refused SEND or push is over (R318). -/
def execSendRetry (s : State) : Out :=
  .next (s.modBank s.here s.evPrio fun b =>
    match b.op with
    | .send n (.resting d) => if d ≤ s.tick then { b with op := .send n .ready } else b
    | _ => b)

/-! ### At the destination (R319, R321) -/

/-- Whether a core is on a fenced layer. -/
def State.coreFenced (s : State) (c : Nat) : Bool := (s.layer (coreLayer c)).fenced
/-- How a destination core answers a message of a launch to a port, and what it does with it (R319). -/
def State.takeMsg (s : State) (lid : BitVec 32) (c inst port : Nat) (ws : List Word) : MsgAnswer × State :=
  if s.coreFenced c then (.accept, s)
  else if (s.core c).lid? ≠ some lid then (.invalid, s)
  else
    match s.inst c inst with
    | none => (.invalid, s)
    | some i =>
      match i.port port with
      | none => (.invalid, s)
      | some q =>
        if !i.placed then (.invalid, s)
        else if ws.length ≤ q.free then (.accept, s.appendMsg c inst port ws)
        else (.refuse, s)
/-- Whether a packet is a message or a ring push, which an outbound queue of 64 holds (R321). -/
def isMessage : Packet → Bool | .message .. | .push .. => true | _ => false
/-- Messages in the queue of a link on a tower's base die, also those that a link which went down keeps waiting, or that RESEND has put
on another (R40, R321). -/
def State.outboundLoad (s : State) (t l : Nat) : Nat :=
  (s.span.toList.map fun x => (x.outq.filter fun e => e.tower == t && e.queue == l && isMessage e.pk).length).sum
/-- The base die of a sender's tower takes a message or push for a package into its queue of the link, or has no room (R321). -/
def State.takeOutbound (s : State) (c owner : Nat) (p : BitVec 12) (x : Packet) : MsgAnswer × State :=
  let l := (s.route p).olink.toNat
  if s.outboundLoad (coreTower c) l < 64
  then (.accept, s.sendOut { tower := coreTower c, queue := l, owner := owner, dst := p, pk := x }) else (.refuse, s)
/-- The package that a message or push is for. -/
def Msg.pkg (m : Msg) : BitVec 12 := match m.kind with | .send port _ => portPkg port | .push addr _ => portPkg addr
/-- Whether a code store that a message's source core sent to the same core before it has still to arrive, or, for another package,
to enter its link's queue: both are on one ordered route, so the message comes behind it (R193, R201). -/
def State.codeAhead (s : State) (m : Msg) : Bool :=
  s.accesses.any fun a => a.core == m.src && decide (a.id < m.id) && a.codeOut && a.codeTo == some (m.pkg, m.dst)
/-- `MESSAGE_ARRIVE`: a message reaches its destination core, or its outbound queue, and its answer leaves: a flit there, and one back
(R28, R319, R320). -/
def execMessageArrive (s : State) : Out :=
  .next <| match s.msgs.find? fun m => m.id == s.evNum with
  | none => s
  | some m =>
    match m.kind with
    | .send port ws =>
      if s.codeAhead m then s.enqueue (s.tick + 1) m.src m.prio m.id .messageArrive
      else
      let r := if s.portFar port then s.takeOutbound m.src (s.bank m.src m.prio).key (portPkg port) (.message m.lid port ws) else s.takeMsg m.lid m.dst (portInst port) (portPort port) ws
      (r.2.crossing.crossing).enqueue (s.tick + s.msgWay m.src port) m.src m.prio m.id (.messageAnswerArrive m.src m.prio r.1)
    | .push .. => s

/-- Numbers from here on name the target of a broadcast, not a message. -/
def bcastNum : Nat := 2 ^ 64
/-- A target's answer to the outstanding broadcast of a core: a refusal is sent again 16 ticks later (R416). -/
def State.bcastAnswer (s : State) (c target : Nat) (a : MsgAnswer) : State :=
  match a with
  | .refuse => s.enqueue (s.tick + 16) c .low target .broadcastRetry
  | _ => s.modCore c fun k =>
    { k with bcast := k.bcast.bind fun x => let l := x.left.filter fun d => d != target
                                            if l.isEmpty then none else some { x with left := l } }
/-- `MESSAGE_ANSWER_ARRIVE`: the answer to a SEND, a remote push or a broadcast reaches its core; the bundle goes on by it
(R318, R322, R416). -/
def execMessageAnswerArrive (c : Nat) (p : Prio) (a : MsgAnswer) (s : State) : Out :=
  .next <|
  if bcastNum ≤ s.evNum then s.bcastAnswer c (s.evNum - bcastNum) a
  else
    let lids := (s.msgs.filter fun m => m.id == s.evNum).map (·.lid)
    (lids.foldl State.poke { s with msgs := s.msgs.filter fun m => m.id != s.evNum }).modBank c p fun b =>
      match b.op with
      | .send n (.flying k) => if k = s.evNum then { b with op := .send n (.answered a) } else b
      | _ => b

/-! ### RECV and PCNT (R323) -/

/-- Latency of a read of the firing's own input ports: a migrated firing asks its home core. -/
def State.portLat (s : State) : Nat := if s.me.home = s.here then 2 else 2 + 2 * oneWay s.here s.me.home
/-- An input port of the issuing firing's instance. -/
def State.myPort (s : State) (p : Nat) : Option Port := (s.inst s.me.home s.me.inst).bind fun i => i.port p
/-- Mailbox word that RECV reads, if the message has it. -/
def recvAt (q : Port) (m w : Nat) : Option Nat :=
  if m < q.msgs.length ∧ w < q.msgs.getD m 0 then some (q.at (q.head + (q.msgs.take m).sum + w)) else none
/-- `RECV`: a poisoned word traps MEMERR (R29, R323). -/
def execRecv (d a : Reg) (p w : Fin 8) (s : State) : Out :=
  let m := field (s.rd a) 31 0
  let ix := 8 * field (s.rd a) 34 32 + w.val
  .next <| match (s.myPort p.val).bind fun q => recvAt q m ix with
  | none => (s.wrC s.portLat d 0).issue
  | some i =>
    let key := mailKey s.me.home i
    let s' := s.meet key
    if s'.poisoned key then s'.trapHere 0x14 0 (BitVec.ofNat 64 (s.pkgId.toNat * 2 ^ 44 + key))
    else (s'.wrC s.portLat d (s.rdWord key)).issue
/-- `PCNT` (R323). -/
def execPcnt (d : Reg) (p : Fin 8) (s : State) : Out :=
  let v : Word := match s.myPort p.val with
    | none => 0
    | some q => BitVec.ofNat 64 (q.msgs.length % 4096 + place q.free 12 12)
  .next (s.wrC s.portLat d v).issue

/-! ### Barriers (R324 to R329) -/

/-- Release scope of a level (R324). -/
def levelScope : Level → Scope
  | .quad => .quad | .row | .col | .layer => .layer | .fold | .tower => .tower | .pkg => .pkg | .pod => .pod
/-- Release latency of a level inside the package (R324). -/
def levelLat : Level → Nat
  | .quad => 3 | .row | .col => 6 | .layer => 14 | .fold => 4 | .tower => 20 | .pkg => 60 | .pod => 1050
/-- Whether a bank runs a grain firing of a sweep. -/
def Bank.inGrain (b : Bank) (l : Launch) : Bool := b.run != .none && b.lid == l.r.lid && (b.grainOf l).isSome
/-- Whether a launch holds a core for its barriers and broadcasts: of a sweep, a core that holds an instance of the instance table or
runs a grain firing (R324, R415). -/
def State.counts (s : State) (l : Launch) (c : Nat) : Bool :=
  !l.r.sweep || (s.core c).low.inGrain l || (s.core c).high.inGrain l || (s.core c).insts.any fun i => i.placed && decide (i.gidx < l.insts.length)
/-- The members of a group (R324). -/
def State.members (s : State) (l : Launch) (lv : Level) (grp : Nat) : List Nat :=
  l.cores.filter fun c => barGroup lv c == grp && s.counts l c
/-- The other packages of the pod: those with a valid route (R324). -/
def State.podPackages (s : State) : List (BitVec 12) :=
  s.routes.filterMap fun r => if r.2.valid && BitVec.ofNat 12 r.1 != s.pkgId then some (BitVec.ofNat 12 r.1) else none
/-- A pod phase is complete when every package's token stands; it takes the tokens, and releases after a time that depends
on the longest route: 1050 ticks where there is no other package (R324). -/
def State.podCheck (s : State) (lid : BitVec 32) (fig : Nat) : State :=
  let all := s.pkgId :: s.podPackages
  let s1 := { s with podTokens := all.foldl (fun l p => l.erase (p, lid)) s.podTokens }
  if all.all fun p => s.podTokens.contains (p, lid) then
    if s.podPackages.isEmpty then s1.enqueue (s.tick + 1050) 0 .low 0 (.barrierRelease .pod lid 0)
    else (s1.delayed).enqueue (s.tick + s.delay fig) 0 .low 0 (.barrierRelease .pod lid 0)
  else s
/-- This package's members have all arrived: its token goes to every other package, once (R324). -/
def State.podArrive (s : State) (lid : BitVec 32) : State :=
  if s.podTokens.contains (s.pkgId, lid) then s
  else
    let s1 := { s with podTokens := s.podTokens ++ [(s.pkgId, lid)] }
    (s1.podPackages.foldl (fun st p => st.toSpan p (.barrier s.pkgId lid)) s1).podCheck lid 1190
/-- A phase whose members have all arrived is complete in this tick (R324). -/
def State.checkPhase (s : State) (lv : Level) (lid : BitVec 32) (grp : Nat) : State :=
  match s.launchOf lid with
  | none => s
  | some l =>
    let ms := s.members l lv grp
    if ms.isEmpty || s.phaseDone lv lid grp || !(ms.all fun c => (s.core c).arrived lv) then s
    else if lv = .pod then s.podArrive lid
    else s.enqueue (s.tick + levelLat lv) 0 .low 0 (.barrierRelease lv lid grp)
/-- The barrier levels. -/
def allLevels : List Level := [.quad, .row, .col, .layer, .fold, .tower, .pkg, .pod]
/-- Look at every phase of a launch, after cores have left it (R324). -/
def State.checkPhases (s : State) (lid : BitVec 32) : State :=
  match s.launchOf lid with
  | none => s
  | some l => l.cores.foldl (fun st c => allLevels.foldl (fun st lv =>
      if (st.core c).arrived lv then st.checkPhase lv lid (barGroup lv c) else st) st) s

/-- The bundle is held at a barrier in a tick; one count bounds all its holds (R328). -/
def State.holdBar (s : State) (l : Level) (st : BarStage) : State :=
  let s1 := (s.modMe fun b => { b with op := .bar l st, barHeld := b.barHeld + 1 }).holdOp
  let lim := s.me.barb.toNat * 64
  if lim ≠ 0 ∧ lim ≤ s1.me.barHeld then s1.enqueueLast (s.tick + 1) s.here s.mine.cur 0 .barrierTimeout else s1
/-- The arrive of BAR and BARA: behind the previous phase and the release; then `go` (R327). -/
def State.arriveBar (s : State) (l : Level) (go : State → State) : State :=
  if s.mine.arrived l || !s.released (levelScope l) then s.holdBar l .arrive
  else go ((s.modMine fun k => k.setArr l true).checkPhase l (s.mine.lid?.getD 0) (barGroup l s.here))
/-- The wait of BAR and BARW (R327). -/
def State.waitBar (s : State) (l : Level) (own : Bool) : State :=
  if s.mine.arrived l && s.me.arrOwn != some (l, true) then s.holdBar l (.wait own) else s.issue
/-- `BAR`: arrives, then waits, as one bundle, for the phase of its own arrival, though a halt or a pre-emption has come between;
on a service core it does nothing (R327, R329). -/
def execBar (l : Level) (s : State) : Out :=
  .next <|
  if isSvc s.here then s.issue
  else if s.me.arrOwn.isSome then s.waitBar l true
  else s.arriveBar l fun st => (st.modMe fun b => { b with arrOwn := some (l, false) }).holdBar l (.wait true)
/-- `BARA` (R327). -/
def execBara (l : Level) (s : State) : Out := .next (if isSvc s.here then s.issue else s.arriveBar l State.issue)
/-- `BARW` (R327). -/
def execBarw (l : Level) (s : State) : Out := .next (if isSvc s.here then s.issue else s.waitBar l false)
/-- `BARRIER_RELEASE`: at every member ARR clears and SENSE flips (R327). -/
def execBarrierRelease (lv : Level) (lid : W32) (grp : Nat) (s : State) : Out :=
  .next <| match s.launchOf lid with
  | none => s
  | some l =>
    if l.st = .preempted then s.later 16 0 (.barrierRelease lv lid grp) else
    (l.cores.filter fun c => (s.core c).lid? == some lid && barGroup lv c == grp && (s.core c).arrived lv).foldl (fun st c => st.modCore c fun k =>
      { (k.setArr lv false) with
        barSense := k.barSense ^^^ BitVec.ofNat 8 (2 ^ levelIx lv), low := k.low.phaseOver lv, high := k.high.phaseOver lv }) s
/-- `BARPH_WITHDRAW`: WD withdraws pending arrivals (R325). -/
def execBarphWithdraw (c : Nat) (v : Word) (s : State) : Out :=
  .next (allLevels.foldl (fun st l =>
    if bitOf v (16 + levelIx l) && (st.core c).arrived l then st.withdraw c l else st) s)
/-- `POD_BARRIER_TOKEN`: a token of another package arrives; under this package's own id, a route has changed (R324). -/
def execPodBarrierToken (src : BitVec 12) (lid : W32) (s : State) : Out :=
  .next (if src = s.pkgId then s.podCheck lid 1050 else ({ s with podTokens := s.podTokens ++ [(src, lid)] }).podCheck lid 1050)
/-- Whether a bank's barrier bundle would still be held in this tick. -/
def State.barStuck (s : State) (c : Nat) (p : Prio) : Bool :=
  let b := s.bank c p
  match b.op with
  | .bar l .arrive =>
    (s.core c).arrived l ||
      (s.accesses.any fun a => a.core == c && a.prio == p && a.fid == b.key && a.owes (levelScope l))
  | .bar l (.wait _) => (s.core c).arrived l && b.arrOwn != some (l, true)
  | .fold none _ => true
  | _ => false
/-- `BARRIER_TIMEOUT`: the holds of a bundle have lasted LIMIT × 64 ticks, and no release of this tick has come first
(R328). -/
def execBarrierTimeout (s : State) : Out :=
  let b := s.bank s.here s.evPrio
  let lim := b.barb.toNat * 64
  .next (if b.run = .running ∧ b.leaving = none ∧ lim ≠ 0 ∧ lim ≤ b.barHeld ∧ s.barStuck s.here s.evPrio = true then
    s.takeTrap s.here s.evPrio 0x09 0 0 else s)

end Sys2Proof.Machine
end

