-- ==== Sys2Proof/Machine/Rings.lean ====
section
/-!
DEFINITION. Rings (19_copy_rings R338 to R345).
-/
namespace Sys2Proof.Machine

/-! ### A ring's state (R338) -/

/-- A ring of a core. -/
def Core.ring (k : Core) (h : RingNo) : Ring := vget k.rings h.val Ring.reset
/-- Change a ring of a core. -/
def State.modRing (s : State) (c : Nat) (h : RingNo) (f : Ring → Ring) : State :=
  s.modCore c fun k => { k with rings := vset k.rings h.val (f (k.ring h)) }
/-- Free slots. -/
def Ring.free (r : Ring) : Nat := r.nslot.toNat - r.filled.toNat - r.held.toNat - r.pend.toNat
/-- Virtual address of a slot. -/
def Ring.slot (r : Ring) (n : Nat) : Word := BitVec.ofNat 64 (r.base.toNat + n * 2 ^ r.log2sz.toNat)
/-- A slot number, some slots on. -/
def Ring.plus (r : Ring) (i : BitVec 6) (n : Nat) : BitVec 6 := BitVec.ofNat 6 ((i.toNat + n) % max 1 r.nslot.toNat)
/-- A word of the descriptor (R338). -/
def Ring.word (r : Ring) (i : Nat) : Word :=
  match i with
  | 0 => r.base.setWidth 64
  | 1 => BitVec.ofNat 64 (r.log2sz.toNat + place r.nslot.toNat 7 6 + place (bitN r.fe) 1 13 + place (bitN r.valid) 1 14)
  | 2 => BitVec.ofNat 64 (r.tail.toNat + place r.head.toNat 6 8 + place r.freep.toNat 6 16 + place r.filled.toNat 7 24 +
      place r.held.toNat 7 32 + place r.pend.toNat 7 40)
  | 3 => BitVec.ofNat 64 (r.pushes.toNat + place r.pops.toNat 32 32)
  | _ => 0
/-- Whether an outstanding fold operation names a ring of a core (R339), or one that ended in this tick has still to take its slot
(R345; log entry 124). -/
def State.folds (s : State) (c : Nat) (h : RingNo) : Bool :=
  ((s.core c).ring h).read || s.foldOps.any fun o => o.rings.any fun x => x.1 == c && (x.2.1 == h || x.2.2 == h)

/-! ### Push (R341) -/

/-- The core that a ring address names, in the layout of a map word. -/
def pushCore (a : Word) : Nat := portCore a
/-- Whether a ring address is well formed. -/
def pushOk (a : Word) : Bool := bitOf a 63 && field a 62 31 == 0
/-- Slot TAIL is filled. -/
def Ring.push (r : Ring) : Ring := { r with tail := r.plus r.tail 1, filled := r.filled + 1, pushes := r.pushes + 1 }
/-- How a ring's core answers a push of a launch, and what it does (R341, R345). -/
def State.takePush (s : State) (lid : BitVec 32) (c : Nat) (h : RingNo) : MsgAnswer × State :=
  if s.coreFenced c then (.accept, s)
  else if (s.core c).lid? ≠ some lid ∨ ((s.core c).ring h).valid = false then (.invalid, s)
  else if ((s.core c).ring h).free = 0 then (.refuse, s)
  else (.accept, s.modRing c h Ring.push)
/-- `RING_PUSH_ARRIVE`: a push reaches its ring's core, or the outbound queue of its package's link, and its answer leaves: a flit there,
and one back, unless the ring is the core's own (R28, R341). -/
def execRingPushArrive (s : State) : Out :=
  .next <| match s.msgs.find? fun m => m.id == s.evNum with
  | none => s
  | some m =>
    match m.kind with
    | .push addr h =>
      let far := portPkg addr != s.pkgId
      if s.codeAhead m then s.enqueue (s.tick + 1) m.src m.prio m.id .ringPushArrive
      else
      let r := if far then s.takeOutbound m.src (s.bank m.src m.prio).key (portPkg addr) (.push m.lid addr h) else s.takePush m.lid m.dst h
      (if m.src = m.dst ∧ far = false then r.2 else r.2.crossing.crossing).enqueue
        (s.tick + (if far then outWay m.src else oneWay m.src m.dst)) m.src m.prio m.id (.messageAnswerArrive m.src m.prio r.1)
    | .send .. => s
/-- The address word of a push: the named core, or the issuing one. -/
def State.pushAddr (s : State) (remote : Bool) (a : Reg) : Word :=
  if remote then s.rd a
  else BitVec.ofNat 64 (place (coreX s.here) 4 6 + place (coreY s.here) 4 10 + place (coreLayer s.here) 5 14 +
    place s.pkgId.toNat 12 19 + 2 ^ 63)
/-- One attempt of a push leaves the core; one to a ring of its own is behind the remote pushes that arrive in the same tick (R345). -/
def State.pushTry (s : State) (h : RingNo) (addr : Word) (n : Nat) : State :=
  let m : Msg :=
    { id := s.nextId, src := s.here, prio := s.mine.cur, lid := s.me.lid, dst := pushCore addr, kind := .push addr h }
  let s1 := s.modMe fun b => { b with op := .send n (.flying m.id), wasSusp := false }
  let s2 := { s1 with msgs := s1.msgs ++ [m] }.bumpId
  let at_ := s.tick + s.msgWay s.here addr
  (if s.portFar addr = false ∧ pushCore addr = s.here then s2.enqueueLast at_ s.here s.mine.cur m.id .ringPushArrive
    else s2.enqueue at_ s.here s.mine.cur m.id .ringPushArrive).holdOp
/-- The answer to a push: RING takes the place of PORT_FULL (R341). -/
def State.pushAnswered (s : State) (h : RingNo) (remote : Bool) (addr : Word) (n : Nat) (x : MsgAnswer) : State :=
  match x with
  | .accept => s.issue
  | .invalid => s.trapHere 0x04 0 (if remote then addr else 0)
  | .refuse =>
    if s.portFar addr then s.sendAgain n fun st m => st.pushTry h addr m
    else if n = s.me.rbud.toNat ∧ s.me.rbud ≠ 0xFFFF then s.trapHere 0x11 0 0
    else s.sendAgain (n + 1) fun st m => st.pushTry h addr m
/-- `RPUSH` (R341). -/
def execRpush (h : RingNo) (remote : Bool) (a : Reg) (s : State) : Out :=
  let addr := s.pushAddr remote a
  .next <| match s.me.op with
  | .send n (.answered x) => s.pushAnswered h remote addr n x
  | .send n .ready => s.pushTry h addr n
  | .send _ _ => s.holdOp
  | _ =>
    if !remote && !(s.mine.ring h).valid then s.trapHere 0x11 0 0
    else if !pushOk addr then s.trapHere 0x04 0 addr
    else if s.portFar addr && !(s.route (portPkg addr)).valid then
      (s.modMe fun b => { b with dropped := some (b.dropped.getD addr) }).issue
    else if (if remote then s.orderedReleased else s.released .core) then s.pushTry h addr 0
    else s.holdOp

/-! ### The other ring instructions (R340, R342 to R344) -/

/-- The ring that a configuration word describes, with words 2 and 3 zero (R340). -/
def ringOf (a b : Word) : Ring :=
  { Ring.reset with base := a.setWidth 56, log2sz := b.setWidth 5, nslot := (b >>> 6).setWidth 7, fe := bitOf b 13,
                    valid := bitOf b 14 }
/-- Whether a configuration is refused (R340). -/
def ringBad (r : Ring) : Bool :=
  r.valid && (r.base.toNat % 128 != 0 || decide (r.log2sz.toNat < 7) || decide (16 < r.log2sz.toNat) ||
    decide (r.nslot = 0) || decide (64 < r.nslot.toNat))
/-- `RCFG` (R340). -/
def execRcfg (h : RingNo) (a b : Reg) (s : State) : Out :=
  let r := s.mine.ring h
  let n := ringOf (s.rd a) (s.rd b)
  .next (if r.filled ≠ 0 ∨ r.held ≠ 0 ∨ r.pend ≠ 0 ∨ s.folds s.here h = true ∨ ringBad n = true then s.trapHere 0x11 0 0
    else (s.modRing s.here h fun _ => n).issue)
/-- The head slot is popped. -/
def Ring.pop (r : Ring) : Ring :=
  { r with head := r.plus r.head 1, filled := r.filled - 1, held := r.held + 1, pops := r.pops + 1 }
/-- The ring once the fold sequencer has taken the slot that it read in this tick (R345, R359). -/
def Ring.taken (r : Ring) : Ring := if r.read then { r.pop with read := false } else r
/-- The oldest held slot of a plain ring is free. -/
def Ring.drop (r : Ring) : Ring := { r with freep := r.plus r.freep 1, held := r.held - 1 }
/-- `RPOP` (R342). -/
def execRpop (h : RingNo) (d : Reg) (s : State) : Out :=
  let r := s.mine.ring h
  .next (if r.valid = false ∨ s.folds s.here h = true then s.trapHere 0x11 0 0
    else if r.filled = 0 then (s.wrC 1 d 0x8000000000000000).issue
    else ((s.modRing s.here h Ring.pop).wrC 1 d (r.slot r.head.toNat)).issue)
/-- Whether the condition of an RWAIT holds (R344). -/
def Ring.meets (r : Ring) (n : Nat) : RingCond → Bool
  | .filled => decide (n ≤ r.filled.toNat)
  | .free => decide (n ≤ r.free)
  | .idle => r.filled == 0 && r.held == 0 && r.pend == 0
/-- `RWAIT` (R344). -/
def execRwait (h : RingNo) (n : BitVec 6) (cond : RingCond) (s : State) : Out :=
  let r := s.mine.ring h
  .next (if r.valid = false then s.trapHere 0x11 0 0 else if r.meets (n.toNat + 1) cond then s.issue else s.holdOp)
/-- The number under which the freeing of a slot goes: the first access after it, whether the fold sequencer frees it, ring, slot, and
the 64 bytes of the slot that are emptied next. -/
def freeNum (first : Nat) (fold : Bool) (h : RingNo) (slot line : Nat) : Nat :=
  (((first * 2 + bitN fold) * 8 + h.val) * 64 + slot) * 2048 + line
/-- `n` held slots of a core's ring become pending, oldest first, and their empties follow at 64 bytes a tick from tick `t`: those of an
RFREE behind the firing's accesses before number `first` (R343). -/
def State.freeSlots (s : State) (c : Nat) (p : Prio) (fold : Bool) (h : RingNo) (n t : Nat) : State :=
  let r := (s.core c).ring h
  let s1 := s.modRing c h fun r =>
    { r with freep := r.plus r.freep n, held := r.held - BitVec.ofNat 7 n, pend := r.pend + BitVec.ofNat 7 n }
  (List.range n).foldl (fun st i =>
    (st.enqueue t c p (freeNum st.nextId fold h (r.plus r.freep i).toNat 0) .ringSlotFreed).bumpId) s1
/-- `RFREE` (R343). -/
def execRfree (h : RingNo) (n : BitVec 6) (s : State) : Out :=
  let r := s.mine.ring h
  .next (if r.valid = false ∨ r.held.toNat < n.toNat + 1 ∨ s.folds s.here h = true then s.trapHere 0x11 0 0
    else (s.freeSlots s.here s.mine.cur false h (n.toNat + 1) s.tick).issue)
/-- The words of 64 bytes of a slot. -/
def Ring.lineWords (r : Ring) (slot line : Nat) : List Word :=
  (List.range 8).map fun i => r.slot slot + BitVec.ofNat 64 (64 * line + 8 * i)
/-- The lines of 64 bytes of a slot. -/
def Ring.lines (r : Ring) : Nat := 2 ^ r.log2sz.toNat / 64
/-- Whether an earlier access of a bank's firing keeps the empties from being performed, as a release at core scope would wait: one
that is not performed, or a load that has not returned; those of the fold sequencer wait for none (R343). -/
def State.freeWaits (s : State) (c : Nat) (p : Prio) (n : Nat) : Bool :=
  n / 1048576 % 2 == 0 && s.accesses.any fun a =>
    a.core == c && a.prio == p && decide (a.fid < 2 ^ 62) && decide (a.id < n / 2097152) && (a.owes .core || accLoads a.op)
/-- Whether empties of a core's rings have still to leave it before those of a slot: of one freed earlier (R343). -/
def State.freeAhead (s : State) (c n : Nat) : Bool :=
  let r (m : Nat) : Ring := (s.core c).ring ⟨m / 131072 % 8, Nat.mod_lt _ (by decide)⟩
  s.queue.any fun e => decide (e.ev = .ringSlotFreed) && e.core == c && (r e.num).fe && decide (e.num % 2048 < (r e.num).lines) &&
    decide (e.num / 2097152 < n / 2097152)
/-- Whether empties of a core's rings have left it in this tick, so that no more do (R343). -/
def State.freeSent (s : State) (c : Nat) : Bool :=
  s.accesses.any fun a => a.core == c && a.sent == s.tick && decide (unitKey c 10 ≤ a.fid) && decide (a.fid < unitKey c 18)
/-- Whether every empty of a slot that has left is performed (R343). -/
def State.slotPerformed (s : State) (c : Nat) (h : RingNo) (slot : Nat) : Bool :=
  let r := (s.core c).ring h
  let lo := (r.slot slot).toNat
  !(s.accesses.any fun a => a.fid == unitKey c (10 + h.val) && a.ans.isNone && decide (lo ≤ a.va.toNat) &&
    decide (a.va.toNat < lo + 2 ^ r.log2sz.toNat))
/-- Whether a pending slot is the oldest of its ring: slots are free in order. -/
def Ring.oldest (r : Ring) (slot : Nat) : Bool := (r.plus r.freep (r.nslot.toNat - r.pend.toNat)).toNat == slot
/-- The addresses of empties are reached, one after another, up to one that has to wait: whether they may be made now. -/
def State.emptyReach (s : State) (c : Nat) (lid : BitVec 32) : List Word → Bool × State
  | [] => (true, s)
  | a :: r =>
    match s.find c lid a true with
    | .go .. | .stop _ => s.emptyReach c lid r
    | _ => (false, (s.reach c lid a true).2)
/-- The empties of some words of a slot leave: a word that cannot be reached or written is skipped (R343). -/
def State.emptyWords (s : State) (c : Nat) (h : RingNo) (lid : BitVec 32) (l : List Word) : State :=
  l.foldl (fun st a => match st.reach c lid a true with
    | (.go e pa, s1) => s1.engineEmpty c (unitKey c (10 + h.val)) a e pa
    | (_, s1) => s1) s
/-- The oldest pending slot of a ring is free. -/
def State.slotFree (s : State) (c : Nat) (h : RingNo) (lid : BitVec 32) : State :=
  (s.modRing c h fun r => { r with pend := r.pend - 1 }).poke lid
/-- `RING_SLOT_FREED`: the empties of 64 bytes of a pending slot leave the core; in the tick in which the last of them is performed the
slot is free (R343). -/
def execRingSlotFreed (s : State) : Out :=
  let c := s.here
  let h : RingNo := ⟨s.evNum / 131072 % 8, Nat.mod_lt _ (by decide)⟩
  let slot := s.evNum / 2048 % 64
  let line := s.evNum % 2048
  let r := (s.core c).ring h
  let lid := (s.core c).lid?.getD 0
  let again (st : State) (n : Nat) : State := st.enqueue (s.tick + 1) c s.evPrio n .ringSlotFreed
  .next <|
  if r.pend = 0 then s
  else if s.freeWaits c s.evPrio s.evNum then again s s.evNum
  else if !r.fe || decide (r.lines ≤ line) then
    (if r.oldest slot && s.slotPerformed c h slot then s.slotFree c h lid else again s s.evNum)
  else if s.freeAhead c s.evNum || s.freeSent c then again s s.evNum
  else
    match s.emptyReach c lid (r.lineWords slot line) with
    | (false, s1) => again s1 s.evNum
    | (true, s1) => again (s1.emptyWords c h lid (r.lineWords slot line)) (s.evNum + 1)
/-- What RQ selects (R344). -/
def Ring.query (r : Ring) (sel : Nat) : Word :=
  match sel with
  | 0 => r.word 2
  | 1 => r.word 1
  | 2 => r.word 0
  | 3 => r.slot r.tail.toNat
  | _ => r.slot r.head.toNat
/-- `RQ` (R344). -/
def execRq (h : RingNo) (d : Reg) (sel : Fin 5) (s : State) : Out :=
  let r := s.mine.ring h
  .next (if r.valid = false then s.trapHere 0x11 0 0 else (s.wrC 1 d (r.query sel.val)).issue)

end Sys2Proof.Machine
end

