-- ==== Sys2Proof/Machine/Fold.lean ====
section
/-!
DEFINITION. The fold matrix engine: joins, rounds, partial sums, the sampler, accumulator instructions and records
(20_fold R346 to R372, R436, 21_throttling R375, R376).
-/
namespace Sys2Proof.Machine

/-! ### Folds, layers, accumulators (R346, R352) -/

/-- Fold of a compute core, as barrier groups number it. -/
def foldOf (c : Nat) : Nat := barGroup .fold c
/-- Core of a fold on layer k. -/
def foldCore (f k : Nat) : Nat := f / 256 * 1024 + k * 256 + f % 256
/-- Layer of a core in its tower. -/
def layerIn (c : Nat) : Nat := coreLayer c % 4
/-- The layers of a set, ascending. -/
def layersOf (m : BitVec 4) : List Nat := (List.range 4).filter fun k => m.getLsbD k
/-- The set of one layer. -/
def layerBit (k : Nat) : BitVec 4 := BitVec.ofNat 4 (2 ^ k)
/-- An accumulator element (R352). -/
def Core.accGet (k : Core) (a : Acc) (e : Nat) : BitVec 32 := Sparse.get (fun _ => 0) k.acc (1024 * a.val + e)
/-- Replace an accumulator by 1024 elements, with fresh parity (R27). -/
def Core.accSet (k : Core) (a : Acc) (l : List (BitVec 32)) : Core :=
  let lo := 1024 * a.val
  { k with
    acc := (k.acc.filter fun x => decide (x.1 < lo)) ++ ((l.zipIdx.map fun x => (lo + x.2, x.1)).filter fun x => x.2 != 0) ++
      k.acc.filter fun x => decide (lo + 1024 ≤ x.1)
    badAcc := k.badAcc.filter fun x => decide (x < lo) || decide (lo + 1024 ≤ x) }
/-- Whether `n` elements of an accumulator, from one on, hold one with bad parity (R27, domain 7). -/
def Core.accBad (k : Core) (a : Acc) (e n : Nat) : Bool :=
  k.badAcc.any fun x => decide (1024 * a.val + e ≤ x) && decide (x < 1024 * a.val + e + n)
/-- The elements of an accumulator. -/
def Core.accAll (k : Core) (a : Acc) : List (BitVec 32) := (List.range 1024).map fun e => k.accGet a e

/-! ### The data of a chunk (R352) -/

/-- Bits of an element. -/
def foldBits : FoldFmt → Nat
  | .fp16 | .bf16 => 16 | .e4m3 | .e5m2 | .int8 | .dxb8 => 8 | .dxb6 => 6 | .dxb4 => 4
/-- Line bytes LB. -/
def lineBytes (f : FoldFmt) : Nat := 4 * foldBits f
/-- The dual-exponent format of a code. -/
def foldDxb : FoldFmt → Option DxbFmt | .dxb8 => some .dxb8 | .dxb6 => some .dxb6 | .dxb4 => some .dxb4 | _ => none
/-- Bytes of a chunk part in its slot (R353). -/
def partBytes (f : FoldFmt) : Nat := 32 * lineBytes f + (if (foldDxb f).isSome then 64 else 0)
/-- FMT as MFOLD and the record hold it (R351). -/
def foldCode : FoldFmt → Nat
  | .fp16 => 0 | .bf16 => 1 | .e4m3 => 2 | .e5m2 => 3 | .int8 => 4 | .dxb8 => 5 | .dxb6 => 6 | .dxb4 => 7
/-- Ticks per chunk (R358). -/
def foldTau : FoldFmt → Nat | .dxb4 => 8 | .fp16 | .bf16 => 64 | _ => 16
/-- Element kk of line n of a slot's bytes; none in an illegal block (R232, R352). -/
def slotElem (f : FoldFmt) (w n kk : Nat) : Option Val :=
  let raw := w / 2 ^ (8 * lineBytes f * n + foldBits f * kk) % 2 ^ foldBits f
  match foldDxb f with
  | some d => fromDXB d (w / 2 ^ (8 * (32 * lineBytes f + 2 * n)) % 65536) raw
  | none => some (match f with
    | .fp16 => FpFmt.fp16.decode raw
    | .bf16 => FpFmt.bf16.decode raw
    | .e4m3 => FpFmt.e4m3.decode raw
    | .e5m2 => FpFmt.e5m2.decode raw
    | _ => Val.ofInt (asInt 8 raw))
/-- A line of a slot. -/
def slotLine (f : FoldFmt) (w n : Nat) : List (Option Val) := (List.range 32).map fun kk => slotElem f w n kk

/-! ### Partial sums (R356) -/

/-- A finite value as mantissa and exponent of 2; every denominator of R221 to R232 is a power of 2. -/
def termOf : Val → Int × Int
  | .fin s n d => (signedNum s n, -(Nat.log2 d : Int))
  | _ => (0, 0)
/-- The least exponent of a list of terms. -/
def minExp (l : List (Int × Int)) : Int := l.foldl (fun e t => min e t.2) ((l.head?.map Prod.snd).getD 0)
/-- The exact sum of terms, over the least exponent. -/
def sumTerms (l : List (Int × Int)) : Int × Int :=
  let e := minExp l
  ((l.map fun t => t.1 * ((2 ^ (t.2 - e).toNat : Nat) : Int)).sum, e)
/-- ⌊log2⌋ of the largest magnitude among terms that are not all zero. -/
def topLog (l : List (Int × Int)) : Int :=
  let f (a : Option Int) (t : Int × Int) : Option Int :=
    if t.1 = 0 then a else
      let x : Int := (Nat.log2 t.1.natAbs : Int) + t.2
      match a with | none => some x | some y => some (max x y)
  (l.foldl f none).getD 0
/-- The terms truncated towards zero to multiples of 2^q: the sum in units of 2^q, and whether a part was lost. -/
def truncSum (l : List (Int × Int)) (q : Int) : Int × Bool :=
  let f (a : Int × Bool) (t : Int × Int) : Int × Bool :=
    if q ≤ t.2 then (a.1 + t.1 * (2 ^ (t.2 - q).toNat : Nat), a.2)
    else
      let d : Int := (2 ^ (q - t.2).toNat : Nat)
      (a.1 + t.1.tdiv d, a.2 || t.1.tmod d != 0)
  l.foldl f (0, false)
/-- The sum of BF16 products (R356): mantissa and exponent. -/
def bf16Sum (l : List (Int × Int)) : Int × Int :=
  if l.all fun t => t.1 == 0 then (0, 0)
  else
    let q := topLog l - 63
    let r := truncSum l q
    (if r.2 && r.1 != 0 then 8 * r.1 + (if r.1 < 0 then -1 else 1) else 8 * r.1, q - 3)
/-- An exact sum rounded to FP32: the encoding, and whether it overflowed; `negz` says that every product is −0. -/
def roundSum (negz : Bool) (t : Int × Int) : Nat × Bool :=
  if t.1 = 0 then (if negz then 0x80000000 else 0, false)
  else
    let r := FpFmt.fp32.round .rne (scaled (decide (t.1 < 0)) t.1.natAbs t.2)
    (r.1, r.2 &&& fOF != 0)
/-- An element with the flags ILLBLOCK, NAN and OVF that it raises. -/
structure Elem where
  v   : BitVec 32
  ill : Bool
  nan : Bool
  ovf : Bool
deriving DecidableEq, Repr
/-- The canonical NaN, formed. -/
def Elem.nanOf (ill : Bool) : Elem := { v := 0x7FC00000, ill := ill, nan := true, ovf := false }
/-- An element without flags. -/
def Elem.plain (v : Nat) : Elem := { v := BitVec.ofNat 32 v, ill := false, nan := false, ovf := false }
/-- The sum of one element's products: pairs of a factor of A and one of B, none in an illegal block (R356). -/
def foldElem (f : FoldFmt) (l : List (Option Val × Option Val)) : Elem :=
  if l.any fun p => p.1.isNone || p.2.isNone then Elem.nanOf true
  else
    let ps := l.map fun p => ((p.1.getD (.fin false 0 1)).mul (p.2.getD (.fin false 0 1)), (p.1.any Val.isNan || p.2.any Val.isNan))
    if ps.any fun p => p.2 || p.1.isNone then Elem.nanOf false
    else
      let vs := ps.filterMap Prod.fst
      let pos := vs.contains (.inf false)
      let neg := vs.contains (.inf true)
      if pos && neg then Elem.nanOf false
      else if pos then Elem.plain 0x7F800000
      else if neg then Elem.plain 0xFF800000
      else
        let ts := vs.map termOf
        match f with
        | .int8 => { Elem.plain 0 with v := BitVec.ofInt 32 (ts.map Prod.fst).sum }
        | _ =>
          let r := roundSum (vs.all fun v => v.isZero && v.neg) (if f = .bf16 then bf16Sum ts else sumTerms ts)
          { Elem.plain r.1 with ovf := r.2 }
/-- The partial of a layer over its chunks' A and B slots: 1024 elements (R356). -/
def foldPartial (f : FoldFmt) (chunks : List (Nat × Nat)) : List Elem :=
  let rows := (List.range 32).map fun n => chunks.map fun c => slotLine f c.1 n
  let cols := (List.range 32).map fun n => chunks.map fun c => slotLine f c.2 n
  (rows.map fun a => cols.map fun b => foldElem f ((a.zip b).map fun x => x.1.zip x.2).flatten).flatten
/-- add(x, y) of R357. -/
def foldAdd (f : FoldFmt) (x y : BitVec 32) : Elem :=
  match f with
  | .int8 => { Elem.plain 0 with v := x + y }
  | _ =>
    let r := faddRes .rne (x.setWidth 64) (y.setWidth 64)
    { v := r.1.setWidth 32, ill := false, nan := (f32 r.1).isNan, ovf := r.2 &&& fOF != 0 }
/-- Sums element by element, with the flags of both and of the additions. -/
def addElems (f : FoldFmt) (xs ys : List Elem) : List Elem :=
  (xs.zip ys).map fun p =>
    let r := foldAdd f p.1.v p.2.v
    { r with ill := p.1.ill || p.2.ill, nan := r.nan || p.1.nan || p.2.nan, ovf := r.ovf || p.1.ovf || p.2.ovf }
/-- The partials of a round, added in ascending layer order (R357). -/
def sumPartials (f : FoldFmt) : List (List Elem) → List Elem
  | [] => []
  | p :: r => r.foldl (addElems f) p

/-! ### The sampler (R363) -/

/-- One step of the reference. -/
def refStep (f : FoldFmt) (r : BitVec 32) (p : Option Val × Option Val) : BitVec 32 :=
  match p.1, p.2 with
  | some x, some y =>
    match f with
    | .int8 => r + BitVec.ofInt 32 ((termOf x).1 * (termOf y).1)
    | _ =>
      let z := FpFmt.fp32.decode r.toNat
      if z.isNan || x.isNan || y.isNan then 0x7FC00000
      else match (x.mul y).bind fun p => z.add .rne p with
        | some v => BitVec.ofNat 32 (fp32RNE v)
        | none => 0x7FC00000
  | _, _ => 0x7FC00000
/-- The reference after the chunks of a round, in K order. -/
def refRound (f : FoldFmt) (ref : List (BitVec 32)) (chunks : List (Nat × Nat)) : List (BitVec 32) :=
  ref.zipIdx.map fun e =>
    chunks.foldl (fun r c => ((slotLine f c.1 (e.2 / 32)).zip (slotLine f c.2 (e.2 % 32))).foldl (refStep f) r) e.1
/-- A finite FP32 encoding in units of 2^−149. -/
def fp32Units (w : Nat) : Int :=
  let mag := w % 2 ^ 31
  let e := mag / 2 ^ 23
  let m := mag % 2 ^ 23 + (if e = 0 then 0 else 2 ^ 23)
  signedNum (w.testBit 31) (m * 2 ^ (max e 1 - 1))
/-- The deviation of an element (R363). -/
def deviation (x r : BitVec 32) : Nat :=
  if x = r then 0
  else if !(FpFmt.fp32.decode x.toNat).isFin || !(FpFmt.fp32.decode r.toNat).isFin then 0xFFFFFFFF
  else
    let u := 2 ^ (max (r.toNat % 2 ^ 31 / 2 ^ 23) 1 - 1)
    min ((absDiff (fp32Units x.toNat + 2 ^ 300).toNat (fp32Units r.toNat + 2 ^ 300).toNat + u - 1) / u) 0xFFFFFFFF
/-- The largest deviation and the lowest index at which it occurs. -/
def worst (xs rs : List (BitVec 32)) : Nat × Nat :=
  ((xs.zip rs).zipIdx.map fun e => (deviation e.1.1 e.1.2, e.2)).foldl (fun a b => if a.1 < b.1 then b else a) (0, 0)

/-! ### Operations -/

/-- An operation by its number. -/
def State.foldOp (s : State) (id : Nat) : Option FoldOp := s.foldOps.find? fun o => o.id == id
/-- Change an operation. -/
def State.modFold (s : State) (id : Nat) (f : FoldOp → FoldOp) : State :=
  { s with foldOps := s.foldOps.map fun o => if o.id == id then f o else o }
/-- Member cores of an operation, ascending. -/
def FoldOp.cores (o : FoldOp) : List Nat := (layersOf o.members).map (foldCore o.fold)
/-- The core whose accumulator an operation adds to. -/
def FoldOp.homeCore (o : FoldOp) : Nat := foldCore o.fold o.home
/-- Rounds of an operation (R355). -/
def FoldOp.count (o : FoldOp) : Nat :=
  let m := (layersOf o.members).length
  (o.nk + m - 1) / max 1 m
/-- The members that own a chunk of the round to come, in chunk order: chunk c belongs to the member of index c mod M, so
each owns one at most (R355). -/
def FoldOp.owners (o : FoldOp) : List Nat :=
  let ms := layersOf o.members
  ms.take (o.nk - ms.length * o.rounds)
/-- The layer that holds an owner's chunk: itself, or the next active member above it, wrapping (R355). -/
def FoldOp.holder (o : FoldOp) (l : Nat) : Nat :=
  ((List.range 4).find? fun i => o.active2.getLsbD ((l + i) % 4)).elim l fun i => (l + i) % 4
/-- Whether a queue item is an operation. -/
def QItem.isFold (q : QItem) (id : Nat) : Bool := match q with | .fold n => n == id | _ => false
/-- The accumulator that a queue item names (R369, R370). -/
def State.itemAcc (s : State) : QItem → Option Acc
  | .fold id => (s.foldOp id).map fun o => o.acc
  | .join j => some j.acc
  | .zero a | .nar a .. | .wid a .. => some a
/-- Whether the fold engine's queue of a core has room (R206). -/
def Core.fqRoom (k : Core) : Bool := decide (k.fq.length < 4)
/-- Whether a layer of an operation's members has been fenced (R361). -/
def State.foldFenced (s : State) (o : FoldOp) : Bool := s.fencedSet (o.fold / 256) &&& o.members != 0

/-- The item at the head of a core's queue starts, if nothing keeps it: a fold operation when it heads every member's queue
(R353, R366 to R368). -/
def State.kick (s : State) (c : Nat) : State :=
  match (s.core c).fq with
  | [] => s
  | e :: r =>
    if e.begun || (s.core c).halt then s
    else
      let on (st : State) (it : QItem) (d : Nat) : State :=
        (st.modCore c fun k => { k with fq := { e with item := it, begun := true } :: r }).enqueue (st.tick + d) c .low 0 .accOpComplete
      match e.item with
      | .zero a => on s (.zero a) 4
      | .nar a f rm ga gb gc arr row gap => on s (.nar a f rm ga gb gc arr row gap) 0
      | .wid a f ga gb fin => on s (.wid a f ga gb fin) 0
      | .join _ => s
      | .fold id =>
        match s.foldOp id with
        | none => s
        | some o =>
          if o.placed == o.members && !o.begun &&
              (o.cores.all fun d => (s.layer (coreLayer d)).fenced || (s.core d).fq.head?.any fun x => x.item.isFold id) then
            s.enqueueLast s.tick o.homeCore .low id .foldOpStart
          else s
/-- The bank of a core whose MFOLD became an operation. -/
def Core.foldBank (k : Core) (id : Nat) : Option Prio :=
  let is (b : Bank) : Bool := match b.op with | .fold (some n) _ => n == id | _ => false
  if is k.low then some .low else if is k.high then some .high else none
/-- Operations that have been joined take places in a core's queue, oldest first, as they free; the MFOLD bundle then issues
(R353). -/
def State.takePlace (s : State) (c : Nat) : State :=
  let k := s.core c
  match s.foldOps.find? fun o => o.cores.contains c && !o.placed.getLsbD (layerIn c) with
  | none => s
  | some o =>
    if k.fqRoom then
      let e : QEntry := { owner := (k.foldBank o.id).map fun p => (k.bank p).key, item := .fold o.id, begun := false }
      let s1 := s.modCore c fun k => { k with fq := k.fq ++ [e] }
      let s2 := s1.modFold o.id fun x => { x with placed := x.placed ||| layerBit (layerIn c) }
      match k.foldBank o.id with
      | some p => s2.modBank c p fun b => { b with op := .fold (some o.id) true }
      | none => s2
    else s
/-- The head of a core's queue is over: a joined operation may take the place, and the next item may start. -/
def State.popQueue (s : State) (c : Nat) : State :=
  (((s.modCore c fun k => { k with fq := k.fq.tail }).takePlace c).kick c).restIdle c
/-- A failure of an operation of a firing that has not ended waits for its next covering wait (R367, R368, R436). -/
def State.failItem (s : State) (c : Nat) (owner : Option Nat) (a : Acc) (fold : Bool) (x : Stop) : State :=
  match owner with
  | some n => s.modCore c fun k => { k with qfails := k.qfails ++ [{ owner := n, acc := a, fold := fold, stop := x }] }
  | none => s

/-- What an element with bad parity is reported as: MEMERR (R27); an accumulator has no address, so FADDR is a free value. -/
def State.accStop (s : State) : Stop := { cause := 0x14, info := 0, faddr := s.freeVal }

/-! ### MFOLD (R351, R353) -/

/-- The join that a core offers: that of the first withdrawn operation in its queue, whose MFOLD has issued, else that of a bundle which
waits (R353). -/
def State.joinOf (s : State) (c : Nat) : Option Join :=
  match (s.core c).fq.findSome? fun e => match e.item with | .join j => some j | _ => none with
  | some j => some j
  | none => s.joins.find? fun j => j.core == c && (match (s.bank c j.prio).op with | .fold none _ => true | _ => false)
/-- The joins of a fold that stand (R353). -/
def State.liveJoins (s : State) (f : Nat) (lid : Option (BitVec 32)) : List Join :=
  ((List.range 4).map (foldCore f)).filterMap fun c => if (s.core c).lid? == lid then s.joinOf c else none
/-- Whether a core's join is that of a withdrawn operation in its queue. -/
def Core.stands (k : Core) (j : Join) : Bool := k.fq.any fun e => decide (e.item = .join j)
/-- A withdrawn operation has its place again, as another (R353). -/
def State.placeAgain (s : State) (o : FoldOp) (j : Join) : State :=
  let f (e : QEntry) : QEntry := if e.item = .join j then { e with item := .fold o.id } else e
  (s.modCore j.core fun k => { k with fq := k.fq.map f }).modFold o.id fun x => { x with placed := x.placed ||| layerBit (layerIn j.core) }
/-- A join that does not agree: its bundle traps FOLD_MISMATCH, or, where that has issued, the operation fails (R353). -/
def State.joinFails (s : State) (j : Join) : State :=
  if (s.core j.core).stands j then
    let own := ((s.core j.core).fq.find? fun e => decide (e.item = .join j)).bind (·.owner)
    (((s.failItem j.core own j.acc true { cause := 0x0B, info := 0, faddr := 0 }).modCore j.core fun k =>
      { k with fq := k.fq.filter fun e => e.item ≠ .join j }).takePlace j.core).kick j.core
  else s.takeTrap j.core j.prio 0x0B 0 0
/-- The member set that a join's %fmask names (R346). -/
def State.joinSet (s : State) (j : Join) : BitVec 4 := j.fmask &&& ~~~s.fencedSet (coreTower j.core)
/-- Whether every layer that some joiner waits for has joined. -/
def State.joinReady (s : State) (l : List Join) : Bool :=
  let want := l.foldl (fun m j => m ||| s.joinSet j) 0
  let have_ := l.foldl (fun m j => m ||| layerBit (layerIn j.core)) 0
  !l.isEmpty && want &&& ~~~have_ == 0
/-- A join whose last layer has come completes in 4 ticks (R353). -/
def State.checkJoin (s : State) (c : Nat) : State :=
  if s.joinReady (s.liveJoins (foldOf c) (s.core c).lid?) then s.enqueue (s.tick + 4) c .low (foldOf c) .foldJoinComplete else s
/-- Whether two joins agree (R353). -/
def Join.agrees (a b : Join) : Bool :=
  a.acc == b.acc && a.fmt == b.fmt && a.nkm1 == b.nkm1 && a.home == b.home && a.pin == b.pin && a.fmask == b.fmask && a.fpin == b.fpin
/-- A committed operation. -/
def newFold (id f : Nat) (acc : Acc) (fmt : FoldFmt) (home : Nat) (rings : List (Nat × RingNo × RingNo)) (joined : List Join) (solo pin : Bool)
    (nkm1 : BitVec 8) (members : BitVec 4) : FoldOp :=
  { id := id, fold := f, acc := acc, fmt := fmt, home := home, rings := rings, joined := joined, solo := solo, pin := pin, nk := nkm1.toNat + 1,
    members := members, placed := 0, begun := false, seq := 0, active := 0, active2 := 0, split := 0, msplit := false,
    rounds := 0, ill := false, nan := false, ovf := false, sampled := false, abort := false, preempted := false, ref := [],
    busy := none, bound := false, stop := none, fin := false }
/-- An operation is committed: the bundles of its members wait for their places, and take those that are free; `stand` are the joins of
members whose bundles have issued. -/
def State.commitFold (s : State) (o : FoldOp) (who : List (Nat × Prio)) (stand : List Join) : State :=
  let s1 := { s with foldOps := s.foldOps ++ [o] }.bumpId
  let s2 := who.foldl (fun st x => st.modBank x.1 x.2 fun b => { b with op := .fold (some o.id) false, barHeld := 0 }) s1
  let s3 := who.foldl (fun st x => st.takePlace x.1) (stand.foldl (fun st j => st.placeAgain o j) s2)
  o.cores.foldl (fun st c => st.kick c) s3
/-- `FOLD_JOIN_COMPLETE`: the joins of a gang are compared, 4 ticks after the last: they become an operation, or every
joiner traps FOLD_MISMATCH (R353). -/
def execFoldJoinComplete (s : State) : Out :=
  let l := s.liveJoins s.evNum (s.core s.here).lid?
  .next <|
  if (s.core s.here).halt || !s.joinReady l || (l.any fun j => decide (s.tick < j.at_ + 4)) then s
  else
    let s1 := { s with joins := s.joins.filter fun j => !l.contains j }
    match l with
    | [] => s
    | j :: r =>
      if (r.all fun x => j.agrees x) && (s.joinSet j).getLsbD j.home.val then
        let rings := (j :: r).map fun (x : Join) => (x.core, x.ra, x.rb)
        let stand := (j :: r).filter fun (x : Join) => (s.core x.core).stands x
        let who := ((j :: r).filter fun (x : Join) => !stand.contains x).map fun (x : Join) => (x.core, x.prio)
        s1.commitFold (newFold s.nextId j.fold j.acc j.fmt j.home.val rings (j :: r) false j.pin j.nkm1 (s.joinSet j)) who stand
      else (j :: r).foldl State.joinFails s1
/-- The bundle is held by its join, which is a barrier wait (R328, R353). -/
def State.holdJoin (s : State) : State :=
  let s1 := (s.modMe fun b => { b with op := .fold none false, barHeld := b.barHeld + 1 }).holdOp
  let lim := s.me.barb.toNat * 64
  if lim ≠ 0 ∧ lim ≤ s1.me.barHeld then s1.enqueueLast (s.tick + 1) s.here s.mine.cur 0 .barrierTimeout else s1
/-- Whether a ring can supply the chunks of an MFOLD (R353). -/
def ringServes (f : FoldFmt) (r : Ring) : Bool := r.valid && decide (partBytes f ≤ 2 ^ r.log2sz.toNat)
/-- The MFOLD bundle whose operation has its place issues; its firing is anchored (R115, R353). -/
def State.issuePlaced (s : State) : State :=
  match s.me.op with
  | .fold (some _) true => s.anchor.issue
  | _ => s.hold
/-- `MFOLD` (R353). -/
def execMfold (acc : Acc) (fmt : FoldFmt) (home : Fin 4) (ra rb : RingNo) (solo pin : Bool) (nkm1 : BitVec 8) (s : State) : Out :=
  let c := s.here
  .next <| match s.me.op with
  | .fold none _ => s.holdJoin
  | .fold (some _) _ => s.issuePlaced
  | _ =>
    if !ringServes fmt (s.mine.ring ra) || !ringServes fmt (s.mine.ring rb) then s.trapHere 0x11 0 0
    else if solo then
      (s.commitFold (newFold s.nextId (foldOf c) acc fmt (layerIn c) [(c, ra, rb)] [] true pin nkm1 (layerBit (layerIn c)))
        [(c, s.mine.cur)] []).issuePlaced
    else if !(s.memberSet c).getLsbD (layerIn c) then s.trapHere 0x0B 0 0
    else
      let j : Join :=
        { fold := foldOf c, core := c, prio := s.mine.cur, acc := acc, fmt := fmt, home := home, ra := ra, rb := rb, pin := pin,
          nkm1 := nkm1, fmask := s.mine.fmask, fpin := s.mine.fpin, at_ := s.tick }
      let rest := s.joins.filter fun (x : Join) => x.core != c
      let s1 := { s with joins := rest ++ [j] }
      s1.holdJoin.checkJoin c

/-! ### The course of an operation (R354 to R362) -/

/-- The operation is over: its record is written and its places free themselves in this tick (R358). -/
def State.endFold (s : State) (o : FoldOp) : State :=
  (s.modFold o.id fun x => { x with fin := true, busy := none }).enqueue s.tick o.homeCore .low o.id .foldOpComplete
/-- What stands at the head of a ring of an owner for a round: the bytes of its slot; an error stops the operation, and
`none` means to wait (R359, R436). -/
def State.readSlot (s : State) (c : Nat) (lid : BitVec 32) (at_ : Word) : Nat → Option (Except Stop Nat) × State
  | 0 => (some (.ok 0), s)
  | n + 1 =>
    match s.reach c lid at_ false with
    | (.stop t, s0) => (some (.error t), s0)
    | (.go e pa, s0) =>
      match s0.engineRead c (unitKey c 9) at_ e pa 8 with
      | (some (.error t), s1) => (some (.error t), s1)
      | (some (.ok v), s1) =>
        match s1.readSlot c lid (at_ + 8) n with
        | (some (.ok w), s2) => (some (.ok (v.1 + 2 ^ 64 * w)), s2)
        | r => r
      | (none, s1) => (none, (s1.readSlot c lid (at_ + 8) n).2)
    | (_, s0) => (none, s0)
/-- The A and B slots of the owners of a round, in chunk order. -/
def State.readRound (s : State) (o : FoldOp) : List Nat → Option (Except Stop (List (Nat × Nat × Nat))) × State
  | [] => (some (.ok []), s)
  | l :: r =>
    let c := foldCore o.fold l
    let lid := (s.core c).lid?.getD 0
    let n := partBytes o.fmt / 8
    match o.rings.find? fun x => x.1 == c with
    | none => (some (.ok []), s)
    | some (_, ra, rb) =>
      let a := ((s.core c).ring ra).taken
      let b := ((s.core c).ring rb).taken
      match s.readSlot c lid (a.slot a.head.toNat) n with
      | (none, s1) => (none, s1)
      | (some (.error t), s1) => (some (.error t), s1)
      | (some (.ok x), s1) =>
        match s1.readSlot c lid (b.slot b.head.toNat) n with
        | (none, s2) => (none, s2)
        | (some (.error t), s2) => (some (.error t), s2)
        | (some (.ok y), s2) =>
          match s2.readRound o r with
          | (some (.ok z), s3) => (some (.ok ((l, x, y) :: z)), s3)
          | q => q
/-- Whether the slots of a round are filled (R358). -/
def State.filledRound (s : State) (o : FoldOp) : Bool :=
  o.owners.all fun l => let c := foldCore o.fold l
    match o.rings.find? fun x => x.1 == c with
    | none => false
    | some (_, ra, rb) => ((s.core c).ring ra).taken.filled != 0 && ((s.core c).ring rb).taken.filled != 0
/-- Busy ticks of a layer in a round: τ·c + 2·a (R358). -/
def FoldOp.busyOf (o : FoldOp) (l : Nat) : Nat :=
  ((o.owners.filter fun w => o.holder w == l).map fun w => foldTau o.fmt + 2 * ((l + 4 - w) % 4)).sum
/-- Ticks of the round to come (R358). -/
def FoldOp.roundTicks (o : FoldOp) : Nat :=
  let ls := layersOf o.active2
  let lo := ls.head?.getD 0
  let hi := ls.getLast?.getD 0
  (ls.map o.busyOf).foldl max 0 + 2 * ((hi - lo) + (o.home + 4 - hi) % 4) + 12
/-- The budget of a layer in core-ticks (R375). -/
def Layer.budget (l : Layer) : Nat := l.allow.toNat * 44800
/-- When a limited layer's usage will have reached its budget, its overrun falls due in the tick after (R375). -/
def State.watchUsage (s : State) (i : Nat) : State :=
  let l := s.layer i
  if l.allow = 0 ∨ l.allow = 0xFF ∨ l.overran = true then s
  else
    let till := (l.runs.map Prod.snd).foldl max s.tick
    match (List.range (till - s.tick)).find? fun d => decide (l.budget ≤ l.usage (s.tick + d + 1)) with
    | some d => s.enqueueFirst (s.tick + d + 1) 0 .low i .allowanceOverrun
    | none => s
/-- A core of a layer is busy for some ticks from now (R375). -/
def State.addUsage (s : State) (i n : Nat) : State :=
  (s.modLayer i fun l => { l with
    used := l.used + ((l.runs.filter fun r => decide (r.2 ≤ s.tick)).map fun r => r.2 - r.1).sum,
    runs := (l.runs.filter fun r => decide (s.tick < r.2)) ++ [(s.tick, s.tick + n)] }).watchUsage i
/-- What a round adds to C: the partials of the layers over the chunks that they hold, in ascending layer order (R356, R357). -/
def FoldOp.sumOf (o : FoldOp) (data : List (Nat × Nat × Nat)) : List Elem :=
  sumPartials o.fmt ((layersOf o.active2).filterMap fun l =>
    let mine := data.filter fun d => o.holder d.1 == l
    if mine.isEmpty then none else some (foldPartial o.fmt (mine.map fun d => d.2)))
/-- What a round's reads had brought is used, or not wanted any more. -/
def State.roundOver (s : State) (o : FoldOp) : State :=
  o.rings.foldl (fun st x => st.dropGroup (unitKey x.1 9)) s
/-- Look again in the next tick. -/
def State.foldAgain (s : State) (o : FoldOp) : State := s.enqueueLast (s.tick + 1) o.homeCore .low o.id .foldRoundEnd
/-- A round begins: it ends after its ticks, and the sampler's; its layers are busy (R358, R363, R375). -/
def State.beginRound (s : State) (o : FoldOp) : State :=
  let fin := s.tick + o.roundTicks + (if o.sampled then 32 * o.owners.length else 0)
  (layersOf o.active2).foldl (fun st l =>
    if o.busyOf l = 0 then st else st.addUsage (o.fold / 256 * 4 + l) (o.busyOf l)) (s.modFold o.id fun x => { x with busy := some fin })
/-- A round has read the head slots of its rings: they are popped and freed behind the instructions that the cores issue in this
tick, so ahead of everything in the next (R345, R359). -/
def State.retire (s : State) (o : FoldOp) : State :=
  o.owners.foldl (fun st l =>
    let c := foldCore o.fold l
    match o.rings.find? fun x => x.1 == c with
    | none => st
    | some (_, ra, rb) =>
      let mark (r : Ring) : Ring := { r with read := true }
      ((st.modRing c ra mark).modRing c rb mark).enqueueFirst (st.tick + 1) c .low 0 .foldRoundEnd) s
/-- A round in progress, which ends at a tick: its slots are read; once all data have come, and the round's ticks are over, `close` is
done with them. An error stops the operation (R358, R436). -/
def State.roundStep (s : State) (o : FoldOp) (till : Nat) (close : State → List (Nat × Nat × Nat) → State) : State :=
  match s.readRound o o.owners with
  | (none, s1) => s1.foldAgain o
  | (some (.error x), s1) => ((s1.roundOver o).modFold o.id fun y => { y with stop := some x }).endFold o
  | (some (.ok data), s1) =>
    if s.tick < till then s1.enqueue till o.homeCore .low o.id .foldRoundEnd else close (s1.roundOver o) data
/-- A round begins: its reads leave (R355, R358, R436). -/
def State.startRound (s : State) (o : FoldOp) : State :=
  let s1 := s.beginRound o
  match (s1.foldOp o.id).bind (·.busy) with
  | some till => s1.roundStep o till fun st _ => st
  | none => s1
/-- The operation stands at a round boundary: a pre-emption comes first, then a fence, then trips, also while it waits there; then the
next round begins, once its slots are filled (R358, R360 to R362, R436). -/
def State.atBoundary (s : State) (o : FoldOp) : State :=
  let t := o.fold / 256
  if o.cores.any fun c => (s.core c).halt then
    (s.roundOver o).modFold o.id fun x => { x with preempted := true, bound := true }
  else if s.foldFenced o then (s.modFold o.id fun x => { x with abort := true }).endFold o
  else
    let left := o.active2 &&& ~~~(bits4 fun k => s.trip (4 * t + k))
    let cut := o.bound && left != o.active2
    let o1 := if cut then { o with active2 := left, split := o.rounds, msplit := o.msplit || o.split != 0 } else o
    let now := s.nowSet t &&& o.members
    let o2 := if o1.active2 = 0 then { o1 with active2 := now } else o1
    let s1 := s.modFold o.id fun _ => o2
    if o2.active2 = 0 || !s1.filledRound o2 then s1.foldAgain o2
    else
      let o3 := { o2 with bound := false }
      (s1.modFold o.id fun _ => o3).startRound o3
/-- `FOLD_OP_START`: LAST is latched, SEQ is taken, and the first round follows in 20 ticks (R350, R354, R358, R363). -/
def execFoldOpStart (s : State) : Out :=
  .next <| match s.foldOp s.evNum with
  | none => s
  | some o =>
    let t := o.fold / 256
    let now := s.nowSet t
    if o.begun || (o.cores.any fun c => (s.core c).halt) then s
    else if s.foldFenced o then (s.modFold o.id fun x => { x with begun := true, abort := true }).endFold o
    else if now &&& o.members = 0 then s.enqueueLast (s.tick + 1) s.here .low o.id .foldOpStart
    else
      let seq : BitVec 32 := Sparse.get (fun _ => 0) s.foldSeq o.fold
      let n := (s.core o.homeCore).fsamp.toNat
      let latch (k : Core) : Core :=
        let own := (k.fq.head?.bind (·.owner))
        let f (b : Bank) : Bank := if b.run != .none && own == some b.key then { b with lastSeq := seq } else b
        { k with flast := now, low := f k.low, high := f k.high,
                 fq := k.fq.map fun e => if e.item.isFold o.id then { e with begun := true } else e }
      let s1 := o.cores.foldl (fun st c => st.modCore c latch)
        { s with foldSeq := Sparse.set (fun _ => 0) s.foldSeq o.fold (seq + 1) }
      let bad := o.pin && o.cores.any fun c => (s.core c).fpin != now
      let sampled := !bad && n != 0 && seq.toNat % n == 0
      let s2 := s1.modFold o.id fun x =>
        { x with begun := true, seq := seq, active := now &&& o.members, active2 := now &&& o.members, abort := bad,
                 sampled := sampled, ref := if sampled then (s.core o.homeCore).accAll o.acc else [] }
      if bad then s2.endFold o else s2.enqueueLast (s.tick + 20) s.here .low o.id .foldRoundEnd
/-- The sequencer takes the slots that it has read from the rings of a core: popped and freed; a slot of a plain ring is free at once,
that of one in FE mode when its empties are performed (R343, R345, R359). -/
def State.takeSlots (s : State) (c : Nat) : State :=
  let s1 := (List.finRange 8).foldl (fun st h =>
    let r := (st.core c).ring h
    if r.read then
      if r.fe || r.pend != 0 then (st.modRing c h Ring.taken).freeSlots c .low true h 1 st.tick
      else st.modRing c h fun x => x.taken.drop
    else st) s
  match (s.core c).lid? with
  | some lid => s1.poke lid
  | none => s1
/-- The end of a round with its data: its sum is added to C, the sampler's reference goes on, and its slots are freed; then the operation
ends, or stands at a round boundary, as it does where a member's layer has been fenced (R357, R359, R361, R363). -/
def State.closeRound (o : FoldOp) (s : State) (data : List (Nat × Nat × Nat)) : State :=
  let c := o.homeCore
  if (s.core c).accBad o.acc 0 1024 then
    (((s.countUncorr 7).bumpFree.retire o).modFold o.id fun y => { y with stop := some s.accStop }).endFold o
  else
    let sum := o.sumOf data
    let new := ((sum.map (·.v)).zip ((s.core c).accAll o.acc)).map fun p => foldAdd o.fmt p.2 p.1
    let s1 := (s.modCore c fun k => k.accSet o.acc (new.map (·.v))).retire o
    let o1 := { o with rounds := o.rounds + 1, ill := o.ill || sum.any (·.ill), nan := o.nan || sum.any (·.nan) || new.any (·.nan),
                       ovf := o.ovf || sum.any (·.ovf) || new.any (·.ovf),
                       ref := if o.sampled then refRound o.fmt o.ref (data.map fun d => d.2) else o.ref, busy := none, bound := true }
    let s2 := s1.modFold o.id fun _ => o1
    if o.count ≤ o1.rounds ∧ s2.foldFenced o1 = false then s2.endFold o1 else s2.atBoundary o1
/-- `FOLD_ROUND_END`: a round goes on or ends; between rounds, before the first and while slots are awaited the operation looks whether
the next can begin (R357 to R362). Number 0 stands for the end of the tick in which a round ended, at which a core's slots are taken
(R345). -/
def execFoldRoundEnd (s : State) : Out :=
  .next <| if s.evNum = 0 then s.takeSlots s.here else match s.foldOp s.evNum with
  | none => s
  | some o =>
    if !o.begun || o.fin then s
    else
      match o.busy with
      | none => s.atBoundary o
      | some till => s.roundStep o till (State.closeRound o)

/-! ### The record and the deviation log (R364, R369) -/

/-- Number of layers in a set. -/
def depthOf (m : BitVec 4) : Nat := (layersOf m).length
/-- The record of an operation (R369). -/
def FoldOp.record (o : FoldOp) : Rec :=
  { gd := BitVec.ofNat 64 (o.members.toNat + place o.active.toNat 4 4 + place o.active2.toNat 4 8 + place (depthOf o.active) 3 12 +
      place (depthOf o.active2) 3 15 + place o.rounds 9 18 + place o.split 9 27 + place (bitN o.ill) 1 36 + place (bitN o.nan) 1 37 +
      place (bitN o.ovf) 1 38 + place (bitN o.sampled) 1 39 + place (bitN o.abort) 1 40 + place (bitN o.preempted) 1 41 +
      place (bitN o.msplit) 1 42 + place (foldCode o.fmt) 4 43 + place (bitN o.solo) 1 47 + 2 ^ 48),
    gs := BitVec.ofNat 64 (o.seq.toNat + place (o.nk - 1) 8 32 + place o.home 2 40) }
/-- The words of an operation's entry in the deviation log (R364). -/
def State.devEntry (s : State) (o : FoldOp) : List Word :=
  let c := o.homeCore
  let w := worst ((s.core c).accAll o.acc) o.ref
  [ BitVec.ofNat 64 (o.seq.toNat + place c 13 32 + place o.active2.toNat 4 45 + place o.members.toNat 4 49 + place (foldCode o.fmt) 4 53),
    BitVec.ofNat 64 (w.1 + place w.2 10 32), ((s.core c).lid?.getD 0).setWidth 64, BitVec.ofNat 64 s.timebase ]
/-- The physical address of the next entry of the log (R364). -/
def State.devAt (s : State) : Nat := field s.devBase 55 12 * 4096 + 32 * (s.devCount.toNat % 2 ^ field s.devBase 5 0)
/-- An entry is written with ordinary stores of whole words, and COUNT goes on (R29, R364). -/
def State.devWrite (s : State) (e : List Word) : State :=
  let k := keyOf (offOf s.devAt)
  let s1 := (List.range e.length).foldl (fun st i => ((st.call (s.devAt + 8 * i)).meetBlock (k + 8 * i)).unpoison (k + 8 * i)) s
  { s1.wrWords k e with devCount := s.devCount + 1 }
/-- The entries that wait are written, up to one whose HBM stack takes no request, which is looked at again in the next tick (R22,
R364). -/
def State.devFlush (c : Nat) : List (List Word) → State → State
  | [], s => { s with devPend := [] }
  | e :: r, s =>
    if s.stacksShut [s.devAt] then { s with devPend := e :: r }.enqueue (s.tick + 1) c .low 0 .foldOpComplete
    else State.devFlush c r (s.devWrite e)
/-- The entry of a sampled operation, or one more lost (R364). -/
def State.devLog (s : State) (o : FoldOp) : State :=
  if field s.devBase 5 0 = 0 then { s with devLost := satAdd s.devLost 1 }
  else if s.devPend.isEmpty then State.devFlush o.homeCore [s.devEntry o] s
  else { s with devPend := s.devPend ++ [s.devEntry o] }
/-- One member learns that an operation is over: its record, or its failure (R354, R361, R369, R436). -/
def State.foldMember (s : State) (o : FoldOp) (c : Nat) : State :=
  let own := ((s.core c).fq.find? fun e => e.item.isFold o.id).bind (·.owner)
  let s1 := match o.stop with
    | some x => s.failItem c own o.acc true x
    | none =>
      let s0 := s.modCore c fun k => { k with recs := vset k.recs o.acc.val (some o.record) }
      if o.abort then s0.failItem c own o.acc true { cause := 0x0C, info := 0, faddr := 0 } else s0
  s1.modCore c fun k => { k with fq := k.fq.filter fun e => !e.item.isFold o.id }
/-- `FOLD_OP_COMPLETE`: the record is written, the log where the operation was sampled, and the queues go on (R358, R364,
R369). Number 0 stands for entries of the log that have waited. -/
def execFoldOpComplete (s : State) : Out :=
  .next <| if s.evNum = 0 then State.devFlush s.here s.devPend s else match s.foldOp s.evNum with
  | none => s
  | some o =>
    if !o.fin then s
    else
      let s1 := if o.sampled && !o.abort && o.stop.isNone then s.devLog o else s
      let s2 := o.cores.foldl (fun st c => st.foldMember o c) s1
      let s3 := { s2 with foldOps := s2.foldOps.filter fun x => x.id != o.id }
      let s4 := o.cores.foldl (fun st c => (st.takePlace c).restIdle c) s3
      let s5 := o.cores.foldl (fun st c => st.kick c) s4
      match o.cores.findSome? fun c => (s.core c).lid? with
      | some lid => s5.poke lid
      | none => s5

/-! ### MZERO, MWID, MNAR (R365 to R368) -/

/-- An accumulator instruction enters the queue and issues once there is room; its firing is anchored (R115, R206, R365). -/
def State.queueItem (s : State) (it : QItem) : State :=
  if s.mine.fqRoom then
    let e : QEntry := { owner := some s.me.key, item := it, begun := false }
    (((s.modMine fun k => { k with fq := k.fq ++ [e] }).anchor).issue).kick s.here
  else s.hold
/-- `MZERO` (R366). -/
def execMzero (acc : Acc) (s : State) : Out := .next (s.queueItem (.zero acc))
/-- Row stride: bits 31:0 as an i32 (R367, R368). -/
def rowStride (b : Word) : Word := strideOf b 0
/-- `MWID` (R367). -/
def execMwid (acc : Acc) (fmt : WidFmt) (a b : Reg) (s : State) : Out :=
  .next <| match misaligned [(s.rd a, 8), (rowStride (s.rd b), 8)] with
  | some v => s.trapHere 0x03 0 v
  | none => s.queueItem (.wid acc fmt (s.rd a) (s.rd b) false)
/-- The dual-exponent format of MNAR. -/
def narDxb : NarFmt → Option DxbFmt | .dxb8 => some .dxb8 | .dxb6 => some .dxb6 | .dxb4 => some .dxb4 | _ => none
/-- The gap of a row conversion: GAP4 for DXB4, else GAP8 (R233, R234). -/
def Core.gapOf (k : Core) (f : NarFmt) : Nat := (if f = .dxb4 then k.gap4 else k.gap8).toNat
/-- `MNAR`; the gap of a DXB format is read at issue (R234, R285, R368; log entry 111). -/
def execMnar (acc : Acc) (fmt : NarFmt) (rm : Rm) (a b c : Reg) (arr : Option (BitVec 9)) (s : State) : Out :=
  let checks := if arr.isSome then [] else
    [(s.rd a, 8), (rowStride (s.rd b), 8)] ++ if (narDxb fmt).isSome then [(s.rd c, 8)] else []
  .next <| match misaligned checks with
  | some v => s.trapHere 0x03 0 v
  | none => s.queueItem (.nar acc fmt (s.mode rm) (s.rd a) (s.rd b) (s.rd c) arr 0 (s.mine.gapOf fmt))
/-- Bytes of an element that MWID reads. -/
def widBytes : WidFmt → Nat | .fp32 | .i32 => 4 | .fp16 | .bf16 => 2
/-- An element that MWID widens (R367). -/
def widen32 (f : WidFmt) (v : Nat) : BitVec 32 :=
  match f with
  | .fp32 | .i32 => BitVec.ofNat 32 v
  | .fp16 => BitVec.ofNat 32 (fp32RNE (FpFmt.fp16.decode v))
  | .bf16 => BitVec.ofNat 32 (fp32RNE (FpFmt.bf16.decode v))
/-- The address of an element that MWID reads (R367). -/
def widAddr (f : WidFmt) (ga gb : Word) (i : Nat) : Word :=
  addrPlus ga ((i / 32 : Nat) * (rowStride gb).toInt + (i % 32 * widBytes f : Nat))
/-- An element that MWID reads, where it has been read, and whether the reading goes on behind it: it ends at one that fails or has
to wait for its translation; a load that is on its way lets it go on (R367). -/
def State.readElem (s : State) (c : Nat) (lid : BitVec 32) (f : WidFmt) (ga gb : Word) (i : Nat) :
    (Option (Except Stop (BitVec 32)) × Bool) × State :=
  let n := widBytes f
  let va := widAddr f ga gb i
  match s.reach c lid va false with
  | (.stop t, s0) => ((some (.error t), false), s0)
  | (.go e pa, s0) =>
    match s0.engineRead c (unitKey c 8) va e pa n with
    | (some (.error t), s1) => ((some (.error t), false), s1)
    | (some (.ok v), s1) => ((some (.ok (widen32 f v.1)), true), s1)
    | (none, s1) => ((none, true), s1)
  | (_, s0) => ((none, false), s0)
/-- An element before the ones read behind it. -/
def consElem (x : Option (Except Stop (BitVec 32))) (l : Option (Except Stop (List (BitVec 32)))) :
    Option (Except Stop (List (BitVec 32))) :=
  match x, l with
  | some (.ok v), some (.ok l) => some (.ok (v :: l))
  | some (.ok _), q => q
  | some (.error t), _ => some (.error t)
  | none, _ => none
/-- The elements that MWID reads, from some index on. -/
def State.readElems (s : State) (c : Nat) (lid : BitVec 32) (f : WidFmt) (ga gb : Word) : List Nat → Option (Except Stop (List (BitVec 32))) × State
  | [] => (some (.ok []), s)
  | i :: r =>
    let x := s.readElem c lid f ga gb i
    let q := if x.1.2 then x.2.readElems c lid f ga gb r else (some (.ok []), x.2)
    (consElem x.1.1 q.1, q.2)
/-- An element as MNAR narrows it (R368). -/
def narElem (f : NarFmt) (m : Mode) (x : BitVec 32) : Nat :=
  match f with
  | .fp16 => (FpFmt.fp16.round m (FpFmt.fp32.decode x.toNat)).1
  | .bf16 => (FpFmt.bf16.round m (FpFmt.fp32.decode x.toNat)).1
  | .e4m3 => (FpFmt.e4m3.round m (FpFmt.fp32.decode x.toNat)).1
  | .e5m2 => (FpFmt.e5m2.round m (FpFmt.fp32.decode x.toNat)).1
  | .i8 => ofInt 8 (min (max x.toInt (-128)) 127)
  | _ => x.toNat
/-- Bits of an element that MNAR writes. -/
def narBits : NarFmt → Nat | .fp32 | .i32 => 32 | .fp16 | .bf16 => 16 | .e4m3 | .e5m2 | .dxb8 | .i8 => 8 | .dxb6 => 6 | .dxb4 => 4
/-- A row as MNAR narrows it: the scale word, and the elements (R234, R368). -/
def narRow (f : NarFmt) (m : Mode) (gap : Nat) (l : List (BitVec 32)) : Nat × List Nat :=
  match narDxb f with
  | some d => toDXB d gap (l.map BitVec.toNat)
  | none => (0, l.map (narElem f m))
/-- Elements packed little-endian. -/
def packRow (w : Nat) (l : List Nat) : Nat := l.foldr (fun v acc => v + 2 ^ w * acc) 0
/-- The stores of a row: addresses, bytes, values. -/
def rowStores (f : NarFmt) (ga gb gc : Word) (i : Nat) (y : Nat × List Nat) : List (Word × Nat × Nat) :=
  let p := packRow (narBits f) y.2
  let base := addrPlus ga ((i : Nat) * (rowStride gb).toInt)
  ((List.range (narBits f / 2)).map fun j => (base + BitVec.ofNat 64 (8 * j), 8, p / 2 ^ (64 * j) % 2 ^ 64)) ++
    if (narDxb f).isSome then [(gc + BitVec.ofNat 64 (2 * i), 2, y.1)] else []
/-- The store of 2 or 8 bytes of a row leaves; it may not go into an instruction store by parts (R268, R368). -/
def State.rowStore (s : State) (c : Nat) (lid : BitVec 32) (x : Word × Nat × Nat) : Except Stop State :=
  match s.reach c lid x.1 true with
  | (.stop t, _) => .error t
  | (.go e pa, s0) =>
    if x.2.1 ≠ 8 ∧ toStore pa = true then .error (stopAt 0x03 x.1.toNat)
    else .ok (s0.engineSend c (unitKey c 8) e x.1 pa (.store (if x.2.1 = 8 then .d else .h) (BitVec.ofNat 64 x.2.2)) true)
  | (_, s0) => .ok s0
/-- The stores of a row, up to one that fails. -/
def State.rowStoresAll (s : State) (c : Nat) (lid : BitVec 32) : List (Word × Nat × Nat) → State × Option Stop
  | [] => (s, none)
  | x :: r =>
    match s.rowStore c lid x with
    | .ok s1 => s1.rowStoresAll c lid r
    | .error t => (s, some t)
/-- A store of a row that has met poison (R29, R368). -/
def State.rowFailed (s : State) (c : Nat) : Option Stop :=
  (s.accesses.find? fun a => a.fid == unitKey c 8 && a.grp && a.back == some .poisoned).map fun a => stopAt 0x14 (wordOf a.pa)
/-- Whether the stores of an MNAR are all acknowledged. -/
def State.rowsDone (s : State) (c : Nat) : Bool := !(s.accesses.any fun a => a.fid == unitKey c 8 && a.back.isNone)
/-- The addresses of a row's stores are reached, one after another, up to one that has to wait, or that fails: whether the stores
may be made now. -/
def State.rowReach (s : State) (c : Nat) (lid : BitVec 32) : List (Word × Nat × Nat) → Bool × State
  | [] => (true, s)
  | x :: r =>
    match s.find c lid x.1 true with
    | .go _ _ => s.rowReach c lid r
    | .stop _ => (true, s)
    | _ => (false, (s.reach c lid x.1 true).2)
/-- A row goes into 32 rows of the array: field at OFF of row ga + 32i + j (R368). -/
def Core.rowToArray (k : Core) (f : NarFmt) (ga : Word) (off : BitVec 9) (i : Nat) (y : List Nat) : Core :=
  y.zipIdx.foldl (fun k v =>
    let n := rowIx (ga + BitVec.ofNat 64 (32 * i + v.2))
    k.setRow n ((k.row n).put off.toNat (narBits f) v.1)) k
/-- An MNAR of a halted core has stores on their way, or one that has met poison: it waits for them, or stops (R97, R368). -/
def State.narHalted (s : State) (c : Nat) : State :=
  match s.rowFailed c, (s.core c).fq with
  | some t, e :: _ =>
    match s.itemAcc e.item with
    | some a => ((s.dropGroup (unitKey c 8)).failItem c e.owner a false t).popQueue c
    | none => s
  | _, _ => s.enqueue (s.tick + 1) c .low 0 .accOpComplete
/-- `ACC_OP_COMPLETE`: the work of an accumulator instruction at the head of a queue goes on by one step, and it completes or
stops (R366 to R368). A halted core stops after the row in progress (R97). -/
def execAccOpComplete (s : State) : Out :=
  let c := s.here
  let k := s.core c
  let lid := k.lid?.getD 0
  let again (st : State) (d : Nat) : State := st.enqueue (s.tick + d) c .low 0 .accOpComplete
  .next <|
  if k.halt then
    match k.fq with
    | [] => s.dropGroup (unitKey c 8)
    | e :: _ =>
      match e.item with
      | .nar .. => if s.rowsDone c && (s.rowFailed c).isNone then s.dropGroup (unitKey c 8) else s.narHalted c
      | _ => s.dropGroup (unitKey c 8)
  else
    match k.fq with
    | [] => s
    | e :: r =>
      let put (st : State) (it : QItem) : State := st.modCore c fun k => { k with fq := { e with item := it } :: r }
      let poke (st : State) : State := match k.lid? with | some l => st.poke l | none => st
      if !e.begun then s
      else
        match e.item with
        | .fold _ | .join _ => s
        | .zero a => poke ((s.modCore c fun k => k.accSet a []).popQueue c)
        | .wid _ _ _ _ true => poke (s.popQueue c)
        | .wid a f ga gb false =>
          match s.readElems c lid f ga gb (List.range 1024) with
          | (none, s1) => again s1 1
          | (some (.error t), s1) => poke (((s1.dropGroup (unitKey c 8)).failItem c e.owner a false t).popQueue c)
          | (some (.ok l), s1) =>
            again (put ((s1.dropGroup (unitKey c 8)).modCore c fun k => k.accSet a l) (.wid a f ga gb true)) 32
        | .nar a f m ga gb gc arr row gap =>
          let stop (st : State) (t : Stop) : State := poke (((st.dropGroup (unitKey c 8)).failItem c e.owner a false t).popQueue c)
          match s.rowFailed c with
          | some t => stop s t
          | none =>
            if 32 ≤ row then (if s.rowsDone c then poke ((s.dropGroup (unitKey c 8)).popQueue c) else again s 1)
            else if k.accBad a (32 * row) 32 then stop (s.countUncorr 7).bumpFree s.accStop
            else
              let y := narRow f m gap ((List.range 32).map fun j => k.accGet a (32 * row + j))
              let next (st : State) : State := again (put st (.nar a f m ga gb gc arr (row + 1) gap)) 1
              match arr with
              | some off =>
                if k.arrayBusy then s.enqueueFirst (s.tick + 1) c .low 0 .accOpComplete
                else if row = 31 then poke ((s.modCore c fun k => k.rowToArray f ga off row y.2).popQueue c)
                else next (s.modCore c fun k => k.rowToArray f ga off row y.2)
              | none =>
                let l := rowStores f ga gb gc row y
                match s.rowReach c lid l with
                | (false, s0) => again s0 1
                | (true, s0) =>
                  match s0.rowStoresAll c lid l with
                  | (s1, some t) => stop s1 t
                  | (s1, none) => next s1

/-! ### MREC, MWAIT, MQ (R369 to R371) -/

/-- Whether an item names an accumulator of a mask. -/
def State.names (s : State) (m : BitVec 4) (it : QItem) : Bool := (s.itemAcc it).any fun a => m.getLsbD a.val
/-- The failures of the issuing firing on accumulators of a mask. -/
def State.myFails (s : State) (m : BitVec 4) : List QFail := s.mine.qfails.filter fun x => x.owner == s.me.key && m.getLsbD x.acc.val
/-- The earliest of some failures is taken as a trap, and all of them are over (R370). -/
def State.failTrapOf (s : State) (l : List QFail) (ok : State → State) : State :=
  match l with
  | [] => ok s
  | x :: r =>
    (s.modMine fun k => { k with qfails := k.qfails.filter fun y => !(x :: r).contains y }).trapHere x.stop.cause x.stop.info x.stop.faddr
/-- What a wait does that covers every failure of the firing on accumulators of a mask (R370). -/
def State.failTrap (s : State) (m : BitVec 4) (ok : State → State) : State := s.failTrapOf (s.myFails m) ok
/-- What MREC does, which covers the failures of MFOLD only: those of MWID and MNAR wait for MWAIT or FENCE.E (R367 to R369). -/
def State.recTrap (s : State) (m : BitVec 4) (ok : State → State) : State := s.failTrapOf ((s.myFails m).filter (·.fold)) ok
/-- `MREC` (R369). -/
def execMrec (acc : Acc) (d : Reg) (s : State) : Out :=
  let m := layerBit acc.val
  .next (if s.mine.fq.any fun e => s.names m e.item then s.holdOp
    else s.recTrap m fun s =>
      let r := (vget s.mine.recs acc.val none).getD { gd := 0, gs := 0 }
      (((s.wrC 1 d r.gd).wrC 1 (nextReg d) r.gs).anchor).issue)
/-- `MWAIT` (R370). -/
def execMwait (mask : BitVec 4) (s : State) : Out :=
  let m := if mask = 0 then 0xF else mask
  .next (if s.mine.fq.any fun e => s.names m e.item then s.holdOp else s.failTrap m fun s => s.anchor.issue)
/-- `MQ` (R371). -/
def execMq (d : Reg) (s : State) : Out :=
  let t := coreTower s.here
  .next ((s.wrC 1 d (BitVec.ofNat 64 ((s.memberSet s.here).toNat + place (s.nowSet t).toNat 4 4 + place s.mine.flast.toNat 4 8 +
    place (s.fencedSet t).toNat 4 12 + place s.mine.fq.length 3 16))).anchor).issue

/-! ### FENCE.E (R198, R204, R336, R420) -/

/-- Whether an engine command or a reward operation that the issuing firing must wait for is not over. -/
def State.engineBusy (s : State) : Bool :=
  let k := s.mine
  (k.copies.any fun x => x.owner == some s.me.key && !x.done) || (k.fq.any fun e => e.owner == some s.me.key) ||
  k.bcast.isSome || k.apply.isSome || k.dueReward
/-- `FENCE.E`: waits for the copies, fold and accumulator operations of the firing and for reward operations, and traps on
what stopped (R198, R336, R370, R420). -/
def execFenceE (s : State) : Out :=
  .next (if s.engineBusy then s.holdOp
    else match lowestStop (s.attached 0) with
      | some t => s.trapHere t.cause t.info t.faddr
      | none => s.failTrap 0xF State.issue)

end Sys2Proof.Machine
end

