-- ==== Sys2Proof/Machine/Launches.lean ====
section
/-!
DEFINITION. Launch records, the launch table, completion, and the halting and cancelling of launches (03_host_interface R53
to R67, 05_distribution R94, R99, R432, 06_firings R119, 07_translation R136, R143).
-/
namespace Sys2Proof.Machine

/-! ### The frames that a record may name (R60) -/

/-- Whether an address is aligned and lies in this package's HBM or vault windows. -/
def State.recordOk (s : State) (a al : Nat) : Bool :=
  a % al == 0 && decide (a < 2 ^ 56) && pkgOf a == s.pkgId &&
  (match placeOf (offOf a) with | .hbm | .vault .. => true | _ => false)

/-! ### Cores that a launch leaves (R94, R143, R432) -/

/-- A core that no launch holds: its firings and the work of its engines are gone; what else it holds is cleared when it is
given to a launch (R103). -/
def Core.freed (k : Core) : Core :=
  { k with launch := none, halt := false, low := Bank.reset, high := Bank.reset, cur := .low, fifoLow := [], fifoHigh := [],
           insts := [], holdLow := [], holdHigh := [], grain := none, copies := [], misses := [], fq := [], qfails := [],
           rewards := [], apply := none, bcast := none }
/-- The words that the bundles and engines of a core had read for what they do no more are dropped (R41, R298, R399). -/
def State.dropUnits (s : State) (c : Nat) : State :=
  let f (a : Access) : Access := if a.core == c then { a with grp := false } else a
  { s with accesses := (s.accesses.filter fun a => !(a.core == c && a.grp && a.back.isSome)).map f }
/-- Free a core; one that was idle already has been so since before (R142). -/
def State.freeCore (s : State) (c : Nat) : State :=
  let s1 := (s.dropUnits c).modCore c Core.freed
  if (s.core c).idle then s1 else s1.restIdle c
/-- Every entry of a space leaves every TLB of the package (R143). -/
def State.dropSpace (s : State) (sp : BitVec 10) : State :=
  { s with quadTlb := s.quadTlb.filter fun x => x.2.space != sp,
           cores := s.cores.map fun x => (x.1, { x.2 with tlb := x.2.tlb.filter fun e => e.space != sp }) }
/-- The fold operations of some cores are withdrawn. -/
def State.dropFolds (s : State) (cs : List Nat) : State :=
  { s with foldOps := s.foldOps.filter fun o => !(o.cores.any fun c => cs.contains c),
           joins := s.joins.filter fun j => !cs.contains j.core }
/-- Everything that the package keeps for a launch outside its cores is dropped. -/
def State.dropParts (s : State) (lid : BitVec 32) : State :=
  let s1 := { s with transit := s.transit.filter fun t => t.lid != lid, saved := s.saved.filter fun x => x.lid != lid }
  (s1.park.filter fun e => e.lid == lid).foldl (fun st e => st.freePark e.id) s1
/-- The cores that a launch holds now. -/
def State.heldBy (s : State) (l : Launch) : List Nat := l.cores.filter fun c => (s.core c).lid? == some l.r.lid
/-- A launch gives up its cores and everything else it has. -/
def State.leaveCores (s : State) (l : Launch) : State :=
  let held := s.heldBy l
  let s1 := (s.dropSpace l.space).dropParts l.r.lid
  held.foldl State.freeCore (s1.dropFolds held)

/-! ### Completion (R61 to R66) -/

/-- The history of the last 4096 completions; an id stands in it once, with its latest status (R66). -/
def State.addHistory (s : State) (lid : BitVec 32) (st : BitVec 8) : State :=
  let h := (s.history.filter fun x => x.1 != lid) ++ [(lid, st)]
  { s with history := h.drop (h.length - 4096) }
/-- The completion record (R61). -/
def completionRecord (r : LRec) (st : BitVec 8) (faults reissued firings start end_ preempts : Nat) : List Word :=
  let w : List Word :=
    [ BitVec.ofNat 64 (r.lid.toNat + place st.toNat 8 32 + place r.prio 2 40), BitVec.ofNat 64 (faults % 2 ^ 32 + place reissued 32 32),
      BitVec.ofNat 64 firings, BitVec.ofNat 64 start, BitVec.ofNat 64 end_, BitVec.ofNat 64 (preempts % 2 ^ 32), 0 ]
  w ++ [BitVec.ofNat 64 (crc32c w)]
/-- A filling store of a word at a physical address of this package; an unarmed block discards it (R63, R168). -/
def State.recordWord (s : State) (a : Nat) (w : Word) : State :=
  if s.spent (offOf a) then s else (s.call a).fillWord (keyOf (offOf a)) w
/-- Filling stores of consecutive words. Each reads the rest of its block, so a block that is poisoned as one stays so: the manual
does not say that eight stores which together cover a block clear it (log entry 113). -/
def State.fillWords (s : State) (a : Nat) : List Word → State
  | [] => s
  | w :: ws => (s.recordWord a w).fillWords (a + 8) ws
/-- One more dropped write or record on a link (R49, R51, R60). -/
def State.countDropped (s : State) (l : Nat) : State := s.modLink l fun x => { x with dropped := satAdd x.dropped 1 }
/-- What a link's function does, with the TLP that it may send by it (R28). -/
def State.onLink (s : State) (l : Nat) (f : PcieLink → PcieLink) : State :=
  let s1 := s.modLink l f
  if (s.link l).out.length < (s1.link l).out.length then s1.tlp else s1
/-- Steps 1 to 4 of a completion: the record, the completion word, and the MSI-X message; a record without usable places is
counted instead (R60, R63). -/
def State.report (s : State) (r : LRec) (w : List Word) : State :=
  let s1 :=
    if s.recordOk r.crec 64 && s.recordOk r.cword 8 then
      (s.fillWords r.crec w).recordWord r.cword (r.lid.setWidth 64)
    else s.countDropped r.link
  if r.msix && (s1.link r.link).up then s1.onLink r.link fun x => x.sendMsix r.vec else s1
/-- Whether the stack of a launch's completion record or word takes no request now, so that its completion waits (R22, R63). -/
def State.reportShut (s : State) (r : LRec) : Bool := s.recordOk r.crec 64 && s.recordOk r.cword 8 && s.stacksShut [r.crec, r.cword]
/-- Whether a dependence on a launch is satisfied by its triggers (R64). -/
def triggered (trig : Nat) (d : BitVec 32 × Nat × Bool) : Bool := d.2.1 != 0 && decide (d.2.1 ≤ trig)
/-- A dependent that waits learns of the completion of a launch: satisfied, or, with REQOK = 1 and another status than OK before
the dependent is released, PRED_FAILED (R64). -/
def Launch.predDone (d : Launch) (lid : BitVec 32) (st : BitVec 8) (now : Nat) : Launch :=
  let mine := d.r.preds.filter fun p => p.1 == lid
  if d.st ≠ .waiting ∨ mine.isEmpty = true then d
  else if mine.any fun p => p.2.2 && st != 0 then { d with st := .finished, status := 0x04, startT := now }
  else { d with r := { d.r with preds := d.r.preds.filter fun p => p.1 != lid } }
/-- A launch leaves the launch table: its dependents learn of it, and the master looks at what waits for room (R64, R83). -/
def State.forget (s : State) (l : Launch) (st : BitVec 8) : State :=
  let rest := (s.launches.filter fun x => x.r.lid != l.r.lid).map fun d => d.predDone l.r.lid st s.timebase
  let s1 := { s with launches := rest }
  (rest.filter fun d => d.st == .finished).foldl (fun t d => t.later 0 0 (.launchComplete d.r.lid)) s1
/-- Running sweeps look for cores to add, behind the launches that wait for cores (R96). -/
def State.pokeSweeps (s : State) : State :=
  (s.launches.filter fun l => l.r.sweep && l.st == .running).foldl (fun t l => t.later 1 0 (.launchStart l.r.lid)) s
/-- THE COMPLETION of a launch: its cores are released and the sequence of R63 follows (R94). -/
def State.complete (s : State) (l : Launch) (st : BitVec 8) : State :=
  let ran := l.st != .waiting && l.st != .finished
  let end_ := if ran then s.timebase else l.startT
  let w := completionRecord l.r st l.faults l.reissued l.firings l.startT end_ l.preempts
  ((((((s.leaveCores l).report l.r w).addHistory l.r.lid st).forget l st).pokeQueues).pokeStarts).pokeSweeps
/-- A launch that never ran completes with a status decided now. -/
def State.neverRan (s : State) (l : Launch) (st : BitVec 8) : State :=
  s.complete { l with st := .finished, startT := s.timebase, faults := 0, reissued := 0, firings := 0, preempts := 0 } st
/-- A launch that has never run ends with a status: at once, or when its completion record can be written (R22). -/
def State.endUnrun (s : State) (l : Launch) (st : BitVec 8) : State :=
  if s.reportShut l.r then
    let f (x : Launch) : Launch := { x with st := .finished, status := st, startT := s.timebase }
    (s.modLaunch l.r.lid f).poke l.r.lid
  else s.neverRan l st

/-! ### When a launch is complete (R94) -/

/-- Whether an instance's port 0 holds a record of a trapped firing. -/
def Inst.holdsFcr (i : Inst) : Bool := i.ports.any fun q => q.msgs.contains 64
/-- Whether an access of a launch's firings, the ended ones too, is not over: every write of a launch is visible to what its
completion releases (R67). -/
def State.launchWrites (s : State) (lid : BitVec 32) : Bool :=
  s.accesses.any fun a => decide (a.fid < 2 ^ 61) && a.fid % 2 ^ 60 / 2 ^ 20 == lid.toNat
/-- Whether a launch has no firing and no record on its way or held; a graph no copy, fold operation or ring empty outstanding
(R94, R343), and a sweep no FCR in its fault actor's FIFO. What a sweep's engines still have in hand when its last grain is
confirmed ends with the release of its cores (R94, log entry 114). -/
def State.launchQuiet (s : State) (l : Launch) : Bool :=
  let lid := l.r.lid
  l.cores.all (fun c => let k := s.core c
    !k.halt && k.low.run == .none && k.high.run == .none && k.holdLow.isEmpty && k.holdHigh.isEmpty &&
    if l.r.sweep then !(k.insts.any Inst.holdsFcr)
    else k.copies.isEmpty && k.fq.isEmpty && k.rings.toList.all fun r => r.pend == 0 && !r.read) &&
  !(s.park.any fun e => e.lid == lid) && !(s.transit.any fun t => t.lid == lid) && !s.launchWrites lid &&
  (l.r.sweep || !(s.foldOps.any fun o => o.cores.any fun c => l.cores.contains c))
/-- Whether no instance of a launch is ready or firing. -/
def State.instsQuiet (s : State) (l : Launch) : Bool :=
  l.cores.all fun c => (s.core c).insts.all fun i => !i.queued && !i.inflight
/-- Number of grains of a sweep (R91). -/
def grainCount (l : Launch) : Nat :=
  let n := max 1 (l.r.w5.toNat % 2 ^ 32)
  (l.r.w4.toNat + n - 1) / n
/-- Whether a launch keeps itself open (R85, R94). -/
def Launch.keeps (l : Launch) : Bool := l.insts.any fun i => (l.actors[i.act]?.map (·.keep)).getD false
/-- The launch that a message or push is of. -/
def packetLid : Packet → Option (BitVec 32)
  | .message lid .. | .push lid .. => some lid
  | _ => none
/-- Whether a message of a launch is in flight: on its way to a core, in a queue for another package or not acknowledged there, or come from
one and not presented (R94, R321). -/
def State.messagesOut (s : State) (lid : BitVec 32) : Bool :=
  (s.msgs.any fun m => m.lid == lid) || s.span.toList.any fun x =>
    ((x.outq ++ x.heldPk ++ x.replay.filterMap (·.src)).any fun e => packetLid e.pk == some lid) ||
    x.rxq.any fun e => packetLid e.2 == some lid
/-- Whether a running launch is complete (R94). -/
def State.isComplete (s : State) (l : Launch) : Bool :=
  s.launchQuiet l &&
  (if l.r.sweep then l.confirmed.length == grainCount l
   else !l.keeps && l.lost.isEmpty && s.instsQuiet l && !s.messagesOut l.r.lid)
/-- `LAUNCH_COMPLETE`: a launch whose status is decided, or that is found complete, completes (R63, R94), once its completion
record can be written (R22). -/
def execLaunchComplete (lid : W32) (s : State) : Out :=
  .next <| match s.launchOf lid with
  | none => s
  | some l =>
    if s.reportShut l.r then s.poke lid
    else match l.st with
    | .finished => s.complete l l.status
    | .running => if s.isComplete l then s.complete l (if l.lossy then 1 else 0) else s
    | _ => s

/-! ### Halting a launch (R119, R353, R402, R419) -/

/-- A firing halts at its bundle boundary in a tick, in which its core has `moved` or has still to move: a bundle that is held has not
executed; a sequence makes its pass of the tick, keeps its passes in word 10, and issues its bundle where that was the last; an
attempt that has left goes on until its answer, and a barrier bound that is reached at this boundary still traps (R119, R328, R402,
R433). -/
def Bank.haltOp (b : Bank) (t : Nat) (moved : Bool) : Bank :=
  match b.op with
  | .array _ _ _ true _ => { b with xl := .none }
  | .array _ (some _) (some _) .. => if moved then { (b.keepPass (t + 1)) with op := .idle, xl := .none } else { b with xl := .none }
  | .array _ (some _) .. => { (b.keepPass t) with op := .idle, xl := .none }
  | .array .. | .sleep .. | .reading _ | .gather .. | .idle => { b with op := .idle, xl := .none }
  | .fe n key pa lat (.resting d) => { b with op := .fe n key pa lat (.resting d), xl := .none }
  | _ => { b with xl := .none }
/-- The application of a core halts at the boundary behind its pass of a tick (R402, R419). -/
def Core.haltApply (k : Core) (t : Nat) : Core :=
  match k.apply with
  | some (x, d, some st) => { k with apply := some (x, min 2000 (d + (t + 1 - st)), none) }
  | _ => k
/-- A core halts: no firing issues another bundle, and its engines stop at their boundaries (R119). -/
def Core.halted (k : Core) (t : Nat) (moved : Bool) : Core :=
  let k' := k.haltApply t
  { k' with halt := true, low := k'.low.haltOp t moved, high := k'.high.haltOp t moved }
/-- A place of an operation that is withdrawn: none is left where the MFOLD bundle has still to issue; where it has issued, which
cannot be undone, the place is that of a join, which is made again (R353; log entry 66). -/
def QEntry.withdrawn (e : QEntry) (o : FoldOp) (c : Nat) (held : Bool) : List QEntry :=
  if e.item.isFold o.id then
    match (if held then none else o.joined.find? fun j => j.core == c) with
    | some j => [{ e with item := .join j, begun := false }]
    | none => []
  else [e]
/-- An operation that has not taken its place everywhere is withdrawn in every member: the bundles that wait have not executed
(R353). -/
def State.withdrawFold (s : State) (o : FoldOp) : State :=
  let f (b : Bank) : Bank := match b.op with | .fold (some n) _ => if n = o.id then { b with op := .idle } else b | _ => b
  o.cores.foldl (fun st c => st.modCore c fun k =>
    { k with low := f k.low, high := f k.high, fq := (k.fq.map fun e => e.withdrawn o c (k.foldBank o.id).isSome).flatten })
    { s with foldOps := s.foldOps.filter fun x => x.id != o.id }
/-- The operations of some cores that have not taken all places are withdrawn. -/
def State.withdrawFolds (s : State) (cs : List Nat) : State :=
  (s.foldOps.filter fun o => o.placed != o.members && o.cores.any fun c => cs.contains c).foldl
    State.withdrawFold s
/-- Every core that a launch holds halts, and joins that are not complete are withdrawn (R119, R353). -/
def State.haltCores (s : State) (cs : List Nat) : State :=
  let s1 := cs.foldl (fun st c => st.modCore c fun k => k.halted st.tick (!st.turn.contains c)) (s.withdrawFolds cs)
  { s1 with joins := s1.joins.filter fun j => !cs.contains j.core }

/-! ### CANCEL (R67, R99, R432) -/

/-- A bank whose firing is discarded; the accesses that it has sent are performed (R432). -/
def Bank.discarded (b : Bank) : Bank := { Bank.reset with lid := b.lid }
/-- A core of a cancelled launch: firings, records, accumulator work and rewards are gone; copies end the line that they are in, and
fold operations their round (R432). -/
def Core.cancelled (k : Core) : Core :=
  let f (x : Copy) : Copy := { x with owner := none, cw := none }
  { k with halt := true, low := k.low.discarded, high := k.high.discarded, fifoLow := [], fifoHigh := [], holdLow := [],
           holdHigh := [], copies := (k.copies.filter fun x => !x.atLine).map f, fq := k.fq.filter (fun e => match e.item with | .fold _ => true | _ => false),
           qfails := [], rewards := [], apply := none, bcast := none }
/-- CANCEL of a launch: one that runs halts and stops its engines first; any other completes at once (R67, R99, R432). -/
def State.cancelLaunch (s : State) (l : Launch) : State :=
  match l.st with
  | .running | .halting =>
    let held := s.heldBy l
    let s1 := held.foldl (fun st c => st.modCore c Core.cancelled) (s.haltCores held)
    ((s1.modLaunch l.r.lid fun x => { x with st := .cancelling }).dropParts l.r.lid).later 1 0
      (.cancelCoresFreed l.r.lid)
  | .cancelling => s
  | .waiting | .finished | .released => s.endUnrun l 5
  | .preempted =>
    if s.reportShut l.r then
      let f (x : Launch) : Launch := { x with st := .cancelling }
      (s.modLaunch l.r.lid f).later 1 0 (.cancelCoresFreed l.r.lid)
    else s.complete l 5
/-- `CANCEL`: only of a pending or running launch that was submitted on the same link (R67). -/
def execCancel (l : Nat) (lid : W32) (s : State) : Out :=
  .next <| match s.launchOf lid with
  | some x => if x.r.link = l then s.cancelLaunch x else s
  | none => s
/-- Whether a core has stopped all its engine work and what it sent is performed (R432). -/
def State.coreStopped (s : State) (c : Nat) : Bool :=
  !(s.accesses.any fun a => a.core == c && !(a.grp && a.back.isSome)) && !(s.msgs.any fun m => m.src == c) && (s.core c).copies.all Copy.atLine &&
  !(s.foldOps.any fun o => o.cores.contains c && o.busy.isSome)
/-- `CANCEL_CORES_FREED`: once every core has stopped, the cores are freed and the completion follows (R432). -/
def execCancelCoresFreed (lid : W32) (s : State) : Out :=
  .next <| match s.launchOf lid with
  | none => s
  | some l =>
    if l.st ≠ .cancelling then s
    else if (s.heldBy l).all s.coreStopped && !s.reportShut l.r then s.complete l 5
    else s.later 1 0 (.cancelCoresFreed lid)

end Sys2Proof.Machine
end

