-- ==== Sys2Proof/Machine/Preempt.lean ====
section
/-!
DEFINITION. Pre-emption: the distributors' accesses, the halt of a victim, and the save slot (05_distribution R84, R87, R97,
R100 to R102, 06_firings R119).
-/
namespace Sys2Proof.Machine

/-! ### The distributors' accesses (R87) -/

/-- Whether the distributors may use a frame (R87). -/
def State.distMay (s : State) (pa : Nat) : Bool :=
  match placeOf (offOf pa) with
  | .hbm | .vault .. => pkgOf pa == s.pkgId || (s.route (pkgOf pa)).valid
  | .hostWin .. => pkgOf pa == s.pkgId
  | _ => false
/-- What the distributors get: it, or nothing, or nothing yet. -/
inductive Got (α : Type)
  | got (a : α)
  | fail
  | wait
deriving DecidableEq, Repr

/-- The entry and the physical address that a virtual address of a launch's space leads to, where the page is mapped with the
permissions of a mask and the distributors may use its frame (R87). -/
def State.distSpot (s : State) (l : Launch) (need : BitVec 9) (va : Nat) : Option (TlbEntry × Nat) :=
  if 2 ^ 56 ≤ va then none
  else
    match s.leaf l va with
    | none => none
    | some (e, _) =>
      let pa := e.pbase + va % e.bytes
      if e.legal && (need &&& ~~~e.attr == 0) && s.distMay pa then some (e, pa) else none
/-- A word of this package as the distributors read it, with its bit, in one step; of an unarmed block, zero and empty (R87, R168). -/
def State.distHere (s0 : State) (lid : BitVec 32) (va pa : Nat) (e : TlbEntry) : Except Stop (Nat × Bool) × State :=
  let k := keyOf (offOf pa)
  let s := s0.call pa
  if s.unarmed (attrT e.attr) k then (.ok (0, false), s)
  else
    let s1 := s.meet k
    match s1.bad pa k with
    | some _ => (.error (stopAt 0x14 (wordOf pa)), s1)
    | none => (.ok (s1.placeRead pa k 8, s1.wordFull lid va pa k), s1.placeRead' pa)
/-- A word of this package as the distributors write it, with its bit, or set it empty, in one step (R87, R168). -/
def State.distStore (s0 : State) (lid : BitVec 32) (va pa : Nat) (e : TlbEntry) (v : Option Word) (full : Bool) : State :=
  let k := keyOf (offOf pa)
  let s := s0.call pa
  if s.unarmed (attrT e.attr) k then s
  else
    let s1 := match v with | some w => ((s.meetBlock k).placeWrite pa k 8 w.toNat).unpoison k | none => s.meet k
    s1.setBit lid va pa k full
/-- A word as the distributors read it, with its bit, through the tables; poison leaves none of it. They wait for an HBM stack that
takes no request (R22), and for another package's answer (R41). -/
def State.distRead (s : State) (l : Launch) (need : BitVec 9) (va : Nat) : Got (Option (Word × Bool)) × State :=
  let pas := s.tableWords l va
  if s.stacksShut pas then (.wait, s)
  else
    let s1 := s.meetAll pas
    match s1.distSpot l need va with
    | none => (.fail, s1)
    | some (e, pa) =>
      if s1.stacksShut [pa] then (.wait, s1)
      else
        let r := if pkgOf pa = s1.pkgId then let x := s1.distHere l.r.lid va pa e; (some x.1, x.2)
          else s1.engineRead s1.distCore (distKey l.r.lid) (BitVec.ofNat 64 va) e pa 8
        match r with
        | (none, s2) => (.wait, s2)
        | (some (.ok v), s2) => (.got (some (BitVec.ofNat 64 v.1, v.2)), s2)
        | (some (.error _), s2) => (.got none, s2)
/-- `n` words of a launch's space from an address, each page with the permissions of a mask; those of another package are asked for
together. -/
def State.distReads (s : State) (l : Launch) (need : BitVec 9) (va : Nat) : Nat → Got (List (Option (Word × Bool))) × State
  | 0 => (.got [], s)
  | n + 1 =>
    match s.distRead l need va with
    | (.fail, s1) => (.fail, s1)
    | (r, s1) =>
      match r, s1.distReads l need (va + 8) n with
      | .got x, (.got ws, s2) => (.got (x :: ws), s2)
      | _, (.fail, s2) => (.fail, s2)
      | _, (_, s2) => (.wait, s2)
/-- All of a list, or none. -/
def allSome {α : Type} : List (Option α) → Option (List α)
  | [] => some []
  | x :: l => match x, allSome l with
    | some a, some r => some (a :: r)
    | _, _ => none
/-- Words of a launch's space, without their bits. Data of a launch record's parts that are poisoned count as data that cannot be
had: the manual does not say what the distributors do with them (log entry 115). -/
def State.distWords (s : State) (l : Launch) (need : BitVec 9) (va n : Nat) : Got (List Word) × State :=
  match s.distReads l need va n with
  | (.got ws, s1) => (match allSome ws with | some x => .got (x.map Prod.fst) | none => .fail, s1)
  | (.fail, s1) => (.fail, s1)
  | (.wait, s1) => (.wait, s1)
/-- A word as the distributors write it, with its bit; one that cannot be reached is not written. To an HBM stack that takes no
request, and to another package, it travels (R22, R41). -/
def State.distWrite (s : State) (l : Launch) (va : Nat) (v : Word) (full : Bool) : State :=
  match s.distSpot l 2 va with
  | none => s
  | some (e, pa) =>
    let at_ : Word := BitVec.ofNat 64 va
    if s.stacksShut [pa] || pkgOf pa != s.pkgId then s.engineAsk s.distCore (distKey l.r.lid) e at_ pa (.put v (some full))
    else s.distStore l.r.lid va pa e (some v) full
/-- The distributors set a word empty. -/
def State.distEmpty (s : State) (l : Launch) (va : Nat) : State :=
  match s.distSpot l 2 va with
  | none => s
  | some (e, pa) =>
    let at_ : Word := BitVec.ofNat 64 va
    if s.stacksShut [pa] || pkgOf pa != s.pkgId then s.engineAsk s.distCore (distKey l.r.lid) e at_ pa .clear
    else s.distStore l.r.lid va pa e none false
/-- An event about a launch comes again in the next tick, unless it is on its way already. -/
def State.againOnce (s : State) (ev : Instr) : State := if s.queue.any fun e => decide (e.ev = ev) then s else s.later 1 0 ev

/-! ### The slot (R100, R101) -/

/-- Virtual address of a core's slot. -/
def slotVa (l : Launch) (c : Nat) : Nat := l.r.save + c * 0x80000
/-- The control registers of 0x006 to 0x04A, ascending (R286). -/
def savedRegs : List Nat := (List.range 6).map (0x006 + ·) ++ (List.range 8).map (0x010 + ·) ++ [0x020, 0x021] ++
  (List.range 8).map (0x030 + ·) ++ (List.range 11).map (0x040 + ·)
/-- A control register as a slot holds it: of one held per bank, the value that the core's next firing starts with. -/
def State.savedReg (s : State) (c n : Nat) : Word :=
  let k := s.core c
  match n with
  | 0x006 => k.drbud.setWidth 64
  | 0x008 => k.dfpctl.setWidth 64
  | 0x021 => k.dbarb.setWidth 64
  | _ => ((s.coreHeld c n).or (k.arrayReg n)).getD 0
/-- A port record (R101). -/
def portRecord (q : Port) : Word := BitVec.ofNat 64 (q.at q.head % 4096 + place q.words 12 12 + place q.msgs.length 12 24)
/-- First mailbox words and lengths of the messages of a port. -/
def Port.starts (q : Port) : List (Nat × Nat) :=
  (List.range q.msgs.length).map fun m => (q.at (q.head + (q.msgs.take m).sum), q.msgs.getD m 0)
/-- A byte of the length map (R101). -/
def Core.lengthAt (k : Core) (j : Nat) : Nat :=
  (((k.insts.map fun i => (i.ports.map Port.starts).flatten).flatten.find? fun x => x.1 == j).map Prod.snd).getD 0
/-- An instance record (R101). -/
def instRecord (i : Inst) : Word :=
  BitVec.ofNat 64 (bitN i.placed + place (bitN i.disabled) 1 1 + place (bitN i.inflight) 1 2 + place (bitN i.trig) 1 3 +
    place (bitN i.queued) 1 4 + place (bitN i.started) 1 5 + place (bitN i.waitIn) 1 6)
/-- A FIFO entry (R101). -/
def State.entryWord (s : State) : Entry → Word
  | .inst i _ => BitVec.ofNat 64 (1 + place i 6 2)
  | .resume k _ => match s.parkEntry k with
    | some e => BitVec.ofNat 64 (2 + place e.tower 3 8 + place e.pset 13 11 + place e.way 3 24)
    | none => 0
/-- The record of a halted firing, or zero words (R100, R119). -/
def State.haltFcr (s : State) (c : Nat) (p : Prio) : List Word :=
  if (s.bank c p).run = .none then List.replicate 64 0 else s.fcr c p .preempt noTrap 0
/-- A word of the engine state: its layout is the implementation's own (R101, log entry 6). -/
def engineWord (o : Nat) : Word :=
  BitVec.ofNat 64 ((List.range 8).foldr (fun i n => (Config.engineByte (o + i)).toNat + 256 * n) 0)
/-- The word of a slot at an offset below the slot check, with its bit (R100, R101). -/
def State.slotWord (s : State) (c o : Nat) : Word × Bool :=
  let k := s.core c
  let mem (a : Nat) : Word × Bool := (s.rdWord a, s.full a)
  if o < 0x10000 then (s.rdWord (bundleKey c (o / 8)), true)
  else if o < 0x18000 then mem (mailKey c ((o - 0x10000) / 8))
  else if o < 0x1C000 then
    let e := (o - 0x18000) / 4
    (BitVec.ofNat 64 ((Sparse.get (fun _ => (0 : BitVec 32)) k.acc e).toNat + place (Sparse.get (fun _ => (0 : BitVec 32)) k.acc (e + 1)).toNat 32 32), true)
  else if o < 0x1C200 then ((s.haltFcr c .low).getD ((o - 0x1C000) / 8) 0, true)
  else if o < 0x1C400 then ((s.haltFcr c .high).getD ((o - 0x1C200) / 8) 0, true)
  else if o < 0x1C600 then ((vget k.rings ((o - 0x1C400) / 64) Ring.reset).word (o / 8 % 8), true)
  else if o < 0x1C800 then (((savedRegs[(o - 0x1C600) / 8]?).map (s.savedReg c)).getD 0, true)
  else if o < 0x1D000 then (engineWord (o - 0x1C800), true)
  else if o < 0x20000 then (0, true)
  else if o < 0x70000 then
    let r := (o - 0x20000) / 80
    let j := (o - 0x20000) % 80 / 8
    if j < 8 then (BitVec.ofNat 64 (arrayRead k (64 * r + 8 * j) 8), s.full (arrayBase + c * 0x80000 + 64 * r + 8 * j))
    else if j = 8 then ((k.row r).tags.setWidth 64, s.full (arrayBase + c * 0x80000 + 0x40000 + 8 * r))
    else (0, true)
  else if o < 0x71000 then
    let n := (o - 0x70000) / 8
    ((((k.insts[n / 8]?).bind fun i => i.port (n % 8)).map portRecord).getD 0, true)
  else if o < 0x72000 then
    (BitVec.ofNat 64 ((List.range 8).foldr (fun i n => k.lengthAt (o - 0x71000 + i) + 256 * n) 0), true)
  else if o < 0x72200 then (((k.insts[(o - 0x72000) / 8]?).map instRecord).getD 0, true)
  else if o < 0x73200 then (((k.fifoLow[(o - 0x72200) / 8]?).map s.entryWord).getD 0, true)
  else if o < 0x74200 then (((k.fifoHigh[(o - 0x73200) / 8]?).map s.entryWord).getD 0, true)
  else (0, true)
/-- The words of a slot below its check. -/
def State.slotWords (s : State) (c : Nat) : List (Word × Bool) := (List.range 65535).map fun i => s.slotWord c (8 * i)
/-- The slot check (R102). -/
def slotCheck (ws : List Word) : Word := BitVec.ofNat 64 (crc32c (ws.drop 8192))
/-- Write a slot (R100). -/
def State.writeSlot (s : State) (l : Launch) (c : Nat) : State :=
  let ws := s.slotWords c
  let all := ws ++ [(slotCheck (ws.map Prod.fst), true)]
  all.zipIdx.foldl (fun st x => st.distWrite l (slotVa l c + 8 * x.2) x.1.1 x.1.2) s

/-! ### The halt and the save (R97, R100, R119) -/

/-- A parked firing's watchdog counts no tick of a pre-emption: the ticks counted and those left are kept (R121). -/
def State.pauseParked (s : State) (lid : BitVec 32) : State :=
  let f (e : ParkEntry) : ParkEntry :=
    if e.lid == lid && e.onWord && !e.fcr.isEmpty then
      { e with ticks := e.ticks + (s.tick - e.since), due := if e.due = 0 then 0 else e.due - s.tick + 1 }
    else e
  { s with park := s.park.map f }
/-- A victim is pre-empted whole: its firings halt, PREEMPT counts, and the save follows (R97, R119). -/
def State.preempt (s : State) (l : Launch) : State :=
  (((s.haltCores (s.heldBy l)).pauseParked l.r.lid).modLaunch l.r.lid fun x =>
    { x with st := .halting, preempts := x.preempts + 1 }).later 1 0 (.preemptSave l.r.lid)
/-- Whether an event of a core's engines is on its way that comes before the save (R329, R343, R416). -/
def State.eventsOut (s : State) (c : Nat) : Bool :=
  s.queue.any fun e => match e.ev with
    | .ringSlotFreed | .rewardBroadcastArrive => e.core == c
    | .messageAnswerArrive d _ _ => d == c
    | _ => false
/-- Whether a bank of a halted core has come to rest. -/
def State.bankRests (s : State) (c : Nat) (p : Prio) : Bool :=
  let b := s.bank c p
  b.leaving.isNone && b.async.isNone && !b.resolving && s.quiet c p
/-- Whether a halted core may be saved: its copies stand at the start of a line (R119, R335). -/
def State.coreRests (s : State) (c : Nat) : Bool :=
  s.bankRests c .low && s.bankRests c .high && !(s.accesses.any fun a => a.core == c && (!(a.grp && a.back.isSome) || a.fid == unitKey c 8)) &&
  (s.core c).copies.all Copy.atLine && (s.core c).rings.toList.all (fun r => !r.read) && !s.eventsOut c &&
  !(s.foldOps.any fun o => o.cores.contains c && (o.busy.isSome || o.fin || (o.begun && !o.preempted)))
/-- Whether a release of a launch is on its way (R329). -/
def State.releaseOut (s : State) (lid : BitVec 32) : Bool :=
  s.queue.any fun e => match e.ev with | .barrierRelease _ x _ => x == lid | _ => false
/-- A trap that an access answered with comes before the pre-emption (R120). -/
def State.trapAsync (s : State) (c : Nat) (p : Prio) : State :=
  let b := s.bank c p
  match b.async with
  | some t =>
    if b.run ≠ .none ∧ b.leaving = none ∧ b.resolving = false then
      (s.modBank c p fun b => { b with async := none }).takeTrap c p t.cause t.info t.faddr
    else s
  | none => s
/-- The words of the fault actor's port that were reserved for a record are free again, and the record waits (R123). -/
def State.unreserve (s : State) (lid : BitVec 32) : State :=
  (s.park.filter fun e => e.lid == lid && e.st == .reserved).foldl (fun st e =>
    match st.faultHere e.origin with
    | some n => (st.modPark e.id fun x => { x with st := .parked }).modInst e.origin n fun i =>
        { i with ports := i.ports.modify 0 fun q => { q with reserved := q.reserved - 64 } }
    | none => st.modPark e.id fun x => { x with st := .parked }) s
/-- The fold operation of a bank's MFOLD. -/
def Bank.foldId (b : Bank) : Option Nat := match b.op with | .fold o _ => o | _ => none
/-- What of a core goes into the engine state of its slot, or is in no record of it (R100). Bad parity and poison of what the core
holds go with it, and its slot takes them as marks of the saved state, not of its own words (R26, log entry 116). -/
def State.savedOf (s : State) (lid : BitVec 32) (c : Nat) : Saved :=
  let k := s.core c
  { lid := lid, core := c, copies := k.copies, fq := k.fq, qfails := k.qfails, rewards := k.rewards, apply := k.apply,
    bcast := k.bcast, holdLow := k.holdLow, holdHigh := k.holdHigh, asql := k.asql, foldLow := k.low.foldId,
    foldHigh := k.high.foldId, dropLow := k.low.dropped, dropHigh := k.high.dropped, brken := k.brken, cause := k.cause,
    wokenLow := k.low.woken, wokenHigh := k.high.woken, arrLow := k.low.arrOwn, arrHigh := k.high.arrOwn,
    badCode := k.badCode, badMail := (List.range 4096).filter fun i => s.poisoned (mailKey c i),
    badPar := k.badPar, badAcc := k.badAcc, recs := k.recs, grain := k.grain, ops := s.foldOps.filter fun o => o.cores.contains c }
/-- The flags of results written in this tick reach %fpst before the records are written (R230, R251). -/
def State.landBoth (s : State) (c : Nat) : State :=
  s.modCore c fun k => { k with low := k.low.landFlags s.tick, high := k.high.landFlags s.tick }
/-- One core is saved and freed; its mailbox words are read, which finds the errors in them (R26). -/
def State.saveCore (s : State) (l : Launch) (c : Nat) : State :=
  let s0 := (List.range 4096).foldl (fun st i => st.meet (mailKey c i)) (s.landBoth c)
  let x := s0.savedOf l.r.lid c
  let s1 := s0.writeSlot l c
  ({ s1 with saved := s1.saved ++ [x] }).freeCore c
/-- `PREEMPT_SAVE`: once every core has come to rest, each is saved to its slot and freed (R97, R100). -/
def execPreemptSave (lid : W32) (s : State) : Out :=
  .next <| match s.launchOf lid with
  | none => s
  | some l =>
    if l.st ≠ .halting then s
    else
      let held := s.heldBy l
      let s0 := held.foldl (fun st c => (st.trapAsync c .low).trapAsync c .high) s
      if held.all s0.coreRests && !s0.releaseOut lid then
        let s1 := s0.unreserve lid
        let s2 := held.foldl (fun st c => st.saveCore l c) s1
        let s3 := { s2 with foldOps := s2.foldOps.filter fun o => !(o.cores.any fun c => held.contains c) }
        ((s3.modLaunch lid fun x => { x with st := .preempted }).pokeStarts).pokeSweeps
      else s0.later 1 0 (.preemptSave lid)

end Sys2Proof.Machine
end

