-- ==== Sys2Proof/Machine/Placement.lean ====
section
/-!
DEFINITION. The launch descriptor, placement, and the start of a launch (05_distribution R84 to R92, R96, R103,
03_host_interface R58, R64).
-/
namespace Sys2Proof.Machine

/-! ### The descriptor (R84 to R87, R90) -/

/-- A byte of a word. -/
def byteAt (w : Word) (i : Nat) : Nat := field w (8 * i + 7) (8 * i)
/-- An actor table entry, or none where R85 forbids it. -/
def actorOf4 (coden : Nat) (w : List Word) : Option Actor :=
  let x := w.getD 0 0
  let bytes (j : Nat) : List Nat := (List.range 8).map fun i => byteAt (w.getD j 0) i
  let nin := field x 19 16
  let nout := field x 23 20
  let a : Actor :=
    { entry := x.setWidth 13, high := bitOf x 13, strict := bitOf x 14, keep := bitOf x 15, nin := nin, nout := nout,
      irate := bytes 1, orate := bytes 2, depth := bytes 3 }
  let perIn (l : List Nat) : Bool := (List.range 8).all fun i => decide (l.getD i 0 = 0) == decide (nin ≤ i)
  if field x 63 24 = 0 ∧ nin ≤ 8 ∧ nout ≤ 8 ∧ field x 12 0 < coden ∧ perIn a.irate = true ∧ perIn a.depth = true ∧
      ((List.range 8).all fun i => decide (i < nout) || a.orate.getD i 0 == 0) = true
  then some a else none
/-- An instance table entry, or none where R86 forbids it. -/
def instOf (nact : Nat) (w : Word) : Option InstDesc :=
  let pin := field w 28 27
  let unused := if pin = 0 then field w 26 14 else if pin = 1 then field w 26 17 else if pin = 2 then field w 26 19 else 0
  if field w 5 0 < nact ∧ field w 63 29 = 0 ∧ unused = 0 then
    some { act := field w 5 0, group := field w 13 6, t := field w 16 14, k := field w 18 17, x := field w 22 19,
           y := field w 26 23, pin := pin }
  else none
/-- An initial message: instance, port, words; none where R90 forbids it. -/
def initOf (l : Launch) (w : List Word) : Option (Nat × Nat × List Word) :=
  let h := w.getD 0 0
  let i := field h 19 0
  let p := field h 22 20
  match (l.insts[i]?).bind fun x => l.actors[x.act]? with
  | some a => if field h 63 26 = 0 ∧ p < a.nin then some (i, p, (w.drop 1).take (field h 25 23 + 1)) else none
  | none => none
/-- Whether the initial messages fit their FIFOs (R90). -/
def initsFit (l : Launch) (ms : List (Nat × Nat × List Word)) : Bool :=
  ms.all fun m =>
    let used := ((ms.filter fun x => x.1 == m.1 && x.2.1 == m.2.1).map fun x => x.2.2.length).sum
    match (l.insts[m.1]?).bind fun x => l.actors[x.act]? with
    | some a => decide (used ≤ 8 * a.depth.getD m.2.1 0)
    | none => false
/-- The initial messages of a graph launch, read again where they are primed again. -/
def State.initMsgs (s : State) (l : Launch) : Got (List (Nat × Nat × List Word)) × State :=
  let n := l.r.w4.toNat % 65536
  if l.r.sweep || n == 0 then (.got [], s)
  else
    match s.distWords l 1 l.r.w3.toNat (9 * n) with
    | (.got ws, s1) =>
      (match allSome ((List.range n).map fun i => initOf l ((ws.drop (9 * i)).take 9)) with | some ms => .got ms | none => .fail, s1)
    | (.fail, s1) => (.fail, s1)
    | (.wait, s1) => (.wait, s1)
/-- Whether a launch opens a core's tower and layer (R58). -/
def Launch.opens (l : Launch) (c : Nat) : Bool := bitOf l.r.w5 (32 + c / 1024) && bitOf l.r.w5 (40 + c / 256 % 4)
/-- The cores of the towers and layers that a launch opens (R58). -/
def openCores (l : Launch) : List Nat := (List.range 8192).filter l.opens
/-- Whether every open core's slot may be written (R87). -/
def State.saveOk (s : State) (l : Launch) : Bool :=
  (openCores l).all fun c => (List.range 8).all (fun j => (s.distSpot l 2 (slotVa l c + 0x10000 * j)).isSome) &&
    (s.distSpot l 2 (slotVa l c + 0x7FFF8)).isSome
/-- The launch with the contents of its descriptor and tables; `fail` where R87 or R90 finds it invalid. -/
def State.readDesc (s : State) (l : Launch) : Got Launch × State :=
  match s.distWords l 1 l.r.desc 8 with
  | (.fail, s1) => (.fail, s1)
  | (.wait, s1) => (.wait, s1)
  | (.got w, s1) =>
    let w0 := w.getD 0 0
    let w2 := w.getD 2 0
    let at_ (i : Nat) : Nat := (w.getD i 0).toNat
    let ninst := field w0 19 0
    let nact := field w0 26 20
    let faulti := field w0 51 32
    let swact := field w0 57 52
    let coden := field w2 13 0
    let ok := l.r.desc % 64 == 0 && field w0 31 27 == 0 && field w0 63 58 == 0 && field w2 63 14 == 0 && at_ 6 == 0 && at_ 7 == 0 &&
      decide (1 ≤ nact) && decide (nact ≤ 64) && (l.r.sweep || decide (1 ≤ ninst)) && decide (1 ≤ coden) && decide (coden ≤ 8192) &&
      (faulti == 0xFFFFF || decide (faulti < ninst)) && (if l.r.sweep then decide (swact < nact) else swact == 0) &&
      at_ 1 % 8 == 0 && at_ 3 % 8 == 0 && at_ 4 % 8 == 0 && at_ 5 % 8 == 0 &&
      (l.r.sweep || l.r.w4.toNat % 65536 == 0 || l.r.w3.toNat % 8 == 0)
    if !ok then (.fail, s1)
    else
      let ra := s1.distWords l 1 (at_ 3) (4 * nact)
      let ri := ra.2.distWords l 1 (at_ 4) ninst
      let rc := ri.2.distWords l 5 (at_ 1) coden
      match ra.1, ri.1, rc.1 with
      | .got aw, .got iw, .got _ =>
        match allSome ((List.range nact).map fun j => actorOf4 coden ((aw.drop (4 * j)).take 4)), allSome (iw.map (instOf nact)) with
        | some actors, some insts =>
          let l1 := { l with actors := actors, insts := insts, faulti := faulti, swact := swact, coden := coden, code := at_ 1, map := at_ 5 }
          let swOk := !l.r.sweep || ((actors[swact]?).map fun a => a.nin == 0 && !a.high).getD false
          let mapOk := (List.range ninst).all fun i => (rc.2.distSpot l 2 (at_ 5 + 8 * i)).isSome
          match rc.2.initMsgs l1 with
          | (.got ms, s2) => (if swOk && mapOk && initsFit l1 ms && s2.saveOk l1 then .got l1 else .fail, s2)
          | (.fail, s2) => (.fail, s2)
          | (.wait, s2) => (.wait, s2)
        | _, _ => (.fail, rc.2)
      | .fail, _, _ | _, .fail, _ | _, _, .fail => (.fail, rc.2)
      | _, _, _ => (.wait, rc.2)

/-! ### Placing instances (R88) -/

/-- What placement has done so far: instances and FIFO words per core, the quad of each group by one of its cores, the core of
the last free instance, and the places, latest first. -/
structure Placer where
  load : List (Nat × Nat × Nat)
  groups : List (Nat × Nat)
  last : Option Nat
  out : List (Nat × Nat × Nat)
deriving DecidableEq, Repr

/-- Words of the FIFOs of an actor. -/
def Actor.fifoWords (a : Actor) : Nat := 8 * ((a.depth.take a.nin).sum)
/-- Whether a core lies within the pin of an instance (R86). -/
def InstDesc.admits (i : InstDesc) (c : Nat) : Bool :=
  (i.pin == 0 || c / 1024 == i.t) && (decide (i.pin < 2) || c / 256 % 4 == i.k) &&
  (decide (i.pin < 3) || (c % 16 == i.x && c / 16 % 16 == i.y))
/-- The load of a core. -/
def Placer.loadOf (x : Placer) (c : Nat) : Nat × Nat := ((x.load.find? fun y => y.1 == c).map Prod.snd).getD (0, 0)
/-- Whether a core has room for more FIFO words (R88). -/
def Placer.room (x : Placer) (c words : Nat) : Bool :=
  let y := x.loadOf c
  decide (y.1 < 64) && decide (y.2 + words ≤ 4096)
/-- The cores to look at for an instance, in order (R88). -/
def Placer.cands (x : Placer) (open_ : List Nat) (i : InstDesc) : List Nat :=
  match x.groups.find? fun g => decide (i.group ≠ 0) && g.1 == i.group with
  | some g => (open_.filter fun c => coreQuad c == coreQuad g.2).filter i.admits
  | none =>
    if i.pin ≠ 0 then open_.filter i.admits
    else match x.last with
      | none => open_
      | some c => (open_.filter fun d => decide (c < d)) ++ open_.filter fun d => decide (d ≤ c)
/-- Place one instance, `g` in the table, of an actor with some FIFO words. -/
def Placer.put (x : Placer) (open_ : List Nat) (g : Nat) (i : InstDesc) (words : Nat) : Option Placer :=
  match (x.cands open_ i).find? fun c => x.room c words with
  | none => none
  | some c =>
    let later := x.groups.any fun y => decide (i.group ≠ 0) && y.1 == i.group
    let y := x.loadOf c
    some { load := (c, y.1 + 1, y.2 + words) :: x.load.filter fun z => z.1 != c,
           groups := if i.group ≠ 0 ∧ later = false then (i.group, c) :: x.groups else x.groups,
           last := if i.pin = 0 ∧ later = false then some c else x.last,
           out := (g, c, y.1) :: x.out }
/-- Place instances in table order on the cores of a list, which rises (R88). -/
def Placer.all (l : Launch) (open_ : List Nat) (x : Placer) : List (InstDesc × Nat) → Option Placer
  | [] => some x
  | (i, g) :: r =>
    match x.put open_ g i (((l.actors[i.act]?).map Actor.fifoWords).getD 0) with
    | none => none
    | some y => y.all l open_ r
/-- The places of a launch's instances on the cores of a list: table index, core, number; none where it cannot be placed. -/
def placeAll (l : Launch) (open_ : List Nat) : Option (List (Nat × Nat × Nat)) :=
  (Placer.all l open_ { load := [], groups := [], last := none, out := [] } l.insts.zipIdx).map fun x => x.out.reverse
/-- The open unfenced cores. -/
def State.openUnfenced (s : State) (l : Launch) : List Nat := (openCores l).filter fun c => !s.coreFenced c
/-- Whether a core is free. -/
def State.coreFree (s : State) (c : Nat) : Bool := (s.core c).launch.isNone

/-! ### Giving a core to a launch (R89, R103) -/

/-- Clear a core's stores, and its array, for a launch: R103; the registers take the launch's values (R89). The core issues
nothing until its start message arrives. -/
def State.clearCore (s : State) (c : Nat) (l : Launch) : State :=
  let mine (a : Nat) : Bool :=
    (bundleKey c 0 ≤ a && decide (a < bundleKey c 0 + 0x10000)) || (mailKey c 0 ≤ a && decide (a < mailKey c 0 + 0x8000)) ||
    (arrayBase + c * 0x80000 ≤ a && decide (a < arrayBase + c * 0x80000 + 0x48000))
  let r := l.r
  ({ s with mem := s.mem.filter fun x => !mine x.1, empties := s.empties.filter fun a => !mine a,
            poison := s.poison.filter (fun a => !mine a), wpoison := s.wpoison.filter (fun a => !mine a), flaws := s.flaws.filter fun x => !mine x.1 }).modCore c fun k =>
    { Core.reset with
      launch := some (r.lid, l.space), halt := true, wdlim := r.wdlim, fsamp := r.fsamp, drbud := r.rbud, dfpctl := r.rm,
      dbarb := r.barb, tlb := k.tlb, idleAt := k.idleAt, asleep := k.asleep }
/-- The input ports of an actor, from a mailbox word on (R105). -/
def portsFrom (a : Actor) (base : Nat) : List Port :=
  (List.range a.nin).map fun i =>
    { base := base + 8 * (a.depth.take i).sum, size := 8 * a.depth.getD i 0, head := 0, msgs := [], reserved := 0 }
/-- A new instance: table index, actor, ports. -/
def newInst (g act : Nat) (ports : List Port) : Inst :=
  { gidx := g, act := act, placed := true, disabled := false, inflight := false, trig := false, queued := false,
    started := false, waitIn := false, ports := ports }
/-- First mailbox word behind the ports of a core's instances. -/
def portsEnd (l : List Inst) : Nat := (l.map fun i => (i.ports.map fun q => q.size).sum).sum
/-- One more instance on a core (R104, R105). -/
def Core.addInst (k : Core) (g act : Nat) (a : Actor) : Core :=
  { k with insts := k.insts ++ [newInst g act (portsFrom a (portsEnd k.insts))] }
/-- A code image as read: a poisoned bundle is none. -/
abbrev Image := List (Option (Word × Bool))
/-- A bundle goes into an instruction store through the checker; poisoned data enter it with bad parity (R26, R89). -/
def State.putBundle (s : State) (c i : Nat) (w : Option (Word × Bool)) : State :=
  match w with
  | some x => s.codeStore c i x.1
  | none => s.modCore c fun k => { k with badCode := i :: k.badCode.filter fun j => j != i }
/-- The code image goes into a core's instruction store (R89). -/
def State.loadCode (s : State) (c : Nat) (img : Image) : State := img.zipIdx.foldl (fun st w => st.putBundle c w.2 w.1) s
/-- A core is given to a launch: cleared, its code loaded, its FIFOs set up (R89, R103); the start message follows. A sweep's grains run
in one more instance, of the swept actor, that takes the next instance number of the core; a core that holds 64 instances of the table has
no number left for it and runs no grain. The manual gives grain firings no instance number (log entry 128). -/
def State.giveCore (s : State) (l : Launch) (c : Nat) (img : Image) : State :=
  let s1 := (s.clearCore c l).loadCode c img
  let mine := l.placed.filter fun x => x.2.1 == c
  let s2 := mine.foldl (fun st x =>
    match (l.insts[x.1]?).bind fun i => (l.actors[i.act]?).map fun a => (i.act, a) with
    | some (act, a) => st.modCore c fun k => k.addInst x.1 act a
    | none => st) s1
  if l.r.sweep then
    match l.actors[l.swact]? with
    | some a => if (s2.core c).insts.length < 64 then s2.modCore c fun k => k.addInst l.insts.length l.swact a else s2
    | none => s2
  else s2
/-- A map word (R89). -/
def State.mapWord (s : State) (c n : Nat) : Word :=
  BitVec.ofNat 64 (n + place (coreX c) 4 6 + place (coreY c) 4 10 + place (coreLayer c % 4) 2 14 + place (coreTower c) 3 16 +
    place s.pkgId.toNat 12 19 + 2 ^ 63)
/-- The map words of some instances are filled (R89). -/
def State.fillMap (s : State) (l : Launch) (ps : List (Nat × Nat × Nat)) : State :=
  ps.foldl (fun st x => st.distWrite l (l.map + 8 * x.1) (st.mapWord x.2.1 x.2.2) true) s
/-- The initial messages of some instances are primed, in list order (R90). -/
def State.primeMsgs (s : State) (ps : List (Nat × Nat × Nat)) (ms : List (Nat × Nat × List Word)) : State :=
  ms.foldl (fun st m => match ps.find? fun x => x.1 == m.1 with
    | some x => st.appendMsg x.2.1 x.2.2 m.2.1 m.2.2
    | none => st) s
/-- The start message of a core leaves (R89). -/
def State.sendStart (s : State) (c : Nat) : State := (s.delayed).enqueue (s.tick + s.delay 100) c .low 0 .startMessageArrive
/-- What the distributors load at a start: the code image and the initial messages. -/
abbrev Loads := Image × List (Nat × Nat × List Word)
/-- The code image and the initial messages of a launch as its start finds them, nothing of what cannot be had any more; none where
a stack or another package has still to answer (R22, R41). -/
def State.readLoads (s : State) (l : Launch) : Option Loads × State :=
  let r := s.distReads l 5 l.code l.coden
  let m := r.2.initMsgs l
  match r.1, m.1 with
  | .wait, _ | _, .wait => (none, m.2)
  | .got img, .got ms => (some (img, ms), m.2.dropGroup (distKey l.r.lid))
  | .got img, .fail => (some (img, []), m.2.dropGroup (distKey l.r.lid))
  | .fail, .got ms => (some ([], ms), m.2.dropGroup (distKey l.r.lid))
  | .fail, .fail => (some ([], []), m.2.dropGroup (distKey l.r.lid))
/-- Cores are given to a launch: those in `cs`; `ps` are the instances placed with them (R89). -/
def State.giveCores (s : State) (l : Launch) (cs : List Nat) (ps : List (Nat × Nat × Nat)) (x : Loads) : State :=
  let s1 := cs.foldl (fun st c => st.giveCore l c x.1) s
  cs.foldl State.sendStart ((s1.fillMap l ps).primeMsgs ps x.2)

/-! ### The order of starts, and pre-emption (R96) -/

/-- Whether one waiting launch is served before another: priority, then pre-empted ones, then release (R96, R98). -/
def Launch.before (a b : Launch) : Bool :=
  decide (b.r.prio < a.r.prio) ||
  (a.r.prio == b.r.prio &&
    ((a.st == .preempted && b.st != .preempted) ||
     ((a.st == .preempted) == (b.st == .preempted) && decide (a.order < b.order))))
/-- The launches that wait for cores. -/
def State.waiting (s : State) : List Launch := s.launches.filter fun l => l.st == .released || l.st == .preempted
/-- Whether a launch is the first of those that wait for cores (R96). -/
def State.isFirst (s : State) (l : Launch) : Bool := s.waiting.all fun x => x.r.lid == l.r.lid || l.before x
/-- Whether a core that is free, or frees, goes to a running sweep: every launch that waits has a lower priority than the sweep
(R96). -/
def State.sweepGets (s : State) (c : Nat) : Bool :=
  s.launches.any fun x => x.r.sweep && x.st == .running && x.opens c && s.waiting.all fun w => decide (w.r.prio < x.r.prio)
/-- The open unfenced cores that a launch which waits may have (R96). -/
def State.openFor (s : State) (l : Launch) : List Nat := (s.openUnfenced l).filter fun c => !s.sweepGets c
/-- The launches that may be pre-empted for another: running ones of lower priority that hold an open core of it, in ascending
priority, the latest released first (R96). -/
def State.victims (s : State) (l : Launch) : List Launch :=
  let op := s.openUnfenced l
  let vs := s.launches.filter fun x => x.st == .running && decide (x.r.prio < l.r.prio) && x.cores.any fun c => op.contains c
  sortBy (fun a b => decide (a.r.prio < b.r.prio) || (a.r.prio == b.r.prio && decide (b.order ≤ a.order))) vs
/-- Cores that launches being pre-empted or cancelled will free. -/
def State.freeing (s : State) : List Nat :=
  ((s.launches.filter fun x => x.st == .halting || x.st == .cancelling).map fun x => x.cores).flatten
/-- The shortest beginning of a list of victims with whose cores a test holds; all of them where none does and `rest` asks so. -/
def takeVictims (test : List Nat → Bool) (rest : Bool) : List Launch → List Launch → Option (List Launch)
  | got, [] => if test (got.map fun x => x.cores).flatten || rest then some got.reverse else none
  | got, v :: r => if test (got.map fun x => x.cores).flatten then some got.reverse else takeVictims test rest (v :: got) r
/-- A launch runs on the cores that `ps` and `cs` name, once its loads are there (R88, R89, R92). -/
def State.startOn (s : State) (l : Launch) (ps : List (Nat × Nat × Nat)) (cs : List Nat) : State :=
  match s.readLoads l with
  | (none, s1) => s1.againOnce (.launchStart l.r.lid)
  | (some x, s1) =>
    let l1 := { l with st := .running, placed := ps, cores := cs }
    ((((s1.modLaunch l.r.lid fun _ => l1).giveCores l1 cs ps x).poke l.r.lid).pokeStarts).pokeSweeps
/-- A graph launch starts when all its instances can be placed; else it pre-empts the launches it needs (R96). -/
def State.startGraph (s : State) (l : Launch) : State :=
  let op := s.openFor l
  let free := op.filter s.coreFree
  match placeAll l free with
  | some ps => s.startOn l ps (free.filter fun c => ps.any fun x => x.2.1 == c)
  | none =>
    let test (more : List Nat) : Bool := (placeAll l (op.filter fun c => s.coreFree c || s.freeing.contains c || more.contains c)).isSome
    match takeVictims test false [] (s.victims l) with
    | some vs => vs.foldl State.preempt s
    | none => s
/-- A pre-empted launch that is the first to wait pre-empts the launches of lower priority that hold cores of it, where that
frees all of them (R96, R98; log entry 102). -/
def State.retake (s : State) (l : Launch) (cs : List Nat) : State :=
  let vs := (s.victims l).filter fun v => v.cores.any fun c => cs.contains c
  if cs.all fun c => !s.sweepGets c && (s.coreFree c || s.freeing.contains c || vs.any fun v => v.cores.contains c) then vs.foldl State.preempt s else s
/-- A sweep starts on the cores that are free, once its instance table can be placed, and pre-empts for as many as it needs
and for the cores that its instance table needs (R92, R96). -/
def State.startSweep (s : State) (l : Launch) : State :=
  let op := s.openFor l
  let free := op.filter s.coreFree
  let need := min (grainCount l) op.length
  let avail (more : List Nat) : List Nat := op.filter fun c => s.coreFree c || s.freeing.contains c || more.contains c
  let fits (more : List Nat) : Bool := (placeAll l (avail more)).isSome
  let test (more : List Nat) : Bool := decide (need ≤ (avail more).length) && fits more
  let all := s.victims l
  let s1 := match takeVictims test (fits (all.map fun x => x.cores).flatten) [] all with
    | some vs => vs.foldl State.preempt s
    | none => s
  match placeAll l free with
  | some ps => if free.isEmpty then s1 else s1.startOn l ps free
  | none => s1
/-- A running sweep adds the cores that are free, while no waiting launch has its priority or a higher one (R96). -/
def State.growSweep (s : State) (l : Launch) : State :=
  let more := (s.openUnfenced l).filter s.coreFree
  if more.isEmpty || s.waiting.any fun x => decide (l.r.prio ≤ x.r.prio) then s
  else
    match s.readLoads l with
    | (none, s1) => s1.againOnce (.launchStart l.r.lid)
    | (some x, s1) =>
      let l1 := { l with cores := sortBy (fun a b => decide (a ≤ b)) (l.cores ++ more) }
      (s1.modLaunch l.r.lid fun _ => l1).giveCores l1 more [] x
/-- A launch whose predecessors are satisfied is released: its descriptor is read and checked (R64, R87). -/
def State.release (s : State) (l : Launch) : State :=
  match s.readDesc l with
  | (.wait, s1) => s1.againOnce (.launchStart l.r.lid)
  | (.fail, s1) => (s1.dropGroup (distKey l.r.lid)).endUnrun l 2
  | (.got l1, s2) =>
    let s1 := s2.dropGroup (distKey l.r.lid)
    if (placeAll l1 (s1.openUnfenced l1)).isNone then s1.endUnrun l 2
    else ((s1.modLaunch l.r.lid fun _ => { l1 with st := .released, order := s1.nextId, startT := s1.timebase }).bumpId).later 0 0
      (.launchStart l.r.lid)
/-- The predecessors of a dependent that their triggers have not satisfied yet (R64). -/
def State.openPreds (s : State) (l : Launch) : List (BitVec 32 × Nat × Bool) :=
  l.r.preds.filter fun p => match s.launchOf p.1 with
    | some x => !triggered x.trig p
    | none => true
/-- Where a launch's instances stand, as placement sees it: loads of its cores, and the quads of its groups (R88). -/
def State.placerOf (s : State) (l : Launch) : Placer :=
  { load := l.cores.map fun c => (c, (s.core c).insts.length, portsEnd (s.core c).insts),
    groups := (l.placed.filterMap fun x => (l.insts[x.1]?).bind fun i => if i.group = 0 then none else some (i.group, x.2.1)),
    last := none, out := [] }
/-- Lost instances are placed again one by one, in table order; those that cannot be are left out (R88, R95). -/
def replaceAll (l : Launch) (open_ : List Nat) (x : Placer) : List Nat → Placer
  | [] => x
  | g :: r =>
    match l.insts[g]? with
    | none => replaceAll l open_ x r
    | some i => replaceAll l open_ ((x.put open_ g i (((l.actors[i.act]?).map Actor.fifoWords).getD 0)).getD x) r
/-- A lost instance is set up at its new place: on a core that the launch holds, or on one that it is given. -/
def State.setAgain (s : State) (l : Launch) (ps : List (Nat × Nat × Nat)) (x : Loads) : State :=
  let cs := (ps.map fun x => x.2.1).eraseDups
  let new := cs.filter s.coreFree
  let s1 := new.foldl (fun st c => st.giveCore l c x.1) s
  let s2 := (ps.filter fun x => !new.contains x.2.1).foldl (fun st x =>
    match (l.insts[x.1]?).bind fun i => (l.actors[i.act]?).map fun a => (i.act, a) with
    | some (act, a) => st.modCore x.2.1 fun k => k.addInst x.1 act a
    | none => st) s1
  cs.foldl State.sendStart ((s2.fillMap l ps).primeMsgs ps x.2)
/-- The lost instances of a reissue-safe graph launch take new places, with their FIFOs empty and their messages primed again
(R95). -/
def State.replaceInsts (s : State) (l : Launch) : State :=
  match s.readLoads l with
  | (none, s1) => s1.againOnce (.launchStart l.r.lid)
  | (some x, s1) =>
    let op := (s1.openUnfenced l).filter fun c => s1.coreFree c || l.cores.contains c
    let ps := (replaceAll l op (s1.placerOf l) (sortBy (fun a b => decide (a ≤ b)) (l.lost.map Prod.fst))).out.reverse
    let cores := sortBy (fun a b => decide (a ≤ b)) (l.cores ++ (ps.map fun x => x.2.1).eraseDups.filter fun c => !l.cores.contains c)
    let l1 := { l with placed := l.placed ++ ps, cores := cores, lost := [], lossy := l.lossy || decide (ps.length < l.lost.length),
                       faultOff := l.faultOff && !(ps.any fun x => x.1 == l.faulti) }
    ((s1.modLaunch l.r.lid fun _ => l1).setAgain l1 ps x).poke l.r.lid
/-- `LAUNCH_START`: a dependent is released when its predecessors are satisfied; the first launch that waits starts when its
cores are free, or pre-empts; a running sweep takes free cores, and a running graph puts lost instances on new places (R64, R89,
R95, R96). -/
def execLaunchStart (lid : W32) (s : State) : Out :=
  .next <| match s.launchOf lid with
  | none => s
  | some l =>
    if s.masterVacant then s
    else
      match l.st with
      | .waiting =>
        if (s.openPreds l).isEmpty then
          let l1 := { l with r := { l.r with preds := [] } }
          (s.modLaunch lid fun _ => l1).release l1
        else s
      | .released =>
        if !s.isFirst l then s
        else if (placeAll l (s.openUnfenced l)).isNone then s.endUnrun l 2
        else if l.r.sweep then s.startSweep l
        else s.startGraph l
      | .running => if l.r.sweep then s.growSweep l else if l.lost.isEmpty then s else s.replaceInsts l
      | _ => s

end Sys2Proof.Machine
end

