-- ==== Sys2Proof/Machine/Grains.lean ====
section
/-!
DEFINITION. Grains of a sweep: claims, reports and confirmation (05_distribution R91 to R93, 21_throttling R382).
-/
namespace Sys2Proof.Machine

/-- The grains that a holder has claimed and not issued. -/
def Launch.block (l : Launch) (h : GrainLevel) : List Nat := ((l.blocks.find? fun b => b.holder == h).map fun b => b.grains).getD []
/-- Put a holder's grains. -/
def Launch.setBlock (l : Launch) (h : GrainLevel) (g : List Nat) : Launch :=
  { l with blocks := { holder := h, grains := g } :: l.blocks.filter fun b => b.holder != h }
/-- Whether a layer is hot (R382). -/
def State.hot (s : State) (i : Nat) : Bool :=
  !s.active i || decide (2 ≤ (s.sensor (computeSensor i)).zone.toNat) || decide (2 ≤ (s.sensor (vaultSensor i)).zone.toNat)
/-- A layer's distributor asks its tower master for a block; the claims of one tick are served in layer order, those of hot
layers last (R382). -/
def State.askBlock (s : State) (lid : BitVec 32) (i : Nat) : State :=
  s.enqueue (s.tick + 1) (if s.hot i then 64 + i else i) .low 0 (.grainBlockClaim lid (.layer i))
/-- The cores of a launch on a layer that run no grain ask for one. -/
def State.askCores (s : State) (l : Launch) (i : Nat) : State :=
  (l.cores.filter fun c => coreLayer c == i && (s.core c).grain.isNone).foldl (fun st c => st.enqueue st.tick c .low 0 .grainClaim) s
/-- Number on its core of the instance of the swept actor that grains run in. -/
def Core.sweptInst (k : Core) (l : Launch) : Option Nat := (k.insts.zipIdx.find? fun x => x.1.gidx == l.insts.length).map Prod.snd

/-- Whether a core could take a grain of a sweep now, in an instance of the swept actor. -/
def State.grainless (s : State) (c n : Nat) : Bool :=
  !(s.core c).halt && (s.core c).grain.isNone && !((s.inst c n).any fun x => x.queued || x.inflight || x.disabled)
/-- Whether a layer's distributor claims a block: it holds fewer than 8 grains, or, where the layer is hot, none, while a core asks for one
(R382). -/
def State.mayClaim (s : State) (l : Launch) (i : Nat) : Bool :=
  let n := (l.block (.layer i)).length
  if s.hot i then n == 0 && l.cores.any fun c => coreLayer c == i && ((s.core c).sweptInst l).any (s.grainless c) else decide (n < 8)
/-- `GRAIN_CLAIM`: a core that runs no grain takes one from its layer distributor, which claims a new block when it holds
fewer than 8 (R92, R382); barriers go on without a core whose grain firing has left it (R324). -/
def execGrainClaim (s : State) : Out :=
  let c := s.here
  let k := s.core c
  .next <| match k.lid?.bind s.launchOf with
  | none => s
  | some l =>
    match k.sweptInst l with
    | none => s
    | some n =>
      let i := coreLayer c
      let h : GrainLevel := .layer i
      let s0 := s.checkPhases l.r.lid
      if l.st ≠ .running ∨ s.masterVacant = true ∨ s.grainless c n = false then s0
      else
        match l.block h with
        | [] => s0.askBlock l.r.lid i
        | g :: r =>
          let s1 := s0.modLaunch l.r.lid fun x => { (x.setBlock h r) with issued := x.issued ++ [(g, c)] }
          let s2 := (s1.modCore c fun k => { k with grain := some g }).pushInst c n
          if r.length < 8 ∧ s.hot i = false then s2.askBlock l.r.lid i else s2
/-- A layer takes up to 8 grains of its tower master's block, or the tower master claims first (R92, R382). -/
def State.claimLayer (s : State) (l : Launch) (i : Nat) : State :=
  let mine := l.block (.layer i)
  let t : GrainLevel := .tower (i / 4)
  if (s.layer i).fenced || !s.mayClaim l i then s
  else
    match l.block t with
    | [] => s.later 1 0 (.grainBlockClaim l.r.lid t)
    | gs =>
      let l1 := (l.setBlock (.layer i) (mine ++ gs.take 8)).setBlock t (gs.drop 8)
      (s.modLaunch l.r.lid fun _ => l1).askCores l1 i
/-- A tower master takes up to 64 grains, reissued ones first, and serves the layers that asked (R92, R95). -/
def State.claimTower (s : State) (l : Launch) (t : Nat) : State :=
  if !(l.block (.tower t)).isEmpty then s
  else
    let back := l.pool.take 64
    let n := min (64 - back.length) (grainCount l - l.nextGrain)
    let gs := back ++ (List.range n).map fun j => l.nextGrain + j
    if gs.isEmpty then s
    else
      let l1 := { (l.setBlock (.tower t) gs) with pool := l.pool.drop 64, nextGrain := l.nextGrain + n }
      ((List.range 4).filter fun k => s.mayClaim l (4 * t + k) && l.cores.any fun c => coreLayer c == 4 * t + k).foldl (fun st k => st.askBlock l.r.lid (4 * t + k)) (s.modLaunch l.r.lid fun _ => l1)
/-- `GRAIN_BLOCK_CLAIM` (R92). -/
def execGrainBlockClaim (lid : W32) (level : GrainLevel) (s : State) : Out :=
  .next <| match s.launchOf lid with
  | none => s
  | some l =>
    if l.st ≠ .running ∨ s.masterVacant = true then s
    else match level with
      | .layer i => s.claimLayer l i
      | .tower t => s.claimTower l t

/-- The report that waits at a holder. -/
def Launch.report (l : Launch) (h : GrainLevel) : Option GReport := l.reports.find? fun r => r.holder == h
/-- `GRAIN_REPORT_BATCH`: reports that are enough or old enough move up: from a layer to its tower master, and from there to
the package master, where they are confirmed (R93). -/
def execGrainReportBatch (lid : W32) (level : GrainLevel) (s : State) : Out :=
  .next <| match s.launchOf lid with
  | none => s
  | some l =>
    match l.report level with
    | none => s
    | some r =>
      match level with
      | .layer i =>
        if r.grains.length < 8 ∧ s.tick < r.oldest + 2048 then s
        else
          let up : GrainLevel := .tower (i / 4)
          let old := (l.report up).getD { holder := up, grains := [], firings := 0, oldest := s.tick }
          let new := { old with grains := old.grains ++ r.grains, firings := old.firings + r.firings }
          let s1 := s.modLaunch lid fun x =>
            { x with reports := new :: x.reports.filter fun y => y.holder != up && y.holder != level }
          if 64 ≤ new.grains.length then s1.later 0 0 (.grainReportBatch lid up)
          else if old.grains.isEmpty then s1.later 4096 0 (.grainReportBatch lid up) else s1
      | .tower _ =>
        if r.grains.length < 64 ∧ s.tick < r.oldest + 4096 then s
        else
          (s.modLaunch lid fun x =>
            { x with reports := x.reports.filter (fun y => y.holder != level),
                     issued := x.issued.filter (fun y => !r.grains.contains y.1),
                     confirmed := x.confirmed ++ (r.grains.filter fun g => !x.confirmed.contains g).eraseDups,
                     firings := x.firings + r.firings }).poke lid

end Sys2Proof.Machine
end

