-- ==== Sys2Proof/Machine/Fences.lean ====
section
/-!
DEFINITION. Fences of layers and towers, and elections (05_distribution R81, R82, R83, R95, 20_fold R353, R361).
-/
namespace Sys2Proof.Machine

/-! ### What a launch loses (R95) -/

/-- The grains that a fenced layer loses: those not confirmed at its tower master, or, where the tower is fenced whole, at the
package master (R95). -/
def Launch.lostGrains (l : Launch) (i : Nat) (whole : Bool) : List Nat :=
  let t : GrainLevel := .tower (i / 4)
  let sent := ((l.report t).map fun r => r.grains).getD []
  let onLayer := (l.issued.filter fun x => coreLayer x.2 == i || (whole && coreLayer x.2 / 4 == i / 4)).map Prod.fst
  l.block (.layer i) ++ (if whole then l.block t else []) ++
    onLayer.filter fun g => !l.confirmed.contains g && (whole || !sent.contains g)
/-- A sweep's grains go back to the pool, ahead of any never issued, or are dropped (R95). -/
def Launch.loseGrains (l : Launch) (i : Nat) (whole : Bool) : Launch :=
  let lost := l.lostGrains i whole
  let drop (h : GrainLevel) : Bool := h == .layer i || (whole && h == .tower (i / 4))
  let l1 := { l with blocks := l.blocks.filter fun b => !drop b.holder, reports := l.reports.filter fun r => !drop r.holder,
                     issued := l.issued.filter fun x => !lost.contains x.1 }
  if lost.isEmpty then l1
  else if l.r.rsafe then
    { l1 with pool := sortBy (fun a b => decide (a ≤ b)) (l.pool ++ lost), reissued := l.reissued + lost.length }
  else { l1 with confirmed := l1.confirmed ++ lost, lossy := true }
/-- A launch loses its share of a fenced layer: lost instances of a reissue-safe graph have their map words set empty, and are placed
again (R95). -/
def State.loseShare (s : State) (l : Launch) (i : Nat) (whole : Bool) : State :=
  let lost := l.placed.filter fun x => coreLayer x.2.1 == i
  let l1 := { l with cores := l.cores.filter fun c => coreLayer c != i, placed := l.placed.filter fun x => coreLayer x.2.1 != i }
  if l.r.sweep then
    let l2 := l1.loseGrains i whole
    (List.range 32).foldl (fun st j => st.askCores l2 j) (s.modLaunch l.r.lid fun _ => l2)
  else if l.r.rsafe && l.st != .cancelling && !lost.isEmpty then
    let s1 := s.modLaunch l.r.lid fun _ => { l1 with lost := l1.lost ++ lost }
    (lost.foldl (fun st x => st.distEmpty l (l.map + 8 * x.1)) s1).later 0 0 (.launchStart l.r.lid)
  else s.modLaunch l.r.lid fun _ => { l1 with lossy := l.lossy || !l.r.rsafe && !lost.isEmpty }

/-! ### The fence (R81, R82, R95) -/

/-- The distributor of a tower's lowest unfenced layer is its master (R81). -/
def State.isMaster (s : State) (i : Nat) : Bool :=
  ((List.range 4).find? fun k => !(s.layer (4 * (i / 4) + k)).fenced) == some (i % 4)
/-- The firings that a fence of a layer loses: those in its cores' banks, and those parked with an origin core there or come to one,
whose records say what they run (R95). -/
def State.lostOn (s : State) (i : Nat) : List Bank :=
  let cs := (layerCores i).filter fun c => (s.core c).launch.isSome
  ((cs.map fun c => [(s.core c).low, (s.core c).high]).flatten.filter fun b => b.run != .none) ++
    ((s.park.filter fun e => coreLayer e.origin == i && !e.fcr.isEmpty && e.kind != .port).map fun e =>
      { (bankOfFcr e.fcr) with lid := e.lid, home := e.home, inst := e.inst }) ++
    (s.transit.filter fun t => t.arrived && coreLayer t.core == i).map fun t =>
      { (bankOfFcr t.fcr) with lid := t.lid, home := t.home, inst := t.inst }
/-- The records of trapped firings in the FIFO of port 0 of an instance (R123). -/
def State.fcrsIn (s : State) (c : Nat) (i : Inst) : List (List Word) :=
  match i.port 0 with
  | none => []
  | some q => (List.range q.msgs.length).filterMap fun m =>
      if q.msgs.getD m 0 = 64 then
        some ((List.range 64).map fun w => s.rdWord (mailKey c (q.at (q.head + (q.msgs.take m).sum + w)))) else none
/-- The records of trapped firings in the hold buffers of some cores and in the FIFOs of their instances. -/
def State.recordsAt (s : State) (cs : List Nat) : List (BitVec 32 × List Word) :=
  (cs.map fun c =>
    let k := s.core c
    ((k.holdLow ++ k.holdHigh).map fun h => (h.lid, h.fcr)) ++
      ((k.insts.map fun j => s.fcrsIn c j).flatten.map fun f => (k.lid?.getD 0, f))).flatten
/-- The records of trapped firings that a fence of a layer loses: in hold buffers, in FIFOs, and waiting for a port there. -/
def State.recordsOn (s : State) (i : Nat) : List (BitVec 32 × List Word) :=
  s.recordsAt (layerCores i) ++ ((s.park.filter fun e => coreLayer e.origin == i && e.kind == .port).map fun e => (e.lid, e.fcr))
/-- The record of a trapped firing is lost: a grain that nobody has resumed goes back to the pool, or is dropped (R95). -/
def State.loseRecord (s : State) (h : BitVec 32 × List Word) : State :=
  let w0 := (fcrWord h.2 0).toNat
  s.modLaunch h.1 fun l => match (bankOfFcr h.2).grainOf l with
    | some g => if l.resumed.contains (w0 / 2 ^ 46 % 8192, w0 / 2 ^ 38 % 64, fcrWord h.2 9) then l else l.loseGrain g
    | none => l
/-- Every firing of a layer is lost, those parked elsewhere among them; its cores are held by no launch (R95). -/
def State.clearLayer (s : State) (i : Nat) : State :=
  let s1 := (s.park.filter fun e => coreLayer e.origin == i).foldl (fun st e => st.freePark e.id) s
  let s2 := { s1 with joins := s1.joins.filter (fun j => coreLayer j.core != i),
                      transit := s1.transit.filter fun t => !(t.arrived && coreLayer t.core == i) }
  let s3 := (layerCores i).foldl (fun st c => st.modCore c Core.freed) s2
  (s.lostOn i).foldl State.loseFiring ((s.recordsOn i).foldl State.loseRecord s3)
/-- The operations of which a fenced core is a member: those that have not taken every place are withdrawn, and joined again without
it; the others start without its place and end with ABORT (R353, R361). -/
def State.fenceFolds (s : State) (i : Nat) : State :=
  let mem (o : FoldOp) : Bool := o.fold / 256 == i / 4 && o.members.getLsbD (i % 4)
  let s1 := (s.foldOps.filter fun o => mem o && o.placed != o.members).foldl State.withdrawFold s
  let f (o : FoldOp) : FoldOp := if mem o then { o with placed := o.placed ||| layerBit (i % 4) } else o
  let s2 := { s1 with foldOps := s1.foldOps.map f }
  let s3 := (s2.foldOps.filter mem).foldl (fun st o => o.cores.foldl State.kick st) s2
  let all := ((layerCores i).map fun c => (List.range 4).map (foldCore (foldOf c))).flatten
  (all.filter fun c => (s3.joinOf c).isSome).foldl State.checkJoin s3
/-- THE FENCE of a compute layer (R95): RUN_FENCE shows it; its firings are lost; launches lose their share; barriers and folds
go on without it; an election replaces a master that stood there (R82). -/
def State.fenceLayer (s : State) (i : Nat) : State :=
  if decide (32 ≤ i) || (s.layer i).fenced then s
  else
    let master := s.isMaster i
    let s1 := s.modLayer i fun x => { x with fenced := true }
    let whole := (List.range 4).all fun k => (s1.layer (i / 4 * 4 + k)).fenced
    let s2 := if whole then { s1 with fencedTowers := s1.fencedTowers ||| BitVec.ofNat 8 (2 ^ (i / 4)) } else s1
    let hit := s.launches.filter fun l => l.st != .preempted && (l.cores.any (fun c => coreLayer c == i) || (l.r.sweep && whole))
    let s3 := (s2.fenceFolds i).clearLayer i
    let s4 := hit.foldl (fun st l => match st.launchOf l.r.lid with
      | some x => ((st.loseShare x i whole).checkPhases l.r.lid).poke l.r.lid
      | none => st) s3
    let s5 := if master then ({ s4 with masterVacant := true }.delayed).later (s4.delay 14000) 0 .masterElectionDone else s4
    (s5.pokeStarts).pokeSweeps
/-- `MASTER_ELECTION_DONE`: the new masters serve: queues, starts, and grains (R82). With every compute layer fenced nobody is elected
(R81). -/
def execMasterElectionDone (s : State) : Out :=
  .next <|
  if s.masterVacant && (List.range 32).any (fun i => !(s.layer i).fenced) then
    let s1 := { s with masterVacant := false }
    let s0 := ((s1.pokeQueues).pokeStarts).pokeSweeps
    let s2 := (s0.launches.filter fun l => !l.lost.isEmpty && l.st == .running).foldl (fun st l => st.later 0 0 (.launchStart l.r.lid)) s0
    (s2.launches.filter fun l => l.r.sweep && l.st == .running).foldl (fun st l =>
      (List.range 32).foldl (fun st j => st.askCores l j) st) s2
  else s

end Sys2Proof.Machine
end

