-- ==== Sys2Proof/Machine/Flow.lean ====
section
/-!
DEFINITION. Control flow: NOP, END, the branches, calls, LOOP and the moves of word C (17_control_flow R302 to R315,
13_instruction_formats R242, 06_firings R114).
-/
namespace Sys2Proof.Machine

/-- `NOP_C` (R242). -/
def execNopC (s : State) : Out := .next s.issue

/-- The lowest output port whose count of messages differs from its rate (R114). -/
def rateMiss (a : Actor) (b : Bank) : Option Nat :=
  (List.range 8).find? fun j => (vget b.ocnt j 0).toNat != a.orate.getD j 0

/-- `END`: a dropped store or SEND traps MEMERR (R39), a strict actor's wrong count traps RATE (R114); otherwise the bundle
issues, and after its A word and the waits of R200 and R251 the firing ends (R312). -/
def execEndFiring (s : State) : Out :=
  match s.me.dropped with
  | some a => .next (s.trapHere 0x14 0 a)
  | none =>
    match s.actorOf s.me.lid s.me.act with
    | some a =>
      match (if a.strict then rateMiss a s.me else none) with
      | some j => .next (s.trapHere 0x08 (BitVec.ofNat 48 j) 0)
      | none => .next (s.issue.modMe fun b => { b with leaving := some .ended })
    | none => .next (s.issue.modMe fun b => { b with leaving := some .ended })

/-- `BR`: always taken (R306). -/
def execBr (n : Bool) (t : BitVec 18) (s : State) : Out := s.branch true n (relTarget s.me.pc t)
/-- `BR` lone (R307). -/
def execBrLone (n : Bool) (t : Bundle13) (s : State) : Out := s.branch true n t
/-- `CALL`: links g31 (R310). -/
def execCall (n : Bool) (t : BitVec 18) (s : State) : Out :=
  (s.wrC 1 31 (linkOf s.me.pc)).branch true n (relTarget s.me.pc t)
/-- `CALL` lone (R310). -/
def execCallLone (n : Bool) (t : Bundle13) (s : State) : Out := (s.wrC 1 31 (linkOf s.me.pc)).branch true n t
/-- `JMP` (R306). -/
def execJmp (a : Reg) (s : State) : Out := s.branch true false (regTarget (s.rd a))
/-- `CALLR`: jumps to the old value of its register and links (R310). -/
def execCallr (a : Reg) (s : State) : Out := (s.wrC 1 31 (linkOf s.me.pc)).branch true false (regTarget (s.rd a))
/-- `BZ`: taken when ga is zero (R306). -/
def execBz (a : Reg) (n : Bool) (t : BitVec 18) (s : State) : Out := s.branch (s.rd a == 0) n (relTarget s.me.pc t)
/-- `BZ` lone (R307). -/
def execBzLone (a : Reg) (n : Bool) (t : Bundle13) (s : State) : Out := s.branch (s.rd a == 0) n t
/-- `BNZ`: taken when ga is not zero (R306). -/
def execBnz (a : Reg) (n : Bool) (t : BitVec 18) (s : State) : Out := s.branch (s.rd a != 0) n (relTarget s.me.pc t)
/-- `BNZ` lone (R307). -/
def execBnzLone (a : Reg) (n : Bool) (t : Bundle13) (s : State) : Out := s.branch (s.rd a != 0) n t
/-- `BLTZ`: taken when ga is negative (R306). -/
def execBltz (a : Reg) (n : Bool) (t : BitVec 18) (s : State) : Out := s.branch ((s.rd a).slt 0) n (relTarget s.me.pc t)
/-- `BLTZ` lone (R307). -/
def execBltzLone (a : Reg) (n : Bool) (t : Bundle13) (s : State) : Out := s.branch ((s.rd a).slt 0) n t
/-- `BGEZ`: taken when ga is not negative (R306). -/
def execBgez (a : Reg) (n : Bool) (t : BitVec 18) (s : State) : Out := s.branch (!(s.rd a).slt 0) n (relTarget s.me.pc t)
/-- `BGEZ` lone (R307). -/
def execBgezLone (a : Reg) (n : Bool) (t : Bundle13) (s : State) : Out := s.branch (!(s.rd a).slt 0) n t
/-- `BEQ` (R306). -/
def execBeq (a b : Reg) (n : Bool) (t : BitVec 13) (s : State) : Out :=
  s.branch (s.rd a == s.rd b) n (relTarget s.me.pc t)
/-- `BEQ` lone (R307). -/
def execBeqLone (a b : Reg) (n : Bool) (t : Bundle13) (s : State) : Out := s.branch (s.rd a == s.rd b) n t
/-- `BNE` (R306). -/
def execBne (a b : Reg) (n : Bool) (t : BitVec 13) (s : State) : Out :=
  s.branch (s.rd a != s.rd b) n (relTarget s.me.pc t)
/-- `BNE` lone (R307). -/
def execBneLone (a b : Reg) (n : Bool) (t : Bundle13) (s : State) : Out := s.branch (s.rd a != s.rd b) n t
/-- `BLT` (R306). -/
def execBlt (a b : Reg) (n : Bool) (t : BitVec 13) (s : State) : Out :=
  s.branch ((s.rd a).slt (s.rd b)) n (relTarget s.me.pc t)
/-- `BLT` lone (R307). -/
def execBltLone (a b : Reg) (n : Bool) (t : Bundle13) (s : State) : Out := s.branch ((s.rd a).slt (s.rd b)) n t
/-- `BGE` (R306). -/
def execBge (a b : Reg) (n : Bool) (t : BitVec 13) (s : State) : Out :=
  s.branch (!(s.rd a).slt (s.rd b)) n (relTarget s.me.pc t)
/-- `BGE` lone (R307). -/
def execBgeLone (a b : Reg) (n : Bool) (t : Bundle13) (s : State) : Out := s.branch (!(s.rd a).slt (s.rd b)) n t
/-- `BLTN` (R306). -/
def execBltn (a b : Reg) (n : Bool) (t : BitVec 13) (s : State) : Out :=
  s.branch ((s.rd a).ult (s.rd b)) n (relTarget s.me.pc t)
/-- `BLTN` lone (R307). -/
def execBltnLone (a b : Reg) (n : Bool) (t : Bundle13) (s : State) : Out := s.branch ((s.rd a).ult (s.rd b)) n t
/-- `BGEN` (R306). -/
def execBgen (a b : Reg) (n : Bool) (t : BitVec 13) (s : State) : Out :=
  s.branch (!(s.rd a).ult (s.rd b)) n (relTarget s.me.pc t)
/-- `BGEN` lone (R307). -/
def execBgenLone (a b : Reg) (n : Bool) (t : Bundle13) (s : State) : Out := s.branch (!(s.rd a).ult (s.rd b)) n t
/-- The new value of a LOOP counter (R311). -/
def State.loopNext (s : State) (a : Reg) : Word := s.rd a - 1
/-- `LOOP`: decrements, and is taken while the new value is not zero (R311). -/
def execLoop (a : Reg) (n : Bool) (t : BitVec 18) (s : State) : Out :=
  (s.wrC 1 a (s.loopNext a)).branch (s.loopNext a != 0) n (relTarget s.me.pc t)
/-- `LOOP` lone (R311). -/
def execLoopLone (a : Reg) (n : Bool) (t : Bundle13) (s : State) : Out :=
  (s.wrC 1 a (s.loopNext a)).branch (s.loopNext a != 0) n t
/-- `MOVL` (R242). -/
def execMovl (d : Reg) (i : BitVec 14) (s : State) : Out := s.setC d (sImm i)
/-- `MOVL` lone: E, sign-extended (R242). -/
def execMovlLone (d : Reg) (e : W32) (s : State) : Out := s.setC d (e.signExtend 64)
/-- `MOVLH`: bits 63:32 from E, bits 31:0 kept (R242). -/
def execMovlh (d : Reg) (e : W32) (s : State) : Out := s.setC d ((e.setWidth 64 <<< 32) ||| (s.rd d &&& 0xFFFFFFFF))

end Sys2Proof.Machine
end

