-- ==== Sys2Proof/Machine/Learning.lean ====
section
/-!
DEFINITION. Eligibility traces and reward broadcasts (23_learning R405 to R421).
-/
namespace Sys2Proof.Machine

/-! ### Fields (R405, R406) -/

/-- WOFF. -/
def Core.woff (k : Core) : Nat := (k.afld.setWidth 9).toNat
/-- EOFF. -/
def Core.eoff (k : Core) : Nat := ((k.afld >>> 9).setWidth 9).toNat
/-- PREOFF. -/
def Core.preoff (k : Core) : Nat := ((k.afld >>> 18).setWidth 9).toNat
/-- POSTOFF. -/
def Core.postoff (k : Core) : Nat := ((k.afld >>> 27).setWidth 9).toNat
/-- The five fields: w, scratch, e, pre, post. -/
def Core.learnFields (k : Core) : List (Nat × Nat) :=
  [(k.woff, 16), (k.woff + 16, 32), (k.eoff, 12), (k.preoff, 1), (k.postoff, 1)]
/-- Whether fields end at or below bit 511 and are pairwise disjoint. -/
def fieldsFit : List (Nat × Nat) → Bool
  | [] => true
  | f :: l => decide (f.1 + f.2 ≤ 512) && (l.all fun g => decide (f.1 + f.2 ≤ g.1) || decide (g.1 + g.2 ≤ f.1)) && fieldsFit l
/-- `AFLD_WRITE`: a layout that fits is stored, any other write is ignored (R405). -/
def execAfldWrite (c : Nat) (v : Word) (s : State) : Out :=
  .next (s.modCore c fun k =>
    let n := { k with afld := v.setWidth 36 }
    if fieldsFit n.learnFields then n else k)
/-- The tag of plastic rows (R406). -/
def Core.plasTag (k : Core) : Tag := ⟨k.plas.toNat % 8, Nat.mod_lt _ (by decide)⟩
/-- The mantissa of a row's trace. -/
def Core.trace (k : Core) (r : Row) : Nat := r.get k.eoff 12

/-! ### The queue of rewards (R417, R419) -/

/-- Look whether an application may start, behind every acceptance of this tick (R419). -/
def State.pokeApply (s : State) (c : Nat) : State := s.enqueueLast s.tick c .low 0 .rewardApplyStart
/-- %astep reaches a stamp: held rewards up to it become due, late ones where an MTC raised it past theirs (R417). -/
def State.setStep (s : State) (c : Nat) (v : Word) : State :=
  let f (x : Reward) : Reward :=
    if !x.due && decide (x.s.toNat ≤ v.toNat) then { x with due := true, late := decide (x.s.toNat < v.toNat) } else x
  (s.modCore c fun k => { k with astep := v, rewards := k.rewards.map f }).pokeApply c
/-- `ASTEP_WRITE` (R417). -/
def execAstepWrite (c : Nat) (v : Word) (s : State) : Out := .next (s.setStep c v)

/-! ### ATRC (R411 to R413) -/

/-- Passes of an ATRC (R412). -/
def Core.tracePasses (k : Core) : Nat := 40 + 24 * popNat 8 k.lambda.toNat
/-- The trace of a row one step on (R412). -/
def Core.nextTrace (k : Core) (r : Row) : Nat :=
  let p : Nat := if r.get k.preoff 1 = 1 ∧ r.get k.postoff 1 = 1 then k.tinc.toNat else 0
  sat12 ((roundRNE (k.lambda.toNat * k.trace r) 256 + p : Nat) : Int)
/-- Every trace of an array advances (R412). -/
def Core.traces (k : Core) : Core :=
  k.mapRows fun _ r => if r.tag k.plasTag then (r.put (k.woff + 16) 32 0).put k.eoff 12 (k.nextTrace r) else r
/-- The last pass of an ATRC: traces and %astep (R412). -/
def State.endTrace (s : State) (c : Nat) (stamp : Word) : State := (s.modCore c Core.traces).setStep c stamp
/-- `ARRAY_LAST_PASS`: the last pass of the array instruction that runs since a tick (R386); an ATRC advances its traces and
%astep here, ahead of the acceptances of the tick (R419), and one that meets bad parity keeps this pass for its trap (R404). -/
def execArrayLastPass (s : State) : Out :=
  .next <| match (s.bank s.here s.evPrio).op with
  | .array d c (some st) false v =>
    if st = s.evNum then
      let s1 := s.modBank s.here s.evPrio fun b => { b with op := .array d c (some st) true v }
      if c ≠ some 0x41 then s1
      else if ((s.core s.here).badRow none (s.core s.here).learnFields).isNone then s1.endTrace s.here v
      else s
    else s
  | _ => s
/-- Parity of a trace or reward operation: the fields of every row (R404). -/
def learnBad (k : Core) : Option Nat := k.badRow none k.learnFields
/-- An ATRC begins, or goes on, at a pass boundary. -/
def State.beginTrace (s : State) (d : Nat) (stamp : Word) : State :=
  s.beginPasses s.mine.tracePasses d (some 0x41) stamp learnBad fun s => s.endTrace s.here stamp
/-- `ATRC`: the stamp check, the hold for the horizon, the hold for the array, the passes (R412, R413). -/
def execAtrc (sr : Reg) (s : State) : Out :=
  let stamp := s.rd sr
  .next <|
  match s.me.op with
  | .array d _ (some st) fin _ =>
    if fin then s.issueArray
    else match learnBad s.mine with
      | some row => s.passTrap (d + (s.tick - st)) (some 0x41) row
      | none => s.hold
  | .array d _ none _ v => if s.mine.outside then s.hold else s.beginTrace d v
  | _ =>
    if s.mine.nested then s.trapHere 0x0D 0 0
    else if s.me.hasPass 0x41 then
      if s.mayBegin (some 0x41) then (s.modMe fun b => { b with pass := 0 }).beginTrace (s.me.savedPass (some 0x41)) stamp else s.holdOp
    else if stamp.toNat ≠ s.mine.astep.toNat + 1 then s.trapHere 0x0F 0 0
    else if s.mine.ahz.toNat + s.mine.rlag.toNat < stamp.toNat then s.holdOp
    else if s.mayPass then (s.modMe fun b => { b with pass := 0 }).beginTrace 0 stamp
    else s.holdOp

/-! ### Applying a reward (R418, R419, R421) -/

/-- An FP16 sum and product, rounded once (R398, R418). -/
def f16Add (x y : Nat) : Nat := (f16Result (f16Of x) (f16Of y) ((f16Of x).add .rne (f16Of y))).1
/-- The product of an FP16 value and an exact one. -/
def f16Scale (x : Nat) (y : Val) : Nat := (f16Result (f16Of x) y ((f16Of x).mul y)).1
/-- The weight of a row after a reward whose factor is `c` (R418). -/
def newWeight (c w em : Nat) : Nat := f16Add w (f16Scale c (.fin false em 2048))
/-- Factor of a reward (R418). -/
def Core.factor (k : Core) (r : BitVec 16) : Nat := f16Scale k.eta.toNat (f16Of r.toNat)
/-- One row after a reward. -/
def Core.rewardRow (k : Core) (c : Nat) (r : Row) : Row :=
  (r.put (k.woff + 16) 32 0).put k.woff 16 (newWeight c (r.get k.woff 16) (k.trace r))
/-- Whether a row's weight turns from a finite value into NaN or an infinity. -/
def Core.turns (k : Core) (c : Nat) (r : Row) : Bool :=
  (f16Of (r.get k.woff 16)).isFin && !(f16Of (newWeight c (r.get k.woff 16) (k.trace r))).isFin
/-- The rows of an array that a reward changes: plastic, and not among `skip`. -/
def Core.rewardRows (k : Core) (r : BitVec 16) (skip : List Nat) : Core :=
  let c := k.factor r
  let hit (n : Nat) (x : Row) : Bool := x.tag k.plasTag && !skip.contains n
  let nonfin := (List.range arrayRows).any fun n => hit n (k.row n) && k.turns c (k.row n)
  let k1 := k.mapRows fun n x => if hit n x then k.rewardRow c x else x
  if nonfin then { k1 with aflags := k1.aflags ||| 4 } else k1
/-- `ARWD` (R421). -/
def execArwd (a : Reg) (s : State) : Out :=
  let r : BitVec 16 := (s.rd a).setWidth 16
  s.passes 2000 (some 0x42) learnBad (fun s => s.modMine fun k => k.rewardRows r []) State.holdOp

/-- The due reward that is applied next: lowest stamp, then first accepted (R419). -/
def nextReward (l : List Reward) : Option Reward :=
  (l.filter (·.due)).foldl (fun b x => match b with
    | none => some x
    | some y => if x.s.toNat < y.s.toNat then some x else b) none
/-- Whether a bank's array instruction has passes left at a tick, also one that a record has restored and that has still to go on
(R419). -/
def Bank.passesLeft (b : Bank) (t : Nat) : Bool :=
  (b.midPass && (b.run == .suspended || (b.run == .running && decide (t ≤ b.readyAt)))) ||
  (match b.op with | .array _ _ _ fin _ => !fin | _ => false)
/-- The plastic rows in which an application finds bad parity (R419). -/
def Core.badPlastic (k : Core) : List Nat :=
  (((k.badPar.filter fun x => (k.row (x / 9)).tag k.plasTag && (x % 9 == 8 || (segsOf k.learnFields).contains (x % 9))).map
    fun x => x / 9)).eraseDups
/-- A pass that finds bad parity in plastic rows counts it, and sets PARITY and PROW (R27, R419). -/
def State.passParity (s : State) (c : Nat) (bad : List Nat) : State :=
  match bad.min? with
  | some n => (s.countUncorr 6).modCore c fun k => { k with aflags := k.aflags ||| 2, aprow := BitVec.ofNat 13 n }
  | none => s
/-- An application begins to run, after some passes; its first pass finds the errors that are there (R419). -/
def State.runApply (s : State) (c : Nat) (x : Reward) (done : Nat) : State :=
  ((s.modCore c fun k => { k with apply := some (x, done, some s.tick) }).passParity c (s.core c).badPlastic).enqueueFirst
    (s.tick + (2000 - done)) c .low s.tick .rewardApplyDone
/-- `REWARD_APPLY_START`: a due application starts when the array is free, and is looked for again until it is (R419). -/
def execRewardApplyStart (s : State) : Out :=
  let k := s.core s.here
  .next <|
  if k.halt then s
  else
    match k.apply with
    | some (x, done, none) => s.runApply s.here x done
    | some (_, _, some _) => s
    | none =>
      match nextReward k.rewards with
      | none => s
      | some x =>
        if k.low.passesLeft s.tick || k.high.passesLeft s.tick || k.narrowing then s.enqueueLast (s.tick + 1) s.here .low 0 .rewardApplyStart
        else (s.modCore s.here fun k => { k with rewards := k.rewards.erase x }).runApply s.here x 0
/-- The flag and the count of a late application (R418). -/
def Core.lateFlags (k : Core) (x : Reward) : Core :=
  if x.late then { k with aflags := k.aflags ||| 1, alate := satAdd k.alate 1 } else k
/-- `REWARD_APPLY_DONE`: the 2000 passes of an application are over: weights and flags, which MFC finds as the last pass left them,
in the tick before (R285, R418, R419). -/
def execRewardApplyDone (s : State) : Out :=
  .next <| match (s.core s.here).apply with
  | some (x, _, some st) =>
    if st = s.evNum then
      let bad := (s.core s.here).badPlastic
      ((s.modCore s.here fun k => { ((k.rewardRows x.r bad).lateFlags x) with apply := none }).seeAgain s.here [0x048, 0x049]).pokeApply s.here
    else s
  | _ => s

/-! ### Broadcasts (R414 to R417) -/

/-- Ticks of a broadcast inside the package, by scope (R416). -/
def bcastWay : Scope → Nat
  | .core => 1 | .quad => 3 | .layer => 14 | .tower => 20 | .pkg => 60 | .pod | .sys => 1050
/-- Whether a core lies within a scope of another (R415). -/
def inScope (sc : Scope) (c d : Nat) : Bool :=
  match sc with
  | .core => c == d
  | .quad => coreQuad c == coreQuad d
  | .layer => coreLayer c == coreLayer d
  | .tower => coreTower c == coreTower d
  | .pkg | .pod | .sys => true
/-- The targets of a broadcast in this package (R415). -/
def State.targets (s : State) (sc : Scope) : List Nat :=
  match s.mine.lid?.bind s.launchOf with
  | some l => l.cores.filter fun c => inScope sc s.here c && s.counts l c
  | none => []
/-- The number that stands for another package among a broadcast's targets. -/
def pkgTarget (p : BitVec 12) : Nat := 16384 + p.toNat
/-- A broadcast reaches a target after its time. -/
def State.sendBcast (s : State) (c d : Nat) (sc : Scope) : State :=
  s.enqueue (s.tick + bcastWay sc) c .low d .rewardBroadcastArrive
/-- A broadcast leaves: to every target of this package at once, and at pod scope to the other packages (R416). -/
def State.broadcast (s : State) (r : Option (BitVec 16)) (stamp : Word) (sc : Scope) : State :=
  let own := s.targets sc
  let far := match sc with | .pod => s.podPackages | _ => []
  let left := own ++ far.map pkgTarget
  let s1 := s.modMine fun k => { k with bcast := if left.isEmpty then none else some { r := r, s := stamp, sc := sc, left := left } }
  let s2 := own.foldl (fun st d => st.sendBcast s.here d sc) s1
  far.foldl (fun st p =>
    ((st.toSpan p (.reward (st.mine.lid?.getD 0) r stamp none)).delayed).enqueue (st.tick + st.delay 1190) s.here .low
      (bcastNum + pkgTarget p) (.messageAnswerArrive s.here .low .accept)) s2
/-- RBC and RCLR: held while the core's broadcast is outstanding; on a service core they do nothing (R414, R416). -/
def State.bcastIns (s : State) (r : Option (BitVec 16)) (stamp : Word) (sc : Scope) : Out :=
  .next (if isSvc s.here then s.issue else if s.mine.bcast.isSome then s.holdOp else (s.broadcast r stamp sc).issue)
/-- `RBC` (R414 to R416). -/
def execRbc (a b : Reg) (sc : Scope) (s : State) : Out := s.bcastIns (some ((s.rd a).setWidth 16)) (s.rd b) sc
/-- `RCLR` (R414 to R416). -/
def execRclr (b : Reg) (sc : Scope) (s : State) : Out := s.bcastIns none (s.rd b) sc

/-- The larger of two stamps. -/
def maxStamp (a b : Word) : Word := if a.toNat < b.toNat then b else a
/-- How an array answers a broadcast of a launch, and what it does; on a fenced layer, and where the launch has gone, the broadcast is
discarded, and while the launch is pre-empted it is refused, whoever holds the core (R416, R417). -/
def State.takeBcast (s : State) (lid : BitVec 32) (c : Nat) (r : Option (BitVec 16)) (stamp : Word) : MsgAnswer × State :=
  let k := s.core c
  if s.coreFenced c then (.accept, s)
  else if s.preempted lid then (.refuse, s)
  else if k.lid? ≠ some lid then (.accept, s)
  else
    match r with
    | none => (.accept, s.modCore c fun k => { k with ahz := maxStamp k.ahz stamp })
    | some v =>
      if 4 ≤ k.pendRewards then (.refuse, s)
      else
        let x : Reward :=
          { r := v, s := stamp, late := decide (stamp.toNat < k.astep.toNat), due := decide (stamp.toNat ≤ k.astep.toNat) }
        let s1 := s.modCore c fun k => { k with ahz := maxStamp k.ahz stamp, rewards := k.rewards ++ [x] }
        (.accept, if x.due then s1.pokeApply c else s1)
/-- `REWARD_BROADCAST_ARRIVE`: the broadcast of a core reaches an array: it is outstanding there no longer, or a refusal leaves (R416,
R417). -/
def execRewardBroadcastArrive (s : State) : Out :=
  .next <| match (s.core s.here).bcast with
  | none => s
  | some b =>
    let r := s.takeBcast ((s.core s.here).lid?.getD 0) s.evNum b.r b.s
    if r.1 = .accept then r.2.bcastAnswer s.here s.evNum .accept
    else r.2.enqueue (s.tick + bcastWay b.sc) s.here .low (bcastNum + s.evNum) (.messageAnswerArrive s.here .low r.1)
/-- `BROADCAST_RETRY`: a refused broadcast is sent to its array again (R416). -/
def execBroadcastRetry (s : State) : Out :=
  .next <| match (s.core s.here).bcast with
  | none => s
  | some b => if b.left.contains s.evNum && !(s.core s.here).halt then s.sendBcast s.here s.evNum b.sc else s

end Sys2Proof.Machine
end

