-- ==== Sys2Proof/Machine/Resume.lean ====
section
/-!
DEFINITION. The restore of a pre-empted launch (05_distribution R98, R100 to R102, 06_firings R119, R124, 20_fold R362,
22_associative_arrays R399).
-/
namespace Sys2Proof.Machine

/-! ### Reading a slot (R100, R101, R102) -/

/-- A word of a slot's contents, by its offset. -/
def slotAt (ws : List (Word × Bool)) (o : Nat) : Word := (ws.getD (o / 8) (0, true)).1
/-- The words of a slot from an offset. -/
def slotPart (ws : List (Word × Bool)) (o n : Nat) : List Word := ((ws.drop (o / 8)).take n).map Prod.fst
/-- A ring descriptor from its words. -/
def ringOfWords (w : List Word) : Ring :=
  let g (i : Nat) : Word := w.getD i 0
  { base := (g 0).setWidth 56, log2sz := (g 1).setWidth 5, nslot := (g 1 >>> 6).setWidth 7, fe := bitOf (g 1) 13,
    valid := bitOf (g 1) 14, tail := (g 2).setWidth 6, head := (g 2 >>> 8).setWidth 6, freep := (g 2 >>> 16).setWidth 6,
    filled := (g 2 >>> 24).setWidth 7, held := (g 2 >>> 32).setWidth 7, pend := (g 2 >>> 40).setWidth 7, read := false,
    pushes := (g 3).setWidth 32, pops := (g 3 >>> 32).setWidth 32 }
/-- A control register as a slot holds it, by its number. -/
def regAtSlot (ws : List (Word × Bool)) (n : Nat) : Word :=
  match savedRegs.zipIdx.find? fun x => x.1 == n with
  | some x => slotAt ws (0x1C600 + 8 * x.2)
  | none => 0
/-- The control registers of a core from a slot. -/
def Core.withRegs (k : Core) (ws : List (Word × Bool)) : Core :=
  let r := regAtSlot ws
  { k with
    drbud := (r 0x006).setWidth 16, wdlim := (r 0x007).setWidth 16, dfpctl := (r 0x008).setWidth 2, barArr := (r 0x020).setWidth 8,
    barSense := (r 0x020 >>> 8).setWidth 8, dbarb := (r 0x021).setWidth 16, fmask := (r 0x030).setWidth 4,
    flast := (r 0x031).setWidth 4, fpin := (r 0x032).setWidth 4, fsamp := (r 0x033).setWidth 16, gap8 := (r 0x036).setWidth 8,
    gap4 := (r 0x036 >>> 8).setWidth 8, tlife := (r 0x037).setWidth 16, astep := r 0x040, ahz := r 0x041,
    rlag := (r 0x042).setWidth 8, eta := (r 0x043).setWidth 16, lambda := (r 0x044).setWidth 8, tinc := (r 0x045).setWidth 12,
    afld := (r 0x046).setWidth 36, plas := (r 0x047).setWidth 3, alate := (r 0x048).setWidth 32,
    aflags := (r 0x049).setWidth 3, aprow := (r 0x049 >>> 16).setWidth 13 }
/-- The accumulators of a core from a slot. -/
def Core.withAcc (k : Core) (ws : List (Word × Bool)) : Core :=
  let halves := ((slotPart ws 0x18000 2048).map fun (x : Word) => [(x.setWidth 32 : BitVec 32), (x >>> 32).setWidth 32]).flatten
  let l := halves.zipIdx.map fun (x : BitVec 32 × Nat) => (x.2, x.1)
  let m := l.filter (fun (x : Nat × BitVec 32) => x.2 != 0)
  { k with acc := m }
/-- The rows of a core from a slot. -/
def Core.withRows (k : Core) (ws : List (Word × Bool)) : Core :=
  let rowAt (r : Nat) : Row :=
    let w := slotPart ws (0x20000 + 80 * r) 9
    { bits := BitVec.ofNat 512 ((w.take 8).foldr (fun x n => x.toNat + 2 ^ 64 * n) 0), tags := (w.getD 8 0).setWidth 8 }
  let l := (List.range 4096).map fun r => (r, rowAt r)
  let m := l.filter (fun (x : Nat × Row) => x.2 != Row.reset)
  { k with rows := m }
/-- The length that the length map gives for a mailbox word. -/
def lengthIn (ws : List (Word × Bool)) (j : Nat) : Nat := byteAt (slotAt ws (0x71000 + j / 8 * 8)) (j % 8)
/-- The lengths of `n` messages of a port from a ring offset on. -/
def lengthsFrom (ws : List (Word × Bool)) (q : Port) : Nat → Nat → List Nat
  | _, 0 => []
  | o, n + 1 =>
    let len := lengthIn ws (q.at o)
    len :: lengthsFrom ws q (o + len) n
/-- A port from its record, or none where record and length map do not describe whole messages within its FIFO (R102). -/
def portOf (ws : List (Word × Bool)) (q : Port) (i p : Nat) : Option Port :=
  let r := slotAt ws (0x70000 + 8 * (8 * i + p))
  let head := field r 11 0
  let msgs := field r 35 24
  let o := head - q.base
  let ls := lengthsFrom ws q o msgs
  if q.base ≤ head ∧ head < q.base + max 1 q.size ∧ ls.sum = field r 23 12 ∧ ls.sum ≤ q.size ∧ field r 63 36 = 0 ∧
      (ls.all fun n => (decide (1 ≤ n) && decide (n ≤ 8)) || n == 64) = true
  then some { q with head := o, msgs := ls } else none
/-- The instances of a core from a slot: the launch's, with their records; none where they are inconsistent (R101, R102). -/
def instsOf (ws : List (Word × Bool)) (l : List Inst) : Option (List Inst) :=
  allSome (l.zipIdx.map fun x =>
    let r := slotAt ws (0x72000 + 8 * x.2)
    match allSome (x.1.ports.zipIdx.map fun q => portOf ws q.1 x.2 q.2) with
    | none => none
    | some ps => some { x.1 with
        placed := bitOf r 0, disabled := bitOf r 1, inflight := bitOf r 2, trig := bitOf r 3, queued := bitOf r 4,
        started := bitOf r 5, waitIn := bitOf r 6, ports := ps })
/-- The instances of a failed slot: disabled, with empty FIFOs, and PLACED as saved (R102). -/
def instsFailed (ws : List (Word × Bool)) (l : List Inst) : List Inst :=
  l.zipIdx.map fun x => { x.1 with placed := bitOf (slotAt ws (0x72000 + 8 * x.2)) 0, disabled := true }
/-- The park-table entry of a launch that a FIFO word of a core names. -/
def State.entryOfWord (s : State) (lid : BitVec 32) (c : Nat) (w : Word) : Option ParkEntry :=
  s.park.find? fun e => e.lid == lid && e.origin == c && e.tower == field w 10 8 && e.pset == field w 23 11 && e.way == field w 26 24
/-- A FIFO of a run queue from its words (R101). -/
def State.fifoOf (s : State) (lid : BitVec 32) (c : Nat) : List Word → List Entry
  | [] => []
  | w :: r =>
    if field w 1 0 = 1 then .inst (field w 7 2) s.tick :: s.fifoOf lid c r
    else if field w 1 0 = 2 then
      match s.entryOfWord lid c w with
      | some e => .resume e.id s.tick :: s.fifoOf lid c r
      | none => s.fifoOf lid c r
    else []

/-! ### Restoring a core (R98, R102) -/

/-- What every restored core has, whether its slot holds or fails: instruction store through the checker, mailbox words with their
bits and poison, rings, accumulators, rows and control registers from the slot; `raw` are the words as read, none where one is
poisoned. -/
def State.restoreStores (s : State) (l : Launch) (c : Nat) (raw : Image) (ws : List (Word × Bool)) (x : Option Saved) : State :=
  let s1 := (s.clearCore c l).loadCode c (raw.take 8192)
  let s3 := ((ws.drop 8192).take 4096).zipIdx.foldl (fun st w => (st.wrWord (mailKey c w.2) w.1.1).setFE (mailKey c w.2) w.1.2) s1
  let s4 := (List.range 4096).foldl (fun st r =>
    (List.range 9).foldl (fun st j =>
      st.setFE (arrayBase + c * 0x80000 + (if j < 8 then 64 * r + 8 * j else 0x40000 + 8 * r))
        (ws.getD (16384 + 10 * r + j) (0, true)).2) st) s3
  let s5 := ((x.map (·.badMail)).getD []).foldl (fun st i => st.addWordPoison (mailKey c i)) s4
  s5.modCore c fun k =>
    { (((k.withRegs ws).withAcc ws).withRows ws) with
      rings := Vector.ofFn fun h => ringOfWords (slotPart ws (0x1C400 + 64 * h.val) 8),
      badCode := k.badCode ++ (x.map (·.badCode)).getD [],
      badPar := (x.map (·.badPar)).getD [], badAcc := (x.map (·.badAcc)).getD [], brken := (x.map (·.brken)).getD false, cause := (x.map (·.cause)).getD 0,
      recs := (x.map (·.recs)).getD (.replicate 4 none), grain := x.bind (·.grain), asql := x.bind (·.asql) }
/-- The sequence store is loaded again from the address of the last completed ASQL; it holds STOP where that fails (R399). -/
def State.restoreSeq (s : State) (c : Nat) (w : Option (List Word)) : State :=
  match w with
  | some x => s.modCore c fun k => { k with seq := seqStore x }
  | none => s
/-- The instances that a launch has on a core, as they were set up (R104, R105). -/
def setUpInsts (l : Launch) (c : Nat) : List Inst :=
  let add (k : Core) (x : Nat × Nat) : Core := match l.actors[x.2]? with | some a => k.addInst x.1 x.2 a | none => k
  let table := (l.placed.filter fun x => x.2.1 == c).filterMap fun x => (l.insts[x.1]?).map fun i => (x.1, i.act)
  (((table ++ if l.r.sweep then [(l.insts.length, l.swact)] else []).take 64).foldl add Core.reset).insts
/-- A record that fails its check, to be delivered as CORRUPT: core and bank that send it, home core and instance, and the record. -/
structure BadRec where
  core : Nat
  prio : Prio
  home : Nat
  inst : Nat
  fcr  : List Word
/-- The bad records among those of the two banks in a slot. No park-table entry, shipment or RESUME names the home core and
instance of these (R124): the model takes the ones that the record itself names, a choice (log entry 125). -/
def badIn (c : Nat) (all : Bool) (fl fh : List Word) : List BadRec :=
  [(Prio.low, fl), (Prio.high, fh)].filterMap fun x =>
    if x.2.all (· == 0) || (!all && fcrOk x.2) then none
    else some { core := c, prio := x.1, home := (bankOfFcr x.2).home, inst := (bankOfFcr x.2).inst, fcr := x.2 }
/-- The record of a halted firing goes into its bank, with what no record holds of it; one that fails its check counts, and is
delivered as CORRUPT when every core is restored (R102, R124). -/
def State.restoreBank (s : State) (c : Nat) (p : Prio) (f : List Word) (under : Bool) (x : Saved) : State :=
  if f.all (· == 0) then s
  else if fcrOk f then
    let low := p == .low
    s.modBank c p fun _ =>
      { bankOfFcr f with run := if under then .suspended else .running, readyAt := s.tick + 3,
                         dropped := if low then x.dropLow else x.dropHigh, woken := if low then x.wokenLow else x.wokenHigh,
                         arrOwn := if low then x.arrLow else x.arrHigh,
                         op := match (if low then x.foldLow else x.foldHigh) with | some n => .fold (some n) true | none => .idle }
  else s.countUncorr 11
/-- A slot that holds is restored (R98, R101). -/
def State.restoreGood (s : State) (l : Launch) (c : Nat) (ws : List (Word × Bool)) (is : List Inst) (x : Saved) :
    State × List BadRec :=
  let fl := slotPart ws 0x1C000 64
  let fh := slotPart ws 0x1C200 64
  let s1 := s.modCore c fun k =>
    { k with insts := is, fifoLow := s.fifoOf l.r.lid c (slotPart ws 0x72200 512),
             fifoHigh := s.fifoOf l.r.lid c (slotPart ws 0x73200 512),
             cur := if fh.all (· == 0) then .low else .high, copies := x.copies, fq := x.fq, qfails := x.qfails,
             rewards := x.rewards, apply := x.apply, bcast := x.bcast, holdLow := x.holdLow, holdHigh := x.holdHigh }
  let s2 := { s1 with foldOps := s1.foldOps ++ x.ops.filter fun (o : FoldOp) => !(s1.foldOps.any fun y => y.id == o.id) }
  ((s2.restoreBank c .low fl (!(fh.all (· == 0))) x).restoreBank c .high fh false x, badIn c false fl fh)
/-- A slot that fails: its records, and those that its FIFO entries refer to, go to the fault actor as CORRUPT, and all of it counts
as one error of domain 11 (R102). Of a slot that cannot be read the queued records of the core's park-table entries do so. -/
def State.restoreFailed (s : State) (l : Launch) (c : Nat) (read : Bool) (ws : List (Word × Bool)) (is : List Inst) :
    State × List BadRec :=
  let lid := l.r.lid
  let s1 := (s.modCore c fun k => { k with insts := is }).countUncorr 11
  let es := if read then
      (slotPart ws 0x72200 1024).filterMap fun w => if field w 1 0 = 2 then s.entryOfWord lid c w else none
    else s.park.filter fun e => e.lid == lid && e.origin == c && (e.st == .queued || e.st == .due)
  (es.foldl (fun st e => st.freePark e.id) s1,
    badIn c true (slotPart ws 0x1C000 64) (slotPart ws 0x1C200 64) ++
      es.map fun e => { core := c, prio := e.prio, home := e.home, inst := e.inst, fcr := e.fcr })
/-- Whether the words that the check of a slot covers are there and the check word is right (R101, R102). -/
def slotGood (raw : Image) (ws : List (Word × Bool)) : Bool :=
  (raw.drop 8192).all Option.isSome && slotAt ws 0x7FFF8 == slotCheck ((ws.take 65535).map Prod.fst)
/-- What a restore reads for a core: the words of its slot, none where it cannot be read, and those of its last ASQL. -/
abbrev SlotRead := Nat × Option Image × Option (List Word)
/-- What the engine state of a core's slot holds. -/
def State.savedAt (s : State) (lid : BitVec 32) (c : Nat) : Option Saved := s.saved.find? fun y => y.lid == lid && y.core == c
/-- The slots of some cores; none where a stack or another package has still to answer (R22, R41). -/
def State.readSlots (s : State) (l : Launch) : List Nat → Option (List SlotRead) × State
  | [] => (some [], s)
  | c :: cs =>
    let r := s.distReads l 2 (slotVa l c) 65536
    let q := match (s.savedAt l.r.lid c).bind (·.asql) with
      | some va => r.2.distWords l 1 va.toNat 256
      | none => (.fail, r.2)
    let z := q.2.readSlots l cs
    match r.1, q.1, z.1 with
    | .got ws, .got seq, some l => (some ((c, some ws, some seq) :: l), z.2)
    | .got ws, .fail, some l => (some ((c, some ws, none) :: l), z.2)
    | .fail, .got seq, some l => (some ((c, none, some seq) :: l), z.2)
    | .fail, .fail, some l => (some ((c, none, none) :: l), z.2)
    | _, _, _ => (none, z.2)
/-- A core is restored from its slot: as saved where the slot is right, else as one whose restore failed (R98, R102). -/
def State.restoreCore (s : State) (l : Launch) (y : SlotRead) : State × List BadRec :=
  let c := y.1
  let raw := y.2.1.getD []
  let ws := raw.map fun w => w.getD (0, true)
  let x := s.savedAt l.r.lid c
  let s1 := (s.restoreStores l c raw ws x).restoreSeq c y.2.2
  match (if y.2.1.isSome && slotGood raw ws then instsOf ws (setUpInsts l c) else none), x with
  | some ks, some z => s1.restoreGood l c ws ks z
  | _, _ => s1.restoreFailed l c y.2.1.isSome ws (if y.2.1.isSome then instsFailed ws (setUpInsts l c)
      else (setUpInsts l c).map fun i => { i with disabled := true })
/-- Every core of a launch is restored; then the records that failed are delivered, so that the fault actor and the instances that
they belong to stand where they will be (R102, R124). -/
def State.restoreCores (s : State) (l : Launch) (ys : List SlotRead) : State :=
  let r := ys.foldl (fun (z : State × List BadRec) y => let w := z.1.restoreCore l y; (w.1, z.2 ++ w.2)) (s, [])
  r.2.foldl (fun st b => st.corruptTo b.core b.prio l.r.lid b.home b.inst b.fcr) r.1

/-! ### What is lost (R95, R98, R102) -/

/-- Whether an instance's firing is somewhere: in a bank, in the park tables or on its way. -/
def State.fires (s : State) (lid : BitVec 32) (home inst : Nat) : Bool :=
  (s.cores.any fun x => [x.2.low, x.2.high].any fun b => b.run != .none && b.lid == lid && b.home == home && b.inst == inst) ||
  (s.park.any fun e => e.lid == lid && e.kind != .port && e.home == home && e.inst == inst) ||
  s.transit.any fun t => t.lid == lid && t.home == home && t.inst == inst
/-- The grains of a sweep that a firing, a queued entry or the record of a trapped firing stands for. -/
def State.grainsThere (s : State) (l : Launch) : List Nat :=
  let lid := l.r.lid
  let banks := (s.cores.map fun x => [x.2.low, x.2.high]).flatten.filter fun b => b.run != .none && b.lid == lid
  let fcrs := (s.park.filter fun e => e.lid == lid).map (·.fcr) ++ (s.transit.filter fun t => t.lid == lid).map (·.fcr) ++
    ((s.recordsAt l.cores).filter fun h => h.1 == lid).map Prod.snd
  (banks ++ fcrs.map bankOfFcr).filterMap (fun b => b.grainOf l) ++
    l.cores.filterMap fun c => if ((s.core c).insts.any fun i => i.gidx == l.insts.length && i.queued && !i.disabled) then (s.core c).grain else none
/-- The firings that a restored launch has lost, with a layer fenced meanwhile or with what a failed slot drops: their instances are
free again, and their grains go back to the pool or are dropped, as those of a fence do (R95, R98, R102; of a failed slot the
manual does not say it: log entry 125). -/
def State.findLost (s : State) (lid : BitVec 32) : State :=
  match s.launchOf lid with
  | none => s
  | some l =>
    let there := s.grainsThere l ++ l.confirmed ++ (l.reports.map fun r => r.grains).flatten
    let gs := (l.issued.map Prod.fst).filter fun g => !there.contains g
    let s1 := s.modLaunch lid fun x => gs.foldl Launch.loseGrain x
    let s2 := (l.cores.filter fun c => (s.core c).grain.any gs.contains).foldl (fun st c =>
      (st.modCore c fun k => { k with grain := none }).enqueue st.tick c .low 0 .grainClaim) s1
    l.cores.foldl (fun st c => (List.range (st.core c).insts.length).foldl (fun st n =>
      if ((st.inst c n).any fun i => i.inflight) && !st.fires lid c n then
        (((st.modInst c n fun i => { i with inflight := false }).checkReady c n).modLaunch lid fun x =>
          { x with lossy := x.lossy || !x.r.sweep && !x.r.rsafe })
      else st) st) s2

/-! ### What goes on (R97, R98, R123, R335, R362, R416, R419) -/

/-- The copies of a restored core go on: a line moves, or a completion that was due is made (R335). -/
def State.restartCopies (s : State) (c : Nat) : State :=
  let k := s.core c
  (k.copies.filter fun x => !x.done && !x.moving).foldl (fun st x => st.enqueue (st.tick + 2) c .low x.id .copyCompletionFill)
    (if k.copies.any Copy.moving then s.kickCopies c (s.tick + 2) else s)
/-- The fold engine's queue of a restored core goes on: the work of an accumulator instruction that had begun, or the next item; a join is
made again (R353, R368). -/
def State.restartQueue (s : State) (c : Nat) : State :=
  let s1 := match (s.core c).fq with
    | e :: _ => if e.begun then (match e.item with | .fold _ | .join _ => s | _ => s.enqueue (s.tick + 1) c .low 0 .accOpComplete) else s.kick c
    | [] => s
  if (s1.joinOf c).isSome then s1.checkJoin c else s1
/-- The broadcast of a restored core that is not accepted everywhere goes on (R416). -/
def State.restartBcast (s : State) (c : Nat) : State :=
  match (s.core c).bcast with
  | some b => b.left.foldl (fun (st : State) d => st.enqueue (st.tick + 1) c .low d .broadcastRetry) s
  | none => s
/-- A record in a hold buffer of a restored core is offered again (R123). -/
def State.restartHold (s : State) (c : Nat) (p : Prio) : State :=
  if (if p = .low then (s.core c).holdLow else (s.core c).holdHigh).isEmpty then s else s.enqueue (s.tick + 64) c p 0 .holdBufferOffer
/-- The engines and hold buffers of a restored core go on. -/
def State.restartCore (s : State) (c : Nat) : State :=
  let s1 := ((s.modCore c fun k => { k with halt := false }).restartCopies c).restartQueue c
  let s2 := ((((s1.pokeApply c).restartBcast c).restartHold c .low).restartHold c .high)
  (s2.enqueue s2.tick c .low 0 .startMessageArrive).enqueue s2.tick c .low 0 .fcrDeliver
/-- The fold operations of a restored launch go on from their next round (R362). -/
def State.restartFolds (s : State) (cs : List Nat) : State :=
  (s.foldOps.filter fun o => (o.cores.any fun c => cs.contains c) && o.begun).foldl (fun st o => st.foldAgain o) s
/-- Parked firings go on counting for their watchdogs, held wakes are delivered, and records that are due are appended (R97, R109,
R121, R184). -/
def State.restartParked (s : State) (lid : BitVec 32) : State :=
  let f (e : ParkEntry) : ParkEntry :=
    if e.lid == lid && e.onWord && !e.fcr.isEmpty then { e with since := s.tick, due := if e.due = 0 then 0 else e.due - 1 + s.tick } else e
  let s1 := { s with park := s.park.map f }
  let mine := s1.park.filter fun e => e.lid == lid
  let s2 := (mine.filter fun e => e.onWord && e.due != 0).foldl (fun st e =>
    st.enqueueFirst (e.due + 1) e.origin e.prio e.id .watchdogExpiry) s1
  let s3 := (mine.filter fun e => e.st == .due).foldl (fun st e => st.enqueue st.tick e.origin e.prio 0 .resumeEntryDue) s2
  (mine.filter fun e => e.st == .heldWake).foldl State.pushResume s3
/-- `LAUNCH_RESUME`: the first launch that waits, pre-empted before, is restored on its cores when they are all free, and takes
them back from launches of lower priority; cores that have been fenced meanwhile are lost to it (R95, R96, R98). -/
def execLaunchResume (lid : W32) (s : State) : Out :=
  .next <| match s.launchOf lid with
  | none => s
  | some l =>
    if l.st ≠ .preempted ∨ s.masterVacant = true ∨ s.isFirst l = false then s
    else
      let cs := l.cores.filter fun c => !s.coreFenced c
      if !(cs.all fun c => s.coreFree c && !s.sweepGets c) then s.retake l cs
      else if !s.acked (distKey lid) then s.againOnce (.launchResume lid)
      else
        match s.readSlots l cs with
        | (none, s0) => s0.againOnce (.launchResume lid)
        | (some slots, s0) =>
        let l1 := { l with st := .running }
        let s1 := (s0.dropGroup (distKey lid)).modLaunch lid fun _ => l1
        let s2 := s1.restoreCores l1 slots
        let s3 := { s2 with saved := s2.saved.filter fun x => x.lid != lid }
        let s4 := ((cs.foldl State.restartCore s3).restartFolds cs).restartParked lid
        let gone := (List.range 32).filter fun i => l.cores.any fun c => s.coreFenced c && coreLayer c == i
        let s5 := gone.foldl (fun st i => match st.launchOf lid with
          | some x => (st.fenceFolds i).loseShare x i (st.towerFenced (i / 4))
          | none => st) s4
        let s6 := if l.lost.isEmpty then s5.findLost lid else (s5.findLost lid).later 0 0 (.launchStart lid)
        (((s6.checkPhases lid).poke lid).pokeStarts).pokeSweeps

end Sys2Proof.Machine
end

