-- ==== Sys2Proof/Machine/Queues.lean ====
section
/-!
DEFINITION. The launch queues: acceptance of launch records and of page-move requests, QCTL, function-level reset and the
state of a PCIe link (03_host_interface R46, R53 to R69, 05_distribution R83).
-/
namespace Sys2Proof.Machine

/-! ### A slot (R53, R54) -/

/-- Whether a queue of a kind is served now: enabled, its next header full in HBM or a vault, room in the launch table, and a
master that serves (R54, R82, R83). -/
def State.mayAccept (s : State) (l q : Nat) (kind : Bool) : Bool :=
  let x := (s.link l).queue q
  let inMem (a : Nat) : Bool := match placeOf a with | .hbm | .vault .. => true | _ => false
  let o := x.base.toNat * 128 + 128 * (x.count.toNat % 2 ^ x.log2n.toNat)
  x.en && x.kind == kind && !s.masterVacant && s.boot.status.ready && !s.boot.down && decide (l < 2) && decide (q < 8) &&
    inMem o && s.full x.header && !s.spent o
/-- Local offsets of the sixteen words of the next slot of a queue. -/
def State.queueWords (s : State) (l q : Nat) : List Nat :=
  let x := (s.link l).queue q
  let o := x.base.toNat * 128 + 128 * (x.count.toNat % 2 ^ x.log2n.toNat)
  (List.range 16).map fun i => o + 8 * i
/-- The physical address of a local offset of this package. -/
def State.atHome (s : State) (o : Nat) : Nat := s.pkgId.toNat * 2 ^ 44 + o
/-- The master reads a slot, and finds the errors in it (R26, R28). -/
def State.slotMet (s : State) (l q : Nat) : State := s.meetAll ((s.queueWords l q).map s.atHome)
/-- The sixteen words of the next slot of a queue; of an unarmed block, zero (R168). -/
def State.slotRead (s : State) (l q : Nat) : List Word :=
  (s.queueWords l q).map fun o => if s.spent o then 0 else s.rdWord (keyOf o)
/-- Whether a word of a slot is poisoned. The manual does not say what the master does with one: the model takes the check of the
record or request for failed (log entry 115). -/
def State.slotPoisoned (s : State) (l q : Nat) : Bool := (s.queueWords l q).any fun o => s.poisoned (keyOf o)
/-- Whether the master's reads of a slot wait for an HBM stack (R22). -/
def State.slotShut (s : State) (l q : Nat) : Bool := s.stacksShut ((s.queueWords l q).map s.atHome)
/-- The header is set empty, COUNT advances, and the master looks at the queue again (R54). -/
def State.slotDone (s : State) (l q : Nat) : State :=
  ((s.empty ((s.link l).queue q).header).modLink l fun x => x.modQueue q fun y => { y with count := y.count + 1 }).pokeQueue l q
/-- The check of a record or request: CRC-32C over bytes 8 to 119, and nothing above it (R56, R68). -/
def checkOk (w : List Word) : Bool := (w.getD 15 0).toNat == crc32c ((w.drop 1).take 14)

/-! ### The launch record (R56 to R60) -/

/-- A PRED word (R59). -/
def predOf (w : Word) : BitVec 32 × Nat × Bool := (w.setWidth 32, field w 47 32, bitOf w 48)
/-- A launch record from its words, as a queue of link `l` holds it (R56 to R59). -/
def recordOf (l : Nat) (w : List Word) : LRec :=
  let g (i : Nat) : Word := w.getD i 0
  { lid := (g 0).setWidth 32, sweep := field (g 0) 33 32 == 1, prio := field (g 0) 35 34, rsafe := bitOf (g 0) 36, msix := bitOf (g 0) 37,
    vec := field (g 0) 53 48, link := l, root := field (g 1) 55 12 * 2 ^ 12, layout := field (g 1) 3 0, desc := (g 2).toNat,
    w3 := g 3, w4 := g 4, w5 := g 5, save := (g 6).toNat, crec := (g 7).toNat, cword := (g 8).toNat,
    preds := ((w.drop 9).take (field (g 0) 42 40)).map predOf, rbud := (g 13).setWidth 16, wdlim := (g 13 >>> 16).setWidth 16,
    fsamp := (g 13 >>> 32).setWidth 16, rm := (g 14).setWidth 2, barb := (g 14 >>> 16).setWidth 16 }
/-- Whether the reserved bits of the words and fields that are read are zero (R56 to R60). -/
def reservedOk (w : List Word) : Bool :=
  let g (i : Nat) : Word := w.getD i 0
  let sweep := field (g 0) 33 32 == 1
  field (g 0) 39 38 == 0 && field (g 0) 47 43 == 0 && field (g 0) 63 54 == 0 && field (g 1) 11 4 == 0 && field (g 1) 63 56 == 0 &&
  field (g 5) 63 44 == 0 && (sweep || (field (g 4) 63 16 == 0 && field (g 5) 31 0 == 0)) && field (g 13) 63 48 == 0 &&
  field (g 14) 15 2 == 0 && field (g 14) 63 32 == 0 && field (g 15) 63 32 == 0 &&
  ((w.drop 9).take (field (g 0) 42 40)).all fun p => field p 63 49 == 0
/-- Whether a sweep's range is one: COUNT 1 to 2^48, GRAIN at least 1, and the last index an i64 (R58, R60). -/
def sweepOk (w : List Word) : Bool :=
  let n := (w.getD 4 0).toNat
  n != 0 && decide (n ≤ 2 ^ 48) && field (w.getD 5 0) 31 0 != 0 && decide ((w.getD 3 0).toInt + (n : Int) - 1 ≤ 2 ^ 63 - 1)
/-- Whether a record is valid, but for a repeated id (R60). -/
def State.recordValid (s : State) (w : List Word) (r : LRec) : Bool :=
  let ty := field (w.getD 0 0) 33 32
  r.lid != 0 && decide (ty < 2) && decide (field (w.getD 0 0) 42 40 ≤ 4) && reservedOk w && checkOk w &&
  s.recordOk r.root 4096 && s.recordOk r.crec 64 && s.recordOk r.cword 8 && (ty != 1 || sweepOk w) &&
  field r.w5 39 32 != 0 && field r.w5 43 40 != 0
/-- Whether an id is that of a launch in the table or in the completion history (R60, R65). -/
def State.knows (s : State) (lid : BitVec 32) : Bool :=
  s.launches.any (fun l => l.r.lid == lid) || s.history.any fun x => x.1 == lid
/-- A record that is not valid completes at acceptance; one that is invalid only by its id is no part of the history (R60, R66). -/
def State.badRecord (s : State) (r : LRec) (repeated : Bool) : State :=
  let s1 := s.report r (completionRecord r 2 0 0 0 s.timebase s.timebase 0)
  if repeated then s1 else s1.addHistory r.lid 2
/-- The lowest space number that no launch has (R289). -/
def State.freeSpace (s : State) : Nat :=
  ((List.range 1024).find? fun n => !(s.launches.any fun l => l.space.toNat == n)).getD 0
/-- A launch as its record enters the launch table (R54). -/
def newLaunch (r : LRec) (space : Nat) : Launch :=
  { r := r, st := .waiting, status := 0, space := BitVec.ofNat 10 space, order := 0, actors := [], insts := [], faulti := 0xFFFFF,
    swact := 0, coden := 0, code := 0, map := 0, cores := [], placed := [], nextGrain := 0, pool := [], blocks := [], issued := [],
    reports := [], confirmed := [], trig := 0, faults := 0, reissued := 0, firings := 0, startT := 0, preempts := 0, lossy := false,
    resumed := [], lost := [], faultOff := false }
/-- The predecessors of a new dependent: one that nobody knows is BAD_PRED, one in the history is judged by its status, and the
others are waited for (R65). -/
def State.judgePreds (s : State) (ps : List (BitVec 32 × Nat × Bool)) : BitVec 8 × List (BitVec 32 × Nat × Bool) :=
  let pending (p : BitVec 32 × Nat × Bool) : Bool := s.launches.any fun l => l.r.lid == p.1
  let failed (p : BitVec 32 × Nat × Bool) : Bool :=
    p.2.2 && !pending p && (s.history.find? fun x => x.1 == p.1).any fun x => x.2 != 0
  if !(ps.all fun p => s.knows p.1) then (3, [])
  else if ps.any failed then (4, [])
  else (0, ps.filter pending)
/-- A valid record enters the launch table (R54, R65). -/
def State.enter (s : State) (r : LRec) : State :=
  let j := s.judgePreds r.preds
  let l := newLaunch { r with preds := j.2 } s.freeSpace
  let s1 := { s with launches := s.launches ++ [l] }
  if j.1 = 0 then s1.later 0 0 (.launchStart r.lid) else s1.endUnrun l j.1
/-- `RECORD_ACCEPT`: the master takes the next record of a queue (R54, R60); where an HBM stack takes no request, it waits for the slot,
and for the completion of a record that is not valid (R22). -/
def execRecordAccept (l q : Nat) (s : State) : Out :=
  .next <|
  if s.mayAccept l q false && decide (s.launches.length < 1024) then
    let s0 := s.slotMet l q
    let w := s0.slotRead l q
    let r := recordOf l w
    let valid := !s0.slotPoisoned l q && s0.recordValid w r
    let bad := !valid || s0.knows r.lid
    if s.slotShut l q || (bad && s.reportShut r) then s.pokeQueue l q
    else
      let s1 := s0.slotDone l q
      if bad then s1.badRecord r valid else s1.enter r
  else s

/-! ### Page-move requests (R68, R69) -/

/-- A page move as its slot says it (R68). Of a page that goes to the host the slot gives a host physical address, and not in which host
window (R130) its frame lies: the model takes the window of the link that the request came by (log entry 126). -/
def State.moveOf (s : State) (l : Nat) (w : List Word) : TokenReq :=
  let g (i : Nat) : Word := w.getD i 0
  .host ((g 0).setWidth 32) (bitOf (g 0) 32) ((g 1).setWidth 32) (g 2).toNat
    (s.pkgId.toNat * 2 ^ 44 + (if l = 0 then 0x80000000000 else 0xC0000000000) + (g 3).toNat % 2 ^ 42) (g 4).toNat
/-- The page of a launch that runs, at an address. -/
def State.pageAt (s : State) (lid : BitVec 32) (va : Nat) : Option TlbEntry :=
  if 2 ^ 56 ≤ va then none else ((s.launchOf lid).bind fun x => s.leaf x va).map Prod.fst
/-- Whether a request is BAD_REQUEST: a reserved bit, the check, or an address that is misaligned; every page is aligned to 64
KiB at least (R69). R68 asks for an id that is not 0, and R69 gives no result for one: the model answers BAD_REQUEST (log entry 122). -/
def State.moveBad (s : State) (w : List Word) : Bool :=
  let g (i : Nat) : Word := w.getD i 0
  let al := ((s.pageAt ((g 1).setWidth 32) (g 2).toNat).map TlbEntry.bytes).getD 65536
  field (g 0) 31 0 == 0 || field (g 0) 63 33 != 0 || field (g 1) 63 32 != 0 || (!bitOf (g 0) 32 && g 3 != 0) ||
  ((w.drop 5).take 10).any (fun x => x != 0) || !checkOk w || (g 2).toNat % al != 0 || (g 3).toNat % al != 0 ||
  decide (2 ^ 42 ≤ (g 3).toNat)
/-- `PAGE_MOVE_REQUEST`: the master takes the next page-move request of a queue and sends it to the token's home; one without a
usable result word is dropped and counted (R68, R69). Which result words are usable, and the order of BAD_REQUEST before NOT_MAPPED, are
the model's: R68 asks for an aligned address of this package, where the model asks for what R60 does (log entry 126). -/
def execPageMoveRequest (l q : Nat) (s : State) : Out :=
  .next <|
  if s.mayAccept l q true then
    let s0 := s.slotMet l q
    let w := s0.slotRead l q
    let rq := s0.moveOf l w
    let s1 := s0.slotDone l q
    let res := (w.getD 4 0).toNat
    if s.slotShut l q then s.pokeQueue l q
    else if !s1.recordOk res 8 then s1.countDropped l
    else if s0.slotPoisoned l q || s1.moveBad w then s1.moveResult ((w.getD 0 0).setWidth 32) res 3
    else if (s1.pageAt ((w.getD 1 0).setWidth 32) (w.getD 2 0).toNat).isNone then s1.moveResult ((w.getD 0 0).setWidth 32) res 2
    else s1.delayed.later (s1.delay 120) 0 (.tokenRequest rq)
  else s

/-! ### QCTL, function-level reset, the link (R46, R53, R63) -/

/-- QCTL of a queue after a write: KIND and LOG2N are ignored while EN = 1; COUNT clears when EN rises (R53). -/
def Queue.ctl (q : Queue) (v : Word) : Queue :=
  if q.en then { q with en := bitOf v 0 }
  else { q with en := bitOf v 0, kind := bitOf v 1, log2n := log2nOf (field v 12 8), count := if bitOf v 0 then 0 else q.count }
/-- `QCTL_WRITE`; until READY is set the write to EN is ignored (R53, R74). -/
def execQctlWrite (l q : Nat) (v : Word) (s : State) : Out :=
  let w : Word := if s.boot.status.ready then v else v &&& ~~~1
  .next <| if l < 2 ∧ q < 8 then (s.modLink l fun x => x.modQueue q fun y => y.ctl w).pokeQueue l q else s
/-- `FUNCTION_LEVEL_RESET`: the link's queues are disabled and its registers reset, and its launches end CANCELLED, without
MSI-X (R46). -/
def execFunctionLevelReset (s : State) : Out :=
  let l := s.evNum
  .next <| if l < 2 then
    let quiet (x : Launch) : Launch := if x.r.link = l then { x with r := { x.r with msix := false } } else x
    let s1 := (s.modLink l fun x =>
      { PcieLink.reset with table := x.table, pending := x.pending, up := x.up, bar4 := x.bar4, posted := x.posted, out := x.out })
    let s2 := { s1 with launches := s1.launches.map quiet }
    (s2.launches.filter fun x => x.r.link == l).foldl (fun st x => match st.launchOf x.r.lid with
      | some y => st.cancelLaunch y
      | none => st) s2
  else s
/-- `PCIE_LINK_DOWN`: a PCIe link leaves the up state or returns to it; a message that falls due meanwhile is not sent (R63). -/
def execPcieLinkDown (l : Nat) (up : Bool) (s : State) : Out := .next (s.modLink l fun x => { x with up := up })

end Sys2Proof.Machine
end

