-- ==== Sys2Proof/Machine/HostIf.lean ====
section
/-!
DEFINITION. Host accesses through BAR 4 and BAR 2, and register writes through BAR 0 (03_host_interface R45 to R52,
01_package R23, R29, 04_startup R74). An access is put on its link's list while it waits for its turn.
-/
namespace Sys2Proof.Machine

/-! ### What the host may reach (R23, R51, R74) -/

/-- Whether BAR 2 and BAR 4 are served (R23, R74). -/
def State.hostOpen (s : State) : Bool := s.boot.rails && s.boot.status.ready && !s.boot.down
/-- Whether a local offset is populated and assigned (R127). -/
def isPlace (o : Nat) : Bool := decide (o < 2 ^ 44) && placeOf o != .unassigned
/-- Whether a local offset lies in populated HBM or a vault window (R51). -/
def inMemory (o : Nat) : Bool := decide (o < 2 ^ 44) && (match placeOf o with | .hbm | .vault .. => true | _ => false)
/-- The aligned words that `n` bytes from an offset touch. -/
def wordsOf (o n : Nat) : List Nat := (List.range ((o % 8 + n + 7) / 8)).map fun i => wordOf o + 8 * i
/-- Local offset of an offset in BAR 4 (R50). -/
def PcieLink.aperAt (x : PcieLink) (off : Nat) : Nat := x.aperBase + off
/-- Local offset of an offset in a sub-window of BAR 2 (R50). -/
def PcieLink.feAt (x : PcieLink) (off : Nat) : Nat := x.fe.toNat * 2 ^ 32 + off % 2 ^ 32
/-- Whether the agents of some words take an access now; a write to an instruction store takes its port (R32, R161, R163, R403). -/
def State.hostReady (s : State) (write : Bool) (ws : List Nat) : Bool :=
  ws.all fun o => s.placeReady s.distCore .unit o s.tick && !(write && s.portTaken o)
/-- A TLP that the device sends on a link (R28). -/
def State.hostSend (s : State) (l : Nat) (x : HostOut) : State := s.onLink l fun y => { y with out := x :: y.out }

/-! ### The order of one link (R52) -/

/-- The locations of some bytes: both vault windows lead to one (R189). -/
def byteKeys (o n : Nat) : List Nat := (List.range n).map fun i => keyOf (o + i)
/-- Whether an access numbered `n` still waits for earlier posted writes of its link: all, or those to a location of its own. -/
def PcieLink.waits (x : PcieLink) (n : Nat) (at_ : Option (Nat × Nat)) : Bool :=
  x.posted.any fun e => decide (e.1 < n) && (match at_ with
    | none => true
    | some (o, len) => (byteKeys o len).any (byteKeys e.2.1 e.2.2.length).contains)
/-- An access leaves its link's list. -/
def State.unpost (s : State) (l n : Nat) : State := s.modLink l fun x => { x with posted := x.posted.filter fun e => e.1 != n }
/-- A posted write joins its link's list and comes about some ticks later. -/
def State.post (s : State) (l d o : Nat) (data : List Byte) (ev : Instr) : State :=
  ((s.modLink l fun x => { x with posted := x.posted ++ [(s.nextId, o, data)] }).bumpId.delayed).later d s.nextId ev
/-- An access that waits for others of its link comes again in the next tick, under its number. -/
def State.hostAgain (s : State) (n : Nat) (ev : Instr) : State := s.later 1 n ev
/-- An access that waits at its place comes again in the next tick, ahead of what arrives there then (R32, R403). -/
def State.hostStand (s : State) (n : Nat) (ev : Instr) : State := s.enqueueFirst (s.tick + 1) 0 .low n ev
/-- A read that arrives, a TLP, takes a number, so that it waits for what came earlier only (R28, R52). -/
def State.hostNumber (s : State) : Nat × State := if s.evNum = 0 then (s.nextId, s.bumpId.tlp) else (s.evNum, s)

/-! ### BAR 4 (R50, R51) -/

/-- The bytes of a list as a number, least significant first (R7). -/
def bytesNat (l : List Byte) : Nat := l.foldr (fun b n => b.toNat + 256 * n) 0
/-- Write a word's part of a host write: bytes `o` to `o + n - 1` of one word. In an unarmed transient block it is discarded (R168). What
the host's write of a part of a poisoned word or block does the manual does not say: the model stores it, and the poison stays (log
entry 115). -/
def State.hostPut (s : State) (o n v : Nat) : State :=
  if s.spent o then s
  else
    let s0 := if n = 8 then (s.call o).meetBlock (keyOf o) else (s.call o).meet (keyOf o)
    let s1 := s0.placeWrite (s.atHome o) (keyOf o) n v
    if n = 8 then s1.unpoison (keyOf o) else s1
/-- The blocks of 64 bytes that `n` bytes from an offset cover. -/
def blocksIn (o n : Nat) : List Nat :=
  ((List.range (n / 64 + 1)).map fun i => (o + 63) / 64 * 64 + 64 * i).filter fun a => decide (a + 64 ≤ o + n)
/-- A host write is performed, word by word (R50); a block that it covers is no longer poisoned (R29). -/
def State.hostWrite (s : State) (o : Nat) (data : List Byte) : State :=
  let s1 := (wordsOf o data.length).foldl (fun st w =>
    let a := max o w
    let n := min (o + data.length) (w + 8) - a
    st.hostPut a n (bytesNat ((data.drop (a - o)).take n))) ((blocksIn o data.length).foldl (fun st a => st.clearFlaw (keyOf a)) s)
  (blocksIn o data.length).foldl (fun st a => st.heal (keyOf a)) s1
/-- What a posted write has still to do. -/
def State.repost (s : State) (l n o : Nat) (data : List Byte) : State :=
  s.modLink l fun x => { x with posted := x.posted.map fun e => if e.1 == n then (n, o, data) else e }
/-- A posted write is performed; of an instruction store a word in each tick, since each takes the port (R161, R212). -/
def State.hostPerform (s : State) (l n o : Nat) (data : List Byte) (ev : Instr) : State :=
  match placeOf o with
  | .istore .. =>
    if data.length ≤ 8 then (s.unpost l n).hostWrite o data
    else (((s.repost l n (o + 8) (data.drop 8)).hostWrite o (data.take 8))).hostStand n ev
  | _ => (s.unpost l n).hostWrite o data
/-- Whether a BAR 4 write is dropped: a target that is not there, or part of a word of an instruction store (R51). -/
def aperDrops (o n : Nat) : Bool :=
  !((wordsOf o n).all isPlace) ||
  ((wordsOf o n).any fun w => match placeOf w with | .istore .. => o % 8 != 0 || n % 8 != 0 | _ => false)
/-- `HOST_APERTURE_WRITE`: a write through BAR 4 arrives; it is performed after the earlier writes to its bytes, at a time of
its own (R50 to R52). -/
def execHostApertureWrite (l off : Nat) (data : List Byte) (s : State) : Out :=
  let ev : Instr := .hostApertureWrite l off data
  .next <|
  if !s.boot.rails then s
  else if s.evNum = 0 then
    let o := (s.link l).aperAt off
    if !s.hostOpen || aperDrops o data.length then s.tlp.countDropped l else s.tlp.post l (s.delay 0) o data ev
  else
    match (s.link l).posted.find? fun e => e.1 == s.evNum with
    | none => s
    | some (n, o, d) =>
      if (s.link l).waits n (some (o, d.length)) then s.hostAgain n ev
      else if !s.hostReady true (wordsOf o d.length) then s.hostStand n ev
      else s.hostPerform l n o d ev
/-- One word's part of a host read, and whether it was poisoned (R29); in an unarmed transient block, zeros (R168). -/
def State.hostGet (s : State) (o n : Nat) : (List Byte × Bool) × State :=
  if s.spent o then (((List.range n).map fun _ => 0, false), s)
  else
    let pa := s.atHome o
    let s := (s.call o).meet (keyOf o)
    let v := s.placeRead pa (keyOf o) n
    let bad := s.bad pa (keyOf o)
    let s1 := match bad with | some (.parity _) => s.countUncorr 6 | _ => s
    (((List.range n).map fun i => BitVec.ofNat 8 (v / 256 ^ i), bad.isSome), s1.placeRead' pa)
/-- `n` bytes of this package as the host reads them. -/
def State.hostRead (s : State) (o n : Nat) : (List Byte × Bool) × State :=
  (wordsOf o n).foldl (fun r w =>
    let a := max o w
    let x := r.2.hostGet a (min (o + n) (w + 8) - a)
    ((r.1.1 ++ x.1.1, r.1.2 || x.1.2), x.2)) (([], false), s)
/-- The completion of a read: poisoned data are all ones (R29). -/
def readDone (r : List Byte × Bool) : HostOut := if r.2 then .data (r.1.map fun _ => 0xFF) true else .data r.1 false
/-- A word of BAR 0 of a link's function: the package control window, the link window, the MSI-X table and its pending bit array;
what is not assigned reads as zero (R48). -/
def State.bar0Read (s : State) (l o : Nat) : Word :=
  if o < 0x100000 then s.ctlRead o
  else if o < 0x101000 then linkRead (s.link l) (o - 0x100000)
  else if 0x200000 ≤ o ∧ o < 0x200400 then (s.link l).msix ((o - 0x200000) / 8)
  else if o = 0x201000 then (s.link l).pending
  else 0
/-- Bytes of BAR 0. -/
def State.bar0Bytes (s : State) (l o n : Nat) : List Byte :=
  (List.range n).map fun i => BitVec.ofNat 8 ((s.bar0Read l (wordOf (o + i))).toNat / 256 ^ ((o + i) % 8))
/-- A read through BAR 4, under the number of its request (R50, R51). -/
def State.aperRead (s : State) (l off len n : Nat) : State :=
  let o := (s.link l).aperAt off
  if !s.hostOpen || !((wordsOf o len).all isPlace) then s.hostSend l .unsupported
  else if !s.hostReady false (wordsOf o len) then s.hostStand n (.hostApertureRead l off (.memory len))
  else
    let r := s.hostRead o len
    r.2.hostSend l (readDone r.1)
/-- `HOST_APERTURE_READ`: a read returns once every earlier posted write of its link is performed (R52): through BAR 4 (R50, R51), or
of BAR 0, which is readable from stage 2 on and in a shutdown (R23, R48, R74). An AtomicOp is answered Unsupported Request (R45). -/
def execHostApertureRead (l off : Nat) (rq : HostReq) (s : State) : Out :=
  .next <|
  if !s.boot.rails then s
  else
    let (n, s1) := s.hostNumber
    if (s1.link l).waits n none then s1.hostAgain n (.hostApertureRead l off rq)
    else
      match rq with
      | .atomic => s1.hostSend l .unsupported
      | .control len => if (s1.link l).up then s1.hostSend l (.data (s1.bar0Bytes l off len) false) else s1
      | .memory len => s1.aperRead l off len n

/-! ### BAR 2 (R50, R51) -/

/-- The sub-windows of BAR 2 (R50). -/
inductive SubWin | fill | empty | bits | reserved
deriving DecidableEq, Repr
/-- The sub-window that an offset in BAR 2 lies in. -/
def subWin (o : Nat) : SubWin :=
  if o / 2 ^ 32 % 4 = 0 then .fill else if o / 2 ^ 32 % 4 = 1 then .empty else if o / 2 ^ 32 % 4 = 2 then .bits else .reserved
/-- Whether a BAR 2 write is dropped and counted: not one aligned word, or a target outside HBM and the vaults (R51). -/
def feDrops (o : Nat) (data : List Byte) : Bool := o % 8 != 0 || data.length != 8 || !inMemory o
/-- A word is filled, or set empty, for the host, as STF or EMP does; in an unarmed transient block that is discarded (R50, R168, R177).
Of a poisoned block what is said at `hostPut` holds. -/
def State.feDo (s : State) (x : SubWin) (o : Nat) (data : List Byte) : State :=
  if s.spent o then s
  else match x with
  | .fill => ((s.call o).meetBlock (keyOf o)).fillWord (keyOf o) (BitVec.ofNat 64 (bytesNat data))
  | _ => ((s.call o).meet (keyOf o)).empty (keyOf o)
/-- A write to BAR 2 at an offset. In the FILL and EMPTY sub-windows it is a release for the posted writes that arrived before it (R52);
in the others it is dropped, and counted only for the cases of R51. -/
def State.feWrite (s : State) (l off : Nat) (data : List Byte) (ev : Instr) : State :=
  let x := subWin off
  if !s.boot.rails then s
  else if s.evNum = 0 then
    let o := (s.link l).feAt off
    if !s.hostOpen || feDrops o data then s.tlp.countDropped l
    else if x = .bits ∨ x = .reserved then s.tlp
    else s.tlp.post l (s.delay 0) o data ev
  else
    match (s.link l).posted.find? fun e => e.1 == s.evNum with
    | none => s
    | some (n, o, d) =>
      if (s.link l).waits n none then s.hostAgain n ev
      else if !s.hostReady true [o] then s.hostStand n ev
      else (s.unpost l n).feDo x o d
/-- `HOST_FILL_WRITE`: an STF at sys scope, at an offset from the FILL sub-window on; a write behind that sub-window does what R50 says
of the one it falls into (R50, R52, R177). -/
def execHostFillWrite (l off : Nat) (data : List Byte) (s : State) : Out := .next (s.feWrite l off data (.hostFillWrite l off data))
/-- `HOST_EMPTY_WRITE`: an EMP at sys scope, at an offset from the EMPTY sub-window on; the data is ignored. A write behind that
sub-window does what R50 says of the one it falls into (R50, R52). -/
def execHostEmptyWrite (l off : Nat) (data : List Byte) (s : State) : Out :=
  .next (s.feWrite l (2 ^ 32 + off) data (.hostEmptyWrite l off data))
/-- A word's bit as a read of the STATE sub-window gives it; of a poisoned word, all ones and poisoned; of an unarmed transient block,
empty (R29, R50, R168). -/
def State.bitRead (s : State) (o : Nat) : HostOut × State :=
  let st := (s.call o).meet (keyOf o)
  if s.spent o then (.data ((List.range 8).map fun _ => 0) false, s)
  else
    (readDone ((List.range 8).map fun i => if i = 0 ∧ s.full (keyOf o) = true then 1 else 0, st.poisoned (keyOf o)), st)
/-- A read of BAR 2 at an offset: the word as an ordinary load, its bit, or zero (R50). The manual gives reads of aligned words only: at
another offset the model answers with the word that holds it, or its bit (log entry 126). -/
def State.feRead (s : State) (l off : Nat) (ev : Instr) : State :=
  let o := (s.link l).feAt off
  if !s.boot.rails then s
  else
    let (n, s1) := s.hostNumber
    if (s1.link l).waits n none then s1.hostAgain n ev
    else if !s1.hostOpen || !inMemory o then s1.hostSend l .unsupported
    else
      match subWin off with
      | .fill =>
        if !s1.hostReady false [o] then s1.hostStand n ev
        else
          let r := s1.hostRead (wordOf o) 8
          r.2.hostSend l (readDone r.1)
      | .bits =>
        if !s1.hostReady false [o] then s1.hostStand n ev
        else
          let r := s1.bitRead (wordOf o)
          r.2.hostSend l r.1
      | _ => s1.hostSend l (.data ((List.range 8).map fun _ => 0) false)
/-- `HOST_FILL_READ`: the word as an ordinary load, at an offset from the FILL sub-window on; a read behind it gives what R50 says of
the sub-window it falls into. -/
def execHostFillRead (l off : Nat) (s : State) : Out := .next (s.feRead l off (.hostFillRead l off))
/-- `HOST_STATE_READ`: the word's bit, at an offset from the STATE sub-window on; a read behind it gives what R50 says of the
sub-window it falls into. -/
def execHostStateRead (l off : Nat) (s : State) : Out := .next (s.feRead l (2 * 2 ^ 32 + off) (.hostStateRead l off))

/-! ### BAR 0 (R48, R49, R53) -/

/-- `REGISTER_WRITE`: a write of a word to the package control window, a link window or an MSI-X table (R48), or the choice of a size of
BAR 4 (R47), by a TLP (R28). The event carries whole words, and one at an offset that is not that of a word does nothing: for BAR 0 the
manual gives no narrower or unaligned write (log entry 126). -/
def execRegisterWrite (w : RegWin) (off : Nat) (v : Word) (s : State) : Out :=
  .next <|
  if !s.boot.rails || off % 8 != 0 then s
  else
    match w with
    | .pkg => s.tlp.ctlWrite off v
    | .link l => s.tlp.linkWrite l off v
    | .msix l => s.tlp.onLink l fun x => x.msixWrite off v
    | .bar4 l => s.tlp.modLink l fun x => { x with bar4 := min (max v.toNat 34) 44 }

end Sys2Proof.Machine
end

