-- ==== Sys2Proof/Machine/Scalar.lean ====
section
/-!
DEFINITION. The slot A instructions (14_scalar R249 to R266). Each reads its sources as they stand before the issue tick and
has its result written after the latency of R250; none traps, none touches memory.
-/
namespace Sys2Proof.Machine

/-- `NOP_A` (R242). -/
def execNopA (s : State) : Out := .next s
/-- `ADD` (R253). -/
def execAdd (d a b : Reg) (s : State) : Out := s.alu2 1 d a b fun x y => x + y
/-- `SUB` (R253). -/
def execSub (d a b : Reg) (s : State) : Out := s.alu2 1 d a b fun x y => x - y
/-- `MUL` (R253). -/
def execMul (d a b : Reg) (s : State) : Out := s.alu2 3 d a b fun x y => x * y
/-- `MULH` (R253). -/
def execMulh (d a b : Reg) (s : State) : Out := s.alu2 3 d a b fun x y => mulhWord x y
/-- `MULHN` (R253). -/
def execMulhn (d a b : Reg) (s : State) : Out := s.alu2 3 d a b fun x y => mulhnWord x y
/-- `DIV` (R254). -/
def execDiv (d a b : Reg) (s : State) : Out := s.alu2 20 d a b fun x y => divWord x y
/-- `DIVN` (R254). -/
def execDivn (d a b : Reg) (s : State) : Out := s.alu2 20 d a b fun x y => divnWord x y
/-- `REM` (R254). -/
def execRem (d a b : Reg) (s : State) : Out := s.alu2 20 d a b fun x y => remWord x y
/-- `REMN` (R254). -/
def execRemn (d a b : Reg) (s : State) : Out := s.alu2 20 d a b fun x y => remnWord x y
/-- `AND` (R253). -/
def execAndR (d a b : Reg) (s : State) : Out := s.alu2 1 d a b fun x y => x &&& y
/-- `OR` (R253). -/
def execOrR (d a b : Reg) (s : State) : Out := s.alu2 1 d a b fun x y => x ||| y
/-- `XOR` (R253). -/
def execXorR (d a b : Reg) (s : State) : Out := s.alu2 1 d a b fun x y => x ^^^ y
/-- `ANDN` (R253). -/
def execAndn (d a b : Reg) (s : State) : Out := s.alu2 1 d a b fun x y => x &&& ~~~y
/-- `ORN` (R253). -/
def execOrn (d a b : Reg) (s : State) : Out := s.alu2 1 d a b fun x y => x ||| ~~~y
/-- `SHL` (R253). -/
def execShl (d a b : Reg) (s : State) : Out := s.alu2 1 d a b fun x y => x <<< shAmt y
/-- `SHR` (R253). -/
def execShr (d a b : Reg) (s : State) : Out := s.alu2 1 d a b fun x y => x >>> shAmt y
/-- `SAR` (R253). -/
def execSar (d a b : Reg) (s : State) : Out := s.alu2 1 d a b fun x y => x.sshiftRight (shAmt y)
/-- `ROL` (R253). -/
def execRol (d a b : Reg) (s : State) : Out := s.alu2 1 d a b fun x y => rolWord x y
/-- `MIN` (R253). -/
def execMinR (d a b : Reg) (s : State) : Out := s.alu2 1 d a b fun x y => if x.slt y then x else y
/-- `MAX` (R253). -/
def execMaxR (d a b : Reg) (s : State) : Out := s.alu2 1 d a b fun x y => if x.slt y then y else x
/-- `MINN` (R253). -/
def execMinn (d a b : Reg) (s : State) : Out := s.alu2 1 d a b fun x y => if x.ult y then x else y
/-- `MAXN` (R253). -/
def execMaxn (d a b : Reg) (s : State) : Out := s.alu2 1 d a b fun x y => if x.ult y then y else x
/-- `CEQ` (R253). -/
def execCeq (d a b : Reg) (s : State) : Out := s.alu2 1 d a b fun x y => boolWord (x == y)
/-- `CNE` (R253). -/
def execCne (d a b : Reg) (s : State) : Out := s.alu2 1 d a b fun x y => boolWord (x != y)
/-- `CLT` (R253). -/
def execClt (d a b : Reg) (s : State) : Out := s.alu2 1 d a b fun x y => boolWord (x.slt y)
/-- `CLE` (R253). -/
def execCle (d a b : Reg) (s : State) : Out := s.alu2 1 d a b fun x y => boolWord (x.sle y)
/-- `CLTN` (R253). -/
def execCltn (d a b : Reg) (s : State) : Out := s.alu2 1 d a b fun x y => boolWord (x.ult y)
/-- `CLEN` (R253). -/
def execClen (d a b : Reg) (s : State) : Out := s.alu2 1 d a b fun x y => boolWord (x.ule y)
/-- `SEL`: gd is read as a third source (R253). -/
def execSel (d a b : Reg) (s : State) : Out := s.alu2 1 d a b fun x y => if s.rd d = 0 then y else x
/-- `CLZ` (R253). -/
def execClz (d a : Reg) (s : State) : Out := s.alu1 1 d a fun x => clzWord x
/-- `CTZ` (R253). -/
def execCtz (d a : Reg) (s : State) : Out := s.alu1 1 d a fun x => ctzWord x
/-- `POPC` (R253). -/
def execPopc (d a : Reg) (s : State) : Out := s.alu1 1 d a fun x => popcWord x
/-- `SXB` (R253). -/
def execSxb (d a : Reg) (s : State) : Out := s.alu1 1 d a fun x => sxFrom 8 x
/-- `SXH` (R253). -/
def execSxh (d a : Reg) (s : State) : Out := s.alu1 1 d a fun x => sxFrom 16 x
/-- `SXW` (R253). -/
def execSxw (d a : Reg) (s : State) : Out := s.alu1 1 d a fun x => sxFrom 32 x
/-- `ZXB` (R253). -/
def execZxb (d a : Reg) (s : State) : Out := s.alu1 1 d a fun x => zxFrom 8 x
/-- `ZXH` (R253). -/
def execZxh (d a : Reg) (s : State) : Out := s.alu1 1 d a fun x => zxFrom 16 x
/-- `ZXW` (R253). -/
def execZxw (d a : Reg) (s : State) : Out := s.alu1 1 d a fun x => zxFrom 32 x
/-- `ADDW` (R253). -/
def execAddw (d a b : Reg) (s : State) : Out := s.alu2 1 d a b fun x y => sxFrom 32 (x + y)
/-- `SUBW` (R253). -/
def execSubw (d a b : Reg) (s : State) : Out := s.alu2 1 d a b fun x y => sxFrom 32 (x - y)
/-- `MULW` (R253). -/
def execMulw (d a b : Reg) (s : State) : Out := s.alu2 3 d a b fun x y => sxFrom 32 (x * y)
/-- `BEXT` (R256). -/
def execBext (d a : Reg) (pos len : BitVec 6) (s : State) : Out := s.alu1 1 d a fun x => bextWord x pos len
/-- `BINS`: gd is read as a source (R256). -/
def execBins (d a : Reg) (pos len : BitVec 6) (s : State) : Out := s.alu1 1 d a fun x => binsWord (s.rd d) x pos len
/-- `BSWP` (R253). -/
def execBswp (d a : Reg) (s : State) : Out := s.alu1 1 d a fun x => bswpWord x
/-- `ADDI` (R255). -/
def execAddi (d a : Reg) (i : BitVec 14) (s : State) : Out := s.alu1 1 d a fun x => x + sImm i
/-- `ANDI` (R255). -/
def execAndi (d a : Reg) (i : BitVec 14) (s : State) : Out := s.alu1 1 d a fun x => x &&& sImm i
/-- `ORI` (R255). -/
def execOri (d a : Reg) (i : BitVec 14) (s : State) : Out := s.alu1 1 d a fun x => x ||| sImm i
/-- `XORI` (R255). -/
def execXori (d a : Reg) (i : BitVec 14) (s : State) : Out := s.alu1 1 d a fun x => x ^^^ sImm i
/-- `SHLI` (R255). -/
def execShli (d a : Reg) (k : BitVec 6) (s : State) : Out := s.alu1 1 d a fun x => x <<< k.toNat
/-- `SHRI` (R255). -/
def execShri (d a : Reg) (k : BitVec 6) (s : State) : Out := s.alu1 1 d a fun x => x >>> k.toNat
/-- `SARI` (R255). -/
def execSari (d a : Reg) (k : BitVec 6) (s : State) : Out := s.alu1 1 d a fun x => x.sshiftRight k.toNat
/-- `CEQI` (R255). -/
def execCeqi (d a : Reg) (i : BitVec 14) (s : State) : Out := s.alu1 1 d a fun x => boolWord (x == sImm i)
/-- `CLTI` (R255). -/
def execClti (d a : Reg) (i : BitVec 14) (s : State) : Out := s.alu1 1 d a fun x => boolWord (x.slt (sImm i))
/-- `CLTNI` (R255). -/
def execCltni (d a : Reg) (i : BitVec 14) (s : State) : Out := s.alu1 1 d a fun x => boolWord (x.ult (sImm i))
/-- `MOVI` (R255). -/
def execMovi (d : Reg) (i : BitVec 14) (s : State) : Out := .next (s.wrA 1 d (sImm i))
/-- `MOVHI` (R255). -/
def execMovhi (d : Reg) (i : BitVec 14) (s : State) : Out := .next (s.wrA 1 d (sImm i <<< 32))
/-- `FADD` (R258). -/
def execFadd (d a b : Reg) (r : Rm) (s : State) : Out := s.aluF 4 d (faddRes (s.mode r) (s.rd a) (s.rd b))
/-- `FSUB` (R258). -/
def execFsub (d a b : Reg) (r : Rm) (s : State) : Out := s.aluF 4 d (fsubRes (s.mode r) (s.rd a) (s.rd b))
/-- `FMUL` (R258). -/
def execFmul (d a b : Reg) (r : Rm) (s : State) : Out := s.aluF 4 d (fmulRes (s.mode r) (s.rd a) (s.rd b))
/-- `FMA` (R258). -/
def execFma (d a b : Reg) (r : Rm) (s : State) : Out := s.aluF 4 d (fmaRes (s.mode r) (s.rd d) (s.rd a) (s.rd b))
/-- `FMS` (R258). -/
def execFms (d a b : Reg) (r : Rm) (s : State) : Out := s.aluF 4 d (fmsRes (s.mode r) (s.rd d) (s.rd a) (s.rd b))
/-- `FDIV` (R258). -/
def execFdiv (d a b : Reg) (r : Rm) (s : State) : Out := s.aluF 12 d (fdivRes (s.mode r) (s.rd a) (s.rd b))
/-- `FSQRT` (R258). -/
def execFsqrt (d a : Reg) (r : Rm) (s : State) : Out := s.aluF 12 d (fsqrtRes (s.mode r) (s.rd a))
/-- `FMIN` (R259). -/
def execFmin (d a b : Reg) (s : State) : Out := s.aluF 1 d (fminRes (s.rd a) (s.rd b))
/-- `FMAX` (R259). -/
def execFmax (d a b : Reg) (s : State) : Out := s.aluF 1 d (fmaxRes (s.rd a) (s.rd b))
/-- `FCEQ` (R260). -/
def execFceq (d a b : Reg) (s : State) : Out := s.aluF 1 d (fceqRes (s.rd a) (s.rd b))
/-- `FCLT` (R260). -/
def execFclt (d a b : Reg) (s : State) : Out := s.aluF 1 d (fcltRes (s.rd a) (s.rd b))
/-- `FCLE` (R260). -/
def execFcle (d a b : Reg) (s : State) : Out := s.aluF 1 d (fcleRes (s.rd a) (s.rd b))
/-- `FABS` (R261). -/
def execFabs (d a : Reg) (s : State) : Out := s.aluF 1 d (fabsRes (s.rd a))
/-- `FNEG` (R261). -/
def execFneg (d a : Reg) (s : State) : Out := s.aluF 1 d (fnegRes (s.rd a))
/-- `FCPYS` (R261). -/
def execFcpys (d a b : Reg) (s : State) : Out := s.aluF 1 d (fcpysRes (s.rd a) (s.rd b))
/-- `CVTIF` (R264). -/
def execCvtif (d a : Reg) (src : IntTy) (dst : FpTy) (r : Rm) (s : State) : Out := s.aluF 3 d (cvtifRes src dst (s.mode r) (s.rd a))
/-- `CVTFI` (R265). -/
def execCvtfi (d a : Reg) (src : FpTy) (dst : IntTy) (r : Rm) (s : State) : Out := s.aluF 3 d (cvtfiRes src dst (s.mode r) (s.rd a))
/-- `CVTFF` (R264). -/
def execCvtff (d a : Reg) (p : FfPair) (r : Rm) (s : State) : Out := s.aluF 3 d (cvtffRes p (s.mode r) (s.rd a))
/-- `PK2` (R266). -/
def execPk2 (d a : Reg) (f : NarrowFmt) (r : Rm) (s : State) : Out := s.aluF 3 d (pk2Res f (s.mode r) (s.rd a))
/-- `UNPK` (R266). -/
def execUnpk (d a : Reg) (f : NarrowFmt) (s : State) : Out := s.aluF 3 d (unpkRes f (s.rd a))

end Sys2Proof.Machine
end

