-- ==== Sys2Proof/Machine/Vaults.lean ====
section
/-!
DEFINITION. Events of accesses in flight, and of vault banks: arrival, return and acknowledgement; refresh and the patrol
scrubber (08_memory_hierarchy R160 to R164, R435, 11_core R211).
-/
namespace Sys2Proof.Machine

/-- An access by its number. -/
def State.accessOf (s : State) (id : Nat) : Option Access := s.accesses.find? fun a => a.id == id
/-- `ACCESS_ARRIVE`: an access comes to its executing agent (R435). -/
def execAccessArrive (s : State) : Out :=
  .next <| match s.accessOf s.evNum with
  | some a => s.accessArrive a
  | none => s
/-- `LOAD_RETURN`: an answer comes back: to the bundle that waits for it, or into its registers (R211). -/
def execLoadReturn (s : State) : Out :=
  .next <| match s.accessOf s.evNum with
  | none => s
  | some a =>
    match a.ans with
    | none => s
    | some ans =>
      if accWaits a.op then (s.dropAccess a.id).modBank a.core a.prio fun b => if b.key = a.fid then b.answer a.id ans else b
      else s.giveAnswer a ans
/-- `STORE_ACK`: a store's acknowledgement reaches its core; poison that it met traps (R29, R435). -/
def execStoreAck (s : State) : Out :=
  .next <| match s.accessOf s.evNum with
  | some a => match a.ans with
    | some ans => s.giveAnswer a ans
    | none => s
  | none => s

/-! ### Refresh (R163) -/

/-- Ticks between the refresh operations of a bank, from an interval in ms. -/
def refreshSpacing (ms : BitVec 10) : Nat := ms.toNat * 700000 / 8192
/-- A bank's refresh state. -/
def State.bankst (s : State) (b : Nat) : Bankst := Sparse.get (fun _ => Bankst.reset) s.banks b
/-- Change it. -/
def State.setBankst (s : State) (b : Nat) (x : Bankst) : State := { s with banks := Sparse.set (fun _ => Bankst.reset) s.banks b x }
/-- The tick from which a bank's next operation is counted, where refresh has begun. -/
def State.refreshBase (s : State) (b : Nat) : Option Nat := s.refreshFrom.map fun f => ((s.bankst b).last).getD f
/-- The spacing of a bank. -/
def State.spacing (s : State) (b : Nat) : Nat := refreshSpacing (s.layer (b / 4096)).interval
/-- `REFRESH_OP`: a bank's operation falls due: it occupies the bank for 40 ticks, closes its row, and the next follows (R158, R163). -/
def execRefreshOp (s : State) : Out :=
  .next <| match s.refreshBase s.evNum with
  | some p =>
    if p + s.spacing s.evNum ≤ s.tick then
      ((s.setBankst s.evNum { last := some s.tick, busy := some (s.tick + 40), row := none }).later 40 s.evNum .refreshOpEnd).later
        (s.spacing s.evNum) s.evNum .refreshOp
    else s
  | none => s
/-- `REFRESH_OP_END`: the bank is free again (R163). -/
def execRefreshOpEnd (s : State) : Out :=
  .next <| match (s.bankst s.evNum).busy with
  | some e => if e ≤ s.tick then s.setBankst s.evNum { (s.bankst s.evNum) with busy := none } else s
  | none => s
/-- The next operation of each bank of a layer, after its interval changed in this tick (R163). -/
def State.reRefresh (s : State) (i : Nat) : State :=
  (List.range 4096).foldl (fun st j =>
    match st.refreshBase (i * 4096 + j) with
    | some p => st.enqueue (max (p + st.spacing (i * 4096 + j)) st.tick) 0 .low (i * 4096 + j) .refreshOp
    | none => st) s
/-- INTERVAL of a layer is min(FEEDBACK, CAP) (R162); a change changes the spacing (R163). -/
def State.setInterval (s : State) (i : Nat) : State :=
  let l := s.layer i
  let n := if l.feedback.toNat < l.vcap.toNat then l.feedback else l.vcap
  if n = l.interval then s else (s.modLayer i fun x => { x with interval := n }).reRefresh i

/-! ### The patrol scrubber (R162, R164) -/

/-- FEEDBACK after a completed pass that found `now` errors, the pass before having found `prev` (R162). -/
def feedbackAfter (fb : BitVec 10) (now prev : Nat) : BitVec 10 :=
  if 32 < now then BitVec.ofNat 10 (max (fb.toNat / 2) 64)
  else if now = 0 ∧ prev = 0 then BitVec.ofNat 10 (min (fb.toNat * 2) 512)
  else fb
/-- A patrol pass of a layer is complete (R162). Before the first of a start no pass has been completed: for its count the model takes what
SCRUBC holds at reset, 0, so a first pass without errors doubles FEEDBACK; the manual does not say so (log entry 121). -/
def State.endPass (s : State) (i : Nat) : State :=
  (s.modLayer i fun x =>
    { x with scrubc := x.scrubNow, scrubNow := 0,
             feedback := feedbackAfter x.feedback x.scrubNow.toNat x.scrubc.toNat }).setInterval i
/-- Poison a block of 64 bytes (R27, R29). -/
def State.poisonBlock (s : State) (key : Nat) : State := (s.clearFlaw key).addPoison key
/-- Blocks of 64 bytes in a vault layer of 10 GiB; those of the vaults come first (R159). -/
def scrubBlocks : Nat := 167772160
/-- The vault-linear offset of a block of a layer, for one of its vaults; the reserved part has no address (R159). -/
def scrubKey (i blk : Nat) : Option Nat := if 64 * blk < 2 ^ 33 then some (linearBase + i * 2 ^ 33 + 64 * blk) else none
/-- The vault of a key and the offset in it. -/
def vaultAt (key : Nat) : Nat × Nat := ((key - linearBase) / 2 ^ 25, (key - linearBase) % 2 ^ 25)
/-- Whether a block lies in a transient page, and is skipped: an armed one's, or one that a launch maps as transient (R164, R165). -/
def State.scrubSkips (s : State) (key : Nat) : Bool := (s.blocks.any fun b => blockOf key == b.blk) || s.transientAt key
/-- What a scrub finds in a block: the error that is there, else what the event says. -/
def State.scrubFinds (s : State) (key : Nat) (r : ScrubResult) : ScrubResult :=
  match s.flaws.find? fun x => x.2.domain == 2 && x.1 == blockAt key with
  | some x => if x.2.hard then .uncorrectable else .corrected
  | none => r
/-- A scrub of a 64-byte block of a layer: block `blk` of its vaults, or, beyond them, of its reserved part (R28, R158, R159, R164). -/
def State.scrub (s : State) (i blk : Nat) (r : ScrubResult) : State :=
  let one (st : State) : State := (st.countCorr 2).modLayer i fun x => { x with scrubNow := satAdd x.scrubNow 1 }
  match scrubKey i blk with
  | none => (match r with | .clean => s | .corrected => one s | .uncorrectable => s.countUncorr 2)
  | some key =>
    if s.scrubSkips key then s
    else
      let s1 := s.openRow .vault key
      match s.scrubFinds key r with
      | .clean => s1
      | .corrected => one (s1.clearFlaw key)
      | .uncorrectable => (s1.countUncorr 2).poisonBlock key
/-- Whether the bank of a block is idle in this tick: no operation occupies it, and no access waits there. Of the reserved part, which
has no place in any bank that the manual gives, every tick is taken for idle (R164; log entry 121). -/
def State.scrubFree (s : State) (i blk : Nat) : Bool :=
  match scrubKey i blk with
  | none => true
  | some key =>
    let v := vaultAt key
    !s.bankBusy v.1 v.2 && !(s.accesses.any fun a => a.late && a.ans.isNone &&
      (match placeOf (offOf a.pa) with | .vault w o => vaultBank w o == vaultBank v.1 v.2 | _ => false))
/-- The bank of a block, or, of the reserved part, the first of its layer. -/
def scrubBank (i blk : Nat) : Nat :=
  match scrubKey i blk with
  | some key => vaultBank (vaultAt key).1 (vaultAt key).2
  | none => 4096 * i
/-- A pass of the scrubber reads block k of its layer ⌊k · 4 s / blocks⌋ after its start; passes follow one another from the tick at
which refresh began (R164 gives the 4 s; log entry 121). -/
def State.nextScrub (s : State) (i blk from_ : Nat) : State :=
  let start := from_ + (s.tick - from_) / 2800000000 * 2800000000
  let k := (blk + 1) % scrubBlocks
  let due := if k = 0 then start + 2800000000 else start + k * 2800000000 / scrubBlocks
  s.enqueue due 0 .low (2 * (from_ + 1)) (.scrubRead i k .clean (decide (k + 1 = scrubBlocks)))
/-- The scrub of a block is over; the last of a pass completes it (R162). -/
def State.scrubbed (s : State) (i blk : Nat) (r : ScrubResult) (last : Bool) : State :=
  if last then (s.scrub i blk r).endPass i else s.scrub i blk r
/-- `SCRUB_READ`: the scrubber reads a block in an idle tick of its bank, for which it waits, and after 4096 ticks without one it is
given an access (R164). The layer's own passes have an even number, by the tick from which they run, and go on with the next block; a
wait has an odd one, by its first tick. -/
def execScrubRead (i blk : Nat) (r : ScrubResult) (last : Bool) (s : State) : Out :=
  let own := s.evNum ≠ 0 && s.evNum % 2 == 0
  let since := if s.evNum % 2 = 1 then s.evNum / 2 else s.tick
  .next <|
  if own && s.refreshFrom ≠ some (s.evNum / 2 - 1) then s
  else
    let s1 := if own then s.nextScrub i blk (s.evNum / 2 - 1) else s
    if s.scrubFree i blk then s1.scrubbed i blk r last
    else if since + 4096 ≤ s.tick then s1.enqueue s.tick 0 .low (bitN last) (.scrubForced (scrubBank i blk) blk r)
    else s1.enqueue (s.tick + 1) 0 .low (2 * since + 1) (.scrubRead i blk r last)
/-- `SCRUB_FORCED`: the one access that a bank gives the scrubber after 4096 ticks without an idle one; it delays what waits there by a
closed-row time at most, 22 ticks (R161, R164). -/
def execScrubForced (b blk : Nat) (r : ScrubResult) (s : State) : Out :=
  let s1 := s.scrubbed (b / 4096) blk r (s.evNum == 1)
  .next <| match scrubKey (b / 4096) blk with
  | none => s1
  | some _ =>
    let n := scrubBank (b / 4096) blk
    let till := max (((s1.bankst n).busy).getD 0) (s1.tick + 22)
    s1.setBankst n { (s1.bankst n) with busy := some till }
/-- The scrubbers of all layers begin their passes (R164). -/
def State.startScrub (s : State) : State :=
  (List.range 32).foldl (fun st i => st.enqueue st.tick 0 .low (2 * (st.tick + 1)) (.scrubRead i 0 .clean false)) s

end Sys2Proof.Machine
end

