-- ==== Sys2Proof/Machine/Thermal.lean ====
section
/-!
DEFINITION. Thermal sensors, hard trips and the shutdown; allowance windows; the repair of vertical lanes (01_package R20 to
R25, R31 to R33, 21_throttling R373 to R377, 08_memory_hierarchy R162, R163, R167).
-/
namespace Sys2Proof.Machine

/-! ### Sensors (R20, R21) -/

/-- Entry thresholds of zones 1 to 3, in 1/16 °C (R21). -/
def zoneEntry : List (Nat × Int) := [(1, 0x550), (2, 0x5F0), (3, 0x690)]
/-- Exit thresholds of zones 1 to 3: 83, 93 and 100 °C (R21). -/
def zoneExit : List (Nat × Int) := [(1, 1328), (2, 1488), (3, 1600)]
/-- The highest zone up to `top` whose threshold a sample exceeds, or 0. -/
def highestZone (l : List (Nat × Int)) (temp : Int) (top : Nat) : Nat :=
  (l.filter fun x => decide (x.1 ≤ top) && decide (x.2 < temp)).foldl (fun m x => max m x.1) 0
/-- Zone of a sensor after a sample, from its present zone (R21). -/
def zoneAfter (temp : Int) (z : Nat) : Nat := max (highestZone zoneEntry temp 3) (highestZone zoneExit temp z)
/-- Compute layer 4t + k above a vault-layer sensor, if a sensor is one (R20). -/
def vaultSensorLayer (j : Nat) : Option Nat :=
  if j < 72 ∧ j % 9 % 2 = 1 then some (4 * (j / 9) + j % 9 / 2) else none
/-- Thermal cap on the refresh interval, in ms, of a zone (R162). -/
def capOfZone (z : Nat) : BitVec 10 := if z = 0 then 256 else if z = 1 then 128 else 64

/-- The armed blocks of a vault layer take half the retention, counted from their arming (R167). -/
def State.shortenBlocks (s : State) (i : Nat) : State :=
  let f (b : Block) : Block :=
    if b.blk / 131072 = i ∧ s.tick < b.deadline then { b with deadline := max s.tick (min b.deadline (b.arm + b.life * 350)) } else b
  let s1 := { s with blocks := s.blocks.map f }
  (s1.blocks.filter fun b => b.blk / 131072 == i).foldl (fun st b => st.enqueue b.deadline 0 .low b.blk .transientExpiry) s1
/-- A copy whose layer has entered zone 1 or above: the blocks that it has still to arm take the shorter deadline (R167). -/
def Copy.heat (i : Nat) (x : Copy) : Copy := { x with hot := x.hot ||| BitVec.ofNat 32 (2 ^ i) }
/-- The copies under way, those of pre-empted launches among them, note that a layer has entered zone 1 or above (R167). -/
def State.heatCopies (s : State) (i : Nat) : State :=
  { s with cores := s.cores.map fun x => (x.1, { x.2 with copies := x.2.copies.map (Copy.heat i) }),
           saved := s.saved.map fun x => { x with copies := x.copies.map (Copy.heat i) } }
/-- A vault-layer sensor changes its zone (R21, R162, R163, R167). -/
def State.vaultZone (s : State) (i old new : Nat) : State :=
  let s1 := (s.modLayer i fun x => { x with vcap := capOfZone new }).setInterval i
  if old = 0 ∧ new ≠ 0 then (s1.shortenBlocks i).heatCopies i else s1

/-! ### The shutdown (R23) -/

/-- Every firing, launch, message and access of the package is discarded, and its cores are busy no longer; memory is kept, with the F/E
bits of pages in host windows (R23, R77, R375). Watches of other packages are dropped with the rest, before any block expires: the manual does not say whether a
warm start notifies them, and in the model it does not (log entry 84). -/
def State.loseAll (s : State) : State :=
  { s with
    cores := s.cores.map fun x => (x.1, { x.2.freed with tlb := [] }), quadTlb := [], accesses := [], msgs := [], park := [],
    transit := [], joins := [], foldOps := [], launches := [], saved := [], tokens := [], shoots := [],
    replicas := [], podTokens := [], watches := [], devPend := [], masterVacant := false,
    layers := s.layers.map fun x => { x with used := x.usage s.tick, runs := [] } }
/-- The package is to remove its rails: START_STATUS is recorded in flash, and they fall, within 2 ms (R71). READY is cleared as this
begins: the package serves no queue from then on, and START_STATUS does not say READY when the record is restored (log entry 120).
What the package does between a request for a cold start and the fall of the rails the manual does not say: in the model, its cores
go on, and further requests are dropped (log entry 120). -/
def State.goDown (s : State) (w : Why) : State :=
  let st : StartStatus := { s.boot.status with ready := false }
  ({ s with boot := { s.boot with down := true, why := w, running := false, status := st } }.delayed).later (s.delay 1400000) 0
    .selfRailRemoval
/-- A code of START_STATUS is written with its detail (R76). -/
def State.setCode (s : State) (code : BitVec 8) (detail : Nat) : State :=
  { s with boot := { s.boot with status := { s.boot.status with code := code, detail := BitVec.ofNat 16 detail } } }
/-- A sample above 115 °C: every core stops, every launch is lost, CODE takes THERMAL (R23, R76). -/
def State.thermalShutdown (s : State) (j : Nat) : State :=
  if s.boot.down && s.boot.why == .thermal then s
  else
    let s1 := (s.loseAll).setCode 7 j
    if s.boot.down then { s1 with boot := { s1.boot with why := .thermal } } else s1.goDown .thermal
/-- The package's own sampling goes on: the next sensor in the same tick, and the first again 1400 ticks after it was sampled; what a
sensor will measure is free (R20; log entry 119). -/
def State.nextSample (s : State) (j : Nat) : State :=
  let k := (j + 1) % 84
  (s.enqueueFirst (if k = 0 then s.tick + 1400 else s.tick) 0 .low 1 (.sensorSample k (s.freeVal.setWidth 16))).bumpFree
/-- A sensor takes a sample (R20 to R23). -/
def State.sample (s : State) (j : Nat) (temp : BitVec 16) : State :=
  let old := (s.sensor j).zone.toNat
  let z := zoneAfter temp.toInt old
  let x : Sensor := { temp := temp, valid := true, zone := BitVec.ofNat 2 z, stamp := BitVec.ofNat 32 s.timebase }
  let s1 := { s with sensors := vset s.sensors j x }
  let s2 := match vaultSensorLayer j with
    | some i => if z = old ∧ (s.layer i).vcap = capOfZone z then s1 else s1.vaultZone i old z
    | none => s1
  if 1840 < temp.toInt then s2.thermalShutdown j else s2
/-- `SENSOR_SAMPLE`: a sensor takes a sample, in the package's own sampling (number 1) or besides it (R20 to R23). -/
def execSensorSample (j : Nat) (temp : BitVec 16) (s : State) : Out :=
  .next <|
  if !s.boot.rails || decide (84 ≤ j) then s
  else if s.evNum = 1 then (s.sample j temp).nextSample j
  else s.sample j temp

/-! ### Allowance windows (R25, R373 to R376) -/

/-- Thermal policy value of a zone (R373). -/
def policyOf (z : Nat) : Nat := if z = 0 then 0xFF else if z = 1 then 0x10 else if z = 2 then 0x04 else 0
/-- The smaller of a layer's CAP and its policy value (R25, R373). -/
def State.allowCeil (s : State) (i : Nat) : Nat :=
  min (s.layer i).cap.toNat (policyOf (max (s.sensor (computeSensor i)).zone.toNat (s.sensor (vaultSensor i)).zone.toNat))
/-- The value that keeps MEAS within LIMIT, for a layer (R25; log entry 5). -/
def State.powerValue (s : State) (i : Nat) : Nat := (Config.powerAllowance s.pwrMeas s.pwrLimit i).toNat
/-- A layer in a new window: its allowance, and no usage (R375, R376). -/
def Layer.newWindow (x : Layer) (allow t : Nat) : Layer :=
  { x with allow := BitVec.ofNat 8 allow, used := 0, overran := false,
           runs := (x.runs.filter fun r => decide (t < r.2)).map fun r => (max r.1 t, r.2) }
/-- `ALLOWANCE_WINDOW_BOUNDARY`: every layer's allowance is set and its usage cleared; the next boundary follows 44,800 ticks
later, with a measured power that is free (R25, R373, R375). -/
def execAllowanceWindowBoundary (meas : BitVec 16) (s : State) : Out :=
  .next <|
  if s.evNum ≠ s.epoch ∨ s.timebase % 44800 ≠ 0 ∨ s.boot.rails = false then s
  else
    let s1 := { s with pwrMeas := meas }
    let s2 := { s1 with limiting := (List.range 32).any fun i => decide (s1.powerValue i < s1.allowCeil i) }
    let s3 := (List.range 32).foldl (fun st i =>
      (st.modLayer i fun x => x.newWindow (min (s1.allowCeil i) (s1.powerValue i)) s.tick).watchUsage i) s2
    (s3.enqueueFirst (s.tick + 44800) 0 .low s.epoch (.allowanceWindowBoundary (s3.freeVal.setWidth 16))).bumpFree
/-- `ALLOWANCE_OVERRUN`: a limited layer's usage has reached its budget (R375). -/
def execAllowanceOverrun (s : State) : Out :=
  let l := s.layer s.evNum
  .next (if s.evNum < 32 ∧ l.allow ≠ 0 ∧ l.allow ≠ 0xFF ∧ l.budget ≤ l.usage s.tick then
    s.modLayer s.evNum fun x => { x with overran := true } else s)

/-! ### Vertical lanes (R31 to R33) -/

/-- A path. -/
def State.path (s : State) (p : Nat) : Path := Sparse.get (fun _ => Path.reset) s.paths p
/-- Put a path. -/
def State.setPath (s : State) (p : Nat) (x : Path) : State := { s with paths := Sparse.set (fun _ => Path.reset) s.paths p x }
/-- The compute layer that owns a path (R33). -/
def pathLayer (p : Nat) : Nat := p % 8192 / 256
/-- Whether there is a path of a number: C3 reaches its far vault over the spine (R13). -/
def pathExists (p : Nat) : Bool := decide (p < 8192) || (decide (p < 16384) && decide (p % 8192 / 256 % 4 ≠ 3))
/-- Whether an access that left its core before a tick is on a path: on its way to the vault, or not yet over there (R32). -/
def State.onPath (s : State) (p t : Nat) : Bool :=
  s.accesses.any fun a => a.agent == .vault && a.ans.isNone && decide (a.sent < t) && s.inOrder a &&
    (match placeOf (offOf a.pa) with | .vault v _ => pathOf a.core v == some p | _ => false)
/-- The repair of a path with failing lanes begins: it is quiesced, and drains (R32). -/
def State.repairPath (s : State) (p : Nat) : State :=
  let x := s.path p
  if x.quiesced || x.failing.isEmpty then s
  else (s.setPath p { x with quiesced := true, since := s.tick }).later 0 p .laneSpareSwap
/-- A lane of a path is marked failing; with no spare lane left the path is exhausted and its layer fenced (R31, R33). -/
def State.laneFails (s : State) (p lane : Nat) : State :=
  let x := s.path p
  if pathExists p = false ∨ 152 ≤ lane ∨ x.failing.contains lane = true ∨ x.exhausted = true then s
  else if x.spares ≤ x.failing.length then (s.setPath p { x with exhausted := true }).fenceLayer (pathLayer p)
  else (s.setPath p { x with failing := x.failing ++ [lane] }).repairPath p
/-- `LANE_FAILING`: a lane's CRC errors have exceeded 16 in 2^20 beats (R31). -/
def execLaneFailing (path lane : Nat) (s : State) : Out := .next (s.laneFails path lane)
/-- The tick of the margin test of a path in a second of the timebase: the tests of all paths are spread evenly over it; the manual
does not say when in the second a path is tested (R31; log entry 121). -/
def marginTick (sec p : Nat) : Nat := sec * 700000000 + p * 700000000 / 16384
/-- The margin tests of a start go on with the next path (R31). -/
def State.nextMargin (s : State) (p : Nat) : State :=
  let sec := s.timebase / 700000000
  let due := if p + 1 < 16384 then marginTick sec (p + 1) else marginTick (sec + 1) 0
  s.enqueue (s.epoch + due) 0 .low s.epoch (.laneMarginTest ((p + 1) % 16384) [])
/-- Whether a path is idle: nothing is on it, and it is not under repair (R31). -/
def State.pathIdle (s : State) (p : Nat) : Bool := !(s.path p).quiesced && !s.onPath p (s.tick + 1)
/-- The lanes that fail a margin test: those of an outside report, or, in the package's own test, the lane of the next entry of the
schedule of transmission errors (R31; log entry 105). -/
def State.marginBad (s : State) (own : Bool) (bad : List Nat) : List Nat :=
  if own then (match s.noise.headD 0 with | 0 => [] | n + 1 => [n % 152]) else bad
/-- `LANE_MARGIN_TEST`: an idle path is tested, and lanes that fail are marked; one that is not idle is tested as soon as it is. The
package's own tests, with the start they belong to as their number, go on with the next path (R31). -/
def execLaneMarginTest (path : Nat) (bad : List Nat) (s : State) : Out :=
  let own := s.evNum ≠ 0 && s.evNum == s.epoch
  let s1 := if own && s.evPrio == .low && s.boot.rails then s.nextMargin path else s
  .next <|
  if !pathExists path || !s.boot.rails || (s.evNum ≠ 0 && s.evNum ≠ s.epoch) then s1
  else if !s.pathIdle path then s1.enqueue (s.tick + 1) 0 .high s.evNum (.laneMarginTest path bad)
  else
    let s2 := (s.marginBad own bad).foldl (fun st b => st.laneFails path b) s1
    if own then s2.heard else s2
/-- `LANE_SPARE_SWAP`: once the path has drained, or 200 ticks after its quiesce, spare lanes take the failing ones' places and are
trained in 64 ticks (R32). -/
def execLaneSpareSwap (s : State) : Out :=
  let x := s.path s.evNum
  .next <|
  if !x.quiesced || x.failing.isEmpty then s
  else if s.onPath s.evNum x.since && decide (s.tick < x.since + 200) then s.later 1 s.evNum .laneSpareSwap
  else (s.setPath s.evNum { x with spares := x.spares - x.failing.length, failing := [] }).later 64 s.evNum .laneRepairRelease
/-- `LANE_REPAIR_RELEASE`: the path is released; lanes that failed meanwhile are repaired next (R32). -/
def execLaneRepairRelease (s : State) : Out :=
  let x := s.path s.evNum
  .next (if x.quiesced then (s.setPath s.evNum { x with quiesced := false }).repairPath s.evNum else s)

end Sys2Proof.Machine
end

