-- ==== Sys2Proof/Machine/Startup.lean ====
section
/-!
DEFINITION. Rails, start stages, failed starts, warm starts, recovery, firmware and identity (04_startup R70 to R80). What a
stage finds, and when it finishes, comes from outside: the self tests and trainings of the parts.
-/
namespace Sys2Proof.Machine

/-! ### Status, stages and their limits (R70, R74) -/

/-- Change START_STATUS. -/
def State.modStatus (s : State) (f : StartStatus → StartStatus) : State := { s with boot := { s.boot with status := f s.boot.status } }
/-- Limit of a stage in ticks (R74). -/
def stageLimit (n : Nat) : Nat :=
  700000 * (if n = 0 then 50 else if n = 1 then 400 else if n = 2 then 200 else if n = 3 then 2000 else if n = 4 then 100 else 300)
/-- A stage begins; it is late in the tick behind its limit (R74). -/
def State.beginStage (s : State) (n : Nat) : State :=
  (({ s with boot := { s.boot with since := s.tick } }).modStatus fun x => { x with stage := BitVec.ofNat 4 n }).enqueueLast
    (s.tick + stageLimit n + 1) 0 .low s.tick .stageTimeout
/-- Whether a stage is in progress. -/
def State.starting (s : State) : Bool := s.boot.rails && !s.boot.down && s.boot.running

/-! ### The rails (R71) -/

/-- Events that are about launches, firings, cores and their traffic: they are gone with them. -/
def ofWork : Instr → Bool
  | .launchStart _ | .launchResume _ | .launchComplete _ | .preemptSave _ | .cancelCoresFreed _ | .grainBlockClaim _ _
  | .grainReportBatch _ _ | .tokenRequest _ | .translationRequest _ _ _ | .barrierRelease _ _ _ | .barphWithdraw _ _
  | .astepWrite _ _ | .afldWrite _ _ | .messageAnswerArrive _ _ _ | .startMessageArrive | .grainClaim | .shootdownArrive
  | .shootdownComplete | .entryStart | .messageArrive | .sendRetry | .fcrDeliver | .holdBufferOffer | .feAttempt | .wakeAppend
  | .transientExpiry | .migrationDepart | .fcrArrive | .resumeEntryDue | .watchdogExpiry | .coreSleep | .coreWake
  | .accessArrive | .loadReturn | .storeAck | .copyDataPhase | .copyCompletionFill | .ringPushArrive | .ringSlotFreed
  | .barrierTimeout | .sleepExpiry | .foldJoinComplete | .foldOpStart | .foldRoundEnd | .foldOpComplete | .accOpComplete
  | .rewardBroadcastArrive | .broadcastRetry | .rewardApplyStart | .rewardApplyDone | .arrayLastPass | .masterElectionDone => true
  | _ => false
/-- Events of what the package does by itself while it has power: the sampling of sensors, refresh, scrubbing, margin tests (R20, R31,
R163, R164). -/
def ofPower : Instr → Bool
  | .sensorSample _ _ | .refreshOp | .refreshOpEnd | .scrubRead _ _ _ _ | .scrubForced _ _ _ | .laneMarginTest _ _ | .laneSpareSwap
  | .laneRepairRelease => true
  | _ => false
/-- The package without power: registers and memory are lost; flash and fuses stay, and so do the vault blocks that no write mends and
the spare rows that are left (R75; log entry 121); what has been sent has been sent, and what outside parties will do is still to
come. -/
def State.powerOff (s : State) : State :=
  { State.reset with
    tick := s.tick, epoch := s.tick, free := s.free, delays := s.delays, noise := s.noise, nextId := s.nextId, dead := s.dead,
    layers := s.layers.map fun x => { Layer.reset with spareRows := x.spareRows },
    queue := s.queue.filter fun e => !ofWork e.ev && !ofPower e.ev,
    links := Vector.ofFn fun i => { PcieLink.reset with out := (s.link i.val).out },
    span := Vector.ofFn fun i => { SpanLink.reset with sent := (s.spanLink i.val).sent },
    boot := { s.boot with rails := false, down := false, running := false, warmRun := false, service := [],
                          fencedLayers := 0, fencedTowers := 0 } }
/-- A cold start burns a step of the identity counter: signing resumes at the step's base, or at the stored index above it; with
no step left the counter is exhausted (R80). -/
def State.burnStep (s : State) : State :=
  if 4096 ≤ s.boot.idStep then ({ s with boot := { s.boot with idNext := 2 ^ 40 } }).setCode 9 0
  else
    let base := s.boot.idStep * 2 ^ 28
    { s with boot := { s.boot with idStep := s.boot.idStep + 1,
                                   idNext := if s.boot.flashOk then max s.boot.idNext base else base } }
/-- The rails rise: START_STATUS is restored from the flash record, or the start is a power-on; stage 0 begins, and the sensors are
sampled from 1400 ticks on (R20, R71, R74). -/
def State.rise (s : State) (readable : Bool) : State :=
  let st : StartStatus := if s.boot.self && readable then s.boot.flash else StartStatus.reset
  let s1 := s.powerOff
  let s2 := { s1 with boot := { s1.boot with rails := true, running := true, status := st, flashOk := readable,
                                             self := if readable then false else s.boot.self } }
  let s3 := (s2.burnStep).beginStage 0
  (s3.enqueueFirst (s3.tick + 1400) 0 .low 1 (.sensorSample 0 (s3.freeVal.setWidth 16))).bumpFree
/-- `RAIL_RISE` (R71). -/
def execRailRise (readable : Bool) (s : State) : Out := .next (if s.boot.rails then s else s.rise readable)
/-- `SELF_RAIL_REMOVAL`: the flash record is written with SELF = 1 and the rails fall; a failed start is repeated after 1 s, and
a cold start goes on with the rise of the rails (R71, R76). -/
def execSelfRailRemoval (s : State) : Out :=
  .next <|
  if s.boot.rails && s.boot.down then
    let s1 := s.powerOff
    let s2 := { s1 with boot := { s1.boot with flash := s.boot.status, self := true } }
    match s.boot.why with
    | .failed => s2.later 700000000 0 .startRetry
    | .cold => s2.delayed.later (s2.delay 0) 0 (.railRise s2.boot.flashOk)
    | .thermal => s2
  else s
/-- `BOARD_RAIL_REMOVAL`: the board removes the rails, with no record of it (R71). -/
def execBoardRailRemoval (s : State) : Out := .next (if s.boot.rails then s.powerOff else s)
/-- `START_RETRY`: a failed start is repeated (R76). -/
def execStartRetry (s : State) : Out :=
  .next (if !s.boot.rails && s.boot.why == .failed then s.rise s.boot.flashOk else s)

/-! ### A failed start (R76) -/

/-- A start fails: ATTEMPTS counts it, its code is recorded, and the rails are removed (R76). -/
def State.failStart (s : State) (code : BitVec 8) (detail : Nat) : State :=
  ((s.modStatus fun x => { x with attempts := satAdd x.attempts 1 }).setCode code detail).goDown .failed
/-- `STAGE_TIMEOUT`: a stage has exceeded its limit (R74). -/
def execStageTimeout (s : State) : Out :=
  let n := s.boot.status.stage.toNat
  .next (if s.starting && s.boot.since == s.evNum && decide (s.boot.since + stageLimit n < s.tick) then s.failStart 6 n else s)

/-! ### Firmware (R78, R79) -/

/-- Whether a slot's signature verifies: it was made with the key whose public part is fused, over these images and this version (R79;
log entry 120). -/
def Start.verifies (b : Start) (x : FwImage) : Bool :=
  x.sig == { key := b.fusedKey, version := x.version, boot := x.boot, service := x.service }
/-- Whether a firmware image is accepted (R79). -/
def Start.accepts (b : Start) (x : FwImage) : Bool := b.verifies x && decide (b.minVersion.toNat ≤ x.version.toNat)
/-- Accepting an image raises the minimum version (R79). -/
def Start.raise (b : Start) (x : FwImage) : Start := if b.minVersion.toNat < x.version.toNat then { b with minVersion := x.version } else b
/-- The two slots in the order in which they are tried: the higher version first; of equal versions, which the manual does not order,
the model takes slot A first (R79; log entry 120). -/
def Start.slots (b : Start) : List FwImage :=
  if b.slotA.version.toNat < b.slotB.version.toNat then [b.slotB, b.slotA] else [b.slotA, b.slotB]
/-- DETAIL of FW_SIG: the image of the slot tried first that its signature does not cover; where it covers both, so that the key or
the version is wrong, which image is named is free (R76; log entry 120). -/
def State.badImage (s : State) : Nat :=
  match s.boot.slots.head? with
  | some x => if x.sig.boot ≠ x.boot then 0 else if x.sig.service ≠ x.service then 1 else s.freeVal.toNat % 2
  | none => 0
/-- Stage 1 verifies the slots: the first that is accepted runs, and its service image is kept for stage 5; else the start fails. DETAIL
of FW_ROLLBACK has 16 bits and a version 32: the model keeps the low 16, and where both signatures verify it reports the version that
was tried first, the higher one (R76, R79; log entry 120). -/
def State.verifyFw (s : State) : State × Bool :=
  match s.boot.slots.find? s.boot.accepts with
  | some x => ({ s with boot := { (s.boot.raise x) with service := x.service } }, true)
  | none =>
    match s.boot.slots.find? s.boot.verifies with
    | some x => (s.failStart 3 x.version.toNat, false)
    | none => (s.bumpFree.failStart 2 s.badImage, false)
/-- `DOE_FIRMWARE_IMAGE`: in recovery mode an image that verifies is written to a flash slot (R78, R79). It counts as accepted then, and
raises the minimum version, before a start has tried the slot: R79 speaks of accepting a slot, and R78 does not say whether the write
is that (log entry 120). -/
def execDoeFirmwareImage (slot : Bool) (img : FwImage) (s : State) : Out :=
  .next <|
  if s.boot.rails && !s.boot.down && s.boot.status.recovery && s.boot.accepts img then
    let b := s.boot.raise img
    { s with boot := if slot then { b with slotB := img } else { b with slotA := img } }
  else s

/-! ### Stages (R73 to R75) -/

/-- Layers and towers that fail in a stage are fenced, and recorded in START_FENCE (R73, R74). -/
def State.fenceStart (s : State) (ls : BitVec 32) (ts : BitVec 8) : State :=
  let bad (i : Nat) : Bool := ls.getLsbD i || ts.getLsbD (i / 4)
  let s1 := (List.range 32).foldl (fun st i => if bad i then st.modLayer i fun x => { x with fenced := true } else st) s
  let whole (t : Nat) : Bool := (List.range 4).all fun k => (s1.layer (4 * t + k)).fenced
  let tw := (List.range 8).foldl (fun n t => if whole t then n + 2 ^ t else n) 0
  let newL := (List.range 32).foldl (fun n i => if bad i then n + 2 ^ i else n) 0
  { s1 with fencedTowers := BitVec.ofNat 8 tw,
            boot := { s1.boot with
              fencedLayers := s1.boot.fencedLayers ||| BitVec.ofNat 32 newL,
              fencedTowers := s1.boot.fencedTowers ||| (BitVec.ofNat 8 tw &&& ~~~s.fencedTowers) } }
/-- Stage 2: both PCIe links have trained. -/
def State.trainPcie (s : State) : State := (s.modLink 0 fun x => { x with up := true }).modLink 1 fun x => { x with up := true }
/-- Stage 3: span links have trained at full width; FEEDBACK is set to 256 (R34, R162). -/
def State.calibrate (s : State) : State :=
  let s1 := (List.range 16).foldl (fun st l => st.modSpan l fun x => { x with width := 8, down := false }) s
  (List.range 32).foldl (fun st i => (st.modLayer i fun x => { x with feedback := 256 }).setInterval i) s1
/-- The row of a vault layer that a block lies in: bank and row (R158). -/
def rowOfKey (key : Nat) : Nat × Nat := (vaultBank (vaultAt key).1 (vaultAt key).2, vaultRow (vaultAt key).2)
/-- Vault blocks of a layer that are still uncorrectable after they have been written: their rows are mapped to spare rows, in the
order of their blocks, as far as there are any; a layer without a spare row left for one fences the compute layer above it, and the block stays as it
is (R75). -/
def State.mendRows (s : State) (i : Nat) : State :=
  let bad := s.dead.filter fun k => (vaultAt k).1 / 256 == i
  if bad.isEmpty then s
  else
    let rows := (bad.map rowOfKey).eraseDups
    let mended := rows.take (s.layer i).spareRows
    let stay := bad.filter fun k => !mended.contains (rowOfKey k)
    let s1 := { s with dead := s.dead.filter fun k => !((vaultAt k).1 / 256 == i && mended.contains (rowOfKey k)),
                       flaws := s.flaws ++ stay.map fun k => (blockAt k, (⟨2, true⟩ : Flaw)) }
    let s2 := s1.modLayer i fun x => { x with spareRows := x.spareRows - mended.length }
    if stay.isEmpty then s2 else s2.fenceStart (BitVec.ofNat 32 (2 ^ i)) 0
/-- Stage 4: memory initialisation, and the beginning of refresh and scrubbing (R75, R163, R164). -/
def State.initMemory (s : State) : State :=
  let s0 := s.loseAll
  let s1 := { s0 with mem := [], empties := [], poison := [], wpoison := [], flaws := [], cores := [], blocks := [], planes := [],
                      history := [], refreshFrom := some s.tick, layers := s0.layers.map fun x => { x with planeUsed := 0 } }
  let s2 := (List.range 2).foldl (fun st l => st.modLink l fun x =>
    { x with queues := Vector.ofFn fun i => { (x.queue i.val) with en := false } }) s1
  let s3 := (List.range 32).foldl State.mendRows s2
  ((List.range 32).foldl State.reRefresh s3).startScrub
/-- Every service core loads its verified firmware: the service image, through the code checker (R74, R216, R217). One image serves
all four roles: the manual names one service image and no parts of it (log entry 120). -/
def State.loadFirmware (s : State) : State :=
  (List.range 128).foldl (fun st j =>
    (s.boot.service.take 8192).zipIdx.foldl (fun st' w => st'.codeStore (8192 + j) w.2 w.1) st) s
/-- Layers fenced in START_FENCE (R76). -/
def fenceCount (m : BitVec 32) : Nat := ((List.range 32).filter fun i => m.getLsbD i).length
/-- Stage 5 is over: the service cores hold their firmware, the timebase stands at 0, READY is set, WARM tells the kind of the start,
ATTEMPTS clears, FENCED is reported; windows and margin tests begin (R17, R31, R70, R74, R76, R373). -/
def State.becomeReady (s : State) : State :=
  let n := fenceCount s.boot.fencedLayers
  let s0 := s.loadFirmware
  let s1 := { s0 with epoch := s.tick, masterVacant := false, boot := { s0.boot with running := false } }
  let s2 := s1.modStatus fun x => { x with stage := 6, ready := true, attempts := 0, warm := s.boot.warmRun }
  let s3 := if n = 0 then s2 else s2.setCode 8 n
  let s4 := s3.enqueue s.tick 0 .low s.tick (.laneMarginTest 0 [])
  (s4.enqueueFirst s.tick 0 .low s.tick (.allowanceWindowBoundary (s4.freeVal.setWidth 16))).bumpFree
/-- Failures that a stage itself reports, with a DETAIL that they may have: RAIL with one of the five rails, FLASH and NO_TOWER with 0
(R76). -/
def stageFailure (x : BitVec 8 × BitVec 16) : Bool :=
  (x.1 == 1 && decide (x.2.toNat ≤ 4)) || ((x.1 == 4 || x.1 == 5) && x.2 == 0)
/-- What a stage does as it finishes, and whether the start goes on. -/
def State.endStage (s : State) (n : Nat) : State × Bool :=
  match n with
  | 1 => s.verifyFw
  | 2 => (s.trainPcie, true)
  | 3 => (s.calibrate, true)
  | 4 => (s.initMemory, true)
  | 5 => (s.becomeReady, true)
  | _ => (s, true)
/-- The stage behind one: a warm start runs 2 and 5, recovery 0 and 2 (R74, R77, R78). -/
def nextStage (warm recovery : Bool) (n : Nat) : Option Nat :=
  if n = 5 then none else if recovery then (if n = 0 then some 2 else none) else if warm then some 5 else some (n + 1)
/-- Whether the start in progress leads into recovery (R78). -/
def Start.toRecovery (b : Start) : Bool := decide (3 ≤ b.status.attempts.toNat) && !b.warmRun
/-- A stage has done its work: the start fails where no tower is left, else the next stage begins, or the start is over; one that leads
into recovery was not warm (R70, R74, R76, R78). -/
def State.goOn (s : State) (n : Nat) : State :=
  if s.fencedTowers = 0xFF then s.failStart 5 0
  else
    match nextStage s.boot.warmRun s.boot.toRecovery n with
    | some m => s.beginStage m
    | none =>
      if s.boot.toRecovery then
        { s with boot := { s.boot with running := false } }.modStatus fun x => { x with recovery := true, warm := false }
      else s
/-- `STAGE_COMPLETE`: the stage in progress finishes, within its limit; the next begins, or the start is over (R73, R74, R78). -/
def execStageComplete (r : StageResult) (s : State) : Out :=
  .next <|
  if !s.starting then s
  else
    let n := s.boot.status.stage.toNat
    let s1 := s.fenceStart r.fencedLayers r.fencedTowers
    if s.boot.since + stageLimit n < s.tick then s.failStart 6 n
    else
      match r.fail with
      | some f => if stageFailure f then s1.failStart f.1 f.2.toNat else s
      | none =>
        if s1.fencedTowers = 0xFF then s1.failStart 5 0
        else
          match s1.endStage n with
          | (s2, false) => s2
          | (s2, true) => s2.goOn n

/-! ### START_CTL (R72, R77, R78) -/

/-- `START_CTL_COLD`: a cold start is recorded in flash and begins with the removal of the rails; in recovery mode it clears
RECOVERY and ATTEMPTS (R71, R72, R78). -/
def execStartCtlCold (s : State) : Out :=
  .next <|
  if s.boot.rails && !s.boot.down then
    (if s.boot.status.recovery then s.modStatus fun x => { x with recovery := false, attempts := 0 } else s).goDown .cold
  else s
/-- `START_CTL_WARM`: firings and launches are discarded, the launch table, the history and every EN are cleared, transient
blocks expire, and stages 2 and 5 run; a request during a start is ignored (R77). One in recovery mode, where no start is in progress
and READY is 0, is ignored too: the manual does not say what it does (log entry 120). -/
def execStartCtlWarm (s : State) : Out :=
  .next <|
  if s.boot.rails && !s.boot.down && s.boot.status.ready then
    let s1 := { s.loseAll with history := [], queue := s.queue.filter fun e => !ofWork e.ev }
    let s2 := s1.blocks.foldl (fun st b => st.expire b.blk) s1
    let s3 := (List.range 2).foldl (fun st l => st.modLink l fun x =>
      { x with up := false, queues := Vector.ofFn fun i => { (x.queue i.val) with en := false } }) s2
    let s4 := { s3 with boot := { s3.boot with running := true, warmRun := true, fencedLayers := 0, fencedTowers := 0 } }
    (s4.modStatus fun x => { x with ready := false, warm := true }).beginStage 2
  else s

/-! ### Attestation (R80) -/

/-- `DOE_ATTESTATION_REQUEST`: it is signed with the next index, which is spent first, or refused; the last index of the last
step exhausts the counter (R80). -/
def execDoeAttestationRequest (s : State) : Out :=
  .next <|
  if !s.boot.rails || s.boot.down then s
  else
    let n := s.boot.idNext
    if n < s.boot.idStep * 2 ^ 28 then
      let s1 := { s with boot := { s.boot with idNext := n + 1, attest := some n :: s.boot.attest } }
      if n + 1 = 2 ^ 40 then s1.setCode 9 0 else s1
    else { s with boot := { s.boot with attest := none :: s.boot.attest } }

end Sys2Proof.Machine
end

