-- ==== Sys2Proof/Machine/Span.lean ====
section
/-!
DEFINITION. Span links and traffic between packages (02_span_links R34 to R44, 18_messages_barriers R321, 23_learning R416,
10_consistency R201).
-/
namespace Sys2Proof.Machine

/-! ### Sending (R36, R40, R43) -/

/-- Whether a link carries traffic now. -/
def SpanLink.works (x : SpanLink) : Bool := !x.down && x.retrain.isNone
/-- The receive slot that a flit of a class takes: the manual asks for one whose bit is clear, and the model takes the lowest (R43;
log entry 117). -/
def SpanLink.slotFor (x : SpanLink) (ordered : Bool) : Option Nat :=
  if ordered then (List.range 64).find? fun i => !x.slots.getLsbD i
  else ((List.range 192).map fun i => 64 + i).find? fun i => !x.slots.getLsbD i
/-- Words that a packet carries. -/
def packetWords : Packet → Nat
  | .request _ _ (.storeWords ws) .. => ws.length
  | .response _ (.words ws) => ws.length
  | _ => 1
/-- Flits of a packet: a store or response of more than four words takes two (R41; log entry 117). -/
def flitsOf (p : Packet) : Nat := if 4 < packetWords p then 2 else 1
/-- The freed slots that a flit returns: the lowest, and those that follow it without a gap (R35, R43). -/
def runFrom (l : List Nat) : Nat × Nat :=
  match l.foldl (fun (m : Option Nat) i => some (match m with | some j => min i j | none => i)) none with
  | none => (0, 0)
  | some a => (a, ((List.range 255).find? fun n => !l.contains (a + n)).getD 255)
/-- A flit is sent in a slot, with the header that is due: the acknowledgement, a NAK that is owed, and freed slots; it stays in the
replay buffer (R35, R36, R43). -/
def SpanLink.sendFlit (x : SpanLink) (slot : Nat) (dst : BitVec 12) (adaptive : Bool) (pos : BitVec 2) (src : Option OutPk) : SpanLink :=
  let run := runFrom x.freed
  let f : Flit :=
    { seq := x.txSeq + 1, ack := x.rxSeq, nak := x.nak, adaptive := adaptive, pos := pos, slot := BitVec.ofNat 8 slot,
      fslot := BitVec.ofNat 8 run.1, frun := BitVec.ofNat 8 run.2, crcOk := true, reservedZero := true, lane := 0,
      packet := src.map (·.pk) }
  let held : List (Nat × Nat) := match src with
    | some e => if e.owner = 0 then [] else [(slot, e.owner)]
    | none => []
  let left := x.freed.filter fun i => !(decide (run.1 ≤ i) && decide (i < run.1 + run.2))
  { x with txSeq := x.txSeq + 1, slots := x.slots ||| BitVec.ofNat 256 (2 ^ slot), nak := false, owed := x.owed && !left.isEmpty,
           freed := left,
           inSlot := held ++ x.inSlot, replay := x.replay ++ [{ replays := 0, src := src, dst := dst, flit := f }], sent := (dst, f) :: x.sent }
/-- A packet goes to the wire, if the replay buffer of 256 flits and the slots of its class have room for all its flits (R36, R43). -/
def SpanLink.sendPacket (x : SpanLink) (e : OutPk) : Option SpanLink :=
  let o := isOrdered e.pk
  if 256 < x.replay.length + flitsOf e.pk then none
  else
    match x.slotFor o with
    | none => none
    | some n =>
      if flitsOf e.pk = 1 then some (x.sendFlit n e.dst (!o) 3 (some e))
      else
        let y := x.sendFlit n e.dst (!o) 0 none
        (y.slotFor o).map fun m => y.sendFlit m e.dst (!o) 2 (some e)
/-- What waits is sent in order, class by class (R43, R321). -/
def SpanLink.drain (x : SpanLink) : List OutPk → SpanLink
  | [] => x
  | e :: r =>
    let stuck := x.outq.any fun f => isOrdered f.pk == isOrdered e.pk
    match (if stuck then none else x.sendPacket e) with
    | some y => y.drain r
    | none => ({ x with outq := x.outq ++ [e] }).drain r
/-- A header that is owed and that no packet carries goes in flits without a packet, `n` at most; the slots of such flits are returned
with the next header (R36; log entry 117). -/
def SpanLink.sendOwed (x : SpanLink) : Nat → SpanLink
  | 0 => x
  | n + 1 =>
    if !x.nak && !x.owed then x
    else
      match x.slotFor false with
      | some i => if 256 ≤ x.replay.length then x else (x.sendFlit i 0 true 3 none).sendOwed n
      | none => x
/-- `OUTBOUND_QUEUE_SEND`: a link that works sends what waits for it and may go, and the acknowledgements, NAKs and freed slots that
are owed (R36, R43, R321). -/
def execOutboundQueueSend (s : State) : Out :=
  .next (if (s.spanLink s.evNum).works then
    s.modSpan s.evNum fun x => (({ x with outq := [] }).drain x.outq).sendOwed 256 else s)

/-! ### Failing lanes, retraining, a link that goes down (R37, R40) -/

/-- The packages whose ordered traffic a link carries: by their routes, and by what it holds; those whose ordered traffic waits on another
link that is down send none over this one (R39, R40, R44). -/
def State.carries (s : State) (l : Nat) : List (BitVec 12) :=
  (((s.routes.filter fun r => r.2.valid && r.2.olink.toNat == l).map fun r => BitVec.ofNat 12 r.1) ++
    (((s.spanLink l).replay.filterMap (·.src) ++ (s.spanLink l).outq).filter fun e => isOrdered e.pk).map (·.dst)).filter fun p =>
      (s.blockedBy p).isNone
/-- `LINK_DOWN`: a link goes down; the packets that it has not acknowledged are held in order; new ordered traffic to the packages that
it led to waits for RESEND, and adaptive packets that it has not sent take other links (R40). -/
def execLinkDown (s : State) : Out :=
  let l := s.evNum
  let x := s.spanLink l
  let s1 := s.modSpan l fun y =>
    { SpanLink.reset with
      txSeq := y.txSeq, rxSeq := y.rxSeq, heldPk := y.heldPk ++ y.replay.filterMap (·.src), affected := y.affected ++ s.carries l,
      outq := y.outq.filter fun e => isOrdered e.pk, rxq := y.rxq.map fun e => (256, e.2), sent := y.sent }
  .next ((x.outq.filter fun e => !isOrdered e.pk).foldl State.sendOut s1)
/-- A link retrains without a failing lane, at half its width; one that cannot keep 2 lanes goes down (R37). -/
def State.retrainLink (s : State) (l : Nat) : State :=
  let w := (s.spanLink l).width
  let fresh (x : SpanLink) : SpanLink :=
    { x with retrain := some (w >>> 1), laneErr := [], flits := 0, replay := x.replay.map fun e => { e with replays := 0 } }
  if 4 ≤ w.toNat then (s.modSpan l fresh).later 2800 l .linkRetrainDone
  else s.later 0 l .linkDown
/-- The replay buffer is sent again, in order, with the acknowledgement as it stands now: a corrected error of domain 9 (R28, R36). -/
def State.resend (s : State) (l : Nat) : State :=
  if (s.spanLink l).replay.isEmpty then s
  else
    let again (x : SpanLink) (e : TxFlit) : BitVec 12 × Flit := (e.dst, { e.flit with ack := x.rxSeq })
    (s.modSpan l fun x => { x with sent := (x.replay.map (again x)).reverse ++ x.sent,
                                   replay := x.replay.map fun e => { e with replays := e.replays + 1 } }).countCorr 9
/-- `LINK_RETRAIN_DONE`: the link works at its new width, and the replay buffer goes first (R37). -/
def execLinkRetrainDone (s : State) : Out :=
  .next <| match (s.spanLink s.evNum).retrain with
  | some w => ((s.modSpan s.evNum fun x => { x with width := w, retrain := none }).resend s.evNum).later 0 s.evNum .outboundQueueSend
  | none => s
/-- A packet that had left its queue goes over OLINK, whatever its class, or behind what another link that is down holds for its
destination (R40, R44). -/
def State.sendHeld (s : State) (e : OutPk) : State :=
  s.sendOver ((s.blockedBy e.dst).getD (s.route e.dst).olink.toNat) { e with queue := 16 }
/-- `LINK_RESEND`: the packets that a link-down has held leave over the new OLINK of their destinations, first and in their order, and
then those that have waited behind them (R40). -/
def execLinkResend (s : State) : Out :=
  let l := s.evNum
  let x := s.spanLink l
  let s1 := s.modSpan l fun y => { y with heldPk := [], affected := [], outq := [] }
  .next (x.outq.foldl State.sendOut (x.heldPk.foldl State.sendHeld s1))

/-! ### What arrives (R41, R42, R321, R416) -/

/-- A message or push for a core of a launch that is pre-empted waits (R321). -/
def State.waitsFor (s : State) (lid : BitVec 32) : Bool := s.preempted lid
/-- Whether a fill, an empty or an expiry of a word wakes a park of a kind (R183, R188). -/
def ParkKind.wokenBy (k : ParkKind) (fill : Option Bool) : Bool :=
  match k, fill with
  | .taker, some true | .waiter, some true | .watcher false, some true | .putter, some false | .watcher true, some false => true
  | _, none => true
  | _, _ => false
/-- A wake notice of a word: it wakes entries as a fill or an empty does, or all of the word; one that comes ahead of the answer to a
last attempt is kept for that (R42, R183, R188). -/
def State.noticed (s : State) (pa : Nat) (fill : Option Bool) : State :=
  let es := match fill with
    | some b => s.wakes (remoteKey pa) b
    | none => s.park.filter fun e => e.key == remoteKey pa && e.st == ParkState.parked
  let f (a : Access) : Access := if a.key == remoteKey pa && a.gone && a.ans.isNone then { a with told := a.told ++ [fill] } else a
  es.foldl State.wakeEntry { s with accesses := s.accesses.map f }
/-- The arrays of this package that a pod reward broadcast is for (R415). -/
def State.rewardTargets (s : State) (lid : BitVec 32) : List Nat :=
  match s.launchOf lid with
  | some l => l.cores.filter fun c => s.counts l c
  | none => []
/-- A broadcast is presented to some arrays; those that refuse it are left. -/
def State.presentReward (s : State) (lid : BitVec 32) (r : Option (BitVec 16)) (stamp : Word) : List Nat → List Nat × State
  | [] => ([], s)
  | c :: l =>
    let x := s.takeBcast lid c r stamp
    let y := x.2.presentReward lid r stamp l
    (if x.1 = .refuse then c :: y.1 else y.1, y.2)
/-- The base die presents an ordered packet: done, or what has to be presented again (R321). -/
def State.present (s : State) (p : Packet) : Option Packet × State :=
  let again (r : MsgAnswer × State) : Option Packet × State := if r.1 = .refuse then (some p, r.2) else (none, r.2)
  match p with
  | .message lid port ws => if s.waitsFor lid then (some p, s) else again (s.takeMsg lid (portCore port) (portInst port) (portPort port) ws)
  | .push lid addr h => if s.waitsFor lid then (some p, s) else again (s.takePush lid (pushCore addr) h)
  | .code src rid o w =>
    let s1 := match placeOf o with | .istore c ofs => s.codeStore c (ofs / 8) w | _ => s
    (none, if rid = 0 then s1 else s1.toSpan src (.response rid (.done 0)))
  | .start c => (none, s.enqueue s.tick c .low 0 .startMessageArrive)
  | .barrier src lid => (none, s.later 0 0 (.podBarrierToken src lid))
  | .reward lid r stamp left =>
    let x := s.presentReward lid r stamp (left.getD (s.rewardTargets lid))
    (if x.1.isEmpty then none else some (.reward lid r stamp (some x.1)), x.2)
  | .wake pa fill => (none, s.noticed pa fill)
  | .request .. | .response .. => (none, s)
/-- The oldest ordered packet of a link is presented, and its slot is free; a refused one keeps its slot and is presented again 16 ticks
later, and the others wait behind it (R43, R321). -/
def State.presentHead (s : State) (l : Nat) : State :=
  match (s.spanLink l).rxq with
  | [] => s
  | (n, p) :: r =>
    match s.present p with
    | (some q, s1) => (s1.modSpan l fun x => { x with rxq := (n, q) :: r }).later 16 l .remotePresentRetry
    | (none, s1) =>
      let f (x : SpanLink) : SpanLink :=
        { x with rxq := r, freed := if n < 256 then x.freed ++ [n] else x.freed, owed := true }
      let s2 := (packetLid p).toList.foldl State.poke ((s1.modSpan l f).later 0 l .outboundQueueSend)
      match r with
      | [] => s2
      | q :: _ => s2.later 0 0 (.remoteMessagePresent l q.2)
/-- `REMOTE_MESSAGE_PRESENT`: the base die presents the packet that is next on a link (R321). -/
def execRemoteMessagePresent (l : Nat) (p : Packet) (s : State) : Out :=
  .next (if (s.spanLink l).rxq.head?.map Prod.snd = some p then s.presentHead l else s)
/-- `REMOTE_PRESENT_RETRY`: a refused packet is presented again (R321). -/
def execRemotePresentRetry (s : State) : Out := .next (s.presentHead s.evNum)

/-- Whether an access waits for the full/empty state of its word, so that its home watches the word when it fails (R42). -/
def watchOps (op : AccOp) : Bool := accWaits op
/-- `REMOTE_ACCESS_ARRIVE`: an access of another package is performed by this base die, and answered; a waiting one that fails
leaves a watch on its word (R41, R42). A request for an address of another package than this, which no correct sender makes, is dropped
with no response: the manual does not say what becomes of it (log entry 127). -/
def execRemoteAccessArrive (src : BitVec 12) (rid : Nat) (op : AccOp) (pa : Nat) (tr : Bool) (s : State) : Out :=
  let key := keyOf (offOf pa)
  .next <|
  if pkgOf pa ≠ s.pkgId then s
  else if !s.placeReady s.distCore (memAgent pa) pa s.tick || (accStores op && s.portTaken pa) then
    s.enqueueFirst (s.tick + 1) 0 .low 0 (.remoteAccessArrive src rid op pa tr)
  else
    let r := if placeOf (offOf pa) = .unassigned then (.poisoned, s) else (s.call pa).atPlace 0 op 0 pa key tr
    let s1 := if r.1 = .notReady ∧ watchOps op = true ∧ r.2.watches.contains (src, key) = false
      then { r.2 with watches := r.2.watches ++ [(src, key)] } else r.2
    if rid = 0 then s1 else s1.toSpan src (.response rid r.1)
/-- `REMOTE_WAKE_NOTICE`: a word that other packages watch was filled, emptied or expired: each of them gets a notice. The watches stay:
a package may have several firings parked on the word, of which a fill wakes one taker (R42, R182; log entry 118). -/
def execRemoteWakeNotice (s : State) : Out :=
  let key := s.evNum / 3
  let fill : Option Bool := if s.evNum % 3 = 2 then none else some (s.evNum % 3 == 1)
  .next ((s.watches.filter fun w => w.2 == key).foldl (fun st w => st.toSpan w.1 (.wake (st.pkgId.toNat * 2 ^ 44 + key) fill)) s)
/-- A failed last attempt of a remote word registers its firing in its own tower's table; a notice that came ahead of the answer wakes
it (R42, R180). -/
def State.parkRemote (s : State) (a : Access) (kind : ParkKind) : State :=
  let s1 := s.registerPark a.core a.prio (coreTower a.core) a.key kind
  match s1.registered (s.bank a.core a.prio) with
  | some e => if a.told.any fun f => kind.wokenBy f then s1.wakeEntry e else s1
  | none => s1
/-- The response to an access reaches this package, and the answer goes on to the core (R41, R42). -/
def State.responseArrive (s : State) (k : Nat) (ans : Answer) : State :=
  match s.accesses.find? fun a => a.id == k && a.ans.isNone && (match a.agent with | .package _ => true | _ => false) with
  | none => s
  | some a =>
    let s1 := match ans, a.reg with
      | .notReady, some kind =>
        if (s.bank a.core a.prio).key = a.fid then s.parkRemote a kind else s
      | _, _ => s
    (s1.markDone k ans).answerIn a 0

/-! ### Flits (R35 to R37, R43) -/

/-- One more CRC failure on a lane; a lane is failing above 16 of them in 2^20 flits (R37). -/
def laneCount (l : List (Nat × Nat)) (lane : Nat) : Nat := ((l.find? fun x => x.1 == lane).map Prod.snd).getD 0
/-- A flit fails its check: it is discarded, a NAK goes out, and its lane's failures count (R36, R37). -/
def State.flitFails (s : State) (l lane : Nat) : State :=
  let n := laneCount (s.spanLink l).laneErr lane + 1
  let s1 := (s.modSpan l fun x =>
    { x with nak := true, awaits := true, laneErr := (lane, n) :: x.laneErr.filter fun y => y.1 != lane }).later 0 l .outboundQueueSend
  if 16 < n then s1.retrainLink l else s1
/-- The replay buffer behind an acknowledgement (R36). -/
def ackReplay (ack : BitVec 12) (l : List TxFlit) : List TxFlit :=
  if l.any fun e => e.flit.seq == ack then (l.dropWhile fun e => e.flit.seq != ack).drop 1 else l
/-- The slots that a flit returns (R35, R43). -/
def freedSlots (first run : Nat) : Nat := (List.range 256).foldl (fun n i => if first ≤ i ∧ i < first + run then n + 2 ^ i else n) 0
/-- What the header of a flit says: ACK, freed slots, and a NAK, which is answered by a replay; the eighth replay of one flit is a
failing lane (R36, R37). -/
def State.flitHeader (s : State) (l : Nat) (f : Flit) : State :=
  let before := (s.spanLink l).replay
  let after := ackReplay f.ack before
  let s1 := (s.modSpan l fun x =>
    { x with replay := after,
             slots := x.slots &&& ~~~BitVec.ofNat 256 (freedSlots f.fslot.toNat f.frun.toNat),
             inSlot := x.inSlot.filter fun e => !(decide (f.fslot.toNat ≤ e.1) && decide (e.1 < f.fslot.toNat + f.frun.toNat)) }).later 0 l
    .outboundQueueSend
  let s2 := ((before.take (before.length - after.length)).filterMap fun e => e.src.bind fun x => packetLid x.pk).foldl State.poke s1
  if f.nak && !after.isEmpty then
    let s3 := s2.resend l
    if (s3.spanLink l).replay.any fun e => decide (8 ≤ e.replays) then s3.retrainLink l else s3
  else s2
/-- The packet that a flit completes: it crosses the package; an ordered one is presented behind those that wait, the others are carried
out (R28, R41, R43). -/
def State.flitPacket (s0 : State) (l slot : Nat) (p : Packet) : State :=
  let s := s0.crossing
  match p with
  | .request src rid op pa tr => s.later 0 0 (.remoteAccessArrive src rid op pa tr)
  | .response k a => s.responseArrive k a
  | _ =>
    let s1 := s.modSpan l fun x => { x with rxq := x.rxq ++ [(slot, p)] }
    if (s.spanLink l).rxq.isEmpty then s1.later 0 0 (.remoteMessagePresent l p) else s1
/-- The slot of a flit, as its receiver keeps it: an ordered packet's until it is presented, an adaptive one's until its last flit has
come; a flit with a packet is to be acknowledged (R36, R43). -/
def SpanLink.takeFlit (x : SpanLink) (f : Flit) : SpanLink :=
  let n := f.slot.toNat
  if !f.adaptive && f.packet.isSome then { x with owed := true }
  else if f.pos = 0 ∨ f.pos = 1 then { x with parts := x.parts ++ [n], owed := true }
  else { x with freed := x.freed ++ x.parts ++ [n], parts := [], owed := x.owed || f.packet.isSome }
/-- One more flit has been received; the lanes' failures are counted over 2^20 of them (R37). -/
def SpanLink.countFlit (x : SpanLink) : SpanLink :=
  if 2 ^ 20 ≤ x.flits + 1 then { x with flits := 0, laneErr := [] } else { x with flits := x.flits + 1 }
/-- `FLIT_RECEIVE`: a flit is received, checked and taken in order, or discarded with a NAK, after which later flits are discarded
until the replay comes (R35 to R37). One that comes while the link retrains is not received at all, with no NAK and no slot taken: the
manual says only that new traffic waits then (log entry 127). -/
def execFlitReceive (l : Nat) (f : Flit) (s : State) : Out :=
  .next <|
  if decide (16 ≤ l) || !(s.spanLink l).works then s
  else
    let s0 := s.modSpan l SpanLink.countFlit
    if !f.crcOk || !f.reservedZero then s0.flitFails l f.lane
    else if f.seq ≠ (s0.spanLink l).rxSeq + 1 then
      if (s0.spanLink l).awaits then s0
      else (s0.modSpan l fun x => { x with nak := true, awaits := true }).later 0 l .outboundQueueSend
    else
      let s1 := ((s0.modSpan l fun x => ({ x with rxSeq := f.seq, nak := false, awaits := false }).takeFlit f).flitHeader l f)
      match f.packet with
      | some p => if f.pos = 0 ∨ f.pos = 1 then s1 else s1.flitPacket l f.slot.toNat p
      | none => s1

/-! ### The package id (R38) -/

/-- `SPAN_ID_SET`: a write to SPAN_ID; PKG is read-only once SET is (R38). -/
def execSpanIdSet (v : Word) (s : State) : Out :=
  .next (if s.pkgSet then s else { s with pkgId := v.setWidth 12, pkgSet := bitOf v 12 })

end Sys2Proof.Machine
end

