-- ==== Sys2Proof/Machine/Dispatch.lean ====
section
/-!
DEFINITION. The dispatch: one arm per instruction and event, each a direct call of its meaning.
-/
namespace Sys2Proof.Machine

/-- What an instruction or event does. -/
def exec (i : Instr) (s : State) : Host.Outcome State Fault Refusal :=
  match i with
  | .br n t => Sys2Proof.Machine.execBr n t s
  | .brLone n t => Sys2Proof.Machine.execBrLone n t s
  | .call n t => Sys2Proof.Machine.execCall n t s
  | .callLone n t => Sys2Proof.Machine.execCallLone n t s
  | .jmp a => Sys2Proof.Machine.execJmp a s
  | .callr a => Sys2Proof.Machine.execCallr a s
  | .bz a n t => Sys2Proof.Machine.execBz a n t s
  | .bzLone a n t => Sys2Proof.Machine.execBzLone a n t s
  | .bnz a n t => Sys2Proof.Machine.execBnz a n t s
  | .bnzLone a n t => Sys2Proof.Machine.execBnzLone a n t s
  | .bltz a n t => Sys2Proof.Machine.execBltz a n t s
  | .bltzLone a n t => Sys2Proof.Machine.execBltzLone a n t s
  | .bgez a n t => Sys2Proof.Machine.execBgez a n t s
  | .bgezLone a n t => Sys2Proof.Machine.execBgezLone a n t s
  | .beq a b n t => Sys2Proof.Machine.execBeq a b n t s
  | .beqLone a b n t => Sys2Proof.Machine.execBeqLone a b n t s
  | .bne a b n t => Sys2Proof.Machine.execBne a b n t s
  | .bneLone a b n t => Sys2Proof.Machine.execBneLone a b n t s
  | .blt a b n t => Sys2Proof.Machine.execBlt a b n t s
  | .bltLone a b n t => Sys2Proof.Machine.execBltLone a b n t s
  | .bge a b n t => Sys2Proof.Machine.execBge a b n t s
  | .bgeLone a b n t => Sys2Proof.Machine.execBgeLone a b n t s
  | .bltn a b n t => Sys2Proof.Machine.execBltn a b n t s
  | .bltnLone a b n t => Sys2Proof.Machine.execBltnLone a b n t s
  | .bgen a b n t => Sys2Proof.Machine.execBgen a b n t s
  | .bgenLone a b n t => Sys2Proof.Machine.execBgenLone a b n t s
  | .loop a n t => Sys2Proof.Machine.execLoop a n t s
  | .loopLone a n t => Sys2Proof.Machine.execLoopLone a n t s
  | .movl d k => Sys2Proof.Machine.execMovl d k s
  | .movlLone d e => Sys2Proof.Machine.execMovlLone d e s
  | .movlh d e => Sys2Proof.Machine.execMovlh d e s
  | .trap k => Sys2Proof.Machine.execTrap k s
  | .sleep k => Sys2Proof.Machine.execSleep k s
  | .brk k => Sys2Proof.Machine.execBrk k s
  | .ld d a sz p => Sys2Proof.Machine.execLd d a sz p s
  | .ldLone d a sz e => Sys2Proof.Machine.execLdLone d a sz e s
  | .ldn d a sz p => Sys2Proof.Machine.execLdn d a sz p s
  | .ldnLone d a sz e => Sys2Proof.Machine.execLdnLone d a sz e s
  | .st d a sz p => Sys2Proof.Machine.execSt d a sz p s
  | .stLone d a sz e => Sys2Proof.Machine.execStLone d a sz e s
  | .ldx d a b sz => Sys2Proof.Machine.execLdx d a b sz s
  | .stx d a b sz => Sys2Proof.Machine.execStx d a b sz s
  | .lda d a sz sc p => Sys2Proof.Machine.execLda d a sz sc p s
  | .ldaLone d a sz sc e => Sys2Proof.Machine.execLdaLone d a sz sc e s
  | .stl d a sz sc p => Sys2Proof.Machine.execStl d a sz sc p s
  | .stlLone d a sz sc e => Sys2Proof.Machine.execStlLone d a sz sc e s
  | .pref a p => Sys2Proof.Machine.execPref a p s
  | .prefLone a e => Sys2Proof.Machine.execPrefLone a e s
  | .ldw d a sc p => Sys2Proof.Machine.execLdw d a sc p s
  | .ldwLone d a sc e => Sys2Proof.Machine.execLdwLone d a sc e s
  | .ldt d a sc p => Sys2Proof.Machine.execLdt d a sc p s
  | .ldtLone d a sc e => Sys2Proof.Machine.execLdtLone d a sc e s
  | .stp d a sc p => Sys2Proof.Machine.execStp d a sc p s
  | .stpLone d a sc e => Sys2Proof.Machine.execStpLone d a sc e s
  | .stf d a sc p => Sys2Proof.Machine.execStf d a sc p s
  | .stfLone d a sc e => Sys2Proof.Machine.execStfLone d a sc e s
  | .emp a p => Sys2Proof.Machine.execEmp a p s
  | .empLone a e => Sys2Proof.Machine.execEmpLone a e s
  | .feq d a p => Sys2Proof.Machine.execFeq d a p s
  | .feqLone d a e => Sys2Proof.Machine.execFeqLone d a e s
  | .ldwt d a sc p => Sys2Proof.Machine.execLdwt d a sc p s
  | .ldwtLone d a sc e => Sys2Proof.Machine.execLdwtLone d a sc e s
  | .ldtt d a sc p => Sys2Proof.Machine.execLdtt d a sc p s
  | .ldttLone d a sc e => Sys2Proof.Machine.execLdttLone d a sc e s
  | .stpt d a sc p => Sys2Proof.Machine.execStpt d a sc p s
  | .stptLone d a sc e => Sys2Proof.Machine.execStptLone d a sc e s
  | .amo d a b op sc w fe => Sys2Proof.Machine.execAmo d a b op sc w fe s
  | .cas d a b sc w => Sys2Proof.Machine.execCas d a b sc w s
  | .red a b op sc w => Sys2Proof.Machine.execRed a b op sc w s
  | .fenceOrd sc => Sys2Proof.Machine.execFenceOrd sc s
  | .send a b l => Sys2Proof.Machine.execSend a b l s
  | .recv d a p w => Sys2Proof.Machine.execRecv d a p w s
  | .pcnt d p => Sys2Proof.Machine.execPcnt d p s
  | .bar l => Sys2Proof.Machine.execBar l s
  | .bara l => Sys2Proof.Machine.execBara l s
  | .barw l => Sys2Proof.Machine.execBarw l s
  | .rbc a b sc => Sys2Proof.Machine.execRbc a b sc s
  | .rclr b sc => Sys2Proof.Machine.execRclr b sc s
  | .migr a => Sys2Proof.Machine.execMigr a s
  | .park d a p => Sys2Proof.Machine.execPark d a p s
  | .parkLone d a e => Sys2Proof.Machine.execParkLone d a e s
  | .tarm a p => Sys2Proof.Machine.execTarm a p s
  | .tarmLone a e => Sys2Proof.Machine.execTarmLone a e s
  | .cpy d a b c w mode sc => Sys2Proof.Machine.execCpy d a b c w mode sc s
  | .cpy2 d a b c w st mode sc esz tr => Sys2Proof.Machine.execCpy2 d a b c w st mode sc esz tr s
  | .cpyw mask => Sys2Proof.Machine.execCpyw mask s
  | .rcfg h a b => Sys2Proof.Machine.execRcfg h a b s
  | .rpush h remote a => Sys2Proof.Machine.execRpush h remote a s
  | .rpop h d => Sys2Proof.Machine.execRpop h d s
  | .rwait h n cond => Sys2Proof.Machine.execRwait h n cond s
  | .rfree h n => Sys2Proof.Machine.execRfree h n s
  | .rq h d sel => Sys2Proof.Machine.execRq h d sel s
  | .mfold acc fmt home ra rb solo pin nkm1 => Sys2Proof.Machine.execMfold acc fmt home ra rb solo pin nkm1 s
  | .mzero acc => Sys2Proof.Machine.execMzero acc s
  | .mnar acc fmt rm a b c arr => Sys2Proof.Machine.execMnar acc fmt rm a b c arr s
  | .mwid acc fmt a b => Sys2Proof.Machine.execMwid acc fmt a b s
  | .mrec acc d => Sys2Proof.Machine.execMrec acc d s
  | .mwait mask => Sys2Proof.Machine.execMwait mask s
  | .mq d => Sys2Proof.Machine.execMq d s
  | .acmp dt mask op key f => Sys2Proof.Machine.execAcmp dt mask op key f s
  | .awrt mask f v => Sys2Proof.Machine.execAwrt mask f v s
  | .aseq code mask dt x w1m1 w2m1 doff aoff boff => Sys2Proof.Machine.execAseq code mask dt x w1m1 w2m1 doff aoff boff s
  | .ausq start doff aoff boff => Sys2Proof.Machine.execAusq start doff aoff boff s
  | .abnd dt a b => Sys2Proof.Machine.execAbnd dt a b s
  | .atag dt ta tb fn => Sys2Proof.Machine.execAtag dt ta tb fn s
  | .acnt d ta => Sys2Proof.Machine.execAcnt d ta s
  | .afst d ta clr => Sys2Proof.Machine.execAfst d ta clr s
  | .arsum d mask sg f => Sys2Proof.Machine.execArsum d mask sg f s
  | .ard d a sg f => Sys2Proof.Machine.execArd d a sg f s
  | .awr a b f => Sys2Proof.Machine.execAwr a b f s
  | .ascw mask a f => Sys2Proof.Machine.execAscw mask a f s
  | .asql a => Sys2Proof.Machine.execAsql a s
  | .arws d => Sys2Proof.Machine.execArws d s
  | .atrc x => Sys2Proof.Machine.execAtrc x s
  | .arwd a => Sys2Proof.Machine.execArwd a s
  | .mfc d n => Sys2Proof.Machine.execMfc d n s
  | .mtc a n => Sys2Proof.Machine.execMtc a n s
  | .resume a b => Sys2Proof.Machine.execResume a b s
  | .tlbw d a b => Sys2Proof.Machine.execTlbw d a b s
  | .tlbi a => Sys2Proof.Machine.execTlbi a s
  | .tlbs a => Sys2Proof.Machine.execTlbs a s
  | .add d a b => Sys2Proof.Machine.execAdd d a b s
  | .sub d a b => Sys2Proof.Machine.execSub d a b s
  | .mul d a b => Sys2Proof.Machine.execMul d a b s
  | .mulh d a b => Sys2Proof.Machine.execMulh d a b s
  | .mulhn d a b => Sys2Proof.Machine.execMulhn d a b s
  | .div d a b => Sys2Proof.Machine.execDiv d a b s
  | .divn d a b => Sys2Proof.Machine.execDivn d a b s
  | .rem d a b => Sys2Proof.Machine.execRem d a b s
  | .remn d a b => Sys2Proof.Machine.execRemn d a b s
  | .andR d a b => Sys2Proof.Machine.execAndR d a b s
  | .orR d a b => Sys2Proof.Machine.execOrR d a b s
  | .xorR d a b => Sys2Proof.Machine.execXorR d a b s
  | .andn d a b => Sys2Proof.Machine.execAndn d a b s
  | .orn d a b => Sys2Proof.Machine.execOrn d a b s
  | .shl d a b => Sys2Proof.Machine.execShl d a b s
  | .shr d a b => Sys2Proof.Machine.execShr d a b s
  | .sar d a b => Sys2Proof.Machine.execSar d a b s
  | .rol d a b => Sys2Proof.Machine.execRol d a b s
  | .minR d a b => Sys2Proof.Machine.execMinR d a b s
  | .maxR d a b => Sys2Proof.Machine.execMaxR d a b s
  | .minn d a b => Sys2Proof.Machine.execMinn d a b s
  | .maxn d a b => Sys2Proof.Machine.execMaxn d a b s
  | .ceq d a b => Sys2Proof.Machine.execCeq d a b s
  | .cne d a b => Sys2Proof.Machine.execCne d a b s
  | .clt d a b => Sys2Proof.Machine.execClt d a b s
  | .cle d a b => Sys2Proof.Machine.execCle d a b s
  | .cltn d a b => Sys2Proof.Machine.execCltn d a b s
  | .clen d a b => Sys2Proof.Machine.execClen d a b s
  | .sel d a b => Sys2Proof.Machine.execSel d a b s
  | .clz d a => Sys2Proof.Machine.execClz d a s
  | .ctz d a => Sys2Proof.Machine.execCtz d a s
  | .popc d a => Sys2Proof.Machine.execPopc d a s
  | .sxb d a => Sys2Proof.Machine.execSxb d a s
  | .sxh d a => Sys2Proof.Machine.execSxh d a s
  | .sxw d a => Sys2Proof.Machine.execSxw d a s
  | .zxb d a => Sys2Proof.Machine.execZxb d a s
  | .zxh d a => Sys2Proof.Machine.execZxh d a s
  | .zxw d a => Sys2Proof.Machine.execZxw d a s
  | .addw d a b => Sys2Proof.Machine.execAddw d a b s
  | .subw d a b => Sys2Proof.Machine.execSubw d a b s
  | .mulw d a b => Sys2Proof.Machine.execMulw d a b s
  | .bext d a pos len => Sys2Proof.Machine.execBext d a pos len s
  | .bins d a pos len => Sys2Proof.Machine.execBins d a pos len s
  | .bswp d a => Sys2Proof.Machine.execBswp d a s
  | .addi d a k => Sys2Proof.Machine.execAddi d a k s
  | .andi d a k => Sys2Proof.Machine.execAndi d a k s
  | .ori d a k => Sys2Proof.Machine.execOri d a k s
  | .xori d a k => Sys2Proof.Machine.execXori d a k s
  | .shli d a x => Sys2Proof.Machine.execShli d a x s
  | .shri d a x => Sys2Proof.Machine.execShri d a x s
  | .sari d a x => Sys2Proof.Machine.execSari d a x s
  | .ceqi d a k => Sys2Proof.Machine.execCeqi d a k s
  | .clti d a k => Sys2Proof.Machine.execClti d a k s
  | .cltni d a k => Sys2Proof.Machine.execCltni d a k s
  | .movi d k => Sys2Proof.Machine.execMovi d k s
  | .movhi d k => Sys2Proof.Machine.execMovhi d k s
  | .fadd d a b r => Sys2Proof.Machine.execFadd d a b r s
  | .fsub d a b r => Sys2Proof.Machine.execFsub d a b r s
  | .fmul d a b r => Sys2Proof.Machine.execFmul d a b r s
  | .fma d a b r => Sys2Proof.Machine.execFma d a b r s
  | .fms d a b r => Sys2Proof.Machine.execFms d a b r s
  | .fdiv d a b r => Sys2Proof.Machine.execFdiv d a b r s
  | .fsqrt d a r => Sys2Proof.Machine.execFsqrt d a r s
  | .fmin d a b => Sys2Proof.Machine.execFmin d a b s
  | .fmax d a b => Sys2Proof.Machine.execFmax d a b s
  | .fceq d a b => Sys2Proof.Machine.execFceq d a b s
  | .fclt d a b => Sys2Proof.Machine.execFclt d a b s
  | .fcle d a b => Sys2Proof.Machine.execFcle d a b s
  | .fabs d a => Sys2Proof.Machine.execFabs d a s
  | .fneg d a => Sys2Proof.Machine.execFneg d a s
  | .fcpys d a b => Sys2Proof.Machine.execFcpys d a b s
  | .cvtif d a src dst r => Sys2Proof.Machine.execCvtif d a src dst r s
  | .cvtfi d a src dst r => Sys2Proof.Machine.execCvtfi d a src dst r s
  | .cvtff d a p r => Sys2Proof.Machine.execCvtff d a p r s
  | .pk2 d a f r => Sys2Proof.Machine.execPk2 d a f r s
  | .unpk d a f => Sys2Proof.Machine.execUnpk d a f s
  | .sensorSample j temp => Sys2Proof.Machine.execSensorSample j temp s
  | .railRise readable => Sys2Proof.Machine.execRailRise readable s
  | .stageComplete r => Sys2Proof.Machine.execStageComplete r s
  | .doeFirmwareImage slot img => Sys2Proof.Machine.execDoeFirmwareImage slot img s
  | .allowanceWindowBoundary meas => Sys2Proof.Machine.execAllowanceWindowBoundary meas s
  | .registerWrite win off v => Sys2Proof.Machine.execRegisterWrite win off v s
  | .laneFailing path lane => Sys2Proof.Machine.execLaneFailing path lane s
  | .laneMarginTest path bad => Sys2Proof.Machine.execLaneMarginTest path bad s
  | .flitReceive l f => Sys2Proof.Machine.execFlitReceive l f s
  | .spanIdSet v => Sys2Proof.Machine.execSpanIdSet v s
  | .remoteAccessArrive src rid op pa tr => Sys2Proof.Machine.execRemoteAccessArrive src rid op pa tr s
  | .remoteMessagePresent l p => Sys2Proof.Machine.execRemoteMessagePresent l p s
  | .hostApertureRead l off rq => Sys2Proof.Machine.execHostApertureRead l off rq s
  | .hostApertureWrite l off data => Sys2Proof.Machine.execHostApertureWrite l off data s
  | .hostFillWrite l off data => Sys2Proof.Machine.execHostFillWrite l off data s
  | .hostEmptyWrite l off data => Sys2Proof.Machine.execHostEmptyWrite l off data s
  | .hostFillRead l off => Sys2Proof.Machine.execHostFillRead l off s
  | .hostStateRead l off => Sys2Proof.Machine.execHostStateRead l off s
  | .qctlWrite l q v => Sys2Proof.Machine.execQctlWrite l q v s
  | .cancel l lid => Sys2Proof.Machine.execCancel l lid s
  | .recordAccept l q => Sys2Proof.Machine.execRecordAccept l q s
  | .pageMoveRequest l q => Sys2Proof.Machine.execPageMoveRequest l q s
  | .launchStart lid => Sys2Proof.Machine.execLaunchStart lid s
  | .preemptSave lid => Sys2Proof.Machine.execPreemptSave lid s
  | .launchResume lid => Sys2Proof.Machine.execLaunchResume lid s
  | .launchComplete lid => Sys2Proof.Machine.execLaunchComplete lid s
  | .cancelCoresFreed lid => Sys2Proof.Machine.execCancelCoresFreed lid s
  | .grainBlockClaim lid level => Sys2Proof.Machine.execGrainBlockClaim lid level s
  | .grainReportBatch lid level => Sys2Proof.Machine.execGrainReportBatch lid level s
  | .tokenRequest rq => Sys2Proof.Machine.execTokenRequest rq s
  | .translationRequest c p va => Sys2Proof.Machine.execTranslationRequest c p va s
  | .scrubRead layer blk r last => Sys2Proof.Machine.execScrubRead layer blk r last s
  | .scrubForced b blk r => Sys2Proof.Machine.execScrubForced b blk r s
  | .barrierRelease l lid grp => Sys2Proof.Machine.execBarrierRelease l lid grp s
  | .barphWithdraw c v => Sys2Proof.Machine.execBarphWithdraw c v s
  | .podBarrierToken src lid => Sys2Proof.Machine.execPodBarrierToken src lid s
  | .astepWrite c v => Sys2Proof.Machine.execAstepWrite c v s
  | .afldWrite c v => Sys2Proof.Machine.execAfldWrite c v s
  | .pcieLinkDown l up => Sys2Proof.Machine.execPcieLinkDown l up s
  | .messageAnswerArrive c p a => Sys2Proof.Machine.execMessageAnswerArrive c p a s
  | .nopC => Sys2Proof.Machine.execNopC s
  | .endFiring => Sys2Proof.Machine.execEndFiring s
  | .fenceR => Sys2Proof.Machine.execFenceR s
  | .fenceA => Sys2Proof.Machine.execFenceA s
  | .fenceE => Sys2Proof.Machine.execFenceE s
  | .ltrig => Sys2Proof.Machine.execLtrig s
  | .seal => Sys2Proof.Machine.execSeal s
  | .nopA => Sys2Proof.Machine.execNopA s
  | .selfRailRemoval => Sys2Proof.Machine.execSelfRailRemoval s
  | .stageTimeout => Sys2Proof.Machine.execStageTimeout s
  | .startRetry => Sys2Proof.Machine.execStartRetry s
  | .startCtlCold => Sys2Proof.Machine.execStartCtlCold s
  | .startCtlWarm => Sys2Proof.Machine.execStartCtlWarm s
  | .doeAttestationRequest => Sys2Proof.Machine.execDoeAttestationRequest s
  | .allowanceOverrun => Sys2Proof.Machine.execAllowanceOverrun s
  | .laneSpareSwap => Sys2Proof.Machine.execLaneSpareSwap s
  | .laneRepairRelease => Sys2Proof.Machine.execLaneRepairRelease s
  | .masterElectionDone => Sys2Proof.Machine.execMasterElectionDone s
  | .linkRetrainDone => Sys2Proof.Machine.execLinkRetrainDone s
  | .linkDown => Sys2Proof.Machine.execLinkDown s
  | .linkResend => Sys2Proof.Machine.execLinkResend s
  | .remoteWakeNotice => Sys2Proof.Machine.execRemoteWakeNotice s
  | .outboundQueueSend => Sys2Proof.Machine.execOutboundQueueSend s
  | .remotePresentRetry => Sys2Proof.Machine.execRemotePresentRetry s
  | .functionLevelReset => Sys2Proof.Machine.execFunctionLevelReset s
  | .startMessageArrive => Sys2Proof.Machine.execStartMessageArrive s
  | .grainClaim => Sys2Proof.Machine.execGrainClaim s
  | .shootdownArrive => Sys2Proof.Machine.execShootdownArrive s
  | .shootdownComplete => Sys2Proof.Machine.execShootdownComplete s
  | .entryStart => Sys2Proof.Machine.execEntryStart s
  | .messageArrive => Sys2Proof.Machine.execMessageArrive s
  | .sendRetry => Sys2Proof.Machine.execSendRetry s
  | .fcrDeliver => Sys2Proof.Machine.execFcrDeliver s
  | .holdBufferOffer => Sys2Proof.Machine.execHoldBufferOffer s
  | .feAttempt => Sys2Proof.Machine.execFeAttempt s
  | .wakeAppend => Sys2Proof.Machine.execWakeAppend s
  | .transientExpiry => Sys2Proof.Machine.execTransientExpiry s
  | .migrationDepart => Sys2Proof.Machine.execMigrationDepart s
  | .fcrArrive => Sys2Proof.Machine.execFcrArrive s
  | .resumeEntryDue => Sys2Proof.Machine.execResumeEntryDue s
  | .watchdogExpiry => Sys2Proof.Machine.execWatchdogExpiry s
  | .coreSleep => Sys2Proof.Machine.execCoreSleep s
  | .coreWake => Sys2Proof.Machine.execCoreWake s
  | .accessArrive => Sys2Proof.Machine.execAccessArrive s
  | .loadReturn => Sys2Proof.Machine.execLoadReturn s
  | .storeAck => Sys2Proof.Machine.execStoreAck s
  | .refreshOp => Sys2Proof.Machine.execRefreshOp s
  | .refreshOpEnd => Sys2Proof.Machine.execRefreshOpEnd s
  | .copyDataPhase => Sys2Proof.Machine.execCopyDataPhase s
  | .copyCompletionFill => Sys2Proof.Machine.execCopyCompletionFill s
  | .ringPushArrive => Sys2Proof.Machine.execRingPushArrive s
  | .ringSlotFreed => Sys2Proof.Machine.execRingSlotFreed s
  | .barrierTimeout => Sys2Proof.Machine.execBarrierTimeout s
  | .sleepExpiry => Sys2Proof.Machine.execSleepExpiry s
  | .foldJoinComplete => Sys2Proof.Machine.execFoldJoinComplete s
  | .foldOpStart => Sys2Proof.Machine.execFoldOpStart s
  | .foldRoundEnd => Sys2Proof.Machine.execFoldRoundEnd s
  | .foldOpComplete => Sys2Proof.Machine.execFoldOpComplete s
  | .accOpComplete => Sys2Proof.Machine.execAccOpComplete s
  | .rewardBroadcastArrive => Sys2Proof.Machine.execRewardBroadcastArrive s
  | .broadcastRetry => Sys2Proof.Machine.execBroadcastRetry s
  | .rewardApplyStart => Sys2Proof.Machine.execRewardApplyStart s
  | .rewardApplyDone => Sys2Proof.Machine.execRewardApplyDone s
  | .boardRailRemoval => Sys2Proof.Machine.execBoardRailRemoval s
  | .arrayLastPass => Sys2Proof.Machine.execArrayLastPass s

end Sys2Proof.Machine
end

