-- ==== Sys2Proof/Machine/Issue.lean ====
section
/-!
DEFINITION. One core in one tick: results land, a departure goes on, the core chooses what to issue, and a bundle is
fetched, held or issued whole (11_core R206 to R214, 06_firings R110 to R120, 17_control_flow R302 to R305).
-/
namespace Sys2Proof.Machine

/-- The `i`-th register from a register on. -/
def regAt (b : Reg) (i : Nat) : Reg := ⟨(b.val + i) % 32, Nat.mod_lt _ (by decide)⟩
/-- The register of an array key (R388). -/
def keyRegs : KeySrc → List Reg | .reg a => [a] | .imm _ => []

/-- The registers an instruction reads (R210 item 1). -/
def sourcesOf : Instr → List Reg
  | .br .. | .brLone .. | .call .. | .callLone .. | .movl .. | .movlLone .. | .trap .. | .sleep .. | .brk ..
  | .fenceOrd .. | .pcnt .. | .bar .. | .bara .. | .barw .. | .cpyw .. | .rpop .. | .rwait .. | .rfree .. | .rq ..
  | .mfold .. | .mzero .. | .mrec .. | .mwait .. | .mq .. | .awrt .. | .ausq .. | .atag .. | .acnt .. | .afst ..
  | .arsum .. | .arws .. | .mfc .. | .movi .. | .movhi .. | .sensorSample .. | .railRise .. | .stageComplete ..
  | .doeFirmwareImage .. | .allowanceWindowBoundary .. | .registerWrite .. | .laneFailing .. | .laneMarginTest ..
  | .flitReceive .. | .spanIdSet .. | .remoteAccessArrive .. | .remoteMessagePresent .. | .hostApertureRead ..
  | .hostApertureWrite .. | .hostFillWrite .. | .hostEmptyWrite .. | .hostFillRead .. | .hostStateRead ..
  | .qctlWrite .. | .cancel .. | .recordAccept .. | .pageMoveRequest .. | .launchStart .. | .preemptSave ..
  | .launchResume .. | .launchComplete .. | .cancelCoresFreed .. | .grainBlockClaim .. | .grainReportBatch ..
  | .tokenRequest .. | .translationRequest .. | .scrubRead .. | .scrubForced .. | .barrierRelease ..
  | .barphWithdraw .. | .podBarrierToken .. | .astepWrite .. | .afldWrite .. | .pcieLinkDown ..
  | .messageAnswerArrive .. | .nopC | .endFiring | .fenceR | .fenceA | .fenceE | .ltrig | .seal | .nopA
  | .selfRailRemoval | .stageTimeout | .startRetry | .startCtlCold | .startCtlWarm | .doeAttestationRequest
  | .allowanceOverrun | .laneSpareSwap | .laneRepairRelease | .masterElectionDone | .linkRetrainDone | .linkDown
  | .linkResend | .remoteWakeNotice | .outboundQueueSend | .remotePresentRetry | .functionLevelReset
  | .startMessageArrive | .grainClaim | .shootdownArrive | .shootdownComplete | .entryStart | .messageArrive
  | .sendRetry | .fcrDeliver | .holdBufferOffer | .feAttempt | .wakeAppend | .transientExpiry | .migrationDepart
  | .fcrArrive | .resumeEntryDue | .watchdogExpiry | .coreSleep | .coreWake | .accessArrive | .loadReturn | .storeAck
  | .refreshOp | .refreshOpEnd | .copyDataPhase | .copyCompletionFill | .ringPushArrive | .ringSlotFreed
  | .barrierTimeout | .sleepExpiry | .foldJoinComplete | .foldOpStart | .foldRoundEnd | .foldOpComplete
  | .accOpComplete | .rewardBroadcastArrive | .broadcastRetry | .rewardApplyStart | .rewardApplyDone
  | .boardRailRemoval | .arrayLastPass => []
  | .jmp a | .callr a | .bz a .. | .bzLone a .. | .bnz a .. | .bnzLone a .. | .bltz a .. | .bltzLone a ..
  | .bgez a .. | .bgezLone a .. | .loop a .. | .loopLone a .. | .ld _ a .. | .ldLone _ a .. | .ldn _ a ..
  | .ldnLone _ a .. | .lda _ a .. | .ldaLone _ a .. | .pref a .. | .prefLone a .. | .ldw _ a .. | .ldwLone _ a ..
  | .ldt _ a .. | .ldtLone _ a .. | .emp a .. | .empLone a .. | .feq _ a .. | .feqLone _ a .. | .ldwt _ a ..
  | .ldwtLone _ a .. | .ldtt _ a .. | .ldttLone _ a .. | .recv _ a .. | .migr a | .tarm a .. | .tarmLone a ..
  | .rpush _ _ a | .ard _ a .. | .ascw _ a .. | .asql a | .arwd a | .mtc a .. | .tlbi a | .tlbs a | .clz _ a
  | .ctz _ a | .popc _ a | .sxb _ a | .sxh _ a | .sxw _ a | .zxb _ a | .zxh _ a | .zxw _ a | .bext _ a .. | .bswp _ a
  | .addi _ a .. | .andi _ a .. | .ori _ a .. | .xori _ a .. | .shli _ a .. | .shri _ a .. | .sari _ a ..
  | .ceqi _ a .. | .clti _ a .. | .cltni _ a .. | .fsqrt _ a .. | .fabs _ a | .fneg _ a | .cvtif _ a ..
  | .cvtfi _ a .. | .cvtff _ a .. | .pk2 _ a .. | .unpk _ a .. => [a]
  | .beq a b .. | .beqLone a b .. | .bne a b .. | .bneLone a b .. | .blt a b .. | .bltLone a b .. | .bge a b ..
  | .bgeLone a b .. | .bltn a b .. | .bltnLone a b .. | .bgen a b .. | .bgenLone a b .. | .ldx _ a b ..
  | .amo _ a b .. | .red a b .. | .rbc a b .. | .rcfg _ a b | .mwid _ _ a b | .abnd _ a b | .awr a b .. | .resume a b
  | .add _ a b | .sub _ a b | .mul _ a b | .mulh _ a b | .mulhn _ a b | .div _ a b | .divn _ a b | .rem _ a b
  | .remn _ a b | .andR _ a b | .orR _ a b | .xorR _ a b | .andn _ a b | .orn _ a b | .shl _ a b | .shr _ a b
  | .sar _ a b | .rol _ a b | .minR _ a b | .maxR _ a b | .minn _ a b | .maxn _ a b | .ceq _ a b | .cne _ a b
  | .clt _ a b | .cle _ a b | .cltn _ a b | .clen _ a b | .addw _ a b | .subw _ a b | .mulw _ a b | .fadd _ a b ..
  | .fsub _ a b .. | .fmul _ a b .. | .fdiv _ a b .. | .fmin _ a b | .fmax _ a b | .fceq _ a b | .fclt _ a b
  | .fcle _ a b | .fcpys _ a b => [a, b]
  | .movlh d .. => [d]
  | .st d a .. | .stLone d a .. | .stl d a .. | .stlLone d a .. | .stp d a .. | .stpLone d a .. | .stf d a ..
  | .stfLone d a .. | .stpt d a .. | .stptLone d a .. | .park d a .. | .parkLone d a .. | .bins d a .. => [d, a]
  | .stx d a b .. | .cas d a b .. | .tlbw d a b | .sel d a b | .fma d a b .. | .fms d a b .. => [d, a, b]
  | .send a b l => a :: (List.range (l.val + 1)).map fun i => regAt b i
  | .rclr b .. => [b]
  | .cpy _ a b c w .. => [a, b, c, w]
  | .cpy2 _ a b c w st .. => [a, b, c, w, st]
  | .mnar _ _ _ a b c .. => [a, b, c]
  | .acmp _ _ _ k _ => keyRegs k
  | .aseq _ _ _ s .. | .atrc s => [s]

/-- The registers that a load writes when its data returns (R210 item 1, R275). -/
def loadDestsOf : Instr → List Reg
  | .br .. | .brLone .. | .call .. | .callLone .. | .jmp .. | .callr .. | .bz .. | .bzLone .. | .bnz .. | .bnzLone ..
  | .bltz .. | .bltzLone .. | .bgez .. | .bgezLone .. | .beq .. | .beqLone .. | .bne .. | .bneLone .. | .blt ..
  | .bltLone .. | .bge .. | .bgeLone .. | .bltn .. | .bltnLone .. | .bgen .. | .bgenLone .. | .loop .. | .loopLone ..
  | .movl .. | .movlLone .. | .movlh .. | .trap .. | .sleep .. | .brk .. | .st .. | .stLone .. | .stx .. | .stl ..
  | .stlLone .. | .pref .. | .prefLone .. | .stp .. | .stpLone .. | .stf .. | .stfLone .. | .emp .. | .empLone ..
  | .red .. | .fenceOrd .. | .send .. | .recv .. | .pcnt .. | .bar .. | .bara .. | .barw .. | .rbc .. | .rclr ..
  | .migr .. | .park .. | .parkLone .. | .tarm .. | .tarmLone .. | .cpy .. | .cpy2 .. | .cpyw .. | .rcfg ..
  | .rpush .. | .rpop .. | .rwait .. | .rfree .. | .rq .. | .mfold .. | .mzero .. | .mnar .. | .mwid .. | .mrec ..
  | .mwait .. | .mq .. | .acmp .. | .awrt .. | .aseq .. | .ausq .. | .abnd .. | .atag .. | .acnt .. | .afst ..
  | .arsum .. | .ard .. | .awr .. | .ascw .. | .asql .. | .arws .. | .atrc .. | .arwd .. | .mfc .. | .mtc ..
  | .resume .. | .tlbw .. | .tlbi .. | .tlbs .. | .add .. | .sub .. | .mul .. | .mulh .. | .mulhn .. | .div ..
  | .divn .. | .rem .. | .remn .. | .andR .. | .orR .. | .xorR .. | .andn .. | .orn .. | .shl .. | .shr .. | .sar ..
  | .rol .. | .minR .. | .maxR .. | .minn .. | .maxn .. | .ceq .. | .cne .. | .clt .. | .cle .. | .cltn .. | .clen ..
  | .sel .. | .clz .. | .ctz .. | .popc .. | .sxb .. | .sxh .. | .sxw .. | .zxb .. | .zxh .. | .zxw .. | .addw ..
  | .subw .. | .mulw .. | .bext .. | .bins .. | .bswp .. | .addi .. | .andi .. | .ori .. | .xori .. | .shli ..
  | .shri .. | .sari .. | .ceqi .. | .clti .. | .cltni .. | .movi .. | .movhi .. | .fadd .. | .fsub .. | .fmul ..
  | .fma .. | .fms .. | .fdiv .. | .fsqrt .. | .fmin .. | .fmax .. | .fceq .. | .fclt .. | .fcle .. | .fabs ..
  | .fneg .. | .fcpys .. | .cvtif .. | .cvtfi .. | .cvtff .. | .pk2 .. | .unpk .. | .sensorSample .. | .railRise ..
  | .stageComplete .. | .doeFirmwareImage .. | .allowanceWindowBoundary .. | .registerWrite .. | .laneFailing ..
  | .laneMarginTest .. | .flitReceive .. | .spanIdSet .. | .remoteAccessArrive .. | .remoteMessagePresent ..
  | .hostApertureRead .. | .hostApertureWrite .. | .hostFillWrite .. | .hostEmptyWrite .. | .hostFillRead ..
  | .hostStateRead .. | .qctlWrite .. | .cancel .. | .recordAccept .. | .pageMoveRequest .. | .launchStart ..
  | .preemptSave .. | .launchResume .. | .launchComplete .. | .cancelCoresFreed .. | .grainBlockClaim ..
  | .grainReportBatch .. | .tokenRequest .. | .translationRequest .. | .scrubRead .. | .scrubForced ..
  | .barrierRelease .. | .barphWithdraw .. | .podBarrierToken .. | .astepWrite .. | .afldWrite .. | .pcieLinkDown ..
  | .messageAnswerArrive .. | .nopC | .endFiring | .fenceR | .fenceA | .fenceE | .ltrig | .seal | .nopA
  | .selfRailRemoval | .stageTimeout | .startRetry | .startCtlCold | .startCtlWarm | .doeAttestationRequest
  | .allowanceOverrun | .laneSpareSwap | .laneRepairRelease | .masterElectionDone | .linkRetrainDone | .linkDown
  | .linkResend | .remoteWakeNotice | .outboundQueueSend | .remotePresentRetry | .functionLevelReset
  | .startMessageArrive | .grainClaim | .shootdownArrive | .shootdownComplete | .entryStart | .messageArrive
  | .sendRetry | .fcrDeliver | .holdBufferOffer | .feAttempt | .wakeAppend | .transientExpiry | .migrationDepart
  | .fcrArrive | .resumeEntryDue | .watchdogExpiry | .coreSleep | .coreWake | .accessArrive | .loadReturn | .storeAck
  | .refreshOp | .refreshOpEnd | .copyDataPhase | .copyCompletionFill | .ringPushArrive | .ringSlotFreed
  | .barrierTimeout | .sleepExpiry | .foldJoinComplete | .foldOpStart | .foldRoundEnd | .foldOpComplete
  | .accOpComplete | .rewardBroadcastArrive | .broadcastRetry | .rewardApplyStart | .rewardApplyDone
  | .boardRailRemoval | .arrayLastPass => []
  | .ld d .. | .ldLone d .. | .ldn d .. | .ldnLone d .. | .ldx d .. | .lda d .. | .ldaLone d .. | .ldw d ..
  | .ldwLone d .. | .ldt d .. | .ldtLone d .. | .feq d .. | .feqLone d .. | .amo d .. | .cas d .. => [d]
  | .ldwt d .. | .ldwtLone d .. | .ldtt d .. | .ldttLone d .. => [d, nextReg d]
  | .stpt d .. | .stptLone d .. => [nextReg d]

/-! ### The PC queue (R303) -/

/-- One bundle leaves the front of the queue; `t` comes in at its far end, or the next bundle in sequence. Whether the new
front is annulled comes with it. -/
def Bank.shift (b : Bank) (t : Option Bundle13) : Bank × Bool :=
  ({ b with pc := b.npc1, npc1 := b.npc2, npc2 := t.getD (b.npc2 + 1), ann1 := b.ann2, ann2 := false }, b.ann1)
/-- Annulled bundles are dropped, one a tick; `n` counts them (R303, R304). An annul bit comes from at most two entries. -/
def Bank.skip : Nat → Bank × Bool → Nat → Bank × Nat
  | fuel + 1, (b, true), n => Bank.skip fuel (b.shift none) (n + 1)
  | _, (b, _), n => (b, n)
/-- The step of the PC queue after the bundle at PC has executed (R303); the next bundle issues a tick later, and one more
for each annulled bundle (R305). -/
def Bank.advance (b : Bank) (tick : Nat) : Bank :=
  let r := match b.flow with
    | .seq => b.shift none
    | .taken t => b.shift (some t)
    | .annul => ({ (b.shift none).1 with ann1 := true }, true)
  let k := Bank.skip 4 r 0
  { k.1 with readyAt := tick + 1 + k.2, skipping := decide (k.2 ≠ 0), flow := .seq, issued := false }

/-! ### Holds (R210) -/

/-- Whether a register of the issuing firing awaits the data of a load (R210 item 1). -/
def State.awaitsLoad (s : State) (r : Reg) : Bool :=
  r != 0 && s.accesses.any fun a => s.own a && ((a.dst.map Prod.fst) == some r || a.st == some r)
/-- Whether a register of the issuing firing awaits any result. -/
def State.awaits (s : State) (r : Reg) : Bool := s.me.pending r || s.awaitsLoad r
/-- The registers for which a bundle is held: sources of either word and destinations of loads (R210 item 1). -/
def needsOf (b : Bundle) : List Reg := sourcesOf b.c ++ sourcesOf b.a ++ loadDestsOf b.c ++ loadDestsOf b.a

/-! ### A bundle -/

/-- The bundle has issued: END lets the firing end, MIGR departs behind the bundle, and otherwise the queue steps (R114,
R297, R303). -/
def State.finishBundle (s : State) : State :=
  match s.me.leaving with
  | some .ended => (s.modMe fun b => { b with flow := .seq, issued := false }).tryLeave s.here s.mine.cur
  | some _ => (s.modMe fun b => b.advance s.tick).tryLeave s.here s.mine.cur
  | none => s.modMe fun b => b.advance s.tick
/-- Flags of results written in this tick are ORed into %fpst behind the bundle (R252). -/
def State.endSlot (s : State) (c : Nat) : State :=
  s.modCore c fun k => { k with low := k.low.landFlags s.tick, high := k.high.landFlags s.tick }

/-- The two words of a bundle: word C first; once it has issued, word A executes in the same tick (R209, R210). -/
def State.issueBundle (s : State) (b : Bundle) : Out :=
  match exec b.c s with
  | .next t =>
    if t.me.issued then
      match exec b.a t with
      | .next u => .next (u.finishBundle.endSlot s.here)
      | o => o
    else .next (t.endSlot s.here)
  | o => o

/-- Fetch the bundle at PC and issue or hold it (R209, R210); a code store of this tick has taken the store's port, of
which the passes of an array instruction under way have no need (R212, R401). -/
def State.runBundle (s : State) : Out :=
  let pc := s.me.pc.toNat
  if s.mine.codeAt = some s.tick ∧ s.me.passing = false then .next (s.endSlot s.here)
  else if s.mine.badCode.contains pc then .next ((s.countUncorr 5).trapHere 0x12 0 0 |>.endSlot s.here)
  else
    match decodeBundle (s.rdWord (bundleKey s.here pc)).toNat with
    | none => .fault .illegalBundle
    | some b =>
      if (needsOf b).any s.awaits then
        .next ((if (needsOf b).any s.awaitsLoad then s.holdOp else s.hold).endSlot s.here)
      else s.issueBundle b

/-- A trap that an access answered with is taken at this boundary (R29, R120); an attempt that has left the core comes first (R322,
R433). -/
def State.takeAsync (s : State) : State :=
  match s.me.run, s.me.async, s.me.resolving with
  | .running, some t, false => s.takeTrap s.here s.mine.cur t.cause t.info t.faddr
  | _, _, _ => s

/-- A sequence of a halted core that has made its pass of a tick stops at the boundary behind it (R402). -/
def Bank.stopPass (b : Bank) (t : Nat) : Bank :=
  match b.op with
  | .array _ (some _) (some _) false _ => { (b.keepPass (t + 1)) with op := .idle }
  | _ => b
/-- A bank of a halted core whose operation is decided completes its bundle first: it issues, or traps; a sequence makes the pass of
the tick of the halt (R120, R322, R353, R402, R433). -/
def State.settleBank (s : State) (p : Prio) : Out :=
  let b := s.mine.bank p
  if b.run ≠ .none ∧ b.leaving = none ∧ (b.resolved || b.passing) = true then
    let cur := s.mine.cur
    match (s.modMine fun k => { k with cur := p }).runBundle with
    | .next t => .next (t.modMine fun k => { (k.modBank p (Bank.stopPass · t.tick)) with cur := cur })
    | o => o
  else .next s
/-- A halted core issues nothing but what is decided (R119). -/
def State.haltedSlot (s : State) : Out :=
  match s.settleBank .high with
  | .next t => t.settleBank .low
  | o => o

/-- Whether annulled bundles are being dropped: no bundle boundary lies in these ticks (R304). -/
def Bank.inSkip (b : Bank) (t : Nat) : Bool := b.run == .running && b.skipping && decide (t < b.readyAt)
/-- One core in one tick. A departure in progress goes first (R120); a halted core issues nothing (R119). -/
def State.slot (s : State) (c : Nat) : Out :=
  let s0 := ({ s with here := c }).modCore c fun k => { k with low := k.low.land s.tick, high := k.high.land s.tick }
  let s1 := (s0.tryLeave c .high).tryLeave c .low
  if s1.mine.halt then
    match s1.haltedSlot with
    | .next t => .next (t.endSlot c)
    | o => o
  else if s1.me.leaving.isSome || s1.me.inSkip s1.tick then .next (s1.endSlot c)
  else
    match exec .entryStart s1.takeAsync with
    | .next s2 =>
      if s2.me.run = .running ∧ s2.me.leaving = none ∧ s2.me.readyAt ≤ s2.tick then s2.runBundle else .next (s2.endSlot c)
    | o => o

end Sys2Proof.Machine
end

