-- ==== Sys2Proof/Machine/Step.lean ====
section
/-!
DEFINITION. One step of the package. An event that has fallen due comes about; else the next core moves in this tick; else
the next tick begins (00_scope R5, 06_firings R110, 08_memory_hierarchy R160).
-/
namespace Sys2Proof.Machine

/-- Whether a core moves in a tick: a bank or a FIFO holds something. -/
def Core.busy (k : Core) : Bool :=
  k.low.run != .none || k.high.run != .none || !k.fifoLow.isEmpty || !k.fifoHigh.isEmpty
/-- The next tick begins: the busy cores move in ascending order, and what their registers read as after the tick before is noted
(R285, R374). -/
def State.nextTick (s : State) : State :=
  let cs := (s.cores.filter fun x => x.2.busy).map Prod.fst
  let t := { s with tick := s.tick + 1, turn := cs }
  { t with seen := cs.map fun c => (c, t.seenOf c) }

/-- One step: an event due, or a core's tick, or the next tick. -/
def step (s : State) : Host.Outcome State Fault Refusal :=
  match s.queue with
  | e :: q =>
    if e.due ≤ s.tick then
      exec e.ev { s with queue := q, here := e.core, evPrio := e.prio, evNum := e.num }
    else
      match s.turn with
      | c :: r => ({ s with turn := r }).slot c
      | [] => .next s.nextTick
  | [] =>
    match s.turn with
    | c :: r => ({ s with turn := r }).slot c
    | [] => .next s.nextTick

/-- The state with an instruction placed where the next step fetches it: bundle 0 of core 0, whose low bank runs a firing
at it in this tick; nothing else is due. -/
def State.withFetchWord (s : State) (nbits w : Nat) : State :=
  let s1 := s.wrWord (bundleKey 0 0) (BitVec.ofNat 64 (tableBundle nbits w))
  { s1 with
    turn := [0]
    queue := s1.queue.filter fun e => decide (s1.tick < e.due)
    cores := Sparse.insert s1.cores 0
      { (s1.core 0) with
        halt := false, cur := .low, fifoHigh := [], asleep := false, badCode := [], high := Bank.reset,
        low := { Bank.reset with run := .running, readyAt := s1.tick } } }

end Sys2Proof.Machine
end

