-- ==== Sys2Proof/Safety.lean ====
section
/-!
DEFINITION. What the statements speak of: the invariant of memory, and the shapes of a completed instruction.
-/
namespace Sys2Proof.Machine

/-- A list of word addresses in its one form: strictly rising, each a multiple of 8. -/
def wordList (l : List Nat) : Prop := l.Pairwise (· < ·) ∧ ∀ a ∈ l, a % 8 = 0

/-- The invariant of memory: bytes, full/empty bits and poison are in their canonical forms, so that equal memories are equal
data (R7, R29, R174). -/
structure State.MemInv (s : State) : Prop where
  bytes : Memory.wf s.mem = true
  empties : wordList s.empties
  poison : wordList s.poison
  wpoison : wordList s.wpoison

/-! ### Shapes of completion

Each says that `exec` answers a next state, and gives it whole: nothing else of the package changes. -/

/-- A slot A instruction completes: `v` is written into `d` `lat` ticks after the issue tick (R249). -/
def ResultA (i : Instr) (s : State) (lat : Nat) (d : Reg) (v : Word) : Prop := exec i s = .next (s.wrA lat d v)
/-- The same for one that rounds: its flags are raised in the tick its result is written (R252). -/
def ResultF (i : Instr) (s : State) (lat : Nat) (d : Reg) (r : Word × BitVec 5) : Prop := exec i s = .next (s.wrAF lat d r)
/-- A word C instruction issues and writes `v` into `d` with latency 1 (R211). -/
def ResultC (i : Instr) (s : State) (d : Reg) (v : Word) : Prop := exec i s = .next (s.wrC 1 d v).issue
/-- A branch issues: taken to `t`, not taken, or, where it is nullifying, not taken with its delay bundles annulled (R303). -/
def Branches (i : Instr) (s : State) (taken n : Bool) (t : Bundle13) : Prop :=
  exec i s = .next (s.flow (if taken then .taken t else if n then .annul else .seq)).issue
/-- The instruction issues in this tick and the package goes from `s` to `t` otherwise. -/
def Issues (i : Instr) (s t : State) : Prop := exec i s = .next t.issue
/-- The bundle is held in this tick by an unresolved operation, and the package goes from `s` to `t` otherwise (R210, R121). -/
def Holds (i : Instr) (s t : State) : Prop := exec i s = .next t.holdOp
/-- The firing traps at this bundle (R120, R301). -/
def Traps (i : Instr) (s : State) (cause : BitVec 8) (info : BitVec 48) (faddr : Word) : Prop :=
  exec i s = .next (s.trapHere cause info faddr)

/-- The checks of R135 pass for an access of the issuing firing: page entry `e`, physical address `pa`, and its package has a
route (R39). -/
def State.reaches (s : State) (rq : Req) (e : TlbEntry) (pa : Nat) : Prop := s.resolve rq = .go e pa ∧ s.unreachable pa = false
/-- An access with an answer issues wherever its checks pass: it leaves for its agent in this tick. -/
def Sends (i : Instr) (s : State) (rq : Req) (op : AccOp) (dst : Option (Reg × Option Nat)) (st : Option Reg) (acq : Bool)
    (rel : Option Scope) : Prop :=
  ∀ e pa, s.reaches rq e pa → Issues i s ((s.touch s.here e).launchAccess e pa op rq.va dst st acq rel none)
/-- An access without an answer issues wherever its checks pass and the store buffer is not full (R206). -/
def SendsStore (i : Instr) (s : State) (rq : Req) (op : AccOp) (rel : Option Scope) : Prop :=
  s.storeBuffer s.here < 16 → Sends i s rq op none none false rel

/-- The array can make a pass for the issuing firing in this tick, and no row of it holds bad parity (R204, R386, R387, R404). -/
structure State.ArrayReady (s : State) : Prop where
  alone : s.mine.nested = false
  pass : s.mayPass = true
  parity : s.mine.badPar = []
/-- An array instruction issues with its effect on the rows of the issuing core; its firing is anchored (R115, R386). -/
def MapsRows (i : Instr) (s : State) (f : Nat → Row → Row) : Prop :=
  exec i s = .next (s.modMine fun k => k.mapRows f).issueArray

end Sys2Proof.Machine
end

