-- ==== Sys2Proof/Certificates/Slice0/Obligations.lean ====
section
/-!
DEFINITION. The statements for the provers.
-/
open Sys2Proof Sys2Proof.Machine

/-- R253, R254: every register-register integer instruction, with its latency of R250. R254: the two borderline cases of division. R255, R256: the immediate forms and the bit fields. -/
def Obligations.IntegerForms : Prop := 
  (∀ (s : State) (d a b : Reg),
  let x := s.rd a
  let y := s.rd b
  let sh := y.toNat % 64
  ResultA (.add d a b) s 1 d (x + y) ∧ ResultA (.sub d a b) s 1 d (x - y) ∧ ResultA (.mul d a b) s 3 d (x * y) ∧
  ResultA (.mulh d a b) s 3 d (BitVec.ofInt 64 (x.toInt * y.toInt / 2 ^ 64)) ∧
  ResultA (.mulhn d a b) s 3 d (BitVec.ofNat 64 (x.toNat * y.toNat / 2 ^ 64)) ∧
  ResultA (.div d a b) s 20 d (if y = 0 then BitVec.allOnes 64 else x.sdiv y) ∧
  ResultA (.divn d a b) s 20 d (if y = 0 then BitVec.allOnes 64 else x / y) ∧
  ResultA (.rem d a b) s 20 d (if y = 0 then x else x.srem y) ∧
  ResultA (.remn d a b) s 20 d (if y = 0 then x else x % y) ∧
  ResultA (.andR d a b) s 1 d (x &&& y) ∧ ResultA (.orR d a b) s 1 d (x ||| y) ∧ ResultA (.xorR d a b) s 1 d (x ^^^ y) ∧
  ResultA (.andn d a b) s 1 d (x &&& ~~~y) ∧ ResultA (.orn d a b) s 1 d (x ||| ~~~y) ∧
  ResultA (.shl d a b) s 1 d (x <<< sh) ∧ ResultA (.shr d a b) s 1 d (x >>> sh) ∧
  ResultA (.sar d a b) s 1 d (x.sshiftRight sh) ∧
  ResultA (.rol d a b) s 1 d ((x <<< sh) ||| (if sh = 0 then x else x >>> (64 - sh))) ∧
  ResultA (.minR d a b) s 1 d (if x.toInt ≤ y.toInt then x else y) ∧
  ResultA (.maxR d a b) s 1 d (if x.toInt ≤ y.toInt then y else x) ∧
  ResultA (.minn d a b) s 1 d (if x.toNat ≤ y.toNat then x else y) ∧
  ResultA (.maxn d a b) s 1 d (if x.toNat ≤ y.toNat then y else x) ∧
  ResultA (.ceq d a b) s 1 d (if x = y then 1 else 0) ∧ ResultA (.cne d a b) s 1 d (if x = y then 0 else 1) ∧
  ResultA (.clt d a b) s 1 d (if x.toInt < y.toInt then 1 else 0) ∧
  ResultA (.cle d a b) s 1 d (if x.toInt ≤ y.toInt then 1 else 0) ∧
  ResultA (.cltn d a b) s 1 d (if x.toNat < y.toNat then 1 else 0) ∧
  ResultA (.clen d a b) s 1 d (if x.toNat ≤ y.toNat then 1 else 0) ∧
  ResultA (.sel d a b) s 1 d (if s.rd d ≠ 0 then x else y) ∧
  (∃ n : Nat, ResultA (.clz d a) s 1 d (BitVec.ofNat 64 n) ∧ n ≤ 64 ∧ (∀ i, 64 - n ≤ i → x.getLsbD i = false) ∧
    (n < 64 → x.getLsbD (63 - n) = true)) ∧
  (∃ n : Nat, ResultA (.ctz d a) s 1 d (BitVec.ofNat 64 n) ∧ n ≤ 64 ∧ (∀ i, i < n → x.getLsbD i = false) ∧
    (n < 64 → x.getLsbD n = true)) ∧
  ResultA (.popc d a) s 1 d (BitVec.ofNat 64 (((List.range 64).filter fun i => x.getLsbD i).length)) ∧
  ResultA (.sxb d a) s 1 d ((x.extractLsb' 0 8).signExtend 64) ∧
  ResultA (.sxh d a) s 1 d ((x.extractLsb' 0 16).signExtend 64) ∧
  ResultA (.sxw d a) s 1 d ((x.extractLsb' 0 32).signExtend 64) ∧
  ResultA (.zxb d a) s 1 d (x &&& 0xFF) ∧ ResultA (.zxh d a) s 1 d (x &&& 0xFFFF) ∧
  ResultA (.zxw d a) s 1 d (x &&& 0xFFFFFFFF) ∧
  ResultA (.addw d a b) s 1 d (((x.extractLsb' 0 32) + (y.extractLsb' 0 32)).signExtend 64) ∧
  ResultA (.subw d a b) s 1 d (((x.extractLsb' 0 32) - (y.extractLsb' 0 32)).signExtend 64) ∧
  ResultA (.mulw d a b) s 3 d (((x.extractLsb' 0 32) * (y.extractLsb' 0 32)).signExtend 64) ∧
  (∃ v : Word, ResultA (.bswp d a) s 1 d v ∧ ∀ j, j < 8 → v.extractLsb' (8 * j) 8 = x.extractLsb' (8 * (7 - j)) 8)) ∧
  (∀ (s : State) (d a b : Reg),
  (s.rd b = 0 →
    ResultA (.div d a b) s 20 d 0xFFFFFFFFFFFFFFFF ∧ ResultA (.divn d a b) s 20 d 0xFFFFFFFFFFFFFFFF ∧
    ResultA (.rem d a b) s 20 d (s.rd a) ∧ ResultA (.remn d a b) s 20 d (s.rd a)) ∧
  (s.rd a = 0x8000000000000000 → s.rd b = 0xFFFFFFFFFFFFFFFF →
    ResultA (.div d a b) s 20 d 0x8000000000000000 ∧ ResultA (.rem d a b) s 20 d 0)) ∧
  (∀ (s : State) (d a : Reg) (i : BitVec 14) (k pos len : BitVec 6),
  let x := s.rd a
  let v : Word := i.signExtend 64
  let l := if len = 0 then 64 else len.toNat
  let mask : Word := BitVec.ofNat 64 ((2 ^ l - 1) * 2 ^ pos.toNat)
  ResultA (.addi d a i) s 1 d (x + v) ∧ ResultA (.andi d a i) s 1 d (x &&& v) ∧ ResultA (.ori d a i) s 1 d (x ||| v) ∧
  ResultA (.xori d a i) s 1 d (x ^^^ v) ∧ ResultA (.shli d a k) s 1 d (x <<< k.toNat) ∧
  ResultA (.shri d a k) s 1 d (x >>> k.toNat) ∧ ResultA (.sari d a k) s 1 d (x.sshiftRight k.toNat) ∧
  ResultA (.ceqi d a i) s 1 d (if x = v then 1 else 0) ∧
  ResultA (.clti d a i) s 1 d (if x.toInt < v.toInt then 1 else 0) ∧
  ResultA (.cltni d a i) s 1 d (if x.toNat < v.toNat then 1 else 0) ∧
  ResultA (.movi d i) s 1 d v ∧ ResultA (.movhi d i) s 1 d (v <<< 32) ∧
  ResultA (.bext d a pos len) s 1 d (BitVec.ofNat 64 (x.toNat / 2 ^ pos.toNat % 2 ^ l)) ∧
  ResultA (.bins d a pos len) s 1 d ((s.rd d &&& ~~~mask) ||| ((x <<< pos.toNat) &&& mask)))

/-- R257 to R261: each FP32 instruction completes, with its latency and flags. The operands are bits 31:0 of the registers;
FADD to FSQRT round the one exact value once (R258), in the mode of R252. R262 to R266: the conversions complete with latency 3; the values are those of the model's rounding of R226. -/
def Obligations.FloatForms : Prop := 
  (∀ (s : State) (d a b : Reg) (r : Rm),
  let x := f32 (s.rd a)
  let y := f32 (s.rd b)
  let z := f32 (s.rd d)
  let m := s.mode r
  ResultF (.fadd d a b r) s 4 d (f32Guard [x, y] (f32Result m (x.add m y))) ∧
  ResultF (.fsub d a b r) s 4 d (f32Guard [x, y] (f32Result m (x.add m y.negate))) ∧
  ResultF (.fmul d a b r) s 4 d (f32Guard [x, y] (f32Result m (x.mul y))) ∧
  ResultF (.fma d a b r) s 4 d (f32Guard [z, x, y] (f32Result m ((x.mul y).bind fun p => z.add m p))) ∧
  ResultF (.fms d a b r) s 4 d (f32Guard [z, x, y] (f32Result m ((x.mul y).bind fun p => z.add m p.negate))) ∧
  ResultF (.fdiv d a b r) s 12 d (fdivRes m (s.rd a) (s.rd b)) ∧ ResultF (.fsqrt d a r) s 12 d (fsqrtRes m (s.rd a)) ∧
  ResultF (.fmin d a b) s 1 d (f32Guard [x, y] ((if ltZ y x then s.rd b else s.rd a) &&& 0xFFFFFFFF, 0)) ∧
  ResultF (.fmax d a b) s 1 d (f32Guard [x, y] ((if ltZ x y then s.rd b else s.rd a) &&& 0xFFFFFFFF, 0)) ∧
  ResultF (.fceq d a b) s 1 d (if x.eq y then 1 else 0, if x.isSnan || y.isSnan then 1 else 0) ∧
  ResultF (.fclt d a b) s 1 d
    (if !(x.isNan || y.isNan) && x.lt y then 1 else 0, if x.isNan || y.isNan then 1 else 0) ∧
  ResultF (.fcle d a b) s 1 d
    (if !(x.isNan || y.isNan) && !y.lt x then 1 else 0, if x.isNan || y.isNan then 1 else 0) ∧
  ResultF (.fabs d a) s 1 d (if x.isNan then 0x7FC00000 else s.rd a &&& 0x7FFFFFFF, 0) ∧
  ResultF (.fneg d a) s 1 d (if x.isNan then 0x7FC00000 else (s.rd a &&& 0xFFFFFFFF) ^^^ 0x80000000, 0) ∧
  ResultF (.fcpys d a b) s 1 d
    (if x.isNan then 0x7FC00000 else (s.rd a &&& 0x7FFFFFFF) ||| (s.rd b &&& 0x80000000), 0)) ∧
  (∀ (s : State) (d a : Reg) (t : IntTy) (f : FpTy) (p : FfPair) (n : NarrowFmt) (r : Rm),
  let w := s.rd a
  ResultF (.cvtif d a t f r) s 3 d (cvtifRes t f (s.mode r) w) ∧
  ResultF (.cvtfi d a f t r) s 3 d (cvtfiRes f t (s.mode r) w) ∧
  ResultF (.cvtff d a p r) s 3 d (cvtffRes p (s.mode r) w) ∧
  ResultF (.pk2 d a n r) s 3 d (pk2Res n (s.mode r) w) ∧ ResultF (.unpk d a n) s 3 d (unpkRes n w) ∧
  -- R265: a NaN converts to 0 and every value outside the type saturates, both with invalid.
  (∀ m, ((fpTyFmt f).decode w.toNat).isNan = true → cvtfiRes f t m w = (0, 1)) ∧
  (∀ m, (fpTyFmt f).decode w.toNat = .inf false → cvtfiRes f t m w = (BitVec.ofInt 64 (intMax t), 1)) ∧
  (∀ m, (fpTyFmt f).decode w.toNat = .inf true → cvtfiRes f t m w = (BitVec.ofInt 64 (intMin t), 1)))

/-- R258: a NaN operand gives the canonical NaN, with invalid exactly for a signalling one; and the invalid and
divide-by-zero cases, in every rounding mode. -/
def Obligations.FloatInvalidCases : Prop := ∀ (m : Mode) (a b z : Word),
  ((f32 a).isNan = true ∨ (f32 b).isNan = true →
    let fl : BitVec 5 := if (f32 a).isSnan || (f32 b).isSnan then 1 else 0
    faddRes m a b = (0x7FC00000, fl) ∧ fsubRes m a b = (0x7FC00000, fl) ∧ fmulRes m a b = (0x7FC00000, fl) ∧
    fdivRes m a b = (0x7FC00000, fl) ∧ fminRes a b = (0x7FC00000, fl) ∧ fmaxRes a b = (0x7FC00000, fl)) ∧
  ((f32 a).isNan = true → fsqrtRes m a = (0x7FC00000, if (f32 a).isSnan then 1 else 0)) ∧
  (f32 a = .inf true → f32 b = .inf false → faddRes m a b = (0x7FC00000, 1)) ∧
  (f32 a = .inf false → f32 b = .inf true → faddRes m a b = (0x7FC00000, 1)) ∧
  (∀ t, f32 a = .inf t → f32 b = .inf t → fsubRes m a b = (0x7FC00000, 1) ∧ fdivRes m a b = (0x7FC00000, 1)) ∧
  ((f32 a).isZero = true → (f32 b).isInf = true → fmulRes m a b = (0x7FC00000, 1) ∧
    ((f32 z).isNan = false → fmaRes m z a b = (0x7FC00000, 1) ∧ fmsRes m z a b = (0x7FC00000, 1))) ∧
  ((f32 a).isZero = true → (f32 b).isZero = true → fdivRes m a b = (0x7FC00000, 1)) ∧
  ((f32 a).isFin = true → (f32 a).isZero = false → (f32 b).isZero = true →
    fdivRes m a b = (if (f32 a).neg != (f32 b).neg then 0xFF800000 else 0x7F800000, 2)) ∧
  ((f32 a).isNan = false → (f32 a).neg = true → (f32 a).isZero = false → fsqrtRes m a = (0x7FC00000, 1))

/-- R207, R211, R249, R252: when a result and its flags become visible. A result on its way reads from its tick on, not
before; no other register changes; a write to g0 is discarded. R211: of two results for one register that fall due in one tick, that of word A is kept, whichever is put on its way
first. -/
def Obligations.ResultsLandInTime : Prop := 
  (∀ (b : Bank) (isA : Bool) (due k : Nat) (d r : Reg) (v : Word),
  b.pending d = false →
  ((b.write isA due d v).land k).rd d = (if d = 0 then 0 else if due ≤ k then v else (b.land k).rd d) ∧
  (r ≠ d → ((b.write isA due d v).land k).rd r = (b.land k).rd r) ∧
  (b.write isA due 0 v) = b) ∧
  (∀ (b : Bank) (due k : Nat) (d : Reg) (v w : Word),
  d ≠ 0 → b.pending d = false → due ≤ k →
  (((b.write false due d v).write true due d w).land k).rd d = w ∧
  (((b.write true due d w).write false due d v).land k).rd d = w)

/-- What a result and the issue of a word C leave alone: memory and every other field of the package but its cores, every other
core, of the core everything but the issuing bank, and of the bank everything but the results on their way and the marks of the
bundle. -/
def Obligations.ResultFrame : Prop := ∀ (s : State) (lat : Nat) (d : Reg) (v : Word),
  let pend (isA : Bool) : List Pend :=
    if d = 0 then s.me.pend else pendInsert s.me.pend { due := s.tick + lat, isA := isA, dst := .gpr d, val := v }
  (∀ t : State, t = s.wrA lat d v ∨ t = (s.wrC lat d v).issue →
    t = { s with cores := t.cores } ∧ (∀ c, c ≠ s.here → t.core c = s.core c) ∧
    { t.mine with low := s.mine.low, high := s.mine.high } = s.mine ∧
    (∀ p, p ≠ s.mine.cur → t.bank s.here p = s.bank s.here p)) ∧
  (s.wrA lat d v).me = { s.me with pend := pend true } ∧
  (s.wrC lat d v).issue.me = { s.me with pend := pend false, issued := true, op := .idle, xl := .none, wdc := 0, barHeld := 0,
                                         arrOwn := none, woken := false, wasSusp := false, feHeld := 0, lands := none,
                                         lastOne := false, xlat := 0, pass := 0 }

/-- R242: NOP in both words, and the moves of word C. -/
def Obligations.NopsAndMoves : Prop := ∀ (s : State) (d : Reg) (i : BitVec 14) (e : W32),
  exec .nopA s = .next s ∧ Issues .nopC s s ∧ ResultC (.movl d i) s d (i.signExtend 64) ∧
  ResultC (.movlLone d e) s d (e.signExtend 64) ∧
  ResultC (.movlh d e) s d (BitVec.ofNat 64 (e.toNat * 2 ^ 32 + (s.rd d).toNat % 2 ^ 32))

/-- R306, R307: the PC-relative branches and the jump, with their conditions and targets. R307: the lone branches, to the bundle index in E. -/
def Obligations.BranchesAndJump : Prop := 
  (∀ (s : State) (a b : Reg) (n : Bool) (t : BitVec 18) (u : BitVec 13),
  let x := s.rd a
  let y := s.rd b
  let far := s.me.pc + t.signExtend 13
  let near := s.me.pc + u
  Branches (.br n t) s true n far ∧ Branches (.bz a n t) s (x == 0) n far ∧ Branches (.bnz a n t) s (x != 0) n far ∧
  Branches (.bltz a n t) s (decide (x.toInt < 0)) n far ∧ Branches (.bgez a n t) s (decide (0 ≤ x.toInt)) n far ∧
  Branches (.beq a b n u) s (x == y) n near ∧ Branches (.bne a b n u) s (x != y) n near ∧
  Branches (.blt a b n u) s (decide (x.toInt < y.toInt)) n near ∧
  Branches (.bge a b n u) s (decide (y.toInt ≤ x.toInt)) n near ∧
  Branches (.bltn a b n u) s (decide (x.toNat < y.toNat)) n near ∧
  Branches (.bgen a b n u) s (decide (y.toNat ≤ x.toNat)) n near ∧
  Branches (.jmp a) s true false (x.setWidth 13)) ∧
  (∀ (s : State) (a b : Reg) (n : Bool) (t : Bundle13),
  let x := s.rd a
  let y := s.rd b
  Branches (.brLone n t) s true n t ∧ Branches (.bzLone a n t) s (x == 0) n t ∧ Branches (.bnzLone a n t) s (x != 0) n t ∧
  Branches (.bltzLone a n t) s (decide (x.toInt < 0)) n t ∧ Branches (.bgezLone a n t) s (decide (0 ≤ x.toInt)) n t ∧
  Branches (.beqLone a b n t) s (x == y) n t ∧ Branches (.bneLone a b n t) s (x != y) n t ∧
  Branches (.bltLone a b n t) s (decide (x.toInt < y.toInt)) n t ∧
  Branches (.bgeLone a b n t) s (decide (y.toInt ≤ x.toInt)) n t ∧
  Branches (.bltnLone a b n t) s (decide (x.toNat < y.toNat)) n t ∧
  Branches (.bgenLone a b n t) s (decide (y.toNat ≤ x.toNat)) n t)

/-- R310: CALL and CALLR write their own bundle index plus 3, modulo 8192, into g31, whatever stands in the PC queue, and nothing
else keeps a return; CALLR g31 jumps to the old g31; JMP of g31 returns. -/
def Obligations.CallsLink : Prop := ∀ (s : State) (a : Reg) (n : Bool) (t : BitVec 18) (u : Bundle13),
  let link : Word := BitVec.ofNat 64 ((s.me.pc.toNat + 3) % 8192)
  exec (.call n t) s = .next ((s.wrC 1 31 link).flow (.taken (s.me.pc + t.signExtend 13))).issue ∧
  exec (.callLone n u) s = .next ((s.wrC 1 31 link).flow (.taken u)).issue ∧
  exec (.callr a) s = .next ((s.wrC 1 31 link).flow (.taken ((s.rd a).setWidth 13))).issue ∧
  exec (.callr 31) s = .next ((s.wrC 1 31 link).flow (.taken ((s.rd 31).setWidth 13))).issue ∧
  Branches (.jmp 31) s true false ((s.rd 31).setWidth 13)

/-- R311: LOOP writes ga - 1 modulo 2^64 with latency 1 and is taken when that value is not zero; of g0 it is always taken and
writes nothing; a counter of c gives c executions, of which the first c - 1 are taken, and one of 0 wraps; with .n the
delay bundles of an untaken one are passed over. -/
def Obligations.LoopCounts : Prop := ∀ (s : State) (a : Reg) (n : Bool) (t : BitVec 18) (u : Bundle13) (c : Word) (k tick : Nat) (b : Bank),
  let next : Word := s.rd a - 1
  let s2 := s.wrC 1 a next
  let rel := s.me.pc + t.signExtend 13
  exec (.loop a n t) s = .next (s2.flow (if next ≠ 0 then .taken rel else if n then .annul else .seq)).issue ∧
  exec (.loopLone a n u) s = .next (s2.flow (if next ≠ 0 then .taken u else if n then .annul else .seq)).issue ∧
  (a = 0 → exec (.loop a n t) s = .next (s2.flow (.taken rel)).issue ∧ exec (.loopLone a n u) s = .next (s2.flow (.taken u)).issue ∧
    s2.me = s.me) ∧
  (k < c.toNat → (c - BitVec.ofNat 64 k - 1 ≠ 0 ↔ k + 1 < c.toNat)) ∧
  ((0 : Word) - 1 = 0xFFFFFFFFFFFFFFFF) ∧
  (b.ann1 = false → b.ann2 = false → let b' := ({ b with flow := .annul } : Bank).advance tick
    b'.pc = b.npc2 + 1 ∧ b'.npc1 = b.npc2 + 2 ∧ b'.npc2 = b.npc2 + 3)

/-- R303, R305, R309: the step of the PC queue after a bundle. Without annulled successors: in sequence, a taken branch with its
two delay bundles, and a nullifying branch that is not taken, which costs its two annulled bundles a tick each. Bundles
that an earlier branch annulled are passed over by their places in the queue, at a tick each. -/
def Obligations.PcQueueSteps : Prop := ∀ (b : Bank) (tick : Nat) (t : Bundle13),
  let q := fun (x : Bank) => (x.pc, x.npc1, x.npc2, x.readyAt)
  (b.ann1 = false → b.ann2 = false →
    q (({ b with flow := .seq }).advance tick) = (b.npc1, b.npc2, b.npc2 + 1, tick + 1) ∧
    q (({ b with flow := .taken t }).advance tick) = (b.npc1, b.npc2, t, tick + 1) ∧
    q (({ b with flow := .annul }).advance tick) = (b.npc2 + 1, b.npc2 + 2, b.npc2 + 3, tick + 3)) ∧
  (b.ann1 = true → b.ann2 = false → q (({ b with flow := .seq }).advance tick) = (b.npc2, b.npc2 + 1, b.npc2 + 2, tick + 2)) ∧
  (b.ann1 = true → b.ann2 = true → q (({ b with flow := .seq }).advance tick) = (b.npc2 + 1, b.npc2 + 2, b.npc2 + 3, tick + 3)) ∧
  (b.ann1 = false → b.ann2 = true → q (({ b with flow := .seq }).advance tick) = (b.npc1, b.npc2, b.npc2 + 1, tick + 1) ∧
    (({ b with flow := .seq }).advance tick).ann1 = true)

/-- R267, R270, R272: the loads, with the address and the widening of each form. A load whose checks pass issues, and its
request leaves for its agent. R274, R275, R280, R281: FEQ, the try forms, CAS and an AMO that does not respect F/E. A try form writes data to gd and
status to the next register; STPT writes the status only. -/
def Obligations.LoadsTriesAndAtomicsIssue : Prop := 
  (∀ (s : State) (d a b : Reg) (sz : Size) (sc : Scope) (p : BitVec 9) (x : W32),
  let n := sz.bytes
  let va := s.rd a + p.signExtend 64 * BitVec.ofNat 64 n
  let vl := s.rd a + x.signExtend 64
  let vx := s.rd a + s.rd b
  let sx := some (d, some (8 * n))
  Sends (.ld d a sz p) s (reqLoad va n) (.load sz) sx none false none ∧
  Sends (.ldLone d a sz x) s (reqLoad vl n) (.load sz) sx none false none ∧
  Sends (.ldn d a sz p) s (reqLoad va n) (.load sz) (some (d, none)) none false none ∧
  Sends (.ldnLone d a sz x) s (reqLoad vl n) (.load sz) (some (d, none)) none false none ∧
  Sends (.ldx d a b sz) s (reqLoad vx n) (.load sz) sx none false none ∧
  Sends (.lda d a sz sc p) s (reqLoad va n) (.load sz) sx none true none ∧
  Sends (.ldaLone d a sz sc x) s (reqLoad vl n) (.load sz) sx none true none) ∧
  (∀ (s : State) (d a b : Reg) (sc : Scope) (p : BitVec 9) (x : W32) (w : Bool)
    (o : AmoOp),
  let va := s.rd a + p.signExtend 64 * 8
  let vl := s.rd a + x.signExtend 64
  let d' : Reg := d + 1
  let m := if w then 8 else 4
  Sends (.feq d a p) s (reqFeRead va) .feq (some (d, none)) none false none ∧
  Sends (.feqLone d a x) s (reqFeRead vl) .feq (some (d, none)) none false none ∧
  Sends (.ldwt d a sc p) s (reqFeRead va) .ldwt (some (d, none)) (some d') true none ∧
  Sends (.ldwtLone d a sc x) s (reqFeRead vl) .ldwt (some (d, none)) (some d') true none ∧
  Sends (.ldtt d a sc p) s (reqFeWrite va) .ldtt (some (d, none)) (some d') true none ∧
  Sends (.ldttLone d a sc x) s (reqFeWrite vl) .ldtt (some (d, none)) (some d') true none ∧
  Sends (.stpt d a sc p) s (reqFeWrite va) (.stpt (s.rd d)) none (some d') true (some sc) ∧
  Sends (.stptLone d a sc x) s (reqFeWrite vl) (.stpt (s.rd d)) none (some d') true (some sc) ∧
  Sends (.cas d a b sc w) s (reqAtom (s.rd a) m false) (.cas w (s.rd d) (s.rd b)) (some (d, none)) none true (some sc) ∧
  Sends (.amo d a b o sc w false) s (reqAtom (s.rd a) m false) (.amo o w (s.rd b) false) (some (d, none)) none true (some sc))

/-- R267, R270, R272, R274, R282: the stores, STF, EMP and RED, which ask for no answer. R284, R198: the fences complete when what they wait for is performed, and FENCE.ORD and FENCE.R trap
MEMERR behind a dropped store (R39; of FENCE.ORD by the model's choice, log entry 57). R273: PREF in both forms. A prefetch that misses the
TLB, or of a page without R, or not of the L1, does nothing but issue; one of a line that the L1 holds is dropped too, and else it uses
the page entry and finds what errors the line's two blocks hold. Whether the line is there, the use of the entry and the errors found
are the model's choices (log entries 107, 15, 18). -/
def Obligations.StoresFencesAndPrefetch : Prop := 
  (∀ (s : State) (d a b : Reg) (sz : Size) (sc : Scope) (p : BitVec 9) (x : W32) (w : Bool)
    (o : AmoOp) (r : Rm),
  let n := sz.bytes
  let va := s.rd a + p.signExtend 64 * BitVec.ofNat 64 n
  let v8 := s.rd a + p.signExtend 64 * 8
  let vl := s.rd a + x.signExtend 64
  let v := s.rd d
  let m := if w then 8 else 4
  SendsStore (.st d a sz p) s (reqStore va n) (.store sz v) none ∧
  SendsStore (.stLone d a sz x) s (reqStore vl n) (.store sz v) none ∧
  SendsStore (.stx d a b sz) s (reqStore (s.rd a + s.rd b) n) (.store sz v) none ∧
  SendsStore (.stl d a sz sc p) s (reqStore va n) (.store sz v) (some sc) ∧
  SendsStore (.stlLone d a sz sc x) s (reqStore vl n) (.store sz v) (some sc) ∧
  SendsStore (.stf d a sc p) s (reqFeWrite v8) (.stf v) (some sc) ∧
  SendsStore (.stfLone d a sc x) s (reqFeWrite vl) (.stf v) (some sc) ∧
  SendsStore (.emp a p) s (reqFeWrite v8) .emp none ∧ SendsStore (.empLone a x) s (reqFeWrite vl) .emp none ∧
  SendsStore (.red a b (.int o) sc w) s (reqAtom (s.rd a) m false) (.red o w (s.rd b)) (some sc) ∧
  SendsStore (.red a b (.fadd r) sc w) s (reqAtom (s.rd a) m false) (.redFadd (s.mode r) (s.rd b)) (some sc)) ∧
  (∀ (s : State) (a : Reg) (p : BitVec 9) (x : W32) (sc : Scope),
  let own := s.accesses.filter fun y => s.own y
  (own = [] → Issues .fenceA s s ∧ (s.me.dropped = none → Issues (.fenceOrd sc) s s ∧ Issues .fenceR s s)) ∧
  (∀ y ∈ own, y.remote = true → s.me.dropped = none → Holds .fenceR s s) ∧
  (∀ y ∈ own, y.ans = none → s.me.dropped = none → (y.remote = false ∨ sc = .pod ∨ sc = .sys) → Holds (.fenceOrd sc) s s) ∧
  (∀ y ∈ own, y.ans = none → (∃ v o, placeOf (offOf y.pa) = .vault v o) →
    Holds .fenceA s s ∧ (s.me.dropped = none → Holds (.fenceOrd sc) s s)) ∧
  (∀ f, s.me.dropped = some f → Traps .fenceR s 0x14 0 f ∧ Traps (.fenceOrd sc) s 0x14 0 f) ∧
  (∀ (i : Instr) (v : Word),
    (i = .pref a p ∧ v = s.rd a + p.signExtend 64) ∨ (i = .prefLone a x ∧ v = s.rd a + x.signExtend 64) →
    let va := v.toNat
    (s.lookup s.here s.mine.space va = none ∨ 2 ^ 56 ≤ va → Issues i s s) ∧
    (∀ e, va < 2 ^ 56 → s.lookup s.here s.mine.space va = some e →
      let line := keyOf (offOf (e.pbase + va % e.bytes)) / 128 * 128
      (attrR e.attr = true → s.agentOf e.attr (e.pbase + va % e.bytes) = .l1 →
        Issues i s (if Config.lineThere s.free then s.bumpFree
          else ((s.bumpFree.useEntry s.here e).meetBlock line).meetBlock (line + 64))) ∧
      (attrR e.attr = false ∨ s.agentOf e.attr (e.pbase + va % e.bytes) ≠ .l1 → Issues i s s))))

/-- R276, R278, R280: a waiting operation issues when the answer of its latest attempt is success, and a load among them
writes the word it read. A PARK answered at the own L1 is over at the tick its read comes back; one of an anchored firing that has been
held for (BUD + 1) × 16 ticks traps FE_BUDGET (R115). R115, R179, R188, R276: what else an answer does to a waiting operation. EXPIRED traps; a failed attempt that is not the
last rests 16 ticks; after the last one a loose low firing parks, an anchored one traps FE_BUDGET and a high one HIGH_PARK. -/
def Obligations.WaitingOperations : Prop := 
  (∀ (s : State) (d a b : Reg) (sc : Scope) (p : BitVec 9) (x : W32) (w : Bool)
    (o : AmoOp) (n key pa lat till : Nat) (v : Word),
  (s.me.op = .fe n key pa lat (.answered (.done v)) →
    Issues (.ldw d a sc p) s (s.wrC lat d v) ∧ Issues (.ldwLone d a sc x) s (s.wrC lat d v) ∧
    Issues (.ldt d a sc p) s (s.wrC lat d v) ∧ Issues (.ldtLone d a sc x) s (s.wrC lat d v) ∧
    Issues (.amo d a b o sc w true) s (s.wrC lat d v) ∧
    Issues (.stp d a sc p) s s ∧ Issues (.stpLone d a sc x) s s ∧
    (lat = 0 → Issues (.park d a p) s s ∧ Issues (.parkLone d a x) s s)) ∧
  (s.me.op = .reading till → till ≤ s.tick → Issues (.park d a p) s s ∧ Issues (.parkLone d a x) s s) ∧
  (s.me.op = .fe n key pa 0 .ready → s.me.anch = true → s.me.rbud ≠ 0xFFFF → (s.me.rbud.toNat + 1) * 16 ≤ s.me.feHeld →
    Traps (.park d a p) s 0x06 0 0 ∧ Traps (.parkLone d a x) s 0x06 0 0)) ∧
  (∀ (s : State) (d a : Reg) (sc : Scope) (p : BitVec 9) (n key pa lat : Nat),
  let park (k : ParkKind) := s.leaveAs s.here s.mine.cur (.park key pa k)
  let last := s.me.woken = true ∨ (s.me.rbud ≠ 0xFFFF ∧ s.me.rbud.toNat ≤ n)
  let rest := ((s.modMe fun b => { b with op := .fe (n + 1) key pa lat (.resting (s.tick + 16)) }).enqueue (s.tick + 16) s.here
    s.mine.cur 0 .feAttempt)
  (s.me.op = .fe (n + 1) key pa lat (.answered .expired) →
    Traps (.ldw d a sc p) s 0x10 0 0 ∧ Traps (.ldt d a sc p) s 0x10 0 0 ∧ Traps (.stp d a sc p) s 0x10 0 0) ∧
  (s.me.op = .fe (n + 1) key pa lat (.answered .notReady) → s.me.wasSusp = false →
    (¬ last → Holds (.ldw d a sc p) s rest ∧ Holds (.ldt d a sc p) s rest ∧ Holds (.stp d a sc p) s rest) ∧
    (last → s.me.anch = true →
      Traps (.ldw d a sc p) s 0x06 0 0 ∧ Traps (.ldt d a sc p) s 0x06 0 0 ∧ Traps (.stp d a sc p) s 0x06 0 0) ∧
    (last → s.me.anch = false → s.mine.cur = .high →
      Traps (.ldw d a sc p) s 0x15 0 0 ∧ Traps (.ldt d a sc p) s 0x15 0 0 ∧ Traps (.stp d a sc p) s 0x15 0 0) ∧
    (last → s.me.anch = false → s.mine.cur = .low →
      exec (.ldw d a sc p) s = .next (park .waiter) ∧ exec (.ldt d a sc p) s = .next (park .taker) ∧
      exec (.stp d a sc p) s = .next (park .putter))))

/-- R135, R268: the first checks of an access. A misaligned address traps ALIGN, one at or above 2^56 traps PAGE, and a page
without the right that the access needs traps PROT, each with the address in FADDR. R135: where a check fails, the access traps at its bundle with the cause and FADDR of the check. -/
def Obligations.AccessChecks : Prop := 
  (∀ (s : State) (rq : Req),
  (rq.va.toNat % rq.size ≠ 0 → s.resolve rq = .trap 0x03 rq.va) ∧
  (rq.va.toNat % rq.size = 0 → 2 ^ 56 ≤ rq.va.toNat → s.resolve rq = .trap 0x05 rq.va) ∧
  (rq.va.toNat % rq.size = 0 → rq.va.toNat < 2 ^ 56 → s.me.xl = .none →
    ∀ e, s.lookup s.here s.mine.space rq.va.toNat = some e →
      (rq.r = true ∧ attrR e.attr = false) ∨ (rq.w = true ∧ attrW e.attr = false) → s.resolve rq = .trap 0x04 rq.va)) ∧
  (∀ (s : State) (d a b : Reg) (sz : Size) (sc : Scope) (p : BitVec 9) (x : W32)
    (cause : BitVec 8) (faddr : Word),
  let bad (rq : Req) := s.resolve rq = .trap cause faddr
  let n := sz.bytes
  let va := s.rd a + p.signExtend 64 * BitVec.ofNat 64 n
  let v8 := s.rd a + p.signExtend 64 * 8
  let free := s.storeBuffer s.here < 16
  (bad (reqLoad va n) → Traps (.ld d a sz p) s cause 0 faddr ∧ Traps (.ldn d a sz p) s cause 0 faddr ∧
    Traps (.lda d a sz sc p) s cause 0 faddr) ∧
  (bad (reqLoad (s.rd a + s.rd b) n) → Traps (.ldx d a b sz) s cause 0 faddr) ∧
  (bad (reqStore va n) → free → Traps (.st d a sz p) s cause 0 faddr ∧ Traps (.stl d a sz sc p) s cause 0 faddr) ∧
  (bad (reqStore (s.rd a + s.rd b) n) → free → Traps (.stx d a b sz) s cause 0 faddr) ∧
  (bad (reqFeWrite v8) → free → Traps (.stf d a sc p) s cause 0 faddr ∧ Traps (.emp a p) s cause 0 faddr) ∧
  (bad (reqFeRead v8) → Traps (.feq d a p) s cause 0 faddr ∧
    (s.me.op = .idle → Traps (.ldw d a sc p) s cause 0 faddr)) ∧
  (bad (reqFeWrite v8) → s.me.op = .idle → Traps (.ldt d a sc p) s cause 0 faddr ∧ Traps (.stp d a sc p) s cause 0 faddr) ∧
  (bad (reqLoad (s.rd a + x.signExtend 64) n) → Traps (.ldLone d a sz x) s cause 0 faddr))

/-- R7, R177, R270: what a load and a store do at their agent in ordinary memory. A load answers the bytes of its place, least
significant first, and changes nothing; a store changes exactly its own bytes. R7: a word reads back as it was written, and a write leaves every byte outside it alone. -/
def Obligations.MemoryAtItsAgent : Prop := 
  (∀ (s : State) (lid : BitVec 32) (sz : Size) (v : Word) (va pa key : Nat),
  Memory.wf s.mem = true → placeOf (offOf pa) = .hbm ∨ (∃ k o, placeOf (offOf pa) = .vault k o) → s.poisoned key = false →
  s.doOp lid (.load sz) va pa key false = (.done (BitVec.ofNat 64 (s.rdN key sz.bytes)), s) ∧
  (let t := (s.doOp lid (.store sz v) va pa key false).2
   (s.doOp lid (.store sz v) va pa key false).1 = .done 0 ∧
   t.rdN key sz.bytes = v.toNat % 2 ^ (8 * sz.bytes) ∧
   (∀ i, i < sz.bytes → t.rdByte (key + i) = v.extractLsb' (8 * i) 8) ∧
   (∀ a, a < key ∨ key + sz.bytes ≤ a → t.rdByte a = s.rdByte a) ∧
   t.empties = s.empties ∧ t.cores = s.cores ∧ t.queue = s.queue ∧ Memory.wf t.mem = true)) ∧
  (∀ (s : State) (a v n : Nat), Memory.wf s.mem = true →
  (s.wrN a n v).rdN a n = v % 256 ^ n ∧ (∀ b, b < a ∨ a + n ≤ b → (s.wrN a n v).rdByte b = s.rdByte b) ∧
  (∀ i, i < n → (s.wrN a n v).rdByte (a + i) = BitVec.ofNat 8 (v / 256 ^ i)) ∧ (s.wrN a n v).empties = s.empties)

/-- R177, R186: the full/empty operations at their agent in ordinary memory, each in one indivisible step, and the word that an
engine writes with its bit or reads with it. R280 to R282: the atomics at their agent. Each answers the old value; CAS writes only where it equals the compare
value. -/
def Obligations.FullEmptyAndAtomics : Prop := 
  (∀ (s : State) (lid : BitVec 32) (v : Word) (va pa key : Nat),
  placeOf (offOf pa) = .hbm ∨ (∃ k o, placeOf (offOf pa) = .vault k o) → s.poisoned key = false →
  let op (o : AccOp) := s.doOp lid o va pa key false
  let word := Answer.done (s.rdWord key)
  let put := ((s.wrWord key v).unpoison key).fill key
  (op (.put v (some true)) = (.done 0, put) ∧ op (.put v (some false)) = (.done 0, ((s.wrWord key v).unpoison key).empty key) ∧
    op (.put v none) = (.done 0, (s.wrWord key v).unpoison key) ∧
    op .fetch = (.word (s.rdWord key) (s.full key), s)) ∧
  (s.full key = true →
    op .ldw = (word, s) ∧ op .ldt = (word, s.empty key) ∧ op (.stp v) = (.notReady, s) ∧ op (.stf v) = (.done 0, put) ∧
    op .emp = (.done 0, s.empty key) ∧ op .feq = (.done 1, s) ∧ op .ldwt = (word, s) ∧ op .ldtt = (word, s.empty key) ∧
    op (.stpt v) = (.notReady, s) ∧ op (.park true) = (.notReady, s) ∧ op (.park false) = (.done 0, s)) ∧
  (s.full key = false →
    op .ldw = (.notReady, s) ∧ op .ldt = (.notReady, s) ∧ op (.stp v) = (.done 0, put) ∧ op (.stf v) = (.done 0, put) ∧
    op .emp = (.done 0, s.empty key) ∧ op .feq = (.done 0, s) ∧ op .ldwt = (.notReady, s) ∧ op .ldtt = (.notReady, s) ∧
    op (.stpt v) = (.done 0, put) ∧ op (.park false) = (.notReady, s) ∧ op (.park true) = (.done 0, s))) ∧
  (∀ (s : State) (lid : BitVec 32) (w : Bool) (v c : Word) (va pa key : Nat) (o : AmoOp),
  placeOf (offOf pa) = .hbm ∨ (∃ k q, placeOf (offOf pa) = .vault k q) → s.poisoned key = false →
  let n := if w then 8 else 4
  let old := s.rdN key n
  s.doOp lid (.amo o w v false) va pa key false = (.done (BitVec.ofNat 64 old), s.wrN key n (amoVal o (8 * n) old v.toNat)) ∧
  s.doOp lid (.red o w v) va pa key false = (.done (BitVec.ofNat 64 old), s.wrN key n (amoVal o (8 * n) old v.toNat)) ∧
  s.doOp lid (.cas w c v) va pa key false =
    (.done (BitVec.ofNat 64 old), if old = c.toNat % 2 ^ (8 * n) then s.wrN key n (v.toNat % 2 ^ (8 * n)) else s))

/-- R167, R168, R279: TARM arms every block of its transient page with the core's lifetime, and is a remote store until it is
acknowledged; an unarmed block is zeroed and emptied, an armed one keeps its contents; its deadline counts L × 350 ticks where
the sensor of its vault layer stands in zone 1 or above, else L × 700. -/
def Obligations.TarmArms : Prop := ∀ (s : State) (a : Reg) (p : BitVec 9) (x : W32) (e : TlbEntry) (pa : Nat),
  let arm := (blocksOf (offOf e.pbase) e.bytes).foldl (State.armBlock · s.mine.tlife.toNat) (s.touch s.here e)
  (s.storeBuffer s.here < 16 → attrT e.attr = true → pkgOf pa = s.pkgId →
    (s.resolve (reqArm (s.rd a + p.signExtend 64 * 8)) = .go e pa →
      Issues (.tarm a p) s (arm.armSent e pa (s.rd a + p.signExtend 64 * 8))) ∧
    (s.resolve (reqArm (s.rd a + x.signExtend 64)) = .go e pa →
      Issues (.tarmLone a x) s (arm.armSent e pa (s.rd a + x.signExtend 64)))) ∧
  (∀ va, s.agentOf e.attr pa ≠ .l1 → ∃ y : Access, (s.armSent e pa va).accesses = s.accesses ++ [y] ∧ y.remote = true ∧
    y.fid = s.me.key) ∧
  (∀ (life blk : Nat), ∃ y ∈ (s.armBlock life blk).blocks, y.blk = blk ∧
    y.deadline = s.tick + life * (if (s.sensor (vaultSensor (blk / 131072))).zone = 0 then 700 else 350)) ∧
  (∀ (life blk : Nat), blk < 0x400000 → s.armed blk = false →
    (∀ k, linearBase + blk * 65536 ≤ k → k < linearBase + blk * 65536 + 65536 →
      (s.armBlock life blk).rdByte k = 0 ∧ (s.armBlock life blk).full k = false)) ∧
  (∀ (life blk : Nat), s.armed blk = true →
    (s.armBlock life blk).mem = s.mem ∧ (s.armBlock life blk).empties = s.empties)

/-- R285, R286: MFC writes the register's value, the one that stood as the tick began, with latency 1, MTC issues with its write; above 0x0FF both need a service
core and trap PRIV on a compute core. A number without a register reads 0. R286: the values that the control registers read as. -/
def Obligations.ControlRegisters : Prop := 
  (∀ (s : State) (d : Reg) (n : BitVec 14),
  (n.toNat < 0x100 ∨ isSvc s.here = true → ResultC (.mfc d n) s d (s.mfcVal n.toNat)) ∧
  (n.toNat < 0x040 ∨ (n.toNat < 0x100 ∧ (0x049 < n.toNat ∨ s.mine.arrayDone = true)) →
    Issues (.mtc d n) s (s.mtcVal n.toNat (s.rd d))) ∧
  (0x100 ≤ n.toNat → isSvc s.here = true → s.mfcVal n.toNat = 0 ∧ Issues (.mtc d n) s s) ∧
  (0x100 ≤ n.toNat → isSvc s.here = false → Traps (.mfc d n) s 0x02 0 0 ∧ Traps (.mtc d n) s 0x02 0 0) ∧
  (0x040 ≤ n.toNat → n.toNat ≤ 0x049 → s.mine.arrayDone = false → Holds (.mtc d n) s s)) ∧
  (∀ s : State,
  let b := s.me
  let k := s.mine
  (∀ n v, s.seenReg n = some v → s.mfcVal n = v) ∧
  (s.seenReg 0x001 = none → s.mfcVal 0x001 = k.cause.setWidth 64) ∧ s.mfcVal 0x006 = b.rbud.setWidth 64 ∧ s.mfcVal 0x007 = k.wdlim.setWidth 64 ∧
  s.mfcVal 0x008 = b.fpctl.setWidth 64 ∧ s.mfcVal 0x009 = b.fpst.setWidth 64 ∧ s.mfcVal 0x00A = b.sidx ∧
  s.mfcVal 0x00B = b.scount.setWidth 64 ∧ s.mfcVal 0x021 = b.barb.setWidth 64 ∧ s.mfcVal 0x030 = k.fmask.setWidth 64 ∧
  s.mfcVal 0x032 = k.fpin.setWidth 64 ∧ s.mfcVal 0x033 = k.fsamp.setWidth 64 ∧ s.mfcVal 0x037 = k.tlife.setWidth 64 ∧
  (s.seenReg 0x040 = none → s.mfcVal 0x040 = k.astep) ∧ (s.seenReg 0x041 = none → s.mfcVal 0x041 = k.ahz) ∧ s.mfcVal 0x042 = k.rlag.setWidth 64 ∧
  s.mfcVal 0x043 = k.eta.setWidth 64 ∧ s.mfcVal 0x044 = k.lambda.setWidth 64 ∧ s.mfcVal 0x045 = k.tinc.setWidth 64 ∧
  s.mfcVal 0x047 = k.plas.setWidth 64 ∧ (s.seenReg 0x048 = none → s.mfcVal 0x048 = k.alate.setWidth 64) ∧ s.mfcVal 0x04A = 4096 ∧
  (∀ i : Fin 5, (s.mfcVal 0x000).getLsbD i.val =
    [s.mine.cur == .high, b.anch, isSvc s.here, k.brken, k.low.run == .suspended].getD i.val false) ∧
  (s.seenReg 0x020 = none →
    (s.mfcVal 0x020).extractLsb' 0 8 = k.barArr ∧ (s.mfcVal 0x020).extractLsb' 8 8 = k.barSense))

/-- R207, R233, R166, R286: what MTC writes reads back, where the value that stood as the tick began is not to be read (R285), cut to the register's width; TLIFE is brought into 1 to 32000 and
the gaps to at most 24. Every general register, the PC queue, memory and every other core stay. -/
def Obligations.WrittenRegistersReadBack : Prop := ∀ (s : State) (w : Word) (n : Nat),
  let t := s.mtcVal n w
  (∀ x ∈ [(0x006, 16), (0x007, 16), (0x009, 5), (0x021, 16), (0x030, 4), (0x032, 4), (0x033, 16), (0x042, 8), (0x043, 16),
      (0x044, 8), (0x045, 12), (0x047, 3), (0x048, 32)], n = x.1 → s.seenReg n = none →
    t.mfcVal n = BitVec.ofNat 64 (w.toNat % 2 ^ x.2)) ∧
  (n = 0x037 → t.mfcVal n = BitVec.ofNat 64 (min (max (w.toNat % 65536) 1) 32000)) ∧
  (n = 0x036 → t.mfcVal n = BitVec.ofNat 64 (min (w.toNat % 256) 24 + 256 * min (w.toNat / 256 % 256) 24)) ∧
  (n = 0x008 → (t.me.land (s.tick + 1)).fpctl = (w.setWidth 2 : BitVec 2) ∧ t.me.fpctl = s.me.fpctl) ∧
  t.mem = s.mem ∧ t.empties = s.empties ∧ t.me.g = s.me.g ∧ t.me.pc = s.me.pc ∧ t.me.npc1 = s.me.npc1 ∧
  t.me.npc2 = s.me.npc2 ∧ (∀ c, c ≠ s.here → t.core c = s.core c)

/-- R291 to R294: TRAP, BRK and SEAL. TRAP and SEAL always trap; BRK traps where BRKEN is set, with bit 14 of INFO. R293: SLEEP of 0 issues at once; else the bundle is held for its number of ticks, its count runs out by its event, and
it issues. R296: LTRIG behind its release sets the instance's mark; the first one of a firing's instance adds a trigger to the
launch. R117, R297: MIGR to an address that gives no target has no effect but to translate; with a target it departs behind its
bundle, once the copies of the firing are over. -/
def Obligations.TrapsSleepLaunchAndMigration : Prop := 
  (∀ (s : State) (i : BitVec 14),
  Traps (.trap i) s 0x13 (i.setWidth 48) 0 ∧ Traps .seal s 0x01 0 0 ∧
  (s.mine.brken = true → Traps (.brk i) s 0x13 (0x4000 + i.setWidth 48) 0) ∧ (s.mine.brken = false → Issues (.brk i) s s)) ∧
  (∀ (s : State) (i : BitVec 14) (till : Nat),
  (s.me.op = .idle → i = 0 → Issues (.sleep i) s s) ∧
  (s.me.op = .idle → i ≠ 0 → exec (.sleep i) s =
    .next ((s.modMe fun b => { b with op := .sleep (s.tick + i.toNat) false }).enqueue (s.tick + i.toNat) s.here s.mine.cur 0
      .sleepExpiry)) ∧
  (s.me.op = .sleep till false → exec (.sleep i) s = .next s) ∧ (s.me.op = .sleep till true → Issues (.sleep i) s s) ∧
  (∀ p, s.evPrio = p → (s.bank s.here p).op = .sleep till false → till ≤ s.tick →
    exec .sleepExpiry s = .next (s.modBank s.here p fun b => { b with op := .sleep till true }))) ∧
  (∀ (s : State) (i : Inst),
  s.released .pkg = true → s.inst s.me.home s.me.inst = some i →
  (i.trig = true → Issues .ltrig s (s.modInst s.me.home s.me.inst fun x => { x with trig := true })) ∧
  (i.trig = false → Issues .ltrig s
    (((s.modLaunch s.me.lid fun l => { l with trig := l.trig + 1 }).pokeStarts).modInst s.me.home s.me.inst
      fun x => { x with trig := true }))) ∧
  (∀ (s : State) (a : Reg) (e : TlbEntry) (pa : Nat),
  s.translate (s.rd a) = .go e pa →
  (s.migrTo pa = none → Issues (.migr a) s (s.touch s.here e)) ∧
  (∀ t, s.migrTo pa = some t → s.mine.hasCopy s.me.key = false →
    exec (.migr a) s = .next ((s.touch s.here e).issue.modMe fun b => { b with leaving := some (.migrate t) })) ∧
  (∀ t, s.migrTo pa = some t → s.mine.hasCopy s.me.key = true → Holds (.migr a) s s))

/-- R114, R312: END of an actor that is not strict, or whose counts match its rates, issues and lets the firing leave; a
wrong count of a strict actor traps RATE with the port, and a dropped store or SEND traps MEMERR (R39). -/
def Obligations.EndOfFiring : Prop := ∀ s : State,
  let ends := exec .endFiring s = .next (s.issue.modMe fun b => { b with leaving := some .ended })
  (∀ a, s.me.dropped = none → s.actorOf s.me.lid s.me.act = some a →
    (a.strict = false ∨ ∀ j, j < 8 → (vget s.me.ocnt j 0).toNat = a.orate.getD j 0) → ends) ∧
  (s.me.dropped = none → s.actorOf s.me.lid s.me.act = none → ends) ∧
  (∀ a j, s.me.dropped = none → s.actorOf s.me.lid s.me.act = some a → a.strict = true → j < 8 →
    (vget s.me.ocnt j 0).toNat ≠ a.orate.getD j 0 → (∀ i, i < j → (vget s.me.ocnt i 0).toNat = a.orate.getD i 0) →
    Traps .endFiring s 0x08 (BitVec.ofNat 48 j) 0) ∧
  (∀ a, s.me.dropped = some a → Traps .endFiring s 0x14 0 a)

/-- R298: RESUME, its record in one page: its 64 words are asked for by ordinary loads, and it is held until they have come; that all
64 loads leave in the tick of the first issue is the model's choice (log entry 61). It
ships the record to its core once its release is performed; a record that may not be resumed there traps PROT with the record's
address. -/
def Obligations.Resuming : Prop := ∀ (s : State) (a b : Reg) (e : TlbEntry) (pa first n : Nat) (f : List Word),
  let s1 := s.touch s.here e
  (s.me.op = .idle → s.reaches (reqLoad (s.rd a) 8) e pa → s1.unreachable pa = false →
    512 ≤ e.bytes - (s.rd a).toNat % e.bytes → s1.wordsTrap (s.rd a).toNat pa 64 = none →
    Holds (.resume a b) s ((s1.modMe fun k => { k with op := .gather s1.nextId 64 }).loadWords e (s.rd a) pa 64)) ∧
  (s.me.op = .gather first n →
    (collected (s.grouped first n) = none → Holds (.resume a b) s s) ∧
    (collected (s.grouped first n) = some (.ok f) →
      (s.resumeBad f (s.rd b).toNat = false → s.released .pkg = true →
        exec (.resume a b) s = .next ((s.shipResume f (s.rd b).toNat).issue.dropRead first n)) ∧
      (s.resumeBad f (s.rd b).toNat = true → Traps (.resume a b) s 0x04 0 (s.rd a))))

/-- R299: the translation instructions. On a compute core each traps PRIV. On a service core TLBW writes an entry for a core of
its layer, and TLBI and TLBS start a shoot-down of the layer's or of the launch's cores and issue when it has completed; one that is
issued again after a suspension starts another. R138, R141, R142, R146, R147, R151, R69: the service answers a walk with an entry or PAGE where no earlier miss of the core waits,
the page is not in motion and the stacks of its table words take requests; a core
invalidates and acknowledges a shoot-down, and a sleeping one counts as acknowledged; a request takes a free token, and one of
the host that loses ends with result 1, MOVED_RETRY; a complete shoot-down fills its token, and the holder goes on, in the tick in which
it completes, which is the model's choice (log entry 82). -/
def Obligations.TranslationAndPages : Prop := 
  (∀ (s : State) (d a b : Reg) (n : Nat),
  (isSvc s.here = false → Traps (.tlbw d a b) s 0x02 0 0 ∧ Traps (.tlbi a) s 0x02 0 0 ∧ Traps (.tlbs a) s 0x02 0 0) ∧
  (isSvc s.here = true →
    let c := (s.rd d).toNat
    (c < 8192 → coreLayer c = coreLayer s.here → Issues (.tlbw d a b) s (s.tlbWrite c (s.rd a) (s.rd b))) ∧
    (8192 ≤ c → Issues (.tlbw d a b) s s) ∧
    let begun : State := s.modMe fun k => { k with op := .shoot s.nextId }
    (s.me.op = .idle →
      Holds (.tlbi a) s (begun.startShoot (shootOf s.nextId (s.rd a) (layerCores (coreLayer s.here)) s.here s.mine.cur)) ∧
      Holds (.tlbs a) s (begun.startShoot (shootOf s.nextId (s.rd a) (s.shootCores (s.rd a)) s.here s.mine.cur))) ∧
    (s.me.op = .shoot n →
      ((s.shoots.any fun y => y.id == n && !y.done) = true → Holds (.tlbi a) s s ∧ Holds (.tlbs a) s s) ∧
      ((s.shoots.any fun y => y.id == n && !y.done) = false →
        Issues (.tlbi a) s { s with shoots := s.shoots.filter fun y => y.id != n } ∧
        Issues (.tlbs a) s { s with shoots := s.shoots.filter fun y => y.id != n })))) ∧
  (∀ (s : State) (c va : Nat) (p : Prio) (w : Word) (l : Launch) (e : TlbEntry) (at_ : Nat)
    (x : Shoot) (rq : TokenReq) (t : Token),
  (let s1 := s.meetAll (s.tableWords l w.toNat)
   (s.core c).lid?.bind s.launchOf = some l → s.missAhead c = false → s.inMotion l w.toNat = false →
    s.stacksShut (s.tableWords l w.toNat) = false →
    (s1.walkFor l c w.toNat = some e →
      exec (.translationRequest c p w) s = .next ((s1.install c e).releaseXl c p w.toNat .none false)) ∧
    (s1.walkFor l c w.toNat = none → exec (.translationRequest c p w) s = .next (s1.releaseXl c p w.toNat (.fault w) false))) ∧
  ((s.shoots.find? fun y => y.id == s.evNum) = some x →
    (s.sleeps s.here = true → exec .shootdownArrive s = .next ((s.invalidateQuad s.here x).shootAck x.id s.here)) ∧
    (s.sleeps s.here = false → (s.invalidate s.here x).usesPage s.here x = false →
      exec .shootdownArrive s = .next ((s.invalidate s.here x).shootAck x.id s.here))) ∧
  (s.reqPage rq = some (l, va) → s.leaf l va = some (e, at_) →
    (∀ rid dev lid va' dest res, rq = .host rid dev lid va' dest res →
      (s.tokens.any fun t => t.lid == l.r.lid && t.va == e.vbase) = true → exec (.tokenRequest rq) s = .next (s.endReq rq 1)) ∧
    ((s.tokens.any fun t => t.lid == l.r.lid && t.va == e.vbase) = false → s.reqBar rq e = none →
      ∃ u, exec (.tokenRequest rq) s = .next u ∧ u.mem = s.mem ∧ u.empties = s.empties ∧
        ∃ k ∈ u.tokens, k.lid = l.r.lid ∧ k.va = e.vbase ∧ k.holder = some rq)) ∧
  ((s.shoots.find? fun y => y.id == s.evNum) = some x → x.issuer = none → x.left = [] → (s.tokens.find? fun k => k.shoot == s.evNum) = some t →
    (s.endShoot s.evNum).stacksShut ((s.endShoot s.evNum).moveWords t) = false →
    exec .shootdownComplete s =
      .next (({ s.endShoot s.evNum with shoots := (s.endShoot s.evNum).shoots.filter fun y => y.id != x.id } : State).fillToken t)))

/-- R114, R123, R288, R301: taking a trap. A bank whose outstanding work is over is free; %cause holds the cause, the bundle index
and the priority, the launch counts the fault, and memory is unchanged. A bank with outstanding work leaves once it is over. The
record goes to the set of the fault actor's port, and where that is full into the hold buffer of the bank, behind what is there. -/
def Obligations.TakingATrap : Prop := ∀ (s : State) (c : Nat) (p : Prio) (cause : BitVec 8) (info : BitVec 48) (faddr : Word)
    (l : Launch) (fc n home k : Nat) (i : Inst) (q : Port) (f : List Word) (lid : W32),
  let b := s.bank c p
  let t := s.takeTrap c p cause info faddr
  let h : Hold := { fcr := f, tower := coreTower c, pset := s.parkSetOf (mailKey fc q.base), lid := lid }
  (s.quiet c p = true → s.launchOf b.lid = some l →
    (t.bank c p).run = .none ∧
    (t.core c).cause = BitVec.ofNat 30 (cause.toNat + b.pc.toNat * 2 ^ 16 + (if p = .high then 2 ^ 29 else 0)) ∧
    (t.launchOf b.lid).map (·.faults) = some (l.faults + 1) ∧
    t.mem = s.mem ∧ t.empties = s.empties ∧ t.tick = s.tick) ∧
  (s.quiet c p = false → b.leaving = none → (t.bank c p).leaving = some (.trap { cause := cause, info := info, faddr := faddr }) ∧
    (t.bank c p).pc = b.pc ∧ (t.bank c p).g = b.g ∧ t.mem = s.mem) ∧
  (s.launchOf lid = some l → faultActor l = some (fc, n) → s.inst fc n = some i → i.port 0 = some q → 64 ≤ q.size →
    i.disabled = false → (fc ≠ home ∨ n ≠ k) →
    (s.setRoom (coreTower c) (s.parkSetOf (mailKey fc q.base)) = true → ∃ e : ParkEntry, e.fcr = f ∧ e.kind = .port ∧ e.st = .parked ∧
      e.origin = fc ∧ s.deliver c p lid home k f =
        (({ s with park := s.park ++ [e] } : State).bumpId).enqueue s.tick fc .low 0 .fcrDeliver) ∧
    (s.setRoom (coreTower c) (s.parkSetOf (mailKey fc q.base)) = false →
      ((s.deliver c p lid home k f).core c).held p = (s.core c).held p ++ [h] ∧ (s.deliver c p lid home k f).park = s.park))

/-- R125: the words of a Firing Context Record: 64 of them, the PC queue in words 1 to 3, cause, KIND and INFO in word 5, FADDR in
word 6, g1 to g31 in words 32 to 62, and an integrity word that its reader accepts. R124, R125: a record restores the firing it was taken from: every general register, the PC queue with its annul bits, the
floating-point control and status, the budgets, the counts and the names of the firing. -/
def Obligations.RecordRestoresFiring : Prop := 
  (∀ (s : State) (c : Nat) (p : Prio) (kind : FcrKind) (t : TrapInfo) (wa : Nat),
  let b := s.bank c p
  let f := s.fcr c p kind t wa
  f.length = 64 ∧ fcrOk f = true ∧ fcrWord f 1 = b.pc.setWidth 64 ∧ fcrWord f 2 = b.npc1.setWidth 64 ∧
  fcrWord f 3 = b.npc2.setWidth 64 ∧
  fcrWord f 5 = BitVec.ofNat 64 (t.cause.toNat + 256 * kind.code + 65536 * t.info.toNat) ∧ fcrWord f 6 = t.faddr ∧
  (∀ r : Fin 32, r.val ≠ 0 → fcrWord f (31 + r.val) = b.g.get r)) ∧
  (∀ (s : State) (c : Nat) (p : Prio) (kind : FcrKind) (t : TrapInfo) (wa : Nat),
  let b := s.bank c p
  let r := bankOfFcr (s.fcr c p kind t wa)
  (∀ i, r.rd i = b.rd i) ∧ r.pc = b.pc ∧ r.npc1 = b.npc1 ∧ r.npc2 = b.npc2 ∧ r.ann1 = b.ann1 ∧ r.ann2 = b.ann2 ∧
  r.anch = b.anch ∧ r.svc = b.svc ∧ r.migc = b.migc ∧ r.fpctl = b.fpctl ∧ r.fpst = b.fpst ∧ r.rbud = b.rbud ∧
  r.barb = b.barb ∧ r.sidx = b.sidx ∧ r.pass = b.pass ∧ r.scount = b.scount ∧ r.ocnt = b.ocnt ∧ r.lid = b.lid ∧
  (b.act < 64 → b.inst < 64 → b.home < 8192 → r.act = b.act ∧ r.inst = b.inst ∧ r.home = b.home) ∧
  (b.start < 2 ^ 64 → r.start = b.start) ∧ (b.wdc < 2 ^ 32 → r.wdc = b.wdc))

/-- R235 to R241: every well-formed word A instruction, encoded beside a NOP, decodes to itself. -/
def Obligations.WordARoundTrip : Prop := ∀ i : Instr, i.wf = true → i.isA = true →
  ∃ w, encode i = some w ∧ w < 2 ^ 64 ∧ decodeBundle w = some { c := .nopC, a := i }

/-- R235 to R239: every well-formed word C instruction, encoded with the second half its form takes, decodes to itself. -/
def Obligations.WordCRoundTrip : Prop := ∀ i : Instr, i.wf = true → i.isC = true →
  ∃ w, encode i = some w ∧ w < 2 ^ 64 ∧ decodeBundle w = some { c := i, a := .nopA }

/-- R238, R241, R243: every unassigned opcode of word C, and of word A where LONE is 0, is refused, whatever stands in the other
fields. R235 to R241: words of the device, written from the encoding tables, and what they decode to. -/
def Obligations.UnassignedAndSampleWords : Prop := 
  (∀ b : Nat,
  let c := b / 2 ^ 24 % 128
  let a := b / 2 ^ 56 % 256
  (c = 0x16 ∨ c = 0x17 ∨ (0x2D ≤ c ∧ c ≤ 0x2F) ∨ (0x3C ≤ c ∧ c ≤ 0x3F) ∨ (0x49 ≤ c ∧ c ≤ 0x4F) ∨ (0x57 ≤ c ∧ c ≤ 0x5F) ∨
    (0x76 ≤ c ∧ c ≤ 0x7E) → decodeBundle b = none) ∧
  (b / 2 ^ 31 % 2 = 0 → (0x2D ≤ a ∧ a ≤ 0x3F) ∨ (0x4C ≤ a ∧ a ≤ 0x5F) ∨ a = 0x6F ∨ 0x75 ≤ a → decodeBundle b = none)) ∧
  (decodeBundle 0x010A2600_00000000 = some { c := .nopC, a := .add 1 8 19 } ∧
  decodeBundle 0x00000000_13000005 = some { c := .trap 5, a := .nopA } ∧
  decodeBundle 0x00000000_7F000000 = some { c := .seal, a := .nopA } ∧
  decodeBundle 0x00000000_01000000 = some { c := .endFiring, a := .nopA } ∧
  decodeBundle 0x12345678_91080000 = some { c := .movlLone 1 0x12345678, a := .nopA })

/-- R209, R210, R303: a step of a running core executes the bundle at its PC. No event is due and the core moves next; nothing of
it is leaving, it drops no annulled bundles (R304), no code store of the tick has taken its instruction store (R212), and its banks as they start this tick give `s2`. The bundle's word C executes; once it has issued, word A
executes in the same tick and the PC queue steps; a held bundle leaves word A and the queue alone. A register that a result in flight will write holds every bundle that reads it, or loads into it, and so does one that still awaits
the data of a load (R210). -/
def Obligations.StepRunsTheBundle : Prop := 
  (∀ (s s1 s2 t u : State) (c : Nat) (r : List Nat) (b : Bundle),
  (∀ e q, s.queue = e :: q → s.tick < e.due) → s.turn = c :: r →
  s1 = ((({ s with turn := r, here := c } : State).modCore c fun k =>
    { k with low := k.low.land s.tick, high := k.high.land s.tick }).tryLeave c .high).tryLeave c .low →
  s1.mine.halt = false → s1.me.leaving = none → s1.me.inSkip s1.tick = false → exec .entryStart s1.takeAsync = .next s2 → s2.me.run = .running →
  s2.me.leaving = none → s2.me.readyAt ≤ s2.tick → s2.mine.codeAt ≠ some s2.tick →
  s2.mine.badCode.contains s2.me.pc.toNat = false →
  decodeBundle (s2.rdWord (bundleKey s2.here s2.me.pc.toNat)).toNat = some b → (needsOf b).any s2.awaits = false →
  exec b.c s2 = .next t →
  (t.me.issued = true → exec b.a t = .next u → step s = .next (u.finishBundle.endSlot s2.here)) ∧
  (t.me.issued = false → step s = .next (t.endSlot s2.here))) ∧
  (∀ (s : State) (b : Bundle),
  s.mine.codeAt ≠ some s.tick → s.mine.badCode.contains s.me.pc.toNat = false →
  decodeBundle (s.rdWord (bundleKey s.here s.me.pc.toNat)).toNat = some b →
  needsOf b = sourcesOf b.c ++ sourcesOf b.a ++ loadDestsOf b.c ++ loadDestsOf b.a ∧
  ((∃ r ∈ needsOf b, s.awaitsLoad r = true) → s.runBundle = .next (s.holdOp.endSlot s.here)) ∧
  ((∃ r ∈ needsOf b, s.me.pending r = true) → (∀ r ∈ needsOf b, s.awaitsLoad r = false) →
    s.runBundle = .next (s.endSlot s.here)))

/-- R5, R160: an event that has fallen due comes about before any core moves, which is the model's choice of an order within a tick
(log entry 1); with none due and every core moved, the next
tick begins, and nothing changes but the tick, the list of cores to move, and the note of what their registers read as (R285). -/
def Obligations.StepOrder : Prop := ∀ (s : State) (e : Timed) (q : List Timed),
  (s.queue = e :: q → e.due ≤ s.tick →
    step s = exec e.ev { s with queue := q, here := e.core, evPrio := e.prio, evNum := e.num }) ∧
  ((∀ f r, s.queue = f :: r → s.tick < f.due) → s.turn = [] →
    let t : State := { s with tick := s.tick + 1, turn := (s.cores.filter fun x => x.2.busy).map Prod.fst }
    step s = .next { t with seen := t.turn.map fun c => (c, t.seenOf c) })

/-- R19, R20, R24, R30, R38, R40, R70, R83, R162, R185, R245, R364: the package control window after a power-on, register by
register. R166, R230, R233, R287 to R289, R346 to R349, R374, R383, R405 to R409: the control registers of a core at their reset
values; that %fsamp reads 0 before a launch sets it is the model's choice (log entry 10). -/
def Obligations.StateAtReset : Prop := 
  ((∀ j, j < 84 → State.reset.ctlRead (8 * j) = 0) ∧ (∀ i, i < 32 → State.reset.ctlRead (0x400 + 8 * i) = 0xFFFF) ∧
  State.reset.ctlRead 0x500 = 0xBB8 ∧ (∀ d, d < 12 → State.reset.ctlRead (0x600 + 8 * d) = 0) ∧
  State.reset.ctlRead 0x700 = 0 ∧ (∀ l, l < 16 → State.reset.ctlRead (0x800 + 8 * l) = 0x10) ∧
  State.reset.ctlRead 0x900 = 0 ∧ State.reset.ctlRead 0x910 = 0 ∧ State.reset.ctlRead 0x920 = 0 ∧
  (∀ i, i < 32 → State.reset.ctlRead (0xA00 + 8 * i) = 0x4010040) ∧ (∀ t, t < 8 → State.reset.ctlRead (0xB00 + 8 * t) = 0) ∧
  (∀ i, i < 32 → State.reset.ctlRead (0xC00 + 8 * i) = 0) ∧ State.reset.ctlRead 0xD00 = 0 ∧ State.reset.ctlRead 0xD08 = 0 ∧
  (∀ p, p < 4096 → State.reset.ctlRead (0x10000 + 8 * p) = 0)) ∧
  (∀ n ∈ ([(0x001, 0), (0x008, 0), (0x009, 0), (0x020, 0), (0x030, 0xF),
    (0x031, 0xF0), (0x032, 0), (0x033, 0), (0x034, 0xFF), (0x036, 0x204), (0x037, 32000), (0x040, 0), (0x041, 0), (0x042, 0),
    (0x043, 0x3C00), (0x044, 0x80), (0x045, 0x080), (0x046, 0x1E8F06000), (0x047, 0), (0x048, 0), (0x049, 0), (0x04A, 4096)] :
      List (Nat × Word)), State.reset.mfcVal n.1 = n.2)

/-- R75: memory as its initialisation leaves it: every byte zero but that of the SEAL bundles of the instruction stores, every
word full, none poisoned; and its form is canonical. State.reset stands before the start sequence, and that memory reads there as R75
leaves it is the model's choice (log entry 89). -/
def Obligations.MemoryAtReset : Prop := (∀ a, State.reset.rdByte a = if inStore a = true ∧ a % 8 = 3 then 0x7F else 0) ∧
  (∀ a, State.reset.full a = true ∧ State.reset.poisoned a = false) ∧ State.reset.MemInv ∧
  (∀ c i, c < 8192 → i < 8192 → decodeBundle (State.reset.rdWord (bundleKey c i)).toNat = some { c := .seal, a := .nopA }) ∧
  (∀ c n, ((State.reset.core c).row n).bits = 0 ∧ ((State.reset.core c).row n).tags = 0)

/-- Whatever a step does, bytes, full/empty bits and poison stay in their one form: equal memories stay equal data. -/
def Obligations.MemoryFormKept : Prop := ∀ s t : State, s.MemInv → step s = .next t → t.MemInv

/-- R5, R17: no instruction and no event moves the clock; only the step that begins a tick does, by one. The events of launches, of
firings and their records, of accesses and of the vaults come about in every state, in the tick in which they are due. -/
def Obligations.ClockOnlyByTicks : Prop := 
  (∀ (i : Instr) (s t : State),
  (exec i s = .next t → t.tick = s.tick) ∧ (step s = .next t → t.tick = s.tick ∨ t.tick = s.tick + 1)) ∧
  (∀ (s : State) (lid : W32) (n blk : Nat) (r : ScrubResult) (last : Bool),
  let comes (i : Instr) : Prop := ∃ t, exec i s = .next t ∧ t.tick = s.tick
  comes (.cancel n lid) ∧ comes (.launchStart lid) ∧ comes (.preemptSave lid) ∧ comes (.launchResume lid) ∧
  comes (.launchComplete lid) ∧ comes (.cancelCoresFreed lid) ∧
  comes .entryStart ∧ comes .feAttempt ∧ comes .wakeAppend ∧ comes .resumeEntryDue ∧ comes .coreSleep ∧ comes .coreWake ∧
  comes .migrationDepart ∧ comes .fcrArrive ∧ comes .fcrDeliver ∧ comes .holdBufferOffer ∧ comes .watchdogExpiry ∧
  comes .startMessageArrive ∧ comes .accessArrive ∧ comes .loadReturn ∧ comes .storeAck ∧ comes .refreshOp ∧ comes .refreshOpEnd ∧
  comes (.scrubRead n blk r last) ∧ comes (.scrubForced n blk r) ∧ comes .transientExpiry)

/-- R79: the minimum firmware version never falls, whatever happens to the package. -/
def Obligations.MinimumVersionNeverFalls : Prop := ∀ s t : State, step s = .next t → s.boot.minVersion ≤ t.boot.minVersion

/-- R318, R321, R322: SEND. It issues when its attempt is accepted, counting one message on its output port; a refused attempt
inside the package of a firing that was not suspended meanwhile rests 16 ticks until the budget is spent, and then traps PORT_FULL; an
address the destination does not have, or that is malformed, traps PROT with the address. R39: one towards a package without a route
is dropped: it issues, and the first such address is kept for the MEMERR trap that a fence or END takes later; that the whole port
address is kept for FADDR is the model's choice (log entries 57, 88). -/
def Obligations.Sending : Prop := ∀ (s : State) (a b : Reg) (l : Fin 8) (n : Nat),
  let port := s.rd a
  let i := Instr.send a b l
  (s.me.op = .send n (.answered .accept) → Issues i s (s.modMe fun k => k.countOut port)) ∧
  (s.me.op = .send n (.answered .invalid) → Traps i s 0x04 0 port) ∧
  (s.me.op = .send n (.answered .refuse) → s.portFar port = false → n = s.me.rbud.toNat → s.me.rbud ≠ 0xFFFF →
    Traps i s 0x07 0 0) ∧
  (s.me.op = .send n (.answered .refuse) → s.portFar port = false → n ≠ s.me.rbud.toNat ∨ s.me.rbud = 0xFFFF →
    s.me.wasSusp = false → Holds i s
      ((s.modMe fun k => { k with op := .send (n + 1) (.resting (s.tick + 16)) }).enqueue (s.tick + 16) s.here s.mine.cur 0
        .sendRetry)) ∧
  (s.me.op = .idle → portOk port = false → Traps i s 0x04 0 port) ∧
  (s.me.op = .idle → portOk port = true → s.portFar port = false → s.orderedReleased = true →
    exec i s = .next (s.sendTry port (s.me.rdFrom b (l.val + 1)) 0)) ∧
  (s.me.op = .idle → portOk port = true → s.portFar port = true → (s.route (portPkg port)).valid = false →
    Issues i s (s.modMe fun k => { k with dropped := some (k.dropped.getD port) }))

/-- R319, R320, R105, R341: a message or a push reaches its core and is answered. A message of the core's launch to a placed
instance whose port has room is appended to the port, one word after another; without room it is refused; a
core of another launch, an instance that is absent or not placed, and a port that it does not have are invalid; a fenced core accepts
and discards (R319). A message or push behind a code store of its source core to the same core waits for it (R201), tried again each
tick, which is the model's choice (log entry 37). The answer comes back after
the same one-way time, and a later event clears the message. R318, R322: the answer of a SEND or push attempt that is on its way reaches the bundle that waits for it, and its message is
over; the rest of a refused one ends at its tick. -/
def Obligations.MessagesAndAnswers : Prop := 
  (∀ (s : State) (m : Msg) (port : Word) (ws : List Word) (h : RingNo),
  (s.msgs.find? fun x => x.id == s.evNum) = some m →
  (m.kind = .send port ws → s.portFar port = false → s.codeAhead m = true →
    exec .messageArrive s = .next (s.enqueue (s.tick + 1) m.src m.prio m.id .messageArrive)) ∧
  (m.kind = .send port ws → s.portFar port = false → s.codeAhead m = false →
    exec .messageArrive s = .next ((s.takeMsg m.lid m.dst (portInst port) (portPort port) ws).2.crossing.crossing.enqueue
      (s.tick + oneWay m.src (portCore port)) m.src m.prio m.id
      (.messageAnswerArrive m.src m.prio (s.takeMsg m.lid m.dst (portInst port) (portPort port) ws).1))) ∧
  (m.kind = .push port h → s.codeAhead m = true →
    exec .ringPushArrive s = .next (s.enqueue (s.tick + 1) m.src m.prio m.id .ringPushArrive)) ∧
  (m.kind = .push port h → (portPkg port != s.pkgId) = false → s.codeAhead m = false →
    let u := (s.takePush m.lid m.dst h).2
    exec .ringPushArrive s = .next ((if m.src = m.dst then u else u.crossing.crossing).enqueue (s.tick + oneWay m.src m.dst) m.src m.prio m.id
      (.messageAnswerArrive m.src m.prio (s.takePush m.lid m.dst h).1))) ∧
  (∀ c i p (inst : Inst) (q : Port), s.coreFenced c = false → (s.core c).lid? = some m.lid → s.inst c i = some inst →
    inst.port p = some q → inst.placed = true →
    (ws.length ≤ q.free → s.takeMsg m.lid c i p ws = (.accept, s.appendMsg c i p ws)) ∧
    (q.free < ws.length → s.takeMsg m.lid c i p ws = (.refuse, s))) ∧
  (∀ c i p, s.coreFenced c = false →
    (s.core c).lid? ≠ some m.lid ∨ s.inst c i = none ∨ (∃ inst : Inst, s.inst c i = some inst ∧ (inst.placed = false ∨ inst.port p = none)) →
    s.takeMsg m.lid c i p ws = (.invalid, s)) ∧
  (∀ c i p, s.coreFenced c = true → s.takeMsg m.lid c i p ws = (.accept, s) ∧ s.takePush m.lid c h = (.accept, s)) ∧
  (∀ (i : Inst) (p : Nat), i.ports.length ≤ p → i.port p = none) ∧
  (∀ c, s.coreFenced c = false →
    ((s.core c).lid? ≠ some m.lid ∨ ((s.core c).ring h).valid = false → s.takePush m.lid c h = (.invalid, s)) ∧
    ((s.core c).lid? = some m.lid → ((s.core c).ring h).valid = true →
      s.takePush m.lid c h = if ((s.core c).ring h).free = 0 then (.refuse, s) else (.accept, s.modRing c h Ring.push)))) ∧
  (∀ (s : State) (c n : Nat) (p : Prio) (x : MsgAnswer) (d : Nat),
  (s.evNum < 2 ^ 64 → (s.bank c p).op = .send n (.flying s.evNum) → s.msgs.filter (fun m => m.id == s.evNum) = [] →
    exec (.messageAnswerArrive c p x) s = .next (s.modBank c p fun b => { b with op := .send n (.answered x) })) ∧
  ((s.bank s.here s.evPrio).op = .send n (.resting d) → d ≤ s.tick →
    exec .sendRetry s = .next (s.modBank s.here s.evPrio fun b => { b with op := .send n .ready })) ∧
  (∀ t, exec (.messageAnswerArrive c p x) s = .next t → s.evNum < 2 ^ 64 → ∀ m ∈ t.msgs, m.id ≠ s.evNum))

/-- R323: RECV reads a word of a held message, or 0 where there is none; PCNT gives the number of messages and the free
words. Each takes 2 ticks at the firing's home core. The word read is one that its check code does not find beyond correction. -/
def Obligations.PortReads : Prop := ∀ (s : State) (d a : Reg) (p w : Fin 8) (q : Port),
  s.me.home = s.here → s.myPort p.val = some q →
  let m := (s.rd a).toNat % 2 ^ 32
  let ix := 8 * ((s.rd a).toNat / 2 ^ 32 % 8) + w.val
  let word := mailKey s.here (q.at (q.head + (q.msgs.take m).sum + ix))
  (m < q.msgs.length → ix < q.msgs.getD m 0 → (s.meet word).poisoned word = false →
    Issues (.recv d a p w) s ((s.meet word).wrC 2 d (s.rdWord word))) ∧
  (q.msgs.length ≤ m ∨ q.msgs.getD m 0 ≤ ix → Issues (.recv d a p w) s (s.wrC 2 d 0)) ∧
  Issues (.pcnt d p) s (s.wrC 2 d (BitVec.ofNat 64 (q.msgs.length % 4096 + q.free % 4096 * 4096)))

/-- R324, R327: the barrier instructions. An arrival sets the core's ARR bit once the previous phase is over and the release is
performed; a wait issues when the bit is clear, and is held while it is set; a BAR whose own phase has released waits for no other, which is the model's choice (log entry 52, from R329); on
a service core each does nothing. A release clears
ARR at every member that had arrived. R325, R324, R328: WD withdraws a pending arrival of a phase that is not complete; a package's token counts toward the pod's
phase; a barrier bundle that is still held when its bound runs out traps BAR_TIMEOUT. -/
def Obligations.Barriers : Prop := 
  (∀ (s : State) (l : Level),
  let lid := s.mine.lid?.getD 0
  let arrives := (s.modMine fun k => k.setArr l true).checkPhase l lid (barGroup l s.here)
  (isSvc s.here = true → Issues (.bar l) s s ∧ Issues (.bara l) s s ∧ Issues (.barw l) s s) ∧
  (isSvc s.here = false → s.mine.arrived l = false → s.released (levelScope l) = true →
    Issues (.bara l) s arrives ∧ (s.me.arrOwn = none →
      exec (.bar l) s = .next ((arrives.modMe fun b => { b with arrOwn := some (l, false) }).holdBar l (.wait true)))) ∧
  (isSvc s.here = false → s.mine.arrived l = false →
    Issues (.barw l) s s ∧ (∀ q, s.me.arrOwn = some q → Issues (.bar l) s s)) ∧
  (isSvc s.here = false → s.me.arrOwn = some (l, true) → Issues (.bar l) s s) ∧
  (isSvc s.here = false → s.mine.arrived l = true →
    (s.me.arrOwn = none → exec (.barw l) s = .next (s.holdBar l (.wait false))) ∧
    (s.me.arrOwn = some (l, false) → exec (.bar l) s = .next (s.holdBar l (.wait true)))) ∧
  (∀ lid c g, (∃ x, s.launchOf lid = some x ∧ x.st ≠ .preempted ∧ c ∈ x.cores) → (s.core c).lid? = some lid →
    barGroup l c = g → (s.core c).arrived l = true → ∃ t, exec (.barrierRelease l lid g) s = .next t ∧
    (t.core c).arrived l = false ∧ t.mem = s.mem)) ∧
  (∀ (s : State) (c : Nat) (l : Level) (v : Word) (src : BitVec 12) (lid : W32),
  (∃ t, exec (.barphWithdraw c v) s = .next t ∧
    (v.getLsbD (16 + levelIx l) = true → s.phaseDone l ((s.core c).lid?.getD 0) (barGroup l c) = false →
      (t.core c).arrived l = false) ∧
    (v.getLsbD (16 + levelIx l) = false → (t.core c).arrived l = (s.core c).arrived l)) ∧
  (src ≠ s.pkgId → exec (.podBarrierToken src lid) s =
    .next (({ s with podTokens := s.podTokens ++ [(src, lid)] } : State).podCheck lid 1050)) ∧
  (let b := s.bank s.here s.evPrio
   b.run = .running → b.leaving = none → b.barb ≠ 0 → b.barb.toNat * 64 ≤ b.barHeld →
   (s.barStuck s.here s.evPrio = true → exec .barrierTimeout s = .next (s.takeTrap s.here s.evPrio 0x09 0 0)) ∧
   (s.barStuck s.here s.evPrio = false → exec .barrierTimeout s = .next s)))

/-- R330 to R332, R336: CPY and CPY2 with aligned operands and a free id start a copy with their parameters, write its id into
gd and issue, and one with nothing to move completes at once; eight may be outstanding, and two on a service core (R216), and without a free id the
bundle is held; of ga, gb, gw, SSTR, DSTR, COLS and ROWS times the element size, in that order, the first that is not a multiple of 8
traps ALIGN with its value. CPYW waits for the copies of its firing and traps with the cause of a stopped one, though it has completed
before, which is the model's choice (log entry 44). -/
def Obligations.CopiesStart : Prop := ∀ (s : State) (d a b c w st : Reg) (m : CopyMode) (sc : Scope) (z : Size) (tr : Bool)
    (id : Nat) (mask : BitVec 8),
  let cols := (s.rd c).toNat % 65536
  let rows := (s.rd c).toNat / 65536 % 65536
  let ss : Word := ((s.rd st).setWidth 32).signExtend 64
  let ds : Word := ((s.rd st >>> 32).setWidth 32).signExtend 64
  let one : Copy := { s.newCopy a b w m sc id with cols := (s.rd c).toNat }
  let two : Copy := { s.newCopy a b w m sc id with
    twoD := true, cols := cols, rows := rows, sstr := ss.toInt, dstr := ds.toInt, esz := z, tr := tr }
  let begun (x : Copy) : State := ((s.modMine fun k => { k with copies := k.copies ++ [x] }).wrC 1 d (BitVec.ofNat 64 id)).issue
  let put (x : Copy) : State := (begun x).kickCopies s.here (s.tick + 2)
  let none_ (x : Copy) : State :=
    ((begun x).modCopy s.here id fun y => { y with emptied := true }).enqueue (s.tick + 1) s.here .low id .copyCompletionFill
  let ok (v : Word) := v.toNat % 8 = 0
  let plain := ok (s.rd a) ∧ ok (s.rd b) ∧ (w = 0 ∨ ok (s.rd w))
  let cs : Word := BitVec.ofNat 64 (cols * z.bytes)
  let rs : Word := BitVec.ofNat 64 (rows * z.bytes)
  let bad (l : List Word) : Option Word := l.find? fun v => v.toNat % 8 != 0
  let ops1 : List Word := [s.rd a, s.rd b, if w = 0 then 0 else s.rd w]
  let ops2 : List Word := ops1 ++ [ss, ds, cs] ++ (if tr = true then [rs] else [])
  let free := s.mine.freeCopy (copyLimit s.here)
  (free = some id → plain → exec (.cpy d a b c w m sc) s = .next (if one.count = 0 then none_ one else put one)) ∧
  (free = some id → plain → ok ss → ok ds → ok cs → (tr = true → ok rs) →
    exec (.cpy2 d a b c w st m sc z tr) s = .next (if two.count = 0 then none_ two else put two)) ∧
  (∀ v, bad ops1 = some v → Traps (.cpy d a b c w m sc) s 0x03 0 v) ∧
  (∀ v, bad ops2 = some v → Traps (.cpy2 d a b c w st m sc z tr) s 0x03 0 v) ∧
  (copyLimit s.here = if isSvc s.here = true then 2 else 8) ∧
  (plain → free = none → exec (.cpy d a b c w m sc) s = .next s ∧
    (ok ss → ok ds → ok cs → (tr = true → ok rs) → exec (.cpy2 d a b c w st m sc z tr) s = .next s)) ∧
  (s.attached mask = [] → Issues (.cpyw mask) s s) ∧
  ((∃ x ∈ s.attached mask, x.done = false) → Holds (.cpyw mask) s s) ∧
  (∀ t, (∀ x ∈ s.attached mask, x.done = true) → lowestStop (s.attached mask) = some t →
    Traps (.cpyw mask) s t.cause t.info t.faddr)

/-- R332, R333, R335, R337: the copy engine at work. In a tick it writes what has come back and asks for or empties more, each up to
eight words, and passes over the copies that cannot move; none moves before its start, and a halt lets it only finish the line at hand.
A word's read leaves with its access; once every read of a word has come back, its write leaves with the gathered data and the bit that
the mode says, and the copy goes on to the next word; a destination that fails its checks, or a source that answers with an error,
stops the copy; the data phase of FE.ARRIVE begins once every empty is acknowledged. R334: the end of a copy, once all its writes are
acknowledged. One without a completion word is then over; the completion value of one with a word leaves as a fill, and when that is
acknowledged too the copy is over; its id is free again. -/
def Obligations.CopiesAtWork : Prop := 
  (∀ (s u : State) (x : Copy) (l : List Copy) (c id n m : Nat) (e : TlbEntry) (pa : Nat) (a va w : Word) (v : Nat × Bool) (t : Stop)
    (ids : List Nat) (rest : List (List Nat)) (ws : List Answer) (f : Option Bool),
  let closes (st : State) (i : Nat) : State := (st.copyRest s.here i).copyOver s.here i
  let s1 := (List.range 8).foldl (fun st i => st.nextPhase s.here i) s
  let s2 := (List.range 8).foldl closes (State.moveLines s.here 8 (s1.writeLines s.here))
  let dst := x.rising x.pos
  let at_ := ((s.useEntry c e).armCopy c x e)
  let here := s.find c x.lid dst true = .go e pa ∧ toControl pa = false ∧ (toStore pa = true → x.mode = .keep) ∧
    at_.arming (x.unit c) = false
  let back := x.reads = ids :: rest ∧ s.wordBack ids = some ws
  let joined := joinWord x.elemBytes ((x.sources (x.index x.pos)).zip ws)
  ((s2.core s.here).copies.any (s2.copyWorks s.here) = true → exec .copyDataPhase s = .next (s2.kickCopies s.here (s.tick + 1))) ∧
  ((s2.core s.here).copies.any (s2.copyWorks s.here) = false → exec .copyDataPhase s = .next s2) ∧
  (State.writeWords c id n s).1 ≤ n ∧
  (s.mayMove c x = false → s.moveOne c (x :: l) = s.moveOne c l) ∧
  (s.mayMove c x = true → s.copyMove c x = (true, u) → s.moveOne c (x :: l) = (some x.id, u)) ∧
  (s.mayMove c x = true → s.copyMove c x = (false, u) → s.moveOne c (x :: l) = u.moveOne c l) ∧
  ((s.core c).halt = true → x.inLine = false → s.mayMove c x = false) ∧ (s.tick < x.start → s.mayMove c x = false) ∧
  (x.emptied = true → x.sources (x.index x.head) = [a] → s.find c x.lid a false = .go e pa → s.copyMove c x =
    (true, ((s.useEntry c e).engineAsk c (x.reader c) e a (wordOf pa) .fetch).modCopy c x.id fun y =>
      { y with reads := y.reads ++ [[(s.useEntry c e).nextId]] })) ∧
  (here → x.emptied = false → s.copyMove c x =
    (true, (at_.engineEmpty c (x.unit c) dst e pa).modCopy c x.id fun y => { y with pos := y.pos + 1 })) ∧
  (s.find c x.lid dst true = .stop t → x.emptied = false → s.copyMove c x =
    (false, (s.modCore c fun k => { k with misses := k.misses.filter fun y => y.1 != dst }).stopCopy c x t)) ∧
  (x.reads = ids :: rest → s.wordBack ids = none → s.copyWrite c x = (false, s)) ∧
  (back → joined = .error t → s.copyWrite c x = (false, s.stopCopy c x t)) ∧
  (back → joined = .ok v → s.find c x.lid dst true = .stop t → s.copyWrite c x =
    (false, (s.modCore c fun k => { k with misses := k.misses.filter fun y => y.1 != dst }).stopCopy c x t)) ∧
  (back → joined = .ok v → here → s.copyWrite c x =
    (true, (ids.foldl State.dropAccess (at_.engineWrite c (x.unit c) dst e pa (BitVec.ofNat 64 v.1) (copyBit x.mode v.2))).modCopy c x.id
      fun y => { y with pos := y.pos + 1, reads := rest, sealed := y.sealed.or (sealedBy pa (BitVec.ofNat 64 v.1)) })) ∧
  (toStore pa = false → ∃ y : Access, (s.engineWrite c m va e pa w f).accesses = s.accesses ++ [y] ∧ y.op = .put w f ∧ y.pa = pa ∧
    y.va = va ∧ y.ans = none ∧ (s.engineWrite c m va e pa w f).mem = s.mem) ∧
  ((s.core c).copyOf id = some x → x.emptied = false → x.stop = none → x.count ≤ x.pos → s.acked (x.unit c) = true →
    s.nextPhase c id = s.modCopy c id fun y => { y with emptied := true, pos := 0, start := s.tick }) ∧
  ((s.core c).copyOf id = some x → (x.emptied = true ∧ x.moving = false ∨ x.stop ≠ none) → s.acked (x.unit c) = true →
    s.fillDue c id = false → s.copyOver c id = s.enqueue (s.tick + 1) c .low id .copyCompletionFill)) ∧
  (∀ (s : State) (x : Copy) (va : Word) (e : TlbEntry) (pa : Nat) (t : Stop),
  let again (u : State) : State := u.enqueue (s.tick + 1) s.here .low s.evNum .copyCompletionFill
  ((s.core s.here).copyOf s.evNum = some x → x.moving = false →
    (s.acked (x.unit s.here) = false → exec .copyCompletionFill s = .next (again s)) ∧
    (s.acked (x.unit s.here) = true →
      (x.filling = true → exec .copyCompletionFill s = .next (s.endCopy s.here x.id)) ∧
      (x.filling = false → (s.core s.here).halt = true → exec .copyCompletionFill s = .next s) ∧
      (x.filling = false → (s.core s.here).halt = false →
        (x.cw = none → exec .copyCompletionFill s = .next (s.endCopy s.here x.id)) ∧
        (x.cw = some va →
          (s.findFill s.here x.lid va = .go e pa → e.host = false → exec .copyCompletionFill s =
            .next (again (((s.useEntry s.here e).engineAsk s.here (x.unit s.here) e va pa (.put x.value (some true))).modCopy s.here x.id
              fun y => { y with filling := true }))) ∧
          (s.findFill s.here x.lid va = .stop t → ∃ u, exec .copyCompletionFill s = .next u ∧
            (u.core s.here).copyOf x.id = none))))) ∧
  (((s.endCopy s.here s.evNum).core s.here).copyOf s.evNum = none))

/-- R340 to R344: the ring instructions on a valid ring that no fold operation uses, and RCFG on one with no slot in use. R341, R343: RPUSH issues when its attempt is accepted, traps PROT where the ring is not there, and RING when its budget is
spent; behind the accesses before its RFREE a freed slot is emptied, 64 bytes a tick for all rings of the core and an older one first;
the oldest pending slot of a ring is free in the tick in which the last of its empties is performed. -/
def Obligations.Rings : Prop := 
  (∀ (s : State) (h : RingNo) (d a b : Reg) (n : BitVec 6) (cond : RingCond) (sel : Fin 5),
  let r := s.mine.ring h
  (r.filled = 0 → r.held = 0 → r.pend = 0 → s.folds s.here h = false → ringBad (ringOf (s.rd a) (s.rd b)) = false →
    Issues (.rcfg h a b) s (s.modRing s.here h fun _ => ringOf (s.rd a) (s.rd b))) ∧
  (r.filled ≠ 0 ∨ r.held ≠ 0 ∨ r.pend ≠ 0 ∨ ringBad (ringOf (s.rd a) (s.rd b)) = true → Traps (.rcfg h a b) s 0x11 0 0) ∧
  (r.valid = true → s.folds s.here h = false →
    (r.filled = 0 → ResultC (.rpop h d) s d 0x8000000000000000) ∧
    (r.filled ≠ 0 → Issues (.rpop h d) s ((s.modRing s.here h Ring.pop).wrC 1 d
      (BitVec.ofNat 64 (r.base.toNat + r.head.toNat * 2 ^ r.log2sz.toNat)))) ∧
    (n.toNat < r.held.toNat → Issues (.rfree h n) s (s.freeSlots s.here s.mine.cur false h (n.toNat + 1) s.tick)) ∧
    (r.held.toNat ≤ n.toNat → Traps (.rfree h n) s 0x11 0 0)) ∧
  (r.valid = true →
    (r.meets (n.toNat + 1) cond = true → Issues (.rwait h n cond) s s) ∧
    (r.meets (n.toNat + 1) cond = false → Holds (.rwait h n cond) s s) ∧
    ResultC (.rq h d sel) s d (r.query sel.val)) ∧
  (r.valid = false → Traps (.rpop h d) s 0x11 0 0 ∧ Traps (.rfree h n) s 0x11 0 0 ∧ Traps (.rwait h n cond) s 0x11 0 0 ∧
    Traps (.rq h d sel) s 0x11 0 0)) ∧
  (∀ (s : State) (h : RingNo) (rem : Bool) (a : Reg) (n : Nat),
  (s.me.op = .send n (.answered .accept) → Issues (.rpush h rem a) s s) ∧
  (s.me.op = .send n (.answered .invalid) → Traps (.rpush h true a) s 0x04 0 (s.rd a)) ∧
  (s.me.op = .send n (.answered .refuse) → s.portFar (s.pushAddr rem a) = false → n = s.me.rbud.toNat →
    s.me.rbud ≠ 0xFFFF → Traps (.rpush h rem a) s 0x11 0 0) ∧
  (s.me.op = .idle → (s.mine.ring h).valid = false → Traps (.rpush h false a) s 0x11 0 0) ∧
  (let h' : RingNo := ⟨s.evNum / 131072 % 8, Nat.mod_lt _ (by decide)⟩
   let r := (s.core s.here).ring h'
   let lid := (s.core s.here).lid?.getD 0
   let slot := s.evNum / 2048 % 64
   let words := r.lineWords slot (s.evNum % 2048)
   let again (u : State) (n : Nat) : State := u.enqueue (s.tick + 1) s.here s.evPrio n .ringSlotFreed
   r.lines = 2 ^ r.log2sz.toNat / 64 ∧
   (r.pend ≠ 0 →
    (s.freeWaits s.here s.evPrio s.evNum = true → exec .ringSlotFreed s = .next (again s s.evNum)) ∧
    (s.freeWaits s.here s.evPrio s.evNum = false →
      (r.fe = false ∨ r.lines ≤ s.evNum % 2048 →
        (r.oldest slot = true → s.slotPerformed s.here h' slot = true → exec .ringSlotFreed s =
          .next ((s.modRing s.here h' fun r => { r with pend := r.pend - 1 }).poke lid)) ∧
        (r.oldest slot = false ∨ s.slotPerformed s.here h' slot = false → exec .ringSlotFreed s = .next (again s s.evNum))) ∧
      (r.fe = true → s.evNum % 2048 < r.lines →
        (s.freeAhead s.here s.evNum = true ∨ s.freeSent s.here = true → exec .ringSlotFreed s = .next (again s s.evNum)) ∧
        (∀ u, s.freeAhead s.here s.evNum = false → s.freeSent s.here = false → s.emptyReach s.here lid words = (true, u) →
          exec .ringSlotFreed s = .next (again (u.emptyWords s.here h' lid words) (s.evNum + 1))))))))

/-- R383, R385, R388 to R392, R394, R395: the array instructions of one pass, row by row. R386, R387, R404: what keeps each of them from its pass: a high firing over a suspended low one inside a sequence
traps AA_NESTED, a busy array holds it, and bad parity, in a tag byte or in a segment of its field, traps AA_PARITY with the row; and the
array instructions of several passes trap AA_NESTED so too. -/
def Obligations.OnePassInstructions : Prop := 
  (∀ (s : State) (d a b : Reg) (t u v : Tag) (m : Option Tag) (op : TagOp) (f : Field)
    (k : BitVec 17) (fn : BitVec 4) (sg clr : Bool), s.ArrayReady →
  let o := f.off.toNat
  let w := f.wm1.toNat + 1
  let n := (s.rd a).toNat % 4096
  let set (old hit : Bool) : Bool := match op with | .set => hit | .and => old && hit | .or => old || hit | .andn => old && !hit
  MapsRows (.acmp t m op (.imm k) f) s (fun _ r => r.setTag t (set (r.tag t) (r.sel m && r.get o w == k.toNat % 2 ^ w))) ∧
  MapsRows (.acmp t m op (.reg a) f) s (fun _ r => r.setTag t (set (r.tag t) (r.sel m && r.get o w == (s.rd a).toNat % 2 ^ w))) ∧
  MapsRows (.awrt m f k) s (fun _ r => if r.sel m then r.put o w k.toNat else r) ∧
  MapsRows (.ascw m a f) s (fun _ r => if r.sel m then r.put o w (s.rd a).toNat else r) ∧
  MapsRows (.abnd t a b) s (fun i r => r.setTag t (decide ((i : Int) < (s.rd a - s.rd b).toInt))) ∧
  MapsRows (.atag t u v fn) s
    (fun _ r => r.setTag t (fn.getLsbD (2 * (if r.tag u then 1 else 0) + (if r.tag v then 1 else 0)))) ∧
  exec (.ard d a sg f) s = .next (s.wrC 1 d (if sg then BitVec.ofInt 64 (asInt w ((s.mine.row n).get o w))
    else BitVec.ofNat 64 ((s.mine.row n).get o w))).issueArray ∧
  exec (.awr a b f) s = .next (s.modMine fun c => c.setRow n ((c.row n).put o w (s.rd b).toNat)).issueArray ∧
  exec (.arws d) s = .next (s.wrC 1 d 4096).issueArray ∧
  (s.mine.firstTag t = none → exec (.afst d t clr) s = .next (s.wrC 1 d 0xFFFFFFFFFFFFFFFF).issueArray) ∧
  (∀ i, s.mine.firstTag t = some i → exec (.afst d t clr) s =
    .next ((if clr then s.modMine fun c => c.setRow i ((c.row i).setTag t false) else s).wrC 1 d (BitVec.ofNat 64 i)).issueArray)) ∧
  (∀ (s : State) (d a b : Reg) (t u v : Tag) (m : Option Tag) (op : TagOp) (f : Field) (k : BitVec 17) (fn : BitVec 4) (sg clr : Bool)
    (c : SeqCode) (x y : BitVec 4) (p q r : BitVec 9) (n : BitVec 8),
  let l := [(f.off.toNat, f.wm1.toNat + 1)]
  let one (i : Instr) (bad : Core → Option Nat) : Prop :=
    (s.mine.nested = true → Traps i s 0x0D 0 0) ∧
    (s.mine.nested = false → s.mayPass = false → exec i s = .next s) ∧
    (∀ row, s.mine.nested = false → s.mayPass = true → bad s.mine = some row →
      exec i s = .next ((s.countUncorr 6).trapHere 0x0E (BitVec.ofNat 48 row) 0))
  let rows (z : Core) := z.badRow m l
  let tags (z : Core) := z.badRow none []
  let row (z : Core) := z.badOne ((s.rd a).toNat % 4096) l
  one (.acmp t m op (.imm k) f) rows ∧ one (.acmp t m op (.reg a) f) rows ∧ one (.awrt m f k) rows ∧ one (.ascw m a f) rows ∧
  one (.abnd t a b) tags ∧ one (.atag t u v fn) tags ∧ one (.afst d t clr) tags ∧ one (.arws d) tags ∧
  one (.ard d a sg f) row ∧ one (.awr a b f) row ∧
  (s.mine.nested = true → s.me.op = .idle → Traps (.acnt d t) s 0x0D 0 0 ∧ Traps (.arsum d m sg f) s 0x0D 0 0 ∧
    Traps (.aseq c m t a x y p q r) s 0x0D 0 0 ∧ Traps (.ausq n p q r) s 0x0D 0 0 ∧ Traps (.asql a) s 0x0D 0 0 ∧
    Traps (.arwd a) s 0x0D 0 0 ∧ Traps (.atrc a) s 0x0D 0 0)) ∧
  (∀ (k : Core) (m : Option Tag) (l : List (Nat × Nat)) (n : Nat),
  let bad (z : Nat) : Prop := z % 9 = 8 ∨ (∃ f ∈ l, f.1 < 64 * (z % 9 + 1) ∧ 64 * (z % 9) < f.1 + f.2) ∧ (k.row (z / 9)).sel m = true
  (k.badRow m l = none ↔ ∀ z ∈ k.badPar, ¬ bad z) ∧
  (k.badRow m l = some n → (∃ z ∈ k.badPar, bad z ∧ z / 9 = n) ∧ ∀ z ∈ k.badPar, bad z → n ≤ z / 9))

/-- R385: a pass over the rows changes each by its own old value, and writing a field or a tag of a row leaves the rest of it. -/
def Obligations.RowsAndFields : Prop := ∀ (k : Core) (f : Nat → Row → Row) (r : Row) (n o w v p q : Nat) (t u : Tag) (b : Bool),
  (n < 4096 → (k.mapRows f).row n = f n (k.row n)) ∧
  (o + w ≤ 512 → (r.put o w v).get o w = v % 2 ^ w ∧ (r.put o w v).tags = r.tags ∧
    (p + q ≤ o ∨ o + w ≤ p → p + q ≤ 512 → (r.put o w v).get p q = r.get p q)) ∧
  (r.setTag t b).tag t = b ∧ (u ≠ t → (r.setTag t b).tag u = r.tag u) ∧ (r.setTag t b).bits = r.bits

/-- R386, R392, R393, R397, R402, R412, R421: an array instruction of several passes begins when the array is free and issues
with its effect when its last pass is over; that a sequence changes the rows at its last pass only is the model's choice (log entry 23).
R399: ASQL reads its 256 words by ordinary loads, which all leave in the tick of its first issue by the model's choice (log entry 61), and
when they have come, with every tag byte sound, they replace the sequence store and it issues. -/
def Obligations.SequencesAndPasses : Prop := 
  (∀ (s : State) (d a : Reg) (t : Tag) (m : Option Tag) (sg : Bool) (f : Field) (c : SeqCode)
    (x y : BitVec 4) (p q r : BitVec 9) (n : Nat) (code : Option Nat) (st : Nat) (v : Word) (b : BitVec 8),
  let w1 := x.toNat + 1
  let w2 := y.toNat + 1
  let done := s.me.op = .array n code (some st) true v ∧ s.mine.badPar = []
  (done → exec (.acnt d t) s = .next (s.wrC 1 d (BitVec.ofNat 64 (s.mine.countTag t))).issueArray ∧
    exec (.arsum d m sg f) s =
      .next (s.wrC 1 d (BitVec.ofInt 64 (s.mine.sumRows m sg f.off.toNat (f.wm1.toNat + 1)))).issueArray ∧
    exec (.aseq c m t a x y p q r) s =
      .next (s.modMine fun k => k.seqRows c m t w1 w2 (s.rd a) p.toNat q.toNat r.toNat).issueArray ∧
    exec (.arwd a) s = .next (s.modMine fun k => k.rewardRows ((s.rd a).setWidth 16) []).issueArray ∧
    exec (.atrc a) s = .next s.issueArray) ∧
  (s.me.op = .array n code (some st) false v → s.mine.badPar = [] →
    exec (.acnt d t) s = .next s ∧ exec (.arsum d m sg f) s = .next s ∧ exec (.aseq c m t a x y p q r) s = .next s ∧
    exec (.arwd a) s = .next s ∧ exec (.atrc a) s = .next s) ∧
  (s.me.op = .idle → s.ArrayReady → exec (.acnt d t) s =
    .next (((s.modMe fun k => { k with pass := 0 }).modMe fun k =>
      { k with op := .array 0 none (some s.tick) false 0, pass := 0 }).enqueueFirst (s.tick + 2) s.here s.mine.cur s.tick
        .arrayLastPass)) ∧
  (∀ e, s.me.op = .array n code (some st) e v → s.mine.badPar = [] →
    let i := b.toNat + (n + (s.tick - st))
    let word := s.mine.seqWord i
    passEnds word i = true → exec (.ausq b p q r) s =
      .next (s.modMine fun k => k.mapRows fun _ z => passRow word p.toNat q.toNat r.toNat z).issueArray)) ∧
  (∀ (s : State) (a : Reg) (e : TlbEntry) (pa first n : Nat) (l : List Word),
  let s1 := s.touch s.here e
  s.mine.nested = false →
  (s.me.op = .idle → s.mayPass = true → s.reaches (reqLoad (s.rd a) 8) e pa → s1.unreachable pa = false →
    2048 ≤ e.bytes - (s.rd a).toNat % e.bytes → s1.wordsTrap (s.rd a).toNat pa 256 = none →
    Holds (.asql a) s ((s1.modMe fun k => { k with op := .gather s1.nextId 256 }).loadWords e (s.rd a) pa 256)) ∧
  (s.me.op = .gather first n → collected (s.grouped first n) = none → Holds (.asql a) s s) ∧
  (s.me.op = .gather first n → collected (s.grouped first n) = some (.ok l) → s.mine.badRow none [] = none → exec (.asql a) s =
    .next ((s.modMine fun k => { k with seq := seqStore l, asql := some (s.rd a) }).issueArray.dropRead first n)))

/-- R405, R412, R413, R417: the learning registers and a trace. A field layout that fits is stored and any other is ignored; a
write to %astep makes held rewards due; a trace whose stamp is not the next traps STEP_ORDER, one beyond the horizon waits;
the last pass of a trace advances every plastic row and %astep, which it does there at once by the model's choice (log entry 23). R414 to
R417: RBC and RCLR do nothing on a service core, wait for the core's outstanding broadcast, and else leave; an array
takes a broadcast, with which it is over there, or refuses it where four rewards are held or its launch is pre-empted, and the refusal
comes back after the same time; a refused one is sent again 16 ticks later, counted by the model from the refusal's return (log
entry 49). -/
def Obligations.TracesAndBroadcasts : Prop := 
  (∀ (s : State) (c : Nat) (v st : Word) (a : Reg) (n d : Nat),
  (exec (.afldWrite c v) s = .next (s.modCore c fun k =>
    if fieldsFit ({ k with afld := v.setWidth 36 } : Core).learnFields then { k with afld := v.setWidth 36 } else k)) ∧
  (∃ t, exec (.astepWrite c v) s = .next t ∧ (t.core c).astep = v ∧
    (t.core c).rewards = (s.core c).rewards.map (fun x =>
      if x.due = false ∧ x.s.toNat ≤ v.toNat then { x with due := true, late := decide (x.s.toNat < v.toNat) } else x) ∧
    (t.core c).rows = (s.core c).rows ∧ t.mem = s.mem) ∧
  (s.me.op = .idle → s.me.pass = 0 → s.mine.nested = false → (s.rd a).toNat ≠ s.mine.astep.toNat + 1 →
    Traps (.atrc a) s 0x0F 0 0) ∧
  (s.me.op = .idle → s.me.pass = 0 → s.mine.nested = false → (s.rd a).toNat = s.mine.astep.toNat + 1 →
    s.mine.ahz.toNat + s.mine.rlag.toNat < (s.rd a).toNat → Holds (.atrc a) s s) ∧
  ((s.bank s.here s.evPrio).op = .array d (some 0x41) (some s.evNum) false st → (s.core s.here).badPar = [] →
    exec .arrayLastPass s = .next ((s.modBank s.here s.evPrio fun b => { b with op := .array d (some 0x41) (some s.evNum) true st }).endTrace
      s.here st)) ∧
  (∀ code, code ≠ some 0x41 → (s.bank s.here s.evPrio).op = .array d code (some s.evNum) false st →
    exec .arrayLastPass s = .next (s.modBank s.here s.evPrio fun b => { b with op := .array d code (some s.evNum) true st })) ∧
  (n < 4096 → ((s.endTrace c st).core c).row n =
    (let r := (s.core c).row n
     if r.tag (s.core c).plasTag then (r.put ((s.core c).woff + 16) 32 0).put (s.core c).eoff 12 ((s.core c).nextTrace r) else r))) ∧
  (∀ (s : State) (a b : Reg) (sc : Scope) (x : Bcast) (c : Nat) (r : BitVec 16) (v : Word),
  (isSvc s.here = true → Issues (.rbc a b sc) s s ∧ Issues (.rclr b sc) s s) ∧
  (isSvc s.here = false → s.mine.bcast = none →
    Issues (.rbc a b sc) s (s.broadcast (some ((s.rd a).setWidth 16)) (s.rd b) sc) ∧
    Issues (.rclr b sc) s (s.broadcast none (s.rd b) sc)) ∧
  (isSvc s.here = false → s.mine.bcast = some x → Holds (.rbc a b sc) s s ∧ Holds (.rclr b sc) s s) ∧
  (let lid := (s.core s.here).lid?.getD 0
   let got := s.takeBcast lid s.evNum x.r x.s
   (s.core s.here).bcast = some x →
    (got.1 = .accept → exec .rewardBroadcastArrive s = .next (got.2.bcastAnswer s.here s.evNum .accept)) ∧
    (got.1 = .refuse → exec .rewardBroadcastArrive s = .next (got.2.enqueue (s.tick + bcastWay x.sc) s.here .low (bcastNum + s.evNum)
      (.messageAnswerArrive s.here .low .refuse)))) ∧
  (∀ p, bcastNum ≤ s.evNum → exec (.messageAnswerArrive c p .refuse) s =
    .next (s.enqueue (s.tick + 16) c .low (s.evNum - bcastNum) .broadcastRetry)) ∧
  ((s.core s.here).bcast = some x → s.evNum ∈ x.left → (s.core s.here).halt = false →
    exec .broadcastRetry s = .next (s.sendBcast s.here s.evNum x.sc)) ∧
  (∀ lid : W32, s.coreFenced c = false →
    (s.preempted lid = true → s.takeBcast lid c (some r) v = (.refuse, s)) ∧
    (s.preempted lid = false → (s.core c).lid? = some lid →
      (4 ≤ (s.core c).pendRewards → s.takeBcast lid c (some r) v = (.refuse, s)) ∧
      ((s.core c).pendRewards < 4 → (s.takeBcast lid c (some r) v).1 = .accept ∧
        ((s.takeBcast lid c (some r) v).2.core c).rewards = (s.core c).rewards ++
          [{ r := r, s := v, late := decide (v.toNat < (s.core c).astep.toNat), due := decide (v.toNat ≤ (s.core c).astep.toNat) }] ∧
        ((s.takeBcast lid c (some r) v).2.core c).ahz = (if (s.core c).ahz.toNat < v.toNat then v else (s.core c).ahz)))))

/-- R418, R419: an application starts with the due reward of lowest stamp when no array instruction has passes left, ends 2000
ticks later, and then changes every plastic row, which it does there at once by the model's choice (log entry 23); a late one counts. -/
def Obligations.RewardsApply : Prop := ∀ (s : State) (x : Reward) (n d : Nat),
  let k := s.core s.here
  (k.halt = false → k.apply = none → nextReward k.rewards = some x → k.low.passesLeft s.tick = false → k.high.passesLeft s.tick = false →
    k.narrowing = false → exec .rewardApplyStart s =
      .next ((s.modCore s.here fun k => { k with rewards := k.rewards.erase x }).runApply s.here x 0)) ∧
  (k.halt = false → k.apply = none → nextReward k.rewards = none → exec .rewardApplyStart s = .next s) ∧
  (k.badPar = [] → s.runApply s.here x 0 = (s.modCore s.here fun k => { k with apply := some (x, 0, some s.tick) }).enqueueFirst
    (s.tick + 2000) s.here .low s.tick .rewardApplyDone) ∧
  (k.apply = some (x, d, some s.evNum) → k.badPar = [] → ∃ t, exec .rewardApplyDone s = .next t ∧
    (t.core s.here).apply = none ∧ (t.core s.here).rows = (k.rewardRows x.r []).rows ∧
    (t.core s.here).alate = (if x.late then satAdd k.alate 1 else k.alate) ∧ t.mem = s.mem) ∧
  (n < 4096 → (k.rewardRows x.r []).row n =
    (let r := k.row n
     if r.tag k.plasTag then (r.put (k.woff + 16) 32 0).put k.woff 16 (newWeight (k.factor x.r) (r.get k.woff 16) (k.trace r))
     else r)) ∧
  (∀ y, nextReward k.rewards = some y → y ∈ k.rewards ∧ y.due = true ∧ ∀ z ∈ k.rewards, z.due = true → y.s.toNat ≤ z.s.toNat)

/-- R206, R365 to R371: MZERO, MWID and MNAR enter the queue of their core where it has room; where it has none MZERO is held; with MNAR
goes GAP4 or GAP8 as it stands at its issue (R234; how R368 is read beside it is log entry 111); of the
address and the row stride of MWID, and of those and, in the DXB formats, the scale address of an MNAR to memory, the first that is not
a multiple of 8 traps ALIGN with its value; MREC writes the two words of the record where nothing of its
accumulator is in the queue and no MFOLD of it has failed; MWAIT issues where nothing of its mask is in the queue and none has
failed; MQ writes the member, active and fenced sets; FENCE.E waits for the engines. -/
def Obligations.AccumulatorInstructions : Prop := ∀ (s : State) (c : Acc) (d a b e : Reg) (w : WidFmt) (f : NarFmt) (rm : Rm)
    (arr : Option (BitVec 9)) (mask : BitVec 4),
  let enters (i : Instr) (it : QItem) : Prop := s.mine.fqRoom = true → exec i s =
    .next ((((s.modMine fun k => { k with fq := k.fq ++ [{ owner := some s.me.key, item := it, begun := false }] }).anchor).issue).kick
      s.here)
  let stride (v : Word) : Word := (v.setWidth 32).signExtend 64
  let free (m : BitVec 4) : Prop := (∀ x ∈ s.mine.fq, s.names m x.item = false) ∧ s.myFails m = []
  enters (.mzero c) (.zero c) ∧
  ((s.rd a).toNat % 8 = 0 → (stride (s.rd b)).toNat % 8 = 0 → enters (.mwid c w a b) (.wid c w (s.rd a) (s.rd b) false)) ∧
  (((s.rd a).toNat % 8 = 0 ∧ (stride (s.rd b)).toNat % 8 = 0 ∧ ((narDxb f).isSome = true → (s.rd e).toNat % 8 = 0)) ∨ arr.isSome = true →
    enters (.mnar c f rm a b e arr) (.nar c f (s.mode rm) (s.rd a) (s.rd b) (s.rd e) arr 0
      (if f = .dxb4 then s.mine.gap4 else s.mine.gap8).toNat)) ∧
  (s.mine.fqRoom = false → exec (.mzero c) s = .next s) ∧
  (let bad (l : List Word) : Option Word := l.find? fun v => v.toNat % 8 != 0
   (∀ v, bad [s.rd a, stride (s.rd b)] = some v → Traps (.mwid c w a b) s 0x03 0 v) ∧
   (∀ v, bad ([s.rd a, stride (s.rd b)] ++ (if (narDxb f).isSome then [s.rd e] else [])) = some v →
    Traps (.mnar c f rm a b e none) s 0x03 0 v)) ∧
  ((∀ x ∈ s.mine.fq, s.names (layerBit c.val) x.item = false) → (s.myFails (layerBit c.val)).filter (·.fold) = [] →
    let r := (vget s.mine.recs c.val none).getD { gd := 0, gs := 0 }
    Issues (.mrec c d) s ((s.wrC 1 d r.gd).wrC 1 (d + 1) r.gs).anchor) ∧
  (free (if mask = 0 then 0xF else mask) → Issues (.mwait mask) s s.anchor) ∧
  Issues (.mq d) s (s.wrC 1 d (BitVec.ofNat 64 ((s.memberSet s.here).toNat + 16 * (s.nowSet (coreTower s.here)).toNat +
    256 * s.mine.flast.toNat + 4096 * (s.fencedSet (coreTower s.here)).toNat + 65536 * (s.mine.fq.length % 8)))).anchor ∧
  (s.engineBusy = false → lowestStop (s.attached 0) = none → s.myFails 0xF = [] → Issues .fenceE s s) ∧
  (s.engineBusy = true → Holds .fenceE s s)

/-- R353: MFOLD. Once its operation has its place it issues, anchored; a ring that cannot supply it traps RING, a core outside
its own set traps FOLD_MISMATCH; a solo operation is committed at once, and a gang's core joins and waits. R353, R354: a gang whose joins are ready and agree becomes one operation of its joiners; one that does not agree, or whose home is not a
member, traps FOLD_MISMATCH at every joiner that waits; one that is not ready waits. -/
def Obligations.FoldStarts : Prop := 
  (∀ (s : State) (c : Acc) (f : FoldFmt) (h : Fin 4) (ra rb : RingNo) (pin solo : Bool)
    (nk : BitVec 8) (id : Nat),
  let serves := ringServes f (s.mine.ring ra) = true ∧ ringServes f (s.mine.ring rb) = true
  let me := s.here
  (s.me.op = .fold (some id) true → Issues (.mfold c f h ra rb solo pin nk) s s.anchor) ∧
  (s.me.op = .fold (some id) false → exec (.mfold c f h ra rb solo pin nk) s = .next s) ∧
  (s.me.op = .fold none false → exec (.mfold c f h ra rb solo pin nk) s = .next s.holdJoin) ∧
  (s.me.op = .idle → ¬ serves → Traps (.mfold c f h ra rb solo pin nk) s 0x11 0 0) ∧
  (s.me.op = .idle → serves → exec (.mfold c f h ra rb true pin nk) s =
    .next (s.commitFold (newFold s.nextId (foldOf me) c f (layerIn me) [(me, ra, rb)] [] true pin nk (layerBit (layerIn me)))
      [(me, s.mine.cur)] []).issuePlaced) ∧
  (s.me.op = .idle → serves → (s.memberSet me).getLsbD (layerIn me) = false →
    Traps (.mfold c f h ra rb false pin nk) s 0x0B 0 0) ∧
  (s.me.op = .idle → serves → (s.memberSet me).getLsbD (layerIn me) = true →
    exec (.mfold c f h ra rb false pin nk) s =
      .next (({ s with joins := (s.joins.filter fun (x : Join) => x.core != me) ++
        [{ fold := foldOf me, core := me, prio := s.mine.cur, acc := c, fmt := f, home := h, ra := ra, rb := rb, pin := pin, nkm1 := nk,
           fmask := s.mine.fmask, fpin := s.mine.fpin, at_ := s.tick }] } : State).holdJoin.checkJoin me))) ∧
  (∀ (s : State) (j : Join) (r : List Join),
  s.liveJoins s.evNum (s.core s.here).lid? = j :: r →
  let l := j :: r
  let rest : State := { s with joins := s.joins.filter fun x => !l.contains x }
  let stand := l.filter fun (x : Join) => (s.core x.core).stands x
  let who := (l.filter fun (x : Join) => !stand.contains x).map fun (x : Join) => (x.core, x.prio)
  (s.joinReady l = false → exec .foldJoinComplete s = .next s) ∧
  ((s.core s.here).halt = false → s.joinReady l = true → (∀ x ∈ l, x.at_ + 4 ≤ s.tick) →
    ((∀ x ∈ r, j.agrees x = true) → (s.joinSet j).getLsbD j.home.val = true →
      exec .foldJoinComplete s = .next (rest.commitFold
        (newFold s.nextId j.fold j.acc j.fmt j.home.val (l.map fun (x : Join) => (x.core, x.ra, x.rb)) l false j.pin j.nkm1 (s.joinSet j))
        who stand)) ∧
    ((∃ x ∈ r, j.agrees x = false) ∨ (s.joinSet j).getLsbD j.home.val = false →
      exec .foldJoinComplete s = .next (l.foldl State.joinFails rest))) ∧
  ((s.core j.core).stands j = false → s.joinFails j = s.takeTrap j.core j.prio 0x0B 0 0))

/-- R350, R354, R357 to R362, R369: the course of a fold operation. Its start takes the fold's sequence number, or, where a member has
been fenced before, ends it with ABORT (log entry 66); at a round boundary a pre-emption comes first, and then a fence ends it with
ABORT; a round whose data have come and whose ticks are over adds its sum to the accumulator of the home core and marks its slots, which
are taken behind the tick by the model's choice (R345; log entry 124); when every round is done it ends, and then it is gone and
every member has its record. R366 to R368: an accumulator instruction at the head of its core's queue: MZERO clears its accumulator, MWID
loads its elements and takes 32 ticks, MNAR stores row by row, into the array or by stores to memory that leave together; each then leaves
the queue. The round end and the stored row are stated for accumulators without a parity error. -/
def Obligations.FoldEngineAtWork : Prop := 
  (∀ (s : State) (o : FoldOp),
  s.foldOp s.evNum = some o → s.evNum ≠ 0 →
  let runs := ∀ c ∈ o.cores, (s.core c).halt = false
  (o.begun = true → exec .foldOpStart s = .next s) ∧
  (o.begun = false → runs → s.foldFenced o = true →
    exec .foldOpStart s = .next ((s.modFold o.id fun x => { x with begun := true, abort := true }).endFold o)) ∧
  (o.begun = false → runs → s.foldFenced o = false → s.nowSet (o.fold / 256) &&& o.members ≠ 0 →
    Sparse.wf (fun _ => (0 : BitVec 32)) s.foldSeq = true → ∃ t, exec .foldOpStart s = .next t ∧
      Sparse.get (fun _ => 0) t.foldSeq o.fold = Sparse.get (fun _ => 0) s.foldSeq o.fold + 1) ∧
  (o.begun = true → o.fin = false → o.busy = none → exec .foldRoundEnd s = .next (s.atBoundary o)) ∧
  ((∃ c ∈ o.cores, (s.core c).halt = true) → s.atBoundary o =
    (s.roundOver o).modFold o.id fun x => { x with preempted := true, bound := true }) ∧
  (runs → s.foldFenced o = true → s.atBoundary o = (s.modFold o.id fun x => { x with abort := true }).endFold o) ∧
  (∀ (till : Nat) (s1 : State) (x : Stop) (data : List (Nat × Nat × Nat)), o.begun = true → o.fin = false → o.busy = some till →
    let u := s1.roundOver o
    (s.readRound o o.owners = (none, s1) → exec .foldRoundEnd s = .next (s1.foldAgain o)) ∧
    (s.readRound o o.owners = (some (.error x), s1) →
      exec .foldRoundEnd s = .next ((u.modFold o.id fun y => { y with stop := some x }).endFold o)) ∧
    (s.readRound o o.owners = (some (.ok data), s1) → s.tick < till →
      exec .foldRoundEnd s = .next (s1.enqueue till o.homeCore .low o.id .foldRoundEnd)) ∧
    (s.readRound o o.owners = (some (.ok data), s1) → till ≤ s.tick → (u.core o.homeCore).accBad o.acc 0 1024 = false →
      let sum := o.sumOf data
      let new := ((sum.map (·.v)).zip ((u.core o.homeCore).accAll o.acc)).map fun p => foldAdd o.fmt p.2 p.1
      let o1 := { o with rounds := o.rounds + 1, ill := o.ill || sum.any (·.ill), nan := o.nan || sum.any (·.nan) || new.any (·.nan),
                         ovf := o.ovf || sum.any (·.ovf) || new.any (·.ovf), busy := none, bound := true,
                         ref := if o.sampled then refRound o.fmt o.ref (data.map fun d => d.2) else o.ref }
      let s2 := ((u.modCore o.homeCore fun k => k.accSet o.acc (new.map (·.v))).retire o).modFold o.id fun _ => o1
      exec .foldRoundEnd s = .next (if o.count ≤ o1.rounds ∧ s2.foldFenced o1 = false then s2.endFold o1 else s2.atBoundary o1))) ∧
  (o.fin = false → exec .foldOpComplete s = .next s) ∧
  (o.fin = true → ∃ t, exec .foldOpComplete s = .next t ∧ t.foldOp o.id = none)) ∧
  (∀ (s : State) (r : Ring),
  (s.evNum = 0 → exec .foldRoundEnd s = .next (s.takeSlots s.here) ∧
    exec .foldOpComplete s = .next (State.devFlush s.here s.devPend s)) ∧
  (r.read = true → r.taken = { r with read := false, head := r.plus r.head 1, filled := r.filled - 1, held := r.held + 1, pops := r.pops + 1 }) ∧
  (∀ h, ((s.core s.here).ring h).read = true → s.folds s.here h = true)) ∧
  (∀ (s : State) (a : Acc) (w : Option Nat) (r : List QEntry) (f : WidFmt) (g : NarFmt) (m : Mode)
    (ga gb gc : Word) (l : List (BitVec 32)) (s0 s1 : State) (arr : Option (BitVec 9)) (row gap : Nat) (lid : BitVec 32) (t : Stop),
  let k := s.core s.here
  let key := unitKey s.here 8
  let at_ (it : QItem) := k.halt = false ∧ k.lid? = some lid ∧ k.fq = { owner := w, item := it, begun := true } :: r
  let again (u : State) (n : Nat) : State := u.enqueue (s.tick + n) s.here .low 0 .accOpComplete
  let put (u : State) (it : QItem) : State := u.modCore s.here fun k => { k with fq := { owner := w, item := it, begun := true } :: r }
  let fails (u : State) (t : Stop) : State := (((u.dropGroup key).failItem s.here w a false t).popQueue s.here).poke lid
  let y := narRow g m gap ((List.range 32).map fun j => k.accGet a (32 * row + j))
  let stores := rowStores g ga gb gc row y
  let nar : QItem := .nar a g m ga gb gc arr row gap
  let narNext : QItem := .nar a g m ga gb gc arr (row + 1) gap
  let go := at_ nar ∧ s.rowFailed s.here = none
  let sound := row < 32 ∧ k.accBad a (32 * row) 32 = false
  (k.halt = true → s.rowsDone s.here = true → s.rowFailed s.here = none → exec .accOpComplete s = .next (s.dropGroup key)) ∧
  (at_ (.zero a) → exec .accOpComplete s = .next (((s.modCore s.here fun k => k.accSet a []).popQueue s.here).poke lid)) ∧
  (at_ (.wid a f ga gb true) → exec .accOpComplete s = .next ((s.popQueue s.here).poke lid)) ∧
  (at_ (.wid a f ga gb false) → s.readElems s.here lid f ga gb (List.range 1024) = (none, s1) →
    exec .accOpComplete s = .next (again s1 1)) ∧
  (at_ (.wid a f ga gb false) → s.readElems s.here lid f ga gb (List.range 1024) = (some (.error t), s1) →
    exec .accOpComplete s = .next (fails s1 t)) ∧
  (at_ (.wid a f ga gb false) → s.readElems s.here lid f ga gb (List.range 1024) = (some (.ok l), s1) →
    exec .accOpComplete s = .next (again (put ((s1.dropGroup key).modCore s.here fun k => k.accSet a l) (.wid a f ga gb true)) 32)) ∧
  (at_ nar → s.rowFailed s.here = some t → exec .accOpComplete s = .next (fails s t)) ∧
  (go → 32 ≤ row →
    (s.rowsDone s.here = true → exec .accOpComplete s = .next (((s.dropGroup key).popQueue s.here).poke lid)) ∧
    (s.rowsDone s.here = false → exec .accOpComplete s = .next (again s 1))) ∧
  (∀ off, arr = some off → go → sound →
    let s2 := s.modCore s.here fun k => k.rowToArray g ga off row y.2
    (k.arrayBusy = true → exec .accOpComplete s = .next (s.enqueueFirst (s.tick + 1) s.here .low 0 .accOpComplete)) ∧
    (k.arrayBusy = false → row < 31 → exec .accOpComplete s = .next (again (put s2 narNext) 1)) ∧
    (k.arrayBusy = false → row = 31 → exec .accOpComplete s = .next ((s2.popQueue s.here).poke lid))) ∧
  (arr = none → go → sound →
    (s.rowReach s.here lid stores = (false, s0) → exec .accOpComplete s = .next (again s0 1)) ∧
    (s.rowReach s.here lid stores = (true, s0) → s0.rowStoresAll s.here lid stores = (s1, some t) →
      exec .accOpComplete s = .next (fails s1 t)) ∧
    (s.rowReach s.here lid stores = (true, s0) → s0.rowStoresAll s.here lid stores = (s1, none) →
      exec .accOpComplete s = .next (again (put s1 narNext) 1))) ∧
  (∀ j, j < narBits g / 2 → stores[j]? = some (ga + BitVec.ofInt 64 (row * (((gb.setWidth 32).signExtend 64 : Word).toInt)) +
    BitVec.ofNat 64 (8 * j), 8, packRow (narBits g) y.2 / 2 ^ (64 * j) % 2 ^ 64)) ∧
  (∀ (va : Word) (v pa : Nat) (e : TlbEntry), s.find s.here lid va true = .go e pa → s.rowStore s.here lid (va, 8, v) =
    .ok ((s.useEntry s.here e).engineSend s.here key e va pa (.store .d (BitVec.ofNat 64 v)) true)))

/-- R110, R112, R113, R178, R180, R184, R109, R142, R215: what a core chooses at a bundle boundary, when a rest ends, when a woken
or due record is appended, and when a core falls asleep and wakes. A high entry waits for a pass of a low firing's sequence in the
first tick in which it is considered, and for the last pass, which is the model's reading of R402 (log entry 47); an entry that starts has its firing running. -/
def Obligations.FiringEvents : Prop := 
  (∀ (s : State) (e : Entry) (n key pa lat d : Nat) (x : ParkEntry),
  let k := s.mine
  let b := s.bank s.here s.evPrio
  (k.asleep = true → exec .entryStart s = .next s) ∧
  (k.asleep = false → k.high.run = .running → exec .entryStart s = .next (s.modMine fun k => { k with cur := .high })) ∧
  (k.asleep = false → k.high.run ≠ .running → s.headEntry .high = some e → s.passFirst e = false →
    exec .entryStart s = .next (s.startEntry .high e)) ∧
  (k.asleep = false → k.high.run ≠ .running → s.headEntry .high = some e → s.passFirst e = true →
    exec .entryStart s = .next (s.modMine fun k => { k with cur := .low })) ∧
  (k.asleep = false → k.high.run ≠ .running → s.headEntry .high = none →
    (k.low.run = .running → exec .entryStart s = .next (s.modMine fun k => { k with cur := .low })) ∧
    (k.low.run = .suspended → exec .entryStart s =
      .next (s.modMine fun k => { k.modBank .low (Bank.continue · s.tick) with cur := .low })) ∧
    (k.low.run = .none → s.headEntry .low = some e → exec .entryStart s = .next (s.startEntry .low e)) ∧
    (k.low.run = .none → s.headEntry .low = none → exec .entryStart s = .next s)) ∧
  (b.op = .fe n key pa lat (.resting d) → d ≤ s.tick →
    exec .feAttempt s = .next (s.modBank s.here s.evPrio fun y => { y with op := .fe n key pa lat .ready })) ∧
  (s.parkEntry s.evNum = some x → x.st = .woken →
    (s.preempted x.lid = true → exec .wakeAppend s = .next (s.modPark x.id fun y => { y with st := .heldWake })) ∧
    (s.preempted x.lid = false → x.fcr ≠ [] → exec .wakeAppend s = .next (s.pushResume x)) ∧
    (s.preempted x.lid = false → x.fcr = [] →
      exec .wakeAppend s = .next (s.enqueue (s.tick + 1) s.here s.evPrio x.id .wakeAppend))) ∧
  (s.dueFirst s.here s.evPrio = some x → ((s.core s.here).fifo s.evPrio).length < 448 →
    exec .resumeEntryDue s = .next (s.pushResume x)) ∧
  ((s.core s.here).idle = true → (s.core s.here).idleAt + 4096 ≤ s.tick →
    exec .coreSleep s = .next (s.modCore s.here fun k => { k with asleep := true })) ∧
  ((s.core s.here).asleep = true → ∃ t, exec .coreWake s = .next t ∧ (t.core s.here).asleep = false ∧
    (t.core s.here).tlb = [] ∧ t.mem = s.mem ∧
    (t.quadTlb = if isSvc s.here = false ∧ (∀ d ∈ quadCores s.here, s.sleeps d = true ∨ d = s.here)
      then s.quadTlb.filter (fun x => x.1 != coreQuad s.here) else s.quadTlb))) ∧
  (∀ (s : State) (c n d : Nat) (p : Prio) (i : Inst) (a : Actor), s.inst c n = some i → s.instActor c n = some a →
    i.inflight = false → i.disabled = false →
    ((s.startInst c p n d).bank c p).run = .running ∧ ((s.startInst c p n d).bank c p).pc = a.entry ∧
    ((s.startInst c p n d).bank c p).readyAt = s.tick + d ∧ ((s.startInst c p n d).bank c p).act = i.act)

/-- R109, R117, R118, R122, R123, R89: records on their way. A migrating firing's record leaves once nothing of the firing is
outstanding; a record that arrives takes an entry of its core's set, or waits in the order of arrival; a reserved record is appended to
the fault actor's port; a held one is offered again; the watchdog ends a running firing, with the opcode that stands at its PC then as INFO, which is the
model's choice (log entry 92), and a launch's start message lets its core
issue once everything that was written for the launch is performed. -/
def Obligations.RecordsTravel : Prop := ∀ (s : State) (t n fc : Nat) (r : Transit) (h : Hold) (hs : List Hold) (q : Port) (l : Launch),
  let b := s.bank s.here s.evPrio
  (b.leaving = some (.migrate t) → s.quiet s.here s.evPrio = true → ∃ u, exec .migrationDepart s = .next u ∧
    (u.bank s.here s.evPrio).run = .none ∧ u.mem = s.mem ∧ ∃ y ∈ u.transit, y.core = t ∧ y.lid = b.lid ∧ y.home = b.home ∧
      y.inst = b.inst ∧ (bankOfFcr y.fcr).migc = b.migc + 1 ∧ (bankOfFcr y.fcr).pc = b.pc) ∧
  ((s.transit.find? fun x => x.id == s.evNum) = some r → s.launchOf r.lid = some l → (s.layer (coreLayer r.core)).fenced = false →
    s.preempted r.lid = false →
    (s.setRoom (coreTower r.core) (s.coreSet r.core) = true → exec .fcrArrive s = .next (s.letIn r)) ∧
    (s.setRoom (coreTower r.core) (s.coreSet r.core) = false → exec .fcrArrive s =
      .next { s with transit := (s.transit.filter fun u => u.id != r.id) ++ [{ r with arrived := true }] })) ∧
  (s.faultHere s.here = some n → s.preempted ((s.core s.here).lid?.getD 0) = false →
    exec .fcrDeliver s = .next (((s.park.filter fun e => e.kind == .port && e.origin == s.here && (s.core s.here).lid? == some e.lid &&
      e.st == .reserved && decide (e.due ≤ s.tick)).foldl (fun st e => st.appendFcr s.here n e) s).reserveFcr s.here n)) ∧
  ((s.core s.here).held s.evPrio = h :: hs → (s.launchOf h.lid).bind faultActor = some (fc, n) →
    ((s.inst fc n).bind fun i => i.port 0) = some q →
    (s.portPark fc (mailKey fc q.base) h = none → exec .holdBufferOffer s =
      .next ((s.countSetFull h.tower).enqueue (s.tick + 64) s.here s.evPrio 0 .holdBufferOffer)) ∧
    (∀ u, s.portPark fc (mailKey fc q.base) h = some u → exec .holdBufferOffer s = .next (u.dropHeld s.here s.evPrio))) ∧
  (s.evNum = 0 → b.run = .running → b.leaving = none → (s.core s.here).wdlim ≠ 0 → (s.core s.here).wdlim.toNat * 1024 ≤ b.wdc →
    b.unsettled = false → exec .watchdogExpiry s = .next (s.takeTrap s.here s.evPrio 0x0A (s.opcodeAt s.here b.pc) 0)) ∧
  ((s.core s.here).lid?.bind s.launchOf = some l → l.st = .running → (s.core s.here).insts = [] → l.r.sweep = false →
    s.acked (distKey l.r.lid) = true →
    exec .startMessageArrive s = .next ((s.modCore s.here fun k => { k with halt := false }).poke l.r.lid)) ∧
  ((s.core s.here).lid?.bind s.launchOf = some l → s.acked (distKey l.r.lid) = false →
    exec .startMessageArrive s = .next (s.enqueue (s.tick + 1) s.here .low 0 .startMessageArrive))

/-- R29, R211, R435, R160, R163, R164, R168, R188: accesses arrive, are performed in their firing's order, and are answered; those that
wait at an agent are tried first in the next tick, so in the order in which they came; refresh and scrubbing; the expiry of a
transient block. The schedule of the scrubber's own passes is the model's (log entry 121): a read is stated here for one that comes from
outside (number 0), and the delay of a forced access at the closed-row time. -/
def Obligations.AccessAndVaultEvents : Prop := ∀ (s : State) (a : Access) (ans : Answer) (p i blk : Nat) (r : Reg) (v : Word) (last : Bool),
  (s.accessOf s.evNum = some a → a.ans = none →
    (s.inOrder a = true → s.agentReady a = true → (∀ y, a.agent ≠ .package y) → exec .accessArrive s = .next (s.arrive a)) ∧
    (∀ y, s.inOrder a = true → s.agentReady a = true → a.agent = .package y → exec .accessArrive s = .next ((s.visit a.core a.agent a.pa).sendRequest a)) ∧
    (s.inOrder a = false →
      exec .accessArrive s = .next ((s.keepHome a).enqueue (s.tick + 1) a.core a.prio a.id .accessArrive)) ∧
    (s.inOrder a = true → s.agentReady a = false →
      exec .accessArrive s = .next ((s.keepLate a).enqueueFirst (s.tick + 1) a.core a.prio a.id .accessArrive))) ∧
  (s.accessOf s.evNum = some a → a.ans = some (.done v) → accWaits a.op = false → a.grp = false →
    (s.bank a.core a.prio).key = a.fid → a.dst = some (r, none) → a.st = none →
    exec .loadReturn s = .next ((s.dropAccess a.id).modBank a.core a.prio fun b => b.write false s.tick r v)) ∧
  (s.accessOf s.evNum = some a → a.ans = some ans → accWaits a.op = true → (s.bank a.core a.prio).key = a.fid →
    exec .loadReturn s = .next ((s.dropAccess a.id).modBank a.core a.prio fun b => if b.key = a.fid then b.answer a.id ans else b)) ∧
  (s.accessOf s.evNum = some a → a.ans = some (.done v) → a.grp = false → a.dst = none → a.st = none →
    (s.bank a.core a.prio).key = a.fid →
    ∃ t, exec .storeAck s = .next t ∧ t.accesses = s.accesses.filter (fun x => x.id != a.id) ∧ t.mem = s.mem ∧
      t.bank a.core a.prio = s.bank a.core a.prio) ∧
  (s.refreshBase s.evNum = some p → p + s.spacing s.evNum ≤ s.tick → ∃ t, exec .refreshOp s = .next t ∧ t.mem = s.mem ∧
    (Sparse.wf (fun _ => Bankst.reset) s.banks = true →
      t.bankst s.evNum = { last := some s.tick, busy := some (s.tick + 40), row := none })) ∧
  (∀ e, (s.bankst s.evNum).busy = some e → e ≤ s.tick →
    exec .refreshOpEnd s = .next (s.setBankst s.evNum { (s.bankst s.evNum) with busy := none })) ∧
  (let key := linearBase + i * 2 ^ 33 + 64 * blk
   let s1 := s.openRow .vault key
   let bad := (s1.countUncorr 2).poisonBlock key
   let one := ((s1.clearFlaw key).countCorr 2).modLayer i fun x => { x with scrubNow := satAdd x.scrubNow 1 }
   let n := vaultBank (vaultAt key).1 (vaultAt key).2
   let done (st : State) (last : Bool) : State := if last then st.endPass i else st
   let busy (st : State) : State :=
     st.setBankst n { (st.bankst n) with busy := some (max (((st.bankst n).busy).getD 0) (st.tick + 22)) }
   64 * blk < 2 ^ 33 →
   (s.scrubSkips key = true → (s.evNum = 0 → s.scrubFree i blk = true → ∀ y, exec (.scrubRead i blk y last) s = .next (done s last)) ∧
     ∀ y, exec (.scrubForced (4096 * i) blk y) s = .next (busy (done s (s.evNum == 1)))) ∧
   (s.scrubSkips key = false →
     (∀ y, let z := match s.scrubFinds key y with | .clean => s1 | .corrected => one | .uncorrectable => bad
       (s.evNum = 0 → s.scrubFree i blk = true → exec (.scrubRead i blk y last) s = .next (done z last)) ∧
       exec (.scrubForced (4096 * i) blk y) s = .next (busy (done z (s.evNum == 1)))) ∧
     ((∀ x ∈ s.flaws, x.1 ≠ blockAt key) → ∀ y, s.scrubFinds key y = y) ∧
     ((blockAt key, (⟨2, false⟩ : Flaw)) ∈ s.flaws → (∀ x ∈ s.flaws, x.1 = blockAt key → x = (blockAt key, (⟨2, false⟩ : Flaw))) →
       ∀ y, s.scrubFinds key y = .corrected))) ∧
  (∀ b ∈ s.blocks, b.blk = s.evNum → b.deadline ≤ s.tick → exec .transientExpiry s = .next (s.expire s.evNum))

/-- R54, R63, R64, R67, R82, R87, R94, R96, R98, R100, R432: the life of a launch. A dependent without open predecessors is released, and
waits for cores once its descriptor and tables have been read and are good, or ends BAD; the first
that waits starts where its instances can be placed on free cores that no running sweep gets (R96), with its code and messages read; a launch found quiet completes with
its status, any other stays; a completed one is gone from the launch table and stands in the history with its status; one whose cores have come
to rest is saved, and leaves no fold operation of theirs; a pre-empted one waits for its cores, and comes back when they are all free;
CANCEL acts only from the launch's link; a cancelled launch ends with status 5 once its cores have stopped. While the stack of the
completion record takes no request, the completion waits (R22). A pre-empted launch takes its cores back from launches of lower priority
(`State.retake`): that clause is the model's reading of the manual, in log entry 102; and that everything a launch is set up with is
written in the one step of its start is the model's choice (log entry 70). -/
def Obligations.Launches : Prop := ∀ (s : State) (lid : W32) (l : Launch) (ps : List (Nat × Nat × Nat)),
  s.launchOf lid = some l →
  let ends (i : Instr) (st : BitVec 8) : Prop := ∃ t, exec i s = .next t ∧ t.launchOf lid = none ∧ (lid, st) ∈ t.history ∧
    (∀ y, y ≠ st → (lid, y) ∉ t.history) ∧ t.tick = s.tick
  (l.st = .waiting → s.masterVacant = false → s.openPreds l = [] →
    let l0 := { l with r := { l.r with preds := [] } }
    let s0 := s.modLaunch lid fun _ => l0
    exec (.launchStart lid) s = .next (s0.release l0) ∧
    (∀ l1 s2, s0.readDesc l0 = (.got l1, s2) →
      let s1 := s2.dropGroup (distKey lid)
      ((placeAll l1 (s1.openUnfenced l1)).isSome = true →
        exec (.launchStart lid) s = .next
          (((s1.modLaunch lid fun _ => { l1 with st := .released, order := s1.nextId, startT := s1.timebase }).bumpId).later 0 0
            (.launchStart lid))) ∧
      ((placeAll l1 (s1.openUnfenced l1)).isSome = false → exec (.launchStart lid) s = .next (s1.endUnrun l0 2))) ∧
    (∀ s2, s0.readDesc l0 = (.fail, s2) → exec (.launchStart lid) s = .next ((s2.dropGroup (distKey lid)).endUnrun l0 2))) ∧
  (l.st = .released → s.masterVacant = false → s.isFirst l = true → l.r.sweep = false →
    (placeAll l (s.openUnfenced l)).isSome = true → placeAll l ((s.openFor l).filter s.coreFree) = some ps →
    let cs := ((s.openFor l).filter s.coreFree).filter fun c => ps.any fun x => x.2.1 == c
    let l1 := { l with st := .running, placed := ps, cores := cs }
    exec (.launchStart lid) s = .next (s.startOn l ps cs) ∧
    (∀ x s1, s.readLoads l = (some x, s1) →
      exec (.launchStart lid) s = .next (((((s1.modLaunch lid fun _ => l1).giveCores l1 cs ps x).poke lid).pokeStarts).pokeSweeps))) ∧
  (l.st = .finished → s.reportShut l.r = false → exec (.launchComplete lid) s = .next (s.complete l l.status) ∧
    ends (.launchComplete lid) l.status) ∧
  (l.st = .running → s.isComplete l = true → s.reportShut l.r = false →
    exec (.launchComplete lid) s = .next (s.complete l (if l.lossy then 1 else 0)) ∧
    ends (.launchComplete lid) (if l.lossy then 1 else 0)) ∧
  (l.st = .running → s.isComplete l = false → s.reportShut l.r = false → exec (.launchComplete lid) s = .next s) ∧
  (s.reportShut l.r = true → exec (.launchComplete lid) s = .next (s.poke lid)) ∧
  (l.st = .halting →
    let s0 := (s.heldBy l).foldl (fun st c => (st.trapAsync c .low).trapAsync c .high) s
    ((s.heldBy l).all s0.coreRests = false → exec (.preemptSave lid) s = .next (s0.later 1 0 (.preemptSave lid))) ∧
    ((s.heldBy l).all s0.coreRests = true → s0.releaseOut lid = true →
      exec (.preemptSave lid) s = .next (s0.later 1 0 (.preemptSave lid))) ∧
    ((s.heldBy l).all s0.coreRests = true → s0.releaseOut lid = false →
      (let s2 := (s.heldBy l).foldl (fun st c => st.saveCore l c) (s0.unreserve lid)
       let s3 := { s2 with foldOps := s2.foldOps.filter fun o => !(o.cores.any fun c => (s.heldBy l).contains c) }
       exec (.preemptSave lid) s = .next (((s3.modLaunch lid fun x => { x with st := .preempted }).pokeStarts).pokeSweeps)) ∧
      ∃ t, exec (.preemptSave lid) s = .next t ∧
      (∀ o ∈ t.foldOps, ∀ c ∈ o.cores, c ∉ s.heldBy l) ∧ t.tick = s.tick)) ∧
  (l.st = .preempted → s.masterVacant = false → s.isFirst l = true →
    let cs := l.cores.filter fun c => !s.coreFenced c
    let takes (c : Nat) : Bool := s.coreFree c && !s.sweepGets c
    (cs.all takes = false → exec (.launchResume lid) s = .next (s.retake l cs)) ∧
    (cs.all takes = true →
      (∃ t, exec (.launchResume lid) s = .next t ∧ t.tick = s.tick) ∧
      (∀ slots s0, s.acked (distKey lid) = true → (∀ c ∈ l.cores, s.coreFenced c = false) → l.lost = [] →
        s.readSlots l l.cores = (some slots, s0) →
        let l1 := { l with st := .running }
        let s2 := ((s0.dropGroup (distKey lid)).modLaunch lid fun _ => l1).restoreCores l1 slots
        let s3 := { s2 with saved := s2.saved.filter fun x => x.lid != lid }
        exec (.launchResume lid) s = .next (((((((l.cores.foldl State.restartCore s3).restartFolds l.cores).restartParked lid).findLost
          lid).checkPhases lid).poke lid).pokeStarts.pokeSweeps)))) ∧
  (∀ n, l.r.link = n → exec (.cancel n lid) s = .next (s.cancelLaunch l) ∧
    (l.st = .waiting ∨ l.st = .finished ∨ l.st = .released ∨ l.st = .preempted → s.reportShut l.r = false → ends (.cancel n lid) 5) ∧
    (l.st = .running ∨ l.st = .halting → ∃ t, exec (.cancel n lid) s = .next t ∧ (t.launchOf lid).map (·.st) = some .cancelling)) ∧
  (∀ n, l.r.link ≠ n → exec (.cancel n lid) s = .next s) ∧
  (l.st = .cancelling →
    ((s.heldBy l).all s.coreStopped = true → s.reportShut l.r = false →
      exec (.cancelCoresFreed lid) s = .next (s.complete l 5) ∧ ends (.cancelCoresFreed lid) 5) ∧
    ((s.heldBy l).all s.coreStopped = false →
      exec (.cancelCoresFreed lid) s = .next (s.later 1 0 (.cancelCoresFreed lid))))

/-- R82, R91 to R93, R324, R382: grains. A core of a running sweep without a grain takes the first that its layer holds, and its layer asks
where it holds none, or, where the layer is not hot, fewer than 8 (R382); claims of a layer and of a tower master; a tower master that holds grains claims none; 64 reports at a
tower master are confirmed, each grain once; the end of an election lets the masters serve, unless every layer is fenced (R81). -/
def Obligations.Grains : Prop := ∀ (s : State) (l : Launch) (n g i : Nat) (r : List Nat) (rep : GReport) (lid : W32),
  let c := s.here
  let k := s.core c
  let s0 := s.checkPhases l.r.lid
  let given := ((s0.modLaunch l.r.lid fun x => { (x.setBlock (.layer (coreLayer c)) r) with issued := x.issued ++ [(g, c)] }).modCore c
    fun k => { k with grain := some g }).pushInst c n
  (k.lid?.bind s.launchOf = some l → k.sweptInst l = some n → l.st = .running → k.halt = false → k.grain = none →
    s.masterVacant = false → ((s.inst c n).any fun x => x.queued || x.inflight || x.disabled) = false →
    (l.block (.layer (coreLayer c)) = [] → exec .grainClaim s = .next (s0.askBlock l.r.lid (coreLayer c))) ∧
    (l.block (.layer (coreLayer c)) = g :: r →
      (8 ≤ r.length ∨ s.hot (coreLayer c) = true → exec .grainClaim s = .next given) ∧
      (r.length < 8 → s.hot (coreLayer c) = false → exec .grainClaim s = .next (given.askBlock l.r.lid (coreLayer c))))) ∧
  (s.launchOf lid = some l → l.st = .running → s.masterVacant = false →
    exec (.grainBlockClaim lid (.layer i)) s = .next (s.claimLayer l i) ∧
    exec (.grainBlockClaim lid (.tower i)) s = .next (s.claimTower l i) ∧
    (l.block (.tower i) ≠ [] → s.claimTower l i = s)) ∧
  (s.launchOf lid = some l → l.report (.tower i) = some rep → 64 ≤ rep.grains.length →
    exec (.grainReportBatch lid (.tower i)) s = .next ((s.modLaunch lid fun x =>
      { x with reports := x.reports.filter (fun y => y.holder != .tower i),
               issued := x.issued.filter (fun y => !rep.grains.contains y.1),
               confirmed := x.confirmed ++ (rep.grains.filter fun g => !x.confirmed.contains g).eraseDups,
               firings := x.firings + rep.firings }).poke lid)) ∧
  (s.masterVacant = true → i < 32 → (s.layer i).fenced = false → ∃ t, exec .masterElectionDone s = .next t ∧ t.masterVacant = false ∧
    t.mem = s.mem) ∧
  ((∀ i, i < 32 → (s.layer i).fenced = true) → exec .masterElectionDone s = .next s) ∧
  (s.masterVacant = false → exec .masterElectionDone s = .next s)

/-- R53, R54, R60, R46, R63, R68, R69, R22, R26: the launch queues. A slot that is full is taken: a valid record with a new id enters the
launch table, one with a known id or that is not valid is reported; while the stack of the slot takes no request the queue is looked at
again. KIND and LOG2N of an enabled queue stand, and COUNT
clears as EN rises; a page-move request without a usable result word is dropped, a bad one is BAD_REQUEST, and a good one goes
to its token's home; a function-level reset disables the queues; a link that goes down only stops sending. A slot with a poisoned word
counts as not valid: that is the model's choice (log entry 115). -/
def Obligations.Queues : Prop := ∀ (s : State) (l q : Nat) (v : Word) (up : Bool),
  let s0 := s.slotMet l q
  let w := s0.slotRead l q
  let r := recordOf l w
  let done := s0.slotDone l q
  let good := s0.slotPoisoned l q = false ∧ s0.recordValid w r = true
  (s.mayAccept l q false = true → s.launches.length < 1024 →
    (s.slotShut l q = false →
      (good → s0.knows r.lid = false → exec (.recordAccept l q) s = .next (done.enter r)) ∧
      (good → s0.knows r.lid = true → s.reportShut r = false → exec (.recordAccept l q) s = .next (done.badRecord r true)) ∧
      (¬ good → s.reportShut r = false → exec (.recordAccept l q) s = .next (done.badRecord r false))) ∧
    (s.slotShut l q = true → exec (.recordAccept l q) s = .next (s.pokeQueue l q))) ∧
  (s.mayAccept l q false = false → exec (.recordAccept l q) s = .next s) ∧
  (s.mayAccept l q true = true → s.slotShut l q = false →
    (done.recordOk (w.getD 4 0).toNat 8 = false → exec (.pageMoveRequest l q) s = .next (done.countDropped l)) ∧
    (done.recordOk (w.getD 4 0).toNat 8 = true → s0.slotPoisoned l q = true ∨ done.moveBad w = true →
      exec (.pageMoveRequest l q) s = .next (done.moveResult ((w.getD 0 0).setWidth 32) (w.getD 4 0).toNat 3)) ∧
    (done.recordOk (w.getD 4 0).toNat 8 = true → s0.slotPoisoned l q = false → done.moveBad w = false →
      (done.pageAt ((w.getD 1 0).setWidth 32) (w.getD 2 0).toNat).isSome = true →
      exec (.pageMoveRequest l q) s = .next (done.delayed.later (done.delay 120) 0 (.tokenRequest (s0.moveOf l w)))) ∧
    (done.recordOk (w.getD 4 0).toNat 8 = true → s0.slotPoisoned l q = false → done.moveBad w = false →
      (done.pageAt ((w.getD 1 0).setWidth 32) (w.getD 2 0).toNat) = none →
      exec (.pageMoveRequest l q) s = .next (done.moveResult ((w.getD 0 0).setWidth 32) (w.getD 4 0).toNat 2))) ∧
  (l < 2 → q < 8 → s.boot.status.ready = true →
    exec (.qctlWrite l q v) s = .next ((s.modLink l fun x => x.modQueue q fun y => y.ctl v).pokeQueue l q)) ∧
  (∀ y : Queue, y.en = true → (y.ctl v).kind = y.kind ∧ (y.ctl v).log2n = y.log2n) ∧
  (∀ y : Queue, y.en = false → bitOf v 0 = true → (y.ctl v).count = 0) ∧
  (s.evNum < 2 → (∀ x ∈ s.launches, x.r.link ≠ s.evNum) → ∃ t, exec .functionLevelReset s = .next t ∧
    (∀ i, i < 8 → ((t.link s.evNum).queue i).en = false) ∧ t.mem = s.mem) ∧
  exec (.pcieLinkDown l up) s = .next (s.modLink l fun x => { x with up := up })

/-- R48 to R52, R45, R168: the host's accesses, with the rails up. Where the package is not open, a read is unsupported and a write is
counted; in its turn, once the earlier posted writes of its link are performed, a read answers with the bytes of its words, STATE with
the bit, the other sub-windows with zeros; an AtomicOp is unsupported; a posted write is performed in its turn, into an instruction store
a word in each tick, and one whose place is not ready stands first there in the next tick; a fill or an
empty through BAR 2 is performed as STF and EMP perform it, a write to another sub-window not at all, and it is not counted by the model's
choice (log entry 27); a register is read and written in its window. -/
def Obligations.HostAccesses : Prop := ∀ (s : State) (l off n len : Nat) (rq : HostReq) (d d' : List Byte) (v : Word),
  let ap := (s.link l).aperAt off
  let fe := (s.link l).feAt off
  let zeros : List Byte := (List.range 8).map fun _ => 0
  s.boot.rails = true →
  (s.hostOpen = false →
    (s.evNum ≠ 0 → (s.link l).waits s.evNum none = false →
      exec (.hostApertureRead l off (.memory len)) s = .next (s.hostSend l .unsupported) ∧
      exec (.hostFillRead l off) s = .next (s.hostSend l .unsupported) ∧
      exec (.hostStateRead l off) s = .next (s.hostSend l .unsupported)) ∧
    (s.evNum = 0 → exec (.hostApertureWrite l off d) s = .next (s.tlp.countDropped l) ∧
      exec (.hostFillWrite l off d) s = .next (s.tlp.countDropped l) ∧ exec (.hostEmptyWrite l off d) s = .next (s.tlp.countDropped l))) ∧
  (s.evNum ≠ 0 → (s.link l).waits s.evNum none = true →
    exec (.hostApertureRead l off rq) s = .next (s.later 1 s.evNum (.hostApertureRead l off rq)) ∧
    exec (.hostFillRead l off) s = .next (s.later 1 s.evNum (.hostFillRead l off)) ∧
    exec (.hostStateRead l off) s = .next (s.later 1 s.evNum (.hostStateRead l off))) ∧
  (s.evNum = 0 → s.hostOpen = true →
    (aperDrops ap d.length = true → exec (.hostApertureWrite l off d) s = .next (s.tlp.countDropped l)) ∧
    (aperDrops ap d.length = false →
      exec (.hostApertureWrite l off d) s = .next (s.tlp.post l (s.delay 0) ap d (.hostApertureWrite l off d))) ∧
    (feDrops fe d = true → exec (.hostFillWrite l off d) s = .next (s.tlp.countDropped l)) ∧
    (feDrops fe d = false → (subWin off = .fill ∨ subWin off = .empty →
        exec (.hostFillWrite l off d) s = .next (s.tlp.post l (s.delay 0) fe d (.hostFillWrite l off d))) ∧
      (subWin off = .bits ∨ subWin off = .reserved → exec (.hostFillWrite l off d) s = .next s.tlp))) ∧
  (s.evNum ≠ 0 → ((s.link l).posted.find? fun e => e.1 == s.evNum) = some (s.evNum, n, d') →
    ((s.link l).waits s.evNum (some (n, d'.length)) = false →
      (s.hostReady true (wordsOf n d'.length) = true →
        exec (.hostApertureWrite l off d) s = .next (s.hostPerform l s.evNum n d' (.hostApertureWrite l off d))) ∧
      (s.hostReady true (wordsOf n d'.length) = false →
        exec (.hostApertureWrite l off d) s = .next (s.hostStand s.evNum (.hostApertureWrite l off d)))) ∧
    ((s.link l).waits s.evNum none = false → s.hostReady true [n] = true →
      exec (.hostFillWrite l off d) s = .next ((s.unpost l s.evNum).feDo (subWin off) n d') ∧
      exec (.hostEmptyWrite l off d) s = .next ((s.unpost l s.evNum).feDo (subWin (2 ^ 32 + off)) n d'))) ∧
  (∀ ev, ((∀ c o, placeOf n ≠ .istore c o) → s.hostPerform l s.evNum n d' ev = (s.unpost l s.evNum).hostWrite n d') ∧
    (∀ c o, placeOf n = .istore c o →
      (d'.length ≤ 8 → s.hostPerform l s.evNum n d' ev = (s.unpost l s.evNum).hostWrite n d') ∧
      (8 < d'.length → s.hostPerform l s.evNum n d' ev =
        ((s.repost l s.evNum (n + 8) (d'.drop 8)).hostWrite n (d'.take 8)).hostStand s.evNum ev))) ∧
  (s.spent n = true → ∀ x, s.feDo x n d' = s) ∧
  (s.spent n = false →
    s.feDo .fill n d' = ((s.call n).meetBlock (keyOf n)).fillWord (keyOf n) (BitVec.ofNat 64 (bytesNat d')) ∧
    s.feDo .empty n d' = ((s.call n).meet (keyOf n)).empty (keyOf n)) ∧
  (off < 2 ^ 32 → subWin off = .fill ∧ subWin (2 ^ 32 + off) = .empty ∧ subWin (2 * 2 ^ 32 + off) = .bits) ∧
  (s.evNum ≠ 0 → (s.link l).waits s.evNum none = false →
    exec (.hostApertureRead l off .atomic) s = .next (s.hostSend l .unsupported) ∧
    ((s.link l).up = true → exec (.hostApertureRead l off (.control len)) s =
      .next (s.hostSend l (.data (s.bar0Bytes l off len) false)))) ∧
  (s.hostOpen = true → s.evNum ≠ 0 → (s.link l).waits s.evNum none = false →
    ((wordsOf ap len).all isPlace = false → exec (.hostApertureRead l off (.memory len)) s = .next (s.hostSend l .unsupported)) ∧
    ((wordsOf ap len).all isPlace = true → s.hostReady false (wordsOf ap len) = true →
      exec (.hostApertureRead l off (.memory len)) s = .next ((s.hostRead ap len).2.hostSend l (readDone (s.hostRead ap len).1))) ∧
    (inMemory fe = true → s.hostReady false [fe] = true → off < 2 ^ 32 →
      exec (.hostFillRead l off) s =
        .next ((s.hostRead (wordOf fe) 8).2.hostSend l (readDone (s.hostRead (wordOf fe) 8).1)) ∧
      (let met := (s.call (wordOf fe)).meet (keyOf (wordOf fe))
       s.spent (wordOf fe) = false → met.poisoned (keyOf (wordOf fe)) = false →
        exec (.hostStateRead l off) s = .next (met.hostSend l
        (.data ((List.range 8).map fun i => if i = 0 ∧ s.full (keyOf (wordOf fe)) = true then 1 else 0) false)))) ∧
    (inMemory fe = true → subWin off = .empty ∨ subWin off = .reserved →
      exec (.hostFillRead l off) s = .next (s.hostSend l (.data zeros false)))) ∧
  (off % 8 = 0 → exec (.registerWrite .pkg off v) s = .next (s.tlp.ctlWrite off v) ∧
    exec (.registerWrite (.link l) off v) s = .next (s.tlp.linkWrite l off v) ∧
    exec (.registerWrite (.msix l) off v) s = .next (s.tlp.onLink l fun x => x.msixWrite off v))

/-- R20 to R25, R31 to R33, R373, R375: sensors, allowance windows, lanes. A sample sets TEMP, VALID and ZONE, and above 115 °C the
package goes down with code 7, whatever else it was about to do; in the package's own sampling the next follows; a window, the first at
timebase 0 too, takes the measured power and clears every layer's usage; a layer is over at its budget;
a lane that fails takes a spare or fences the layer of its path; a margin test of an idle path marks the lanes that fail; a path that has
drained, or 200 ticks after its quiesce, gets its spares, and is released 64 ticks later. The model's choices among these: that lanes
which fail together are swapped together (log entry 91), that a margin test is made again in the next tick (log entry 121), a thermal
shutdown while the rails are about to fall for another reason (log entry 90), and the schedule of the package's own sampling (log
entry 119). -/
def Obligations.SensorsWindowsAndLanes : Prop := ∀ (s : State) (j p lane : Nat) (temp meas : BitVec 16) (bad : List Nat),
  let x := s.path s.evNum
  (s.boot.rails = true → j < 84 → temp.toInt ≤ 1840 → ∃ t, exec (.sensorSample j temp) s = .next t ∧ t.mem = s.mem ∧
    (t.sensor j).temp = temp ∧ (t.sensor j).valid = true ∧
    (t.sensor j).zone = BitVec.ofNat 2 (zoneAfter temp.toInt (s.sensor j).zone.toNat)) ∧
  (s.boot.rails = true → j < 84 → 1840 < temp.toInt → ¬ (s.boot.down = true ∧ s.boot.why = .thermal) →
    ∃ t, exec (.sensorSample j temp) s = .next t ∧
    t.boot.down = true ∧ t.boot.why = .thermal ∧ t.boot.status.code = 7 ∧ t.boot.status.detail = BitVec.ofNat 16 j ∧ t.launches = [] ∧
    t.mem = s.mem) ∧
  (s.boot.rails = true → j < 84 → (s.evNum = 1 → exec (.sensorSample j temp) s = .next ((s.sample j temp).nextSample j)) ∧
    (s.evNum ≠ 1 → exec (.sensorSample j temp) s = .next (s.sample j temp))) ∧
  (s.evNum = s.epoch → s.timebase % 44800 = 0 → s.boot.rails = true →
    ∃ t, exec (.allowanceWindowBoundary meas) s = .next t ∧ t.pwrMeas = meas ∧ t.mem = s.mem ∧
      ∀ i, i < 32 → (t.layer i).used = 0 ∧ (t.layer i).overran = false) ∧
  (let y := s.layer s.evNum
   s.evNum < 32 → y.allow ≠ 0 → y.allow ≠ 0xFF → y.budget ≤ y.usage s.tick →
   exec .allowanceOverrun s = .next (s.modLayer s.evNum fun x => { x with overran := true })) ∧
  (let z := s.path p
   pathExists p = true → lane < 152 → z.failing.contains lane = false → z.exhausted = false →
   (z.spares ≤ z.failing.length → exec (.laneFailing p lane) s =
     .next ((s.setPath p { z with exhausted := true }).fenceLayer (pathLayer p))) ∧
   (z.failing.length < z.spares → exec (.laneFailing p lane) s =
     .next ((s.setPath p { z with failing := z.failing ++ [lane] }).repairPath p))) ∧
  (s.evNum = 0 → pathExists p = true → s.boot.rails = true → s.pathIdle p = true →
    exec (.laneMarginTest p bad) s = .next (bad.foldl (fun st b => st.laneFails p b) s)) ∧
  (s.evNum = 0 → pathExists p = true → s.boot.rails = true → s.pathIdle p = false →
    exec (.laneMarginTest p bad) s = .next (s.enqueue (s.tick + 1) 0 .high 0 (.laneMarginTest p bad))) ∧
  (x.quiesced = true → x.failing ≠ [] →
    (s.onPath s.evNum x.since = false ∨ x.since + 200 ≤ s.tick → exec .laneSpareSwap s =
      .next ((s.setPath s.evNum { x with spares := x.spares - x.failing.length, failing := [] }).later 64 s.evNum .laneRepairRelease)) ∧
    (s.onPath s.evNum x.since = true → s.tick < x.since + 200 →
      exec .laneSpareSwap s = .next (s.later 1 s.evNum .laneSpareSwap))) ∧
  (x.quiesced = true →
    exec .laneRepairRelease s = .next ((s.setPath s.evNum { x with quiesced := false }).repairPath s.evNum) ∧
    (x.failing = [] → Sparse.wf (fun _ => Path.reset) s.paths = true →
      exec .laneRepairRelease s = .next (s.setPath s.evNum { x with quiesced := false })))

/-- R70 to R80: start and stop. Rails that rise begin stage 0, with the status restored from the record that the package's own removal
left, or as after a power-on; rails that fall lose memory, and the package's own removal writes the
status to flash; stage 0 is followed by stage 1, stage 1 runs the first slot that is accepted, and the end of stage 5 sets READY, clears
ATTEMPTS and starts the timebase; a stage
that is late fails the start with code 6; a warm start keeps memory but transient blocks, clears the launch table and the history and
begins stage 2; in recovery an accepted image is written to its slot; an attestation spends its index. The model's choices among these: NO_TOWER where
every tower is fenced, and which reports fail a stage (log entry 90), and memory that reads as initialised as soon as the rails have
fallen (log entry 89). -/
def Obligations.StartAndStop : Prop := ∀ (s : State) (ok slot : Bool) (img : FwImage) (r : StageResult),
  (s.boot.rails = false → ∃ t, exec (.railRise ok) s = .next t ∧ t.boot.rails = true ∧ t.boot.status.stage = 0 ∧
    t.mem = [] ∧ (s.boot.idStep < 4096 →
      t.boot.status = { (if s.boot.self && ok then s.boot.flash else StartStatus.reset) with stage := 0 })) ∧
  (s.boot.rails = true → s.boot.down = true → ∃ t, exec .selfRailRemoval s = .next t ∧ t.boot.rails = false ∧
    t.boot.flash = s.boot.status ∧ t.boot.self = true ∧ t.mem = []) ∧
  (s.boot.rails = true → ∃ t, exec .boardRailRemoval s = .next t ∧ t.boot.rails = false ∧ t.mem = []) ∧
  (s.boot.rails = false → s.boot.why = .failed → exec .startRetry s = .next (s.rise s.boot.flashOk)) ∧
  (s.starting = true → s.boot.since = s.evNum → s.boot.since + stageLimit s.boot.status.stage.toNat < s.tick →
    exec .stageTimeout s = .next (s.failStart 6 s.boot.status.stage.toNat)) ∧
  (s.boot.rails = true → s.boot.down = false → s.boot.status.recovery = true → s.boot.accepts img = true →
    ∃ t, exec (.doeFirmwareImage slot img) s = .next t ∧ (if slot then t.boot.slotB else t.boot.slotA) = img ∧
      s.boot.minVersion.toNat ≤ t.boot.minVersion.toNat ∧ t.mem = s.mem) ∧
  (s.starting = true → s.boot.since + stageLimit s.boot.status.stage.toNat < s.tick →
    exec (.stageComplete r) s = .next (s.failStart 6 s.boot.status.stage.toNat)) ∧
  (s.starting = true → s.tick ≤ s.boot.since + stageLimit s.boot.status.stage.toNat →
    let s1 := s.fenceStart r.fencedLayers r.fencedTowers
    (∀ f, r.fail = some f → stageFailure f = true → exec (.stageComplete r) s = .next (s1.failStart f.1 f.2.toNat)) ∧
    (r.fail = none → s1.fencedTowers = 0xFF → exec (.stageComplete r) s = .next (s1.failStart 5 0)) ∧
    (r.fail = none → s1.fencedTowers ≠ 0xFF →
      (s.boot.status.stage = 0 → s.boot.status.attempts.toNat < 3 → s.boot.warmRun = false →
        exec (.stageComplete r) s = .next (s1.beginStage 1)) ∧
      (∀ x, s.boot.status.stage = 1 → s.boot.status.attempts.toNat < 3 → s.boot.warmRun = false →
        s.boot.slots.find? s.boot.accepts = some x → ∃ t, exec (.stageComplete r) s = .next t ∧ t.boot.status.stage = 2 ∧
          t.boot.service = x.service ∧ t.boot.minVersion = (if s.boot.minVersion.toNat < x.version.toNat then x.version else s.boot.minVersion)) ∧
      (s.boot.status.stage = 5 → ∃ t, exec (.stageComplete r) s = .next t ∧
        t.boot.status.ready = true ∧ t.boot.status.attempts = 0 ∧ t.boot.status.warm = s.boot.warmRun ∧ t.epoch = s.tick))) ∧
  (s.boot.rails = true → s.boot.down = false →
    (s.boot.status.recovery = false → exec .startCtlCold s = .next (s.goDown .cold)) ∧
    (s.boot.status.recovery = true → exec .startCtlCold s =
      .next ((s.modStatus fun x => { x with recovery := false, attempts := 0 }).goDown .cold))) ∧
  (s.boot.rails = true → s.boot.down = false → s.boot.status.ready = true → ∃ t, exec .startCtlWarm s = .next t ∧
    t.launches = [] ∧ t.history = [] ∧ t.boot.status.ready = false ∧ t.boot.status.warm = true ∧ t.boot.status.stage = 2 ∧
    (s.blocks = [] → t.mem = s.mem) ∧
    (Sparse.wf memUnlisted s.mem = true → ∀ a, (∀ b ∈ s.blocks, inBlock b.blk a = false) → t.rdByte a = s.rdByte a)) ∧
  (s.boot.rails = true → s.boot.down = false → s.boot.idNext < s.boot.idStep * 2 ^ 28 →
    ∃ t, exec .doeAttestationRequest s = .next t ∧ t.boot.idNext = s.boot.idNext + 1 ∧
      t.boot.attest = some s.boot.idNext :: s.boot.attest)

/-- R35 to R43, R201, R321: span links. A flit that passes its check in order carries out its header and its packet, one out of order
owes a NAK, and those behind it are discarded until the replay comes; one with a bad check counts against its lane; a link that works
sends what waits, and what it owes; a retrained link is at its new
width; what it replays counts its replays; one that goes down holds what has not been acknowledged, and RESEND sends it over the routes
in force; an access of another package is performed in its turn and answered, and a waiting one that fails leaves a watch at once, which
is the model's choice (log entry 85); one for an address of a third package is dropped, which is its choice too (log entry 127); a watched
word that is filled gives one notice, and that the watch stays is the model's choice (log entry 118); PKG is read-only once SET is. -/
def Obligations.SpanLinks : Prop := ∀ (s : State) (l rid pa : Nat) (f : Flit) (p : Packet) (v : Word) (src : BitVec 12) (op : AccOp)
    (tr : Bool) (w : BitVec 4),
  let s0 := s.modSpan l SpanLink.countFlit
  (l < 16 → (s.spanLink l).works = true →
    (f.crcOk = true → f.reservedZero = true → f.seq ≠ (s0.spanLink l).rxSeq + 1 → (s0.spanLink l).awaits = false →
      exec (.flitReceive l f) s = .next ((s0.modSpan l fun x => { x with nak := true, awaits := true }).later 0 l .outboundQueueSend)) ∧
    (f.crcOk = true → f.reservedZero = true → f.seq ≠ (s0.spanLink l).rxSeq + 1 → (s0.spanLink l).awaits = true →
      exec (.flitReceive l f) s = .next s0) ∧
    (f.crcOk = false ∨ f.reservedZero = false → exec (.flitReceive l f) s = .next (s0.flitFails l f.lane)) ∧
    (f.crcOk = true → f.reservedZero = true → f.seq = (s0.spanLink l).rxSeq + 1 →
      let s1 := (s0.modSpan l fun x => ({ x with rxSeq := f.seq, nak := false, awaits := false }).takeFlit f).flitHeader l f
      (f.packet = none → exec (.flitReceive l f) s = .next s1) ∧
      (f.packet = some p → f.pos = 2 ∨ f.pos = 3 → exec (.flitReceive l f) s = .next (s1.flitPacket l f.slot.toNat p)))) ∧
  ((s.spanLink s.evNum).works = true → exec .outboundQueueSend s =
    .next (s.modSpan s.evNum fun x => (({ x with outq := [] }).drain x.outq).sendOwed 256)) ∧
  (s.evNum < 16 → (∀ e ∈ (s.spanLink s.evNum).outq, isOrdered e.pk = true) →
    ∃ t, exec .linkDown s = .next t ∧ (t.spanLink s.evNum).down = true ∧ (t.spanLink s.evNum).width = 0 ∧
    (t.spanLink s.evNum).replay = [] ∧ (t.spanLink s.evNum).outq = (s.spanLink s.evNum).outq ∧ (t.spanLink s.evNum).heldPk =
      (s.spanLink s.evNum).heldPk ++ (s.spanLink s.evNum).replay.filterMap (·.src)) ∧
  (s.evNum < 16 → (s.spanLink s.evNum).retrain = some w → ∃ t, exec .linkRetrainDone s = .next t ∧
    (t.spanLink s.evNum).width = w ∧ (t.spanLink s.evNum).retrain = none) ∧
  (exec .linkResend s = .next ((s.spanLink s.evNum).outq.foldl State.sendOut ((s.spanLink s.evNum).heldPk.foldl State.sendHeld
      (s.modSpan s.evNum fun y => { y with heldPk := [], affected := [], outq := [] })))) ∧
  ((s.spanLink l).rxq.head?.map Prod.snd = some p → exec (.remoteMessagePresent l p) s = .next (s.presentHead l)) ∧
  (exec .remotePresentRetry s = .next (s.presentHead s.evNum)) ∧
  (l < 16 → (s.spanLink l).replay ≠ [] →
    ((s.resend l).spanLink l).replay = (s.spanLink l).replay.map fun e => { e with replays := e.replays + 1 }) ∧
  (pkgOf pa ≠ s.pkgId → exec (.remoteAccessArrive src rid op pa tr) s = .next s) ∧
  (pkgOf pa = s.pkgId →
    let ready := s.placeReady s.distCore (memAgent pa) pa s.tick = true ∧ (accStores op && s.portTaken pa) = false
    let d := (s.call pa).atPlace 0 op 0 pa (keyOf (offOf pa)) tr
    let watched : State := { d.2 with watches := d.2.watches ++ [(src, keyOf (offOf pa))] }
    (¬ ready → exec (.remoteAccessArrive src rid op pa tr) s =
      .next (s.enqueueFirst (s.tick + 1) 0 .low 0 (.remoteAccessArrive src rid op pa tr))) ∧
    (ready → placeOf (offOf pa) ≠ .unassigned → d.1 ≠ .notReady →
      exec (.remoteAccessArrive src rid op pa tr) s = .next (if rid = 0 then d.2 else d.2.toSpan src (.response rid d.1))) ∧
    (ready → placeOf (offOf pa) ≠ .unassigned → d.1 = .notReady → watchOps op = true →
      d.2.watches.contains (src, keyOf (offOf pa)) = false → rid ≠ 0 →
      exec (.remoteAccessArrive src rid op pa tr) s = .next (watched.toSpan src (.response rid .notReady)))) ∧
  ((∀ x ∈ s.watches, x.2 ≠ s.evNum / 3) → exec .remoteWakeNotice s = .next s) ∧
  (∀ x, s.watches = [(x, s.evNum / 3)] → s.evNum % 3 = 1 → exec .remoteWakeNotice s =
    .next (s.toSpan x (.wake (s.pkgId.toNat * 2 ^ 44 + s.evNum / 3) (some true)))) ∧
  (s.pkgSet = true → exec (.spanIdSet v) s = .next s) ∧
  (s.pkgSet = false → exec (.spanIdSet v) s = .next { s with pkgId := v.setWidth 12, pkgSet := v.getLsbD 12 })
end

