-- ==== Sys2Proof/Laws/Sparse.lean ====
section
/-!
SUPPORT. Laws of sparse data and of memory: reading what was written, leaving every other place alone, and the canonical
form that every memory operation keeps.
-/
namespace Sys2Proof.Sparse

variable {α : Type}

@[simp] theorem get_insert_same (d : Nat → α) (m : List (Nat × α)) (k : Nat) (v : α) : get d (insert m k v) k = v := by
  induction m with
  | nil => simp [insert, get]
  | cons e m ih =>
    obtain ⟨j, w⟩ := e
    simp only [insert]
    split
    · simp [get]
    · split
      · simp [get]
      · simp only [get]; rw [if_neg ‹_›, if_neg ‹_›, ih]

theorem get_insert_ne (d : Nat → α) (m : List (Nat × α)) (k l : Nat) (v : α) (h : l ≠ k) :
    get d (insert m k v) l = get d m l := by
  induction m with
  | nil =>
    simp only [insert, get]; rw [if_neg (fun x => h x.symm)]; split <;> rfl
  | cons e m ih =>
    obtain ⟨j, w⟩ := e
    simp only [insert]
    split
    · subst_vars; simp only [get, if_neg (Ne.symm h)]
    · split
      · simp only [get]
        by_cases h1 : l < k
        · have : ¬ j = l := by omega
          have : l < j := by omega
          simp [*]; omega
        · simp [*]; omega
      · simp only [get]; split
        · rfl
        · split
          · rfl
          · exact ih

theorem get_of_below (d : Nat → α) (m : List (Nat × α)) (lo k : Nat) (h : risingFrom (some lo) m = true) (hk : k ≤ lo) :
    get d m k = d k := by
  cases m with
  | nil => rfl
  | cons e m =>
    obtain ⟨j, w⟩ := e
    simp only [risingFrom, Bool.and_eq_true, decide_eq_true_eq] at h
    simp only [get]
    rw [if_neg (by omega), if_pos (by omega)]

theorem rising_weaken (m : List (Nat × α)) (lo : Option Nat) (l : Nat) (h : risingFrom (some l) m = true)
    (hl : ∀ x, lo = some x → x ≤ l) : risingFrom lo m = true := by
  cases m with
  | nil => rfl
  | cons e m =>
    obtain ⟨j, w⟩ := e
    simp only [risingFrom, Bool.and_eq_true, decide_eq_true_eq] at h ⊢
    refine ⟨?_, h.2⟩
    cases lo with
    | none => rfl
    | some x => have := hl x rfl; simp; omega

theorem rising_insert (m : List (Nat × α)) (lo : Option Nat) (k : Nat) (v : α) (h : risingFrom lo m = true)
    (hk : ∀ x, lo = some x → x < k) : risingFrom lo (insert m k v) = true := by
  induction m generalizing lo with
  | nil => cases lo <;> simp [insert, risingFrom]; exact hk _ rfl
  | cons e m ih =>
    obtain ⟨j, w⟩ := e
    simp only [risingFrom, Bool.and_eq_true] at h
    simp only [insert]
    split
    · subst_vars; simp only [risingFrom, Bool.and_eq_true]; exact h
    · split
      · simp only [risingFrom, Bool.and_eq_true, decide_eq_true_eq]
        refine ⟨?_, by omega, h.2⟩
        cases lo with
        | none => rfl
        | some x => simpa using hk x rfl
      · simp only [risingFrom, Bool.and_eq_true]
        exact ⟨h.1, ih _ h.2 (by intro x hx; cases hx; omega)⟩

theorem rising_remove (m : List (Nat × α)) (lo : Option Nat) (k : Nat) (h : risingFrom lo m = true) :
    risingFrom lo (remove m k) = true := by
  induction m generalizing lo with
  | nil => rfl
  | cons e m ih =>
    obtain ⟨j, w⟩ := e
    simp only [risingFrom, Bool.and_eq_true] at h
    simp only [remove]
    split
    · refine rising_weaken m lo j h.2 ?_
      intro x hx; subst hx; have := h.1; simp at this; omega
    · split
      · simp only [risingFrom, Bool.and_eq_true]; exact h
      · simp only [risingFrom, Bool.and_eq_true]; exact ⟨h.1, ih _ h.2⟩

theorem rising_filter (m : List (Nat × α)) (lo : Option Nat) (p : Nat × α → Bool) (h : risingFrom lo m = true) :
    risingFrom lo (m.filter p) = true := by
  induction m generalizing lo with
  | nil => rfl
  | cons e m ih =>
    obtain ⟨j, w⟩ := e
    simp only [risingFrom, Bool.and_eq_true] at h
    simp only [List.filter]
    split
    · simp only [risingFrom, Bool.and_eq_true]; exact ⟨h.1, ih _ h.2⟩
    · refine ih _ (rising_weaken m lo j h.2 ?_)
      intro x hx; subst hx; have := h.1; simp at this; omega

theorem get_remove_same (d : Nat → α) (m : List (Nat × α)) (lo : Option Nat) (k : Nat) (h : risingFrom lo m = true) :
    get d (remove m k) k = d k := by
  induction m generalizing lo with
  | nil => rfl
  | cons e m ih =>
    obtain ⟨j, w⟩ := e
    simp only [risingFrom, Bool.and_eq_true] at h
    simp only [remove]
    split
    · subst_vars; exact get_of_below d m j j h.2 (Nat.le_refl _)
    · split
      · simp only [get]; rw [if_neg ‹_›, if_pos ‹_›]
      · simp only [get]; rw [if_neg ‹_›, if_neg ‹_›]; exact ih _ h.2

theorem get_remove_ne (d : Nat → α) (m : List (Nat × α)) (lo : Option Nat) (k l : Nat) (h : risingFrom lo m = true)
    (hl : l ≠ k) : get d (remove m k) l = get d m l := by
  induction m generalizing lo with
  | nil => rfl
  | cons e m ih =>
    obtain ⟨j, w⟩ := e
    simp only [risingFrom, Bool.and_eq_true] at h
    simp only [remove]
    split
    · subst_vars; simp only [get]; rw [if_neg (fun x => hl x.symm)]; split
      · exact get_of_below d m _ l h.2 (by omega)
      · rfl
    · split
      · rfl
      · simp only [get]; split
        · rfl
        · split
          · rfl
          · exact ih _ h.2

variable [DecidableEq α]

omit [DecidableEq α] in
theorem mem_insert (m : List (Nat × α)) (k : Nat) (v : α) (e : Nat × α) (h : e ∈ insert m k v) : e = (k, v) ∨ e ∈ m := by
  induction m with
  | nil => simpa [insert] using h
  | cons f m ih =>
    obtain ⟨j, w⟩ := f
    simp only [insert] at h
    split at h
    · rcases List.mem_cons.1 h with h | h
      · exact .inl h
      · exact .inr (List.mem_cons_of_mem _ h)
    · split at h
      · exact List.mem_cons.1 h
      · rcases List.mem_cons.1 h with h | h
        · exact .inr (h ▸ List.mem_cons_self)
        · exact (ih h).imp id (List.mem_cons_of_mem _)

omit [DecidableEq α] in
theorem mem_remove (m : List (Nat × α)) (k : Nat) (e : Nat × α) (h : e ∈ remove m k) : e ∈ m := by
  induction m with
  | nil => exact h
  | cons f m ih =>
    obtain ⟨j, w⟩ := f
    simp only [remove] at h
    split at h
    · exact List.mem_cons_of_mem _ h
    · split at h
      · exact h
      · simp only [List.mem_cons] at h ⊢
        rcases h with h | h
        · exact Or.inl h
        · exact Or.inr (ih h)

/-- Writing keeps the canonical form. -/
theorem wf_set (d : Nat → α) (m : List (Nat × α)) (k : Nat) (v : α) (h : wf d m = true) : wf d (set d m k v) = true := by
  simp only [wf, Bool.and_eq_true, List.all_eq_true, decide_eq_true_eq] at h ⊢
  simp only [set]
  split
  · exact ⟨rising_remove _ _ _ h.1, fun e he => h.2 e (mem_remove _ _ _ he)⟩
  · refine ⟨rising_insert _ _ _ _ h.1 (by simp), fun e he => ?_⟩
    rcases mem_insert _ _ _ _ he with rfl | he
    · assumption
    · exact h.2 e he

/-- Leaving entries out keeps the canonical form. -/
theorem wf_filter (d : Nat → α) (m : List (Nat × α)) (p : Nat × α → Bool) (h : wf d m = true) :
    wf d (m.filter p) = true := by
  simp only [wf, Bool.and_eq_true, List.all_eq_true, decide_eq_true_eq] at h ⊢
  exact ⟨rising_filter _ _ _ h.1, fun e he => h.2 e ((List.mem_filter.1 he).1)⟩

/-- A read after a write to the same place. -/
theorem get_set_same (d : Nat → α) (m : List (Nat × α)) (k : Nat) (v : α) (h : wf d m = true) : get d (set d m k v) k = v := by
  simp only [wf, Bool.and_eq_true] at h
  simp only [set]
  split
  · subst_vars; exact get_remove_same d m _ k h.1
  · exact get_insert_same d m k v

/-- A write leaves every other place alone. -/
theorem get_set_ne (d : Nat → α) (m : List (Nat × α)) (k l : Nat) (v : α) (h : wf d m = true) (hl : l ≠ k) :
    get d (set d m k v) l = get d m l := by
  simp only [wf, Bool.and_eq_true] at h
  simp only [set]
  split
  · exact get_remove_ne d m _ k l h.1 hl
  · exact get_insert_ne d m k l v hl

end Sys2Proof.Sparse

namespace Sys2Proof.Machine

/-! ### Memory -/

/-- Every write of bytes keeps the canonical form. -/
theorem memWrite_wf (n : Nat) (m : List Host.Cell) (a v : Nat) (h : Memory.wf m = true) : Memory.wf (memWrite m a n v) = true := by
  induction n generalizing m a v with
  | zero => exact h
  | succ n ih => exact ih _ _ _ (Sparse.wf_set _ _ _ _ h)

/-- A write of bytes leaves every byte outside it alone. -/
theorem memWrite_other (n : Nat) (m : List Host.Cell) (a v b : Nat) (h : Memory.wf m = true) (hb : b < a ∨ a + n ≤ b) :
    Sparse.get memUnlisted (memWrite m a n v) b = Sparse.get memUnlisted m b := by
  induction n generalizing m a v with
  | zero => rfl
  | succ n ih =>
    simp only [memWrite]
    rw [ih _ _ _ (Sparse.wf_set _ _ _ _ h) (by omega), Sparse.get_set_ne _ _ _ _ _ h (by omega)]

/-- A byte of a write reads as the byte of the number written. -/
theorem memWrite_byte (n : Nat) (m : List Host.Cell) (a v i : Nat) (h : Memory.wf m = true) (hi : i < n) :
    Sparse.get memUnlisted (memWrite m a n v) (a + i) = BitVec.ofNat 8 (v / 256 ^ i) := by
  induction n generalizing m a v i with
  | zero => omega
  | succ n ih =>
    simp only [memWrite]
    cases i with
    | zero =>
      rw [memWrite_other _ _ _ _ _ (Sparse.wf_set _ _ _ _ h) (by omega), Nat.add_zero, Sparse.get_set_same _ _ _ _ h]
      simp
    | succ i =>
      have := ih _ (a + 1) (v / 256) i (Sparse.wf_set memUnlisted m a (BitVec.ofNat 8 v) h) (by omega)
      rw [show a + (i + 1) = a + 1 + i by omega, this, Nat.div_div_eq_div_mul, Nat.pow_succ, Nat.mul_comm 256]

/-- Bytes read back as they were written. -/
theorem memRead_memWrite (n : Nat) (m : List Host.Cell) (a v : Nat) (h : Memory.wf m = true) :
    memRead (memWrite m a n v) a n = v % 256 ^ n := by
  have key : ∀ (k : Nat) (m' : List Host.Cell) (b w : Nat),
      (∀ i, i < k → Sparse.get memUnlisted m' (b + i) = BitVec.ofNat 8 (w / 256 ^ i)) → memRead m' b k = w % 256 ^ k := by
    intro k
    induction k with
    | zero => intro m' b w _; simp [memRead, Nat.mod_one]
    | succ k ih =>
      intro m' b w hw
      simp only [memRead]
      have h0 := hw 0 (by omega)
      simp only [Nat.add_zero, Nat.pow_zero, Nat.div_one] at h0
      rw [h0, ih m' (b + 1) (w / 256) (fun i hi => by
        have := hw (i + 1) (by omega)
        rw [show b + 1 + i = b + (i + 1) by omega, this, Nat.div_div_eq_div_mul, Nat.pow_succ, Nat.mul_comm 256])]
      rw [BitVec.toNat_ofNat, show (2 : Nat) ^ 8 = 256 from rfl, Nat.pow_succ, Nat.mul_comm (256 ^ k), Nat.mod_mul]
  exact key n _ a v fun i hi => memWrite_byte n m a v i h hi

/-- A read that a write does not touch. -/
theorem memRead_memWrite_other (k n : Nat) (m : List Host.Cell) (a b v : Nat) (h : Memory.wf m = true)
    (hb : b + k ≤ a ∨ a + n ≤ b) : memRead (memWrite m a n v) b k = memRead m b k := by
  induction k generalizing b with
  | zero => rfl
  | succ k ih =>
    simp only [memRead]
    rw [ih (b + 1) (by omega), memWrite_other _ _ _ _ _ h (by omega)]

@[simp] theorem State.wrN_mem (s : State) (a n v : Nat) : (s.wrN a n v).mem = memWrite s.mem a n v := rfl
@[simp] theorem State.wrWord_mem (s : State) (a : Nat) (v : Word) : (s.wrWord a v).mem = memWrite s.mem a 8 v.toNat := rfl

/-- A word reads back as it was written. -/
theorem State.rdWord_wrWord (s : State) (a : Nat) (v : Word) (h : Memory.wf s.mem = true) : (s.wrWord a v).rdWord a = v := by
  simp only [State.rdWord, State.wrWord_mem, memRead_memWrite _ _ _ _ h]
  apply BitVec.eq_of_toNat_eq
  rw [BitVec.toNat_ofNat, show (256 : Nat) ^ 8 = 2 ^ 64 from rfl, Nat.mod_mod]
  exact Nat.mod_eq_of_lt v.isLt

end Sys2Proof.Machine
end

