-- ==== Sys2Proof/Laws/Invariant.lean ====
section
/-!
SUPPORT. One predicate that every shared operation keeps: the invariant of memory holds, the tick is `kt`, and the least
firmware version is at least `mv`. Each operation has one lemma that says so; no later proof unfolds an operation for it.
-/
namespace Sys2Proof.Machine

/-- The invariant of memory, at tick `kt`, with at least version `mv` (R78). -/
structure State.Good (kt mv : Nat) (s : State) : Prop where
  mem : s.MemInv
  tick : s.tick = kt
  version : mv ≤ s.boot.minVersion.toNat

/-- What a meaning answers keeps it, where it answers a next state. -/
def OutGood (kt mv : Nat) (o : Out) : Prop := ∀ t, o = .next t → t.Good kt mv

theorem outGood_next {kt mv : Nat} {s : State} (h : s.Good kt mv) : OutGood kt mv (.next s) := by
  intro t ht; cases ht; exact h
theorem outGood_fault {kt mv : Nat} {r : Fault} : OutGood kt mv (.fault r) := by intro t ht; cases ht
theorem outGood_refused {kt mv : Nat} {r : Refusal} : OutGood kt mv (.refused r) := by intro t ht; cases ht

theorem good_foldl {α : Type} {kt mv : Nat} {s : State} {f : State → α → State} {l : List α}
    (hf : ∀ (st : State) (x : α), st.Good kt mv → (f st x).Good kt mv) (h : s.Good kt mv) : (l.foldl f s).Good kt mv := by
  induction l generalizing s with
  | nil => exact h
  | cons x l ih => exact ih (hf s x h)

theorem State.good_upd_iff {kt mv : Nat} {s : State} {epoch_ : Nat} {turn_ : List Nat} {here_ : Nat} {evPrio_ : Prio} {evNum_ : Nat} {queue_ : List Timed} {free_ : Nat} {delays_ : List Nat} {nextId_ : Nat} {flaws_ : List (Nat × Flaw)} {dead_ : List Nat} {noise_ : List Nat} {cores_ : List (Nat × Core)} {accesses_ : List Access} {msgs_ : List Msg} {park_ : List ParkEntry} {transit_ : List Transit} {setfull_ : Vector (BitVec 32) 8} {quadTlb_ : List (Nat × TlbEntry)} {joins_ : List Join} {foldOps_ : List FoldOp} {foldSeq_ : List (Nat × BitVec 32)} {launches_ : List Launch} {history_ : List (BitVec 32 × BitVec 8)} {saved_ : List Saved} {masterVacant_ : Bool} {links_ : Vector PcieLink 2} {span_ : Vector SpanLink 16} {routes_ : List (Nat × Route)} {pkgId_ : BitVec 12} {pkgSet_ : Bool} {pwrLimit_ : BitVec 12} {pwrMeas_ : BitVec 16} {limiting_ : Bool} {corr_ : Vector (BitVec 32) 12} {uncorr_ : Vector (BitVec 32) 12} {sensors_ : Vector Sensor 84} {layers_ : Vector Layer 32} {fencedTowers_ : BitVec 8} {devBase_ : Word} {devCount_ : BitVec 32} {devPend_ : List (List Word)} {devLost_ : BitVec 32} {blocks_ : List Block} {tokens_ : List Token} {replicas_ : List (BitVec 32 × Nat × Nat × Nat)} {frames_ : List (Nat × Nat)} {planes_ : List Plane} {shoots_ : List Shoot} {paths_ : List (Nat × Path)} {banks_ : List (Nat × Bankst)} {refreshFrom_ : Option Nat} {podTokens_ : List (BitVec 12 × BitVec 32)} {watches_ : List (BitVec 12 × Nat)} {seen_ : List (Nat × List (Nat × Word))} :
    State.Good kt mv { s with epoch := epoch_, turn := turn_, here := here_, evPrio := evPrio_, evNum := evNum_, queue := queue_, free := free_, delays := delays_, nextId := nextId_, flaws := flaws_, dead := dead_, noise := noise_, cores := cores_, accesses := accesses_, msgs := msgs_, park := park_, transit := transit_, setfull := setfull_, quadTlb := quadTlb_, joins := joins_, foldOps := foldOps_, foldSeq := foldSeq_, launches := launches_, history := history_, saved := saved_, masterVacant := masterVacant_, links := links_, span := span_, routes := routes_, pkgId := pkgId_, pkgSet := pkgSet_, pwrLimit := pwrLimit_, pwrMeas := pwrMeas_, limiting := limiting_, corr := corr_, uncorr := uncorr_, sensors := sensors_, layers := layers_, fencedTowers := fencedTowers_, devBase := devBase_, devCount := devCount_, devPend := devPend_, devLost := devLost_, blocks := blocks_, tokens := tokens_, replicas := replicas_, frames := frames_, planes := planes_, shoots := shoots_, paths := paths_, banks := banks_, refreshFrom := refreshFrom_, podTokens := podTokens_, watches := watches_, seen := seen_ } ↔
    s.Good kt mv :=
  ⟨fun h => ⟨⟨h.mem.bytes, h.mem.empties, h.mem.poison, h.mem.wpoison⟩, h.tick, h.version⟩,
   fun h => ⟨⟨h.mem.bytes, h.mem.empties, h.mem.poison, h.mem.wpoison⟩, h.tick, h.version⟩⟩

theorem State.good_bootUpd_iff {kt mv : Nat} {s : State} {bstatus : StartStatus} {brails : Bool} {bdown : Bool} {bwhy : Why} {brunning bwarmRun : Bool} {bsince : Nat} {bflash : StartStatus} {bself : Bool} {bfencedLayers : BitVec 32} {bfencedTowers : BitVec 8} {bslotA : FwImage} {bslotB : FwImage} {bfusedKey : Nat} {bservice : List Word} {bidStep : Nat} {bidNext : Nat} {bflashOk : Bool} {battest : List (Option Nat)} {epoch_ : Nat} {turn_ : List Nat} {here_ : Nat} {evPrio_ : Prio} {evNum_ : Nat} {queue_ : List Timed} {free_ : Nat} {delays_ : List Nat} {nextId_ : Nat} {flaws_ : List (Nat × Flaw)} {dead_ : List Nat} {noise_ : List Nat} {cores_ : List (Nat × Core)} {accesses_ : List Access} {msgs_ : List Msg} {park_ : List ParkEntry} {transit_ : List Transit} {setfull_ : Vector (BitVec 32) 8} {quadTlb_ : List (Nat × TlbEntry)} {joins_ : List Join} {foldOps_ : List FoldOp} {foldSeq_ : List (Nat × BitVec 32)} {launches_ : List Launch} {history_ : List (BitVec 32 × BitVec 8)} {saved_ : List Saved} {masterVacant_ : Bool} {links_ : Vector PcieLink 2} {span_ : Vector SpanLink 16} {routes_ : List (Nat × Route)} {pkgId_ : BitVec 12} {pkgSet_ : Bool} {pwrLimit_ : BitVec 12} {pwrMeas_ : BitVec 16} {limiting_ : Bool} {corr_ : Vector (BitVec 32) 12} {uncorr_ : Vector (BitVec 32) 12} {sensors_ : Vector Sensor 84} {layers_ : Vector Layer 32} {fencedTowers_ : BitVec 8} {devBase_ : Word} {devCount_ : BitVec 32} {devPend_ : List (List Word)} {devLost_ : BitVec 32} {blocks_ : List Block} {tokens_ : List Token} {replicas_ : List (BitVec 32 × Nat × Nat × Nat)} {frames_ : List (Nat × Nat)} {planes_ : List Plane} {shoots_ : List Shoot} {paths_ : List (Nat × Path)} {banks_ : List (Nat × Bankst)} {refreshFrom_ : Option Nat} {podTokens_ : List (BitVec 12 × BitVec 32)} {watches_ : List (BitVec 12 × Nat)} {seen_ : List (Nat × List (Nat × Word))} :
    State.Good kt mv { s with boot := { s.boot with status := bstatus, rails := brails, down := bdown, why := bwhy, running := brunning, warmRun := bwarmRun, since := bsince, flash := bflash, self := bself, fencedLayers := bfencedLayers, fencedTowers := bfencedTowers, slotA := bslotA, slotB := bslotB, fusedKey := bfusedKey, service := bservice, idStep := bidStep, idNext := bidNext, flashOk := bflashOk, attest := battest }, epoch := epoch_, turn := turn_, here := here_, evPrio := evPrio_, evNum := evNum_, queue := queue_, free := free_, delays := delays_, nextId := nextId_, flaws := flaws_, dead := dead_, noise := noise_, cores := cores_, accesses := accesses_, msgs := msgs_, park := park_, transit := transit_, setfull := setfull_, quadTlb := quadTlb_, joins := joins_, foldOps := foldOps_, foldSeq := foldSeq_, launches := launches_, history := history_, saved := saved_, masterVacant := masterVacant_, links := links_, span := span_, routes := routes_, pkgId := pkgId_, pkgSet := pkgSet_, pwrLimit := pwrLimit_, pwrMeas := pwrMeas_, limiting := limiting_, corr := corr_, uncorr := uncorr_, sensors := sensors_, layers := layers_, fencedTowers := fencedTowers_, devBase := devBase_, devCount := devCount_, devPend := devPend_, devLost := devLost_, blocks := blocks_, tokens := tokens_, replicas := replicas_, frames := frames_, planes := planes_, shoots := shoots_, paths := paths_, banks := banks_, refreshFrom := refreshFrom_, podTokens := podTokens_, watches := watches_, seen := seen_ } ↔
    s.Good kt mv :=
  ⟨fun h => ⟨⟨h.mem.bytes, h.mem.empties, h.mem.poison, h.mem.wpoison⟩, h.tick, h.version⟩,
   fun h => ⟨⟨h.mem.bytes, h.mem.empties, h.mem.poison, h.mem.wpoison⟩, h.tick, h.version⟩⟩

theorem State.good_boot {kt mv : Nat} {s : State} {epoch_ : Nat} {turn_ : List Nat} {here_ : Nat} {evPrio_ : Prio} {evNum_ : Nat} {queue_ : List Timed} {free_ : Nat} {delays_ : List Nat} {nextId_ : Nat} {flaws_ : List (Nat × Flaw)} {dead_ : List Nat} {noise_ : List Nat} {cores_ : List (Nat × Core)} {accesses_ : List Access} {msgs_ : List Msg} {park_ : List ParkEntry} {transit_ : List Transit} {setfull_ : Vector (BitVec 32) 8} {quadTlb_ : List (Nat × TlbEntry)} {joins_ : List Join} {foldOps_ : List FoldOp} {foldSeq_ : List (Nat × BitVec 32)} {launches_ : List Launch} {history_ : List (BitVec 32 × BitVec 8)} {saved_ : List Saved} {masterVacant_ : Bool} {links_ : Vector PcieLink 2} {span_ : Vector SpanLink 16} {routes_ : List (Nat × Route)} {pkgId_ : BitVec 12} {pkgSet_ : Bool} {pwrLimit_ : BitVec 12} {pwrMeas_ : BitVec 16} {limiting_ : Bool} {corr_ : Vector (BitVec 32) 12} {uncorr_ : Vector (BitVec 32) 12} {sensors_ : Vector Sensor 84} {layers_ : Vector Layer 32} {fencedTowers_ : BitVec 8} {devBase_ : Word} {devCount_ : BitVec 32} {devPend_ : List (List Word)} {devLost_ : BitVec 32} {blocks_ : List Block} {tokens_ : List Token} {replicas_ : List (BitVec 32 × Nat × Nat × Nat)} {frames_ : List (Nat × Nat)} {planes_ : List Plane} {shoots_ : List Shoot} {paths_ : List (Nat × Path)} {banks_ : List (Nat × Bankst)} {refreshFrom_ : Option Nat} {podTokens_ : List (BitVec 12 × BitVec 32)} {watches_ : List (BitVec 12 × Nat)} {seen_ : List (Nat × List (Nat × Word))} {boot_ : Start} (h : s.Good kt mv) (hb : s.boot.minVersion.toNat ≤ boot_.minVersion.toNat) :
    State.Good kt mv { s with boot := boot_, epoch := epoch_, turn := turn_, here := here_, evPrio := evPrio_, evNum := evNum_, queue := queue_, free := free_, delays := delays_, nextId := nextId_, flaws := flaws_, dead := dead_, noise := noise_, cores := cores_, accesses := accesses_, msgs := msgs_, park := park_, transit := transit_, setfull := setfull_, quadTlb := quadTlb_, joins := joins_, foldOps := foldOps_, foldSeq := foldSeq_, launches := launches_, history := history_, saved := saved_, masterVacant := masterVacant_, links := links_, span := span_, routes := routes_, pkgId := pkgId_, pkgSet := pkgSet_, pwrLimit := pwrLimit_, pwrMeas := pwrMeas_, limiting := limiting_, corr := corr_, uncorr := uncorr_, sensors := sensors_, layers := layers_, fencedTowers := fencedTowers_, devBase := devBase_, devCount := devCount_, devPend := devPend_, devLost := devLost_, blocks := blocks_, tokens := tokens_, replicas := replicas_, frames := frames_, planes := planes_, shoots := shoots_, paths := paths_, banks := banks_, refreshFrom := refreshFrom_, podTokens := podTokens_, watches := watches_, seen := seen_ } :=
  ⟨⟨h.mem.bytes, h.mem.empties, h.mem.poison, h.mem.wpoison⟩, h.tick, Nat.le_trans h.version hb⟩

/-- A fold that carries something beside the state keeps the invariant if its step does. -/
theorem good_foldl_snd {α β : Type} {kt mv : Nat} {p : β × State} {f : β × State → α → β × State} {l : List α}
    (hf : ∀ (q : β × State) (x : α), q.2.Good kt mv → (f q x).2.Good kt mv) (h : p.2.Good kt mv) : (l.foldl f p).2.Good kt mv := by
  induction l generalizing p with
  | nil => exact h
  | cons x l ih => exact ih (hf p x h)
theorem good_foldl_fst {α β : Type} {kt mv : Nat} {p : State × β} {f : State × β → α → State × β} {l : List α}
    (hf : ∀ (q : State × β) (x : α), q.1.Good kt mv → (f q x).1.Good kt mv) (h : p.1.Good kt mv) : (l.foldl f p).1.Good kt mv := by
  induction l generalizing p with
  | nil => exact h
  | cons x l ih => exact ih (hf p x h)
theorem good_snd {α : Type} {kt mv : Nat} {p : α × State} {a : α} {t : State} (h : p = (a, t)) (hp : p.2.Good kt mv) :
    t.Good kt mv := by rw [h] at hp; exact hp
theorem good_fst {α : Type} {kt mv : Nat} {p : State × α} {a : α} {t : State} (h : p = (t, a)) (hp : p.1.Good kt mv) :
    t.Good kt mv := by rw [h] at hp; exact hp

/-! ### Rising lists -/

theorem wordList_filter {l : List Nat} (p : Nat → Bool) (h : wordList l) : wordList (l.filter p) :=
  ⟨h.1.filter p, fun a ha => h.2 a (List.mem_filter.1 ha).1⟩

theorem mem_addKey (l : List Nat) (k a : Nat) (h : a ∈ addKey l k) : a = k ∨ a ∈ l := by
  induction l with
  | nil => simpa [addKey] using h
  | cons j l ih =>
    simp only [addKey] at h
    split at h
    · exact Or.inr h
    · split at h
      · simpa using h
      · simp only [List.mem_cons] at h ⊢
        rcases h with h | h
        · exact .inr (.inl h)
        · exact (ih h).imp id .inr

theorem wordList_addKey {l : List Nat} (k : Nat) (hk : k % 8 = 0) (h : wordList l) : wordList (addKey l k) := by
  refine ⟨?_, fun a ha => ?_⟩
  · have h1 := h.1
    clear h
    induction l with
    | nil => simp [addKey]
    | cons j l ih =>
      rw [List.pairwise_cons] at h1
      simp only [addKey]
      split
      · exact List.pairwise_cons.2 h1
      · split
        · refine List.pairwise_cons.2 ⟨fun b hb => ?_, List.pairwise_cons.2 h1⟩
          rcases List.mem_cons.1 hb with rfl | hb
          · assumption
          · have := h1.1 b hb; omega
        · refine List.pairwise_cons.2 ⟨fun b hb => ?_, ih h1.2⟩
          rcases mem_addKey _ _ _ hb with rfl | hb
          · omega
          · exact h1.1 b hb
  · rcases mem_addKey _ _ _ ha with rfl | ha
    · exact hk
    · exact h.2 a ha

theorem blockAt_mod (a : Nat) : blockAt a % 8 = 0 := by simp only [blockAt]; omega
theorem wordOf_mod (a : Nat) : wordOf a % 8 = 0 := by simp [wordOf]

end Sys2Proof.Machine
end

