-- ==== Sys2Proof/Laws/InvCore.lean ====
section
/-!
SUPPORT. The shared operations on cores, memory and accesses
keep the invariant of memory, the tick and the least firmware version.
-/
namespace Sys2Proof.Machine

@[simp] theorem State.setCore_good {kt mv : Nat} {s : State} (c : Nat) (k : Core) (hs : s.Good kt mv) :
    State.Good kt mv (State.setCore s c k) := by
  unfold State.setCore
  repeat'
    first
    | with_reducible assumption | dsimp only | split | (intro _) | with_reducible apply good_foldl
    | simp only [State.good_upd_iff] | simp only [State.good_bootUpd_iff]
    | with_reducible refine good_snd (by assumption) ?_ | with_reducible refine good_fst (by assumption) ?_
    | (simp [*]; done)

@[simp] theorem State.modCore_good {kt mv : Nat} {s : State} (c : Nat) (f : Core → Core) (hs : s.Good kt mv) :
    State.Good kt mv (State.modCore s c f) := by
  unfold State.modCore
  repeat'
    first
    | with_reducible assumption | with_reducible apply State.setCore_good | dsimp only | split | (intro _)
    | with_reducible apply good_foldl | simp only [State.good_upd_iff] | simp only [State.good_bootUpd_iff]
    | with_reducible refine good_snd (by assumption) ?_ | with_reducible refine good_fst (by assumption) ?_
    | (simp [*]; done)

@[simp] theorem State.modBank_good {kt mv : Nat} {s : State} (c : Nat) (p : Prio) (f : Bank → Bank) (hs : s.Good kt mv) :
    State.Good kt mv (State.modBank s c p f) := by
  unfold State.modBank
  repeat'
    first
    | with_reducible assumption | with_reducible apply State.modCore_good | dsimp only | split | (intro _)
    | with_reducible apply good_foldl | simp only [State.good_upd_iff] | simp only [State.good_bootUpd_iff]
    | with_reducible refine good_snd (by assumption) ?_ | with_reducible refine good_fst (by assumption) ?_
    | (simp [*]; done)

@[simp] theorem State.modMine_good {kt mv : Nat} {s : State} (f : Core → Core) (hs : s.Good kt mv) :
    State.Good kt mv (State.modMine s f) := by
  unfold State.modMine
  repeat'
    first
    | with_reducible assumption | with_reducible apply State.modCore_good | dsimp only | split | (intro _)
    | with_reducible apply good_foldl | simp only [State.good_upd_iff] | simp only [State.good_bootUpd_iff]
    | with_reducible refine good_snd (by assumption) ?_ | with_reducible refine good_fst (by assumption) ?_
    | (simp [*]; done)

@[simp] theorem State.modMe_good {kt mv : Nat} {s : State} (f : Bank → Bank) (hs : s.Good kt mv) :
    State.Good kt mv (State.modMe s f) := by
  unfold State.modMe
  repeat'
    first
    | with_reducible assumption | with_reducible apply State.modBank_good | with_reducible apply State.modMine_good
    | dsimp only | split | (intro _) | with_reducible apply good_foldl | simp only [State.good_upd_iff]
    | simp only [State.good_bootUpd_iff] | with_reducible refine good_snd (by assumption) ?_
    | with_reducible refine good_fst (by assumption) ?_ | (simp [*]; done)

@[simp] theorem State.wrC_good {kt mv : Nat} {s : State} (lat : Nat) (r : Reg) (v : Word) (hs : s.Good kt mv) :
    State.Good kt mv (State.wrC s lat r v) := by
  unfold State.wrC
  repeat'
    first
    | with_reducible assumption | with_reducible apply State.modMe_good | dsimp only | split | (intro _)
    | with_reducible apply good_foldl | simp only [State.good_upd_iff] | simp only [State.good_bootUpd_iff]
    | with_reducible refine good_snd (by assumption) ?_ | with_reducible refine good_fst (by assumption) ?_
    | (simp [*]; done)

@[simp] theorem State.wrA_good {kt mv : Nat} {s : State} (lat : Nat) (r : Reg) (v : Word) (hs : s.Good kt mv) :
    State.Good kt mv (State.wrA s lat r v) := by
  unfold State.wrA
  repeat'
    first
    | with_reducible assumption | with_reducible apply State.modMe_good | dsimp only | split | (intro _)
    | with_reducible apply good_foldl | simp only [State.good_upd_iff] | simp only [State.good_bootUpd_iff]
    | with_reducible refine good_snd (by assumption) ?_ | with_reducible refine good_fst (by assumption) ?_
    | (simp [*]; done)

@[simp] theorem State.wrAF_good {kt mv : Nat} {s : State} (lat : Nat) (r : Reg) (v : Word × BitVec 5) (hs : s.Good kt mv) :
    State.Good kt mv (State.wrAF s lat r v) := by
  unfold State.wrAF
  repeat'
    first
    | with_reducible assumption | with_reducible apply State.modMe_good | dsimp only | split | (intro _)
    | with_reducible apply good_foldl | simp only [State.good_upd_iff] | simp only [State.good_bootUpd_iff]
    | with_reducible refine good_snd (by assumption) ?_ | with_reducible refine good_fst (by assumption) ?_
    | (simp [*]; done)

@[simp] theorem State.enqueue_good {kt mv : Nat} {s : State} (due core : Nat) (p : Prio) (num : Nat) (ev : Instr) (hs :
    s.Good kt mv) :
    State.Good kt mv (State.enqueue s due core p num ev) := by
  unfold State.enqueue
  repeat'
    first
    | with_reducible assumption | dsimp only | split | (intro _) | with_reducible apply good_foldl
    | simp only [State.good_upd_iff] | simp only [State.good_bootUpd_iff]
    | with_reducible refine good_snd (by assumption) ?_ | with_reducible refine good_fst (by assumption) ?_
    | (simp [*]; done)

@[simp] theorem State.enqueueFirst_good {kt mv : Nat} {s : State} (due core : Nat) (p : Prio) (num : Nat) (ev : Instr)
    (hs : s.Good kt mv) :
    State.Good kt mv (State.enqueueFirst s due core p num ev) := by
  unfold State.enqueueFirst
  repeat'
    first
    | with_reducible assumption | dsimp only | split | (intro _) | with_reducible apply good_foldl
    | simp only [State.good_upd_iff] | simp only [State.good_bootUpd_iff]
    | with_reducible refine good_snd (by assumption) ?_ | with_reducible refine good_fst (by assumption) ?_
    | (simp [*]; done)

@[simp] theorem State.enqueueLast_good {kt mv : Nat} {s : State} (due core : Nat) (p : Prio) (num : Nat) (ev : Instr)
    (hs : s.Good kt mv) :
    State.Good kt mv (State.enqueueLast s due core p num ev) := by
  unfold State.enqueueLast
  repeat'
    first
    | with_reducible assumption | dsimp only | split | (intro _) | with_reducible apply good_foldl
    | simp only [State.good_upd_iff] | simp only [State.good_bootUpd_iff]
    | with_reducible refine good_snd (by assumption) ?_ | with_reducible refine good_fst (by assumption) ?_
    | (simp [*]; done)

@[simp] theorem State.later_good {kt mv : Nat} {s : State} (d num : Nat) (ev : Instr) (hs : s.Good kt mv) :
    State.Good kt mv (State.later s d num ev) := by
  unfold State.later
  repeat'
    first
    | with_reducible assumption | with_reducible apply State.enqueue_good | dsimp only | split | (intro _)
    | with_reducible apply good_foldl | simp only [State.good_upd_iff] | simp only [State.good_bootUpd_iff]
    | with_reducible refine good_snd (by assumption) ?_ | with_reducible refine good_fst (by assumption) ?_
    | (simp [*]; done)

@[simp] theorem State.delayed_good {kt mv : Nat} {s : State} (hs : s.Good kt mv) :
    State.Good kt mv (State.delayed s) := by
  unfold State.delayed
  repeat'
    first
    | with_reducible assumption | dsimp only | split | (intro _) | with_reducible apply good_foldl
    | simp only [State.good_upd_iff] | simp only [State.good_bootUpd_iff]
    | with_reducible refine good_snd (by assumption) ?_ | with_reducible refine good_fst (by assumption) ?_
    | (simp [*]; done)

@[simp] theorem State.bumpId_good {kt mv : Nat} {s : State} (hs : s.Good kt mv) :
    State.Good kt mv (State.bumpId s) := by
  unfold State.bumpId
  repeat'
    first
    | with_reducible assumption | dsimp only | split | (intro _) | with_reducible apply good_foldl
    | simp only [State.good_upd_iff] | simp only [State.good_bootUpd_iff]
    | with_reducible refine good_snd (by assumption) ?_ | with_reducible refine good_fst (by assumption) ?_
    | (simp [*]; done)

@[simp] theorem State.bumpFree_good {kt mv : Nat} {s : State} (hs : s.Good kt mv) :
    State.Good kt mv (State.bumpFree s) := by
  unfold State.bumpFree
  repeat'
    first
    | with_reducible assumption | dsimp only | split | (intro _) | with_reducible apply good_foldl
    | simp only [State.good_upd_iff] | simp only [State.good_bootUpd_iff]
    | with_reducible refine good_snd (by assumption) ?_ | with_reducible refine good_fst (by assumption) ?_
    | (simp [*]; done)

@[simp] theorem State.issue_good {kt mv : Nat} {s : State} (hs : s.Good kt mv) :
    State.Good kt mv (State.issue s) := by
  unfold State.issue
  repeat'
    first
    | with_reducible assumption | with_reducible apply State.modMe_good | dsimp only | split | (intro _)
    | with_reducible apply good_foldl | simp only [State.good_upd_iff] | simp only [State.good_bootUpd_iff]
    | with_reducible refine good_snd (by assumption) ?_ | with_reducible refine good_fst (by assumption) ?_
    | (simp [*]; done)

@[simp] theorem State.hold_good {kt mv : Nat} {s : State} (hs : s.Good kt mv) :
    State.Good kt mv (State.hold s) := by
  unfold State.hold
  repeat'
    first
    | with_reducible assumption | dsimp only | split | (intro _) | with_reducible apply good_foldl
    | simp only [State.good_upd_iff] | simp only [State.good_bootUpd_iff]
    | with_reducible refine good_snd (by assumption) ?_ | with_reducible refine good_fst (by assumption) ?_
    | (simp [*]; done)

@[simp] theorem State.holdOp_good {kt mv : Nat} {s : State} (hs : s.Good kt mv) :
    State.Good kt mv (State.holdOp s) := by
  unfold State.holdOp
  repeat'
    first
    | with_reducible assumption | with_reducible apply State.modMe_good
    | with_reducible apply State.enqueueLast_good | dsimp only | split | (intro _)
    | with_reducible apply good_foldl | simp only [State.good_upd_iff] | simp only [State.good_bootUpd_iff]
    | with_reducible refine good_snd (by assumption) ?_ | with_reducible refine good_fst (by assumption) ?_
    | (simp [*]; done)

@[simp] theorem State.flow_good {kt mv : Nat} {s : State} (f : Flow) (hs : s.Good kt mv) :
    State.Good kt mv (State.flow s f) := by
  unfold State.flow
  repeat'
    first
    | with_reducible assumption | with_reducible apply State.modMe_good | dsimp only | split | (intro _)
    | with_reducible apply good_foldl | simp only [State.good_upd_iff] | simp only [State.good_bootUpd_iff]
    | with_reducible refine good_snd (by assumption) ?_ | with_reducible refine good_fst (by assumption) ?_
    | (simp [*]; done)

@[simp] theorem State.wrN_good {kt mv : Nat} {s : State} (a n v : Nat) (hs : s.Good kt mv) :
    State.Good kt mv (State.wrN s a n v) := by
  exact ⟨⟨memWrite_wf _ _ _ _ hs.mem.bytes, hs.mem.empties, hs.mem.poison, hs.mem.wpoison⟩, hs.tick, hs.version⟩

@[simp] theorem State.wrWord_good {kt mv : Nat} {s : State} (a : Nat) (v : Word) (hs : s.Good kt mv) :
    State.Good kt mv (State.wrWord s a v) := by
  unfold State.wrWord
  repeat'
    first
    | with_reducible assumption | with_reducible apply State.wrN_good | dsimp only | split | (intro _)
    | with_reducible apply good_foldl | simp only [State.good_upd_iff] | simp only [State.good_bootUpd_iff]
    | with_reducible refine good_snd (by assumption) ?_ | with_reducible refine good_fst (by assumption) ?_
    | (simp [*]; done)

@[simp] theorem State.wrWords_good {kt mv : Nat} {s : State} (a : Nat) (l : List Word) (hs : s.Good kt mv) : (s.wrWords
    a l).Good kt mv := by
  induction l generalizing s a with
  | nil => exact hs
  | cons w l ih => rw [State.wrWords]; exact ih _ (State.wrWord_good a w hs)

@[simp] theorem State.setFE_good {kt mv : Nat} {s : State} (a : Nat) (full : Bool) (hs : s.Good kt mv) :
    State.Good kt mv (State.setFE s a full) := by
  refine ⟨⟨hs.mem.bytes, ?_, hs.mem.poison, hs.mem.wpoison⟩, hs.tick, hs.version⟩
  simp only [State.setFE]
  split
  · exact wordList_filter _ hs.mem.empties
  · exact wordList_addKey _ (wordOf_mod a) hs.mem.empties

@[simp] theorem State.unpoison_good {kt mv : Nat} {s : State} (a : Nat) (hs : s.Good kt mv) :
    State.Good kt mv (State.unpoison s a) := by
  exact ⟨⟨hs.mem.bytes, hs.mem.empties, hs.mem.poison, wordList_filter _ hs.mem.wpoison⟩, hs.tick, hs.version⟩

@[simp] theorem State.clearFlaw_good {kt mv : Nat} {s : State} (a : Nat) (hs : s.Good kt mv) :
    State.Good kt mv (State.clearFlaw s a) := by
  unfold State.clearFlaw
  repeat'
    first
    | with_reducible assumption | dsimp only | split | (intro _) | with_reducible apply good_foldl
    | simp only [State.good_upd_iff] | simp only [State.good_bootUpd_iff]
    | with_reducible refine good_snd (by assumption) ?_ | with_reducible refine good_fst (by assumption) ?_
    | (simp [*]; done)

@[simp] theorem State.heal_good {kt mv : Nat} {s : State} (a : Nat) (hs : s.Good kt mv) :
    State.Good kt mv (State.heal s a) := by
  exact ⟨⟨hs.mem.bytes, hs.mem.empties, wordList_filter _ hs.mem.poison, wordList_filter _ hs.mem.wpoison⟩, hs.tick,
      hs.version⟩

@[simp] theorem State.addPoison_good {kt mv : Nat} {s : State} (a : Nat) (hs : s.Good kt mv) :
    State.Good kt mv (State.addPoison s a) := by
  exact ⟨⟨hs.mem.bytes, hs.mem.empties, wordList_addKey _ (blockAt_mod a) hs.mem.poison, hs.mem.wpoison⟩, hs.tick, hs.version⟩

@[simp] theorem State.addWordPoison_good {kt mv : Nat} {s : State} (a : Nat) (hs : s.Good kt mv) :
    State.Good kt mv (State.addWordPoison s a) := by
  exact ⟨⟨hs.mem.bytes, hs.mem.empties, hs.mem.poison, wordList_addKey _ (wordOf_mod a) hs.mem.wpoison⟩, hs.tick, hs.version⟩

@[simp] theorem State.modLayer_good {kt mv : Nat} {s : State} (i : Nat) (f : Layer → Layer) (hs : s.Good kt mv) :
    State.Good kt mv (State.modLayer s i f) := by
  unfold State.modLayer
  repeat'
    first
    | with_reducible assumption | dsimp only | split | (intro _) | with_reducible apply good_foldl
    | simp only [State.good_upd_iff] | simp only [State.good_bootUpd_iff]
    | with_reducible refine good_snd (by assumption) ?_ | with_reducible refine good_fst (by assumption) ?_
    | (simp [*]; done)

@[simp] theorem State.modSpan_good {kt mv : Nat} {s : State} (l : Nat) (f : SpanLink → SpanLink) (hs : s.Good kt mv) :
    State.Good kt mv (State.modSpan s l f) := by
  unfold State.modSpan
  repeat'
    first
    | with_reducible assumption | dsimp only | split | (intro _) | with_reducible apply good_foldl
    | simp only [State.good_upd_iff] | simp only [State.good_bootUpd_iff]
    | with_reducible refine good_snd (by assumption) ?_ | with_reducible refine good_fst (by assumption) ?_
    | (simp [*]; done)

@[simp] theorem State.modLink_good {kt mv : Nat} {s : State} (l : Nat) (f : PcieLink → PcieLink) (hs : s.Good kt mv) :
    State.Good kt mv (State.modLink s l f) := by
  unfold State.modLink
  repeat'
    first
    | with_reducible assumption | dsimp only | split | (intro _) | with_reducible apply good_foldl
    | simp only [State.good_upd_iff] | simp only [State.good_bootUpd_iff]
    | with_reducible refine good_snd (by assumption) ?_ | with_reducible refine good_fst (by assumption) ?_
    | (simp [*]; done)

@[simp] theorem State.ctlPlain_good {kt mv : Nat} {s : State} (o : Nat) (v : Word) (hs : s.Good kt mv) :
    State.Good kt mv (State.ctlPlain s o v) := by
  unfold State.ctlPlain
  repeat'
    first
    | with_reducible assumption | with_reducible apply State.later_good | with_reducible apply State.modLayer_good
    | dsimp only | split | (intro _) | with_reducible apply good_foldl | simp only [State.good_upd_iff]
    | simp only [State.good_bootUpd_iff] | with_reducible refine good_snd (by assumption) ?_
    | with_reducible refine good_fst (by assumption) ?_ | (simp [*]; done)

@[simp] theorem State.ctlWrite_good {kt mv : Nat} {s : State} (o : Nat) (v : Word) (hs : s.Good kt mv) :
    State.Good kt mv (State.ctlWrite s o v) := by
  unfold State.ctlWrite
  repeat'
    first
    | with_reducible assumption | with_reducible apply State.later_good | with_reducible apply State.ctlPlain_good
    | dsimp only | split | (intro _) | with_reducible apply good_foldl | simp only [State.good_upd_iff]
    | simp only [State.good_bootUpd_iff] | with_reducible refine good_snd (by assumption) ?_
    | with_reducible refine good_fst (by assumption) ?_ | (simp [*]; done)

@[simp] theorem State.ctlWriteN_good {kt mv : Nat} {s : State} (o n v : Nat) (hs : s.Good kt mv) :
    State.Good kt mv (State.ctlWriteN s o n v) := by
  unfold State.ctlWriteN
  repeat'
    first
    | with_reducible assumption | with_reducible apply State.ctlWrite_good | dsimp only | split | (intro _)
    | with_reducible apply good_foldl | simp only [State.good_upd_iff] | simp only [State.good_bootUpd_iff]
    | with_reducible refine good_snd (by assumption) ?_ | with_reducible refine good_fst (by assumption) ?_
    | (simp [*]; done)

@[simp] theorem State.linkPlain_good {kt mv : Nat} {s : State} (l o : Nat) (v : Word) (hs : s.Good kt mv) :
    State.Good kt mv (State.linkPlain s l o v) := by
  unfold State.linkPlain
  repeat'
    first
    | with_reducible assumption | with_reducible apply State.modLink_good | dsimp only | split | (intro _)
    | with_reducible apply good_foldl | simp only [State.good_upd_iff] | simp only [State.good_bootUpd_iff]
    | with_reducible refine good_snd (by assumption) ?_ | with_reducible refine good_fst (by assumption) ?_
    | (simp [*]; done)

@[simp] theorem State.linkWrite_good {kt mv : Nat} {s : State} (l o : Nat) (v : Word) (hs : s.Good kt mv) :
    State.Good kt mv (State.linkWrite s l o v) := by
  unfold State.linkWrite
  repeat'
    first
    | with_reducible assumption | with_reducible apply State.later_good | with_reducible apply State.linkPlain_good
    | dsimp only | split | (intro _) | with_reducible apply good_foldl | simp only [State.good_upd_iff]
    | simp only [State.good_bootUpd_iff] | with_reducible refine good_snd (by assumption) ?_
    | with_reducible refine good_fst (by assumption) ?_ | (simp [*]; done)

@[simp] theorem State.countCorr_good {kt mv : Nat} {s : State} (d : Nat) (hs : s.Good kt mv) :
    State.Good kt mv (State.countCorr s d) := by
  unfold State.countCorr
  repeat'
    first
    | with_reducible assumption | dsimp only | split | (intro _) | with_reducible apply good_foldl
    | simp only [State.good_upd_iff] | simp only [State.good_bootUpd_iff]
    | with_reducible refine good_snd (by assumption) ?_ | with_reducible refine good_fst (by assumption) ?_
    | (simp [*]; done)

@[simp] theorem State.countUncorr_good {kt mv : Nat} {s : State} (d : Nat) (hs : s.Good kt mv) :
    State.Good kt mv (State.countUncorr s d) := by
  unfold State.countUncorr
  repeat'
    first
    | with_reducible assumption | dsimp only | split | (intro _) | with_reducible apply good_foldl
    | simp only [State.good_upd_iff] | simp only [State.good_bootUpd_iff]
    | with_reducible refine good_snd (by assumption) ?_ | with_reducible refine good_fst (by assumption) ?_
    | (simp [*]; done)

@[simp] theorem State.meetOne_good {kt mv : Nat} {s : State} (a : Nat) (x : Flaw) (hs : s.Good kt mv) :
    State.Good kt mv (State.meetOne s a x) := by
  unfold State.meetOne
  repeat'
    first
    | with_reducible assumption | with_reducible apply State.addPoison_good
    | with_reducible apply State.addWordPoison_good | with_reducible apply State.countCorr_good
    | with_reducible apply State.countUncorr_good | dsimp only | split | (intro _)
    | with_reducible apply good_foldl | simp only [State.good_upd_iff] | simp only [State.good_bootUpd_iff]
    | with_reducible refine good_snd (by assumption) ?_ | with_reducible refine good_fst (by assumption) ?_
    | (simp [*]; done)

@[simp] theorem State.meet_good {kt mv : Nat} {s : State} (a : Nat) (hs : s.Good kt mv) :
    State.Good kt mv (State.meet s a) := by
  unfold State.meet
  repeat'
    first
    | with_reducible assumption | with_reducible apply State.meetOne_good | dsimp only | split | (intro _)
    | with_reducible apply good_foldl | simp only [State.good_upd_iff] | simp only [State.good_bootUpd_iff]
    | with_reducible refine good_snd (by assumption) ?_ | with_reducible refine good_fst (by assumption) ?_
    | (simp [*]; done)

@[simp] theorem State.meetBlock_good {kt mv : Nat} {s : State} (a : Nat) (hs : s.Good kt mv) :
    State.Good kt mv (State.meetBlock s a) := by
  unfold State.meetBlock
  repeat'
    first
    | with_reducible assumption | with_reducible apply State.meetOne_good | dsimp only | split | (intro _)
    | with_reducible apply good_foldl | simp only [State.good_upd_iff] | simp only [State.good_bootUpd_iff]
    | with_reducible refine good_snd (by assumption) ?_ | with_reducible refine good_fst (by assumption) ?_
    | (simp [*]; done)

@[simp] theorem State.modLaunch_good {kt mv : Nat} {s : State} (lid : BitVec 32) (f : Launch → Launch) (hs : s.Good kt mv) :
    State.Good kt mv (State.modLaunch s lid f) := by
  unfold State.modLaunch
  repeat'
    first
    | with_reducible assumption | dsimp only | split | (intro _) | with_reducible apply good_foldl
    | simp only [State.good_upd_iff] | simp only [State.good_bootUpd_iff]
    | with_reducible refine good_snd (by assumption) ?_ | with_reducible refine good_fst (by assumption) ?_
    | (simp [*]; done)

@[simp] theorem State.poke_good {kt mv : Nat} {s : State} (lid : BitVec 32) (hs : s.Good kt mv) :
    State.Good kt mv (State.poke s lid) := by
  unfold State.poke
  repeat'
    first
    | with_reducible assumption | with_reducible apply State.later_good | dsimp only | split | (intro _)
    | with_reducible apply good_foldl | simp only [State.good_upd_iff] | simp only [State.good_bootUpd_iff]
    | with_reducible refine good_snd (by assumption) ?_ | with_reducible refine good_fst (by assumption) ?_
    | (simp [*]; done)

@[simp] theorem State.pokeStarts_good {kt mv : Nat} {s : State} (hs : s.Good kt mv) :
    State.Good kt mv (State.pokeStarts s) := by
  unfold State.pokeStarts
  repeat'
    first
    | with_reducible assumption | with_reducible apply State.later_good | dsimp only | split | (intro _)
    | with_reducible apply good_foldl | simp only [State.good_upd_iff] | simp only [State.good_bootUpd_iff]
    | with_reducible refine good_snd (by assumption) ?_ | with_reducible refine good_fst (by assumption) ?_
    | (simp [*]; done)

@[simp] theorem State.anchor_good {kt mv : Nat} {s : State} (hs : s.Good kt mv) :
    State.Good kt mv (State.anchor s) := by
  unfold State.anchor
  repeat'
    first
    | with_reducible assumption | with_reducible apply State.modMe_good | dsimp only | split | (intro _)
    | with_reducible apply good_foldl | simp only [State.good_upd_iff] | simp only [State.good_bootUpd_iff]
    | with_reducible refine good_snd (by assumption) ?_ | with_reducible refine good_fst (by assumption) ?_
    | (simp [*]; done)

@[simp] theorem State.modInst_good {kt mv : Nat} {s : State} (c n : Nat) (f : Inst → Inst) (hs : s.Good kt mv) :
    State.Good kt mv (State.modInst s c n f) := by
  unfold State.modInst
  repeat'
    first
    | with_reducible assumption | with_reducible apply State.modCore_good | dsimp only | split | (intro _)
    | with_reducible apply good_foldl | simp only [State.good_upd_iff] | simp only [State.good_bootUpd_iff]
    | with_reducible refine good_snd (by assumption) ?_ | with_reducible refine good_fst (by assumption) ?_
    | (simp [*]; done)

@[simp] theorem State.push_good {kt mv : Nat} {s : State} (c : Nat) (p : Prio) (e : Entry) (hs : s.Good kt mv) :
    State.Good kt mv (State.push s c p e) := by
  unfold State.push
  repeat'
    first
    | with_reducible assumption | with_reducible apply State.modCore_good | with_reducible apply State.enqueue_good
    | dsimp only | split | (intro _) | with_reducible apply good_foldl | simp only [State.good_upd_iff]
    | simp only [State.good_bootUpd_iff] | with_reducible refine good_snd (by assumption) ?_
    | with_reducible refine good_fst (by assumption) ?_ | (simp [*]; done)

@[simp] theorem State.pushInst_good {kt mv : Nat} {s : State} (c n : Nat) (hs : s.Good kt mv) :
    State.Good kt mv (State.pushInst s c n) := by
  unfold State.pushInst
  repeat'
    first
    | with_reducible assumption | with_reducible apply State.modInst_good | with_reducible apply State.push_good
    | dsimp only | split | (intro _) | with_reducible apply good_foldl | simp only [State.good_upd_iff]
    | simp only [State.good_bootUpd_iff] | with_reducible refine good_snd (by assumption) ?_
    | with_reducible refine good_fst (by assumption) ?_ | (simp [*]; done)

@[simp] theorem State.checkReady_good {kt mv : Nat} {s : State} (c n : Nat) (hs : s.Good kt mv) :
    State.Good kt mv (State.checkReady s c n) := by
  unfold State.checkReady
  repeat'
    first
    | with_reducible assumption | with_reducible apply State.pushInst_good | dsimp only | split | (intro _)
    | with_reducible apply good_foldl | simp only [State.good_upd_iff] | simp only [State.good_bootUpd_iff]
    | with_reducible refine good_snd (by assumption) ?_ | with_reducible refine good_fst (by assumption) ?_
    | (simp [*]; done)

@[simp] theorem State.modPark_good {kt mv : Nat} {s : State} (id : Nat) (f : ParkEntry → ParkEntry) (hs : s.Good kt mv) :
    State.Good kt mv (State.modPark s id f) := by
  unfold State.modPark
  repeat'
    first
    | with_reducible assumption | dsimp only | split | (intro _) | with_reducible apply good_foldl
    | simp only [State.good_upd_iff] | simp only [State.good_bootUpd_iff]
    | with_reducible refine good_snd (by assumption) ?_ | with_reducible refine good_fst (by assumption) ?_
    | (simp [*]; done)

@[simp] theorem State.countSetFull_good {kt mv : Nat} {s : State} (t : Nat) (hs : s.Good kt mv) :
    State.Good kt mv (State.countSetFull s t) := by
  unfold State.countSetFull
  repeat'
    first
    | with_reducible assumption | dsimp only | split | (intro _) | with_reducible apply good_foldl
    | simp only [State.good_upd_iff] | simp only [State.good_bootUpd_iff]
    | with_reducible refine good_snd (by assumption) ?_ | with_reducible refine good_fst (by assumption) ?_
    | (simp [*]; done)

@[simp] theorem State.pushResume_good {kt mv : Nat} {s : State} (e : ParkEntry) (hs : s.Good kt mv) :
    State.Good kt mv (State.pushResume s e) := by
  unfold State.pushResume
  repeat'
    first
    | with_reducible assumption | with_reducible apply State.bumpId_good | with_reducible apply State.push_good
    | with_reducible apply State.modPark_good | dsimp only | split | (intro _) | with_reducible apply good_foldl
    | simp only [State.good_upd_iff] | simp only [State.good_bootUpd_iff]
    | with_reducible refine good_snd (by assumption) ?_ | with_reducible refine good_fst (by assumption) ?_
    | (simp [*]; done)

@[simp] theorem State.letIn_good {kt mv : Nat} {s : State} (t : Transit) (hs : s.Good kt mv) :
    State.Good kt mv (State.letIn s t) := by
  unfold State.letIn
  repeat'
    first
    | with_reducible assumption | with_reducible apply State.bumpId_good
    | with_reducible apply State.pushResume_good | dsimp only | split | (intro _) | with_reducible apply good_foldl
    | simp only [State.good_upd_iff] | simp only [State.good_bootUpd_iff]
    | with_reducible refine good_snd (by assumption) ?_ | with_reducible refine good_fst (by assumption) ?_
    | (simp [*]; done)

@[simp] theorem State.freePark_good {kt mv : Nat} {s : State} (id : Nat) (hs : s.Good kt mv) :
    State.Good kt mv (State.freePark s id) := by
  unfold State.freePark
  repeat'
    first
    | with_reducible assumption | with_reducible apply State.letIn_good | dsimp only | split | (intro _)
    | with_reducible apply good_foldl | simp only [State.good_upd_iff] | simp only [State.good_bootUpd_iff]
    | with_reducible refine good_snd (by assumption) ?_ | with_reducible refine good_fst (by assumption) ?_
    | (simp [*]; done)

@[simp] theorem State.wakeEntry_good {kt mv : Nat} {s : State} (e : ParkEntry) (hs : s.Good kt mv) :
    State.Good kt mv (State.wakeEntry s e) := by
  unfold State.wakeEntry
  repeat'
    first
    | with_reducible assumption | with_reducible apply State.enqueue_good | with_reducible apply State.modPark_good
    | dsimp only | split | (intro _) | with_reducible apply good_foldl | simp only [State.good_upd_iff]
    | simp only [State.good_bootUpd_iff] | with_reducible refine good_snd (by assumption) ?_
    | with_reducible refine good_fst (by assumption) ?_ | (simp [*]; done)

@[simp] theorem State.lookAt_good {kt mv : Nat} {s : State} (qs : List (Nat × Nat)) (hs : s.Good kt mv) :
    State.Good kt mv (State.lookAt s qs) := by
  unfold State.lookAt
  repeat'
    first
    | with_reducible assumption | with_reducible apply State.enqueue_good | dsimp only | split | (intro _)
    | with_reducible apply good_foldl | simp only [State.good_upd_iff] | simp only [State.good_bootUpd_iff]
    | with_reducible refine good_snd (by assumption) ?_ | with_reducible refine good_fst (by assumption) ?_
    | (simp [*]; done)

@[simp] theorem State.pokeQueue_good {kt mv : Nat} {s : State} (l q : Nat) (hs : s.Good kt mv) :
    State.Good kt mv (State.pokeQueue s l q) := by
  unfold State.pokeQueue
  repeat'
    first
    | with_reducible assumption | with_reducible apply State.lookAt_good | dsimp only | split | (intro _)
    | with_reducible apply good_foldl | simp only [State.good_upd_iff] | simp only [State.good_bootUpd_iff]
    | with_reducible refine good_snd (by assumption) ?_ | with_reducible refine good_fst (by assumption) ?_
    | (simp [*]; done)

@[simp] theorem State.pokeQueues_good {kt mv : Nat} {s : State} (hs : s.Good kt mv) :
    State.Good kt mv (State.pokeQueues s) := by
  unfold State.pokeQueues
  repeat'
    first
    | with_reducible assumption | with_reducible apply State.lookAt_good | dsimp only | split | (intro _)
    | with_reducible apply good_foldl | simp only [State.good_upd_iff] | simp only [State.good_bootUpd_iff]
    | with_reducible refine good_snd (by assumption) ?_ | with_reducible refine good_fst (by assumption) ?_
    | (simp [*]; done)

@[simp] theorem State.noteHeader_good {kt mv : Nat} {s : State} (key : Nat) (hs : s.Good kt mv) :
    State.Good kt mv (State.noteHeader s key) := by
  unfold State.noteHeader
  repeat'
    first
    | with_reducible assumption | with_reducible apply State.lookAt_good | dsimp only | split | (intro _)
    | with_reducible apply good_foldl | simp only [State.good_upd_iff] | simp only [State.good_bootUpd_iff]
    | with_reducible refine good_snd (by assumption) ?_ | with_reducible refine good_fst (by assumption) ?_
    | (simp [*]; done)

@[simp] theorem State.feEvent_good {kt mv : Nat} {s : State} (key : Nat) (fill : Bool) (hs : s.Good kt mv) :
    State.Good kt mv (State.feEvent s key fill) := by
  unfold State.feEvent
  repeat'
    first
    | with_reducible assumption | with_reducible apply State.later_good | with_reducible apply State.wakeEntry_good
    | with_reducible apply State.noteHeader_good | dsimp only | split | (intro _) | with_reducible apply good_foldl
    | simp only [State.good_upd_iff] | simp only [State.good_bootUpd_iff]
    | with_reducible refine good_snd (by assumption) ?_ | with_reducible refine good_fst (by assumption) ?_
    | (simp [*]; done)

@[simp] theorem State.fill_good {kt mv : Nat} {s : State} (a : Nat) (hs : s.Good kt mv) :
    State.Good kt mv (State.fill s a) := by
  unfold State.fill
  repeat'
    first
    | with_reducible assumption | with_reducible apply State.setFE_good | with_reducible apply State.feEvent_good
    | dsimp only | split | (intro _) | with_reducible apply good_foldl | simp only [State.good_upd_iff]
    | simp only [State.good_bootUpd_iff] | with_reducible refine good_snd (by assumption) ?_
    | with_reducible refine good_fst (by assumption) ?_ | (simp [*]; done)

@[simp] theorem State.empty_good {kt mv : Nat} {s : State} (a : Nat) (hs : s.Good kt mv) :
    State.Good kt mv (State.empty s a) := by
  unfold State.empty
  repeat'
    first
    | with_reducible assumption | with_reducible apply State.setFE_good | with_reducible apply State.feEvent_good
    | dsimp only | split | (intro _) | with_reducible apply good_foldl | simp only [State.good_upd_iff]
    | simp only [State.good_bootUpd_iff] | with_reducible refine good_snd (by assumption) ?_
    | with_reducible refine good_fst (by assumption) ?_ | (simp [*]; done)

@[simp] theorem State.fillWord_good {kt mv : Nat} {s : State} (a : Nat) (v : Word) (hs : s.Good kt mv) :
    State.Good kt mv (State.fillWord s a v) := by
  unfold State.fillWord
  repeat'
    first
    | with_reducible assumption | with_reducible apply State.wrWord_good | with_reducible apply State.unpoison_good
    | with_reducible apply State.fill_good | dsimp only | split | (intro _) | with_reducible apply good_foldl
    | simp only [State.good_upd_iff] | simp only [State.good_bootUpd_iff]
    | with_reducible refine good_snd (by assumption) ?_ | with_reducible refine good_fst (by assumption) ?_
    | (simp [*]; done)

@[simp] theorem State.mailWrite_good {kt mv : Nat} (c : Nat) (q : Port) (l : List Word) :
    ∀ (o : Nat) {s : State}, s.Good kt mv → (s.mailWrite c q o l).Good kt mv := by
  induction l with
  | nil => intro o s hs; exact hs
  | cons w l ih => intro o s hs; simp only [State.mailWrite]; exact ih (o + 1) (State.fillWord_good _ w hs)

@[simp] theorem State.appendMsg_good {kt mv : Nat} {s : State} (c n p : Nat) (ws : List Word) (hs : s.Good kt mv) :
    State.Good kt mv (State.appendMsg s c n p ws) := by
  unfold State.appendMsg
  repeat'
    first
    | with_reducible assumption | with_reducible apply State.modInst_good
    | with_reducible apply State.checkReady_good | with_reducible apply State.mailWrite_good | dsimp only | split
    | (intro _) | with_reducible apply good_foldl | simp only [State.good_upd_iff]
    | simp only [State.good_bootUpd_iff] | with_reducible refine good_snd (by assumption) ?_
    | with_reducible refine good_fst (by assumption) ?_ | (simp [*]; done)

@[simp] theorem State.grainDone_good {kt mv : Nat} {s : State} (lid : BitVec 32) (c g n : Nat) (hs : s.Good kt mv) :
    State.Good kt mv (State.grainDone s lid c g n) := by
  unfold State.grainDone
  repeat'
    first
    | with_reducible assumption | with_reducible apply State.later_good | with_reducible apply State.modLaunch_good
    | dsimp only | split | (intro _) | with_reducible apply good_foldl | simp only [State.good_upd_iff]
    | simp only [State.good_bootUpd_iff] | with_reducible refine good_snd (by assumption) ?_
    | with_reducible refine good_fst (by assumption) ?_ | (simp [*]; done)

@[simp] theorem State.fcrGone_good {kt mv : Nat} {s : State} (l : Launch) (c : Nat) (f : List Word) (hs : s.Good kt mv) :
    State.Good kt mv (State.fcrGone s l c f) := by
  unfold State.fcrGone
  repeat'
    first
    | with_reducible assumption | with_reducible apply State.grainDone_good | dsimp only | split | (intro _)
    | with_reducible apply good_foldl | simp only [State.good_upd_iff] | simp only [State.good_bootUpd_iff]
    | with_reducible refine good_snd (by assumption) ?_ | with_reducible refine good_fst (by assumption) ?_
    | (simp [*]; done)

@[simp] theorem State.portPark_good {kt mv : Nat} {s : State} (fc key : Nat) (h : Hold) (hs : s.Good kt mv) :
    ∀ t, (State.portPark s fc key h) = some t → State.Good kt mv t := by
  unfold State.portPark
  intro t ht
  dsimp only at ht
  split at ht
  · cases ht
    apply State.enqueue_good
    apply State.bumpId_good
    simp only [State.good_upd_iff]
    exact hs
  · cases ht

@[simp] theorem State.holdFcr_good {kt mv : Nat} {s : State} (c : Nat) (p : Prio) (h : Hold) (hs : s.Good kt mv) :
    State.Good kt mv (State.holdFcr s c p h) := by
  unfold State.holdFcr
  repeat'
    first
    | with_reducible assumption | with_reducible apply State.modCore_good | with_reducible apply State.enqueue_good
    | with_reducible apply State.countSetFull_good | dsimp only | split | (intro _)
    | with_reducible apply good_foldl | simp only [State.good_upd_iff] | simp only [State.good_bootUpd_iff]
    | with_reducible refine good_snd (by assumption) ?_ | with_reducible refine good_fst (by assumption) ?_
    | (simp [*]; done)

@[simp] theorem State.deliver_good {kt mv : Nat} {s : State} (c : Nat) (p : Prio) (lid : BitVec 32) (home inst : Nat) (f
    : List Word) (hs : s.Good kt mv) :
    State.Good kt mv (State.deliver s c p lid home inst f) := by
  unfold State.deliver
  repeat'
    first
    | with_reducible assumption | with_reducible apply State.modLaunch_good
    | with_reducible apply State.modInst_good | with_reducible apply State.fcrGone_good
    | exact State.portPark_good _ _ _ hs _ (by assumption) | with_reducible apply State.holdFcr_good | dsimp only
    | split | (intro _) | with_reducible apply good_foldl | simp only [State.good_upd_iff]
    | simp only [State.good_bootUpd_iff] | with_reducible refine good_snd (by assumption) ?_
    | with_reducible refine good_fst (by assumption) ?_ | (simp [*]; done)

@[simp] theorem State.corruptTo_good {kt mv : Nat} {s : State} (c : Nat) (p : Prio) (lid : BitVec 32) (home inst : Nat)
    (f : List Word) (hs : s.Good kt mv) :
    State.Good kt mv (State.corruptTo s c p lid home inst f) := by
  unfold State.corruptTo
  repeat'
    first
    | with_reducible assumption | with_reducible apply State.modCore_good
    | with_reducible apply State.modLaunch_good | with_reducible apply State.poke_good
    | with_reducible apply State.modInst_good | with_reducible apply State.deliver_good | dsimp only | split
    | (intro _) | with_reducible apply good_foldl | simp only [State.good_upd_iff]
    | simp only [State.good_bootUpd_iff] | with_reducible refine good_snd (by assumption) ?_
    | with_reducible refine good_fst (by assumption) ?_ | (simp [*]; done)

@[simp] theorem State.corrupt_good {kt mv : Nat} {s : State} (c : Nat) (p : Prio) (lid : BitVec 32) (home inst : Nat) (f
    : List Word) (hs : s.Good kt mv) :
    State.Good kt mv (State.corrupt s c p lid home inst f) := by
  unfold State.corrupt
  repeat'
    first
    | with_reducible assumption | with_reducible apply State.countUncorr_good
    | with_reducible apply State.corruptTo_good | dsimp only | split | (intro _) | with_reducible apply good_foldl
    | simp only [State.good_upd_iff] | simp only [State.good_bootUpd_iff]
    | with_reducible refine good_snd (by assumption) ?_ | with_reducible refine good_fst (by assumption) ?_
    | (simp [*]; done)

@[simp] theorem State.unregister_good {kt mv : Nat} {s : State} (b : Bank) (hs : s.Good kt mv) :
    State.Good kt mv (State.unregister s b) := by
  unfold State.unregister
  repeat'
    first
    | with_reducible assumption | with_reducible apply State.freePark_good | dsimp only | split | (intro _)
    | with_reducible apply good_foldl | simp only [State.good_upd_iff] | simp only [State.good_bootUpd_iff]
    | with_reducible refine good_snd (by assumption) ?_ | with_reducible refine good_fst (by assumption) ?_
    | (simp [*]; done)

@[simp] theorem State.restIdle_good {kt mv : Nat} {s : State} (c : Nat) (hs : s.Good kt mv) :
    State.Good kt mv (State.restIdle s c) := by
  unfold State.restIdle
  repeat'
    first
    | with_reducible assumption | with_reducible apply State.modCore_good | with_reducible apply State.enqueue_good
    | dsimp only | split | (intro _) | with_reducible apply good_foldl | simp only [State.good_upd_iff]
    | simp only [State.good_bootUpd_iff] | with_reducible refine good_snd (by assumption) ?_
    | with_reducible refine good_fst (by assumption) ?_ | (simp [*]; done)

@[simp] theorem State.dropGroup_good {kt mv : Nat} {s : State} (fid : Nat) (hs : s.Good kt mv) :
    State.Good kt mv (State.dropGroup s fid) := by
  unfold State.dropGroup
  repeat'
    first
    | with_reducible assumption | dsimp only | split | (intro _) | with_reducible apply good_foldl
    | simp only [State.good_upd_iff] | simp only [State.good_bootUpd_iff]
    | with_reducible refine good_snd (by assumption) ?_ | with_reducible refine good_fst (by assumption) ?_
    | (simp [*]; done)

@[simp] theorem State.clearBank_good {kt mv : Nat} {s : State} (c : Nat) (p : Prio) (hs : s.Good kt mv) :
    State.Good kt mv (State.clearBank s c p) := by
  unfold State.clearBank
  repeat'
    first
    | with_reducible assumption | with_reducible apply State.modCore_good | with_reducible apply State.enqueue_good
    | with_reducible apply State.restIdle_good | with_reducible apply State.dropGroup_good | dsimp only | split
    | (intro _) | with_reducible apply good_foldl | simp only [State.good_upd_iff]
    | simp only [State.good_bootUpd_iff] | with_reducible refine good_snd (by assumption) ?_
    | with_reducible refine good_fst (by assumption) ?_ | (simp [*]; done)

@[simp] theorem State.endGrain_good {kt mv : Nat} {s : State} (b : Bank) (hs : s.Good kt mv) :
    State.Good kt mv (State.endGrain s b) := by
  unfold State.endGrain
  repeat'
    first
    | with_reducible assumption | with_reducible apply State.modCore_good | with_reducible apply State.enqueue_good
    | dsimp only | split | (intro _) | with_reducible apply good_foldl | simp only [State.good_upd_iff]
    | simp only [State.good_bootUpd_iff] | with_reducible refine good_snd (by assumption) ?_
    | with_reducible refine good_fst (by assumption) ?_ | (simp [*]; done)

@[simp] theorem State.loseFiring_good {kt mv : Nat} {s : State} (b : Bank) (hs : s.Good kt mv) :
    State.Good kt mv (State.loseFiring s b) := by
  unfold State.loseFiring
  repeat'
    first
    | with_reducible assumption | with_reducible apply State.modLaunch_good | with_reducible apply State.poke_good
    | with_reducible apply State.modInst_good | with_reducible apply State.checkReady_good
    | with_reducible apply State.endGrain_good | dsimp only | split | (intro _) | with_reducible apply good_foldl
    | simp only [State.good_upd_iff] | simp only [State.good_bootUpd_iff]
    | with_reducible refine good_snd (by assumption) ?_ | with_reducible refine good_fst (by assumption) ?_
    | (simp [*]; done)

@[simp] theorem State.trapDepart_good {kt mv : Nat} {s : State} (c : Nat) (p : Prio) (t : TrapInfo) (hs : s.Good kt mv) :
    State.Good kt mv (State.trapDepart s c p t) := by
  unfold State.trapDepart
  repeat'
    first
    | with_reducible assumption | with_reducible apply State.modCore_good
    | with_reducible apply State.modLaunch_good | with_reducible apply State.poke_good
    | with_reducible apply State.modInst_good | with_reducible apply State.deliver_good
    | with_reducible apply State.unregister_good | with_reducible apply State.clearBank_good
    | with_reducible apply State.endGrain_good | dsimp only | split | (intro _) | with_reducible apply good_foldl
    | simp only [State.good_upd_iff] | simp only [State.good_bootUpd_iff]
    | with_reducible refine good_snd (by assumption) ?_ | with_reducible refine good_fst (by assumption) ?_
    | (simp [*]; done)

@[simp] theorem State.parkDepart_good {kt mv : Nat} {s : State} (c : Nat) (p : Prio) (pa : Nat) (hs : s.Good kt mv) :
    State.Good kt mv (State.parkDepart s c p pa) := by
  unfold State.parkDepart
  repeat'
    first
    | with_reducible assumption | with_reducible apply State.enqueueFirst_good
    | with_reducible apply State.modPark_good | with_reducible apply State.clearBank_good
    | with_reducible apply State.trapDepart_good | dsimp only | split | (intro _) | with_reducible apply good_foldl
    | simp only [State.good_upd_iff] | simp only [State.good_bootUpd_iff]
    | with_reducible refine good_snd (by assumption) ?_ | with_reducible refine good_fst (by assumption) ?_
    | (simp [*]; done)

@[simp] theorem State.consume_good {kt mv : Nat} {s : State} (c n : Nat) (hs : s.Good kt mv) :
    State.Good kt mv (State.consume s c n) := by
  unfold State.consume
  repeat'
    first
    | with_reducible assumption | with_reducible apply State.enqueue_good
    | with_reducible apply State.modLaunch_good | with_reducible apply State.modInst_good
    | with_reducible apply State.fcrGone_good | dsimp only | split | (intro _) | with_reducible apply good_foldl
    | simp only [State.good_upd_iff] | simp only [State.good_bootUpd_iff]
    | with_reducible refine good_snd (by assumption) ?_ | with_reducible refine good_fst (by assumption) ?_
    | (simp [*]; done)

@[simp] theorem State.leaveBehind_good {kt mv : Nat} {s : State} (fid : Nat) (hs : s.Good kt mv) :
    State.Good kt mv (State.leaveBehind s fid) := by
  unfold State.leaveBehind
  repeat'
    first
    | with_reducible assumption | dsimp only | split | (intro _) | with_reducible apply good_foldl
    | simp only [State.good_upd_iff] | simp only [State.good_bootUpd_iff]
    | with_reducible refine good_snd (by assumption) ?_ | with_reducible refine good_fst (by assumption) ?_
    | (simp [*]; done)

@[simp] theorem State.endDepart_good {kt mv : Nat} {s : State} (c : Nat) (p : Prio) (hs : s.Good kt mv) :
    State.Good kt mv (State.endDepart s c p) := by
  unfold State.endDepart
  repeat'
    first
    | with_reducible assumption | with_reducible apply State.modLaunch_good | with_reducible apply State.poke_good
    | with_reducible apply State.modInst_good | with_reducible apply State.checkReady_good
    | with_reducible apply State.grainDone_good | with_reducible apply State.clearBank_good
    | with_reducible apply State.endGrain_good | with_reducible apply State.consume_good
    | with_reducible apply State.leaveBehind_good | dsimp only | split | (intro _)
    | with_reducible apply good_foldl | simp only [State.good_upd_iff] | simp only [State.good_bootUpd_iff]
    | with_reducible refine good_snd (by assumption) ?_ | with_reducible refine good_fst (by assumption) ?_
    | (simp [*]; done)

@[simp] theorem State.tryLeave_good {kt mv : Nat} {s0 : State} (c : Nat) (p : Prio) (hs0 : s0.Good kt mv) :
    State.Good kt mv (State.tryLeave s0 c p) := by
  unfold State.tryLeave
  repeat'
    first
    | with_reducible assumption | with_reducible apply State.modBank_good | with_reducible apply State.enqueue_good
    | with_reducible apply State.trapDepart_good | with_reducible apply State.parkDepart_good
    | with_reducible apply State.endDepart_good | dsimp only | split | (intro _) | with_reducible apply good_foldl
    | simp only [State.good_upd_iff] | simp only [State.good_bootUpd_iff]
    | with_reducible refine good_snd (by assumption) ?_ | with_reducible refine good_fst (by assumption) ?_
    | (simp [*]; done)

@[simp] theorem State.leaveAs_good {kt mv : Nat} {s : State} (c : Nat) (p : Prio) (l : Leaving) (hs : s.Good kt mv) :
    State.Good kt mv (State.leaveAs s c p l) := by
  unfold State.leaveAs
  repeat'
    first
    | with_reducible assumption | with_reducible apply State.modBank_good
    | with_reducible apply State.tryLeave_good | dsimp only | split | (intro _) | with_reducible apply good_foldl
    | simp only [State.good_upd_iff] | simp only [State.good_bootUpd_iff]
    | with_reducible refine good_snd (by assumption) ?_ | with_reducible refine good_fst (by assumption) ?_
    | (simp [*]; done)

@[simp] theorem State.withdraw_good {kt mv : Nat} {s : State} (c : Nat) (l : Level) (hs : s.Good kt mv) :
    State.Good kt mv (State.withdraw s c l) := by
  unfold State.withdraw
  repeat'
    first
    | with_reducible assumption | with_reducible apply State.modCore_good | dsimp only | split | (intro _)
    | with_reducible apply good_foldl | simp only [State.good_upd_iff] | simp only [State.good_bootUpd_iff]
    | with_reducible refine good_snd (by assumption) ?_ | with_reducible refine good_fst (by assumption) ?_
    | (simp [*]; done)

@[simp] theorem State.dropArrival_good {kt mv : Nat} {s : State} (c : Nat) (p : Prio) (hs : s.Good kt mv) :
    State.Good kt mv (State.dropArrival s c p) := by
  unfold State.dropArrival
  repeat'
    first
    | with_reducible assumption | with_reducible apply State.withdraw_good | dsimp only | split | (intro _)
    | with_reducible apply good_foldl | simp only [State.good_upd_iff] | simp only [State.good_bootUpd_iff]
    | with_reducible refine good_snd (by assumption) ?_ | with_reducible refine good_fst (by assumption) ?_
    | (simp [*]; done)

@[simp] theorem State.takeTrap_good {kt mv : Nat} {s : State} (c : Nat) (p : Prio) (cause : BitVec 8) (info : BitVec 48)
    (faddr : Word) (hs : s.Good kt mv) :
    State.Good kt mv (State.takeTrap s c p cause info faddr) := by
  unfold State.takeTrap
  repeat'
    first
    | with_reducible assumption | with_reducible apply State.leaveAs_good
    | with_reducible apply State.dropArrival_good | dsimp only | split | (intro _)
    | with_reducible apply good_foldl | simp only [State.good_upd_iff] | simp only [State.good_bootUpd_iff]
    | with_reducible refine good_snd (by assumption) ?_ | with_reducible refine good_fst (by assumption) ?_
    | (simp [*]; done)

@[simp] theorem State.trapHere_good {kt mv : Nat} {s : State} (cause : BitVec 8) (info : BitVec 48) (faddr : Word) (hs :
    s.Good kt mv) :
    State.Good kt mv (State.trapHere s cause info faddr) := by
  unfold State.trapHere
  repeat'
    first
    | with_reducible assumption | with_reducible apply State.takeTrap_good | dsimp only | split | (intro _)
    | with_reducible apply good_foldl | simp only [State.good_upd_iff] | simp only [State.good_bootUpd_iff]
    | with_reducible refine good_snd (by assumption) ?_ | with_reducible refine good_fst (by assumption) ?_
    | (simp [*]; done)

@[simp] theorem State.budgetEnd_good {kt mv : Nat} {s : State} (key pa : Nat) (kind : ParkKind) (hs : s.Good kt mv) :
    State.Good kt mv (State.budgetEnd s key pa kind) := by
  unfold State.budgetEnd
  repeat'
    first
    | with_reducible assumption | with_reducible apply State.leaveAs_good
    | with_reducible apply State.trapHere_good | dsimp only | split | (intro _) | with_reducible apply good_foldl
    | simp only [State.good_upd_iff] | simp only [State.good_bootUpd_iff]
    | with_reducible refine good_snd (by assumption) ?_ | with_reducible refine good_fst (by assumption) ?_
    | (simp [*]; done)

@[simp] theorem State.registerPark_good {kt mv : Nat} {s : State} (c : Nat) (p : Prio) (tower key : Nat) (kind :
    ParkKind) (hs : s.Good kt mv) :
    State.Good kt mv (State.registerPark s c p tower key kind) := by
  unfold State.registerPark
  repeat'
    first
    | with_reducible assumption | with_reducible apply State.bumpId_good
    | with_reducible apply State.countSetFull_good | dsimp only | split | (intro _)
    | with_reducible apply good_foldl | simp only [State.good_upd_iff] | simp only [State.good_bootUpd_iff]
    | with_reducible refine good_snd (by assumption) ?_ | with_reducible refine good_fst (by assumption) ?_
    | (simp [*]; done)

@[simp] theorem State.install_good {kt mv : Nat} {s : State} (c : Nat) (e : TlbEntry) (hs : s.Good kt mv) :
    State.Good kt mv (State.install s c e) := by
  unfold State.install
  repeat'
    first
    | with_reducible assumption | with_reducible apply State.modCore_good | dsimp only | split | (intro _)
    | with_reducible apply good_foldl | simp only [State.good_upd_iff] | simp only [State.good_bootUpd_iff]
    | with_reducible refine good_snd (by assumption) ?_ | with_reducible refine good_fst (by assumption) ?_
    | (simp [*]; done)

@[simp] theorem State.useEntry_good {kt mv : Nat} {s : State} (c : Nat) (e : TlbEntry) (hs : s.Good kt mv) :
    State.Good kt mv (State.useEntry s c e) := by
  unfold State.useEntry
  repeat'
    first
    | with_reducible assumption | with_reducible apply State.modCore_good | dsimp only | split | (intro _)
    | with_reducible apply good_foldl | simp only [State.good_upd_iff] | simp only [State.good_bootUpd_iff]
    | with_reducible refine good_snd (by assumption) ?_ | with_reducible refine good_fst (by assumption) ?_
    | (simp [*]; done)

@[simp] theorem State.touch_good {kt mv : Nat} {s : State} (c : Nat) (e : TlbEntry) (hs : s.Good kt mv) :
    State.Good kt mv (State.touch s c e) := by
  unfold State.touch
  repeat'
    first
    | with_reducible assumption | with_reducible apply State.modMe_good | with_reducible apply State.useEntry_good
    | dsimp only | split | (intro _) | with_reducible apply good_foldl | simp only [State.good_upd_iff]
    | simp only [State.good_bootUpd_iff] | with_reducible refine good_snd (by assumption) ?_
    | with_reducible refine good_fst (by assumption) ?_ | (simp [*]; done)

@[simp] theorem State.invalidate_good {kt mv : Nat} {s : State} (c : Nat) (x : Shoot) (hs : s.Good kt mv) :
    State.Good kt mv (State.invalidate s c x) := by
  unfold State.invalidate
  repeat'
    first
    | with_reducible assumption | with_reducible apply State.modCore_good | with_reducible apply State.covers_good
    | dsimp only | split | (intro _) | with_reducible apply good_foldl | simp only [State.good_upd_iff]
    | simp only [State.good_bootUpd_iff] | with_reducible refine good_snd (by assumption) ?_
    | with_reducible refine good_fst (by assumption) ?_ | (simp [*]; done)

@[simp] theorem State.enterService_good {kt mv : Nat} {s : State} (va : Word) (wr : Bool) (send : Option Instr) (hs :
    s.Good kt mv) :
    State.Good kt mv (State.enterService s va wr send) := by
  unfold State.enterService
  repeat'
    first
    | with_reducible assumption | with_reducible apply State.modMe_good | with_reducible apply State.enqueue_good
    | with_reducible apply State.delayed_good | with_reducible apply State.bumpId_good
    | with_reducible apply State.holdOp_good | dsimp only | split | (intro _) | with_reducible apply good_foldl
    | simp only [State.good_upd_iff] | simp only [State.good_bootUpd_iff]
    | with_reducible refine good_snd (by assumption) ?_ | with_reducible refine good_fst (by assumption) ?_
    | (simp [*]; done)

@[simp] theorem State.withPage_good {kt mv : Nat} {s : State} (rq : Req) (k : State → TlbEntry → Nat → State) (hs :
    s.Good kt mv) (hk : ∀ (a0_ : State) (a1_ : TlbEntry) (a2_ : Nat), a0_.Good kt mv → State.Good kt mv (k a0_ a1_ a2_))
    :
    State.Good kt mv (State.withPage s rq k) := by
  unfold State.withPage
  repeat'
    first
    | with_reducible assumption | with_reducible apply hk | with_reducible apply State.holdOp_good
    | with_reducible apply State.leaveAs_good | with_reducible apply State.trapHere_good
    | with_reducible apply State.touch_good | with_reducible apply State.enterService_good | dsimp only | split
    | (intro _) | with_reducible apply good_foldl | simp only [State.good_upd_iff]
    | simp only [State.good_bootUpd_iff] | with_reducible refine good_snd (by assumption) ?_
    | with_reducible refine good_fst (by assumption) ?_ | (simp [*]; done)

@[simp] theorem State.freshCode_good {kt mv : Nat} {s : State} (c i : Nat) (hs : s.Good kt mv) :
    State.Good kt mv (State.freshCode s c i) := by
  unfold State.freshCode
  repeat'
    first
    | with_reducible assumption | with_reducible apply State.modCore_good
    | with_reducible apply State.unpoison_good | dsimp only | split | (intro _) | with_reducible apply good_foldl
    | simp only [State.good_upd_iff] | simp only [State.good_bootUpd_iff]
    | with_reducible refine good_snd (by assumption) ?_ | with_reducible refine good_fst (by assumption) ?_
    | (simp [*]; done)

@[simp] theorem State.codeStore_good {kt mv : Nat} {s : State} (c i : Nat) (w : Word) (hs : s.Good kt mv) :
    State.Good kt mv (State.codeStore s c i w) := by
  unfold State.codeStore
  repeat'
    first
    | with_reducible assumption | with_reducible apply State.wrWord_good | with_reducible apply State.modLayer_good
    | with_reducible apply State.freshCode_good | dsimp only | split | (intro _) | with_reducible apply good_foldl
    | simp only [State.good_upd_iff] | simp only [State.good_bootUpd_iff]
    | with_reducible refine good_snd (by assumption) ?_ | with_reducible refine good_fst (by assumption) ?_
    | (simp [*]; done)

theorem wordList_emptyBlock {l : List Nat} (blk : Nat) (h : wordList l) : wordList (emptyBlock l blk) := by
  have hb : blockKey blk % 8 = 0 := by simp only [blockKey, linearBase]; omega
  refine ⟨?_, fun a ha => ?_⟩
  · simp only [emptyBlock]
    refine List.pairwise_append.2 ⟨List.pairwise_append.2 ⟨h.1.filter _, ?_, ?_⟩, h.1.filter _, ?_⟩
    · rw [List.pairwise_map]
      exact List.Pairwise.imp (fun hxy => by omega) List.pairwise_lt_range
    · intro a ha b hb
      simp only [List.mem_filter, decide_eq_true_eq] at ha
      simp only [List.mem_map] at hb
      obtain ⟨i, _, rfl⟩ := hb
      omega
    · intro a ha b hb
      simp only [List.mem_append, List.mem_filter, List.mem_map, decide_eq_true_eq, List.mem_range] at ha hb
      rcases ha with ha | ⟨i, hi, rfl⟩ <;> omega
  · simp only [emptyBlock, List.mem_append, List.mem_filter, List.mem_map] at ha
    rcases ha with (ha | ⟨i, _, rfl⟩) | ha
    · exact h.2 a ha.1
    · omega
    · exact h.2 a ha.1

@[simp] theorem State.clearBlock_good {kt mv : Nat} {s : State} (blk : Nat) (hs : s.Good kt mv) : (s.clearBlock
    blk).Good kt mv :=
  ⟨⟨Sparse.wf_filter _ _ _ hs.mem.bytes, wordList_emptyBlock blk hs.mem.empties, wordList_filter _ hs.mem.poison,
      wordList_filter _ hs.mem.wpoison⟩, hs.tick, hs.version⟩

@[simp] theorem State.refreshVault_good {kt mv : Nat} {s : State} (v : Nat) (hs : s.Good kt mv) :
    State.Good kt mv (State.refreshVault s v) := by
  unfold State.refreshVault
  repeat'
    first
    | with_reducible assumption | dsimp only | split | (intro _) | with_reducible apply good_foldl
    | simp only [State.good_upd_iff] | simp only [State.good_bootUpd_iff]
    | with_reducible refine good_snd (by assumption) ?_ | with_reducible refine good_fst (by assumption) ?_
    | (simp [*]; done)

@[simp] theorem State.armBlockAt_good {kt mv : Nat} {s : State} (arm life : Nat) (hot : Bool) (blk : Nat) (hs : s.Good
    kt mv) :
    State.Good kt mv (State.armBlockAt s arm life hot blk) := by
  unfold State.armBlockAt
  repeat'
    first
    | with_reducible assumption | with_reducible apply State.enqueue_good
    | with_reducible apply State.clearBlock_good | with_reducible apply State.refreshVault_good | dsimp only
    | split | (intro _) | with_reducible apply good_foldl | simp only [State.good_upd_iff]
    | simp only [State.good_bootUpd_iff] | with_reducible refine good_snd (by assumption) ?_
    | with_reducible refine good_fst (by assumption) ?_ | (simp [*]; done)

@[simp] theorem State.armBlock_good {kt mv : Nat} {s : State} (life blk : Nat) (hs : s.Good kt mv) :
    State.Good kt mv (State.armBlock s life blk) := by
  unfold State.armBlock
  repeat'
    first
    | with_reducible assumption | with_reducible apply State.armBlockAt_good | dsimp only | split | (intro _)
    | with_reducible apply good_foldl | simp only [State.good_upd_iff] | simp only [State.good_bootUpd_iff]
    | with_reducible refine good_snd (by assumption) ?_ | with_reducible refine good_fst (by assumption) ?_
    | (simp [*]; done)

@[simp] theorem State.armPageAt_good {kt mv : Nat} {s : State} (o n life : Nat) (hs : s.Good kt mv) :
    State.Good kt mv (State.armPageAt s o n life) := by
  unfold State.armPageAt
  repeat'
    first
    | with_reducible assumption | with_reducible apply State.armBlock_good | dsimp only | split | (intro _)
    | with_reducible apply good_foldl | simp only [State.good_upd_iff] | simp only [State.good_bootUpd_iff]
    | with_reducible refine good_snd (by assumption) ?_ | with_reducible refine good_fst (by assumption) ?_
    | (simp [*]; done)

@[simp] theorem State.placeRead'_good {kt mv : Nat} {s : State} (pa : Nat) (hs : s.Good kt mv) :
    State.Good kt mv (State.placeRead' s pa) := by
  unfold State.placeRead'
  repeat'
    first
    | with_reducible assumption | with_reducible apply State.bumpFree_good | dsimp only | split | (intro _)
    | with_reducible apply good_foldl | simp only [State.good_upd_iff] | simp only [State.good_bootUpd_iff]
    | with_reducible refine good_snd (by assumption) ?_ | with_reducible refine good_fst (by assumption) ?_
    | (simp [*]; done)

@[simp] theorem State.placeWrite_good {kt mv : Nat} {s : State} (pa key n v : Nat) (hs : s.Good kt mv) :
    State.Good kt mv (State.placeWrite s pa key n v) := by
  unfold State.placeWrite
  repeat'
    first
    | with_reducible assumption | with_reducible apply State.modCore_good | with_reducible apply State.wrN_good
    | with_reducible apply State.ctlWriteN_good | with_reducible apply State.codeStore_good | dsimp only | split
    | (intro _) | with_reducible apply good_foldl | simp only [State.good_upd_iff]
    | simp only [State.good_bootUpd_iff] | with_reducible refine good_snd (by assumption) ?_
    | with_reducible refine good_fst (by assumption) ?_ | (simp [*]; done)

@[simp] theorem State.setBit_good {kt mv : Nat} {s : State} (lid : BitVec 32) (va pa key : Nat) (full : Bool) (hs :
    s.Good kt mv) :
    State.Good kt mv (State.setBit s lid va pa key full) := by
  unfold State.setBit
  repeat'
    first
    | with_reducible assumption | with_reducible apply State.feEvent_good | with_reducible apply State.fill_good
    | with_reducible apply State.empty_good | dsimp only | split | (intro _) | with_reducible apply good_foldl
    | simp only [State.good_upd_iff] | simp only [State.good_bootUpd_iff]
    | with_reducible refine good_snd (by assumption) ?_ | with_reducible refine good_fst (by assumption) ?_
    | (simp [*]; done)

@[simp] theorem State.guarded_good {kt mv : Nat} {s : State} (pa key : Nat) (r : Answer × State) (hs : s.Good kt mv) (hr
    : r.2.Good kt mv) :
    State.Good kt mv (State.guarded s pa key r).2 := by
  unfold State.guarded
  repeat'
    first
    | with_reducible assumption | dsimp only | split | (intro _) | with_reducible apply good_foldl
    | simp only [State.good_upd_iff] | simp only [State.good_bootUpd_iff]
    | with_reducible refine good_snd (by assumption) ?_ | with_reducible refine good_fst (by assumption) ?_
    | (simp [*]; done)

@[simp] theorem State.sound_good {kt mv : Nat} {s : State} (key : Nat) (r : Answer × State) (hs : s.Good kt mv) (hr :
    r.2.Good kt mv) :
    State.Good kt mv (State.sound s key r).2 := by
  unfold State.sound
  repeat'
    first
    | with_reducible assumption | dsimp only | split | (intro _) | with_reducible apply good_foldl
    | simp only [State.good_upd_iff] | simp only [State.good_bootUpd_iff]
    | with_reducible refine good_snd (by assumption) ?_ | with_reducible refine good_fst (by assumption) ?_
    | (simp [*]; done)

@[simp] theorem State.rmw_good {kt mv : Nat} {s : State} (tr : Bool) (pa key n : Nat) (f : Nat → Option Nat) (hs :
    s.Good kt mv) :
    State.Good kt mv (State.rmw s tr pa key n f).2 := by
  unfold State.rmw
  repeat'
    first
    | with_reducible assumption | with_reducible apply State.placeRead'_good
    | with_reducible apply State.placeWrite_good | with_reducible apply State.guarded_good | dsimp only | split
    | (intro _) | with_reducible apply good_foldl | simp only [State.good_upd_iff]
    | simp only [State.good_bootUpd_iff] | with_reducible refine good_snd (by assumption) ?_
    | with_reducible refine good_fst (by assumption) ?_ | (simp [*]; done)

@[simp] theorem State.fillAt_good {kt mv : Nat} {s : State} (pa key : Nat) (v : Word) (hs : s.Good kt mv) :
    State.Good kt mv (State.fillAt s pa key v) := by
  unfold State.fillAt
  repeat'
    first
    | with_reducible assumption | with_reducible apply State.unpoison_good | with_reducible apply State.fill_good
    | with_reducible apply State.placeWrite_good | dsimp only | split | (intro _) | with_reducible apply good_foldl
    | simp only [State.good_upd_iff] | simp only [State.good_bootUpd_iff]
    | with_reducible refine good_snd (by assumption) ?_ | with_reducible refine good_fst (by assumption) ?_
    | (simp [*]; done)

@[simp] theorem State.storeRun_good {kt mv : Nat} {s : State} (tr : Bool) (pa : Nat) (x_ : List Word) (hs : s.Good kt mv) :
    State.Good kt mv (State.storeRun s tr pa x_) := by
  induction x_ generalizing s tr pa with
  | nil =>
    simp only [State.storeRun]
    repeat'
      first
      | with_reducible assumption | with_reducible apply ih | with_reducible apply State.unpoison_good
      | with_reducible apply State.placeWrite_good | dsimp only | split | (intro _)
      | with_reducible apply good_foldl | simp only [State.good_upd_iff] | simp only [State.good_bootUpd_iff]
      | with_reducible refine good_snd (by assumption) ?_ | with_reducible refine good_fst (by assumption) ?_
      | (simp [*]; done)
  | cons y_ l_ ih =>
    simp only [State.storeRun]
    repeat'
      first
      | with_reducible assumption | with_reducible apply ih | with_reducible apply State.unpoison_good
      | with_reducible apply State.placeWrite_good | dsimp only | split | (intro _)
      | with_reducible apply good_foldl | simp only [State.good_upd_iff] | simp only [State.good_bootUpd_iff]
      | with_reducible refine good_snd (by assumption) ?_ | with_reducible refine good_fst (by assumption) ?_
      | (simp [*]; done)

@[simp] theorem State.doOp_good {kt mv : Nat} {s : State} (lid : BitVec 32) (op : AccOp) (va pa key : Nat) (tr : Bool)
    (hs : s.Good kt mv) :
    State.Good kt mv (State.doOp s lid op va pa key tr).2 := by
  unfold State.doOp
  repeat'
    first
    | with_reducible assumption | with_reducible apply State.unpoison_good | with_reducible apply State.heal_good
    | with_reducible apply State.fill_good | with_reducible apply State.empty_good
    | with_reducible apply State.armPageAt_good | with_reducible apply State.placeRead'_good
    | with_reducible apply State.placeWrite_good | with_reducible apply State.setBit_good
    | with_reducible apply State.guarded_good | with_reducible apply State.sound_good
    | with_reducible apply State.rmw_good | with_reducible apply State.fillAt_good
    | with_reducible apply State.storeRun_good | with_reducible apply State.loadWords_good | dsimp only | split
    | (intro _) | with_reducible apply good_foldl | simp only [State.good_upd_iff]
    | simp only [State.good_bootUpd_iff] | with_reducible refine good_snd (by assumption) ?_
    | with_reducible refine good_fst (by assumption) ?_ | (simp [*]; done)

@[simp] theorem State.meetRun_good {kt mv : Nat} {s : State} (pa : Nat) (x_ : AccOp) (hs : s.Good kt mv) :
    State.Good kt mv (State.meetRun s pa x_) := by
  cases x_ <;> simp only [State.meetRun]
  all_goals
    repeat'
      first
      | with_reducible assumption | with_reducible apply State.meet_good
      | with_reducible apply State.meetBlock_good | with_reducible apply State.loadWords_good | dsimp only | split
      | (intro _) | with_reducible apply good_foldl | simp only [State.good_upd_iff]
      | simp only [State.good_bootUpd_iff] | with_reducible refine good_snd (by assumption) ?_
      | with_reducible refine good_fst (by assumption) ?_ | (simp [*]; done)

@[simp] theorem State.atPlace_good {kt mv : Nat} {s : State} (lid : BitVec 32) (op : AccOp) (va pa key : Nat) (tr :
    Bool) (hs : s.Good kt mv) :
    State.Good kt mv (State.atPlace s lid op va pa key tr).2 := by
  unfold State.atPlace
  repeat'
    first
    | with_reducible assumption | with_reducible apply State.meet_good | with_reducible apply State.meetBlock_good
    | with_reducible apply State.doOp_good | with_reducible apply State.meetRun_good | dsimp only | split
    | (intro _) | with_reducible apply good_foldl | simp only [State.good_upd_iff]
    | simp only [State.good_bootUpd_iff] | with_reducible refine good_snd (by assumption) ?_
    | with_reducible refine good_fst (by assumption) ?_ | (simp [*]; done)

@[simp] theorem State.openRow_good {kt mv : Nat} {s : State} (ag : Agent) (pa : Nat) (hs : s.Good kt mv) :
    State.Good kt mv (State.openRow s ag pa) := by
  unfold State.openRow
  repeat'
    first
    | with_reducible assumption | dsimp only | split | (intro _) | with_reducible apply good_foldl
    | simp only [State.good_upd_iff] | simp only [State.good_bootUpd_iff]
    | with_reducible refine good_snd (by assumption) ?_ | with_reducible refine good_fst (by assumption) ?_
    | (simp [*]; done)

@[simp] theorem State.replayIn_good {kt mv : Nat} {s : State} (d : Nat) (hs : s.Good kt mv) :
    State.Good kt mv (State.replayIn s d) := by
  unfold State.replayIn
  repeat'
    first
    | with_reducible assumption | with_reducible apply State.countCorr_good | dsimp only | split | (intro _)
    | with_reducible apply good_foldl | simp only [State.good_upd_iff] | simp only [State.good_bootUpd_iff]
    | with_reducible refine good_snd (by assumption) ?_ | with_reducible refine good_fst (by assumption) ?_
    | (simp [*]; done)

@[simp] theorem State.heard_good {kt mv : Nat} {s : State} (hs : s.Good kt mv) :
    State.Good kt mv (State.heard s) := by
  unfold State.heard
  repeat'
    first
    | with_reducible assumption | dsimp only | split | (intro _) | with_reducible apply good_foldl
    | simp only [State.good_upd_iff] | simp only [State.good_bootUpd_iff]
    | with_reducible refine good_snd (by assumption) ?_ | with_reducible refine good_fst (by assumption) ?_
    | (simp [*]; done)

@[simp] theorem State.crossing_good {kt mv : Nat} {s : State} (hs : s.Good kt mv) :
    State.Good kt mv (State.crossing s) := by
  unfold State.crossing
  repeat'
    first
    | with_reducible assumption | with_reducible apply State.replayIn_good | with_reducible apply State.heard_good
    | dsimp only | split | (intro _) | with_reducible apply good_foldl | simp only [State.good_upd_iff]
    | simp only [State.good_bootUpd_iff] | with_reducible refine good_snd (by assumption) ?_
    | with_reducible refine good_fst (by assumption) ?_ | (simp [*]; done)

@[simp] theorem State.tlp_good {kt mv : Nat} {s : State} (hs : s.Good kt mv) :
    State.Good kt mv (State.tlp s) := by
  unfold State.tlp
  repeat'
    first
    | with_reducible assumption | with_reducible apply State.replayIn_good | with_reducible apply State.heard_good
    | dsimp only | split | (intro _) | with_reducible apply good_foldl | simp only [State.good_upd_iff]
    | simp only [State.good_bootUpd_iff] | with_reducible refine good_snd (by assumption) ?_
    | with_reducible refine good_fst (by assumption) ?_ | (simp [*]; done)

@[simp] theorem State.travel_good {kt mv : Nat} {s : State} (c : Nat) (ag : Agent) (pa : Nat) (hs : s.Good kt mv) :
    State.Good kt mv (State.travel s c ag pa) := by
  unfold State.travel
  repeat'
    first
    | with_reducible assumption | with_reducible apply State.later_good | with_reducible apply State.crossing_good
    | with_reducible apply State.tlp_good | dsimp only | split | (intro _) | with_reducible apply good_foldl
    | simp only [State.good_upd_iff] | simp only [State.good_bootUpd_iff]
    | with_reducible refine good_snd (by assumption) ?_ | with_reducible refine good_fst (by assumption) ?_
    | (simp [*]; done)

@[simp] theorem State.dropAccess_good {kt mv : Nat} {s : State} (id : Nat) (hs : s.Good kt mv) :
    State.Good kt mv (State.dropAccess s id) := by
  unfold State.dropAccess
  repeat'
    first
    | with_reducible assumption | dsimp only | split | (intro _) | with_reducible apply good_foldl
    | simp only [State.good_upd_iff] | simp only [State.good_bootUpd_iff]
    | with_reducible refine good_snd (by assumption) ?_ | with_reducible refine good_fst (by assumption) ?_
    | (simp [*]; done)

@[simp] theorem State.markDone_good {kt mv : Nat} {s : State} (id : Nat) (ans : Answer) (hs : s.Good kt mv) :
    State.Good kt mv (State.markDone s id ans) := by
  unfold State.markDone
  repeat'
    first
    | with_reducible assumption | dsimp only | split | (intro _) | with_reducible apply good_foldl
    | simp only [State.good_upd_iff] | simp only [State.good_bootUpd_iff]
    | with_reducible refine good_snd (by assumption) ?_ | with_reducible refine good_fst (by assumption) ?_
    | (simp [*]; done)

@[simp] theorem State.performAt_good {kt mv : Nat} {s : State} (a : Access) (hs : s.Good kt mv) :
    State.Good kt mv (State.performAt s a).2 := by
  unfold State.performAt
  repeat'
    first
    | with_reducible assumption | with_reducible apply State.registerPark_good
    | with_reducible apply State.atPlace_good | dsimp only | split | (intro _) | with_reducible apply good_foldl
    | simp only [State.good_upd_iff] | simp only [State.good_bootUpd_iff]
    | with_reducible refine good_snd (by assumption) ?_ | with_reducible refine good_fst (by assumption) ?_
    | (simp [*]; done)

@[simp] theorem State.engineMet_good {kt mv : Nat} {s : State} (a : Access) (x_ : Answer) (hs : s.Good kt mv) :
    State.Good kt mv (State.engineMet s a x_) := by
  cases x_ <;> simp only [State.engineMet]
  all_goals
    repeat'
      first
      | with_reducible assumption | with_reducible apply State.countUncorr_good | dsimp only | split | (intro _)
      | with_reducible apply good_foldl | simp only [State.good_upd_iff] | simp only [State.good_bootUpd_iff]
      | with_reducible refine good_snd (by assumption) ?_ | with_reducible refine good_fst (by assumption) ?_
      | (simp [*]; done)

@[simp] theorem State.giveAnswer_good {kt mv : Nat} {s : State} (a : Access) (ans : Answer) (hs : s.Good kt mv) :
    State.Good kt mv (State.giveAnswer s a ans) := by
  unfold State.giveAnswer
  repeat'
    first
    | with_reducible assumption | with_reducible apply State.modBank_good
    | with_reducible apply State.countUncorr_good | with_reducible apply State.poke_good
    | with_reducible apply State.dropAccess_good | with_reducible apply State.engineMet_good | dsimp only | split
    | (intro _) | with_reducible apply good_foldl | simp only [State.good_upd_iff]
    | simp only [State.good_bootUpd_iff] | with_reducible refine good_snd (by assumption) ?_
    | with_reducible refine good_fst (by assumption) ?_ | (simp [*]; done)

@[simp] theorem State.visit_good {kt mv : Nat} {s : State} (c : Nat) (ag : Agent) (pa : Nat) (hs : s.Good kt mv) :
    State.Good kt mv (State.visit s c ag pa) := by
  unfold State.visit
  repeat'
    first
    | with_reducible assumption | with_reducible apply State.openRow_good | with_reducible apply State.travel_good
    | dsimp only | split | (intro _) | with_reducible apply good_foldl | simp only [State.good_upd_iff]
    | simp only [State.good_bootUpd_iff] | with_reducible refine good_snd (by assumption) ?_
    | with_reducible refine good_fst (by assumption) ?_ | (simp [*]; done)

@[simp] theorem State.call_good {kt mv : Nat} {s : State} (pa : Nat) (hs : s.Good kt mv) :
    State.Good kt mv (State.call s pa) := by
  unfold State.call
  repeat'
    first
    | with_reducible assumption | with_reducible apply State.visit_good | dsimp only | split | (intro _)
    | with_reducible apply good_foldl | simp only [State.good_upd_iff] | simp only [State.good_bootUpd_iff]
    | with_reducible refine good_snd (by assumption) ?_ | with_reducible refine good_fst (by assumption) ?_
    | (simp [*]; done)

@[simp] theorem State.answerIn_good {kt mv : Nat} {s : State} (a : Access) (d : Nat) (hs : s.Good kt mv) :
    State.Good kt mv (State.answerIn s a d) := by
  unfold State.answerIn
  repeat'
    first
    | with_reducible assumption | with_reducible apply State.enqueue_good | with_reducible apply State.travel_good
    | dsimp only | split | (intro _) | with_reducible apply good_foldl | simp only [State.good_upd_iff]
    | simp only [State.good_bootUpd_iff] | with_reducible refine good_snd (by assumption) ?_
    | with_reducible refine good_fst (by assumption) ?_ | (simp [*]; done)

@[simp] theorem State.missAt_good {kt mv : Nat} {s : State} (a : Access) (hs : s.Good kt mv) :
    State.Good kt mv (State.missAt s a) := by
  unfold State.missAt
  repeat'
    first
    | with_reducible assumption | with_reducible apply State.enqueue_good | with_reducible apply State.delayed_good
    | with_reducible apply State.call_good | with_reducible apply State.answerIn_good
    | with_reducible apply State.accessArrive_good | dsimp only | split | (intro _)
    | with_reducible apply good_foldl | simp only [State.good_upd_iff] | simp only [State.good_bootUpd_iff]
    | with_reducible refine good_snd (by assumption) ?_ | with_reducible refine good_fst (by assumption) ?_
    | (simp [*]; done)

@[simp] theorem State.missVault_good {kt mv : Nat} {s : State} (a : Access) (hs : s.Good kt mv) :
    State.Good kt mv (State.missVault s a) := by
  unfold State.missVault
  repeat'
    first
    | with_reducible assumption | with_reducible apply State.enqueueFirst_good
    | with_reducible apply State.delayed_good | with_reducible apply State.call_good
    | with_reducible apply State.answerIn_good | with_reducible apply State.accessArrive_good | dsimp only | split
    | (intro _) | with_reducible apply good_foldl | simp only [State.good_upd_iff]
    | simp only [State.good_bootUpd_iff] | with_reducible refine good_snd (by assumption) ?_
    | with_reducible refine good_fst (by assumption) ?_ | (simp [*]; done)

@[simp] theorem State.arrive_good {kt mv : Nat} {s : State} (a : Access) (hs : s.Good kt mv) :
    State.Good kt mv (State.arrive s a) := by
  unfold State.arrive
  repeat'
    first
    | with_reducible assumption | with_reducible apply State.modBank_good | with_reducible apply State.delayed_good
    | with_reducible apply State.bumpFree_good | with_reducible apply State.dropAccess_good
    | with_reducible apply State.markDone_good | with_reducible apply State.performAt_good
    | with_reducible apply State.giveAnswer_good | with_reducible apply State.visit_good
    | with_reducible apply State.answerIn_good | with_reducible apply State.missAt_good | dsimp only | split
    | (intro _) | with_reducible apply good_foldl | simp only [State.good_upd_iff]
    | simp only [State.good_bootUpd_iff] | with_reducible refine good_snd (by assumption) ?_
    | with_reducible refine good_fst (by assumption) ?_ | (simp [*]; done)

@[simp] theorem State.sendOver_good {kt mv : Nat} {s : State} (l : Nat) (x : OutPk) (hs : s.Good kt mv) :
    State.Good kt mv (State.sendOver s l x) := by
  unfold State.sendOver
  repeat'
    first
    | with_reducible assumption | with_reducible apply State.later_good | with_reducible apply State.modSpan_good
    | dsimp only | split | (intro _) | with_reducible apply good_foldl | simp only [State.good_upd_iff]
    | simp only [State.good_bootUpd_iff] | with_reducible refine good_snd (by assumption) ?_
    | with_reducible refine good_fst (by assumption) ?_ | (simp [*]; done)

@[simp] theorem State.sendOut_good {kt mv : Nat} {s : State} (x : OutPk) (hs : s.Good kt mv) :
    State.Good kt mv (State.sendOut s x) := by
  unfold State.sendOut
  repeat'
    first
    | with_reducible assumption | with_reducible apply State.sendOver_good | dsimp only | split | (intro _)
    | with_reducible apply good_foldl | simp only [State.good_upd_iff] | simp only [State.good_bootUpd_iff]
    | with_reducible refine good_snd (by assumption) ?_ | with_reducible refine good_fst (by assumption) ?_
    | (simp [*]; done)

@[simp] theorem State.toSpan_good {kt mv : Nat} {s : State} (p : BitVec 12) (x : Packet) (hs : s.Good kt mv) :
    State.Good kt mv (State.toSpan s p x) := by
  unfold State.toSpan
  repeat'
    first
    | with_reducible assumption | with_reducible apply State.sendOut_good | dsimp only | split | (intro _)
    | with_reducible apply good_foldl | simp only [State.good_upd_iff] | simp only [State.good_bootUpd_iff]
    | with_reducible refine good_snd (by assumption) ?_ | with_reducible refine good_fst (by assumption) ?_
    | (simp [*]; done)

@[simp] theorem State.sendRequest_good {kt mv : Nat} {s : State} (a : Access) (hs : s.Good kt mv) :
    State.Good kt mv (State.sendRequest s a) := by
  unfold State.sendRequest
  repeat'
    first
    | with_reducible assumption | with_reducible apply State.toSpan_good | dsimp only | split | (intro _)
    | with_reducible apply good_foldl | simp only [State.good_upd_iff] | simp only [State.good_bootUpd_iff]
    | with_reducible refine good_snd (by assumption) ?_ | with_reducible refine good_fst (by assumption) ?_
    | (simp [*]; done)

@[simp] theorem State.keepHome_good {kt mv : Nat} {s : State} (a : Access) (hs : s.Good kt mv) :
    State.Good kt mv (State.keepHome s a) := by
  unfold State.keepHome
  repeat'
    first
    | with_reducible assumption | dsimp only | split | (intro _) | with_reducible apply good_foldl
    | simp only [State.good_upd_iff] | simp only [State.good_bootUpd_iff]
    | with_reducible refine good_snd (by assumption) ?_ | with_reducible refine good_fst (by assumption) ?_
    | (simp [*]; done)

@[simp] theorem State.keepLate_good {kt mv : Nat} {s : State} (a : Access) (hs : s.Good kt mv) :
    State.Good kt mv (State.keepLate s a) := by
  unfold State.keepLate
  repeat'
    first
    | with_reducible assumption | dsimp only | split | (intro _) | with_reducible apply good_foldl
    | simp only [State.good_upd_iff] | simp only [State.good_bootUpd_iff]
    | with_reducible refine good_snd (by assumption) ?_ | with_reducible refine good_fst (by assumption) ?_
    | (simp [*]; done)

@[simp] theorem State.accessArrive_good {kt mv : Nat} {s : State} (a : Access) (hs : s.Good kt mv) :
    State.Good kt mv (State.accessArrive s a) := by
  unfold State.accessArrive
  repeat'
    first
    | with_reducible assumption | with_reducible apply State.enqueue_good
    | with_reducible apply State.enqueueFirst_good | with_reducible apply State.visit_good
    | with_reducible apply State.missVault_good | with_reducible apply State.arrive_good
    | with_reducible apply State.sendRequest_good | with_reducible apply State.keepHome_good
    | with_reducible apply State.keepLate_good | dsimp only | split | (intro _) | with_reducible apply good_foldl
    | simp only [State.good_upd_iff] | simp only [State.good_bootUpd_iff]
    | with_reducible refine good_snd (by assumption) ?_ | with_reducible refine good_fst (by assumption) ?_
    | (simp [*]; done)

@[simp] theorem State.depart_good {kt mv : Nat} {s : State} (a : Access) (hs : s.Good kt mv) :
    State.Good kt mv (State.depart s a) := by
  unfold State.depart
  repeat'
    first
    | with_reducible assumption | with_reducible apply State.modMe_good | with_reducible apply State.enqueue_good
    | with_reducible apply State.delayed_good | with_reducible apply State.bumpId_good
    | with_reducible apply State.accessArrive_good | dsimp only | split | (intro _)
    | with_reducible apply good_foldl | simp only [State.good_upd_iff] | simp only [State.good_bootUpd_iff]
    | with_reducible refine good_snd (by assumption) ?_ | with_reducible refine good_fst (by assumption) ?_
    | (simp [*]; done)

@[simp] theorem State.launchAccess_good {kt mv : Nat} {s : State} (e : TlbEntry) (pa : Nat) (op : AccOp) (va : Word)
    (dst : Option (Reg × Option Nat)) (st : Option Reg) (acq : Bool) (rel : Option Scope) (reg : Option ParkKind) (hs :
    s.Good kt mv) :
    State.Good kt mv (State.launchAccess s e pa op va dst st acq rel reg) := by
  unfold State.launchAccess
  repeat'
    first
    | with_reducible assumption | with_reducible apply State.depart_good | dsimp only | split | (intro _)
    | with_reducible apply good_foldl | simp only [State.good_upd_iff] | simp only [State.good_bootUpd_iff]
    | with_reducible refine good_snd (by assumption) ?_ | with_reducible refine good_fst (by assumption) ?_
    | (simp [*]; done)

@[simp] theorem State.noRoute_good {kt mv : Nat} {s : State} (pa : Nat) (hs : s.Good kt mv) :
    State.Good kt mv (State.noRoute s pa) := by
  unfold State.noRoute
  repeat'
    first
    | with_reducible assumption | with_reducible apply State.trapHere_good | dsimp only | split | (intro _)
    | with_reducible apply good_foldl | simp only [State.good_upd_iff] | simp only [State.good_bootUpd_iff]
    | with_reducible refine good_snd (by assumption) ?_ | with_reducible refine good_fst (by assumption) ?_
    | (simp [*]; done)

@[simp] theorem State.alu2_good {kt mv : Nat} {s : State} (lat : Nat) (d a b : Reg) (f : Word → Word → Word) (hs :
    s.Good kt mv) :
    OutGood kt mv (State.alu2 s lat d a b f) := by
  unfold State.alu2
  repeat'
    first
    | with_reducible assumption | with_reducible apply State.wrA_good | exact outGood_fault | exact outGood_refused
    | with_reducible apply outGood_next | dsimp only | split | (intro _) | with_reducible apply good_foldl
    | simp only [State.good_upd_iff] | simp only [State.good_bootUpd_iff]
    | with_reducible refine good_snd (by assumption) ?_ | with_reducible refine good_fst (by assumption) ?_
    | (simp [*]; done)

@[simp] theorem State.alu1_good {kt mv : Nat} {s : State} (lat : Nat) (d a : Reg) (f : Word → Word) (hs : s.Good kt mv) :
    OutGood kt mv (State.alu1 s lat d a f) := by
  unfold State.alu1
  repeat'
    first
    | with_reducible assumption | with_reducible apply State.wrA_good | exact outGood_fault | exact outGood_refused
    | with_reducible apply outGood_next | dsimp only | split | (intro _) | with_reducible apply good_foldl
    | simp only [State.good_upd_iff] | simp only [State.good_bootUpd_iff]
    | with_reducible refine good_snd (by assumption) ?_ | with_reducible refine good_fst (by assumption) ?_
    | (simp [*]; done)

@[simp] theorem State.aluF_good {kt mv : Nat} {s : State} (lat : Nat) (d : Reg) (r : FRes) (hs : s.Good kt mv) :
    OutGood kt mv (State.aluF s lat d r) := by
  unfold State.aluF
  repeat'
    first
    | with_reducible assumption | with_reducible apply State.wrAF_good | exact outGood_fault
    | exact outGood_refused | with_reducible apply outGood_next | dsimp only | split | (intro _)
    | with_reducible apply good_foldl | simp only [State.good_upd_iff] | simp only [State.good_bootUpd_iff]
    | with_reducible refine good_snd (by assumption) ?_ | with_reducible refine good_fst (by assumption) ?_
    | (simp [*]; done)

@[simp] theorem State.setC_good {kt mv : Nat} {s : State} (d : Reg) (v : Word) (hs : s.Good kt mv) :
    OutGood kt mv (State.setC s d v) := by
  unfold State.setC
  repeat'
    first
    | with_reducible assumption | with_reducible apply State.wrC_good | with_reducible apply State.issue_good
    | exact outGood_fault | exact outGood_refused | with_reducible apply outGood_next | dsimp only | split
    | (intro _) | with_reducible apply good_foldl | simp only [State.good_upd_iff]
    | simp only [State.good_bootUpd_iff] | with_reducible refine good_snd (by assumption) ?_
    | with_reducible refine good_fst (by assumption) ?_ | (simp [*]; done)

@[simp] theorem State.branch_good {kt mv : Nat} {s : State} (taken n : Bool) (t : Bundle13) (hs : s.Good kt mv) :
    OutGood kt mv (State.branch s taken n t) := by
  unfold State.branch
  repeat'
    first
    | with_reducible assumption | with_reducible apply State.issue_good | with_reducible apply State.flow_good
    | exact outGood_fault | exact outGood_refused | with_reducible apply outGood_next | dsimp only | split
    | (intro _) | with_reducible apply good_foldl | simp only [State.good_upd_iff]
    | simp only [State.good_bootUpd_iff] | with_reducible refine good_snd (by assumption) ?_
    | with_reducible refine good_fst (by assumption) ?_ | (simp [*]; done)

@[simp] theorem State.dropStore_good {kt mv : Nat} {s : State} (pa : Nat) (hs : s.Good kt mv) :
    State.Good kt mv (State.dropStore s pa) := by
  unfold State.dropStore
  repeat'
    first
    | with_reducible assumption | with_reducible apply State.modMe_good | dsimp only | split | (intro _)
    | with_reducible apply good_foldl | simp only [State.good_upd_iff] | simp only [State.good_bootUpd_iff]
    | with_reducible refine good_snd (by assumption) ?_ | with_reducible refine good_fst (by assumption) ?_
    | (simp [*]; done)

@[simp] theorem State.loadGo_good {kt mv : Nat} {s : State} (rq : Req) (op : AccOp) (dst : Option (Reg × Option Nat))
    (st : Option Reg) (acq : Bool) (rel : Option Scope) (hs : s.Good kt mv) :
    State.Good kt mv (State.loadGo s rq op dst st acq rel) := by
  unfold State.loadGo
  repeat'
    first
    | with_reducible assumption | with_reducible apply State.issue_good | with_reducible apply State.withPage_good
    | with_reducible apply State.launchAccess_good | with_reducible apply State.noRoute_good | dsimp only | split
    | (intro _) | with_reducible apply good_foldl | simp only [State.good_upd_iff]
    | simp only [State.good_bootUpd_iff] | with_reducible refine good_snd (by assumption) ?_
    | with_reducible refine good_fst (by assumption) ?_ | (simp [*]; done)

@[simp] theorem State.storeGo_good {kt mv : Nat} {s : State} (rq : Req) (op : AccOp) (rel : Option Scope) (hs : s.Good
    kt mv) :
    State.Good kt mv (State.storeGo s rq op rel) := by
  unfold State.storeGo
  repeat'
    first
    | with_reducible assumption | with_reducible apply State.issue_good | with_reducible apply State.hold_good
    | with_reducible apply State.withPage_good | with_reducible apply State.launchAccess_good
    | with_reducible apply State.noRoute_good | with_reducible apply State.dropStore_good | dsimp only | split
    | (intro _) | with_reducible apply good_foldl | simp only [State.good_upd_iff]
    | simp only [State.good_bootUpd_iff] | with_reducible refine good_snd (by assumption) ?_
    | with_reducible refine good_fst (by assumption) ?_ | (simp [*]; done)

@[simp] theorem State.prefetch_good {kt mv : Nat} {s : State} (va : Word) (hs : s.Good kt mv) :
    State.Good kt mv (State.prefetch s va) := by
  unfold State.prefetch
  repeat'
    first
    | with_reducible assumption | with_reducible apply State.bumpFree_good | with_reducible apply State.issue_good
    | with_reducible apply State.meetBlock_good | with_reducible apply State.useEntry_good | dsimp only | split
    | (intro _) | with_reducible apply good_foldl | simp only [State.good_upd_iff]
    | simp only [State.good_bootUpd_iff] | with_reducible refine good_snd (by assumption) ?_
    | with_reducible refine good_fst (by assumption) ?_ | (simp [*]; done)

@[simp] theorem State.settle_good {kt mv : Nat} {s : State} (w : Wait) (n key pa lat : Nat) (a : Answer) (hs : s.Good kt mv) :
    State.Good kt mv (State.settle s w n key pa lat a) := by
  unfold State.settle
  repeat'
    first
    | with_reducible assumption | with_reducible apply State.modMe_good | with_reducible apply State.wrC_good
    | with_reducible apply State.enqueue_good | with_reducible apply State.issue_good
    | with_reducible apply State.holdOp_good | with_reducible apply State.countUncorr_good
    | with_reducible apply State.trapHere_good | with_reducible apply State.budgetEnd_good | dsimp only | split
    | (intro _) | with_reducible apply good_foldl | simp only [State.good_upd_iff]
    | simp only [State.good_bootUpd_iff] | with_reducible refine good_snd (by assumption) ?_
    | with_reducible refine good_fst (by assumption) ?_ | (simp [*]; done)

@[simp] theorem State.attempt_good {kt mv : Nat} {s : State} (w : Wait) (n : Nat) (hs : s.Good kt mv) :
    State.Good kt mv (State.attempt s w n) := by
  unfold State.attempt
  repeat'
    first
    | with_reducible assumption | with_reducible apply State.modMe_good | with_reducible apply State.holdOp_good
    | with_reducible apply State.withPage_good | with_reducible apply State.launchAccess_good
    | with_reducible apply State.noRoute_good | with_reducible apply State.settle_good | dsimp only | split
    | (intro _) | with_reducible apply good_foldl | simp only [State.good_upd_iff]
    | simp only [State.good_bootUpd_iff] | with_reducible refine good_snd (by assumption) ?_
    | with_reducible refine good_fst (by assumption) ?_ | (simp [*]; done)

@[simp] theorem State.failedSuspended_good {kt mv : Nat} {s : State} (w : Wait) (n key pa lat : Nat) (hs : s.Good kt mv) :
    State.Good kt mv (State.failedSuspended s w n key pa lat) := by
  unfold State.failedSuspended
  repeat'
    first
    | with_reducible assumption | with_reducible apply State.modMe_good | with_reducible apply State.freePark_good
    | with_reducible apply State.settle_good | with_reducible apply State.attempt_good | dsimp only | split
    | (intro _) | with_reducible apply good_foldl | simp only [State.good_upd_iff]
    | simp only [State.good_bootUpd_iff] | with_reducible refine good_snd (by assumption) ?_
    | with_reducible refine good_fst (by assumption) ?_ | (simp [*]; done)

@[simp] theorem State.waitFE_good {kt mv : Nat} {s : State} (w : Wait) (hs : s.Good kt mv) :
    State.Good kt mv (State.waitFE s w) := by
  unfold State.waitFE
  repeat'
    first
    | with_reducible assumption | with_reducible apply State.issue_good | with_reducible apply State.holdOp_good
    | with_reducible apply State.budgetEnd_good | with_reducible apply State.settle_good
    | with_reducible apply State.attempt_good | with_reducible apply State.failedSuspended_good | dsimp only
    | split | (intro _) | with_reducible apply good_foldl | simp only [State.good_upd_iff]
    | simp only [State.good_bootUpd_iff] | with_reducible refine good_snd (by assumption) ?_
    | with_reducible refine good_fst (by assumption) ?_ | (simp [*]; done)

@[simp] theorem State.parkOn_good {kt mv : Nat} {s : State} (d : Reg) (va : Word) (hs : s.Good kt mv) :
    OutGood kt mv (State.parkOn s d va) := by
  unfold State.parkOn
  repeat'
    first
    | with_reducible assumption | with_reducible apply State.waitFE_good | exact outGood_fault
    | exact outGood_refused | with_reducible apply outGood_next | dsimp only | split | (intro _)
    | with_reducible apply good_foldl | simp only [State.good_upd_iff] | simp only [State.good_bootUpd_iff]
    | with_reducible refine good_snd (by assumption) ?_ | with_reducible refine good_fst (by assumption) ?_
    | (simp [*]; done)

@[simp] theorem State.armSent_good {kt mv : Nat} {s : State} (e : TlbEntry) (pa : Nat) (va : Word) (hs : s.Good kt mv) :
    State.Good kt mv (State.armSent s e pa va) := by
  unfold State.armSent
  repeat'
    first
    | with_reducible assumption | with_reducible apply State.enqueue_good | with_reducible apply State.delayed_good
    | with_reducible apply State.bumpId_good | dsimp only | split | (intro _) | with_reducible apply good_foldl
    | simp only [State.good_upd_iff] | simp only [State.good_bootUpd_iff]
    | with_reducible refine good_snd (by assumption) ?_ | with_reducible refine good_fst (by assumption) ?_
    | (simp [*]; done)

@[simp] theorem State.armPage_good {kt mv : Nat} {s : State} (va : Word) (hs : s.Good kt mv) :
    State.Good kt mv (State.armPage s va) := by
  unfold State.armPage
  repeat'
    first
    | with_reducible assumption | with_reducible apply State.issue_good | with_reducible apply State.hold_good
    | with_reducible apply State.withPage_good | with_reducible apply State.armPageAt_good
    | with_reducible apply State.launchAccess_good | with_reducible apply State.dropStore_good
    | with_reducible apply State.armSent_good | dsimp only | split | (intro _) | with_reducible apply good_foldl
    | simp only [State.good_upd_iff] | simp only [State.good_bootUpd_iff]
    | with_reducible refine good_snd (by assumption) ?_ | with_reducible refine good_fst (by assumption) ?_
    | (simp [*]; done)

@[simp] theorem State.fence_good {kt mv : Nat} {s : State} (ready : Bool) (hs : s.Good kt mv) :
    State.Good kt mv (State.fence s ready) := by
  unfold State.fence
  repeat'
    first
    | with_reducible assumption | with_reducible apply State.issue_good | with_reducible apply State.holdOp_good
    | with_reducible apply State.trapHere_good | dsimp only | split | (intro _) | with_reducible apply good_foldl
    | simp only [State.good_upd_iff] | simp only [State.good_bootUpd_iff]
    | with_reducible refine good_snd (by assumption) ?_ | with_reducible refine good_fst (by assumption) ?_
    | (simp [*]; done)

@[simp] theorem State.seeAgain_good {kt mv : Nat} {s : State} (c : Nat) (l : List Nat) (hs : s.Good kt mv) :
    State.Good kt mv (State.seeAgain s c l) := by
  unfold State.seeAgain
  repeat'
    first
    | with_reducible assumption | dsimp only | split | (intro _) | with_reducible apply good_foldl
    | simp only [State.good_upd_iff] | simp only [State.good_bootUpd_iff]
    | with_reducible refine good_snd (by assumption) ?_ | with_reducible refine good_fst (by assumption) ?_
    | (simp [*]; done)

@[simp] theorem State.mtcCore_good {kt mv : Nat} {s : State} (n : Nat) (w : Word) (hs : s.Good kt mv) :
    State.Good kt mv (State.mtcCore s n w) := by
  unfold State.mtcCore
  repeat'
    first
    | with_reducible assumption | with_reducible apply State.modMine_good | with_reducible apply State.enqueue_good
    | dsimp only | split | (intro _) | with_reducible apply good_foldl | simp only [State.good_upd_iff]
    | simp only [State.good_bootUpd_iff] | with_reducible refine good_snd (by assumption) ?_
    | with_reducible refine good_fst (by assumption) ?_ | (simp [*]; done)

@[simp] theorem State.mtcVal_good {kt mv : Nat} {s : State} (n : Nat) (w : Word) (hs : s.Good kt mv) :
    State.Good kt mv (State.mtcVal s n w) := by
  unfold State.mtcVal
  repeat'
    first
    | with_reducible assumption | with_reducible apply State.modMine_good | with_reducible apply State.modMe_good
    | with_reducible apply State.mtcCore_good | dsimp only | split | (intro _) | with_reducible apply good_foldl
    | simp only [State.good_upd_iff] | simp only [State.good_bootUpd_iff]
    | with_reducible refine good_snd (by assumption) ?_ | with_reducible refine good_fst (by assumption) ?_
    | (simp [*]; done)

@[simp] theorem State.shipResume_good {kt mv : Nat} {s : State} (f : List Word) (t : Nat) (hs : s.Good kt mv) :
    State.Good kt mv (State.shipResume s f t) := by
  unfold State.shipResume
  repeat'
    first
    | with_reducible assumption | with_reducible apply State.enqueue_good | with_reducible apply State.bumpId_good
    | with_reducible apply State.modLaunch_good | with_reducible apply State.modInst_good | dsimp only | split
    | (intro _) | with_reducible apply good_foldl | simp only [State.good_upd_iff]
    | simp only [State.good_bootUpd_iff] | with_reducible refine good_snd (by assumption) ?_
    | with_reducible refine good_fst (by assumption) ?_ | (simp [*]; done)

@[simp] theorem State.badRead_good {kt mv : Nat} {s : State} (a : Answer) (pa : Nat) (hs : s.Good kt mv) :
    State.Good kt mv (State.badRead s a pa) := by
  unfold State.badRead
  repeat'
    first
    | with_reducible assumption | with_reducible apply State.countUncorr_good
    | with_reducible apply State.trapHere_good | dsimp only | split | (intro _) | with_reducible apply good_foldl
    | simp only [State.good_upd_iff] | simp only [State.good_bootUpd_iff]
    | with_reducible refine good_snd (by assumption) ?_ | with_reducible refine good_fst (by assumption) ?_
    | (simp [*]; done)

@[simp] theorem State.loadWords_good {kt mv : Nat} {s : State} (e : TlbEntry) (va : Word) (pa n : Nat) (hs : s.Good kt mv) :
    State.Good kt mv (State.loadWords s e va pa n) := by
  unfold State.loadWords
  repeat'
    first
    | with_reducible assumption | with_reducible apply State.depart_good | dsimp only | split | (intro _)
    | with_reducible apply good_foldl | simp only [State.good_upd_iff] | simp only [State.good_bootUpd_iff]
    | with_reducible refine good_snd (by assumption) ?_ | with_reducible refine good_fst (by assumption) ?_
    | (simp [*]; done)

@[simp] theorem State.dropRead_good {kt mv : Nat} {s : State} (first n : Nat) (hs : s.Good kt mv) :
    State.Good kt mv (State.dropRead s first n) := by
  unfold State.dropRead
  repeat'
    first
    | with_reducible assumption | dsimp only | split | (intro _) | with_reducible apply good_foldl
    | simp only [State.good_upd_iff] | simp only [State.good_bootUpd_iff]
    | with_reducible refine good_snd (by assumption) ?_ | with_reducible refine good_fst (by assumption) ?_
    | (simp [*]; done)

@[simp] theorem State.readWords_good {kt mv : Nat} {s : State} (va : Word) (n : Nat) (k : State → List Word → Bool ×
    State) (hs : s.Good kt mv) (hk : ∀ (a0_ : State) (a1_ : List Word), a0_.Good kt mv → State.Good kt mv (k a0_ a1_).2)
    :
    State.Good kt mv (State.readWords s va n k) := by
  unfold State.readWords
  repeat'
    first
    | with_reducible assumption | with_reducible apply hk | with_reducible apply State.modMe_good
    | with_reducible apply State.holdOp_good | with_reducible apply State.trapHere_good
    | with_reducible apply State.withPage_good | with_reducible apply State.noRoute_good
    | with_reducible apply State.badRead_good | with_reducible apply State.loadWords_good
    | with_reducible apply State.dropRead_good | dsimp only | split | (intro _) | with_reducible apply good_foldl
    | simp only [State.good_upd_iff] | simp only [State.good_bootUpd_iff]
    | with_reducible refine good_snd (by assumption) ?_ | with_reducible refine good_fst (by assumption) ?_
    | (simp [*]; done)

@[simp] theorem State.tlbWrite_good {kt mv : Nat} {s : State} (c : Nat) (w0 w1 : Word) (hs : s.Good kt mv) :
    State.Good kt mv (State.tlbWrite s c w0 w1) := by
  unfold State.tlbWrite
  repeat'
    first
    | with_reducible assumption | with_reducible apply State.modCore_good | with_reducible apply State.install_good
    | dsimp only | split | (intro _) | with_reducible apply good_foldl | simp only [State.good_upd_iff]
    | simp only [State.good_bootUpd_iff] | with_reducible refine good_snd (by assumption) ?_
    | with_reducible refine good_fst (by assumption) ?_ | (simp [*]; done)

@[simp] theorem State.shootAt_good {kt mv : Nat} {s : State} (x : Shoot) (x_ : List Nat) (hs : s.Good kt mv) :
    State.Good kt mv (State.shootAt s x x_) := by
  induction x_ generalizing s x with
  | nil =>
    simp only [State.shootAt]
    repeat'
      first
      | with_reducible assumption | with_reducible apply ih | with_reducible apply State.enqueue_good
      | with_reducible apply State.delayed_good | dsimp only | split | (intro _) | with_reducible apply good_foldl
      | simp only [State.good_upd_iff] | simp only [State.good_bootUpd_iff]
      | with_reducible refine good_snd (by assumption) ?_ | with_reducible refine good_fst (by assumption) ?_
      | (simp [*]; done)
  | cons y_ l_ ih =>
    simp only [State.shootAt]
    repeat'
      first
      | with_reducible assumption | with_reducible apply ih | with_reducible apply State.enqueue_good
      | with_reducible apply State.delayed_good | dsimp only | split | (intro _) | with_reducible apply good_foldl
      | simp only [State.good_upd_iff] | simp only [State.good_bootUpd_iff]
      | with_reducible refine good_snd (by assumption) ?_ | with_reducible refine good_fst (by assumption) ?_
      | (simp [*]; done)

@[simp] theorem State.startShoot_good {kt mv : Nat} {s : State} (x : Shoot) (hs : s.Good kt mv) :
    State.Good kt mv (State.startShoot s x) := by
  unfold State.startShoot
  repeat'
    first
    | with_reducible assumption | with_reducible apply State.later_good | with_reducible apply State.bumpId_good
    | with_reducible apply State.shootAt_good | dsimp only | split | (intro _) | with_reducible apply good_foldl
    | simp only [State.good_upd_iff] | simp only [State.good_bootUpd_iff]
    | with_reducible refine good_snd (by assumption) ?_ | with_reducible refine good_fst (by assumption) ?_
    | (simp [*]; done)

@[simp] theorem State.shootIns_good {kt mv : Nat} {s : State} (w : Word) (cores : List Nat) (hs : s.Good kt mv) :
    OutGood kt mv (State.shootIns s w cores) := by
  unfold State.shootIns
  repeat'
    first
    | with_reducible assumption | with_reducible apply State.modMe_good | with_reducible apply State.issue_good
    | with_reducible apply State.holdOp_good | with_reducible apply State.trapHere_good
    | with_reducible apply State.startShoot_good | exact outGood_fault | exact outGood_refused
    | with_reducible apply outGood_next | dsimp only | split | (intro _) | with_reducible apply good_foldl
    | simp only [State.good_upd_iff] | simp only [State.good_bootUpd_iff]
    | with_reducible refine good_snd (by assumption) ?_ | with_reducible refine good_fst (by assumption) ?_
    | (simp [*]; done)

@[simp] theorem State.invalidateQuad_good {kt mv : Nat} {s : State} (c : Nat) (x : Shoot) (hs : s.Good kt mv) :
    State.Good kt mv (State.invalidateQuad s c x) := by
  unfold State.invalidateQuad
  repeat'
    first
    | with_reducible assumption | with_reducible apply State.covers_good | dsimp only | split | (intro _)
    | with_reducible apply good_foldl | simp only [State.good_upd_iff] | simp only [State.good_bootUpd_iff]
    | with_reducible refine good_snd (by assumption) ?_ | with_reducible refine good_fst (by assumption) ?_
    | (simp [*]; done)

@[simp] theorem State.shootAck_good {kt mv : Nat} {s : State} (id c : Nat) (hs : s.Good kt mv) :
    State.Good kt mv (State.shootAck s id c) := by
  unfold State.shootAck
  repeat'
    first
    | with_reducible assumption | with_reducible apply State.later_good | with_reducible apply State.delayed_good
    | dsimp only | split | (intro _) | with_reducible apply good_foldl | simp only [State.good_upd_iff]
    | simp only [State.good_bootUpd_iff] | with_reducible refine good_snd (by assumption) ?_
    | with_reducible refine good_fst (by assumption) ?_ | (simp [*]; done)

@[simp] theorem State.endShoot_good {kt mv : Nat} {s : State} (id : Nat) (hs : s.Good kt mv) :
    State.Good kt mv (State.endShoot s id) := by
  unfold State.endShoot
  repeat'
    first
    | with_reducible assumption | dsimp only | split | (intro _) | with_reducible apply good_foldl
    | simp only [State.good_upd_iff] | simp only [State.good_bootUpd_iff]
    | with_reducible refine good_snd (by assumption) ?_ | with_reducible refine good_fst (by assumption) ?_
    | (simp [*]; done)

@[simp] theorem State.giveBack_good {kt mv : Nat} {s : State} (c : Nat) (i : Inst) (hs : s.Good kt mv) :
    State.Good kt mv (State.giveBack s c i) := by
  unfold State.giveBack
  repeat'
    first
    | with_reducible assumption | with_reducible apply State.modCore_good
    | with_reducible apply State.modLaunch_good | dsimp only | split | (intro _) | with_reducible apply good_foldl
    | simp only [State.good_upd_iff] | simp only [State.good_bootUpd_iff]
    | with_reducible refine good_snd (by assumption) ?_ | with_reducible refine good_fst (by assumption) ?_
    | (simp [*]; done)

@[simp] theorem State.startInst_good {kt mv : Nat} {s : State} (c : Nat) (p : Prio) (n d : Nat) (hs : s.Good kt mv) :
    State.Good kt mv (State.startInst s c p n d) := by
  unfold State.startInst
  repeat'
    first
    | with_reducible assumption | with_reducible apply State.modBank_good | with_reducible apply State.modInst_good
    | with_reducible apply State.giveBack_good | dsimp only | split | (intro _) | with_reducible apply good_foldl
    | simp only [State.good_upd_iff] | simp only [State.good_bootUpd_iff]
    | with_reducible refine good_snd (by assumption) ?_ | with_reducible refine good_fst (by assumption) ?_
    | (simp [*]; done)

@[simp] theorem State.startResume_good {kt mv : Nat} {s : State} (c : Nat) (p : Prio) (k d : Nat) (hs : s.Good kt mv) :
    State.Good kt mv (State.startResume s c p k d) := by
  unfold State.startResume
  repeat'
    first
    | with_reducible assumption | with_reducible apply State.modBank_good
    | with_reducible apply State.freePark_good | with_reducible apply State.corrupt_good | dsimp only | split
    | (intro _) | with_reducible apply good_foldl | simp only [State.good_upd_iff]
    | simp only [State.good_bootUpd_iff] | with_reducible refine good_snd (by assumption) ?_
    | with_reducible refine good_fst (by assumption) ?_ | (simp [*]; done)

@[simp] theorem State.startEntry_good {kt mv : Nat} {s : State} (p : Prio) (e : Entry) (hs : s.Good kt mv) :
    State.Good kt mv (State.startEntry s p e) := by
  unfold State.startEntry
  repeat'
    first
    | with_reducible assumption | with_reducible apply State.modBank_good | with_reducible apply State.modMine_good
    | with_reducible apply State.enqueue_good | with_reducible apply State.restIdle_good
    | with_reducible apply State.dropGroup_good | with_reducible apply State.startInst_good
    | with_reducible apply State.startResume_good | dsimp only | split | (intro _)
    | with_reducible apply good_foldl | simp only [State.good_upd_iff] | simp only [State.good_bootUpd_iff]
    | with_reducible refine good_snd (by assumption) ?_ | with_reducible refine good_fst (by assumption) ?_
    | (simp [*]; done)

@[simp] theorem State.choose_good {kt mv : Nat} {s : State} (hs : s.Good kt mv) :
    State.Good kt mv (State.choose s) := by
  unfold State.choose
  repeat'
    first
    | with_reducible assumption | with_reducible apply State.modBank_good | with_reducible apply State.modMine_good
    | with_reducible apply State.startEntry_good | dsimp only | split | (intro _) | with_reducible apply good_foldl
    | simp only [State.good_upd_iff] | simp only [State.good_bootUpd_iff]
    | with_reducible refine good_snd (by assumption) ?_ | with_reducible refine good_fst (by assumption) ?_
    | (simp [*]; done)

@[simp] theorem State.expire_good {kt mv : Nat} {s : State} (blk : Nat) (hs : s.Good kt mv) : (s.expire blk).Good kt mv := by
  unfold State.expire
  dsimp only
  apply good_foldl
  · intro st x h; exact State.later_good _ _ _ h
  · apply good_foldl
    · intro st x h; exact State.wakeEntry_good _ h
    · exact ⟨⟨Sparse.wf_filter _ _ _ hs.mem.bytes, wordList_emptyBlock blk hs.mem.empties, hs.mem.poison,
        hs.mem.wpoison⟩, hs.tick, hs.version⟩

@[simp] theorem State.appendFcr_good {kt mv : Nat} {s : State} (c n : Nat) (e : ParkEntry) (hs : s.Good kt mv) :
    State.Good kt mv (State.appendFcr s c n e) := by
  unfold State.appendFcr
  repeat'
    first
    | with_reducible assumption | with_reducible apply State.poke_good | with_reducible apply State.modInst_good
    | with_reducible apply State.freePark_good | with_reducible apply State.appendMsg_good | dsimp only | split
    | (intro _) | with_reducible apply good_foldl | simp only [State.good_upd_iff]
    | simp only [State.good_bootUpd_iff] | with_reducible refine good_snd (by assumption) ?_
    | with_reducible refine good_fst (by assumption) ?_ | (simp [*]; done)

@[simp] theorem State.reserveFcr_good {kt mv : Nat} {s : State} (c n : Nat) (hs : s.Good kt mv) :
    State.Good kt mv (State.reserveFcr s c n) := by
  unfold State.reserveFcr
  repeat'
    first
    | with_reducible assumption | with_reducible apply State.enqueue_good | with_reducible apply State.modInst_good
    | with_reducible apply State.modPark_good | dsimp only | split | (intro _) | with_reducible apply good_foldl
    | simp only [State.good_upd_iff] | simp only [State.good_bootUpd_iff]
    | with_reducible refine good_snd (by assumption) ?_ | with_reducible refine good_fst (by assumption) ?_
    | (simp [*]; done)

@[simp] theorem State.dropHeld_good {kt mv : Nat} {s : State} (c : Nat) (p : Prio) (hs : s.Good kt mv) :
    State.Good kt mv (State.dropHeld s c p) := by
  unfold State.dropHeld
  repeat'
    first
    | with_reducible assumption | with_reducible apply State.modCore_good | with_reducible apply State.enqueue_good
    | dsimp only | split | (intro _) | with_reducible apply good_foldl | simp only [State.good_upd_iff]
    | simp only [State.good_bootUpd_iff] | with_reducible refine good_snd (by assumption) ?_
    | with_reducible refine good_fst (by assumption) ?_ | (simp [*]; done)

@[simp] theorem State.discardFcr_good {kt mv : Nat} {s : State} (h : Hold) (hs : s.Good kt mv) :
    State.Good kt mv (State.discardFcr s h) := by
  unfold State.discardFcr
  repeat'
    first
    | with_reducible assumption | with_reducible apply State.poke_good | with_reducible apply State.fcrGone_good
    | dsimp only | split | (intro _) | with_reducible apply good_foldl | simp only [State.good_upd_iff]
    | simp only [State.good_bootUpd_iff] | with_reducible refine good_snd (by assumption) ?_
    | with_reducible refine good_fst (by assumption) ?_ | (simp [*]; done)

@[simp] theorem State.watchdogParked_good {kt mv : Nat} {s : State} (e : ParkEntry) (hs : s.Good kt mv) :
    State.Good kt mv (State.watchdogParked s e) := by
  unfold State.watchdogParked
  repeat'
    first
    | with_reducible assumption | with_reducible apply State.modCore_good
    | with_reducible apply State.modLaunch_good | with_reducible apply State.poke_good
    | with_reducible apply State.modInst_good | with_reducible apply State.freePark_good
    | with_reducible apply State.deliver_good | dsimp only | split | (intro _) | with_reducible apply good_foldl
    | simp only [State.good_upd_iff] | simp only [State.good_bootUpd_iff]
    | with_reducible refine good_snd (by assumption) ?_ | with_reducible refine good_fst (by assumption) ?_
    | (simp [*]; done)

end Sys2Proof.Machine
end

