-- ==== Sys2Proof/Laws/InvEngines.lean ====
section
/-!
SUPPORT. The shared operations of pages, vaults, messages and the engines
keep the invariant of memory, the tick and the least firmware version.
-/
namespace Sys2Proof.Machine

@[simp] theorem State.releaseXl_good {kt mv : Nat} {s : State} (c : Nat) (p : Prio) (va : Nat) (x : Xl) (lands : Bool)
    (hs : s.Good kt mv) :
    State.Good kt mv (State.releaseXl s c p va x lands) := by
  unfold State.releaseXl
  repeat'
    first
    | with_reducible assumption | with_reducible apply State.modCore_good | with_reducible apply State.modBank_good
    | dsimp only | split | (intro _) | with_reducible apply good_foldl | simp only [State.good_upd_iff]
    | simp only [State.good_bootUpd_iff] | with_reducible refine good_snd (by assumption) ?_
    | with_reducible refine good_fst (by assumption) ?_ | (simp [*]; done)

@[simp] theorem State.meetAll_good {kt mv : Nat} {s : State} (pas : List Nat) (hs : s.Good kt mv) :
    State.Good kt mv (State.meetAll s pas) := by
  unfold State.meetAll
  repeat'
    first
    | with_reducible assumption | with_reducible apply State.meet_good | with_reducible apply State.call_good
    | dsimp only | split | (intro _) | with_reducible apply good_foldl | simp only [State.good_upd_iff]
    | simp only [State.good_bootUpd_iff] | with_reducible refine good_snd (by assumption) ?_
    | with_reducible refine good_fst (by assumption) ?_ | (simp [*]; done)

@[simp] theorem State.rewriteLeaf_good {kt mv : Nat} {s : State} (e : TlbEntry) (at_ : Nat) (f : Word → Word) (hs :
    s.Good kt mv) :
    State.Good kt mv (State.rewriteLeaf s e at_ f) := by
  unfold State.rewriteLeaf
  repeat'
    first
    | with_reducible assumption | with_reducible apply State.wrWord_good | dsimp only | split | (intro _)
    | with_reducible apply good_foldl | simp only [State.good_upd_iff] | simp only [State.good_bootUpd_iff]
    | with_reducible refine good_snd (by assumption) ?_ | with_reducible refine good_fst (by assumption) ?_
    | (simp [*]; done)

@[simp] theorem State.covers_good {kt mv : Nat} {s : State} (a : Nat) (hs : s.Good kt mv) :
    State.Good kt mv (State.covers s a) := by
  unfold State.covers
  repeat'
    first
    | with_reducible assumption | with_reducible apply State.heal_good | dsimp only | split | (intro _)
    | with_reducible apply good_foldl | simp only [State.good_upd_iff] | simp only [State.good_bootUpd_iff]
    | with_reducible refine good_snd (by assumption) ?_ | with_reducible refine good_fst (by assumption) ?_
    | (simp [*]; done)

@[simp] theorem State.moveWord_good {kt mv : Nat} {s : State} (src dst : Nat) (hs : s.Good kt mv) :
    State.Good kt mv (State.moveWord s src dst) := by
  unfold State.moveWord
  repeat'
    first
    | with_reducible assumption | with_reducible apply State.wrWord_good | with_reducible apply State.setFE_good
    | with_reducible apply State.addPoison_good | with_reducible apply State.addWordPoison_good
    | with_reducible apply State.meet_good | with_reducible apply State.call_good
    | with_reducible apply State.covers_good | dsimp only | split | (intro _) | with_reducible apply good_foldl
    | simp only [State.good_upd_iff] | simp only [State.good_bootUpd_iff]
    | with_reducible refine good_snd (by assumption) ?_ | with_reducible refine good_fst (by assumption) ?_
    | (simp [*]; done)

@[simp] theorem State.movePage_good {kt mv : Nat} {s : State} (src dst n : Nat) (hs : s.Good kt mv) :
    State.Good kt mv (State.movePage s src dst n) := by
  unfold State.movePage
  repeat'
    first
    | with_reducible assumption | with_reducible apply State.moveWord_good | dsimp only | split | (intro _)
    | with_reducible apply good_foldl | simp only [State.good_upd_iff] | simp only [State.good_bootUpd_iff]
    | with_reducible refine good_snd (by assumption) ?_ | with_reducible refine good_fst (by assumption) ?_
    | (simp [*]; done)

@[simp] theorem State.dropReplicas_good {kt mv : Nat} {s : State} (lid : BitVec 32) (e : TlbEntry) (hs : s.Good kt mv) :
    State.Good kt mv (State.dropReplicas s lid e) := by
  unfold State.dropReplicas
  repeat'
    first
    | with_reducible assumption | dsimp only | split | (intro _) | with_reducible apply good_foldl
    | simp only [State.good_upd_iff] | simp only [State.good_bootUpd_iff]
    | with_reducible refine good_snd (by assumption) ?_ | with_reducible refine good_fst (by assumption) ?_
    | (simp [*]; done)

@[simp] theorem State.toHostPage_good {kt mv : Nat} {s : State} (lid : BitVec 32) (e : TlbEntry) (at_ dest : Nat) (hs :
    s.Good kt mv) :
    State.Good kt mv (State.toHostPage s lid e at_ dest) := by
  unfold State.toHostPage
  repeat'
    first
    | with_reducible assumption | with_reducible apply State.modLayer_good | with_reducible apply State.meet_good
    | with_reducible apply State.call_good | with_reducible apply State.rewriteLeaf_good
    | with_reducible apply State.dropReplicas_good | dsimp only | split | (intro _)
    | with_reducible apply good_foldl | simp only [State.good_upd_iff] | simp only [State.good_bootUpd_iff]
    | with_reducible refine good_snd (by assumption) ?_ | with_reducible refine good_fst (by assumption) ?_
    | (simp [*]; done)

@[simp] theorem State.fetchWord_good {kt mv : Nat} {s : State} (pl : Option Plane) (dst i : Nat) (hs : s.Good kt mv) :
    State.Good kt mv (State.fetchWord s pl dst i) := by
  unfold State.fetchWord
  repeat'
    first
    | with_reducible assumption | with_reducible apply State.bumpFree_good | with_reducible apply State.wrWord_good
    | with_reducible apply State.setFE_good | with_reducible apply State.call_good
    | with_reducible apply State.covers_good | dsimp only | split | (intro _) | with_reducible apply good_foldl
    | simp only [State.good_upd_iff] | simp only [State.good_bootUpd_iff]
    | with_reducible refine good_snd (by assumption) ?_ | with_reducible refine good_fst (by assumption) ?_
    | (simp [*]; done)

@[simp] theorem State.toDevicePage_good {kt mv : Nat} {s : State} (lid : BitVec 32) (e : TlbEntry) (at_ : Nat) (frame :
    Nat) (hs : s.Good kt mv) :
    State.Good kt mv (State.toDevicePage s lid e at_ frame) := by
  unfold State.toDevicePage
  repeat'
    first
    | with_reducible assumption | with_reducible apply State.modLayer_good
    | with_reducible apply State.rewriteLeaf_good | with_reducible apply State.fetchWord_good | dsimp only | split
    | (intro _) | with_reducible apply good_foldl | simp only [State.good_upd_iff]
    | simp only [State.good_bootUpd_iff] | with_reducible refine good_snd (by assumption) ?_
    | with_reducible refine good_fst (by assumption) ?_ | (simp [*]; done)

@[simp] theorem State.moveResult_good {kt mv : Nat} {s : State} (rid : W32) (result code : Nat) (hs : s.Good kt mv) :
    State.Good kt mv (State.moveResult s rid result code) := by
  unfold State.moveResult
  repeat'
    first
    | with_reducible assumption | with_reducible apply State.enqueue_good | with_reducible apply State.bumpId_good
    | with_reducible apply State.fillAt_good | with_reducible apply State.call_good
    | with_reducible apply State.accessArrive_good | dsimp only | split | (intro _)
    | with_reducible apply good_foldl | simp only [State.good_upd_iff] | simp only [State.good_bootUpd_iff]
    | with_reducible refine good_snd (by assumption) ?_ | with_reducible refine good_fst (by assumption) ?_
    | (simp [*]; done)

@[simp] theorem State.endReq_good {kt mv : Nat} {s : State} (rq : TokenReq) (code : Nat) (hs : s.Good kt mv) :
    State.Good kt mv (State.endReq s rq code) := by
  unfold State.endReq
  repeat'
    first
    | with_reducible assumption | with_reducible apply State.releaseXl_good
    | with_reducible apply State.moveResult_good | dsimp only | split | (intro _) | with_reducible apply good_foldl
    | simp only [State.good_upd_iff] | simp only [State.good_bootUpd_iff]
    | with_reducible refine good_snd (by assumption) ?_ | with_reducible refine good_fst (by assumption) ?_
    | (simp [*]; done)

@[simp] theorem State.carryOut_good {kt mv : Nat} {s : State} (rq : TokenReq) (lid : BitVec 32) (e : TlbEntry) (at_ :
    Nat) (hs : s.Good kt mv) :
    State.Good kt mv (State.carryOut s rq lid e at_) := by
  unfold State.carryOut
  repeat'
    first
    | with_reducible assumption | with_reducible apply State.rewriteLeaf_good
    | with_reducible apply State.movePage_good | with_reducible apply State.dropReplicas_good
    | with_reducible apply State.toHostPage_good | with_reducible apply State.toDevicePage_good
    | with_reducible apply State.endReq_good | dsimp only | split | (intro _) | with_reducible apply good_foldl
    | simp only [State.good_upd_iff] | simp only [State.good_bootUpd_iff]
    | with_reducible refine good_snd (by assumption) ?_ | with_reducible refine good_fst (by assumption) ?_
    | (simp [*]; done)

@[simp] theorem State.againFrom_good {kt mv : Nat} {s : State} (l : List TokenReq) (hs : s.Good kt mv) :
    (s.againFrom l).Good kt mv := by
  induction l generalizing s with
  | nil => simp only [State.againFrom]; exact hs
  | cons w l ih =>
    cases w <;> simp only [State.againFrom]
    all_goals first | exact ih (State.releaseXl_good _ _ _ _ _ hs) | exact ih (State.later_good _ _ _ hs)

@[simp] theorem State.fillToken_good {kt mv : Nat} {s : State} (t : Token) (hs : s.Good kt mv) :
    State.Good kt mv (State.fillToken s t) := by
  unfold State.fillToken
  repeat'
    first
    | with_reducible assumption | with_reducible apply State.endReq_good | with_reducible apply State.carryOut_good
    | with_reducible apply State.againFrom_good | dsimp only | split | (intro _) | with_reducible apply good_foldl
    | simp only [State.good_upd_iff] | simp only [State.good_bootUpd_iff]
    | with_reducible refine good_snd (by assumption) ?_ | with_reducible refine good_fst (by assumption) ?_
    | (simp [*]; done)

@[simp] theorem State.setBankst_good {kt mv : Nat} {s : State} (b : Nat) (x : Bankst) (hs : s.Good kt mv) :
    State.Good kt mv (State.setBankst s b x) := by
  unfold State.setBankst
  repeat'
    first
    | with_reducible assumption | dsimp only | split | (intro _) | with_reducible apply good_foldl
    | simp only [State.good_upd_iff] | simp only [State.good_bootUpd_iff]
    | with_reducible refine good_snd (by assumption) ?_ | with_reducible refine good_fst (by assumption) ?_
    | (simp [*]; done)

@[simp] theorem State.reRefresh_good {kt mv : Nat} {s : State} (i : Nat) (hs : s.Good kt mv) :
    State.Good kt mv (State.reRefresh s i) := by
  unfold State.reRefresh
  repeat'
    first
    | with_reducible assumption | with_reducible apply State.enqueue_good | dsimp only | split | (intro _)
    | with_reducible apply good_foldl | simp only [State.good_upd_iff] | simp only [State.good_bootUpd_iff]
    | with_reducible refine good_snd (by assumption) ?_ | with_reducible refine good_fst (by assumption) ?_
    | (simp [*]; done)

@[simp] theorem State.setInterval_good {kt mv : Nat} {s : State} (i : Nat) (hs : s.Good kt mv) :
    State.Good kt mv (State.setInterval s i) := by
  unfold State.setInterval
  repeat'
    first
    | with_reducible assumption | with_reducible apply State.modLayer_good
    | with_reducible apply State.reRefresh_good | dsimp only | split | (intro _) | with_reducible apply good_foldl
    | simp only [State.good_upd_iff] | simp only [State.good_bootUpd_iff]
    | with_reducible refine good_snd (by assumption) ?_ | with_reducible refine good_fst (by assumption) ?_
    | (simp [*]; done)

@[simp] theorem State.endPass_good {kt mv : Nat} {s : State} (i : Nat) (hs : s.Good kt mv) :
    State.Good kt mv (State.endPass s i) := by
  unfold State.endPass
  repeat'
    first
    | with_reducible assumption | with_reducible apply State.modLayer_good
    | with_reducible apply State.setInterval_good | dsimp only | split | (intro _)
    | with_reducible apply good_foldl | simp only [State.good_upd_iff] | simp only [State.good_bootUpd_iff]
    | with_reducible refine good_snd (by assumption) ?_ | with_reducible refine good_fst (by assumption) ?_
    | (simp [*]; done)

@[simp] theorem State.poisonBlock_good {kt mv : Nat} {s : State} (key : Nat) (hs : s.Good kt mv) :
    State.Good kt mv (State.poisonBlock s key) := by
  unfold State.poisonBlock
  repeat'
    first
    | with_reducible assumption | with_reducible apply State.clearFlaw_good
    | with_reducible apply State.addPoison_good | dsimp only | split | (intro _) | with_reducible apply good_foldl
    | simp only [State.good_upd_iff] | simp only [State.good_bootUpd_iff]
    | with_reducible refine good_snd (by assumption) ?_ | with_reducible refine good_fst (by assumption) ?_
    | (simp [*]; done)

@[simp] theorem State.scrub_good {kt mv : Nat} {s : State} (i blk : Nat) (r : ScrubResult) (hs : s.Good kt mv) :
    State.Good kt mv (State.scrub s i blk r) := by
  unfold State.scrub
  repeat'
    first
    | with_reducible assumption | with_reducible apply State.clearFlaw_good
    | with_reducible apply State.modLayer_good | with_reducible apply State.countCorr_good
    | with_reducible apply State.countUncorr_good | with_reducible apply State.openRow_good
    | with_reducible apply State.poisonBlock_good | dsimp only | split | (intro _)
    | with_reducible apply good_foldl | simp only [State.good_upd_iff] | simp only [State.good_bootUpd_iff]
    | with_reducible refine good_snd (by assumption) ?_ | with_reducible refine good_fst (by assumption) ?_
    | (simp [*]; done)

@[simp] theorem State.nextScrub_good {kt mv : Nat} {s : State} (i blk from_ : Nat) (hs : s.Good kt mv) :
    State.Good kt mv (State.nextScrub s i blk from_) := by
  unfold State.nextScrub
  repeat'
    first
    | with_reducible assumption | with_reducible apply State.enqueue_good | dsimp only | split | (intro _)
    | with_reducible apply good_foldl | simp only [State.good_upd_iff] | simp only [State.good_bootUpd_iff]
    | with_reducible refine good_snd (by assumption) ?_ | with_reducible refine good_fst (by assumption) ?_
    | (simp [*]; done)

@[simp] theorem State.scrubbed_good {kt mv : Nat} {s : State} (i blk : Nat) (r : ScrubResult) (last : Bool) (hs : s.Good
    kt mv) :
    State.Good kt mv (State.scrubbed s i blk r last) := by
  unfold State.scrubbed
  repeat'
    first
    | with_reducible assumption | with_reducible apply State.endPass_good | with_reducible apply State.scrub_good
    | dsimp only | split | (intro _) | with_reducible apply good_foldl | simp only [State.good_upd_iff]
    | simp only [State.good_bootUpd_iff] | with_reducible refine good_snd (by assumption) ?_
    | with_reducible refine good_fst (by assumption) ?_ | (simp [*]; done)

@[simp] theorem State.startScrub_good {kt mv : Nat} {s : State} (hs : s.Good kt mv) :
    State.Good kt mv (State.startScrub s) := by
  unfold State.startScrub
  repeat'
    first
    | with_reducible assumption | with_reducible apply State.enqueue_good | dsimp only | split | (intro _)
    | with_reducible apply good_foldl | simp only [State.good_upd_iff] | simp only [State.good_bootUpd_iff]
    | with_reducible refine good_snd (by assumption) ?_ | with_reducible refine good_fst (by assumption) ?_
    | (simp [*]; done)

@[simp] theorem State.sendTry_good {kt mv : Nat} {s : State} (port : Word) (ws : List Word) (n : Nat) (hs : s.Good kt mv) :
    State.Good kt mv (State.sendTry s port ws n) := by
  unfold State.sendTry
  repeat'
    first
    | with_reducible assumption | with_reducible apply State.modMe_good | with_reducible apply State.enqueue_good
    | with_reducible apply State.bumpId_good | with_reducible apply State.holdOp_good | dsimp only | split
    | (intro _) | with_reducible apply good_foldl | simp only [State.good_upd_iff]
    | simp only [State.good_bootUpd_iff] | with_reducible refine good_snd (by assumption) ?_
    | with_reducible refine good_fst (by assumption) ?_ | (simp [*]; done)

@[simp] theorem State.sendAgain_good {kt mv : Nat} {s : State} (n : Nat) (retry : State → Nat → State) (hs : s.Good kt
    mv) (hretry : ∀ (a0_ : State) (a1_ : Nat), a0_.Good kt mv → State.Good kt mv (retry a0_ a1_)) :
    State.Good kt mv (State.sendAgain s n retry) := by
  unfold State.sendAgain
  repeat'
    first
    | with_reducible assumption | with_reducible apply hretry | with_reducible apply State.modMe_good
    | with_reducible apply State.enqueue_good | with_reducible apply State.holdOp_good | dsimp only | split
    | (intro _) | with_reducible apply good_foldl | simp only [State.good_upd_iff]
    | simp only [State.good_bootUpd_iff] | with_reducible refine good_snd (by assumption) ?_
    | with_reducible refine good_fst (by assumption) ?_ | (simp [*]; done)

@[simp] theorem State.sendAnswered_good {kt mv : Nat} {s : State} (port : Word) (ws : List Word) (n : Nat) (a :
    MsgAnswer) (hs : s.Good kt mv) :
    State.Good kt mv (State.sendAnswered s port ws n a) := by
  unfold State.sendAnswered
  repeat'
    first
    | with_reducible assumption | with_reducible apply State.modMe_good | with_reducible apply State.issue_good
    | with_reducible apply State.trapHere_good | with_reducible apply State.sendTry_good
    | with_reducible apply State.sendAgain_good | dsimp only | split | (intro _) | with_reducible apply good_foldl
    | simp only [State.good_upd_iff] | simp only [State.good_bootUpd_iff]
    | with_reducible refine good_snd (by assumption) ?_ | with_reducible refine good_fst (by assumption) ?_
    | (simp [*]; done)

@[simp] theorem State.takeMsg_good {kt mv : Nat} {s : State} (lid : BitVec 32) (c inst port : Nat) (ws : List Word) (hs
    : s.Good kt mv) :
    State.Good kt mv (State.takeMsg s lid c inst port ws).2 := by
  unfold State.takeMsg
  repeat'
    first
    | with_reducible assumption | with_reducible apply State.appendMsg_good | dsimp only | split | (intro _)
    | with_reducible apply good_foldl | simp only [State.good_upd_iff] | simp only [State.good_bootUpd_iff]
    | with_reducible refine good_snd (by assumption) ?_ | with_reducible refine good_fst (by assumption) ?_
    | (simp [*]; done)

@[simp] theorem State.takeOutbound_good {kt mv : Nat} {s : State} (c owner : Nat) (p : BitVec 12) (x : Packet) (hs :
    s.Good kt mv) :
    State.Good kt mv (State.takeOutbound s c owner p x).2 := by
  unfold State.takeOutbound
  repeat'
    first
    | with_reducible assumption | with_reducible apply State.sendOut_good | dsimp only | split | (intro _)
    | with_reducible apply good_foldl | simp only [State.good_upd_iff] | simp only [State.good_bootUpd_iff]
    | with_reducible refine good_snd (by assumption) ?_ | with_reducible refine good_fst (by assumption) ?_
    | (simp [*]; done)

@[simp] theorem State.bcastAnswer_good {kt mv : Nat} {s : State} (c target : Nat) (a : MsgAnswer) (hs : s.Good kt mv) :
    State.Good kt mv (State.bcastAnswer s c target a) := by
  unfold State.bcastAnswer
  repeat'
    first
    | with_reducible assumption | with_reducible apply State.modCore_good | with_reducible apply State.enqueue_good
    | dsimp only | split | (intro _) | with_reducible apply good_foldl | simp only [State.good_upd_iff]
    | simp only [State.good_bootUpd_iff] | with_reducible refine good_snd (by assumption) ?_
    | with_reducible refine good_fst (by assumption) ?_ | (simp [*]; done)

@[simp] theorem State.podCheck_good {kt mv : Nat} {s : State} (lid : BitVec 32) (fig : Nat) (hs : s.Good kt mv) :
    State.Good kt mv (State.podCheck s lid fig) := by
  unfold State.podCheck
  repeat'
    first
    | with_reducible assumption | with_reducible apply State.enqueue_good | with_reducible apply State.delayed_good
    | dsimp only | split | (intro _) | with_reducible apply good_foldl | simp only [State.good_upd_iff]
    | simp only [State.good_bootUpd_iff] | with_reducible refine good_snd (by assumption) ?_
    | with_reducible refine good_fst (by assumption) ?_ | (simp [*]; done)

@[simp] theorem State.podArrive_good {kt mv : Nat} {s : State} (lid : BitVec 32) (hs : s.Good kt mv) :
    State.Good kt mv (State.podArrive s lid) := by
  unfold State.podArrive
  repeat'
    first
    | with_reducible assumption | with_reducible apply State.toSpan_good | with_reducible apply State.podCheck_good
    | dsimp only | split | (intro _) | with_reducible apply good_foldl | simp only [State.good_upd_iff]
    | simp only [State.good_bootUpd_iff] | with_reducible refine good_snd (by assumption) ?_
    | with_reducible refine good_fst (by assumption) ?_ | (simp [*]; done)

@[simp] theorem State.checkPhase_good {kt mv : Nat} {s : State} (lv : Level) (lid : BitVec 32) (grp : Nat) (hs : s.Good
    kt mv) :
    State.Good kt mv (State.checkPhase s lv lid grp) := by
  unfold State.checkPhase
  repeat'
    first
    | with_reducible assumption | with_reducible apply State.enqueue_good
    | with_reducible apply State.podArrive_good | dsimp only | split | (intro _) | with_reducible apply good_foldl
    | simp only [State.good_upd_iff] | simp only [State.good_bootUpd_iff]
    | with_reducible refine good_snd (by assumption) ?_ | with_reducible refine good_fst (by assumption) ?_
    | (simp [*]; done)

@[simp] theorem State.checkPhases_good {kt mv : Nat} {s : State} (lid : BitVec 32) (hs : s.Good kt mv) :
    State.Good kt mv (State.checkPhases s lid) := by
  unfold State.checkPhases
  repeat'
    first
    | with_reducible assumption | with_reducible apply State.checkPhase_good | dsimp only | split | (intro _)
    | with_reducible apply good_foldl | simp only [State.good_upd_iff] | simp only [State.good_bootUpd_iff]
    | with_reducible refine good_snd (by assumption) ?_ | with_reducible refine good_fst (by assumption) ?_
    | (simp [*]; done)

@[simp] theorem State.holdBar_good {kt mv : Nat} {s : State} (l : Level) (st : BarStage) (hs : s.Good kt mv) :
    State.Good kt mv (State.holdBar s l st) := by
  unfold State.holdBar
  repeat'
    first
    | with_reducible assumption | with_reducible apply State.modMe_good
    | with_reducible apply State.enqueueLast_good | with_reducible apply State.holdOp_good | dsimp only | split
    | (intro _) | with_reducible apply good_foldl | simp only [State.good_upd_iff]
    | simp only [State.good_bootUpd_iff] | with_reducible refine good_snd (by assumption) ?_
    | with_reducible refine good_fst (by assumption) ?_ | (simp [*]; done)

@[simp] theorem State.arriveBar_good {kt mv : Nat} {s : State} (l : Level) (go : State → State) (hs : s.Good kt mv) (hgo
    : ∀ (a0_ : State), a0_.Good kt mv → State.Good kt mv (go a0_)) :
    State.Good kt mv (State.arriveBar s l go) := by
  unfold State.arriveBar
  repeat'
    first
    | with_reducible assumption | with_reducible apply hgo | with_reducible apply State.modMine_good
    | with_reducible apply State.arrive_good | with_reducible apply State.checkPhase_good
    | with_reducible apply State.holdBar_good | dsimp only | split | (intro _) | with_reducible apply good_foldl
    | simp only [State.good_upd_iff] | simp only [State.good_bootUpd_iff]
    | with_reducible refine good_snd (by assumption) ?_ | with_reducible refine good_fst (by assumption) ?_
    | (simp [*]; done)

@[simp] theorem State.waitBar_good {kt mv : Nat} {s : State} (l : Level) (own : Bool) (hs : s.Good kt mv) :
    State.Good kt mv (State.waitBar s l own) := by
  unfold State.waitBar
  repeat'
    first
    | with_reducible assumption | with_reducible apply State.issue_good | with_reducible apply State.holdBar_good
    | dsimp only | split | (intro _) | with_reducible apply good_foldl | simp only [State.good_upd_iff]
    | simp only [State.good_bootUpd_iff] | with_reducible refine good_snd (by assumption) ?_
    | with_reducible refine good_fst (by assumption) ?_ | (simp [*]; done)

@[simp] theorem State.engineWait_good {kt mv : Nat} {s : State} (c : Nat) (va : Word) (due : Nat) (ev : Instr) (hs :
    s.Good kt mv) :
    State.Good kt mv (State.engineWait s c va due ev) := by
  unfold State.engineWait
  repeat'
    first
    | with_reducible assumption | with_reducible apply State.modCore_good | with_reducible apply State.enqueue_good
    | with_reducible apply State.bumpId_good | dsimp only | split | (intro _) | with_reducible apply good_foldl
    | simp only [State.good_upd_iff] | simp only [State.good_bootUpd_iff]
    | with_reducible refine good_snd (by assumption) ?_ | with_reducible refine good_fst (by assumption) ?_
    | (simp [*]; done)

@[simp] theorem State.askWalk_good {kt mv : Nat} {s : State} (c : Nat) (va : Word) (hs : s.Good kt mv) :
    State.Good kt mv (State.askWalk s c va) := by
  unfold State.askWalk
  repeat'
    first
    | with_reducible assumption | with_reducible apply State.delayed_good
    | with_reducible apply State.engineWait_good | dsimp only | split | (intro _) | with_reducible apply good_foldl
    | simp only [State.good_upd_iff] | simp only [State.good_bootUpd_iff]
    | with_reducible refine good_snd (by assumption) ?_ | with_reducible refine good_fst (by assumption) ?_
    | (simp [*]; done)

@[simp] theorem State.askCollapse_good {kt mv : Nat} {s : State} (c : Nat) (va : Word) (hs : s.Good kt mv) :
    State.Good kt mv (State.askCollapse s c va) := by
  unfold State.askCollapse
  repeat'
    first
    | with_reducible assumption | with_reducible apply State.engineWait_good | dsimp only | split | (intro _)
    | with_reducible apply good_foldl | simp only [State.good_upd_iff] | simp only [State.good_bootUpd_iff]
    | with_reducible refine good_snd (by assumption) ?_ | with_reducible refine good_fst (by assumption) ?_
    | (simp [*]; done)

@[simp] theorem State.askDevice_good {kt mv : Nat} {s : State} (c : Nat) (va : Word) (hs : s.Good kt mv) :
    State.Good kt mv (State.askDevice s c va) := by
  unfold State.askDevice
  repeat'
    first
    | with_reducible assumption | with_reducible apply State.engineWait_good | dsimp only | split | (intro _)
    | with_reducible apply good_foldl | simp only [State.good_upd_iff] | simp only [State.good_bootUpd_iff]
    | with_reducible refine good_snd (by assumption) ?_ | with_reducible refine good_fst (by assumption) ?_
    | (simp [*]; done)

@[simp] theorem State.follow_good {kt mv : Nat} {s : State} (c : Nat) (va : Word) (x_ : Found) (hs : s.Good kt mv) :
    State.Good kt mv (State.follow s c va x_).2 := by
  cases x_ <;> simp only [State.follow]
  all_goals
    repeat'
      first
      | with_reducible assumption | with_reducible apply State.modCore_good
      | with_reducible apply State.useEntry_good | with_reducible apply State.askWalk_good
      | with_reducible apply State.askCollapse_good | dsimp only | split | (intro _)
      | with_reducible apply good_foldl | simp only [State.good_upd_iff] | simp only [State.good_bootUpd_iff]
      | with_reducible refine good_snd (by assumption) ?_ | with_reducible refine good_fst (by assumption) ?_
      | (simp [*]; done)

@[simp] theorem State.reach_good {kt mv : Nat} {s : State} (c : Nat) (lid : BitVec 32) (va : Word) (wr : Bool) (hs :
    s.Good kt mv) :
    State.Good kt mv (State.reach s c lid va wr).2 := by
  unfold State.reach
  repeat'
    first
    | with_reducible assumption | with_reducible apply State.follow_good | dsimp only | split | (intro _)
    | with_reducible apply good_foldl | simp only [State.good_upd_iff] | simp only [State.good_bootUpd_iff]
    | with_reducible refine good_snd (by assumption) ?_ | with_reducible refine good_fst (by assumption) ?_
    | (simp [*]; done)

@[simp] theorem State.engineSend_good {kt mv : Nat} {s : State} (c key : Nat) (e : TlbEntry) (va : Word) (pa : Nat) (op
    : AccOp) (back : Bool) (hs : s.Good kt mv) :
    State.Good kt mv (State.engineSend s c key e va pa op back) := by
  unfold State.engineSend
  repeat'
    first
    | with_reducible assumption | with_reducible apply State.enqueue_good | with_reducible apply State.delayed_good
    | with_reducible apply State.bumpId_good | with_reducible apply State.accessArrive_good | dsimp only | split
    | (intro _) | with_reducible apply good_foldl | simp only [State.good_upd_iff]
    | simp only [State.good_bootUpd_iff] | with_reducible refine good_snd (by assumption) ?_
    | with_reducible refine good_fst (by assumption) ?_ | (simp [*]; done)

@[simp] theorem State.engineAsk_good {kt mv : Nat} {s : State} (c key : Nat) (e : TlbEntry) (va : Word) (pa : Nat) (op :
    AccOp) (hs : s.Good kt mv) :
    State.Good kt mv (State.engineAsk s c key e va pa op) := by
  unfold State.engineAsk
  repeat'
    first
    | with_reducible assumption | with_reducible apply State.engineSend_good | dsimp only | split | (intro _)
    | with_reducible apply good_foldl | simp only [State.good_upd_iff] | simp only [State.good_bootUpd_iff]
    | with_reducible refine good_snd (by assumption) ?_ | with_reducible refine good_fst (by assumption) ?_
    | (simp [*]; done)

@[simp] theorem State.engineRead_good {kt mv : Nat} {s : State} (c key : Nat) (va : Word) (e : TlbEntry) (pa n : Nat)
    (hs : s.Good kt mv) :
    State.Good kt mv (State.engineRead s c key va e pa n).2 := by
  unfold State.engineRead
  repeat'
    first
    | with_reducible assumption | with_reducible apply State.engineAsk_good | dsimp only | split | (intro _)
    | with_reducible apply good_foldl | simp only [State.good_upd_iff] | simp only [State.good_bootUpd_iff]
    | with_reducible refine good_snd (by assumption) ?_ | with_reducible refine good_fst (by assumption) ?_
    | (simp [*]; done)

@[simp] theorem State.engineWrite_good {kt mv : Nat} {s : State} (c key : Nat) (va : Word) (e : TlbEntry) (pa : Nat) (v
    : Word) (full : Option Bool) (hs : s.Good kt mv) :
    State.Good kt mv (State.engineWrite s c key va e pa v full) := by
  unfold State.engineWrite
  repeat'
    first
    | with_reducible assumption | with_reducible apply State.engineAsk_good | dsimp only | split | (intro _)
    | with_reducible apply good_foldl | simp only [State.good_upd_iff] | simp only [State.good_bootUpd_iff]
    | with_reducible refine good_snd (by assumption) ?_ | with_reducible refine good_fst (by assumption) ?_
    | (simp [*]; done)

@[simp] theorem State.engineEmpty_good {kt mv : Nat} {s : State} (c key : Nat) (va : Word) (e : TlbEntry) (pa : Nat) (hs
    : s.Good kt mv) :
    State.Good kt mv (State.engineEmpty s c key va e pa) := by
  unfold State.engineEmpty
  repeat'
    first
    | with_reducible assumption | with_reducible apply State.engineAsk_good | dsimp only | split | (intro _)
    | with_reducible apply good_foldl | simp only [State.good_upd_iff] | simp only [State.good_bootUpd_iff]
    | with_reducible refine good_snd (by assumption) ?_ | with_reducible refine good_fst (by assumption) ?_
    | (simp [*]; done)

@[simp] theorem State.modCopy_good {kt mv : Nat} {s : State} (c id : Nat) (f : Copy → Copy) (hs : s.Good kt mv) :
    State.Good kt mv (State.modCopy s c id f) := by
  unfold State.modCopy
  repeat'
    first
    | with_reducible assumption | with_reducible apply State.modCore_good | dsimp only | split | (intro _)
    | with_reducible apply good_foldl | simp only [State.good_upd_iff] | simp only [State.good_bootUpd_iff]
    | with_reducible refine good_snd (by assumption) ?_ | with_reducible refine good_fst (by assumption) ?_
    | (simp [*]; done)

@[simp] theorem State.armCopy_good {kt mv : Nat} {s : State} (c : Nat) (x : Copy) (e : TlbEntry) (hs : s.Good kt mv) :
    State.Good kt mv (State.armCopy s c x e) := by
  unfold State.armCopy
  repeat'
    first
    | with_reducible assumption | with_reducible apply State.armBlockAt_good
    | with_reducible apply State.engineAsk_good | with_reducible apply State.modCopy_good | dsimp only | split
    | (intro _) | with_reducible apply good_foldl | simp only [State.good_upd_iff]
    | simp only [State.good_bootUpd_iff] | with_reducible refine good_snd (by assumption) ?_
    | with_reducible refine good_fst (by assumption) ?_ | (simp [*]; done)

@[simp] theorem State.stopCopy_good {kt mv : Nat} {s : State} (c : Nat) (x : Copy) (t : Stop) (hs : s.Good kt mv) :
    State.Good kt mv (State.stopCopy s c x t) := by
  unfold State.stopCopy
  repeat'
    first
    | with_reducible assumption | with_reducible apply State.dropGroup_good
    | with_reducible apply State.modCopy_good | dsimp only | split | (intro _) | with_reducible apply good_foldl
    | simp only [State.good_upd_iff] | simp only [State.good_bootUpd_iff]
    | with_reducible refine good_snd (by assumption) ?_ | with_reducible refine good_fst (by assumption) ?_
    | (simp [*]; done)

@[simp] theorem State.copyDest_good {kt mv : Nat} {s : State} (c : Nat) (x : Copy) (hs : s.Good kt mv) :
    State.Good kt mv (State.copyDest s c x).2 := by
  unfold State.copyDest
  repeat'
    first
    | with_reducible assumption | with_reducible apply State.reach_good | with_reducible apply State.armCopy_good
    | dsimp only | split | (intro _) | with_reducible apply good_foldl | simp only [State.good_upd_iff]
    | simp only [State.good_bootUpd_iff] | with_reducible refine good_snd (by assumption) ?_
    | with_reducible refine good_fst (by assumption) ?_ | (simp [*]; done)

@[simp] theorem State.copyWrite_good {kt mv : Nat} {s : State} (c : Nat) (x : Copy) (hs : s.Good kt mv) :
    State.Good kt mv (State.copyWrite s c x).2 := by
  unfold State.copyWrite
  repeat'
    first
    | with_reducible assumption | with_reducible apply State.dropAccess_good
    | with_reducible apply State.follow_good | with_reducible apply State.engineWrite_good
    | with_reducible apply State.modCopy_good | with_reducible apply State.stopCopy_good
    | with_reducible apply State.copyDest_good | dsimp only | split | (intro _) | with_reducible apply good_foldl
    | simp only [State.good_upd_iff] | simp only [State.good_bootUpd_iff]
    | with_reducible refine good_snd (by assumption) ?_ | with_reducible refine good_fst (by assumption) ?_
    | (simp [*]; done)

@[simp] theorem State.copyMove_good {kt mv : Nat} {s : State} (c : Nat) (x : Copy) (hs : s.Good kt mv) :
    State.Good kt mv (State.copyMove s c x).2 := by
  unfold State.copyMove
  split
  · dsimp only
    split
    · exact hs
    · exact State.follow_good _ _ _ hs
    · apply State.modCopy_good
      apply good_foldl_fst
      · intro q a hq
        split
        · next h => exact State.engineAsk_good _ _ _ _ _ _ (good_snd h (State.reach_good _ _ _ _ hq))
        · exact hq
      · exact hs
  · split
    · next h => exact State.stopCopy_good _ _ _ (good_snd h (State.copyDest_good _ _ hs))
    · next h => exact State.modCopy_good _ _ _ (State.engineEmpty_good _ _ _ _ _ (good_snd h (State.copyDest_good _ _ hs)))
    · next h => exact good_snd h (State.copyDest_good _ _ hs)

@[simp] theorem State.moveOne_good {kt mv : Nat} {s : State} (c : Nat) (x_ : List Copy) (hs : s.Good kt mv) :
    State.Good kt mv (State.moveOne s c x_).2 := by
  induction x_ generalizing s c with
  | nil =>
    simp only [State.moveOne]
    repeat'
      first
      | with_reducible assumption | with_reducible apply ih | with_reducible apply State.copyMove_good | dsimp only
      | split | (intro _) | with_reducible apply good_foldl | simp only [State.good_upd_iff]
      | simp only [State.good_bootUpd_iff] | with_reducible refine good_snd (by assumption) ?_
      | with_reducible refine good_fst (by assumption) ?_ | (simp [*]; done)
  | cons y_ l_ ih =>
    simp only [State.moveOne]
    repeat'
      first
      | with_reducible assumption | with_reducible apply ih | with_reducible apply State.copyMove_good | dsimp only
      | split | (intro _) | with_reducible apply good_foldl | simp only [State.good_upd_iff]
      | simp only [State.good_bootUpd_iff] | with_reducible refine good_snd (by assumption) ?_
      | with_reducible refine good_fst (by assumption) ?_ | (simp [*]; done)

@[simp] theorem State.moveLines_good {kt mv : Nat} (c : Nat) {s : State} (x_ : Nat) (hs : s.Good kt mv) :
    State.Good kt mv (State.moveLines c x_ s) := by
  induction x_ generalizing c s with
  | zero =>
    simp only [State.moveLines]
    repeat'
      first
      | with_reducible assumption | with_reducible apply ih | with_reducible apply State.modCore_good
      | with_reducible apply State.moveOne_good | dsimp only | split | (intro _) | with_reducible apply good_foldl
      | simp only [State.good_upd_iff] | simp only [State.good_bootUpd_iff]
      | with_reducible refine good_snd (by assumption) ?_ | with_reducible refine good_fst (by assumption) ?_
      | (simp [*]; done)
  | succ n_ ih =>
    simp only [State.moveLines]
    repeat'
      first
      | with_reducible assumption | with_reducible apply ih | with_reducible apply State.modCore_good
      | with_reducible apply State.moveOne_good | dsimp only | split | (intro _) | with_reducible apply good_foldl
      | simp only [State.good_upd_iff] | simp only [State.good_bootUpd_iff]
      | with_reducible refine good_snd (by assumption) ?_ | with_reducible refine good_fst (by assumption) ?_
      | (simp [*]; done)

@[simp] theorem State.writeWords_good {kt mv : Nat} (c id : Nat) {s : State} (x_ : Nat) (hs : s.Good kt mv) :
    State.Good kt mv (State.writeWords c id x_ s).2 := by
  induction x_ generalizing c id s with
  | zero =>
    simp only [State.writeWords]
    repeat'
      first
      | with_reducible assumption | with_reducible apply ih | with_reducible apply State.copyWrite_good
      | dsimp only | split | (intro _) | with_reducible apply good_foldl | simp only [State.good_upd_iff]
      | simp only [State.good_bootUpd_iff] | with_reducible refine good_snd (by assumption) ?_
      | with_reducible refine good_fst (by assumption) ?_ | (simp [*]; done)
  | succ n_ ih =>
    simp only [State.writeWords]
    repeat'
      first
      | with_reducible assumption | with_reducible apply ih | with_reducible apply State.copyWrite_good
      | dsimp only | split | (intro _) | with_reducible apply good_foldl | simp only [State.good_upd_iff]
      | simp only [State.good_bootUpd_iff] | with_reducible refine good_snd (by assumption) ?_
      | with_reducible refine good_fst (by assumption) ?_ | (simp [*]; done)

@[simp] theorem State.writeLines_good {kt mv : Nat} {s : State} (c : Nat) (hs : s.Good kt mv) :
    State.Good kt mv (State.writeLines s c) := by
  unfold State.writeLines
  apply good_foldl_snd
  · intro q i hq; exact State.writeWords_good _ _ _ hq
  · exact hs

@[simp] theorem State.nextPhase_good {kt mv : Nat} {s : State} (c id : Nat) (hs : s.Good kt mv) :
    State.Good kt mv (State.nextPhase s c id) := by
  unfold State.nextPhase
  repeat'
    first
    | with_reducible assumption | with_reducible apply State.modCopy_good | dsimp only | split | (intro _)
    | with_reducible apply good_foldl | simp only [State.good_upd_iff] | simp only [State.good_bootUpd_iff]
    | with_reducible refine good_snd (by assumption) ?_ | with_reducible refine good_fst (by assumption) ?_
    | (simp [*]; done)

@[simp] theorem State.copyOver_good {kt mv : Nat} {s : State} (c id : Nat) (hs : s.Good kt mv) :
    State.Good kt mv (State.copyOver s c id) := by
  unfold State.copyOver
  repeat'
    first
    | with_reducible assumption | with_reducible apply State.enqueue_good | dsimp only | split | (intro _)
    | with_reducible apply good_foldl | simp only [State.good_upd_iff] | simp only [State.good_bootUpd_iff]
    | with_reducible refine good_snd (by assumption) ?_ | with_reducible refine good_fst (by assumption) ?_
    | (simp [*]; done)

@[simp] theorem State.copyRest_good {kt mv : Nat} {s : State} (c id : Nat) (hs : s.Good kt mv) :
    State.Good kt mv (State.copyRest s c id) := by
  unfold State.copyRest
  repeat'
    first
    | with_reducible assumption | with_reducible apply State.dropGroup_good
    | with_reducible apply State.modCopy_good | dsimp only | split | (intro _) | with_reducible apply good_foldl
    | simp only [State.good_upd_iff] | simp only [State.good_bootUpd_iff]
    | with_reducible refine good_snd (by assumption) ?_ | with_reducible refine good_fst (by assumption) ?_
    | (simp [*]; done)

@[simp] theorem State.kickCopies_good {kt mv : Nat} {s : State} (c due : Nat) (hs : s.Good kt mv) :
    State.Good kt mv (State.kickCopies s c due) := by
  unfold State.kickCopies
  repeat'
    first
    | with_reducible assumption | with_reducible apply State.enqueue_good | dsimp only | split | (intro _)
    | with_reducible apply good_foldl | simp only [State.good_upd_iff] | simp only [State.good_bootUpd_iff]
    | with_reducible refine good_snd (by assumption) ?_ | with_reducible refine good_fst (by assumption) ?_
    | (simp [*]; done)

@[simp] theorem State.endCopy_good {kt mv : Nat} {s : State} (c id : Nat) (hs : s.Good kt mv) :
    State.Good kt mv (State.endCopy s c id) := by
  unfold State.endCopy
  repeat'
    first
    | with_reducible assumption | with_reducible apply State.modCore_good | with_reducible apply State.poke_good
    | with_reducible apply State.restIdle_good | with_reducible apply State.modCopy_good | dsimp only | split
    | (intro _) | with_reducible apply good_foldl | simp only [State.good_upd_iff]
    | simp only [State.good_bootUpd_iff] | with_reducible refine good_snd (by assumption) ?_
    | with_reducible refine good_fst (by assumption) ?_ | (simp [*]; done)

@[simp] theorem State.noFill_good {kt mv : Nat} {s : State} (c : Nat) (x : Copy) (va : Word) (t : Stop) (hs : s.Good kt mv) :
    State.Good kt mv (State.noFill s c x va t) := by
  unfold State.noFill
  repeat'
    first
    | with_reducible assumption | with_reducible apply State.stopCopy_good
    | with_reducible apply State.endCopy_good | dsimp only | split | (intro _) | with_reducible apply good_foldl
    | simp only [State.good_upd_iff] | simp only [State.good_bootUpd_iff]
    | with_reducible refine good_snd (by assumption) ?_ | with_reducible refine good_fst (by assumption) ?_
    | (simp [*]; done)

@[simp] theorem State.startCopy_good {kt mv : Nat} {s : State} (d : Reg) (checks : List Word) (f : Nat → Copy) (hs :
    s.Good kt mv) :
    State.Good kt mv (State.startCopy s d checks f) := by
  unfold State.startCopy
  repeat'
    first
    | with_reducible assumption | with_reducible apply State.modMine_good | with_reducible apply State.wrC_good
    | with_reducible apply State.enqueue_good | with_reducible apply State.issue_good
    | with_reducible apply State.hold_good | with_reducible apply State.trapHere_good
    | with_reducible apply State.modCopy_good | with_reducible apply State.kickCopies_good | dsimp only | split
    | (intro _) | with_reducible apply good_foldl | simp only [State.good_upd_iff]
    | simp only [State.good_bootUpd_iff] | with_reducible refine good_snd (by assumption) ?_
    | with_reducible refine good_fst (by assumption) ?_ | (simp [*]; done)

@[simp] theorem State.modRing_good {kt mv : Nat} {s : State} (c : Nat) (h : RingNo) (f : Ring → Ring) (hs : s.Good kt mv) :
    State.Good kt mv (State.modRing s c h f) := by
  unfold State.modRing
  repeat'
    first
    | with_reducible assumption | with_reducible apply State.modCore_good | dsimp only | split | (intro _)
    | with_reducible apply good_foldl | simp only [State.good_upd_iff] | simp only [State.good_bootUpd_iff]
    | with_reducible refine good_snd (by assumption) ?_ | with_reducible refine good_fst (by assumption) ?_
    | (simp [*]; done)

@[simp] theorem State.takePush_good {kt mv : Nat} {s : State} (lid : BitVec 32) (c : Nat) (h : RingNo) (hs : s.Good kt mv) :
    State.Good kt mv (State.takePush s lid c h).2 := by
  unfold State.takePush
  repeat'
    first
    | with_reducible assumption | with_reducible apply State.push_good | with_reducible apply State.modRing_good
    | dsimp only | split | (intro _) | with_reducible apply good_foldl | simp only [State.good_upd_iff]
    | simp only [State.good_bootUpd_iff] | with_reducible refine good_snd (by assumption) ?_
    | with_reducible refine good_fst (by assumption) ?_ | (simp [*]; done)

@[simp] theorem State.pushTry_good {kt mv : Nat} {s : State} (h : RingNo) (addr : Word) (n : Nat) (hs : s.Good kt mv) :
    State.Good kt mv (State.pushTry s h addr n) := by
  unfold State.pushTry
  repeat'
    first
    | with_reducible assumption | with_reducible apply State.modMe_good | with_reducible apply State.enqueue_good
    | with_reducible apply State.enqueueLast_good | with_reducible apply State.bumpId_good
    | with_reducible apply State.holdOp_good | with_reducible apply State.push_good | dsimp only | split
    | (intro _) | with_reducible apply good_foldl | simp only [State.good_upd_iff]
    | simp only [State.good_bootUpd_iff] | with_reducible refine good_snd (by assumption) ?_
    | with_reducible refine good_fst (by assumption) ?_ | (simp [*]; done)

@[simp] theorem State.pushAnswered_good {kt mv : Nat} {s : State} (h : RingNo) (remote : Bool) (addr : Word) (n : Nat)
    (x : MsgAnswer) (hs : s.Good kt mv) :
    State.Good kt mv (State.pushAnswered s h remote addr n x) := by
  unfold State.pushAnswered
  repeat'
    first
    | with_reducible assumption | with_reducible apply State.issue_good | with_reducible apply State.trapHere_good
    | with_reducible apply State.sendAgain_good | with_reducible apply State.pushTry_good | dsimp only | split
    | (intro _) | with_reducible apply good_foldl | simp only [State.good_upd_iff]
    | simp only [State.good_bootUpd_iff] | with_reducible refine good_snd (by assumption) ?_
    | with_reducible refine good_fst (by assumption) ?_ | (simp [*]; done)

@[simp] theorem State.freeSlots_good {kt mv : Nat} {s : State} (c : Nat) (p : Prio) (fold : Bool) (h : RingNo) (n t :
    Nat) (hs : s.Good kt mv) :
    State.Good kt mv (State.freeSlots s c p fold h n t) := by
  unfold State.freeSlots
  repeat'
    first
    | with_reducible assumption | with_reducible apply State.enqueue_good | with_reducible apply State.bumpId_good
    | with_reducible apply State.modRing_good | dsimp only | split | (intro _) | with_reducible apply good_foldl
    | simp only [State.good_upd_iff] | simp only [State.good_bootUpd_iff]
    | with_reducible refine good_snd (by assumption) ?_ | with_reducible refine good_fst (by assumption) ?_
    | (simp [*]; done)

@[simp] theorem State.emptyReach_good {kt mv : Nat} {s : State} (c : Nat) (lid : BitVec 32) (x_ : List Word) (hs :
    s.Good kt mv) :
    State.Good kt mv (State.emptyReach s c lid x_).2 := by
  induction x_ generalizing s c lid with
  | nil =>
    simp only [State.emptyReach]
    repeat'
      first
      | with_reducible assumption | with_reducible apply ih | with_reducible apply State.reach_good | dsimp only
      | split | (intro _) | with_reducible apply good_foldl | simp only [State.good_upd_iff]
      | simp only [State.good_bootUpd_iff] | with_reducible refine good_snd (by assumption) ?_
      | with_reducible refine good_fst (by assumption) ?_ | (simp [*]; done)
  | cons y_ l_ ih =>
    simp only [State.emptyReach]
    repeat'
      first
      | with_reducible assumption | with_reducible apply ih | with_reducible apply State.reach_good | dsimp only
      | split | (intro _) | with_reducible apply good_foldl | simp only [State.good_upd_iff]
      | simp only [State.good_bootUpd_iff] | with_reducible refine good_snd (by assumption) ?_
      | with_reducible refine good_fst (by assumption) ?_ | (simp [*]; done)

@[simp] theorem State.emptyWords_good {kt mv : Nat} {s : State} (c : Nat) (h : RingNo) (lid : BitVec 32) (l : List Word)
    (hs : s.Good kt mv) :
    State.Good kt mv (State.emptyWords s c h lid l) := by
  unfold State.emptyWords
  repeat'
    first
    | with_reducible assumption | with_reducible apply State.reach_good
    | with_reducible apply State.engineEmpty_good | dsimp only | split | (intro _)
    | with_reducible apply good_foldl | simp only [State.good_upd_iff] | simp only [State.good_bootUpd_iff]
    | with_reducible refine good_snd (by assumption) ?_ | with_reducible refine good_fst (by assumption) ?_
    | (simp [*]; done)

@[simp] theorem State.slotFree_good {kt mv : Nat} {s : State} (c : Nat) (h : RingNo) (lid : BitVec 32) (hs : s.Good kt mv) :
    State.Good kt mv (State.slotFree s c h lid) := by
  unfold State.slotFree
  repeat'
    first
    | with_reducible assumption | with_reducible apply State.poke_good | with_reducible apply State.modRing_good
    | dsimp only | split | (intro _) | with_reducible apply good_foldl | simp only [State.good_upd_iff]
    | simp only [State.good_bootUpd_iff] | with_reducible refine good_snd (by assumption) ?_
    | with_reducible refine good_fst (by assumption) ?_ | (simp [*]; done)

@[simp] theorem State.parityTrap_good {kt mv : Nat} {s : State} (row : Nat) (hs : s.Good kt mv) :
    State.Good kt mv (State.parityTrap s row) := by
  unfold State.parityTrap
  repeat'
    first
    | with_reducible assumption | with_reducible apply State.countUncorr_good
    | with_reducible apply State.trapHere_good | dsimp only | split | (intro _) | with_reducible apply good_foldl
    | simp only [State.good_upd_iff] | simp only [State.good_bootUpd_iff]
    | with_reducible refine good_snd (by assumption) ?_ | with_reducible refine good_fst (by assumption) ?_
    | (simp [*]; done)

@[simp] theorem State.issueArray_good {kt mv : Nat} {s : State} (hs : s.Good kt mv) :
    State.Good kt mv (State.issueArray s) := by
  unfold State.issueArray
  repeat'
    first
    | with_reducible assumption | with_reducible apply State.issue_good | with_reducible apply State.anchor_good
    | dsimp only | split | (intro _) | with_reducible apply good_foldl | simp only [State.good_upd_iff]
    | simp only [State.good_bootUpd_iff] | with_reducible refine good_snd (by assumption) ?_
    | with_reducible refine good_fst (by assumption) ?_ | (simp [*]; done)

@[simp] theorem State.onePass_good {kt mv : Nat} {s : State} (bad : Core → Option Nat) (f : State → State) (hs : s.Good
    kt mv) (hf : ∀ (a0_ : State), a0_.Good kt mv → State.Good kt mv (f a0_)) :
    OutGood kt mv (State.onePass s bad f) := by
  unfold State.onePass
  repeat'
    first
    | with_reducible assumption | with_reducible apply hf | with_reducible apply State.hold_good
    | with_reducible apply State.trapHere_good | with_reducible apply State.parityTrap_good
    | with_reducible apply State.issueArray_good | exact outGood_fault | exact outGood_refused
    | with_reducible apply outGood_next | dsimp only | split | (intro _) | with_reducible apply good_foldl
    | simp only [State.good_upd_iff] | simp only [State.good_bootUpd_iff]
    | with_reducible refine good_snd (by assumption) ?_ | with_reducible refine good_fst (by assumption) ?_
    | (simp [*]; done)

@[simp] theorem State.writeRows_good {kt mv : Nat} {s : State} (mask : Option Tag) (f : Field) (v : Nat) (hs : s.Good kt mv) :
    OutGood kt mv (State.writeRows s mask f v) := by
  unfold State.writeRows
  repeat'
    first
    | with_reducible assumption | with_reducible apply State.modMine_good | with_reducible apply State.onePass_good
    | exact outGood_fault | exact outGood_refused | with_reducible apply outGood_next | dsimp only | split
    | (intro _) | with_reducible apply good_foldl | simp only [State.good_upd_iff]
    | simp only [State.good_bootUpd_iff] | with_reducible refine good_snd (by assumption) ?_
    | with_reducible refine good_fst (by assumption) ?_ | (simp [*]; done)

@[simp] theorem State.passTrap_good {kt mv : Nat} {s : State} (done : Nat) (code : Option Nat) (row : Nat) (hs : s.Good
    kt mv) :
    State.Good kt mv (State.passTrap s done code row) := by
  unfold State.passTrap
  repeat'
    first
    | with_reducible assumption | with_reducible apply State.modMe_good
    | with_reducible apply State.parityTrap_good | dsimp only | split | (intro _) | with_reducible apply good_foldl
    | simp only [State.good_upd_iff] | simp only [State.good_bootUpd_iff]
    | with_reducible refine good_snd (by assumption) ?_ | with_reducible refine good_fst (by assumption) ?_
    | (simp [*]; done)

@[simp] theorem State.beginPasses_good {kt mv : Nat} {s : State} (p d : Nat) (code : Option Nat) (stamp : Word) (bad :
    Core → Option Nat) (last : State → State) (hs : s.Good kt mv) (hlast : ∀ (a0_ : State), a0_.Good kt mv → State.Good
    kt mv (last a0_)) :
    State.Good kt mv (State.beginPasses s p d code stamp bad last) := by
  unfold State.beginPasses
  repeat'
    first
    | with_reducible assumption | with_reducible apply hlast | with_reducible apply State.modMe_good
    | with_reducible apply State.enqueueFirst_good | with_reducible apply State.hold_good
    | with_reducible apply State.issueArray_good | with_reducible apply State.passTrap_good | dsimp only | split
    | (intro _) | with_reducible apply good_foldl | simp only [State.good_upd_iff]
    | simp only [State.good_bootUpd_iff] | with_reducible refine good_snd (by assumption) ?_
    | with_reducible refine good_fst (by assumption) ?_ | (simp [*]; done)

@[simp] theorem State.firstPass_good {kt mv : Nat} {s : State} (p : Nat) (code : Option Nat) (bad : Core → Option Nat)
    (last : State → State) (wait : State → State) (hs : s.Good kt mv) (hlast : ∀ (a0_ : State), a0_.Good kt mv →
    State.Good kt mv (last a0_)) (hwait : ∀ (a0_ : State), a0_.Good kt mv → State.Good kt mv (wait a0_)) :
    State.Good kt mv (State.firstPass s p code bad last wait) := by
  unfold State.firstPass
  repeat'
    first
    | with_reducible assumption | with_reducible apply hlast | with_reducible apply hwait
    | with_reducible apply State.modMe_good | with_reducible apply State.trapHere_good
    | with_reducible apply State.beginPasses_good | dsimp only | split | (intro _)
    | with_reducible apply good_foldl | simp only [State.good_upd_iff] | simp only [State.good_bootUpd_iff]
    | with_reducible refine good_snd (by assumption) ?_ | with_reducible refine good_fst (by assumption) ?_
    | (simp [*]; done)

@[simp] theorem State.passes_good {kt mv : Nat} {s : State} (p : Nat) (code : Option Nat) (bad : Core → Option Nat)
    (last : State → State) (wait : State → State) (hs : s.Good kt mv) (hlast : ∀ (a0_ : State), a0_.Good kt mv →
    State.Good kt mv (last a0_)) (hwait : ∀ (a0_ : State), a0_.Good kt mv → State.Good kt mv (wait a0_)) :
    OutGood kt mv (State.passes s p code bad last wait) := by
  unfold State.passes
  repeat'
    first
    | with_reducible assumption | with_reducible apply hlast | with_reducible apply hwait
    | with_reducible apply State.hold_good | with_reducible apply State.issueArray_good
    | with_reducible apply State.passTrap_good | with_reducible apply State.beginPasses_good
    | with_reducible apply State.firstPass_good | exact outGood_fault | exact outGood_refused
    | with_reducible apply outGood_next | dsimp only | split | (intro _) | with_reducible apply good_foldl
    | simp only [State.good_upd_iff] | simp only [State.good_bootUpd_iff]
    | with_reducible refine good_snd (by assumption) ?_ | with_reducible refine good_fst (by assumption) ?_
    | (simp [*]; done)

@[simp] theorem State.userPass_good {kt mv : Nat} {s : State} (start doff aoff boff i : Nat) (op : Op) (hs : s.Good kt mv) :
    State.Good kt mv (State.userPass s start doff aoff boff i op) := by
  unfold State.userPass
  repeat'
    first
    | with_reducible assumption | with_reducible apply State.modMine_good | with_reducible apply State.modMe_good
    | with_reducible apply State.hold_good | with_reducible apply State.issueArray_good
    | with_reducible apply State.passTrap_good | dsimp only | split | (intro _) | with_reducible apply good_foldl
    | simp only [State.good_upd_iff] | simp only [State.good_bootUpd_iff]
    | with_reducible refine good_snd (by assumption) ?_ | with_reducible refine good_fst (by assumption) ?_
    | (simp [*]; done)

@[simp] theorem State.pokeApply_good {kt mv : Nat} {s : State} (c : Nat) (hs : s.Good kt mv) :
    State.Good kt mv (State.pokeApply s c) := by
  unfold State.pokeApply
  repeat'
    first
    | with_reducible assumption | with_reducible apply State.enqueueLast_good | dsimp only | split | (intro _)
    | with_reducible apply good_foldl | simp only [State.good_upd_iff] | simp only [State.good_bootUpd_iff]
    | with_reducible refine good_snd (by assumption) ?_ | with_reducible refine good_fst (by assumption) ?_
    | (simp [*]; done)

@[simp] theorem State.setStep_good {kt mv : Nat} {s : State} (c : Nat) (v : Word) (hs : s.Good kt mv) :
    State.Good kt mv (State.setStep s c v) := by
  unfold State.setStep
  repeat'
    first
    | with_reducible assumption | with_reducible apply State.modCore_good
    | with_reducible apply State.pokeApply_good | dsimp only | split | (intro _) | with_reducible apply good_foldl
    | simp only [State.good_upd_iff] | simp only [State.good_bootUpd_iff]
    | with_reducible refine good_snd (by assumption) ?_ | with_reducible refine good_fst (by assumption) ?_
    | (simp [*]; done)

@[simp] theorem State.endTrace_good {kt mv : Nat} {s : State} (c : Nat) (stamp : Word) (hs : s.Good kt mv) :
    State.Good kt mv (State.endTrace s c stamp) := by
  unfold State.endTrace
  repeat'
    first
    | with_reducible assumption | with_reducible apply State.modCore_good | with_reducible apply State.setStep_good
    | dsimp only | split | (intro _) | with_reducible apply good_foldl | simp only [State.good_upd_iff]
    | simp only [State.good_bootUpd_iff] | with_reducible refine good_snd (by assumption) ?_
    | with_reducible refine good_fst (by assumption) ?_ | (simp [*]; done)

@[simp] theorem State.beginTrace_good {kt mv : Nat} {s : State} (d : Nat) (stamp : Word) (hs : s.Good kt mv) :
    State.Good kt mv (State.beginTrace s d stamp) := by
  unfold State.beginTrace
  repeat'
    first
    | with_reducible assumption | with_reducible apply State.beginPasses_good
    | with_reducible apply State.endTrace_good | dsimp only | split | (intro _) | with_reducible apply good_foldl
    | simp only [State.good_upd_iff] | simp only [State.good_bootUpd_iff]
    | with_reducible refine good_snd (by assumption) ?_ | with_reducible refine good_fst (by assumption) ?_
    | (simp [*]; done)

@[simp] theorem State.passParity_good {kt mv : Nat} {s : State} (c : Nat) (bad : List Nat) (hs : s.Good kt mv) :
    State.Good kt mv (State.passParity s c bad) := by
  unfold State.passParity
  repeat'
    first
    | with_reducible assumption | with_reducible apply State.modCore_good
    | with_reducible apply State.countUncorr_good | dsimp only | split | (intro _)
    | with_reducible apply good_foldl | simp only [State.good_upd_iff] | simp only [State.good_bootUpd_iff]
    | with_reducible refine good_snd (by assumption) ?_ | with_reducible refine good_fst (by assumption) ?_
    | (simp [*]; done)

@[simp] theorem State.runApply_good {kt mv : Nat} {s : State} (c : Nat) (x : Reward) (done : Nat) (hs : s.Good kt mv) :
    State.Good kt mv (State.runApply s c x done) := by
  unfold State.runApply
  repeat'
    first
    | with_reducible assumption | with_reducible apply State.modCore_good
    | with_reducible apply State.enqueueFirst_good | with_reducible apply State.passParity_good | dsimp only
    | split | (intro _) | with_reducible apply good_foldl | simp only [State.good_upd_iff]
    | simp only [State.good_bootUpd_iff] | with_reducible refine good_snd (by assumption) ?_
    | with_reducible refine good_fst (by assumption) ?_ | (simp [*]; done)

@[simp] theorem State.sendBcast_good {kt mv : Nat} {s : State} (c d : Nat) (sc : Scope) (hs : s.Good kt mv) :
    State.Good kt mv (State.sendBcast s c d sc) := by
  unfold State.sendBcast
  repeat'
    first
    | with_reducible assumption | with_reducible apply State.enqueue_good | dsimp only | split | (intro _)
    | with_reducible apply good_foldl | simp only [State.good_upd_iff] | simp only [State.good_bootUpd_iff]
    | with_reducible refine good_snd (by assumption) ?_ | with_reducible refine good_fst (by assumption) ?_
    | (simp [*]; done)

@[simp] theorem State.broadcast_good {kt mv : Nat} {s : State} (r : Option (BitVec 16)) (stamp : Word) (sc : Scope) (hs
    : s.Good kt mv) :
    State.Good kt mv (State.broadcast s r stamp sc) := by
  unfold State.broadcast
  repeat'
    first
    | with_reducible assumption | with_reducible apply State.modMine_good | with_reducible apply State.enqueue_good
    | with_reducible apply State.delayed_good | with_reducible apply State.toSpan_good
    | with_reducible apply State.sendBcast_good | dsimp only | split | (intro _) | with_reducible apply good_foldl
    | simp only [State.good_upd_iff] | simp only [State.good_bootUpd_iff]
    | with_reducible refine good_snd (by assumption) ?_ | with_reducible refine good_fst (by assumption) ?_
    | (simp [*]; done)

@[simp] theorem State.bcastIns_good {kt mv : Nat} {s : State} (r : Option (BitVec 16)) (stamp : Word) (sc : Scope) (hs :
    s.Good kt mv) :
    OutGood kt mv (State.bcastIns s r stamp sc) := by
  unfold State.bcastIns
  repeat'
    first
    | with_reducible assumption | with_reducible apply State.issue_good | with_reducible apply State.holdOp_good
    | with_reducible apply State.broadcast_good | exact outGood_fault | exact outGood_refused
    | with_reducible apply outGood_next | dsimp only | split | (intro _) | with_reducible apply good_foldl
    | simp only [State.good_upd_iff] | simp only [State.good_bootUpd_iff]
    | with_reducible refine good_snd (by assumption) ?_ | with_reducible refine good_fst (by assumption) ?_
    | (simp [*]; done)

@[simp] theorem State.takeBcast_good {kt mv : Nat} {s : State} (lid : BitVec 32) (c : Nat) (r : Option (BitVec 16))
    (stamp : Word) (hs : s.Good kt mv) :
    State.Good kt mv (State.takeBcast s lid c r stamp).2 := by
  unfold State.takeBcast
  repeat'
    first
    | with_reducible assumption | with_reducible apply State.modCore_good
    | with_reducible apply State.pokeApply_good | dsimp only | split | (intro _) | with_reducible apply good_foldl
    | simp only [State.good_upd_iff] | simp only [State.good_bootUpd_iff]
    | with_reducible refine good_snd (by assumption) ?_ | with_reducible refine good_fst (by assumption) ?_
    | (simp [*]; done)

@[simp] theorem State.modFold_good {kt mv : Nat} {s : State} (id : Nat) (f : FoldOp → FoldOp) (hs : s.Good kt mv) :
    State.Good kt mv (State.modFold s id f) := by
  unfold State.modFold
  repeat'
    first
    | with_reducible assumption | dsimp only | split | (intro _) | with_reducible apply good_foldl
    | simp only [State.good_upd_iff] | simp only [State.good_bootUpd_iff]
    | with_reducible refine good_snd (by assumption) ?_ | with_reducible refine good_fst (by assumption) ?_
    | (simp [*]; done)

@[simp] theorem State.kick_good {kt mv : Nat} {s : State} (c : Nat) (hs : s.Good kt mv) :
    State.Good kt mv (State.kick s c) := by
  unfold State.kick
  repeat'
    first
    | with_reducible assumption | with_reducible apply State.modCore_good | with_reducible apply State.enqueue_good
    | with_reducible apply State.enqueueLast_good | dsimp only | split | (intro _)
    | with_reducible apply good_foldl | simp only [State.good_upd_iff] | simp only [State.good_bootUpd_iff]
    | with_reducible refine good_snd (by assumption) ?_ | with_reducible refine good_fst (by assumption) ?_
    | (simp [*]; done)

@[simp] theorem State.takePlace_good {kt mv : Nat} {s : State} (c : Nat) (hs : s.Good kt mv) :
    State.Good kt mv (State.takePlace s c) := by
  unfold State.takePlace
  repeat'
    first
    | with_reducible assumption | with_reducible apply State.modCore_good | with_reducible apply State.modBank_good
    | with_reducible apply State.modFold_good | dsimp only | split | (intro _) | with_reducible apply good_foldl
    | simp only [State.good_upd_iff] | simp only [State.good_bootUpd_iff]
    | with_reducible refine good_snd (by assumption) ?_ | with_reducible refine good_fst (by assumption) ?_
    | (simp [*]; done)

@[simp] theorem State.popQueue_good {kt mv : Nat} {s : State} (c : Nat) (hs : s.Good kt mv) :
    State.Good kt mv (State.popQueue s c) := by
  unfold State.popQueue
  repeat'
    first
    | with_reducible assumption | with_reducible apply State.modCore_good
    | with_reducible apply State.restIdle_good | with_reducible apply State.kick_good
    | with_reducible apply State.takePlace_good | dsimp only | split | (intro _) | with_reducible apply good_foldl
    | simp only [State.good_upd_iff] | simp only [State.good_bootUpd_iff]
    | with_reducible refine good_snd (by assumption) ?_ | with_reducible refine good_fst (by assumption) ?_
    | (simp [*]; done)

@[simp] theorem State.failItem_good {kt mv : Nat} {s : State} (c : Nat) (owner : Option Nat) (a : Acc) (fold : Bool) (x
    : Stop) (hs : s.Good kt mv) :
    State.Good kt mv (State.failItem s c owner a fold x) := by
  unfold State.failItem
  repeat'
    first
    | with_reducible assumption | with_reducible apply State.modCore_good | dsimp only | split | (intro _)
    | with_reducible apply good_foldl | simp only [State.good_upd_iff] | simp only [State.good_bootUpd_iff]
    | with_reducible refine good_snd (by assumption) ?_ | with_reducible refine good_fst (by assumption) ?_
    | (simp [*]; done)

@[simp] theorem State.placeAgain_good {kt mv : Nat} {s : State} (o : FoldOp) (j : Join) (hs : s.Good kt mv) :
    State.Good kt mv (State.placeAgain s o j) := by
  unfold State.placeAgain
  repeat'
    first
    | with_reducible assumption | with_reducible apply State.modCore_good | with_reducible apply State.modFold_good
    | dsimp only | split | (intro _) | with_reducible apply good_foldl | simp only [State.good_upd_iff]
    | simp only [State.good_bootUpd_iff] | with_reducible refine good_snd (by assumption) ?_
    | with_reducible refine good_fst (by assumption) ?_ | (simp [*]; done)

@[simp] theorem State.joinFails_good {kt mv : Nat} {s : State} (j : Join) (hs : s.Good kt mv) :
    State.Good kt mv (State.joinFails s j) := by
  unfold State.joinFails
  repeat'
    first
    | with_reducible assumption | with_reducible apply State.modCore_good
    | with_reducible apply State.takeTrap_good | with_reducible apply State.kick_good
    | with_reducible apply State.takePlace_good | with_reducible apply State.failItem_good | dsimp only | split
    | (intro _) | with_reducible apply good_foldl | simp only [State.good_upd_iff]
    | simp only [State.good_bootUpd_iff] | with_reducible refine good_snd (by assumption) ?_
    | with_reducible refine good_fst (by assumption) ?_ | (simp [*]; done)

@[simp] theorem State.checkJoin_good {kt mv : Nat} {s : State} (c : Nat) (hs : s.Good kt mv) :
    State.Good kt mv (State.checkJoin s c) := by
  unfold State.checkJoin
  repeat'
    first
    | with_reducible assumption | with_reducible apply State.enqueue_good | dsimp only | split | (intro _)
    | with_reducible apply good_foldl | simp only [State.good_upd_iff] | simp only [State.good_bootUpd_iff]
    | with_reducible refine good_snd (by assumption) ?_ | with_reducible refine good_fst (by assumption) ?_
    | (simp [*]; done)

@[simp] theorem State.commitFold_good {kt mv : Nat} {s : State} (o : FoldOp) (who : List (Nat × Prio)) (stand : List
    Join) (hs : s.Good kt mv) :
    State.Good kt mv (State.commitFold s o who stand) := by
  unfold State.commitFold
  repeat'
    first
    | with_reducible assumption | with_reducible apply State.modBank_good | with_reducible apply State.bumpId_good
    | with_reducible apply State.kick_good | with_reducible apply State.takePlace_good
    | with_reducible apply State.placeAgain_good | dsimp only | split | (intro _) | with_reducible apply good_foldl
    | simp only [State.good_upd_iff] | simp only [State.good_bootUpd_iff]
    | with_reducible refine good_snd (by assumption) ?_ | with_reducible refine good_fst (by assumption) ?_
    | (simp [*]; done)

@[simp] theorem State.holdJoin_good {kt mv : Nat} {s : State} (hs : s.Good kt mv) :
    State.Good kt mv (State.holdJoin s) := by
  unfold State.holdJoin
  repeat'
    first
    | with_reducible assumption | with_reducible apply State.modMe_good
    | with_reducible apply State.enqueueLast_good | with_reducible apply State.holdOp_good | dsimp only | split
    | (intro _) | with_reducible apply good_foldl | simp only [State.good_upd_iff]
    | simp only [State.good_bootUpd_iff] | with_reducible refine good_snd (by assumption) ?_
    | with_reducible refine good_fst (by assumption) ?_ | (simp [*]; done)

@[simp] theorem State.issuePlaced_good {kt mv : Nat} {s : State} (hs : s.Good kt mv) :
    State.Good kt mv (State.issuePlaced s) := by
  unfold State.issuePlaced
  repeat'
    first
    | with_reducible assumption | with_reducible apply State.issue_good | with_reducible apply State.hold_good
    | with_reducible apply State.anchor_good | dsimp only | split | (intro _) | with_reducible apply good_foldl
    | simp only [State.good_upd_iff] | simp only [State.good_bootUpd_iff]
    | with_reducible refine good_snd (by assumption) ?_ | with_reducible refine good_fst (by assumption) ?_
    | (simp [*]; done)

@[simp] theorem State.endFold_good {kt mv : Nat} {s : State} (o : FoldOp) (hs : s.Good kt mv) :
    State.Good kt mv (State.endFold s o) := by
  unfold State.endFold
  repeat'
    first
    | with_reducible assumption | with_reducible apply State.enqueue_good | with_reducible apply State.modFold_good
    | dsimp only | split | (intro _) | with_reducible apply good_foldl | simp only [State.good_upd_iff]
    | simp only [State.good_bootUpd_iff] | with_reducible refine good_snd (by assumption) ?_
    | with_reducible refine good_fst (by assumption) ?_ | (simp [*]; done)

@[simp] theorem State.readSlot_good {kt mv : Nat} {s : State} (c : Nat) (lid : BitVec 32) (at_ : Word) (x_ : Nat) (hs :
    s.Good kt mv) :
    State.Good kt mv (State.readSlot s c lid at_ x_).2 := by
  induction x_ generalizing s c lid at_ with
  | zero =>
    simp only [State.readSlot]
    repeat'
      first
      | with_reducible assumption | with_reducible apply ih | with_reducible apply State.reach_good
      | with_reducible apply State.engineRead_good | dsimp only | split | (intro _)
      | with_reducible apply good_foldl | simp only [State.good_upd_iff] | simp only [State.good_bootUpd_iff]
      | with_reducible refine good_snd (by assumption) ?_ | with_reducible refine good_fst (by assumption) ?_
      | (simp [*]; done)
  | succ n_ ih =>
    simp only [State.readSlot]
    repeat'
      first
      | with_reducible assumption | with_reducible apply ih | with_reducible apply State.reach_good
      | with_reducible apply State.engineRead_good | dsimp only | split | (intro _)
      | with_reducible apply good_foldl | simp only [State.good_upd_iff] | simp only [State.good_bootUpd_iff]
      | with_reducible refine good_snd (by assumption) ?_ | with_reducible refine good_fst (by assumption) ?_
      | (simp [*]; done)

@[simp] theorem State.readRound_good {kt mv : Nat} {s : State} (o : FoldOp) (x_ : List Nat) (hs : s.Good kt mv) :
    State.Good kt mv (State.readRound s o x_).2 := by
  induction x_ generalizing s o with
  | nil =>
    simp only [State.readRound]
    repeat'
      first
      | with_reducible assumption | with_reducible apply ih | with_reducible apply State.readSlot_good
      | with_reducible apply State.slot_good | dsimp only | split | (intro _) | with_reducible apply good_foldl
      | simp only [State.good_upd_iff] | simp only [State.good_bootUpd_iff]
      | with_reducible refine good_snd (by assumption) ?_ | with_reducible refine good_fst (by assumption) ?_
      | (simp [*]; done)
  | cons y_ l_ ih =>
    simp only [State.readRound]
    repeat'
      first
      | with_reducible assumption | with_reducible apply ih | with_reducible apply State.readSlot_good
      | with_reducible apply State.slot_good | dsimp only | split | (intro _) | with_reducible apply good_foldl
      | simp only [State.good_upd_iff] | simp only [State.good_bootUpd_iff]
      | with_reducible refine good_snd (by assumption) ?_ | with_reducible refine good_fst (by assumption) ?_
      | (simp [*]; done)

@[simp] theorem State.watchUsage_good {kt mv : Nat} {s : State} (i : Nat) (hs : s.Good kt mv) :
    State.Good kt mv (State.watchUsage s i) := by
  unfold State.watchUsage
  repeat'
    first
    | with_reducible assumption | with_reducible apply State.enqueueFirst_good | dsimp only | split | (intro _)
    | with_reducible apply good_foldl | simp only [State.good_upd_iff] | simp only [State.good_bootUpd_iff]
    | with_reducible refine good_snd (by assumption) ?_ | with_reducible refine good_fst (by assumption) ?_
    | (simp [*]; done)

@[simp] theorem State.addUsage_good {kt mv : Nat} {s : State} (i n : Nat) (hs : s.Good kt mv) :
    State.Good kt mv (State.addUsage s i n) := by
  unfold State.addUsage
  repeat'
    first
    | with_reducible assumption | with_reducible apply State.modLayer_good
    | with_reducible apply State.watchUsage_good | dsimp only | split | (intro _) | with_reducible apply good_foldl
    | simp only [State.good_upd_iff] | simp only [State.good_bootUpd_iff]
    | with_reducible refine good_snd (by assumption) ?_ | with_reducible refine good_fst (by assumption) ?_
    | (simp [*]; done)

@[simp] theorem State.roundOver_good {kt mv : Nat} {s : State} (o : FoldOp) (hs : s.Good kt mv) :
    State.Good kt mv (State.roundOver s o) := by
  unfold State.roundOver
  repeat'
    first
    | with_reducible assumption | with_reducible apply State.dropGroup_good | dsimp only | split | (intro _)
    | with_reducible apply good_foldl | simp only [State.good_upd_iff] | simp only [State.good_bootUpd_iff]
    | with_reducible refine good_snd (by assumption) ?_ | with_reducible refine good_fst (by assumption) ?_
    | (simp [*]; done)

@[simp] theorem State.foldAgain_good {kt mv : Nat} {s : State} (o : FoldOp) (hs : s.Good kt mv) :
    State.Good kt mv (State.foldAgain s o) := by
  unfold State.foldAgain
  repeat'
    first
    | with_reducible assumption | with_reducible apply State.enqueueLast_good | dsimp only | split | (intro _)
    | with_reducible apply good_foldl | simp only [State.good_upd_iff] | simp only [State.good_bootUpd_iff]
    | with_reducible refine good_snd (by assumption) ?_ | with_reducible refine good_fst (by assumption) ?_
    | (simp [*]; done)

@[simp] theorem State.beginRound_good {kt mv : Nat} {s : State} (o : FoldOp) (hs : s.Good kt mv) :
    State.Good kt mv (State.beginRound s o) := by
  unfold State.beginRound
  repeat'
    first
    | with_reducible assumption | with_reducible apply State.modFold_good
    | with_reducible apply State.addUsage_good | dsimp only | split | (intro _) | with_reducible apply good_foldl
    | simp only [State.good_upd_iff] | simp only [State.good_bootUpd_iff]
    | with_reducible refine good_snd (by assumption) ?_ | with_reducible refine good_fst (by assumption) ?_
    | (simp [*]; done)

@[simp] theorem State.retire_good {kt mv : Nat} {s : State} (o : FoldOp) (hs : s.Good kt mv) :
    State.Good kt mv (State.retire s o) := by
  unfold State.retire
  repeat'
    first
    | with_reducible assumption | with_reducible apply State.enqueueFirst_good
    | with_reducible apply State.modRing_good | dsimp only | split | (intro _) | with_reducible apply good_foldl
    | simp only [State.good_upd_iff] | simp only [State.good_bootUpd_iff]
    | with_reducible refine good_snd (by assumption) ?_ | with_reducible refine good_fst (by assumption) ?_
    | (simp [*]; done)

@[simp] theorem State.roundStep_good {kt mv : Nat} {s : State} (o : FoldOp) (till : Nat) (close : State → List (Nat ×
    Nat × Nat) → State) (hs : s.Good kt mv) (hc : ∀ st d, st.Good kt mv → (close st d).Good kt mv) :
    State.Good kt mv (State.roundStep s o till close) := by
  unfold State.roundStep
  repeat'
    first
    | with_reducible assumption | with_reducible apply State.enqueue_good | with_reducible apply State.modFold_good
    | with_reducible apply State.endFold_good | with_reducible apply State.readRound_good
    | with_reducible apply State.roundOver_good | with_reducible apply State.foldAgain_good
    | with_reducible apply hc | dsimp only | split | (intro _) | with_reducible apply good_foldl
    | simp only [State.good_upd_iff] | simp only [State.good_bootUpd_iff]
    | with_reducible refine good_snd (by assumption) ?_ | with_reducible refine good_fst (by assumption) ?_
    | (simp [*]; done)

@[simp] theorem State.startRound_good {kt mv : Nat} {s : State} (o : FoldOp) (hs : s.Good kt mv) :
    State.Good kt mv (State.startRound s o) := by
  unfold State.startRound
  repeat'
    first
    | with_reducible assumption | with_reducible apply State.beginRound_good
    | with_reducible apply State.roundStep_good | dsimp only | split | (intro _) | with_reducible apply good_foldl
    | simp only [State.good_upd_iff] | simp only [State.good_bootUpd_iff]
    | with_reducible refine good_snd (by assumption) ?_ | with_reducible refine good_fst (by assumption) ?_
    | (simp [*]; done)

@[simp] theorem State.atBoundary_good {kt mv : Nat} {s : State} (o : FoldOp) (hs : s.Good kt mv) :
    State.Good kt mv (State.atBoundary s o) := by
  unfold State.atBoundary
  repeat'
    first
    | with_reducible assumption | with_reducible apply State.modFold_good | with_reducible apply State.endFold_good
    | with_reducible apply State.roundOver_good | with_reducible apply State.foldAgain_good
    | with_reducible apply State.startRound_good | dsimp only | split | (intro _) | with_reducible apply good_foldl
    | simp only [State.good_upd_iff] | simp only [State.good_bootUpd_iff]
    | with_reducible refine good_snd (by assumption) ?_ | with_reducible refine good_fst (by assumption) ?_
    | (simp [*]; done)

@[simp] theorem State.takeSlots_good {kt mv : Nat} {s : State} (c : Nat) (hs : s.Good kt mv) :
    State.Good kt mv (State.takeSlots s c) := by
  unfold State.takeSlots
  repeat'
    first
    | with_reducible assumption | with_reducible apply State.poke_good | with_reducible apply State.modRing_good
    | with_reducible apply State.freeSlots_good | dsimp only | split | (intro _) | with_reducible apply good_foldl
    | simp only [State.good_upd_iff] | simp only [State.good_bootUpd_iff]
    | with_reducible refine good_snd (by assumption) ?_ | with_reducible refine good_fst (by assumption) ?_
    | (simp [*]; done)

@[simp] theorem State.closeRound_good {kt mv : Nat} (o : FoldOp) {s : State} (data : List (Nat × Nat × Nat)) (hs :
    s.Good kt mv) :
    State.Good kt mv (State.closeRound o s data) := by
  unfold State.closeRound
  repeat'
    first
    | with_reducible assumption | with_reducible apply State.modCore_good
    | with_reducible apply State.bumpFree_good | with_reducible apply State.countUncorr_good
    | with_reducible apply State.modFold_good | with_reducible apply State.endFold_good
    | with_reducible apply State.retire_good | with_reducible apply State.atBoundary_good | dsimp only | split
    | (intro _) | with_reducible apply good_foldl | simp only [State.good_upd_iff]
    | simp only [State.good_bootUpd_iff] | with_reducible refine good_snd (by assumption) ?_
    | with_reducible refine good_fst (by assumption) ?_ | (simp [*]; done)

@[simp] theorem State.devWrite_good {kt mv : Nat} {s : State} (e : List Word) (hs : s.Good kt mv) :
    State.Good kt mv (State.devWrite s e) := by
  unfold State.devWrite
  repeat'
    first
    | with_reducible assumption | with_reducible apply State.wrWords_good
    | with_reducible apply State.unpoison_good | with_reducible apply State.meetBlock_good
    | with_reducible apply State.call_good | dsimp only | split | (intro _) | with_reducible apply good_foldl
    | simp only [State.good_upd_iff] | simp only [State.good_bootUpd_iff]
    | with_reducible refine good_snd (by assumption) ?_ | with_reducible refine good_fst (by assumption) ?_
    | (simp [*]; done)

@[simp] theorem State.devFlush_good {kt mv : Nat} (c : Nat) {s : State} (x_ : List (List Word)) (hs : s.Good kt mv) :
    State.Good kt mv (State.devFlush c x_ s) := by
  induction x_ generalizing c s with
  | nil =>
    simp only [State.devFlush]
    repeat'
      first
      | with_reducible assumption | with_reducible apply ih | with_reducible apply State.enqueue_good
      | with_reducible apply State.devWrite_good | dsimp only | split | (intro _) | with_reducible apply good_foldl
      | simp only [State.good_upd_iff] | simp only [State.good_bootUpd_iff]
      | with_reducible refine good_snd (by assumption) ?_ | with_reducible refine good_fst (by assumption) ?_
      | (simp [*]; done)
  | cons y_ l_ ih =>
    simp only [State.devFlush]
    repeat'
      first
      | with_reducible assumption | with_reducible apply ih | with_reducible apply State.enqueue_good
      | with_reducible apply State.devWrite_good | dsimp only | split | (intro _) | with_reducible apply good_foldl
      | simp only [State.good_upd_iff] | simp only [State.good_bootUpd_iff]
      | with_reducible refine good_snd (by assumption) ?_ | with_reducible refine good_fst (by assumption) ?_
      | (simp [*]; done)

@[simp] theorem State.devLog_good {kt mv : Nat} {s : State} (o : FoldOp) (hs : s.Good kt mv) :
    State.Good kt mv (State.devLog s o) := by
  unfold State.devLog
  repeat'
    first
    | with_reducible assumption | with_reducible apply State.devFlush_good | dsimp only | split | (intro _)
    | with_reducible apply good_foldl | simp only [State.good_upd_iff] | simp only [State.good_bootUpd_iff]
    | with_reducible refine good_snd (by assumption) ?_ | with_reducible refine good_fst (by assumption) ?_
    | (simp [*]; done)

@[simp] theorem State.foldMember_good {kt mv : Nat} {s : State} (o : FoldOp) (c : Nat) (hs : s.Good kt mv) :
    State.Good kt mv (State.foldMember s o c) := by
  unfold State.foldMember
  repeat'
    first
    | with_reducible assumption | with_reducible apply State.modCore_good
    | with_reducible apply State.failItem_good | dsimp only | split | (intro _) | with_reducible apply good_foldl
    | simp only [State.good_upd_iff] | simp only [State.good_bootUpd_iff]
    | with_reducible refine good_snd (by assumption) ?_ | with_reducible refine good_fst (by assumption) ?_
    | (simp [*]; done)

@[simp] theorem State.queueItem_good {kt mv : Nat} {s : State} (it : QItem) (hs : s.Good kt mv) :
    State.Good kt mv (State.queueItem s it) := by
  unfold State.queueItem
  repeat'
    first
    | with_reducible assumption | with_reducible apply State.modMine_good | with_reducible apply State.issue_good
    | with_reducible apply State.hold_good | with_reducible apply State.anchor_good
    | with_reducible apply State.kick_good | dsimp only | split | (intro _) | with_reducible apply good_foldl
    | simp only [State.good_upd_iff] | simp only [State.good_bootUpd_iff]
    | with_reducible refine good_snd (by assumption) ?_ | with_reducible refine good_fst (by assumption) ?_
    | (simp [*]; done)

@[simp] theorem State.readElem_good {kt mv : Nat} {s : State} (c : Nat) (lid : BitVec 32) (f : WidFmt) (ga gb : Word) (i
    : Nat) (hs : s.Good kt mv) :
    State.Good kt mv (State.readElem s c lid f ga gb i).2 := by
  unfold State.readElem
  repeat'
    first
    | with_reducible assumption | with_reducible apply State.reach_good
    | with_reducible apply State.engineRead_good | dsimp only | split | (intro _) | with_reducible apply good_foldl
    | simp only [State.good_upd_iff] | simp only [State.good_bootUpd_iff]
    | with_reducible refine good_snd (by assumption) ?_ | with_reducible refine good_fst (by assumption) ?_
    | (simp [*]; done)

@[simp] theorem State.readElems_good {kt mv : Nat} {s : State} (c : Nat) (lid : BitVec 32) (f : WidFmt) (ga gb : Word)
    (x_ : List Nat) (hs : s.Good kt mv) :
    State.Good kt mv (State.readElems s c lid f ga gb x_).2 := by
  induction x_ generalizing s c lid f ga gb with
  | nil =>
    simp only [State.readElems]
    repeat'
      first
      | with_reducible assumption | with_reducible apply ih | with_reducible apply State.readElem_good | dsimp only
      | split | (intro _) | with_reducible apply good_foldl | simp only [State.good_upd_iff]
      | simp only [State.good_bootUpd_iff] | with_reducible refine good_snd (by assumption) ?_
      | with_reducible refine good_fst (by assumption) ?_ | (simp [*]; done)
  | cons y_ l_ ih =>
    simp only [State.readElems]
    repeat'
      first
      | with_reducible assumption | with_reducible apply ih | with_reducible apply State.readElem_good | dsimp only
      | split | (intro _) | with_reducible apply good_foldl | simp only [State.good_upd_iff]
      | simp only [State.good_bootUpd_iff] | with_reducible refine good_snd (by assumption) ?_
      | with_reducible refine good_fst (by assumption) ?_ | (simp [*]; done)

theorem State.rowStore_good {kt mv : Nat} {s t : State} (c : Nat) (lid : BitVec 32) (x : Word × Nat × Nat) (hs : s.Good kt mv)
    (ht : s.rowStore c lid x = .ok t) : t.Good kt mv := by
  unfold State.rowStore at ht
  split at ht
  · cases ht
  · next h =>
    have h0 := good_snd h (State.reach_good _ _ _ _ hs)
    split at ht
    · cases ht
    · cases ht; exact State.engineSend_good _ _ _ _ _ _ _ h0
  · next h => cases ht; exact good_snd h (State.reach_good _ _ _ _ hs)

@[simp] theorem State.rowStoresAll_good {kt mv : Nat} {s : State} (c : Nat) (lid : BitVec 32) (l : List (Word × Nat ×
    Nat)) (hs : s.Good kt mv) :
    (s.rowStoresAll c lid l).1.Good kt mv := by
  induction l generalizing s with
  | nil => simp only [State.rowStoresAll]; exact hs
  | cons y l ih =>
    simp only [State.rowStoresAll]
    split
    · rename_i s1 h1; exact ih (State.rowStore_good c lid y hs h1)
    · exact hs

@[simp] theorem State.rowReach_good {kt mv : Nat} {s : State} (c : Nat) (lid : BitVec 32) (x_ : List (Word × Nat × Nat))
    (hs : s.Good kt mv) :
    State.Good kt mv (State.rowReach s c lid x_).2 := by
  induction x_ generalizing s c lid with
  | nil =>
    simp only [State.rowReach]
    repeat'
      first
      | with_reducible assumption | with_reducible apply ih | with_reducible apply State.reach_good | dsimp only
      | split | (intro _) | with_reducible apply good_foldl | simp only [State.good_upd_iff]
      | simp only [State.good_bootUpd_iff] | with_reducible refine good_snd (by assumption) ?_
      | with_reducible refine good_fst (by assumption) ?_ | (simp [*]; done)
  | cons y_ l_ ih =>
    simp only [State.rowReach]
    repeat'
      first
      | with_reducible assumption | with_reducible apply ih | with_reducible apply State.reach_good | dsimp only
      | split | (intro _) | with_reducible apply good_foldl | simp only [State.good_upd_iff]
      | simp only [State.good_bootUpd_iff] | with_reducible refine good_snd (by assumption) ?_
      | with_reducible refine good_fst (by assumption) ?_ | (simp [*]; done)

@[simp] theorem State.narHalted_good {kt mv : Nat} {s : State} (c : Nat) (hs : s.Good kt mv) :
    State.Good kt mv (State.narHalted s c) := by
  unfold State.narHalted
  repeat'
    first
    | with_reducible assumption | with_reducible apply State.enqueue_good
    | with_reducible apply State.dropGroup_good | with_reducible apply State.popQueue_good
    | with_reducible apply State.failItem_good | dsimp only | split | (intro _) | with_reducible apply good_foldl
    | simp only [State.good_upd_iff] | simp only [State.good_bootUpd_iff]
    | with_reducible refine good_snd (by assumption) ?_ | with_reducible refine good_fst (by assumption) ?_
    | (simp [*]; done)

@[simp] theorem State.failTrapOf_good {kt mv : Nat} {s : State} (l : List QFail) (ok : State → State) (hs : s.Good kt
    mv) (hok : ∀ (a0_ : State), a0_.Good kt mv → State.Good kt mv (ok a0_)) :
    State.Good kt mv (State.failTrapOf s l ok) := by
  unfold State.failTrapOf
  repeat'
    first
    | with_reducible assumption | with_reducible apply hok | with_reducible apply State.modMine_good
    | with_reducible apply State.trapHere_good | dsimp only | split | (intro _) | with_reducible apply good_foldl
    | simp only [State.good_upd_iff] | simp only [State.good_bootUpd_iff]
    | with_reducible refine good_snd (by assumption) ?_ | with_reducible refine good_fst (by assumption) ?_
    | (simp [*]; done)

@[simp] theorem State.failTrap_good {kt mv : Nat} {s : State} (m : BitVec 4) (ok : State → State) (hs : s.Good kt mv)
    (hok : ∀ (a0_ : State), a0_.Good kt mv → State.Good kt mv (ok a0_)) :
    State.Good kt mv (State.failTrap s m ok) := by
  unfold State.failTrap
  repeat'
    first
    | with_reducible assumption | with_reducible apply hok | with_reducible apply State.failTrapOf_good
    | dsimp only | split | (intro _) | with_reducible apply good_foldl | simp only [State.good_upd_iff]
    | simp only [State.good_bootUpd_iff] | with_reducible refine good_snd (by assumption) ?_
    | with_reducible refine good_fst (by assumption) ?_ | (simp [*]; done)

@[simp] theorem State.recTrap_good {kt mv : Nat} {s : State} (m : BitVec 4) (ok : State → State) (hs : s.Good kt mv)
    (hok : ∀ (a0_ : State), a0_.Good kt mv → State.Good kt mv (ok a0_)) :
    State.Good kt mv (State.recTrap s m ok) := by
  unfold State.recTrap
  repeat'
    first
    | with_reducible assumption | with_reducible apply hok | with_reducible apply State.failTrapOf_good
    | dsimp only | split | (intro _) | with_reducible apply good_foldl | simp only [State.good_upd_iff]
    | simp only [State.good_bootUpd_iff] | with_reducible refine good_snd (by assumption) ?_
    | with_reducible refine good_fst (by assumption) ?_ | (simp [*]; done)

end Sys2Proof.Machine
end

