-- ==== Sys2Proof/Laws/InvPackage.lean ====
section
/-!
SUPPORT. The shared operations of launches, the host interface, start and span links
keep the invariant of memory, the tick and the least firmware version.
-/
namespace Sys2Proof.Machine

@[simp] theorem State.dropUnits_good {kt mv : Nat} {s : State} (c : Nat) (hs : s.Good kt mv) :
    State.Good kt mv (State.dropUnits s c) := by
  unfold State.dropUnits
  repeat'
    first
    | with_reducible assumption | dsimp only | split | (intro _) | with_reducible apply good_foldl
    | simp only [State.good_upd_iff] | simp only [State.good_bootUpd_iff]
    | with_reducible refine good_snd (by assumption) ?_ | with_reducible refine good_fst (by assumption) ?_
    | (simp [*]; done)

@[simp] theorem State.freeCore_good {kt mv : Nat} {s : State} (c : Nat) (hs : s.Good kt mv) :
    State.Good kt mv (State.freeCore s c) := by
  unfold State.freeCore
  repeat'
    first
    | with_reducible assumption | with_reducible apply State.modCore_good
    | with_reducible apply State.restIdle_good | with_reducible apply State.dropUnits_good | dsimp only | split
    | (intro _) | with_reducible apply good_foldl | simp only [State.good_upd_iff]
    | simp only [State.good_bootUpd_iff] | with_reducible refine good_snd (by assumption) ?_
    | with_reducible refine good_fst (by assumption) ?_ | (simp [*]; done)

@[simp] theorem State.dropSpace_good {kt mv : Nat} {s : State} (sp : BitVec 10) (hs : s.Good kt mv) :
    State.Good kt mv (State.dropSpace s sp) := by
  unfold State.dropSpace
  repeat'
    first
    | with_reducible assumption | dsimp only | split | (intro _) | with_reducible apply good_foldl
    | simp only [State.good_upd_iff] | simp only [State.good_bootUpd_iff]
    | with_reducible refine good_snd (by assumption) ?_ | with_reducible refine good_fst (by assumption) ?_
    | (simp [*]; done)

@[simp] theorem State.dropFolds_good {kt mv : Nat} {s : State} (cs : List Nat) (hs : s.Good kt mv) :
    State.Good kt mv (State.dropFolds s cs) := by
  unfold State.dropFolds
  repeat'
    first
    | with_reducible assumption | dsimp only | split | (intro _) | with_reducible apply good_foldl
    | simp only [State.good_upd_iff] | simp only [State.good_bootUpd_iff]
    | with_reducible refine good_snd (by assumption) ?_ | with_reducible refine good_fst (by assumption) ?_
    | (simp [*]; done)

@[simp] theorem State.dropParts_good {kt mv : Nat} {s : State} (lid : BitVec 32) (hs : s.Good kt mv) :
    State.Good kt mv (State.dropParts s lid) := by
  unfold State.dropParts
  repeat'
    first
    | with_reducible assumption | with_reducible apply State.freePark_good | dsimp only | split | (intro _)
    | with_reducible apply good_foldl | simp only [State.good_upd_iff] | simp only [State.good_bootUpd_iff]
    | with_reducible refine good_snd (by assumption) ?_ | with_reducible refine good_fst (by assumption) ?_
    | (simp [*]; done)

@[simp] theorem State.leaveCores_good {kt mv : Nat} {s : State} (l : Launch) (hs : s.Good kt mv) :
    State.Good kt mv (State.leaveCores s l) := by
  unfold State.leaveCores
  repeat'
    first
    | with_reducible assumption | with_reducible apply State.freeCore_good
    | with_reducible apply State.dropSpace_good | with_reducible apply State.dropFolds_good
    | with_reducible apply State.dropParts_good | dsimp only | split | (intro _) | with_reducible apply good_foldl
    | simp only [State.good_upd_iff] | simp only [State.good_bootUpd_iff]
    | with_reducible refine good_snd (by assumption) ?_ | with_reducible refine good_fst (by assumption) ?_
    | (simp [*]; done)

@[simp] theorem State.addHistory_good {kt mv : Nat} {s : State} (lid : BitVec 32) (st : BitVec 8) (hs : s.Good kt mv) :
    State.Good kt mv (State.addHistory s lid st) := by
  unfold State.addHistory
  repeat'
    first
    | with_reducible assumption | dsimp only | split | (intro _) | with_reducible apply good_foldl
    | simp only [State.good_upd_iff] | simp only [State.good_bootUpd_iff]
    | with_reducible refine good_snd (by assumption) ?_ | with_reducible refine good_fst (by assumption) ?_
    | (simp [*]; done)

@[simp] theorem State.recordWord_good {kt mv : Nat} {s : State} (a : Nat) (w : Word) (hs : s.Good kt mv) :
    State.Good kt mv (State.recordWord s a w) := by
  unfold State.recordWord
  repeat'
    first
    | with_reducible assumption | with_reducible apply State.fillWord_good | with_reducible apply State.call_good
    | dsimp only | split | (intro _) | with_reducible apply good_foldl | simp only [State.good_upd_iff]
    | simp only [State.good_bootUpd_iff] | with_reducible refine good_snd (by assumption) ?_
    | with_reducible refine good_fst (by assumption) ?_ | (simp [*]; done)

@[simp] theorem State.fillWords_good {kt mv : Nat} {s : State} (a : Nat) (x_ : List Word) (hs : s.Good kt mv) :
    State.Good kt mv (State.fillWords s a x_) := by
  induction x_ generalizing s a with
  | nil =>
    simp only [State.fillWords]
    repeat'
      first
      | with_reducible assumption | with_reducible apply ih | with_reducible apply State.recordWord_good
      | dsimp only | split | (intro _) | with_reducible apply good_foldl | simp only [State.good_upd_iff]
      | simp only [State.good_bootUpd_iff] | with_reducible refine good_snd (by assumption) ?_
      | with_reducible refine good_fst (by assumption) ?_ | (simp [*]; done)
  | cons y_ l_ ih =>
    simp only [State.fillWords]
    repeat'
      first
      | with_reducible assumption | with_reducible apply ih | with_reducible apply State.recordWord_good
      | dsimp only | split | (intro _) | with_reducible apply good_foldl | simp only [State.good_upd_iff]
      | simp only [State.good_bootUpd_iff] | with_reducible refine good_snd (by assumption) ?_
      | with_reducible refine good_fst (by assumption) ?_ | (simp [*]; done)

@[simp] theorem State.countDropped_good {kt mv : Nat} {s : State} (l : Nat) (hs : s.Good kt mv) :
    State.Good kt mv (State.countDropped s l) := by
  unfold State.countDropped
  repeat'
    first
    | with_reducible assumption | with_reducible apply State.modLink_good | dsimp only | split | (intro _)
    | with_reducible apply good_foldl | simp only [State.good_upd_iff] | simp only [State.good_bootUpd_iff]
    | with_reducible refine good_snd (by assumption) ?_ | with_reducible refine good_fst (by assumption) ?_
    | (simp [*]; done)

@[simp] theorem State.onLink_good {kt mv : Nat} {s : State} (l : Nat) (f : PcieLink → PcieLink) (hs : s.Good kt mv) :
    State.Good kt mv (State.onLink s l f) := by
  unfold State.onLink
  repeat'
    first
    | with_reducible assumption | with_reducible apply State.modLink_good | with_reducible apply State.tlp_good
    | dsimp only | split | (intro _) | with_reducible apply good_foldl | simp only [State.good_upd_iff]
    | simp only [State.good_bootUpd_iff] | with_reducible refine good_snd (by assumption) ?_
    | with_reducible refine good_fst (by assumption) ?_ | (simp [*]; done)

@[simp] theorem State.report_good {kt mv : Nat} {s : State} (r : LRec) (w : List Word) (hs : s.Good kt mv) :
    State.Good kt mv (State.report s r w) := by
  unfold State.report
  repeat'
    first
    | with_reducible assumption | with_reducible apply State.recordWord_good
    | with_reducible apply State.fillWords_good | with_reducible apply State.countDropped_good
    | with_reducible apply State.onLink_good | dsimp only | split | (intro _) | with_reducible apply good_foldl
    | simp only [State.good_upd_iff] | simp only [State.good_bootUpd_iff]
    | with_reducible refine good_snd (by assumption) ?_ | with_reducible refine good_fst (by assumption) ?_
    | (simp [*]; done)

@[simp] theorem State.forget_good {kt mv : Nat} {s : State} (l : Launch) (st : BitVec 8) (hs : s.Good kt mv) :
    State.Good kt mv (State.forget s l st) := by
  unfold State.forget
  repeat'
    first
    | with_reducible assumption | with_reducible apply State.later_good | dsimp only | split | (intro _)
    | with_reducible apply good_foldl | simp only [State.good_upd_iff] | simp only [State.good_bootUpd_iff]
    | with_reducible refine good_snd (by assumption) ?_ | with_reducible refine good_fst (by assumption) ?_
    | (simp [*]; done)

@[simp] theorem State.pokeSweeps_good {kt mv : Nat} {s : State} (hs : s.Good kt mv) :
    State.Good kt mv (State.pokeSweeps s) := by
  unfold State.pokeSweeps
  repeat'
    first
    | with_reducible assumption | with_reducible apply State.later_good | dsimp only | split | (intro _)
    | with_reducible apply good_foldl | simp only [State.good_upd_iff] | simp only [State.good_bootUpd_iff]
    | with_reducible refine good_snd (by assumption) ?_ | with_reducible refine good_fst (by assumption) ?_
    | (simp [*]; done)

@[simp] theorem State.complete_good {kt mv : Nat} {s : State} (l : Launch) (st : BitVec 8) (hs : s.Good kt mv) :
    State.Good kt mv (State.complete s l st) := by
  unfold State.complete
  repeat'
    first
    | with_reducible assumption | with_reducible apply State.pokeStarts_good
    | with_reducible apply State.pokeQueues_good | with_reducible apply State.leaveCores_good
    | with_reducible apply State.addHistory_good | with_reducible apply State.report_good
    | with_reducible apply State.forget_good | with_reducible apply State.pokeSweeps_good | dsimp only | split
    | (intro _) | with_reducible apply good_foldl | simp only [State.good_upd_iff]
    | simp only [State.good_bootUpd_iff] | with_reducible refine good_snd (by assumption) ?_
    | with_reducible refine good_fst (by assumption) ?_ | (simp [*]; done)

@[simp] theorem State.neverRan_good {kt mv : Nat} {s : State} (l : Launch) (st : BitVec 8) (hs : s.Good kt mv) :
    State.Good kt mv (State.neverRan s l st) := by
  unfold State.neverRan
  repeat'
    first
    | with_reducible assumption | with_reducible apply State.complete_good | dsimp only | split | (intro _)
    | with_reducible apply good_foldl | simp only [State.good_upd_iff] | simp only [State.good_bootUpd_iff]
    | with_reducible refine good_snd (by assumption) ?_ | with_reducible refine good_fst (by assumption) ?_
    | (simp [*]; done)

@[simp] theorem State.endUnrun_good {kt mv : Nat} {s : State} (l : Launch) (st : BitVec 8) (hs : s.Good kt mv) :
    State.Good kt mv (State.endUnrun s l st) := by
  unfold State.endUnrun
  repeat'
    first
    | with_reducible assumption | with_reducible apply State.modLaunch_good | with_reducible apply State.poke_good
    | with_reducible apply State.neverRan_good | dsimp only | split | (intro _) | with_reducible apply good_foldl
    | simp only [State.good_upd_iff] | simp only [State.good_bootUpd_iff]
    | with_reducible refine good_snd (by assumption) ?_ | with_reducible refine good_fst (by assumption) ?_
    | (simp [*]; done)

@[simp] theorem State.withdrawFold_good {kt mv : Nat} {s : State} (o : FoldOp) (hs : s.Good kt mv) :
    State.Good kt mv (State.withdrawFold s o) := by
  unfold State.withdrawFold
  repeat'
    first
    | with_reducible assumption | with_reducible apply State.modCore_good | dsimp only | split | (intro _)
    | with_reducible apply good_foldl | simp only [State.good_upd_iff] | simp only [State.good_bootUpd_iff]
    | with_reducible refine good_snd (by assumption) ?_ | with_reducible refine good_fst (by assumption) ?_
    | (simp [*]; done)

@[simp] theorem State.withdrawFolds_good {kt mv : Nat} {s : State} (cs : List Nat) (hs : s.Good kt mv) :
    State.Good kt mv (State.withdrawFolds s cs) := by
  unfold State.withdrawFolds
  repeat'
    first
    | with_reducible assumption | with_reducible apply State.withdrawFold_good | dsimp only | split | (intro _)
    | with_reducible apply good_foldl | simp only [State.good_upd_iff] | simp only [State.good_bootUpd_iff]
    | with_reducible refine good_snd (by assumption) ?_ | with_reducible refine good_fst (by assumption) ?_
    | (simp [*]; done)

@[simp] theorem State.haltCores_good {kt mv : Nat} {s : State} (cs : List Nat) (hs : s.Good kt mv) :
    State.Good kt mv (State.haltCores s cs) := by
  unfold State.haltCores
  repeat'
    first
    | with_reducible assumption | with_reducible apply State.modCore_good
    | with_reducible apply State.withdrawFolds_good | dsimp only | split | (intro _)
    | with_reducible apply good_foldl | simp only [State.good_upd_iff] | simp only [State.good_bootUpd_iff]
    | with_reducible refine good_snd (by assumption) ?_ | with_reducible refine good_fst (by assumption) ?_
    | (simp [*]; done)

@[simp] theorem State.cancelLaunch_good {kt mv : Nat} {s : State} (l : Launch) (hs : s.Good kt mv) :
    State.Good kt mv (State.cancelLaunch s l) := by
  unfold State.cancelLaunch
  repeat'
    first
    | with_reducible assumption | with_reducible apply State.modCore_good | with_reducible apply State.later_good
    | with_reducible apply State.modLaunch_good | with_reducible apply State.dropParts_good
    | with_reducible apply State.complete_good | with_reducible apply State.endUnrun_good
    | with_reducible apply State.haltCores_good | dsimp only | split | (intro _) | with_reducible apply good_foldl
    | simp only [State.good_upd_iff] | simp only [State.good_bootUpd_iff]
    | with_reducible refine good_snd (by assumption) ?_ | with_reducible refine good_fst (by assumption) ?_
    | (simp [*]; done)

@[simp] theorem State.distHere_good {kt mv : Nat} {s0 : State} (lid : BitVec 32) (va pa : Nat) (e : TlbEntry) (hs0 :
    s0.Good kt mv) :
    State.Good kt mv (State.distHere s0 lid va pa e).2 := by
  unfold State.distHere
  repeat'
    first
    | with_reducible assumption | with_reducible apply State.meet_good | with_reducible apply State.placeRead'_good
    | with_reducible apply State.call_good | dsimp only | split | (intro _) | with_reducible apply good_foldl
    | simp only [State.good_upd_iff] | simp only [State.good_bootUpd_iff]
    | with_reducible refine good_snd (by assumption) ?_ | with_reducible refine good_fst (by assumption) ?_
    | (simp [*]; done)

@[simp] theorem State.distStore_good {kt mv : Nat} {s0 : State} (lid : BitVec 32) (va pa : Nat) (e : TlbEntry) (v :
    Option Word) (full : Bool) (hs0 : s0.Good kt mv) :
    State.Good kt mv (State.distStore s0 lid va pa e v full) := by
  unfold State.distStore
  repeat'
    first
    | with_reducible assumption | with_reducible apply State.unpoison_good | with_reducible apply State.meet_good
    | with_reducible apply State.meetBlock_good | with_reducible apply State.placeWrite_good
    | with_reducible apply State.setBit_good | with_reducible apply State.call_good | dsimp only | split
    | (intro _) | with_reducible apply good_foldl | simp only [State.good_upd_iff]
    | simp only [State.good_bootUpd_iff] | with_reducible refine good_snd (by assumption) ?_
    | with_reducible refine good_fst (by assumption) ?_ | (simp [*]; done)

@[simp] theorem State.distRead_good {kt mv : Nat} {s : State} (l : Launch) (need : BitVec 9) (va : Nat) (hs : s.Good kt mv) :
    State.Good kt mv (State.distRead s l need va).2 := by
  unfold State.distRead
  repeat'
    first
    | with_reducible assumption | with_reducible apply State.meetAll_good
    | with_reducible apply State.engineRead_good | with_reducible apply State.distHere_good | dsimp only | split
    | (intro _) | with_reducible apply good_foldl | simp only [State.good_upd_iff]
    | simp only [State.good_bootUpd_iff] | with_reducible refine good_snd (by assumption) ?_
    | with_reducible refine good_fst (by assumption) ?_ | (simp [*]; done)

@[simp] theorem State.distReads_good {kt mv : Nat} {s : State} (l : Launch) (need : BitVec 9) (va : Nat) (x_ : Nat) (hs
    : s.Good kt mv) :
    State.Good kt mv (State.distReads s l need va x_).2 := by
  induction x_ generalizing s l need va with
  | zero =>
    simp only [State.distReads]
    repeat'
      first
      | with_reducible assumption | with_reducible apply ih | with_reducible apply State.distRead_good | dsimp only
      | split | (intro _) | with_reducible apply good_foldl | simp only [State.good_upd_iff]
      | simp only [State.good_bootUpd_iff] | with_reducible refine good_snd (by assumption) ?_
      | with_reducible refine good_fst (by assumption) ?_ | (simp [*]; done)
  | succ n_ ih =>
    simp only [State.distReads]
    repeat'
      first
      | with_reducible assumption | with_reducible apply ih | with_reducible apply State.distRead_good | dsimp only
      | split | (intro _) | with_reducible apply good_foldl | simp only [State.good_upd_iff]
      | simp only [State.good_bootUpd_iff] | with_reducible refine good_snd (by assumption) ?_
      | with_reducible refine good_fst (by assumption) ?_ | (simp [*]; done)

@[simp] theorem State.distWords_good {kt mv : Nat} {s : State} (l : Launch) (need : BitVec 9) (va n : Nat) (hs : s.Good
    kt mv) :
    State.Good kt mv (State.distWords s l need va n).2 := by
  unfold State.distWords
  repeat'
    first
    | with_reducible assumption | with_reducible apply State.distReads_good | dsimp only | split | (intro _)
    | with_reducible apply good_foldl | simp only [State.good_upd_iff] | simp only [State.good_bootUpd_iff]
    | with_reducible refine good_snd (by assumption) ?_ | with_reducible refine good_fst (by assumption) ?_
    | (simp [*]; done)

@[simp] theorem State.distWrite_good {kt mv : Nat} {s : State} (l : Launch) (va : Nat) (v : Word) (full : Bool) (hs :
    s.Good kt mv) :
    State.Good kt mv (State.distWrite s l va v full) := by
  unfold State.distWrite
  repeat'
    first
    | with_reducible assumption | with_reducible apply State.engineAsk_good
    | with_reducible apply State.distStore_good | dsimp only | split | (intro _) | with_reducible apply good_foldl
    | simp only [State.good_upd_iff] | simp only [State.good_bootUpd_iff]
    | with_reducible refine good_snd (by assumption) ?_ | with_reducible refine good_fst (by assumption) ?_
    | (simp [*]; done)

@[simp] theorem State.distEmpty_good {kt mv : Nat} {s : State} (l : Launch) (va : Nat) (hs : s.Good kt mv) :
    State.Good kt mv (State.distEmpty s l va) := by
  unfold State.distEmpty
  repeat'
    first
    | with_reducible assumption | with_reducible apply State.engineAsk_good
    | with_reducible apply State.distStore_good | dsimp only | split | (intro _) | with_reducible apply good_foldl
    | simp only [State.good_upd_iff] | simp only [State.good_bootUpd_iff]
    | with_reducible refine good_snd (by assumption) ?_ | with_reducible refine good_fst (by assumption) ?_
    | (simp [*]; done)

@[simp] theorem State.againOnce_good {kt mv : Nat} {s : State} (ev : Instr) (hs : s.Good kt mv) :
    State.Good kt mv (State.againOnce s ev) := by
  unfold State.againOnce
  repeat'
    first
    | with_reducible assumption | with_reducible apply State.later_good | dsimp only | split | (intro _)
    | with_reducible apply good_foldl | simp only [State.good_upd_iff] | simp only [State.good_bootUpd_iff]
    | with_reducible refine good_snd (by assumption) ?_ | with_reducible refine good_fst (by assumption) ?_
    | (simp [*]; done)

@[simp] theorem State.writeSlot_good {kt mv : Nat} {s : State} (l : Launch) (c : Nat) (hs : s.Good kt mv) :
    State.Good kt mv (State.writeSlot s l c) := by
  unfold State.writeSlot
  repeat'
    first
    | with_reducible assumption | with_reducible apply State.distWrite_good | dsimp only | split | (intro _)
    | with_reducible apply good_foldl | simp only [State.good_upd_iff] | simp only [State.good_bootUpd_iff]
    | with_reducible refine good_snd (by assumption) ?_ | with_reducible refine good_fst (by assumption) ?_
    | (simp [*]; done)

@[simp] theorem State.pauseParked_good {kt mv : Nat} {s : State} (lid : BitVec 32) (hs : s.Good kt mv) :
    State.Good kt mv (State.pauseParked s lid) := by
  unfold State.pauseParked
  repeat'
    first
    | with_reducible assumption | dsimp only | split | (intro _) | with_reducible apply good_foldl
    | simp only [State.good_upd_iff] | simp only [State.good_bootUpd_iff]
    | with_reducible refine good_snd (by assumption) ?_ | with_reducible refine good_fst (by assumption) ?_
    | (simp [*]; done)

@[simp] theorem State.preempt_good {kt mv : Nat} {s : State} (l : Launch) (hs : s.Good kt mv) :
    State.Good kt mv (State.preempt s l) := by
  unfold State.preempt
  repeat'
    first
    | with_reducible assumption | with_reducible apply State.later_good | with_reducible apply State.modLaunch_good
    | with_reducible apply State.haltCores_good | with_reducible apply State.pauseParked_good | dsimp only | split
    | (intro _) | with_reducible apply good_foldl | simp only [State.good_upd_iff]
    | simp only [State.good_bootUpd_iff] | with_reducible refine good_snd (by assumption) ?_
    | with_reducible refine good_fst (by assumption) ?_ | (simp [*]; done)

@[simp] theorem State.trapAsync_good {kt mv : Nat} {s : State} (c : Nat) (p : Prio) (hs : s.Good kt mv) :
    State.Good kt mv (State.trapAsync s c p) := by
  unfold State.trapAsync
  repeat'
    first
    | with_reducible assumption | with_reducible apply State.modBank_good
    | with_reducible apply State.takeTrap_good | dsimp only | split | (intro _) | with_reducible apply good_foldl
    | simp only [State.good_upd_iff] | simp only [State.good_bootUpd_iff]
    | with_reducible refine good_snd (by assumption) ?_ | with_reducible refine good_fst (by assumption) ?_
    | (simp [*]; done)

@[simp] theorem State.unreserve_good {kt mv : Nat} {s : State} (lid : BitVec 32) (hs : s.Good kt mv) :
    State.Good kt mv (State.unreserve s lid) := by
  unfold State.unreserve
  repeat'
    first
    | with_reducible assumption | with_reducible apply State.modInst_good | with_reducible apply State.modPark_good
    | dsimp only | split | (intro _) | with_reducible apply good_foldl | simp only [State.good_upd_iff]
    | simp only [State.good_bootUpd_iff] | with_reducible refine good_snd (by assumption) ?_
    | with_reducible refine good_fst (by assumption) ?_ | (simp [*]; done)

@[simp] theorem State.landBoth_good {kt mv : Nat} {s : State} (c : Nat) (hs : s.Good kt mv) :
    State.Good kt mv (State.landBoth s c) := by
  unfold State.landBoth
  repeat'
    first
    | with_reducible assumption | with_reducible apply State.modCore_good | dsimp only | split | (intro _)
    | with_reducible apply good_foldl | simp only [State.good_upd_iff] | simp only [State.good_bootUpd_iff]
    | with_reducible refine good_snd (by assumption) ?_ | with_reducible refine good_fst (by assumption) ?_
    | (simp [*]; done)

@[simp] theorem State.saveCore_good {kt mv : Nat} {s : State} (l : Launch) (c : Nat) (hs : s.Good kt mv) :
    State.Good kt mv (State.saveCore s l c) := by
  unfold State.saveCore
  repeat'
    first
    | with_reducible assumption | with_reducible apply State.meet_good | with_reducible apply State.freeCore_good
    | with_reducible apply State.writeSlot_good | with_reducible apply State.landBoth_good | dsimp only | split
    | (intro _) | with_reducible apply good_foldl | simp only [State.good_upd_iff]
    | simp only [State.good_bootUpd_iff] | with_reducible refine good_snd (by assumption) ?_
    | with_reducible refine good_fst (by assumption) ?_ | (simp [*]; done)

@[simp] theorem State.initMsgs_good {kt mv : Nat} {s : State} (l : Launch) (hs : s.Good kt mv) :
    State.Good kt mv (State.initMsgs s l).2 := by
  unfold State.initMsgs
  repeat'
    first
    | with_reducible assumption | with_reducible apply State.distWords_good | dsimp only | split | (intro _)
    | with_reducible apply good_foldl | simp only [State.good_upd_iff] | simp only [State.good_bootUpd_iff]
    | with_reducible refine good_snd (by assumption) ?_ | with_reducible refine good_fst (by assumption) ?_
    | (simp [*]; done)

@[simp] theorem State.readDesc_good {kt mv : Nat} {s : State} (l : Launch) (hs : s.Good kt mv) :
    State.Good kt mv (State.readDesc s l).2 := by
  unfold State.readDesc
  repeat'
    first
    | with_reducible assumption | with_reducible apply State.distWords_good
    | with_reducible apply State.initMsgs_good | dsimp only | split | (intro _) | with_reducible apply good_foldl
    | simp only [State.good_upd_iff] | simp only [State.good_bootUpd_iff]
    | with_reducible refine good_snd (by assumption) ?_ | with_reducible refine good_fst (by assumption) ?_
    | (simp [*]; done)

@[simp] theorem State.clearCore_good {kt mv : Nat} {s : State} (c : Nat) (l : Launch) (hs : s.Good kt mv) :
    (s.clearCore c l).Good kt mv := by
  unfold State.clearCore
  dsimp only
  apply State.modCore_good
  exact ⟨⟨Sparse.wf_filter _ _ _ hs.mem.bytes, wordList_filter _ hs.mem.empties, wordList_filter _ hs.mem.poison,
      wordList_filter _ hs.mem.wpoison⟩, hs.tick, hs.version⟩

@[simp] theorem State.putBundle_good {kt mv : Nat} {s : State} (c i : Nat) (w : Option (Word × Bool)) (hs : s.Good kt mv) :
    State.Good kt mv (State.putBundle s c i w) := by
  unfold State.putBundle
  repeat'
    first
    | with_reducible assumption | with_reducible apply State.modCore_good
    | with_reducible apply State.codeStore_good | dsimp only | split | (intro _) | with_reducible apply good_foldl
    | simp only [State.good_upd_iff] | simp only [State.good_bootUpd_iff]
    | with_reducible refine good_snd (by assumption) ?_ | with_reducible refine good_fst (by assumption) ?_
    | (simp [*]; done)

@[simp] theorem State.loadCode_good {kt mv : Nat} {s : State} (c : Nat) (img : Image) (hs : s.Good kt mv) :
    State.Good kt mv (State.loadCode s c img) := by
  unfold State.loadCode
  repeat'
    first
    | with_reducible assumption | with_reducible apply State.putBundle_good | dsimp only | split | (intro _)
    | with_reducible apply good_foldl | simp only [State.good_upd_iff] | simp only [State.good_bootUpd_iff]
    | with_reducible refine good_snd (by assumption) ?_ | with_reducible refine good_fst (by assumption) ?_
    | (simp [*]; done)

@[simp] theorem State.giveCore_good {kt mv : Nat} {s : State} (l : Launch) (c : Nat) (img : Image) (hs : s.Good kt mv) :
    State.Good kt mv (State.giveCore s l c img) := by
  unfold State.giveCore
  repeat'
    first
    | with_reducible assumption | with_reducible apply State.modCore_good
    | with_reducible apply State.clearCore_good | with_reducible apply State.loadCode_good | dsimp only | split
    | (intro _) | with_reducible apply good_foldl | simp only [State.good_upd_iff]
    | simp only [State.good_bootUpd_iff] | with_reducible refine good_snd (by assumption) ?_
    | with_reducible refine good_fst (by assumption) ?_ | (simp [*]; done)

@[simp] theorem State.fillMap_good {kt mv : Nat} {s : State} (l : Launch) (ps : List (Nat × Nat × Nat)) (hs : s.Good kt mv) :
    State.Good kt mv (State.fillMap s l ps) := by
  unfold State.fillMap
  repeat'
    first
    | with_reducible assumption | with_reducible apply State.distWrite_good | dsimp only | split | (intro _)
    | with_reducible apply good_foldl | simp only [State.good_upd_iff] | simp only [State.good_bootUpd_iff]
    | with_reducible refine good_snd (by assumption) ?_ | with_reducible refine good_fst (by assumption) ?_
    | (simp [*]; done)

@[simp] theorem State.primeMsgs_good {kt mv : Nat} {s : State} (ps : List (Nat × Nat × Nat)) (ms : List (Nat × Nat ×
    List Word)) (hs : s.Good kt mv) :
    State.Good kt mv (State.primeMsgs s ps ms) := by
  unfold State.primeMsgs
  repeat'
    first
    | with_reducible assumption | with_reducible apply State.appendMsg_good | dsimp only | split | (intro _)
    | with_reducible apply good_foldl | simp only [State.good_upd_iff] | simp only [State.good_bootUpd_iff]
    | with_reducible refine good_snd (by assumption) ?_ | with_reducible refine good_fst (by assumption) ?_
    | (simp [*]; done)

@[simp] theorem State.sendStart_good {kt mv : Nat} {s : State} (c : Nat) (hs : s.Good kt mv) :
    State.Good kt mv (State.sendStart s c) := by
  unfold State.sendStart
  repeat'
    first
    | with_reducible assumption | with_reducible apply State.enqueue_good | with_reducible apply State.delayed_good
    | dsimp only | split | (intro _) | with_reducible apply good_foldl | simp only [State.good_upd_iff]
    | simp only [State.good_bootUpd_iff] | with_reducible refine good_snd (by assumption) ?_
    | with_reducible refine good_fst (by assumption) ?_ | (simp [*]; done)

@[simp] theorem State.readLoads_good {kt mv : Nat} {s : State} (l : Launch) (hs : s.Good kt mv) :
    State.Good kt mv (State.readLoads s l).2 := by
  unfold State.readLoads
  repeat'
    first
    | with_reducible assumption | with_reducible apply State.dropGroup_good
    | with_reducible apply State.distReads_good | with_reducible apply State.initMsgs_good | dsimp only | split
    | (intro _) | with_reducible apply good_foldl | simp only [State.good_upd_iff]
    | simp only [State.good_bootUpd_iff] | with_reducible refine good_snd (by assumption) ?_
    | with_reducible refine good_fst (by assumption) ?_ | (simp [*]; done)

@[simp] theorem State.giveCores_good {kt mv : Nat} {s : State} (l : Launch) (cs : List Nat) (ps : List (Nat × Nat ×
    Nat)) (x : Loads) (hs : s.Good kt mv) :
    State.Good kt mv (State.giveCores s l cs ps x) := by
  unfold State.giveCores
  repeat'
    first
    | with_reducible assumption | with_reducible apply State.giveCore_good
    | with_reducible apply State.fillMap_good | with_reducible apply State.primeMsgs_good
    | with_reducible apply State.sendStart_good | dsimp only | split | (intro _) | with_reducible apply good_foldl
    | simp only [State.good_upd_iff] | simp only [State.good_bootUpd_iff]
    | with_reducible refine good_snd (by assumption) ?_ | with_reducible refine good_fst (by assumption) ?_
    | (simp [*]; done)

@[simp] theorem State.startOn_good {kt mv : Nat} {s : State} (l : Launch) (ps : List (Nat × Nat × Nat)) (cs : List Nat)
    (hs : s.Good kt mv) :
    State.Good kt mv (State.startOn s l ps cs) := by
  unfold State.startOn
  repeat'
    first
    | with_reducible assumption | with_reducible apply State.modLaunch_good | with_reducible apply State.poke_good
    | with_reducible apply State.pokeStarts_good | with_reducible apply State.pokeSweeps_good
    | with_reducible apply State.againOnce_good | with_reducible apply State.readLoads_good
    | with_reducible apply State.giveCores_good | dsimp only | split | (intro _) | with_reducible apply good_foldl
    | simp only [State.good_upd_iff] | simp only [State.good_bootUpd_iff]
    | with_reducible refine good_snd (by assumption) ?_ | with_reducible refine good_fst (by assumption) ?_
    | (simp [*]; done)

@[simp] theorem State.startGraph_good {kt mv : Nat} {s : State} (l : Launch) (hs : s.Good kt mv) :
    State.Good kt mv (State.startGraph s l) := by
  unfold State.startGraph
  repeat'
    first
    | with_reducible assumption | with_reducible apply State.preempt_good | with_reducible apply State.startOn_good
    | dsimp only | split | (intro _) | with_reducible apply good_foldl | simp only [State.good_upd_iff]
    | simp only [State.good_bootUpd_iff] | with_reducible refine good_snd (by assumption) ?_
    | with_reducible refine good_fst (by assumption) ?_ | (simp [*]; done)

@[simp] theorem State.retake_good {kt mv : Nat} {s : State} (l : Launch) (cs : List Nat) (hs : s.Good kt mv) :
    State.Good kt mv (State.retake s l cs) := by
  unfold State.retake
  repeat'
    first
    | with_reducible assumption | with_reducible apply State.preempt_good | dsimp only | split | (intro _)
    | with_reducible apply good_foldl | simp only [State.good_upd_iff] | simp only [State.good_bootUpd_iff]
    | with_reducible refine good_snd (by assumption) ?_ | with_reducible refine good_fst (by assumption) ?_
    | (simp [*]; done)

@[simp] theorem State.startSweep_good {kt mv : Nat} {s : State} (l : Launch) (hs : s.Good kt mv) :
    State.Good kt mv (State.startSweep s l) := by
  unfold State.startSweep
  repeat'
    first
    | with_reducible assumption | with_reducible apply State.preempt_good | with_reducible apply State.startOn_good
    | dsimp only | split | (intro _) | with_reducible apply good_foldl | simp only [State.good_upd_iff]
    | simp only [State.good_bootUpd_iff] | with_reducible refine good_snd (by assumption) ?_
    | with_reducible refine good_fst (by assumption) ?_ | (simp [*]; done)

@[simp] theorem State.growSweep_good {kt mv : Nat} {s : State} (l : Launch) (hs : s.Good kt mv) :
    State.Good kt mv (State.growSweep s l) := by
  unfold State.growSweep
  repeat'
    first
    | with_reducible assumption | with_reducible apply State.modLaunch_good
    | with_reducible apply State.againOnce_good | with_reducible apply State.readLoads_good
    | with_reducible apply State.giveCores_good | dsimp only | split | (intro _) | with_reducible apply good_foldl
    | simp only [State.good_upd_iff] | simp only [State.good_bootUpd_iff]
    | with_reducible refine good_snd (by assumption) ?_ | with_reducible refine good_fst (by assumption) ?_
    | (simp [*]; done)

@[simp] theorem State.release_good {kt mv : Nat} {s : State} (l : Launch) (hs : s.Good kt mv) :
    State.Good kt mv (State.release s l) := by
  unfold State.release
  repeat'
    first
    | with_reducible assumption | with_reducible apply State.later_good | with_reducible apply State.bumpId_good
    | with_reducible apply State.modLaunch_good | with_reducible apply State.dropGroup_good
    | with_reducible apply State.endUnrun_good | with_reducible apply State.againOnce_good
    | with_reducible apply State.readDesc_good | dsimp only | split | (intro _) | with_reducible apply good_foldl
    | simp only [State.good_upd_iff] | simp only [State.good_bootUpd_iff]
    | with_reducible refine good_snd (by assumption) ?_ | with_reducible refine good_fst (by assumption) ?_
    | (simp [*]; done)

@[simp] theorem State.setAgain_good {kt mv : Nat} {s : State} (l : Launch) (ps : List (Nat × Nat × Nat)) (x : Loads) (hs
    : s.Good kt mv) :
    State.Good kt mv (State.setAgain s l ps x) := by
  unfold State.setAgain
  repeat'
    first
    | with_reducible assumption | with_reducible apply State.modCore_good
    | with_reducible apply State.giveCore_good | with_reducible apply State.fillMap_good
    | with_reducible apply State.primeMsgs_good | with_reducible apply State.sendStart_good | dsimp only | split
    | (intro _) | with_reducible apply good_foldl | simp only [State.good_upd_iff]
    | simp only [State.good_bootUpd_iff] | with_reducible refine good_snd (by assumption) ?_
    | with_reducible refine good_fst (by assumption) ?_ | (simp [*]; done)

@[simp] theorem State.replaceInsts_good {kt mv : Nat} {s : State} (l : Launch) (hs : s.Good kt mv) :
    State.Good kt mv (State.replaceInsts s l) := by
  unfold State.replaceInsts
  repeat'
    first
    | with_reducible assumption | with_reducible apply State.modLaunch_good | with_reducible apply State.poke_good
    | with_reducible apply State.againOnce_good | with_reducible apply State.readLoads_good
    | with_reducible apply State.setAgain_good | dsimp only | split | (intro _) | with_reducible apply good_foldl
    | simp only [State.good_upd_iff] | simp only [State.good_bootUpd_iff]
    | with_reducible refine good_snd (by assumption) ?_ | with_reducible refine good_fst (by assumption) ?_
    | (simp [*]; done)

@[simp] theorem State.askBlock_good {kt mv : Nat} {s : State} (lid : BitVec 32) (i : Nat) (hs : s.Good kt mv) :
    State.Good kt mv (State.askBlock s lid i) := by
  unfold State.askBlock
  repeat'
    first
    | with_reducible assumption | with_reducible apply State.enqueue_good | dsimp only | split | (intro _)
    | with_reducible apply good_foldl | simp only [State.good_upd_iff] | simp only [State.good_bootUpd_iff]
    | with_reducible refine good_snd (by assumption) ?_ | with_reducible refine good_fst (by assumption) ?_
    | (simp [*]; done)

@[simp] theorem State.askCores_good {kt mv : Nat} {s : State} (l : Launch) (i : Nat) (hs : s.Good kt mv) :
    State.Good kt mv (State.askCores s l i) := by
  unfold State.askCores
  repeat'
    first
    | with_reducible assumption | with_reducible apply State.enqueue_good | dsimp only | split | (intro _)
    | with_reducible apply good_foldl | simp only [State.good_upd_iff] | simp only [State.good_bootUpd_iff]
    | with_reducible refine good_snd (by assumption) ?_ | with_reducible refine good_fst (by assumption) ?_
    | (simp [*]; done)

@[simp] theorem State.claimLayer_good {kt mv : Nat} {s : State} (l : Launch) (i : Nat) (hs : s.Good kt mv) :
    State.Good kt mv (State.claimLayer s l i) := by
  unfold State.claimLayer
  repeat'
    first
    | with_reducible assumption | with_reducible apply State.later_good | with_reducible apply State.modLaunch_good
    | with_reducible apply State.askCores_good | dsimp only | split | (intro _) | with_reducible apply good_foldl
    | simp only [State.good_upd_iff] | simp only [State.good_bootUpd_iff]
    | with_reducible refine good_snd (by assumption) ?_ | with_reducible refine good_fst (by assumption) ?_
    | (simp [*]; done)

@[simp] theorem State.claimTower_good {kt mv : Nat} {s : State} (l : Launch) (t : Nat) (hs : s.Good kt mv) :
    State.Good kt mv (State.claimTower s l t) := by
  unfold State.claimTower
  repeat'
    first
    | with_reducible assumption | with_reducible apply State.modLaunch_good
    | with_reducible apply State.askBlock_good | dsimp only | split | (intro _) | with_reducible apply good_foldl
    | simp only [State.good_upd_iff] | simp only [State.good_bootUpd_iff]
    | with_reducible refine good_snd (by assumption) ?_ | with_reducible refine good_fst (by assumption) ?_
    | (simp [*]; done)

@[simp] theorem State.loseShare_good {kt mv : Nat} {s : State} (l : Launch) (i : Nat) (whole : Bool) (hs : s.Good kt mv) :
    State.Good kt mv (State.loseShare s l i whole) := by
  unfold State.loseShare
  repeat'
    first
    | with_reducible assumption | with_reducible apply State.later_good | with_reducible apply State.modLaunch_good
    | with_reducible apply State.distEmpty_good | with_reducible apply State.askCores_good | dsimp only | split
    | (intro _) | with_reducible apply good_foldl | simp only [State.good_upd_iff]
    | simp only [State.good_bootUpd_iff] | with_reducible refine good_snd (by assumption) ?_
    | with_reducible refine good_fst (by assumption) ?_ | (simp [*]; done)

@[simp] theorem State.loseRecord_good {kt mv : Nat} {s : State} (h : BitVec 32 × List Word) (hs : s.Good kt mv) :
    State.Good kt mv (State.loseRecord s h) := by
  unfold State.loseRecord
  repeat'
    first
    | with_reducible assumption | with_reducible apply State.modLaunch_good | dsimp only | split | (intro _)
    | with_reducible apply good_foldl | simp only [State.good_upd_iff] | simp only [State.good_bootUpd_iff]
    | with_reducible refine good_snd (by assumption) ?_ | with_reducible refine good_fst (by assumption) ?_
    | (simp [*]; done)

@[simp] theorem State.clearLayer_good {kt mv : Nat} {s : State} (i : Nat) (hs : s.Good kt mv) :
    State.Good kt mv (State.clearLayer s i) := by
  unfold State.clearLayer
  repeat'
    first
    | with_reducible assumption | with_reducible apply State.modCore_good
    | with_reducible apply State.freePark_good | with_reducible apply State.loseFiring_good
    | with_reducible apply State.loseRecord_good | dsimp only | split | (intro _) | with_reducible apply good_foldl
    | simp only [State.good_upd_iff] | simp only [State.good_bootUpd_iff]
    | with_reducible refine good_snd (by assumption) ?_ | with_reducible refine good_fst (by assumption) ?_
    | (simp [*]; done)

@[simp] theorem State.fenceFolds_good {kt mv : Nat} {s : State} (i : Nat) (hs : s.Good kt mv) :
    State.Good kt mv (State.fenceFolds s i) := by
  unfold State.fenceFolds
  repeat'
    first
    | with_reducible assumption | with_reducible apply State.kick_good | with_reducible apply State.checkJoin_good
    | with_reducible apply State.withdrawFold_good | dsimp only | split | (intro _)
    | with_reducible apply good_foldl | simp only [State.good_upd_iff] | simp only [State.good_bootUpd_iff]
    | with_reducible refine good_snd (by assumption) ?_ | with_reducible refine good_fst (by assumption) ?_
    | (simp [*]; done)

@[simp] theorem State.fenceLayer_good {kt mv : Nat} {s : State} (i : Nat) (hs : s.Good kt mv) :
    State.Good kt mv (State.fenceLayer s i) := by
  unfold State.fenceLayer
  repeat'
    first
    | with_reducible assumption | with_reducible apply State.later_good | with_reducible apply State.delayed_good
    | with_reducible apply State.modLayer_good | with_reducible apply State.poke_good
    | with_reducible apply State.pokeStarts_good | with_reducible apply State.checkPhases_good
    | with_reducible apply State.pokeSweeps_good | with_reducible apply State.loseShare_good
    | with_reducible apply State.clearLayer_good | with_reducible apply State.fenceFolds_good | dsimp only | split
    | (intro _) | with_reducible apply good_foldl | simp only [State.good_upd_iff]
    | simp only [State.good_bootUpd_iff] | with_reducible refine good_snd (by assumption) ?_
    | with_reducible refine good_fst (by assumption) ?_ | (simp [*]; done)

@[simp] theorem State.restoreStores_good {kt mv : Nat} {s : State} (l : Launch) (c : Nat) (raw : Image) (ws : List (Word
    × Bool)) (x : Option Saved) (hs : s.Good kt mv) :
    State.Good kt mv (State.restoreStores s l c raw ws x) := by
  unfold State.restoreStores
  repeat'
    first
    | with_reducible assumption | with_reducible apply State.modCore_good | with_reducible apply State.wrWord_good
    | with_reducible apply State.setFE_good | with_reducible apply State.addWordPoison_good
    | with_reducible apply State.clearCore_good | with_reducible apply State.loadCode_good | dsimp only | split
    | (intro _) | with_reducible apply good_foldl | simp only [State.good_upd_iff]
    | simp only [State.good_bootUpd_iff] | with_reducible refine good_snd (by assumption) ?_
    | with_reducible refine good_fst (by assumption) ?_ | (simp [*]; done)

@[simp] theorem State.restoreSeq_good {kt mv : Nat} {s : State} (c : Nat) (w : Option (List Word)) (hs : s.Good kt mv) :
    State.Good kt mv (State.restoreSeq s c w) := by
  unfold State.restoreSeq
  repeat'
    first
    | with_reducible assumption | with_reducible apply State.modCore_good | dsimp only | split | (intro _)
    | with_reducible apply good_foldl | simp only [State.good_upd_iff] | simp only [State.good_bootUpd_iff]
    | with_reducible refine good_snd (by assumption) ?_ | with_reducible refine good_fst (by assumption) ?_
    | (simp [*]; done)

@[simp] theorem State.restoreBank_good {kt mv : Nat} {s : State} (c : Nat) (p : Prio) (f : List Word) (under : Bool) (x
    : Saved) (hs : s.Good kt mv) :
    State.Good kt mv (State.restoreBank s c p f under x) := by
  unfold State.restoreBank
  repeat'
    first
    | with_reducible assumption | with_reducible apply State.modBank_good
    | with_reducible apply State.countUncorr_good | dsimp only | split | (intro _)
    | with_reducible apply good_foldl | simp only [State.good_upd_iff] | simp only [State.good_bootUpd_iff]
    | with_reducible refine good_snd (by assumption) ?_ | with_reducible refine good_fst (by assumption) ?_
    | (simp [*]; done)

@[simp] theorem State.restoreGood_good {kt mv : Nat} {s : State} (l : Launch) (c : Nat) (ws : List (Word × Bool)) (is :
    List Inst) (x : Saved) (hs : s.Good kt mv) :
    State.Good kt mv (State.restoreGood s l c ws is x).1 := by
  unfold State.restoreGood
  repeat'
    first
    | with_reducible assumption | with_reducible apply State.modCore_good
    | with_reducible apply State.restoreBank_good | dsimp only | split | (intro _)
    | with_reducible apply good_foldl | simp only [State.good_upd_iff] | simp only [State.good_bootUpd_iff]
    | with_reducible refine good_snd (by assumption) ?_ | with_reducible refine good_fst (by assumption) ?_
    | (simp [*]; done)

@[simp] theorem State.restoreFailed_good {kt mv : Nat} {s : State} (l : Launch) (c : Nat) (read : Bool) (ws : List (Word
    × Bool)) (is : List Inst) (hs : s.Good kt mv) :
    State.Good kt mv (State.restoreFailed s l c read ws is).1 := by
  unfold State.restoreFailed
  repeat'
    first
    | with_reducible assumption | with_reducible apply State.modCore_good
    | with_reducible apply State.countUncorr_good | with_reducible apply State.freePark_good | dsimp only | split
    | (intro _) | with_reducible apply good_foldl | simp only [State.good_upd_iff]
    | simp only [State.good_bootUpd_iff] | with_reducible refine good_snd (by assumption) ?_
    | with_reducible refine good_fst (by assumption) ?_ | (simp [*]; done)

@[simp] theorem State.readSlots_good {kt mv : Nat} {s : State} (l : Launch) (x_ : List Nat) (hs : s.Good kt mv) :
    State.Good kt mv (State.readSlots s l x_).2 := by
  induction x_ generalizing s l with
  | nil =>
    simp only [State.readSlots]
    repeat'
      first
      | with_reducible assumption | with_reducible apply ih | with_reducible apply State.distReads_good
      | with_reducible apply State.distWords_good | dsimp only | split | (intro _)
      | with_reducible apply good_foldl | simp only [State.good_upd_iff] | simp only [State.good_bootUpd_iff]
      | with_reducible refine good_snd (by assumption) ?_ | with_reducible refine good_fst (by assumption) ?_
      | (simp [*]; done)
  | cons y_ l_ ih =>
    simp only [State.readSlots]
    repeat'
      first
      | with_reducible assumption | with_reducible apply ih | with_reducible apply State.distReads_good
      | with_reducible apply State.distWords_good | dsimp only | split | (intro _)
      | with_reducible apply good_foldl | simp only [State.good_upd_iff] | simp only [State.good_bootUpd_iff]
      | with_reducible refine good_snd (by assumption) ?_ | with_reducible refine good_fst (by assumption) ?_
      | (simp [*]; done)

@[simp] theorem State.restoreCore_good {kt mv : Nat} {s : State} (l : Launch) (y : SlotRead) (hs : s.Good kt mv) :
    State.Good kt mv (State.restoreCore s l y).1 := by
  unfold State.restoreCore
  repeat'
    first
    | with_reducible assumption | with_reducible apply State.restoreStores_good
    | with_reducible apply State.restoreSeq_good | with_reducible apply State.restoreGood_good
    | with_reducible apply State.restoreFailed_good | dsimp only | split | (intro _)
    | with_reducible apply good_foldl | simp only [State.good_upd_iff] | simp only [State.good_bootUpd_iff]
    | with_reducible refine good_snd (by assumption) ?_ | with_reducible refine good_fst (by assumption) ?_
    | (simp [*]; done)

@[simp] theorem State.restoreCores_good {kt mv : Nat} {s : State} (l : Launch) (ys : List SlotRead) (hs : s.Good kt mv) :
    State.Good kt mv (State.restoreCores s l ys) := by
  unfold State.restoreCores
  apply good_foldl
  · intro st b h; exact State.corruptTo_good _ _ _ _ _ _ h
  · apply good_foldl_fst
    · intro q y hq; exact State.restoreCore_good _ _ hq
    · exact hs

@[simp] theorem State.findLost_good {kt mv : Nat} {s : State} (lid : BitVec 32) (hs : s.Good kt mv) :
    State.Good kt mv (State.findLost s lid) := by
  unfold State.findLost
  repeat'
    first
    | with_reducible assumption | with_reducible apply State.modCore_good | with_reducible apply State.enqueue_good
    | with_reducible apply State.modLaunch_good | with_reducible apply State.modInst_good
    | with_reducible apply State.checkReady_good | dsimp only | split | (intro _) | with_reducible apply good_foldl
    | simp only [State.good_upd_iff] | simp only [State.good_bootUpd_iff]
    | with_reducible refine good_snd (by assumption) ?_ | with_reducible refine good_fst (by assumption) ?_
    | (simp [*]; done)

@[simp] theorem State.restartCopies_good {kt mv : Nat} {s : State} (c : Nat) (hs : s.Good kt mv) :
    State.Good kt mv (State.restartCopies s c) := by
  unfold State.restartCopies
  repeat'
    first
    | with_reducible assumption | with_reducible apply State.enqueue_good
    | with_reducible apply State.kickCopies_good | dsimp only | split | (intro _) | with_reducible apply good_foldl
    | simp only [State.good_upd_iff] | simp only [State.good_bootUpd_iff]
    | with_reducible refine good_snd (by assumption) ?_ | with_reducible refine good_fst (by assumption) ?_
    | (simp [*]; done)

@[simp] theorem State.restartQueue_good {kt mv : Nat} {s : State} (c : Nat) (hs : s.Good kt mv) :
    State.Good kt mv (State.restartQueue s c) := by
  unfold State.restartQueue
  repeat'
    first
    | with_reducible assumption | with_reducible apply State.enqueue_good | with_reducible apply State.kick_good
    | with_reducible apply State.checkJoin_good | dsimp only | split | (intro _) | with_reducible apply good_foldl
    | simp only [State.good_upd_iff] | simp only [State.good_bootUpd_iff]
    | with_reducible refine good_snd (by assumption) ?_ | with_reducible refine good_fst (by assumption) ?_
    | (simp [*]; done)

@[simp] theorem State.restartBcast_good {kt mv : Nat} {s : State} (c : Nat) (hs : s.Good kt mv) :
    State.Good kt mv (State.restartBcast s c) := by
  unfold State.restartBcast
  repeat'
    first
    | with_reducible assumption | with_reducible apply State.enqueue_good | dsimp only | split | (intro _)
    | with_reducible apply good_foldl | simp only [State.good_upd_iff] | simp only [State.good_bootUpd_iff]
    | with_reducible refine good_snd (by assumption) ?_ | with_reducible refine good_fst (by assumption) ?_
    | (simp [*]; done)

@[simp] theorem State.restartHold_good {kt mv : Nat} {s : State} (c : Nat) (p : Prio) (hs : s.Good kt mv) :
    State.Good kt mv (State.restartHold s c p) := by
  unfold State.restartHold
  repeat'
    first
    | with_reducible assumption | with_reducible apply State.enqueue_good | dsimp only | split | (intro _)
    | with_reducible apply good_foldl | simp only [State.good_upd_iff] | simp only [State.good_bootUpd_iff]
    | with_reducible refine good_snd (by assumption) ?_ | with_reducible refine good_fst (by assumption) ?_
    | (simp [*]; done)

@[simp] theorem State.restartCore_good {kt mv : Nat} {s : State} (c : Nat) (hs : s.Good kt mv) :
    State.Good kt mv (State.restartCore s c) := by
  unfold State.restartCore
  repeat'
    first
    | with_reducible assumption | with_reducible apply State.modCore_good | with_reducible apply State.enqueue_good
    | with_reducible apply State.pokeApply_good | with_reducible apply State.restartCopies_good
    | with_reducible apply State.restartQueue_good | with_reducible apply State.restartBcast_good
    | with_reducible apply State.restartHold_good | dsimp only | split | (intro _)
    | with_reducible apply good_foldl | simp only [State.good_upd_iff] | simp only [State.good_bootUpd_iff]
    | with_reducible refine good_snd (by assumption) ?_ | with_reducible refine good_fst (by assumption) ?_
    | (simp [*]; done)

@[simp] theorem State.restartFolds_good {kt mv : Nat} {s : State} (cs : List Nat) (hs : s.Good kt mv) :
    State.Good kt mv (State.restartFolds s cs) := by
  unfold State.restartFolds
  repeat'
    first
    | with_reducible assumption | with_reducible apply State.foldAgain_good | dsimp only | split | (intro _)
    | with_reducible apply good_foldl | simp only [State.good_upd_iff] | simp only [State.good_bootUpd_iff]
    | with_reducible refine good_snd (by assumption) ?_ | with_reducible refine good_fst (by assumption) ?_
    | (simp [*]; done)

@[simp] theorem State.restartParked_good {kt mv : Nat} {s : State} (lid : BitVec 32) (hs : s.Good kt mv) :
    State.Good kt mv (State.restartParked s lid) := by
  unfold State.restartParked
  repeat'
    first
    | with_reducible assumption | with_reducible apply State.enqueue_good
    | with_reducible apply State.enqueueFirst_good | with_reducible apply State.pushResume_good | dsimp only
    | split | (intro _) | with_reducible apply good_foldl | simp only [State.good_upd_iff]
    | simp only [State.good_bootUpd_iff] | with_reducible refine good_snd (by assumption) ?_
    | with_reducible refine good_fst (by assumption) ?_ | (simp [*]; done)

@[simp] theorem State.slotMet_good {kt mv : Nat} {s : State} (l q : Nat) (hs : s.Good kt mv) :
    State.Good kt mv (State.slotMet s l q) := by
  unfold State.slotMet
  repeat'
    first
    | with_reducible assumption | with_reducible apply State.meetAll_good | dsimp only | split | (intro _)
    | with_reducible apply good_foldl | simp only [State.good_upd_iff] | simp only [State.good_bootUpd_iff]
    | with_reducible refine good_snd (by assumption) ?_ | with_reducible refine good_fst (by assumption) ?_
    | (simp [*]; done)

@[simp] theorem State.slotDone_good {kt mv : Nat} {s : State} (l q : Nat) (hs : s.Good kt mv) :
    State.Good kt mv (State.slotDone s l q) := by
  unfold State.slotDone
  repeat'
    first
    | with_reducible assumption | with_reducible apply State.modLink_good
    | with_reducible apply State.pokeQueue_good | with_reducible apply State.empty_good | dsimp only | split
    | (intro _) | with_reducible apply good_foldl | simp only [State.good_upd_iff]
    | simp only [State.good_bootUpd_iff] | with_reducible refine good_snd (by assumption) ?_
    | with_reducible refine good_fst (by assumption) ?_ | (simp [*]; done)

@[simp] theorem State.badRecord_good {kt mv : Nat} {s : State} (r : LRec) (repeated : Bool) (hs : s.Good kt mv) :
    State.Good kt mv (State.badRecord s r repeated) := by
  unfold State.badRecord
  repeat'
    first
    | with_reducible assumption | with_reducible apply State.addHistory_good
    | with_reducible apply State.report_good | dsimp only | split | (intro _) | with_reducible apply good_foldl
    | simp only [State.good_upd_iff] | simp only [State.good_bootUpd_iff]
    | with_reducible refine good_snd (by assumption) ?_ | with_reducible refine good_fst (by assumption) ?_
    | (simp [*]; done)

@[simp] theorem State.enter_good {kt mv : Nat} {s : State} (r : LRec) (hs : s.Good kt mv) :
    State.Good kt mv (State.enter s r) := by
  unfold State.enter
  repeat'
    first
    | with_reducible assumption | with_reducible apply State.later_good | with_reducible apply State.endUnrun_good
    | dsimp only | split | (intro _) | with_reducible apply good_foldl | simp only [State.good_upd_iff]
    | simp only [State.good_bootUpd_iff] | with_reducible refine good_snd (by assumption) ?_
    | with_reducible refine good_fst (by assumption) ?_ | (simp [*]; done)

@[simp] theorem State.hostSend_good {kt mv : Nat} {s : State} (l : Nat) (x : HostOut) (hs : s.Good kt mv) :
    State.Good kt mv (State.hostSend s l x) := by
  unfold State.hostSend
  repeat'
    first
    | with_reducible assumption | with_reducible apply State.onLink_good | dsimp only | split | (intro _)
    | with_reducible apply good_foldl | simp only [State.good_upd_iff] | simp only [State.good_bootUpd_iff]
    | with_reducible refine good_snd (by assumption) ?_ | with_reducible refine good_fst (by assumption) ?_
    | (simp [*]; done)

@[simp] theorem State.unpost_good {kt mv : Nat} {s : State} (l n : Nat) (hs : s.Good kt mv) :
    State.Good kt mv (State.unpost s l n) := by
  unfold State.unpost
  repeat'
    first
    | with_reducible assumption | with_reducible apply State.modLink_good | dsimp only | split | (intro _)
    | with_reducible apply good_foldl | simp only [State.good_upd_iff] | simp only [State.good_bootUpd_iff]
    | with_reducible refine good_snd (by assumption) ?_ | with_reducible refine good_fst (by assumption) ?_
    | (simp [*]; done)

@[simp] theorem State.post_good {kt mv : Nat} {s : State} (l d o : Nat) (data : List Byte) (ev : Instr) (hs : s.Good kt mv) :
    State.Good kt mv (State.post s l d o data ev) := by
  unfold State.post
  repeat'
    first
    | with_reducible assumption | with_reducible apply State.later_good | with_reducible apply State.delayed_good
    | with_reducible apply State.bumpId_good | with_reducible apply State.modLink_good | dsimp only | split
    | (intro _) | with_reducible apply good_foldl | simp only [State.good_upd_iff]
    | simp only [State.good_bootUpd_iff] | with_reducible refine good_snd (by assumption) ?_
    | with_reducible refine good_fst (by assumption) ?_ | (simp [*]; done)

@[simp] theorem State.hostAgain_good {kt mv : Nat} {s : State} (n : Nat) (ev : Instr) (hs : s.Good kt mv) :
    State.Good kt mv (State.hostAgain s n ev) := by
  unfold State.hostAgain
  repeat'
    first
    | with_reducible assumption | with_reducible apply State.later_good | dsimp only | split | (intro _)
    | with_reducible apply good_foldl | simp only [State.good_upd_iff] | simp only [State.good_bootUpd_iff]
    | with_reducible refine good_snd (by assumption) ?_ | with_reducible refine good_fst (by assumption) ?_
    | (simp [*]; done)

@[simp] theorem State.hostStand_good {kt mv : Nat} {s : State} (n : Nat) (ev : Instr) (hs : s.Good kt mv) :
    State.Good kt mv (State.hostStand s n ev) := by
  unfold State.hostStand
  repeat'
    first
    | with_reducible assumption | with_reducible apply State.enqueueFirst_good | dsimp only | split | (intro _)
    | with_reducible apply good_foldl | simp only [State.good_upd_iff] | simp only [State.good_bootUpd_iff]
    | with_reducible refine good_snd (by assumption) ?_ | with_reducible refine good_fst (by assumption) ?_
    | (simp [*]; done)

@[simp] theorem State.hostNumber_good {kt mv : Nat} {s : State} (hs : s.Good kt mv) :
    State.Good kt mv (State.hostNumber s).2 := by
  unfold State.hostNumber
  repeat'
    first
    | with_reducible assumption | with_reducible apply State.bumpId_good | with_reducible apply State.tlp_good
    | dsimp only | split | (intro _) | with_reducible apply good_foldl | simp only [State.good_upd_iff]
    | simp only [State.good_bootUpd_iff] | with_reducible refine good_snd (by assumption) ?_
    | with_reducible refine good_fst (by assumption) ?_ | (simp [*]; done)

@[simp] theorem State.hostPut_good {kt mv : Nat} {s : State} (o n v : Nat) (hs : s.Good kt mv) :
    State.Good kt mv (State.hostPut s o n v) := by
  unfold State.hostPut
  repeat'
    first
    | with_reducible assumption | with_reducible apply State.unpoison_good | with_reducible apply State.meet_good
    | with_reducible apply State.meetBlock_good | with_reducible apply State.placeWrite_good
    | with_reducible apply State.call_good | dsimp only | split | (intro _) | with_reducible apply good_foldl
    | simp only [State.good_upd_iff] | simp only [State.good_bootUpd_iff]
    | with_reducible refine good_snd (by assumption) ?_ | with_reducible refine good_fst (by assumption) ?_
    | (simp [*]; done)

@[simp] theorem State.hostWrite_good {kt mv : Nat} {s : State} (o : Nat) (data : List Byte) (hs : s.Good kt mv) :
    State.Good kt mv (State.hostWrite s o data) := by
  unfold State.hostWrite
  repeat'
    first
    | with_reducible assumption | with_reducible apply State.clearFlaw_good | with_reducible apply State.heal_good
    | with_reducible apply State.hostPut_good | dsimp only | split | (intro _) | with_reducible apply good_foldl
    | simp only [State.good_upd_iff] | simp only [State.good_bootUpd_iff]
    | with_reducible refine good_snd (by assumption) ?_ | with_reducible refine good_fst (by assumption) ?_
    | (simp [*]; done)

@[simp] theorem State.repost_good {kt mv : Nat} {s : State} (l n o : Nat) (data : List Byte) (hs : s.Good kt mv) :
    State.Good kt mv (State.repost s l n o data) := by
  unfold State.repost
  repeat'
    first
    | with_reducible assumption | with_reducible apply State.modLink_good | dsimp only | split | (intro _)
    | with_reducible apply good_foldl | simp only [State.good_upd_iff] | simp only [State.good_bootUpd_iff]
    | with_reducible refine good_snd (by assumption) ?_ | with_reducible refine good_fst (by assumption) ?_
    | (simp [*]; done)

@[simp] theorem State.hostPerform_good {kt mv : Nat} {s : State} (l n o : Nat) (data : List Byte) (ev : Instr) (hs :
    s.Good kt mv) :
    State.Good kt mv (State.hostPerform s l n o data ev) := by
  unfold State.hostPerform
  repeat'
    first
    | with_reducible assumption | with_reducible apply State.unpost_good
    | with_reducible apply State.hostStand_good | with_reducible apply State.hostWrite_good
    | with_reducible apply State.repost_good | dsimp only | split | (intro _) | with_reducible apply good_foldl
    | simp only [State.good_upd_iff] | simp only [State.good_bootUpd_iff]
    | with_reducible refine good_snd (by assumption) ?_ | with_reducible refine good_fst (by assumption) ?_
    | (simp [*]; done)

@[simp] theorem State.hostGet_good {kt mv : Nat} {s : State} (o n : Nat) (hs : s.Good kt mv) :
    State.Good kt mv (State.hostGet s o n).2 := by
  unfold State.hostGet
  repeat'
    first
    | with_reducible assumption | with_reducible apply State.countUncorr_good
    | with_reducible apply State.meet_good | with_reducible apply State.placeRead'_good
    | with_reducible apply State.call_good | dsimp only | split | (intro _) | with_reducible apply good_foldl
    | simp only [State.good_upd_iff] | simp only [State.good_bootUpd_iff]
    | with_reducible refine good_snd (by assumption) ?_ | with_reducible refine good_fst (by assumption) ?_
    | (simp [*]; done)

@[simp] theorem State.hostRead_good {kt mv : Nat} {s : State} (o n : Nat) (hs : s.Good kt mv) : (s.hostRead o n).2.Good
    kt mv := by
  unfold State.hostRead
  dsimp only
  have key : ∀ (l : List Nat) (r : (List Byte × Bool) × State), r.2.Good kt mv →
      (l.foldl (fun r w =>
          ((r.1.1 ++ (r.2.hostGet (max o w) (min (o + n) (w + 8) - max o w)).1.1,
              r.1.2 || (r.2.hostGet (max o w) (min (o + n) (w + 8) - max o w)).1.2),
            (r.2.hostGet (max o w) (min (o + n) (w + 8) - max o w)).2)) r).2.Good kt mv := by
    intro l
    induction l with
    | nil => intro r h; exact h
    | cons w l ih => intro r h; exact ih _ (State.hostGet_good (max o w) (min (o + n) (w + 8) - max o w) h)
  exact key _ _ hs

@[simp] theorem State.aperRead_good {kt mv : Nat} {s : State} (l off len n : Nat) (hs : s.Good kt mv) :
    State.Good kt mv (State.aperRead s l off len n) := by
  unfold State.aperRead
  repeat'
    first
    | with_reducible assumption | with_reducible apply State.hostSend_good
    | with_reducible apply State.hostStand_good | with_reducible apply State.hostRead_good | dsimp only | split
    | (intro _) | with_reducible apply good_foldl | simp only [State.good_upd_iff]
    | simp only [State.good_bootUpd_iff] | with_reducible refine good_snd (by assumption) ?_
    | with_reducible refine good_fst (by assumption) ?_ | (simp [*]; done)

@[simp] theorem State.feDo_good {kt mv : Nat} {s : State} (x : SubWin) (o : Nat) (data : List Byte) (hs : s.Good kt mv) :
    State.Good kt mv (State.feDo s x o data) := by
  unfold State.feDo
  repeat'
    first
    | with_reducible assumption | with_reducible apply State.meet_good | with_reducible apply State.meetBlock_good
    | with_reducible apply State.fill_good | with_reducible apply State.empty_good
    | with_reducible apply State.fillWord_good | with_reducible apply State.call_good | dsimp only | split
    | (intro _) | with_reducible apply good_foldl | simp only [State.good_upd_iff]
    | simp only [State.good_bootUpd_iff] | with_reducible refine good_snd (by assumption) ?_
    | with_reducible refine good_fst (by assumption) ?_ | (simp [*]; done)

@[simp] theorem State.feWrite_good {kt mv : Nat} {s : State} (l off : Nat) (data : List Byte) (ev : Instr) (hs : s.Good
    kt mv) :
    State.Good kt mv (State.feWrite s l off data ev) := by
  unfold State.feWrite
  repeat'
    first
    | with_reducible assumption | with_reducible apply State.tlp_good
    | with_reducible apply State.countDropped_good | with_reducible apply State.unpost_good
    | with_reducible apply State.post_good | with_reducible apply State.hostAgain_good
    | with_reducible apply State.hostStand_good | with_reducible apply State.feDo_good | dsimp only | split
    | (intro _) | with_reducible apply good_foldl | simp only [State.good_upd_iff]
    | simp only [State.good_bootUpd_iff] | with_reducible refine good_snd (by assumption) ?_
    | with_reducible refine good_fst (by assumption) ?_ | (simp [*]; done)

@[simp] theorem State.bitRead_good {kt mv : Nat} {s : State} (o : Nat) (hs : s.Good kt mv) :
    State.Good kt mv (State.bitRead s o).2 := by
  unfold State.bitRead
  repeat'
    first
    | with_reducible assumption | with_reducible apply State.meet_good | with_reducible apply State.call_good
    | dsimp only | split | (intro _) | with_reducible apply good_foldl | simp only [State.good_upd_iff]
    | simp only [State.good_bootUpd_iff] | with_reducible refine good_snd (by assumption) ?_
    | with_reducible refine good_fst (by assumption) ?_ | (simp [*]; done)

@[simp] theorem State.feRead_good {kt mv : Nat} {s : State} (l off : Nat) (ev : Instr) (hs : s.Good kt mv) :
    State.Good kt mv (State.feRead s l off ev) := by
  unfold State.feRead
  repeat'
    first
    | with_reducible assumption | with_reducible apply State.fill_good | with_reducible apply State.hostSend_good
    | with_reducible apply State.hostAgain_good | with_reducible apply State.hostStand_good
    | with_reducible apply State.hostNumber_good | with_reducible apply State.hostRead_good
    | with_reducible apply State.bitRead_good | dsimp only | split | (intro _) | with_reducible apply good_foldl
    | simp only [State.good_upd_iff] | simp only [State.good_bootUpd_iff]
    | with_reducible refine good_snd (by assumption) ?_ | with_reducible refine good_fst (by assumption) ?_
    | (simp [*]; done)

@[simp] theorem State.shortenBlocks_good {kt mv : Nat} {s : State} (i : Nat) (hs : s.Good kt mv) :
    State.Good kt mv (State.shortenBlocks s i) := by
  unfold State.shortenBlocks
  repeat'
    first
    | with_reducible assumption | with_reducible apply State.enqueue_good | dsimp only | split | (intro _)
    | with_reducible apply good_foldl | simp only [State.good_upd_iff] | simp only [State.good_bootUpd_iff]
    | with_reducible refine good_snd (by assumption) ?_ | with_reducible refine good_fst (by assumption) ?_
    | (simp [*]; done)

@[simp] theorem State.heatCopies_good {kt mv : Nat} {s : State} (i : Nat) (hs : s.Good kt mv) :
    State.Good kt mv (State.heatCopies s i) := by
  unfold State.heatCopies
  repeat'
    first
    | with_reducible assumption | dsimp only | split | (intro _) | with_reducible apply good_foldl
    | simp only [State.good_upd_iff] | simp only [State.good_bootUpd_iff]
    | with_reducible refine good_snd (by assumption) ?_ | with_reducible refine good_fst (by assumption) ?_
    | (simp [*]; done)

@[simp] theorem State.vaultZone_good {kt mv : Nat} {s : State} (i old new : Nat) (hs : s.Good kt mv) :
    State.Good kt mv (State.vaultZone s i old new) := by
  unfold State.vaultZone
  repeat'
    first
    | with_reducible assumption | with_reducible apply State.modLayer_good
    | with_reducible apply State.setInterval_good | with_reducible apply State.shortenBlocks_good
    | with_reducible apply State.heatCopies_good | dsimp only | split | (intro _) | with_reducible apply good_foldl
    | simp only [State.good_upd_iff] | simp only [State.good_bootUpd_iff]
    | with_reducible refine good_snd (by assumption) ?_ | with_reducible refine good_fst (by assumption) ?_
    | (simp [*]; done)

@[simp] theorem State.loseAll_good {kt mv : Nat} {s : State} (hs : s.Good kt mv) :
    State.Good kt mv (State.loseAll s) := by
  unfold State.loseAll
  repeat'
    first
    | with_reducible assumption | dsimp only | split | (intro _) | with_reducible apply good_foldl
    | simp only [State.good_upd_iff] | simp only [State.good_bootUpd_iff]
    | with_reducible refine good_snd (by assumption) ?_ | with_reducible refine good_fst (by assumption) ?_
    | (simp [*]; done)

@[simp] theorem State.goDown_good {kt mv : Nat} {s : State} (w : Why) (hs : s.Good kt mv) :
    State.Good kt mv (State.goDown s w) := by
  unfold State.goDown
  repeat'
    first
    | with_reducible assumption | with_reducible apply State.later_good | with_reducible apply State.delayed_good
    | dsimp only | split | (intro _) | with_reducible apply good_foldl | simp only [State.good_upd_iff]
    | simp only [State.good_bootUpd_iff] | with_reducible refine good_snd (by assumption) ?_
    | with_reducible refine good_fst (by assumption) ?_ | (simp [*]; done)

@[simp] theorem State.setCode_good {kt mv : Nat} {s : State} (code : BitVec 8) (detail : Nat) (hs : s.Good kt mv) :
    State.Good kt mv (State.setCode s code detail) := by
  unfold State.setCode
  repeat'
    first
    | with_reducible assumption | dsimp only | split | (intro _) | with_reducible apply good_foldl
    | simp only [State.good_upd_iff] | simp only [State.good_bootUpd_iff]
    | with_reducible refine good_snd (by assumption) ?_ | with_reducible refine good_fst (by assumption) ?_
    | (simp [*]; done)

@[simp] theorem State.thermalShutdown_good {kt mv : Nat} {s : State} (j : Nat) (hs : s.Good kt mv) :
    State.Good kt mv (State.thermalShutdown s j) := by
  unfold State.thermalShutdown
  repeat'
    first
    | with_reducible assumption | with_reducible apply State.loseAll_good | with_reducible apply State.goDown_good
    | with_reducible apply State.setCode_good | dsimp only | split | (intro _) | with_reducible apply good_foldl
    | simp only [State.good_upd_iff] | simp only [State.good_bootUpd_iff]
    | with_reducible refine good_snd (by assumption) ?_ | with_reducible refine good_fst (by assumption) ?_
    | (simp [*]; done)

@[simp] theorem State.nextSample_good {kt mv : Nat} {s : State} (j : Nat) (hs : s.Good kt mv) :
    State.Good kt mv (State.nextSample s j) := by
  unfold State.nextSample
  repeat'
    first
    | with_reducible assumption | with_reducible apply State.enqueueFirst_good
    | with_reducible apply State.bumpFree_good | dsimp only | split | (intro _) | with_reducible apply good_foldl
    | simp only [State.good_upd_iff] | simp only [State.good_bootUpd_iff]
    | with_reducible refine good_snd (by assumption) ?_ | with_reducible refine good_fst (by assumption) ?_
    | (simp [*]; done)

@[simp] theorem State.sample_good {kt mv : Nat} {s : State} (j : Nat) (temp : BitVec 16) (hs : s.Good kt mv) :
    State.Good kt mv (State.sample s j temp) := by
  unfold State.sample
  repeat'
    first
    | with_reducible assumption | with_reducible apply State.vaultZone_good
    | with_reducible apply State.thermalShutdown_good | dsimp only | split | (intro _)
    | with_reducible apply good_foldl | simp only [State.good_upd_iff] | simp only [State.good_bootUpd_iff]
    | with_reducible refine good_snd (by assumption) ?_ | with_reducible refine good_fst (by assumption) ?_
    | (simp [*]; done)

@[simp] theorem State.setPath_good {kt mv : Nat} {s : State} (p : Nat) (x : Path) (hs : s.Good kt mv) :
    State.Good kt mv (State.setPath s p x) := by
  unfold State.setPath
  repeat'
    first
    | with_reducible assumption | dsimp only | split | (intro _) | with_reducible apply good_foldl
    | simp only [State.good_upd_iff] | simp only [State.good_bootUpd_iff]
    | with_reducible refine good_snd (by assumption) ?_ | with_reducible refine good_fst (by assumption) ?_
    | (simp [*]; done)

@[simp] theorem State.repairPath_good {kt mv : Nat} {s : State} (p : Nat) (hs : s.Good kt mv) :
    State.Good kt mv (State.repairPath s p) := by
  unfold State.repairPath
  repeat'
    first
    | with_reducible assumption | with_reducible apply State.later_good | with_reducible apply State.setPath_good
    | dsimp only | split | (intro _) | with_reducible apply good_foldl | simp only [State.good_upd_iff]
    | simp only [State.good_bootUpd_iff] | with_reducible refine good_snd (by assumption) ?_
    | with_reducible refine good_fst (by assumption) ?_ | (simp [*]; done)

@[simp] theorem State.laneFails_good {kt mv : Nat} {s : State} (p lane : Nat) (hs : s.Good kt mv) :
    State.Good kt mv (State.laneFails s p lane) := by
  unfold State.laneFails
  repeat'
    first
    | with_reducible assumption | with_reducible apply State.fenceLayer_good
    | with_reducible apply State.setPath_good | with_reducible apply State.repairPath_good | dsimp only | split
    | (intro _) | with_reducible apply good_foldl | simp only [State.good_upd_iff]
    | simp only [State.good_bootUpd_iff] | with_reducible refine good_snd (by assumption) ?_
    | with_reducible refine good_fst (by assumption) ?_ | (simp [*]; done)

@[simp] theorem State.nextMargin_good {kt mv : Nat} {s : State} (p : Nat) (hs : s.Good kt mv) :
    State.Good kt mv (State.nextMargin s p) := by
  unfold State.nextMargin
  repeat'
    first
    | with_reducible assumption | with_reducible apply State.enqueue_good | dsimp only | split | (intro _)
    | with_reducible apply good_foldl | simp only [State.good_upd_iff] | simp only [State.good_bootUpd_iff]
    | with_reducible refine good_snd (by assumption) ?_ | with_reducible refine good_fst (by assumption) ?_
    | (simp [*]; done)

@[simp] theorem State.modStatus_good {kt mv : Nat} {s : State} (f : StartStatus → StartStatus) (hs : s.Good kt mv) :
    State.Good kt mv (State.modStatus s f) := by
  unfold State.modStatus
  repeat'
    first
    | with_reducible assumption | dsimp only | split | (intro _) | with_reducible apply good_foldl
    | simp only [State.good_upd_iff] | simp only [State.good_bootUpd_iff]
    | with_reducible refine good_snd (by assumption) ?_ | with_reducible refine good_fst (by assumption) ?_
    | (simp [*]; done)

@[simp] theorem State.beginStage_good {kt mv : Nat} {s : State} (n : Nat) (hs : s.Good kt mv) :
    State.Good kt mv (State.beginStage s n) := by
  unfold State.beginStage
  repeat'
    first
    | with_reducible assumption | with_reducible apply State.enqueueLast_good
    | with_reducible apply State.modStatus_good | dsimp only | split | (intro _) | with_reducible apply good_foldl
    | simp only [State.good_upd_iff] | simp only [State.good_bootUpd_iff]
    | with_reducible refine good_snd (by assumption) ?_ | with_reducible refine good_fst (by assumption) ?_
    | (simp [*]; done)

@[simp] theorem State.powerOff_good {kt mv : Nat} {s : State} (hs : s.Good kt mv) : s.powerOff.Good kt mv :=
  ⟨⟨rfl, ⟨List.Pairwise.nil, by simp [State.powerOff, State.reset]⟩, ⟨List.Pairwise.nil, by simp [State.powerOff,
      State.reset]⟩,
    ⟨List.Pairwise.nil, by simp [State.powerOff, State.reset]⟩⟩,
   hs.tick, hs.version⟩

@[simp] theorem State.burnStep_good {kt mv : Nat} {s : State} (hs : s.Good kt mv) :
    State.Good kt mv (State.burnStep s) := by
  unfold State.burnStep
  repeat'
    first
    | with_reducible assumption | with_reducible apply State.setCode_good | dsimp only | split | (intro _)
    | with_reducible apply good_foldl | simp only [State.good_upd_iff] | simp only [State.good_bootUpd_iff]
    | with_reducible refine good_snd (by assumption) ?_ | with_reducible refine good_fst (by assumption) ?_
    | (simp [*]; done)

@[simp] theorem State.rise_good {kt mv : Nat} {s : State} (readable : Bool) (hs : s.Good kt mv) :
    State.Good kt mv (State.rise s readable) := by
  unfold State.rise
  repeat'
    first
    | with_reducible assumption | with_reducible apply State.enqueueFirst_good
    | with_reducible apply State.bumpFree_good | with_reducible apply State.beginStage_good
    | with_reducible apply State.powerOff_good | with_reducible apply State.burnStep_good | dsimp only | split
    | (intro _) | with_reducible apply good_foldl | simp only [State.good_upd_iff]
    | simp only [State.good_bootUpd_iff] | with_reducible refine good_snd (by assumption) ?_
    | with_reducible refine good_fst (by assumption) ?_ | (simp [*]; done)

@[simp] theorem State.failStart_good {kt mv : Nat} {s : State} (code : BitVec 8) (detail : Nat) (hs : s.Good kt mv) :
    State.Good kt mv (State.failStart s code detail) := by
  unfold State.failStart
  repeat'
    first
    | with_reducible assumption | with_reducible apply State.goDown_good | with_reducible apply State.setCode_good
    | with_reducible apply State.modStatus_good | dsimp only | split | (intro _) | with_reducible apply good_foldl
    | simp only [State.good_upd_iff] | simp only [State.good_bootUpd_iff]
    | with_reducible refine good_snd (by assumption) ?_ | with_reducible refine good_fst (by assumption) ?_
    | (simp [*]; done)

/-- Accepting an image never lowers the least version (R79). -/
theorem Start.raise_ge (b : Start) (x : FwImage) : b.minVersion.toNat ≤ (b.raise x).minVersion.toNat := by
  unfold Start.raise
  split
  · exact Nat.le_of_lt ‹_›
  · exact Nat.le_refl _

@[simp] theorem State.verifyFw_good {kt mv : Nat} {s : State} (hs : s.Good kt mv) : s.verifyFw.1.Good kt mv := by
  unfold State.verifyFw
  split
  · exact ⟨⟨hs.mem.bytes, hs.mem.empties, hs.mem.poison, hs.mem.wpoison⟩, hs.tick, Nat.le_trans hs.version
      (Start.raise_ge _ _)⟩
  · split
    · exact State.failStart_good _ _ hs
    · exact State.failStart_good _ _ (State.bumpFree_good hs)

@[simp] theorem State.fenceStart_good {kt mv : Nat} {s : State} (ls : BitVec 32) (ts : BitVec 8) (hs : s.Good kt mv) :
    State.Good kt mv (State.fenceStart s ls ts) := by
  unfold State.fenceStart
  repeat'
    first
    | with_reducible assumption | with_reducible apply State.modLayer_good | dsimp only | split | (intro _)
    | with_reducible apply good_foldl | simp only [State.good_upd_iff] | simp only [State.good_bootUpd_iff]
    | with_reducible refine good_snd (by assumption) ?_ | with_reducible refine good_fst (by assumption) ?_
    | (simp [*]; done)

@[simp] theorem State.trainPcie_good {kt mv : Nat} {s : State} (hs : s.Good kt mv) :
    State.Good kt mv (State.trainPcie s) := by
  unfold State.trainPcie
  repeat'
    first
    | with_reducible assumption | with_reducible apply State.modLink_good | dsimp only | split | (intro _)
    | with_reducible apply good_foldl | simp only [State.good_upd_iff] | simp only [State.good_bootUpd_iff]
    | with_reducible refine good_snd (by assumption) ?_ | with_reducible refine good_fst (by assumption) ?_
    | (simp [*]; done)

@[simp] theorem State.calibrate_good {kt mv : Nat} {s : State} (hs : s.Good kt mv) :
    State.Good kt mv (State.calibrate s) := by
  unfold State.calibrate
  repeat'
    first
    | with_reducible assumption | with_reducible apply State.modLayer_good
    | with_reducible apply State.modSpan_good | with_reducible apply State.setInterval_good | dsimp only | split
    | (intro _) | with_reducible apply good_foldl | simp only [State.good_upd_iff]
    | simp only [State.good_bootUpd_iff] | with_reducible refine good_snd (by assumption) ?_
    | with_reducible refine good_fst (by assumption) ?_ | (simp [*]; done)

@[simp] theorem State.mendRows_good {kt mv : Nat} {s : State} (i : Nat) (hs : s.Good kt mv) :
    State.Good kt mv (State.mendRows s i) := by
  unfold State.mendRows
  repeat'
    first
    | with_reducible assumption | with_reducible apply State.modLayer_good
    | with_reducible apply State.fenceStart_good | dsimp only | split | (intro _) | with_reducible apply good_foldl
    | simp only [State.good_upd_iff] | simp only [State.good_bootUpd_iff]
    | with_reducible refine good_snd (by assumption) ?_ | with_reducible refine good_fst (by assumption) ?_
    | (simp [*]; done)

@[simp] theorem State.initMemory_good {kt mv : Nat} {s : State} (hs : s.Good kt mv) : s.initMemory.Good kt mv := by
  unfold State.initMemory
  dsimp only
  apply State.startScrub_good
  apply good_foldl
  · intro st x h; exact State.reRefresh_good _ h
  · apply good_foldl
    · intro st x h; exact State.mendRows_good _ h
    · apply good_foldl
      · intro st x h; exact State.modLink_good _ _ h
      · have h := State.loseAll_good hs
        exact ⟨⟨rfl, ⟨List.Pairwise.nil, by simp⟩, ⟨List.Pairwise.nil, by simp⟩, ⟨List.Pairwise.nil, by simp⟩⟩, h.tick,
            h.version⟩

@[simp] theorem State.loadFirmware_good {kt mv : Nat} {s : State} (hs : s.Good kt mv) :
    State.Good kt mv (State.loadFirmware s) := by
  unfold State.loadFirmware
  repeat'
    first
    | with_reducible assumption | with_reducible apply State.codeStore_good | dsimp only | split | (intro _)
    | with_reducible apply good_foldl | simp only [State.good_upd_iff] | simp only [State.good_bootUpd_iff]
    | with_reducible refine good_snd (by assumption) ?_ | with_reducible refine good_fst (by assumption) ?_
    | (simp [*]; done)

@[simp] theorem State.becomeReady_good {kt mv : Nat} {s : State} (hs : s.Good kt mv) :
    State.Good kt mv (State.becomeReady s) := by
  unfold State.becomeReady
  repeat'
    first
    | with_reducible assumption | with_reducible apply State.enqueue_good
    | with_reducible apply State.enqueueFirst_good | with_reducible apply State.bumpFree_good
    | with_reducible apply State.setCode_good | with_reducible apply State.modStatus_good
    | with_reducible apply State.loadFirmware_good | dsimp only | split | (intro _)
    | with_reducible apply good_foldl | simp only [State.good_upd_iff] | simp only [State.good_bootUpd_iff]
    | with_reducible refine good_snd (by assumption) ?_ | with_reducible refine good_fst (by assumption) ?_
    | (simp [*]; done)

@[simp] theorem State.endStage_good {kt mv : Nat} {s : State} (n : Nat) (hs : s.Good kt mv) :
    State.Good kt mv (State.endStage s n).1 := by
  unfold State.endStage
  repeat'
    first
    | with_reducible assumption | with_reducible apply State.verifyFw_good
    | with_reducible apply State.trainPcie_good | with_reducible apply State.calibrate_good
    | with_reducible apply State.initMemory_good | with_reducible apply State.becomeReady_good | dsimp only | split
    | (intro _) | with_reducible apply good_foldl | simp only [State.good_upd_iff]
    | simp only [State.good_bootUpd_iff] | with_reducible refine good_snd (by assumption) ?_
    | with_reducible refine good_fst (by assumption) ?_ | (simp [*]; done)

@[simp] theorem State.goOn_good {kt mv : Nat} {s : State} (n : Nat) (hs : s.Good kt mv) :
    State.Good kt mv (State.goOn s n) := by
  unfold State.goOn
  repeat'
    first
    | with_reducible assumption | with_reducible apply State.modStatus_good
    | with_reducible apply State.beginStage_good | with_reducible apply State.failStart_good | dsimp only | split
    | (intro _) | with_reducible apply good_foldl | simp only [State.good_upd_iff]
    | simp only [State.good_bootUpd_iff] | with_reducible refine good_snd (by assumption) ?_
    | with_reducible refine good_fst (by assumption) ?_ | (simp [*]; done)

@[simp] theorem State.retrainLink_good {kt mv : Nat} {s : State} (l : Nat) (hs : s.Good kt mv) :
    State.Good kt mv (State.retrainLink s l) := by
  unfold State.retrainLink
  repeat'
    first
    | with_reducible assumption | with_reducible apply State.later_good | with_reducible apply State.modSpan_good
    | dsimp only | split | (intro _) | with_reducible apply good_foldl | simp only [State.good_upd_iff]
    | simp only [State.good_bootUpd_iff] | with_reducible refine good_snd (by assumption) ?_
    | with_reducible refine good_fst (by assumption) ?_ | (simp [*]; done)

@[simp] theorem State.resend_good {kt mv : Nat} {s : State} (l : Nat) (hs : s.Good kt mv) :
    State.Good kt mv (State.resend s l) := by
  unfold State.resend
  repeat'
    first
    | with_reducible assumption | with_reducible apply State.modSpan_good
    | with_reducible apply State.countCorr_good | dsimp only | split | (intro _) | with_reducible apply good_foldl
    | simp only [State.good_upd_iff] | simp only [State.good_bootUpd_iff]
    | with_reducible refine good_snd (by assumption) ?_ | with_reducible refine good_fst (by assumption) ?_
    | (simp [*]; done)

@[simp] theorem State.sendHeld_good {kt mv : Nat} {s : State} (e : OutPk) (hs : s.Good kt mv) :
    State.Good kt mv (State.sendHeld s e) := by
  unfold State.sendHeld
  repeat'
    first
    | with_reducible assumption | with_reducible apply State.sendOver_good | dsimp only | split | (intro _)
    | with_reducible apply good_foldl | simp only [State.good_upd_iff] | simp only [State.good_bootUpd_iff]
    | with_reducible refine good_snd (by assumption) ?_ | with_reducible refine good_fst (by assumption) ?_
    | (simp [*]; done)

@[simp] theorem State.noticed_good {kt mv : Nat} {s : State} (pa : Nat) (fill : Option Bool) (hs : s.Good kt mv) :
    State.Good kt mv (State.noticed s pa fill) := by
  unfold State.noticed
  repeat'
    first
    | with_reducible assumption | with_reducible apply State.wakeEntry_good | dsimp only | split | (intro _)
    | with_reducible apply good_foldl | simp only [State.good_upd_iff] | simp only [State.good_bootUpd_iff]
    | with_reducible refine good_snd (by assumption) ?_ | with_reducible refine good_fst (by assumption) ?_
    | (simp [*]; done)

@[simp] theorem State.presentReward_good {kt mv : Nat} {s : State} (lid : BitVec 32) (r : Option (BitVec 16)) (stamp :
    Word) (x_ : List Nat) (hs : s.Good kt mv) :
    State.Good kt mv (State.presentReward s lid r stamp x_).2 := by
  induction x_ generalizing s lid r stamp with
  | nil =>
    simp only [State.presentReward]
    repeat'
      first
      | with_reducible assumption | with_reducible apply ih | with_reducible apply State.takeBcast_good
      | dsimp only | split | (intro _) | with_reducible apply good_foldl | simp only [State.good_upd_iff]
      | simp only [State.good_bootUpd_iff] | with_reducible refine good_snd (by assumption) ?_
      | with_reducible refine good_fst (by assumption) ?_ | (simp [*]; done)
  | cons y_ l_ ih =>
    simp only [State.presentReward]
    repeat'
      first
      | with_reducible assumption | with_reducible apply ih | with_reducible apply State.takeBcast_good
      | dsimp only | split | (intro _) | with_reducible apply good_foldl | simp only [State.good_upd_iff]
      | simp only [State.good_bootUpd_iff] | with_reducible refine good_snd (by assumption) ?_
      | with_reducible refine good_fst (by assumption) ?_ | (simp [*]; done)

@[simp] theorem State.present_good {kt mv : Nat} {s : State} (p : Packet) (hs : s.Good kt mv) :
    State.Good kt mv (State.present s p).2 := by
  unfold State.present
  repeat'
    first
    | with_reducible assumption | with_reducible apply State.enqueue_good | with_reducible apply State.later_good
    | with_reducible apply State.push_good | with_reducible apply State.codeStore_good
    | with_reducible apply State.toSpan_good | with_reducible apply State.takeMsg_good
    | with_reducible apply State.takePush_good | with_reducible apply State.noticed_good
    | with_reducible apply State.presentReward_good | dsimp only | split | (intro _)
    | with_reducible apply good_foldl | simp only [State.good_upd_iff] | simp only [State.good_bootUpd_iff]
    | with_reducible refine good_snd (by assumption) ?_ | with_reducible refine good_fst (by assumption) ?_
    | (simp [*]; done)

@[simp] theorem State.presentHead_good {kt mv : Nat} {s : State} (l : Nat) (hs : s.Good kt mv) :
    State.Good kt mv (State.presentHead s l) := by
  unfold State.presentHead
  repeat'
    first
    | with_reducible assumption | with_reducible apply State.later_good | with_reducible apply State.modSpan_good
    | with_reducible apply State.poke_good | with_reducible apply State.present_good | dsimp only | split
    | (intro _) | with_reducible apply good_foldl | simp only [State.good_upd_iff]
    | simp only [State.good_bootUpd_iff] | with_reducible refine good_snd (by assumption) ?_
    | with_reducible refine good_fst (by assumption) ?_ | (simp [*]; done)

@[simp] theorem State.parkRemote_good {kt mv : Nat} {s : State} (a : Access) (kind : ParkKind) (hs : s.Good kt mv) :
    State.Good kt mv (State.parkRemote s a kind) := by
  unfold State.parkRemote
  repeat'
    first
    | with_reducible assumption | with_reducible apply State.wakeEntry_good
    | with_reducible apply State.registerPark_good | dsimp only | split | (intro _)
    | with_reducible apply good_foldl | simp only [State.good_upd_iff] | simp only [State.good_bootUpd_iff]
    | with_reducible refine good_snd (by assumption) ?_ | with_reducible refine good_fst (by assumption) ?_
    | (simp [*]; done)

@[simp] theorem State.responseArrive_good {kt mv : Nat} {s : State} (k : Nat) (ans : Answer) (hs : s.Good kt mv) :
    State.Good kt mv (State.responseArrive s k ans) := by
  unfold State.responseArrive
  repeat'
    first
    | with_reducible assumption | with_reducible apply State.markDone_good
    | with_reducible apply State.answerIn_good | with_reducible apply State.parkRemote_good | dsimp only | split
    | (intro _) | with_reducible apply good_foldl | simp only [State.good_upd_iff]
    | simp only [State.good_bootUpd_iff] | with_reducible refine good_snd (by assumption) ?_
    | with_reducible refine good_fst (by assumption) ?_ | (simp [*]; done)

@[simp] theorem State.flitFails_good {kt mv : Nat} {s : State} (l lane : Nat) (hs : s.Good kt mv) :
    State.Good kt mv (State.flitFails s l lane) := by
  unfold State.flitFails
  repeat'
    first
    | with_reducible assumption | with_reducible apply State.later_good | with_reducible apply State.modSpan_good
    | with_reducible apply State.retrainLink_good | dsimp only | split | (intro _)
    | with_reducible apply good_foldl | simp only [State.good_upd_iff] | simp only [State.good_bootUpd_iff]
    | with_reducible refine good_snd (by assumption) ?_ | with_reducible refine good_fst (by assumption) ?_
    | (simp [*]; done)

@[simp] theorem State.flitHeader_good {kt mv : Nat} {s : State} (l : Nat) (f : Flit) (hs : s.Good kt mv) :
    State.Good kt mv (State.flitHeader s l f) := by
  unfold State.flitHeader
  repeat'
    first
    | with_reducible assumption | with_reducible apply State.later_good | with_reducible apply State.modSpan_good
    | with_reducible apply State.poke_good | with_reducible apply State.retrainLink_good
    | with_reducible apply State.resend_good | dsimp only | split | (intro _) | with_reducible apply good_foldl
    | simp only [State.good_upd_iff] | simp only [State.good_bootUpd_iff]
    | with_reducible refine good_snd (by assumption) ?_ | with_reducible refine good_fst (by assumption) ?_
    | (simp [*]; done)

@[simp] theorem State.flitPacket_good {kt mv : Nat} {s0 : State} (l slot : Nat) (p : Packet) (hs0 : s0.Good kt mv) :
    State.Good kt mv (State.flitPacket s0 l slot p) := by
  unfold State.flitPacket
  repeat'
    first
    | with_reducible assumption | with_reducible apply State.later_good | with_reducible apply State.modSpan_good
    | with_reducible apply State.crossing_good | with_reducible apply State.responseArrive_good | dsimp only
    | split | (intro _) | with_reducible apply good_foldl | simp only [State.good_upd_iff]
    | simp only [State.good_bootUpd_iff] | with_reducible refine good_snd (by assumption) ?_
    | with_reducible refine good_fst (by assumption) ?_ | (simp [*]; done)

@[simp] theorem State.finishBundle_good {kt mv : Nat} {s : State} (hs : s.Good kt mv) :
    State.Good kt mv (State.finishBundle s) := by
  unfold State.finishBundle
  repeat'
    first
    | with_reducible assumption | with_reducible apply State.modMe_good | with_reducible apply State.tryLeave_good
    | dsimp only | split | (intro _) | with_reducible apply good_foldl | simp only [State.good_upd_iff]
    | simp only [State.good_bootUpd_iff] | with_reducible refine good_snd (by assumption) ?_
    | with_reducible refine good_fst (by assumption) ?_ | (simp [*]; done)

@[simp] theorem State.endSlot_good {kt mv : Nat} {s : State} (c : Nat) (hs : s.Good kt mv) :
    State.Good kt mv (State.endSlot s c) := by
  unfold State.endSlot
  repeat'
    first
    | with_reducible assumption | with_reducible apply State.modCore_good | dsimp only | split | (intro _)
    | with_reducible apply good_foldl | simp only [State.good_upd_iff] | simp only [State.good_bootUpd_iff]
    | with_reducible refine good_snd (by assumption) ?_ | with_reducible refine good_fst (by assumption) ?_
    | (simp [*]; done)

@[simp] theorem State.takeAsync_good {kt mv : Nat} {s : State} (hs : s.Good kt mv) :
    State.Good kt mv (State.takeAsync s) := by
  unfold State.takeAsync
  repeat'
    first
    | with_reducible assumption | with_reducible apply State.takeTrap_good | dsimp only | split | (intro _)
    | with_reducible apply good_foldl | simp only [State.good_upd_iff] | simp only [State.good_bootUpd_iff]
    | with_reducible refine good_snd (by assumption) ?_ | with_reducible refine good_fst (by assumption) ?_
    | (simp [*]; done)

/-- The next tick begins: nothing else moves. -/
@[simp] theorem State.nextTick_good {kt mv : Nat} {s : State} (hs : s.Good kt mv) : s.nextTick.Good (kt + 1) mv :=
  ⟨⟨hs.mem.bytes, hs.mem.empties, hs.mem.poison, hs.mem.wpoison⟩, congrArg (· + 1) hs.tick, hs.version⟩

end Sys2Proof.Machine
end

