-- ==== Sys2Proof/Laws/InvMeanings.lean ====
section
/-!
SUPPORT. The meanings, one lemma each,
keep the invariant of memory, the tick and the least firmware version.
-/
namespace Sys2Proof.Machine

@[simp] theorem execNopC_good {kt mv : Nat} {s : State} (hs : s.Good kt mv) :
    OutGood kt mv (execNopC s) := by
  unfold execNopC
  repeat'
    first
    | with_reducible assumption | with_reducible apply State.issue_good | exact outGood_fault
    | exact outGood_refused | with_reducible apply outGood_next | dsimp only | split | (intro _)
    | with_reducible apply good_foldl | simp only [State.good_upd_iff] | simp only [State.good_bootUpd_iff]
    | with_reducible refine good_snd (by assumption) ?_ | with_reducible refine good_fst (by assumption) ?_
    | (simp [*]; done)

@[simp] theorem execEndFiring_good {kt mv : Nat} {s : State} (hs : s.Good kt mv) :
    OutGood kt mv (execEndFiring s) := by
  unfold execEndFiring
  repeat'
    first
    | with_reducible assumption | with_reducible apply State.modMe_good | with_reducible apply State.issue_good
    | with_reducible apply State.trapHere_good | exact outGood_fault | exact outGood_refused
    | with_reducible apply outGood_next | dsimp only | split | (intro _) | with_reducible apply good_foldl
    | simp only [State.good_upd_iff] | simp only [State.good_bootUpd_iff]
    | with_reducible refine good_snd (by assumption) ?_ | with_reducible refine good_fst (by assumption) ?_
    | (simp [*]; done)

@[simp] theorem execBr_good {kt mv : Nat} (n : Bool) (t : BitVec 18) {s : State} (hs : s.Good kt mv) :
    OutGood kt mv (execBr n t s) := by
  unfold execBr
  repeat'
    first
    | with_reducible assumption | with_reducible apply State.branch_good | exact outGood_fault
    | exact outGood_refused | with_reducible apply outGood_next | dsimp only | split | (intro _)
    | with_reducible apply good_foldl | simp only [State.good_upd_iff] | simp only [State.good_bootUpd_iff]
    | with_reducible refine good_snd (by assumption) ?_ | with_reducible refine good_fst (by assumption) ?_
    | (simp [*]; done)

@[simp] theorem execBrLone_good {kt mv : Nat} (n : Bool) (t : Bundle13) {s : State} (hs : s.Good kt mv) :
    OutGood kt mv (execBrLone n t s) := by
  unfold execBrLone
  repeat'
    first
    | with_reducible assumption | with_reducible apply State.branch_good | exact outGood_fault
    | exact outGood_refused | with_reducible apply outGood_next | dsimp only | split | (intro _)
    | with_reducible apply good_foldl | simp only [State.good_upd_iff] | simp only [State.good_bootUpd_iff]
    | with_reducible refine good_snd (by assumption) ?_ | with_reducible refine good_fst (by assumption) ?_
    | (simp [*]; done)

@[simp] theorem execCall_good {kt mv : Nat} (n : Bool) (t : BitVec 18) {s : State} (hs : s.Good kt mv) :
    OutGood kt mv (execCall n t s) := by
  unfold execCall
  repeat'
    first
    | with_reducible assumption | with_reducible apply State.wrC_good | with_reducible apply State.branch_good
    | exact outGood_fault | exact outGood_refused | with_reducible apply outGood_next | dsimp only | split
    | (intro _) | with_reducible apply good_foldl | simp only [State.good_upd_iff]
    | simp only [State.good_bootUpd_iff] | with_reducible refine good_snd (by assumption) ?_
    | with_reducible refine good_fst (by assumption) ?_ | (simp [*]; done)

@[simp] theorem execCallLone_good {kt mv : Nat} (n : Bool) (t : Bundle13) {s : State} (hs : s.Good kt mv) :
    OutGood kt mv (execCallLone n t s) := by
  unfold execCallLone
  repeat'
    first
    | with_reducible assumption | with_reducible apply State.wrC_good | with_reducible apply State.branch_good
    | exact outGood_fault | exact outGood_refused | with_reducible apply outGood_next | dsimp only | split
    | (intro _) | with_reducible apply good_foldl | simp only [State.good_upd_iff]
    | simp only [State.good_bootUpd_iff] | with_reducible refine good_snd (by assumption) ?_
    | with_reducible refine good_fst (by assumption) ?_ | (simp [*]; done)

@[simp] theorem execJmp_good {kt mv : Nat} (a : Reg) {s : State} (hs : s.Good kt mv) :
    OutGood kt mv (execJmp a s) := by
  unfold execJmp
  repeat'
    first
    | with_reducible assumption | with_reducible apply State.branch_good | exact outGood_fault
    | exact outGood_refused | with_reducible apply outGood_next | dsimp only | split | (intro _)
    | with_reducible apply good_foldl | simp only [State.good_upd_iff] | simp only [State.good_bootUpd_iff]
    | with_reducible refine good_snd (by assumption) ?_ | with_reducible refine good_fst (by assumption) ?_
    | (simp [*]; done)

@[simp] theorem execCallr_good {kt mv : Nat} (a : Reg) {s : State} (hs : s.Good kt mv) :
    OutGood kt mv (execCallr a s) := by
  unfold execCallr
  repeat'
    first
    | with_reducible assumption | with_reducible apply State.wrC_good | with_reducible apply State.branch_good
    | exact outGood_fault | exact outGood_refused | with_reducible apply outGood_next | dsimp only | split
    | (intro _) | with_reducible apply good_foldl | simp only [State.good_upd_iff]
    | simp only [State.good_bootUpd_iff] | with_reducible refine good_snd (by assumption) ?_
    | with_reducible refine good_fst (by assumption) ?_ | (simp [*]; done)

@[simp] theorem execBz_good {kt mv : Nat} (a : Reg) (n : Bool) (t : BitVec 18) {s : State} (hs : s.Good kt mv) :
    OutGood kt mv (execBz a n t s) := by
  unfold execBz
  repeat'
    first
    | with_reducible assumption | with_reducible apply State.branch_good | exact outGood_fault
    | exact outGood_refused | with_reducible apply outGood_next | dsimp only | split | (intro _)
    | with_reducible apply good_foldl | simp only [State.good_upd_iff] | simp only [State.good_bootUpd_iff]
    | with_reducible refine good_snd (by assumption) ?_ | with_reducible refine good_fst (by assumption) ?_
    | (simp [*]; done)

@[simp] theorem execBzLone_good {kt mv : Nat} (a : Reg) (n : Bool) (t : Bundle13) {s : State} (hs : s.Good kt mv) :
    OutGood kt mv (execBzLone a n t s) := by
  unfold execBzLone
  repeat'
    first
    | with_reducible assumption | with_reducible apply State.branch_good | exact outGood_fault
    | exact outGood_refused | with_reducible apply outGood_next | dsimp only | split | (intro _)
    | with_reducible apply good_foldl | simp only [State.good_upd_iff] | simp only [State.good_bootUpd_iff]
    | with_reducible refine good_snd (by assumption) ?_ | with_reducible refine good_fst (by assumption) ?_
    | (simp [*]; done)

@[simp] theorem execBnz_good {kt mv : Nat} (a : Reg) (n : Bool) (t : BitVec 18) {s : State} (hs : s.Good kt mv) :
    OutGood kt mv (execBnz a n t s) := by
  unfold execBnz
  repeat'
    first
    | with_reducible assumption | with_reducible apply State.branch_good | exact outGood_fault
    | exact outGood_refused | with_reducible apply outGood_next | dsimp only | split | (intro _)
    | with_reducible apply good_foldl | simp only [State.good_upd_iff] | simp only [State.good_bootUpd_iff]
    | with_reducible refine good_snd (by assumption) ?_ | with_reducible refine good_fst (by assumption) ?_
    | (simp [*]; done)

@[simp] theorem execBnzLone_good {kt mv : Nat} (a : Reg) (n : Bool) (t : Bundle13) {s : State} (hs : s.Good kt mv) :
    OutGood kt mv (execBnzLone a n t s) := by
  unfold execBnzLone
  repeat'
    first
    | with_reducible assumption | with_reducible apply State.branch_good | exact outGood_fault
    | exact outGood_refused | with_reducible apply outGood_next | dsimp only | split | (intro _)
    | with_reducible apply good_foldl | simp only [State.good_upd_iff] | simp only [State.good_bootUpd_iff]
    | with_reducible refine good_snd (by assumption) ?_ | with_reducible refine good_fst (by assumption) ?_
    | (simp [*]; done)

@[simp] theorem execBltz_good {kt mv : Nat} (a : Reg) (n : Bool) (t : BitVec 18) {s : State} (hs : s.Good kt mv) :
    OutGood kt mv (execBltz a n t s) := by
  unfold execBltz
  repeat'
    first
    | with_reducible assumption | with_reducible apply State.branch_good | exact outGood_fault
    | exact outGood_refused | with_reducible apply outGood_next | dsimp only | split | (intro _)
    | with_reducible apply good_foldl | simp only [State.good_upd_iff] | simp only [State.good_bootUpd_iff]
    | with_reducible refine good_snd (by assumption) ?_ | with_reducible refine good_fst (by assumption) ?_
    | (simp [*]; done)

@[simp] theorem execBltzLone_good {kt mv : Nat} (a : Reg) (n : Bool) (t : Bundle13) {s : State} (hs : s.Good kt mv) :
    OutGood kt mv (execBltzLone a n t s) := by
  unfold execBltzLone
  repeat'
    first
    | with_reducible assumption | with_reducible apply State.branch_good | exact outGood_fault
    | exact outGood_refused | with_reducible apply outGood_next | dsimp only | split | (intro _)
    | with_reducible apply good_foldl | simp only [State.good_upd_iff] | simp only [State.good_bootUpd_iff]
    | with_reducible refine good_snd (by assumption) ?_ | with_reducible refine good_fst (by assumption) ?_
    | (simp [*]; done)

@[simp] theorem execBgez_good {kt mv : Nat} (a : Reg) (n : Bool) (t : BitVec 18) {s : State} (hs : s.Good kt mv) :
    OutGood kt mv (execBgez a n t s) := by
  unfold execBgez
  repeat'
    first
    | with_reducible assumption | with_reducible apply State.branch_good | exact outGood_fault
    | exact outGood_refused | with_reducible apply outGood_next | dsimp only | split | (intro _)
    | with_reducible apply good_foldl | simp only [State.good_upd_iff] | simp only [State.good_bootUpd_iff]
    | with_reducible refine good_snd (by assumption) ?_ | with_reducible refine good_fst (by assumption) ?_
    | (simp [*]; done)

@[simp] theorem execBgezLone_good {kt mv : Nat} (a : Reg) (n : Bool) (t : Bundle13) {s : State} (hs : s.Good kt mv) :
    OutGood kt mv (execBgezLone a n t s) := by
  unfold execBgezLone
  repeat'
    first
    | with_reducible assumption | with_reducible apply State.branch_good | exact outGood_fault
    | exact outGood_refused | with_reducible apply outGood_next | dsimp only | split | (intro _)
    | with_reducible apply good_foldl | simp only [State.good_upd_iff] | simp only [State.good_bootUpd_iff]
    | with_reducible refine good_snd (by assumption) ?_ | with_reducible refine good_fst (by assumption) ?_
    | (simp [*]; done)

@[simp] theorem execBeq_good {kt mv : Nat} (a b : Reg) (n : Bool) (t : BitVec 13) {s : State} (hs : s.Good kt mv) :
    OutGood kt mv (execBeq a b n t s) := by
  unfold execBeq
  repeat'
    first
    | with_reducible assumption | with_reducible apply State.branch_good | exact outGood_fault
    | exact outGood_refused | with_reducible apply outGood_next | dsimp only | split | (intro _)
    | with_reducible apply good_foldl | simp only [State.good_upd_iff] | simp only [State.good_bootUpd_iff]
    | with_reducible refine good_snd (by assumption) ?_ | with_reducible refine good_fst (by assumption) ?_
    | (simp [*]; done)

@[simp] theorem execBeqLone_good {kt mv : Nat} (a b : Reg) (n : Bool) (t : Bundle13) {s : State} (hs : s.Good kt mv) :
    OutGood kt mv (execBeqLone a b n t s) := by
  unfold execBeqLone
  repeat'
    first
    | with_reducible assumption | with_reducible apply State.branch_good | exact outGood_fault
    | exact outGood_refused | with_reducible apply outGood_next | dsimp only | split | (intro _)
    | with_reducible apply good_foldl | simp only [State.good_upd_iff] | simp only [State.good_bootUpd_iff]
    | with_reducible refine good_snd (by assumption) ?_ | with_reducible refine good_fst (by assumption) ?_
    | (simp [*]; done)

@[simp] theorem execBne_good {kt mv : Nat} (a b : Reg) (n : Bool) (t : BitVec 13) {s : State} (hs : s.Good kt mv) :
    OutGood kt mv (execBne a b n t s) := by
  unfold execBne
  repeat'
    first
    | with_reducible assumption | with_reducible apply State.branch_good | exact outGood_fault
    | exact outGood_refused | with_reducible apply outGood_next | dsimp only | split | (intro _)
    | with_reducible apply good_foldl | simp only [State.good_upd_iff] | simp only [State.good_bootUpd_iff]
    | with_reducible refine good_snd (by assumption) ?_ | with_reducible refine good_fst (by assumption) ?_
    | (simp [*]; done)

@[simp] theorem execBneLone_good {kt mv : Nat} (a b : Reg) (n : Bool) (t : Bundle13) {s : State} (hs : s.Good kt mv) :
    OutGood kt mv (execBneLone a b n t s) := by
  unfold execBneLone
  repeat'
    first
    | with_reducible assumption | with_reducible apply State.branch_good | exact outGood_fault
    | exact outGood_refused | with_reducible apply outGood_next | dsimp only | split | (intro _)
    | with_reducible apply good_foldl | simp only [State.good_upd_iff] | simp only [State.good_bootUpd_iff]
    | with_reducible refine good_snd (by assumption) ?_ | with_reducible refine good_fst (by assumption) ?_
    | (simp [*]; done)

@[simp] theorem execBlt_good {kt mv : Nat} (a b : Reg) (n : Bool) (t : BitVec 13) {s : State} (hs : s.Good kt mv) :
    OutGood kt mv (execBlt a b n t s) := by
  unfold execBlt
  repeat'
    first
    | with_reducible assumption | with_reducible apply State.branch_good | exact outGood_fault
    | exact outGood_refused | with_reducible apply outGood_next | dsimp only | split | (intro _)
    | with_reducible apply good_foldl | simp only [State.good_upd_iff] | simp only [State.good_bootUpd_iff]
    | with_reducible refine good_snd (by assumption) ?_ | with_reducible refine good_fst (by assumption) ?_
    | (simp [*]; done)

@[simp] theorem execBltLone_good {kt mv : Nat} (a b : Reg) (n : Bool) (t : Bundle13) {s : State} (hs : s.Good kt mv) :
    OutGood kt mv (execBltLone a b n t s) := by
  unfold execBltLone
  repeat'
    first
    | with_reducible assumption | with_reducible apply State.branch_good | exact outGood_fault
    | exact outGood_refused | with_reducible apply outGood_next | dsimp only | split | (intro _)
    | with_reducible apply good_foldl | simp only [State.good_upd_iff] | simp only [State.good_bootUpd_iff]
    | with_reducible refine good_snd (by assumption) ?_ | with_reducible refine good_fst (by assumption) ?_
    | (simp [*]; done)

@[simp] theorem execBge_good {kt mv : Nat} (a b : Reg) (n : Bool) (t : BitVec 13) {s : State} (hs : s.Good kt mv) :
    OutGood kt mv (execBge a b n t s) := by
  unfold execBge
  repeat'
    first
    | with_reducible assumption | with_reducible apply State.branch_good | exact outGood_fault
    | exact outGood_refused | with_reducible apply outGood_next | dsimp only | split | (intro _)
    | with_reducible apply good_foldl | simp only [State.good_upd_iff] | simp only [State.good_bootUpd_iff]
    | with_reducible refine good_snd (by assumption) ?_ | with_reducible refine good_fst (by assumption) ?_
    | (simp [*]; done)

@[simp] theorem execBgeLone_good {kt mv : Nat} (a b : Reg) (n : Bool) (t : Bundle13) {s : State} (hs : s.Good kt mv) :
    OutGood kt mv (execBgeLone a b n t s) := by
  unfold execBgeLone
  repeat'
    first
    | with_reducible assumption | with_reducible apply State.branch_good | exact outGood_fault
    | exact outGood_refused | with_reducible apply outGood_next | dsimp only | split | (intro _)
    | with_reducible apply good_foldl | simp only [State.good_upd_iff] | simp only [State.good_bootUpd_iff]
    | with_reducible refine good_snd (by assumption) ?_ | with_reducible refine good_fst (by assumption) ?_
    | (simp [*]; done)

@[simp] theorem execBltn_good {kt mv : Nat} (a b : Reg) (n : Bool) (t : BitVec 13) {s : State} (hs : s.Good kt mv) :
    OutGood kt mv (execBltn a b n t s) := by
  unfold execBltn
  repeat'
    first
    | with_reducible assumption | with_reducible apply State.branch_good | exact outGood_fault
    | exact outGood_refused | with_reducible apply outGood_next | dsimp only | split | (intro _)
    | with_reducible apply good_foldl | simp only [State.good_upd_iff] | simp only [State.good_bootUpd_iff]
    | with_reducible refine good_snd (by assumption) ?_ | with_reducible refine good_fst (by assumption) ?_
    | (simp [*]; done)

@[simp] theorem execBltnLone_good {kt mv : Nat} (a b : Reg) (n : Bool) (t : Bundle13) {s : State} (hs : s.Good kt mv) :
    OutGood kt mv (execBltnLone a b n t s) := by
  unfold execBltnLone
  repeat'
    first
    | with_reducible assumption | with_reducible apply State.branch_good | exact outGood_fault
    | exact outGood_refused | with_reducible apply outGood_next | dsimp only | split | (intro _)
    | with_reducible apply good_foldl | simp only [State.good_upd_iff] | simp only [State.good_bootUpd_iff]
    | with_reducible refine good_snd (by assumption) ?_ | with_reducible refine good_fst (by assumption) ?_
    | (simp [*]; done)

@[simp] theorem execBgen_good {kt mv : Nat} (a b : Reg) (n : Bool) (t : BitVec 13) {s : State} (hs : s.Good kt mv) :
    OutGood kt mv (execBgen a b n t s) := by
  unfold execBgen
  repeat'
    first
    | with_reducible assumption | with_reducible apply State.branch_good | exact outGood_fault
    | exact outGood_refused | with_reducible apply outGood_next | dsimp only | split | (intro _)
    | with_reducible apply good_foldl | simp only [State.good_upd_iff] | simp only [State.good_bootUpd_iff]
    | with_reducible refine good_snd (by assumption) ?_ | with_reducible refine good_fst (by assumption) ?_
    | (simp [*]; done)

@[simp] theorem execBgenLone_good {kt mv : Nat} (a b : Reg) (n : Bool) (t : Bundle13) {s : State} (hs : s.Good kt mv) :
    OutGood kt mv (execBgenLone a b n t s) := by
  unfold execBgenLone
  repeat'
    first
    | with_reducible assumption | with_reducible apply State.branch_good | exact outGood_fault
    | exact outGood_refused | with_reducible apply outGood_next | dsimp only | split | (intro _)
    | with_reducible apply good_foldl | simp only [State.good_upd_iff] | simp only [State.good_bootUpd_iff]
    | with_reducible refine good_snd (by assumption) ?_ | with_reducible refine good_fst (by assumption) ?_
    | (simp [*]; done)

@[simp] theorem execLoop_good {kt mv : Nat} (a : Reg) (n : Bool) (t : BitVec 18) {s : State} (hs : s.Good kt mv) :
    OutGood kt mv (execLoop a n t s) := by
  unfold execLoop
  repeat'
    first
    | with_reducible assumption | with_reducible apply State.wrC_good | with_reducible apply State.branch_good
    | exact outGood_fault | exact outGood_refused | with_reducible apply outGood_next | dsimp only | split
    | (intro _) | with_reducible apply good_foldl | simp only [State.good_upd_iff]
    | simp only [State.good_bootUpd_iff] | with_reducible refine good_snd (by assumption) ?_
    | with_reducible refine good_fst (by assumption) ?_ | (simp [*]; done)

@[simp] theorem execLoopLone_good {kt mv : Nat} (a : Reg) (n : Bool) (t : Bundle13) {s : State} (hs : s.Good kt mv) :
    OutGood kt mv (execLoopLone a n t s) := by
  unfold execLoopLone
  repeat'
    first
    | with_reducible assumption | with_reducible apply State.wrC_good | with_reducible apply State.branch_good
    | exact outGood_fault | exact outGood_refused | with_reducible apply outGood_next | dsimp only | split
    | (intro _) | with_reducible apply good_foldl | simp only [State.good_upd_iff]
    | simp only [State.good_bootUpd_iff] | with_reducible refine good_snd (by assumption) ?_
    | with_reducible refine good_fst (by assumption) ?_ | (simp [*]; done)

@[simp] theorem execMovl_good {kt mv : Nat} (d : Reg) (i : BitVec 14) {s : State} (hs : s.Good kt mv) :
    OutGood kt mv (execMovl d i s) := by
  unfold execMovl
  repeat'
    first
    | with_reducible assumption | with_reducible apply State.setC_good | exact outGood_fault
    | exact outGood_refused | with_reducible apply outGood_next | dsimp only | split | (intro _)
    | with_reducible apply good_foldl | simp only [State.good_upd_iff] | simp only [State.good_bootUpd_iff]
    | with_reducible refine good_snd (by assumption) ?_ | with_reducible refine good_fst (by assumption) ?_
    | (simp [*]; done)

@[simp] theorem execMovlLone_good {kt mv : Nat} (d : Reg) (e : W32) {s : State} (hs : s.Good kt mv) :
    OutGood kt mv (execMovlLone d e s) := by
  unfold execMovlLone
  repeat'
    first
    | with_reducible assumption | with_reducible apply State.setC_good | exact outGood_fault
    | exact outGood_refused | with_reducible apply outGood_next | dsimp only | split | (intro _)
    | with_reducible apply good_foldl | simp only [State.good_upd_iff] | simp only [State.good_bootUpd_iff]
    | with_reducible refine good_snd (by assumption) ?_ | with_reducible refine good_fst (by assumption) ?_
    | (simp [*]; done)

@[simp] theorem execMovlh_good {kt mv : Nat} (d : Reg) (e : W32) {s : State} (hs : s.Good kt mv) :
    OutGood kt mv (execMovlh d e s) := by
  unfold execMovlh
  repeat'
    first
    | with_reducible assumption | with_reducible apply State.setC_good | exact outGood_fault
    | exact outGood_refused | with_reducible apply outGood_next | dsimp only | split | (intro _)
    | with_reducible apply good_foldl | simp only [State.good_upd_iff] | simp only [State.good_bootUpd_iff]
    | with_reducible refine good_snd (by assumption) ?_ | with_reducible refine good_fst (by assumption) ?_
    | (simp [*]; done)

@[simp] theorem execNopA_good {kt mv : Nat} {s : State} (hs : s.Good kt mv) :
    OutGood kt mv (execNopA s) := by
  unfold execNopA
  repeat'
    first
    | with_reducible assumption | exact outGood_fault | exact outGood_refused | with_reducible apply outGood_next
    | dsimp only | split | (intro _) | with_reducible apply good_foldl | simp only [State.good_upd_iff]
    | simp only [State.good_bootUpd_iff] | with_reducible refine good_snd (by assumption) ?_
    | with_reducible refine good_fst (by assumption) ?_ | (simp [*]; done)

@[simp] theorem execAdd_good {kt mv : Nat} (d a b : Reg) {s : State} (hs : s.Good kt mv) :
    OutGood kt mv (execAdd d a b s) := by
  unfold execAdd
  repeat'
    first
    | with_reducible assumption | with_reducible apply State.alu2_good | exact outGood_fault
    | exact outGood_refused | with_reducible apply outGood_next | dsimp only | split | (intro _)
    | with_reducible apply good_foldl | simp only [State.good_upd_iff] | simp only [State.good_bootUpd_iff]
    | with_reducible refine good_snd (by assumption) ?_ | with_reducible refine good_fst (by assumption) ?_
    | (simp [*]; done)

@[simp] theorem execSub_good {kt mv : Nat} (d a b : Reg) {s : State} (hs : s.Good kt mv) :
    OutGood kt mv (execSub d a b s) := by
  unfold execSub
  repeat'
    first
    | with_reducible assumption | with_reducible apply State.alu2_good | exact outGood_fault
    | exact outGood_refused | with_reducible apply outGood_next | dsimp only | split | (intro _)
    | with_reducible apply good_foldl | simp only [State.good_upd_iff] | simp only [State.good_bootUpd_iff]
    | with_reducible refine good_snd (by assumption) ?_ | with_reducible refine good_fst (by assumption) ?_
    | (simp [*]; done)

@[simp] theorem execMul_good {kt mv : Nat} (d a b : Reg) {s : State} (hs : s.Good kt mv) :
    OutGood kt mv (execMul d a b s) := by
  unfold execMul
  repeat'
    first
    | with_reducible assumption | with_reducible apply State.alu2_good | exact outGood_fault
    | exact outGood_refused | with_reducible apply outGood_next | dsimp only | split | (intro _)
    | with_reducible apply good_foldl | simp only [State.good_upd_iff] | simp only [State.good_bootUpd_iff]
    | with_reducible refine good_snd (by assumption) ?_ | with_reducible refine good_fst (by assumption) ?_
    | (simp [*]; done)

@[simp] theorem execMulh_good {kt mv : Nat} (d a b : Reg) {s : State} (hs : s.Good kt mv) :
    OutGood kt mv (execMulh d a b s) := by
  unfold execMulh
  repeat'
    first
    | with_reducible assumption | with_reducible apply State.alu2_good | exact outGood_fault
    | exact outGood_refused | with_reducible apply outGood_next | dsimp only | split | (intro _)
    | with_reducible apply good_foldl | simp only [State.good_upd_iff] | simp only [State.good_bootUpd_iff]
    | with_reducible refine good_snd (by assumption) ?_ | with_reducible refine good_fst (by assumption) ?_
    | (simp [*]; done)

@[simp] theorem execMulhn_good {kt mv : Nat} (d a b : Reg) {s : State} (hs : s.Good kt mv) :
    OutGood kt mv (execMulhn d a b s) := by
  unfold execMulhn
  repeat'
    first
    | with_reducible assumption | with_reducible apply State.alu2_good | exact outGood_fault
    | exact outGood_refused | with_reducible apply outGood_next | dsimp only | split | (intro _)
    | with_reducible apply good_foldl | simp only [State.good_upd_iff] | simp only [State.good_bootUpd_iff]
    | with_reducible refine good_snd (by assumption) ?_ | with_reducible refine good_fst (by assumption) ?_
    | (simp [*]; done)

@[simp] theorem execDiv_good {kt mv : Nat} (d a b : Reg) {s : State} (hs : s.Good kt mv) :
    OutGood kt mv (execDiv d a b s) := by
  unfold execDiv
  repeat'
    first
    | with_reducible assumption | with_reducible apply State.alu2_good | exact outGood_fault
    | exact outGood_refused | with_reducible apply outGood_next | dsimp only | split | (intro _)
    | with_reducible apply good_foldl | simp only [State.good_upd_iff] | simp only [State.good_bootUpd_iff]
    | with_reducible refine good_snd (by assumption) ?_ | with_reducible refine good_fst (by assumption) ?_
    | (simp [*]; done)

@[simp] theorem execDivn_good {kt mv : Nat} (d a b : Reg) {s : State} (hs : s.Good kt mv) :
    OutGood kt mv (execDivn d a b s) := by
  unfold execDivn
  repeat'
    first
    | with_reducible assumption | with_reducible apply State.alu2_good | exact outGood_fault
    | exact outGood_refused | with_reducible apply outGood_next | dsimp only | split | (intro _)
    | with_reducible apply good_foldl | simp only [State.good_upd_iff] | simp only [State.good_bootUpd_iff]
    | with_reducible refine good_snd (by assumption) ?_ | with_reducible refine good_fst (by assumption) ?_
    | (simp [*]; done)

@[simp] theorem execRem_good {kt mv : Nat} (d a b : Reg) {s : State} (hs : s.Good kt mv) :
    OutGood kt mv (execRem d a b s) := by
  unfold execRem
  repeat'
    first
    | with_reducible assumption | with_reducible apply State.alu2_good | exact outGood_fault
    | exact outGood_refused | with_reducible apply outGood_next | dsimp only | split | (intro _)
    | with_reducible apply good_foldl | simp only [State.good_upd_iff] | simp only [State.good_bootUpd_iff]
    | with_reducible refine good_snd (by assumption) ?_ | with_reducible refine good_fst (by assumption) ?_
    | (simp [*]; done)

@[simp] theorem execRemn_good {kt mv : Nat} (d a b : Reg) {s : State} (hs : s.Good kt mv) :
    OutGood kt mv (execRemn d a b s) := by
  unfold execRemn
  repeat'
    first
    | with_reducible assumption | with_reducible apply State.alu2_good | exact outGood_fault
    | exact outGood_refused | with_reducible apply outGood_next | dsimp only | split | (intro _)
    | with_reducible apply good_foldl | simp only [State.good_upd_iff] | simp only [State.good_bootUpd_iff]
    | with_reducible refine good_snd (by assumption) ?_ | with_reducible refine good_fst (by assumption) ?_
    | (simp [*]; done)

@[simp] theorem execAndR_good {kt mv : Nat} (d a b : Reg) {s : State} (hs : s.Good kt mv) :
    OutGood kt mv (execAndR d a b s) := by
  unfold execAndR
  repeat'
    first
    | with_reducible assumption | with_reducible apply State.alu2_good | exact outGood_fault
    | exact outGood_refused | with_reducible apply outGood_next | dsimp only | split | (intro _)
    | with_reducible apply good_foldl | simp only [State.good_upd_iff] | simp only [State.good_bootUpd_iff]
    | with_reducible refine good_snd (by assumption) ?_ | with_reducible refine good_fst (by assumption) ?_
    | (simp [*]; done)

@[simp] theorem execOrR_good {kt mv : Nat} (d a b : Reg) {s : State} (hs : s.Good kt mv) :
    OutGood kt mv (execOrR d a b s) := by
  unfold execOrR
  repeat'
    first
    | with_reducible assumption | with_reducible apply State.alu2_good | exact outGood_fault
    | exact outGood_refused | with_reducible apply outGood_next | dsimp only | split | (intro _)
    | with_reducible apply good_foldl | simp only [State.good_upd_iff] | simp only [State.good_bootUpd_iff]
    | with_reducible refine good_snd (by assumption) ?_ | with_reducible refine good_fst (by assumption) ?_
    | (simp [*]; done)

@[simp] theorem execXorR_good {kt mv : Nat} (d a b : Reg) {s : State} (hs : s.Good kt mv) :
    OutGood kt mv (execXorR d a b s) := by
  unfold execXorR
  repeat'
    first
    | with_reducible assumption | with_reducible apply State.alu2_good | exact outGood_fault
    | exact outGood_refused | with_reducible apply outGood_next | dsimp only | split | (intro _)
    | with_reducible apply good_foldl | simp only [State.good_upd_iff] | simp only [State.good_bootUpd_iff]
    | with_reducible refine good_snd (by assumption) ?_ | with_reducible refine good_fst (by assumption) ?_
    | (simp [*]; done)

@[simp] theorem execAndn_good {kt mv : Nat} (d a b : Reg) {s : State} (hs : s.Good kt mv) :
    OutGood kt mv (execAndn d a b s) := by
  unfold execAndn
  repeat'
    first
    | with_reducible assumption | with_reducible apply State.alu2_good | exact outGood_fault
    | exact outGood_refused | with_reducible apply outGood_next | dsimp only | split | (intro _)
    | with_reducible apply good_foldl | simp only [State.good_upd_iff] | simp only [State.good_bootUpd_iff]
    | with_reducible refine good_snd (by assumption) ?_ | with_reducible refine good_fst (by assumption) ?_
    | (simp [*]; done)

@[simp] theorem execOrn_good {kt mv : Nat} (d a b : Reg) {s : State} (hs : s.Good kt mv) :
    OutGood kt mv (execOrn d a b s) := by
  unfold execOrn
  repeat'
    first
    | with_reducible assumption | with_reducible apply State.alu2_good | exact outGood_fault
    | exact outGood_refused | with_reducible apply outGood_next | dsimp only | split | (intro _)
    | with_reducible apply good_foldl | simp only [State.good_upd_iff] | simp only [State.good_bootUpd_iff]
    | with_reducible refine good_snd (by assumption) ?_ | with_reducible refine good_fst (by assumption) ?_
    | (simp [*]; done)

@[simp] theorem execShl_good {kt mv : Nat} (d a b : Reg) {s : State} (hs : s.Good kt mv) :
    OutGood kt mv (execShl d a b s) := by
  unfold execShl
  repeat'
    first
    | with_reducible assumption | with_reducible apply State.alu2_good | exact outGood_fault
    | exact outGood_refused | with_reducible apply outGood_next | dsimp only | split | (intro _)
    | with_reducible apply good_foldl | simp only [State.good_upd_iff] | simp only [State.good_bootUpd_iff]
    | with_reducible refine good_snd (by assumption) ?_ | with_reducible refine good_fst (by assumption) ?_
    | (simp [*]; done)

@[simp] theorem execShr_good {kt mv : Nat} (d a b : Reg) {s : State} (hs : s.Good kt mv) :
    OutGood kt mv (execShr d a b s) := by
  unfold execShr
  repeat'
    first
    | with_reducible assumption | with_reducible apply State.alu2_good | exact outGood_fault
    | exact outGood_refused | with_reducible apply outGood_next | dsimp only | split | (intro _)
    | with_reducible apply good_foldl | simp only [State.good_upd_iff] | simp only [State.good_bootUpd_iff]
    | with_reducible refine good_snd (by assumption) ?_ | with_reducible refine good_fst (by assumption) ?_
    | (simp [*]; done)

@[simp] theorem execSar_good {kt mv : Nat} (d a b : Reg) {s : State} (hs : s.Good kt mv) :
    OutGood kt mv (execSar d a b s) := by
  unfold execSar
  repeat'
    first
    | with_reducible assumption | with_reducible apply State.alu2_good | exact outGood_fault
    | exact outGood_refused | with_reducible apply outGood_next | dsimp only | split | (intro _)
    | with_reducible apply good_foldl | simp only [State.good_upd_iff] | simp only [State.good_bootUpd_iff]
    | with_reducible refine good_snd (by assumption) ?_ | with_reducible refine good_fst (by assumption) ?_
    | (simp [*]; done)

@[simp] theorem execRol_good {kt mv : Nat} (d a b : Reg) {s : State} (hs : s.Good kt mv) :
    OutGood kt mv (execRol d a b s) := by
  unfold execRol
  repeat'
    first
    | with_reducible assumption | with_reducible apply State.alu2_good | exact outGood_fault
    | exact outGood_refused | with_reducible apply outGood_next | dsimp only | split | (intro _)
    | with_reducible apply good_foldl | simp only [State.good_upd_iff] | simp only [State.good_bootUpd_iff]
    | with_reducible refine good_snd (by assumption) ?_ | with_reducible refine good_fst (by assumption) ?_
    | (simp [*]; done)

@[simp] theorem execMinR_good {kt mv : Nat} (d a b : Reg) {s : State} (hs : s.Good kt mv) :
    OutGood kt mv (execMinR d a b s) := by
  unfold execMinR
  repeat'
    first
    | with_reducible assumption | with_reducible apply State.alu2_good | exact outGood_fault
    | exact outGood_refused | with_reducible apply outGood_next | dsimp only | split | (intro _)
    | with_reducible apply good_foldl | simp only [State.good_upd_iff] | simp only [State.good_bootUpd_iff]
    | with_reducible refine good_snd (by assumption) ?_ | with_reducible refine good_fst (by assumption) ?_
    | (simp [*]; done)

@[simp] theorem execMaxR_good {kt mv : Nat} (d a b : Reg) {s : State} (hs : s.Good kt mv) :
    OutGood kt mv (execMaxR d a b s) := by
  unfold execMaxR
  repeat'
    first
    | with_reducible assumption | with_reducible apply State.alu2_good | exact outGood_fault
    | exact outGood_refused | with_reducible apply outGood_next | dsimp only | split | (intro _)
    | with_reducible apply good_foldl | simp only [State.good_upd_iff] | simp only [State.good_bootUpd_iff]
    | with_reducible refine good_snd (by assumption) ?_ | with_reducible refine good_fst (by assumption) ?_
    | (simp [*]; done)

@[simp] theorem execMinn_good {kt mv : Nat} (d a b : Reg) {s : State} (hs : s.Good kt mv) :
    OutGood kt mv (execMinn d a b s) := by
  unfold execMinn
  repeat'
    first
    | with_reducible assumption | with_reducible apply State.alu2_good | exact outGood_fault
    | exact outGood_refused | with_reducible apply outGood_next | dsimp only | split | (intro _)
    | with_reducible apply good_foldl | simp only [State.good_upd_iff] | simp only [State.good_bootUpd_iff]
    | with_reducible refine good_snd (by assumption) ?_ | with_reducible refine good_fst (by assumption) ?_
    | (simp [*]; done)

@[simp] theorem execMaxn_good {kt mv : Nat} (d a b : Reg) {s : State} (hs : s.Good kt mv) :
    OutGood kt mv (execMaxn d a b s) := by
  unfold execMaxn
  repeat'
    first
    | with_reducible assumption | with_reducible apply State.alu2_good | exact outGood_fault
    | exact outGood_refused | with_reducible apply outGood_next | dsimp only | split | (intro _)
    | with_reducible apply good_foldl | simp only [State.good_upd_iff] | simp only [State.good_bootUpd_iff]
    | with_reducible refine good_snd (by assumption) ?_ | with_reducible refine good_fst (by assumption) ?_
    | (simp [*]; done)

@[simp] theorem execCeq_good {kt mv : Nat} (d a b : Reg) {s : State} (hs : s.Good kt mv) :
    OutGood kt mv (execCeq d a b s) := by
  unfold execCeq
  repeat'
    first
    | with_reducible assumption | with_reducible apply State.alu2_good | exact outGood_fault
    | exact outGood_refused | with_reducible apply outGood_next | dsimp only | split | (intro _)
    | with_reducible apply good_foldl | simp only [State.good_upd_iff] | simp only [State.good_bootUpd_iff]
    | with_reducible refine good_snd (by assumption) ?_ | with_reducible refine good_fst (by assumption) ?_
    | (simp [*]; done)

@[simp] theorem execCne_good {kt mv : Nat} (d a b : Reg) {s : State} (hs : s.Good kt mv) :
    OutGood kt mv (execCne d a b s) := by
  unfold execCne
  repeat'
    first
    | with_reducible assumption | with_reducible apply State.alu2_good | exact outGood_fault
    | exact outGood_refused | with_reducible apply outGood_next | dsimp only | split | (intro _)
    | with_reducible apply good_foldl | simp only [State.good_upd_iff] | simp only [State.good_bootUpd_iff]
    | with_reducible refine good_snd (by assumption) ?_ | with_reducible refine good_fst (by assumption) ?_
    | (simp [*]; done)

@[simp] theorem execClt_good {kt mv : Nat} (d a b : Reg) {s : State} (hs : s.Good kt mv) :
    OutGood kt mv (execClt d a b s) := by
  unfold execClt
  repeat'
    first
    | with_reducible assumption | with_reducible apply State.alu2_good | exact outGood_fault
    | exact outGood_refused | with_reducible apply outGood_next | dsimp only | split | (intro _)
    | with_reducible apply good_foldl | simp only [State.good_upd_iff] | simp only [State.good_bootUpd_iff]
    | with_reducible refine good_snd (by assumption) ?_ | with_reducible refine good_fst (by assumption) ?_
    | (simp [*]; done)

@[simp] theorem execCle_good {kt mv : Nat} (d a b : Reg) {s : State} (hs : s.Good kt mv) :
    OutGood kt mv (execCle d a b s) := by
  unfold execCle
  repeat'
    first
    | with_reducible assumption | with_reducible apply State.alu2_good | exact outGood_fault
    | exact outGood_refused | with_reducible apply outGood_next | dsimp only | split | (intro _)
    | with_reducible apply good_foldl | simp only [State.good_upd_iff] | simp only [State.good_bootUpd_iff]
    | with_reducible refine good_snd (by assumption) ?_ | with_reducible refine good_fst (by assumption) ?_
    | (simp [*]; done)

@[simp] theorem execCltn_good {kt mv : Nat} (d a b : Reg) {s : State} (hs : s.Good kt mv) :
    OutGood kt mv (execCltn d a b s) := by
  unfold execCltn
  repeat'
    first
    | with_reducible assumption | with_reducible apply State.alu2_good | exact outGood_fault
    | exact outGood_refused | with_reducible apply outGood_next | dsimp only | split | (intro _)
    | with_reducible apply good_foldl | simp only [State.good_upd_iff] | simp only [State.good_bootUpd_iff]
    | with_reducible refine good_snd (by assumption) ?_ | with_reducible refine good_fst (by assumption) ?_
    | (simp [*]; done)

@[simp] theorem execClen_good {kt mv : Nat} (d a b : Reg) {s : State} (hs : s.Good kt mv) :
    OutGood kt mv (execClen d a b s) := by
  unfold execClen
  repeat'
    first
    | with_reducible assumption | with_reducible apply State.alu2_good | exact outGood_fault
    | exact outGood_refused | with_reducible apply outGood_next | dsimp only | split | (intro _)
    | with_reducible apply good_foldl | simp only [State.good_upd_iff] | simp only [State.good_bootUpd_iff]
    | with_reducible refine good_snd (by assumption) ?_ | with_reducible refine good_fst (by assumption) ?_
    | (simp [*]; done)

@[simp] theorem execSel_good {kt mv : Nat} (d a b : Reg) {s : State} (hs : s.Good kt mv) :
    OutGood kt mv (execSel d a b s) := by
  unfold execSel
  repeat'
    first
    | with_reducible assumption | with_reducible apply State.alu2_good | exact outGood_fault
    | exact outGood_refused | with_reducible apply outGood_next | dsimp only | split | (intro _)
    | with_reducible apply good_foldl | simp only [State.good_upd_iff] | simp only [State.good_bootUpd_iff]
    | with_reducible refine good_snd (by assumption) ?_ | with_reducible refine good_fst (by assumption) ?_
    | (simp [*]; done)

@[simp] theorem execClz_good {kt mv : Nat} (d a : Reg) {s : State} (hs : s.Good kt mv) :
    OutGood kt mv (execClz d a s) := by
  unfold execClz
  repeat'
    first
    | with_reducible assumption | with_reducible apply State.alu1_good | exact outGood_fault
    | exact outGood_refused | with_reducible apply outGood_next | dsimp only | split | (intro _)
    | with_reducible apply good_foldl | simp only [State.good_upd_iff] | simp only [State.good_bootUpd_iff]
    | with_reducible refine good_snd (by assumption) ?_ | with_reducible refine good_fst (by assumption) ?_
    | (simp [*]; done)

@[simp] theorem execCtz_good {kt mv : Nat} (d a : Reg) {s : State} (hs : s.Good kt mv) :
    OutGood kt mv (execCtz d a s) := by
  unfold execCtz
  repeat'
    first
    | with_reducible assumption | with_reducible apply State.alu1_good | exact outGood_fault
    | exact outGood_refused | with_reducible apply outGood_next | dsimp only | split | (intro _)
    | with_reducible apply good_foldl | simp only [State.good_upd_iff] | simp only [State.good_bootUpd_iff]
    | with_reducible refine good_snd (by assumption) ?_ | with_reducible refine good_fst (by assumption) ?_
    | (simp [*]; done)

@[simp] theorem execPopc_good {kt mv : Nat} (d a : Reg) {s : State} (hs : s.Good kt mv) :
    OutGood kt mv (execPopc d a s) := by
  unfold execPopc
  repeat'
    first
    | with_reducible assumption | with_reducible apply State.alu1_good | exact outGood_fault
    | exact outGood_refused | with_reducible apply outGood_next | dsimp only | split | (intro _)
    | with_reducible apply good_foldl | simp only [State.good_upd_iff] | simp only [State.good_bootUpd_iff]
    | with_reducible refine good_snd (by assumption) ?_ | with_reducible refine good_fst (by assumption) ?_
    | (simp [*]; done)

@[simp] theorem execSxb_good {kt mv : Nat} (d a : Reg) {s : State} (hs : s.Good kt mv) :
    OutGood kt mv (execSxb d a s) := by
  unfold execSxb
  repeat'
    first
    | with_reducible assumption | with_reducible apply State.alu1_good | exact outGood_fault
    | exact outGood_refused | with_reducible apply outGood_next | dsimp only | split | (intro _)
    | with_reducible apply good_foldl | simp only [State.good_upd_iff] | simp only [State.good_bootUpd_iff]
    | with_reducible refine good_snd (by assumption) ?_ | with_reducible refine good_fst (by assumption) ?_
    | (simp [*]; done)

@[simp] theorem execSxh_good {kt mv : Nat} (d a : Reg) {s : State} (hs : s.Good kt mv) :
    OutGood kt mv (execSxh d a s) := by
  unfold execSxh
  repeat'
    first
    | with_reducible assumption | with_reducible apply State.alu1_good | exact outGood_fault
    | exact outGood_refused | with_reducible apply outGood_next | dsimp only | split | (intro _)
    | with_reducible apply good_foldl | simp only [State.good_upd_iff] | simp only [State.good_bootUpd_iff]
    | with_reducible refine good_snd (by assumption) ?_ | with_reducible refine good_fst (by assumption) ?_
    | (simp [*]; done)

@[simp] theorem execSxw_good {kt mv : Nat} (d a : Reg) {s : State} (hs : s.Good kt mv) :
    OutGood kt mv (execSxw d a s) := by
  unfold execSxw
  repeat'
    first
    | with_reducible assumption | with_reducible apply State.alu1_good | exact outGood_fault
    | exact outGood_refused | with_reducible apply outGood_next | dsimp only | split | (intro _)
    | with_reducible apply good_foldl | simp only [State.good_upd_iff] | simp only [State.good_bootUpd_iff]
    | with_reducible refine good_snd (by assumption) ?_ | with_reducible refine good_fst (by assumption) ?_
    | (simp [*]; done)

@[simp] theorem execZxb_good {kt mv : Nat} (d a : Reg) {s : State} (hs : s.Good kt mv) :
    OutGood kt mv (execZxb d a s) := by
  unfold execZxb
  repeat'
    first
    | with_reducible assumption | with_reducible apply State.alu1_good | exact outGood_fault
    | exact outGood_refused | with_reducible apply outGood_next | dsimp only | split | (intro _)
    | with_reducible apply good_foldl | simp only [State.good_upd_iff] | simp only [State.good_bootUpd_iff]
    | with_reducible refine good_snd (by assumption) ?_ | with_reducible refine good_fst (by assumption) ?_
    | (simp [*]; done)

@[simp] theorem execZxh_good {kt mv : Nat} (d a : Reg) {s : State} (hs : s.Good kt mv) :
    OutGood kt mv (execZxh d a s) := by
  unfold execZxh
  repeat'
    first
    | with_reducible assumption | with_reducible apply State.alu1_good | exact outGood_fault
    | exact outGood_refused | with_reducible apply outGood_next | dsimp only | split | (intro _)
    | with_reducible apply good_foldl | simp only [State.good_upd_iff] | simp only [State.good_bootUpd_iff]
    | with_reducible refine good_snd (by assumption) ?_ | with_reducible refine good_fst (by assumption) ?_
    | (simp [*]; done)

@[simp] theorem execZxw_good {kt mv : Nat} (d a : Reg) {s : State} (hs : s.Good kt mv) :
    OutGood kt mv (execZxw d a s) := by
  unfold execZxw
  repeat'
    first
    | with_reducible assumption | with_reducible apply State.alu1_good | exact outGood_fault
    | exact outGood_refused | with_reducible apply outGood_next | dsimp only | split | (intro _)
    | with_reducible apply good_foldl | simp only [State.good_upd_iff] | simp only [State.good_bootUpd_iff]
    | with_reducible refine good_snd (by assumption) ?_ | with_reducible refine good_fst (by assumption) ?_
    | (simp [*]; done)

@[simp] theorem execAddw_good {kt mv : Nat} (d a b : Reg) {s : State} (hs : s.Good kt mv) :
    OutGood kt mv (execAddw d a b s) := by
  unfold execAddw
  repeat'
    first
    | with_reducible assumption | with_reducible apply State.alu2_good | exact outGood_fault
    | exact outGood_refused | with_reducible apply outGood_next | dsimp only | split | (intro _)
    | with_reducible apply good_foldl | simp only [State.good_upd_iff] | simp only [State.good_bootUpd_iff]
    | with_reducible refine good_snd (by assumption) ?_ | with_reducible refine good_fst (by assumption) ?_
    | (simp [*]; done)

@[simp] theorem execSubw_good {kt mv : Nat} (d a b : Reg) {s : State} (hs : s.Good kt mv) :
    OutGood kt mv (execSubw d a b s) := by
  unfold execSubw
  repeat'
    first
    | with_reducible assumption | with_reducible apply State.alu2_good | exact outGood_fault
    | exact outGood_refused | with_reducible apply outGood_next | dsimp only | split | (intro _)
    | with_reducible apply good_foldl | simp only [State.good_upd_iff] | simp only [State.good_bootUpd_iff]
    | with_reducible refine good_snd (by assumption) ?_ | with_reducible refine good_fst (by assumption) ?_
    | (simp [*]; done)

@[simp] theorem execMulw_good {kt mv : Nat} (d a b : Reg) {s : State} (hs : s.Good kt mv) :
    OutGood kt mv (execMulw d a b s) := by
  unfold execMulw
  repeat'
    first
    | with_reducible assumption | with_reducible apply State.alu2_good | exact outGood_fault
    | exact outGood_refused | with_reducible apply outGood_next | dsimp only | split | (intro _)
    | with_reducible apply good_foldl | simp only [State.good_upd_iff] | simp only [State.good_bootUpd_iff]
    | with_reducible refine good_snd (by assumption) ?_ | with_reducible refine good_fst (by assumption) ?_
    | (simp [*]; done)

@[simp] theorem execBext_good {kt mv : Nat} (d a : Reg) (pos len : BitVec 6) {s : State} (hs : s.Good kt mv) :
    OutGood kt mv (execBext d a pos len s) := by
  unfold execBext
  repeat'
    first
    | with_reducible assumption | with_reducible apply State.alu1_good | exact outGood_fault
    | exact outGood_refused | with_reducible apply outGood_next | dsimp only | split | (intro _)
    | with_reducible apply good_foldl | simp only [State.good_upd_iff] | simp only [State.good_bootUpd_iff]
    | with_reducible refine good_snd (by assumption) ?_ | with_reducible refine good_fst (by assumption) ?_
    | (simp [*]; done)

@[simp] theorem execBins_good {kt mv : Nat} (d a : Reg) (pos len : BitVec 6) {s : State} (hs : s.Good kt mv) :
    OutGood kt mv (execBins d a pos len s) := by
  unfold execBins
  repeat'
    first
    | with_reducible assumption | with_reducible apply State.alu1_good | exact outGood_fault
    | exact outGood_refused | with_reducible apply outGood_next | dsimp only | split | (intro _)
    | with_reducible apply good_foldl | simp only [State.good_upd_iff] | simp only [State.good_bootUpd_iff]
    | with_reducible refine good_snd (by assumption) ?_ | with_reducible refine good_fst (by assumption) ?_
    | (simp [*]; done)

@[simp] theorem execBswp_good {kt mv : Nat} (d a : Reg) {s : State} (hs : s.Good kt mv) :
    OutGood kt mv (execBswp d a s) := by
  unfold execBswp
  repeat'
    first
    | with_reducible assumption | with_reducible apply State.alu1_good | exact outGood_fault
    | exact outGood_refused | with_reducible apply outGood_next | dsimp only | split | (intro _)
    | with_reducible apply good_foldl | simp only [State.good_upd_iff] | simp only [State.good_bootUpd_iff]
    | with_reducible refine good_snd (by assumption) ?_ | with_reducible refine good_fst (by assumption) ?_
    | (simp [*]; done)

@[simp] theorem execAddi_good {kt mv : Nat} (d a : Reg) (i : BitVec 14) {s : State} (hs : s.Good kt mv) :
    OutGood kt mv (execAddi d a i s) := by
  unfold execAddi
  repeat'
    first
    | with_reducible assumption | with_reducible apply State.alu1_good | exact outGood_fault
    | exact outGood_refused | with_reducible apply outGood_next | dsimp only | split | (intro _)
    | with_reducible apply good_foldl | simp only [State.good_upd_iff] | simp only [State.good_bootUpd_iff]
    | with_reducible refine good_snd (by assumption) ?_ | with_reducible refine good_fst (by assumption) ?_
    | (simp [*]; done)

@[simp] theorem execAndi_good {kt mv : Nat} (d a : Reg) (i : BitVec 14) {s : State} (hs : s.Good kt mv) :
    OutGood kt mv (execAndi d a i s) := by
  unfold execAndi
  repeat'
    first
    | with_reducible assumption | with_reducible apply State.alu1_good | exact outGood_fault
    | exact outGood_refused | with_reducible apply outGood_next | dsimp only | split | (intro _)
    | with_reducible apply good_foldl | simp only [State.good_upd_iff] | simp only [State.good_bootUpd_iff]
    | with_reducible refine good_snd (by assumption) ?_ | with_reducible refine good_fst (by assumption) ?_
    | (simp [*]; done)

@[simp] theorem execOri_good {kt mv : Nat} (d a : Reg) (i : BitVec 14) {s : State} (hs : s.Good kt mv) :
    OutGood kt mv (execOri d a i s) := by
  unfold execOri
  repeat'
    first
    | with_reducible assumption | with_reducible apply State.alu1_good | exact outGood_fault
    | exact outGood_refused | with_reducible apply outGood_next | dsimp only | split | (intro _)
    | with_reducible apply good_foldl | simp only [State.good_upd_iff] | simp only [State.good_bootUpd_iff]
    | with_reducible refine good_snd (by assumption) ?_ | with_reducible refine good_fst (by assumption) ?_
    | (simp [*]; done)

@[simp] theorem execXori_good {kt mv : Nat} (d a : Reg) (i : BitVec 14) {s : State} (hs : s.Good kt mv) :
    OutGood kt mv (execXori d a i s) := by
  unfold execXori
  repeat'
    first
    | with_reducible assumption | with_reducible apply State.alu1_good | exact outGood_fault
    | exact outGood_refused | with_reducible apply outGood_next | dsimp only | split | (intro _)
    | with_reducible apply good_foldl | simp only [State.good_upd_iff] | simp only [State.good_bootUpd_iff]
    | with_reducible refine good_snd (by assumption) ?_ | with_reducible refine good_fst (by assumption) ?_
    | (simp [*]; done)

@[simp] theorem execShli_good {kt mv : Nat} (d a : Reg) (k : BitVec 6) {s : State} (hs : s.Good kt mv) :
    OutGood kt mv (execShli d a k s) := by
  unfold execShli
  repeat'
    first
    | with_reducible assumption | with_reducible apply State.alu1_good | exact outGood_fault
    | exact outGood_refused | with_reducible apply outGood_next | dsimp only | split | (intro _)
    | with_reducible apply good_foldl | simp only [State.good_upd_iff] | simp only [State.good_bootUpd_iff]
    | with_reducible refine good_snd (by assumption) ?_ | with_reducible refine good_fst (by assumption) ?_
    | (simp [*]; done)

@[simp] theorem execShri_good {kt mv : Nat} (d a : Reg) (k : BitVec 6) {s : State} (hs : s.Good kt mv) :
    OutGood kt mv (execShri d a k s) := by
  unfold execShri
  repeat'
    first
    | with_reducible assumption | with_reducible apply State.alu1_good | exact outGood_fault
    | exact outGood_refused | with_reducible apply outGood_next | dsimp only | split | (intro _)
    | with_reducible apply good_foldl | simp only [State.good_upd_iff] | simp only [State.good_bootUpd_iff]
    | with_reducible refine good_snd (by assumption) ?_ | with_reducible refine good_fst (by assumption) ?_
    | (simp [*]; done)

@[simp] theorem execSari_good {kt mv : Nat} (d a : Reg) (k : BitVec 6) {s : State} (hs : s.Good kt mv) :
    OutGood kt mv (execSari d a k s) := by
  unfold execSari
  repeat'
    first
    | with_reducible assumption | with_reducible apply State.alu1_good | exact outGood_fault
    | exact outGood_refused | with_reducible apply outGood_next | dsimp only | split | (intro _)
    | with_reducible apply good_foldl | simp only [State.good_upd_iff] | simp only [State.good_bootUpd_iff]
    | with_reducible refine good_snd (by assumption) ?_ | with_reducible refine good_fst (by assumption) ?_
    | (simp [*]; done)

@[simp] theorem execCeqi_good {kt mv : Nat} (d a : Reg) (i : BitVec 14) {s : State} (hs : s.Good kt mv) :
    OutGood kt mv (execCeqi d a i s) := by
  unfold execCeqi
  repeat'
    first
    | with_reducible assumption | with_reducible apply State.alu1_good | exact outGood_fault
    | exact outGood_refused | with_reducible apply outGood_next | dsimp only | split | (intro _)
    | with_reducible apply good_foldl | simp only [State.good_upd_iff] | simp only [State.good_bootUpd_iff]
    | with_reducible refine good_snd (by assumption) ?_ | with_reducible refine good_fst (by assumption) ?_
    | (simp [*]; done)

@[simp] theorem execClti_good {kt mv : Nat} (d a : Reg) (i : BitVec 14) {s : State} (hs : s.Good kt mv) :
    OutGood kt mv (execClti d a i s) := by
  unfold execClti
  repeat'
    first
    | with_reducible assumption | with_reducible apply State.alu1_good | exact outGood_fault
    | exact outGood_refused | with_reducible apply outGood_next | dsimp only | split | (intro _)
    | with_reducible apply good_foldl | simp only [State.good_upd_iff] | simp only [State.good_bootUpd_iff]
    | with_reducible refine good_snd (by assumption) ?_ | with_reducible refine good_fst (by assumption) ?_
    | (simp [*]; done)

@[simp] theorem execCltni_good {kt mv : Nat} (d a : Reg) (i : BitVec 14) {s : State} (hs : s.Good kt mv) :
    OutGood kt mv (execCltni d a i s) := by
  unfold execCltni
  repeat'
    first
    | with_reducible assumption | with_reducible apply State.alu1_good | exact outGood_fault
    | exact outGood_refused | with_reducible apply outGood_next | dsimp only | split | (intro _)
    | with_reducible apply good_foldl | simp only [State.good_upd_iff] | simp only [State.good_bootUpd_iff]
    | with_reducible refine good_snd (by assumption) ?_ | with_reducible refine good_fst (by assumption) ?_
    | (simp [*]; done)

@[simp] theorem execMovi_good {kt mv : Nat} (d : Reg) (i : BitVec 14) {s : State} (hs : s.Good kt mv) :
    OutGood kt mv (execMovi d i s) := by
  unfold execMovi
  repeat'
    first
    | with_reducible assumption | with_reducible apply State.wrA_good | exact outGood_fault | exact outGood_refused
    | with_reducible apply outGood_next | dsimp only | split | (intro _) | with_reducible apply good_foldl
    | simp only [State.good_upd_iff] | simp only [State.good_bootUpd_iff]
    | with_reducible refine good_snd (by assumption) ?_ | with_reducible refine good_fst (by assumption) ?_
    | (simp [*]; done)

@[simp] theorem execMovhi_good {kt mv : Nat} (d : Reg) (i : BitVec 14) {s : State} (hs : s.Good kt mv) :
    OutGood kt mv (execMovhi d i s) := by
  unfold execMovhi
  repeat'
    first
    | with_reducible assumption | with_reducible apply State.wrA_good | exact outGood_fault | exact outGood_refused
    | with_reducible apply outGood_next | dsimp only | split | (intro _) | with_reducible apply good_foldl
    | simp only [State.good_upd_iff] | simp only [State.good_bootUpd_iff]
    | with_reducible refine good_snd (by assumption) ?_ | with_reducible refine good_fst (by assumption) ?_
    | (simp [*]; done)

@[simp] theorem execFadd_good {kt mv : Nat} (d a b : Reg) (r : Rm) {s : State} (hs : s.Good kt mv) :
    OutGood kt mv (execFadd d a b r s) := by
  unfold execFadd
  repeat'
    first
    | with_reducible assumption | with_reducible apply State.aluF_good | exact outGood_fault
    | exact outGood_refused | with_reducible apply outGood_next | dsimp only | split | (intro _)
    | with_reducible apply good_foldl | simp only [State.good_upd_iff] | simp only [State.good_bootUpd_iff]
    | with_reducible refine good_snd (by assumption) ?_ | with_reducible refine good_fst (by assumption) ?_
    | (simp [*]; done)

@[simp] theorem execFsub_good {kt mv : Nat} (d a b : Reg) (r : Rm) {s : State} (hs : s.Good kt mv) :
    OutGood kt mv (execFsub d a b r s) := by
  unfold execFsub
  repeat'
    first
    | with_reducible assumption | with_reducible apply State.aluF_good | exact outGood_fault
    | exact outGood_refused | with_reducible apply outGood_next | dsimp only | split | (intro _)
    | with_reducible apply good_foldl | simp only [State.good_upd_iff] | simp only [State.good_bootUpd_iff]
    | with_reducible refine good_snd (by assumption) ?_ | with_reducible refine good_fst (by assumption) ?_
    | (simp [*]; done)

@[simp] theorem execFmul_good {kt mv : Nat} (d a b : Reg) (r : Rm) {s : State} (hs : s.Good kt mv) :
    OutGood kt mv (execFmul d a b r s) := by
  unfold execFmul
  repeat'
    first
    | with_reducible assumption | with_reducible apply State.aluF_good | exact outGood_fault
    | exact outGood_refused | with_reducible apply outGood_next | dsimp only | split | (intro _)
    | with_reducible apply good_foldl | simp only [State.good_upd_iff] | simp only [State.good_bootUpd_iff]
    | with_reducible refine good_snd (by assumption) ?_ | with_reducible refine good_fst (by assumption) ?_
    | (simp [*]; done)

@[simp] theorem execFma_good {kt mv : Nat} (d a b : Reg) (r : Rm) {s : State} (hs : s.Good kt mv) :
    OutGood kt mv (execFma d a b r s) := by
  unfold execFma
  repeat'
    first
    | with_reducible assumption | with_reducible apply State.aluF_good | exact outGood_fault
    | exact outGood_refused | with_reducible apply outGood_next | dsimp only | split | (intro _)
    | with_reducible apply good_foldl | simp only [State.good_upd_iff] | simp only [State.good_bootUpd_iff]
    | with_reducible refine good_snd (by assumption) ?_ | with_reducible refine good_fst (by assumption) ?_
    | (simp [*]; done)

@[simp] theorem execFms_good {kt mv : Nat} (d a b : Reg) (r : Rm) {s : State} (hs : s.Good kt mv) :
    OutGood kt mv (execFms d a b r s) := by
  unfold execFms
  repeat'
    first
    | with_reducible assumption | with_reducible apply State.aluF_good | exact outGood_fault
    | exact outGood_refused | with_reducible apply outGood_next | dsimp only | split | (intro _)
    | with_reducible apply good_foldl | simp only [State.good_upd_iff] | simp only [State.good_bootUpd_iff]
    | with_reducible refine good_snd (by assumption) ?_ | with_reducible refine good_fst (by assumption) ?_
    | (simp [*]; done)

@[simp] theorem execFdiv_good {kt mv : Nat} (d a b : Reg) (r : Rm) {s : State} (hs : s.Good kt mv) :
    OutGood kt mv (execFdiv d a b r s) := by
  unfold execFdiv
  repeat'
    first
    | with_reducible assumption | with_reducible apply State.aluF_good | exact outGood_fault
    | exact outGood_refused | with_reducible apply outGood_next | dsimp only | split | (intro _)
    | with_reducible apply good_foldl | simp only [State.good_upd_iff] | simp only [State.good_bootUpd_iff]
    | with_reducible refine good_snd (by assumption) ?_ | with_reducible refine good_fst (by assumption) ?_
    | (simp [*]; done)

@[simp] theorem execFsqrt_good {kt mv : Nat} (d a : Reg) (r : Rm) {s : State} (hs : s.Good kt mv) :
    OutGood kt mv (execFsqrt d a r s) := by
  unfold execFsqrt
  repeat'
    first
    | with_reducible assumption | with_reducible apply State.aluF_good | exact outGood_fault
    | exact outGood_refused | with_reducible apply outGood_next | dsimp only | split | (intro _)
    | with_reducible apply good_foldl | simp only [State.good_upd_iff] | simp only [State.good_bootUpd_iff]
    | with_reducible refine good_snd (by assumption) ?_ | with_reducible refine good_fst (by assumption) ?_
    | (simp [*]; done)

@[simp] theorem execFmin_good {kt mv : Nat} (d a b : Reg) {s : State} (hs : s.Good kt mv) :
    OutGood kt mv (execFmin d a b s) := by
  unfold execFmin
  repeat'
    first
    | with_reducible assumption | with_reducible apply State.aluF_good | exact outGood_fault
    | exact outGood_refused | with_reducible apply outGood_next | dsimp only | split | (intro _)
    | with_reducible apply good_foldl | simp only [State.good_upd_iff] | simp only [State.good_bootUpd_iff]
    | with_reducible refine good_snd (by assumption) ?_ | with_reducible refine good_fst (by assumption) ?_
    | (simp [*]; done)

@[simp] theorem execFmax_good {kt mv : Nat} (d a b : Reg) {s : State} (hs : s.Good kt mv) :
    OutGood kt mv (execFmax d a b s) := by
  unfold execFmax
  repeat'
    first
    | with_reducible assumption | with_reducible apply State.aluF_good | exact outGood_fault
    | exact outGood_refused | with_reducible apply outGood_next | dsimp only | split | (intro _)
    | with_reducible apply good_foldl | simp only [State.good_upd_iff] | simp only [State.good_bootUpd_iff]
    | with_reducible refine good_snd (by assumption) ?_ | with_reducible refine good_fst (by assumption) ?_
    | (simp [*]; done)

@[simp] theorem execFceq_good {kt mv : Nat} (d a b : Reg) {s : State} (hs : s.Good kt mv) :
    OutGood kt mv (execFceq d a b s) := by
  unfold execFceq
  repeat'
    first
    | with_reducible assumption | with_reducible apply State.aluF_good | exact outGood_fault
    | exact outGood_refused | with_reducible apply outGood_next | dsimp only | split | (intro _)
    | with_reducible apply good_foldl | simp only [State.good_upd_iff] | simp only [State.good_bootUpd_iff]
    | with_reducible refine good_snd (by assumption) ?_ | with_reducible refine good_fst (by assumption) ?_
    | (simp [*]; done)

@[simp] theorem execFclt_good {kt mv : Nat} (d a b : Reg) {s : State} (hs : s.Good kt mv) :
    OutGood kt mv (execFclt d a b s) := by
  unfold execFclt
  repeat'
    first
    | with_reducible assumption | with_reducible apply State.aluF_good | exact outGood_fault
    | exact outGood_refused | with_reducible apply outGood_next | dsimp only | split | (intro _)
    | with_reducible apply good_foldl | simp only [State.good_upd_iff] | simp only [State.good_bootUpd_iff]
    | with_reducible refine good_snd (by assumption) ?_ | with_reducible refine good_fst (by assumption) ?_
    | (simp [*]; done)

@[simp] theorem execFcle_good {kt mv : Nat} (d a b : Reg) {s : State} (hs : s.Good kt mv) :
    OutGood kt mv (execFcle d a b s) := by
  unfold execFcle
  repeat'
    first
    | with_reducible assumption | with_reducible apply State.aluF_good | exact outGood_fault
    | exact outGood_refused | with_reducible apply outGood_next | dsimp only | split | (intro _)
    | with_reducible apply good_foldl | simp only [State.good_upd_iff] | simp only [State.good_bootUpd_iff]
    | with_reducible refine good_snd (by assumption) ?_ | with_reducible refine good_fst (by assumption) ?_
    | (simp [*]; done)

@[simp] theorem execFabs_good {kt mv : Nat} (d a : Reg) {s : State} (hs : s.Good kt mv) :
    OutGood kt mv (execFabs d a s) := by
  unfold execFabs
  repeat'
    first
    | with_reducible assumption | with_reducible apply State.aluF_good | exact outGood_fault
    | exact outGood_refused | with_reducible apply outGood_next | dsimp only | split | (intro _)
    | with_reducible apply good_foldl | simp only [State.good_upd_iff] | simp only [State.good_bootUpd_iff]
    | with_reducible refine good_snd (by assumption) ?_ | with_reducible refine good_fst (by assumption) ?_
    | (simp [*]; done)

@[simp] theorem execFneg_good {kt mv : Nat} (d a : Reg) {s : State} (hs : s.Good kt mv) :
    OutGood kt mv (execFneg d a s) := by
  unfold execFneg
  repeat'
    first
    | with_reducible assumption | with_reducible apply State.aluF_good | exact outGood_fault
    | exact outGood_refused | with_reducible apply outGood_next | dsimp only | split | (intro _)
    | with_reducible apply good_foldl | simp only [State.good_upd_iff] | simp only [State.good_bootUpd_iff]
    | with_reducible refine good_snd (by assumption) ?_ | with_reducible refine good_fst (by assumption) ?_
    | (simp [*]; done)

@[simp] theorem execFcpys_good {kt mv : Nat} (d a b : Reg) {s : State} (hs : s.Good kt mv) :
    OutGood kt mv (execFcpys d a b s) := by
  unfold execFcpys
  repeat'
    first
    | with_reducible assumption | with_reducible apply State.aluF_good | exact outGood_fault
    | exact outGood_refused | with_reducible apply outGood_next | dsimp only | split | (intro _)
    | with_reducible apply good_foldl | simp only [State.good_upd_iff] | simp only [State.good_bootUpd_iff]
    | with_reducible refine good_snd (by assumption) ?_ | with_reducible refine good_fst (by assumption) ?_
    | (simp [*]; done)

@[simp] theorem execCvtif_good {kt mv : Nat} (d a : Reg) (src : IntTy) (dst : FpTy) (r : Rm) {s : State} (hs : s.Good kt mv) :
    OutGood kt mv (execCvtif d a src dst r s) := by
  unfold execCvtif
  repeat'
    first
    | with_reducible assumption | with_reducible apply State.aluF_good | exact outGood_fault
    | exact outGood_refused | with_reducible apply outGood_next | dsimp only | split | (intro _)
    | with_reducible apply good_foldl | simp only [State.good_upd_iff] | simp only [State.good_bootUpd_iff]
    | with_reducible refine good_snd (by assumption) ?_ | with_reducible refine good_fst (by assumption) ?_
    | (simp [*]; done)

@[simp] theorem execCvtfi_good {kt mv : Nat} (d a : Reg) (src : FpTy) (dst : IntTy) (r : Rm) {s : State} (hs : s.Good kt mv) :
    OutGood kt mv (execCvtfi d a src dst r s) := by
  unfold execCvtfi
  repeat'
    first
    | with_reducible assumption | with_reducible apply State.aluF_good | exact outGood_fault
    | exact outGood_refused | with_reducible apply outGood_next | dsimp only | split | (intro _)
    | with_reducible apply good_foldl | simp only [State.good_upd_iff] | simp only [State.good_bootUpd_iff]
    | with_reducible refine good_snd (by assumption) ?_ | with_reducible refine good_fst (by assumption) ?_
    | (simp [*]; done)

@[simp] theorem execCvtff_good {kt mv : Nat} (d a : Reg) (p : FfPair) (r : Rm) {s : State} (hs : s.Good kt mv) :
    OutGood kt mv (execCvtff d a p r s) := by
  unfold execCvtff
  repeat'
    first
    | with_reducible assumption | with_reducible apply State.aluF_good | exact outGood_fault
    | exact outGood_refused | with_reducible apply outGood_next | dsimp only | split | (intro _)
    | with_reducible apply good_foldl | simp only [State.good_upd_iff] | simp only [State.good_bootUpd_iff]
    | with_reducible refine good_snd (by assumption) ?_ | with_reducible refine good_fst (by assumption) ?_
    | (simp [*]; done)

@[simp] theorem execPk2_good {kt mv : Nat} (d a : Reg) (f : NarrowFmt) (r : Rm) {s : State} (hs : s.Good kt mv) :
    OutGood kt mv (execPk2 d a f r s) := by
  unfold execPk2
  repeat'
    first
    | with_reducible assumption | with_reducible apply State.aluF_good | exact outGood_fault
    | exact outGood_refused | with_reducible apply outGood_next | dsimp only | split | (intro _)
    | with_reducible apply good_foldl | simp only [State.good_upd_iff] | simp only [State.good_bootUpd_iff]
    | with_reducible refine good_snd (by assumption) ?_ | with_reducible refine good_fst (by assumption) ?_
    | (simp [*]; done)

@[simp] theorem execUnpk_good {kt mv : Nat} (d a : Reg) (f : NarrowFmt) {s : State} (hs : s.Good kt mv) :
    OutGood kt mv (execUnpk d a f s) := by
  unfold execUnpk
  repeat'
    first
    | with_reducible assumption | with_reducible apply State.aluF_good | exact outGood_fault
    | exact outGood_refused | with_reducible apply outGood_next | dsimp only | split | (intro _)
    | with_reducible apply good_foldl | simp only [State.good_upd_iff] | simp only [State.good_bootUpd_iff]
    | with_reducible refine good_snd (by assumption) ?_ | with_reducible refine good_fst (by assumption) ?_
    | (simp [*]; done)

@[simp] theorem execLd_good {kt mv : Nat} (d a : Reg) (sz : Size) (p : BitVec 9) {s : State} (hs : s.Good kt mv) :
    OutGood kt mv (execLd d a sz p s) := by
  unfold execLd
  repeat'
    first
    | with_reducible assumption | with_reducible apply State.loadGo_good | exact outGood_fault
    | exact outGood_refused | with_reducible apply outGood_next | dsimp only | split | (intro _)
    | with_reducible apply good_foldl | simp only [State.good_upd_iff] | simp only [State.good_bootUpd_iff]
    | with_reducible refine good_snd (by assumption) ?_ | with_reducible refine good_fst (by assumption) ?_
    | (simp [*]; done)

@[simp] theorem execLdLone_good {kt mv : Nat} (d a : Reg) (sz : Size) (e : W32) {s : State} (hs : s.Good kt mv) :
    OutGood kt mv (execLdLone d a sz e s) := by
  unfold execLdLone
  repeat'
    first
    | with_reducible assumption | with_reducible apply State.loadGo_good | exact outGood_fault
    | exact outGood_refused | with_reducible apply outGood_next | dsimp only | split | (intro _)
    | with_reducible apply good_foldl | simp only [State.good_upd_iff] | simp only [State.good_bootUpd_iff]
    | with_reducible refine good_snd (by assumption) ?_ | with_reducible refine good_fst (by assumption) ?_
    | (simp [*]; done)

@[simp] theorem execLdn_good {kt mv : Nat} (d a : Reg) (sz : Size) (p : BitVec 9) {s : State} (hs : s.Good kt mv) :
    OutGood kt mv (execLdn d a sz p s) := by
  unfold execLdn
  repeat'
    first
    | with_reducible assumption | with_reducible apply State.loadGo_good | exact outGood_fault
    | exact outGood_refused | with_reducible apply outGood_next | dsimp only | split | (intro _)
    | with_reducible apply good_foldl | simp only [State.good_upd_iff] | simp only [State.good_bootUpd_iff]
    | with_reducible refine good_snd (by assumption) ?_ | with_reducible refine good_fst (by assumption) ?_
    | (simp [*]; done)

@[simp] theorem execLdnLone_good {kt mv : Nat} (d a : Reg) (sz : Size) (e : W32) {s : State} (hs : s.Good kt mv) :
    OutGood kt mv (execLdnLone d a sz e s) := by
  unfold execLdnLone
  repeat'
    first
    | with_reducible assumption | with_reducible apply State.loadGo_good | exact outGood_fault
    | exact outGood_refused | with_reducible apply outGood_next | dsimp only | split | (intro _)
    | with_reducible apply good_foldl | simp only [State.good_upd_iff] | simp only [State.good_bootUpd_iff]
    | with_reducible refine good_snd (by assumption) ?_ | with_reducible refine good_fst (by assumption) ?_
    | (simp [*]; done)

@[simp] theorem execSt_good {kt mv : Nat} (d a : Reg) (sz : Size) (p : BitVec 9) {s : State} (hs : s.Good kt mv) :
    OutGood kt mv (execSt d a sz p s) := by
  unfold execSt
  repeat'
    first
    | with_reducible assumption | with_reducible apply State.storeGo_good | exact outGood_fault
    | exact outGood_refused | with_reducible apply outGood_next | dsimp only | split | (intro _)
    | with_reducible apply good_foldl | simp only [State.good_upd_iff] | simp only [State.good_bootUpd_iff]
    | with_reducible refine good_snd (by assumption) ?_ | with_reducible refine good_fst (by assumption) ?_
    | (simp [*]; done)

@[simp] theorem execStLone_good {kt mv : Nat} (d a : Reg) (sz : Size) (e : W32) {s : State} (hs : s.Good kt mv) :
    OutGood kt mv (execStLone d a sz e s) := by
  unfold execStLone
  repeat'
    first
    | with_reducible assumption | with_reducible apply State.storeGo_good | exact outGood_fault
    | exact outGood_refused | with_reducible apply outGood_next | dsimp only | split | (intro _)
    | with_reducible apply good_foldl | simp only [State.good_upd_iff] | simp only [State.good_bootUpd_iff]
    | with_reducible refine good_snd (by assumption) ?_ | with_reducible refine good_fst (by assumption) ?_
    | (simp [*]; done)

@[simp] theorem execLdx_good {kt mv : Nat} (d a b : Reg) (sz : Size) {s : State} (hs : s.Good kt mv) :
    OutGood kt mv (execLdx d a b sz s) := by
  unfold execLdx
  repeat'
    first
    | with_reducible assumption | with_reducible apply State.loadGo_good | exact outGood_fault
    | exact outGood_refused | with_reducible apply outGood_next | dsimp only | split | (intro _)
    | with_reducible apply good_foldl | simp only [State.good_upd_iff] | simp only [State.good_bootUpd_iff]
    | with_reducible refine good_snd (by assumption) ?_ | with_reducible refine good_fst (by assumption) ?_
    | (simp [*]; done)

@[simp] theorem execStx_good {kt mv : Nat} (d a b : Reg) (sz : Size) {s : State} (hs : s.Good kt mv) :
    OutGood kt mv (execStx d a b sz s) := by
  unfold execStx
  repeat'
    first
    | with_reducible assumption | with_reducible apply State.storeGo_good | exact outGood_fault
    | exact outGood_refused | with_reducible apply outGood_next | dsimp only | split | (intro _)
    | with_reducible apply good_foldl | simp only [State.good_upd_iff] | simp only [State.good_bootUpd_iff]
    | with_reducible refine good_snd (by assumption) ?_ | with_reducible refine good_fst (by assumption) ?_
    | (simp [*]; done)

@[simp] theorem execLda_good {kt mv : Nat} (d a : Reg) (sz : Size) (_sc : Scope) (p : BitVec 9) {s : State} (hs : s.Good
    kt mv) :
    OutGood kt mv (execLda d a sz _sc p s) := by
  unfold execLda
  repeat'
    first
    | with_reducible assumption | with_reducible apply State.loadGo_good | exact outGood_fault
    | exact outGood_refused | with_reducible apply outGood_next | dsimp only | split | (intro _)
    | with_reducible apply good_foldl | simp only [State.good_upd_iff] | simp only [State.good_bootUpd_iff]
    | with_reducible refine good_snd (by assumption) ?_ | with_reducible refine good_fst (by assumption) ?_
    | (simp [*]; done)

@[simp] theorem execLdaLone_good {kt mv : Nat} (d a : Reg) (sz : Size) (_sc : Scope) (e : W32) {s : State} (hs : s.Good
    kt mv) :
    OutGood kt mv (execLdaLone d a sz _sc e s) := by
  unfold execLdaLone
  repeat'
    first
    | with_reducible assumption | with_reducible apply State.loadGo_good | exact outGood_fault
    | exact outGood_refused | with_reducible apply outGood_next | dsimp only | split | (intro _)
    | with_reducible apply good_foldl | simp only [State.good_upd_iff] | simp only [State.good_bootUpd_iff]
    | with_reducible refine good_snd (by assumption) ?_ | with_reducible refine good_fst (by assumption) ?_
    | (simp [*]; done)

@[simp] theorem execStl_good {kt mv : Nat} (d a : Reg) (sz : Size) (sc : Scope) (p : BitVec 9) {s : State} (hs : s.Good
    kt mv) :
    OutGood kt mv (execStl d a sz sc p s) := by
  unfold execStl
  repeat'
    first
    | with_reducible assumption | with_reducible apply State.storeGo_good | exact outGood_fault
    | exact outGood_refused | with_reducible apply outGood_next | dsimp only | split | (intro _)
    | with_reducible apply good_foldl | simp only [State.good_upd_iff] | simp only [State.good_bootUpd_iff]
    | with_reducible refine good_snd (by assumption) ?_ | with_reducible refine good_fst (by assumption) ?_
    | (simp [*]; done)

@[simp] theorem execStlLone_good {kt mv : Nat} (d a : Reg) (sz : Size) (sc : Scope) (e : W32) {s : State} (hs : s.Good
    kt mv) :
    OutGood kt mv (execStlLone d a sz sc e s) := by
  unfold execStlLone
  repeat'
    first
    | with_reducible assumption | with_reducible apply State.storeGo_good | exact outGood_fault
    | exact outGood_refused | with_reducible apply outGood_next | dsimp only | split | (intro _)
    | with_reducible apply good_foldl | simp only [State.good_upd_iff] | simp only [State.good_bootUpd_iff]
    | with_reducible refine good_snd (by assumption) ?_ | with_reducible refine good_fst (by assumption) ?_
    | (simp [*]; done)

@[simp] theorem execPref_good {kt mv : Nat} (a : Reg) (p : BitVec 9) {s : State} (hs : s.Good kt mv) :
    OutGood kt mv (execPref a p s) := by
  unfold execPref
  repeat'
    first
    | with_reducible assumption | with_reducible apply State.prefetch_good | exact outGood_fault
    | exact outGood_refused | with_reducible apply outGood_next | dsimp only | split | (intro _)
    | with_reducible apply good_foldl | simp only [State.good_upd_iff] | simp only [State.good_bootUpd_iff]
    | with_reducible refine good_snd (by assumption) ?_ | with_reducible refine good_fst (by assumption) ?_
    | (simp [*]; done)

@[simp] theorem execPrefLone_good {kt mv : Nat} (a : Reg) (e : W32) {s : State} (hs : s.Good kt mv) :
    OutGood kt mv (execPrefLone a e s) := by
  unfold execPrefLone
  repeat'
    first
    | with_reducible assumption | with_reducible apply State.prefetch_good | exact outGood_fault
    | exact outGood_refused | with_reducible apply outGood_next | dsimp only | split | (intro _)
    | with_reducible apply good_foldl | simp only [State.good_upd_iff] | simp only [State.good_bootUpd_iff]
    | with_reducible refine good_snd (by assumption) ?_ | with_reducible refine good_fst (by assumption) ?_
    | (simp [*]; done)

@[simp] theorem execStf_good {kt mv : Nat} (d a : Reg) (sc : Scope) (p : BitVec 9) {s : State} (hs : s.Good kt mv) :
    OutGood kt mv (execStf d a sc p s) := by
  unfold execStf
  repeat'
    first
    | with_reducible assumption | with_reducible apply State.storeGo_good | exact outGood_fault
    | exact outGood_refused | with_reducible apply outGood_next | dsimp only | split | (intro _)
    | with_reducible apply good_foldl | simp only [State.good_upd_iff] | simp only [State.good_bootUpd_iff]
    | with_reducible refine good_snd (by assumption) ?_ | with_reducible refine good_fst (by assumption) ?_
    | (simp [*]; done)

@[simp] theorem execStfLone_good {kt mv : Nat} (d a : Reg) (sc : Scope) (e : W32) {s : State} (hs : s.Good kt mv) :
    OutGood kt mv (execStfLone d a sc e s) := by
  unfold execStfLone
  repeat'
    first
    | with_reducible assumption | with_reducible apply State.storeGo_good | exact outGood_fault
    | exact outGood_refused | with_reducible apply outGood_next | dsimp only | split | (intro _)
    | with_reducible apply good_foldl | simp only [State.good_upd_iff] | simp only [State.good_bootUpd_iff]
    | with_reducible refine good_snd (by assumption) ?_ | with_reducible refine good_fst (by assumption) ?_
    | (simp [*]; done)

@[simp] theorem execEmp_good {kt mv : Nat} (a : Reg) (p : BitVec 9) {s : State} (hs : s.Good kt mv) :
    OutGood kt mv (execEmp a p s) := by
  unfold execEmp
  repeat'
    first
    | with_reducible assumption | with_reducible apply State.storeGo_good | exact outGood_fault
    | exact outGood_refused | with_reducible apply outGood_next | dsimp only | split | (intro _)
    | with_reducible apply good_foldl | simp only [State.good_upd_iff] | simp only [State.good_bootUpd_iff]
    | with_reducible refine good_snd (by assumption) ?_ | with_reducible refine good_fst (by assumption) ?_
    | (simp [*]; done)

@[simp] theorem execEmpLone_good {kt mv : Nat} (a : Reg) (e : W32) {s : State} (hs : s.Good kt mv) :
    OutGood kt mv (execEmpLone a e s) := by
  unfold execEmpLone
  repeat'
    first
    | with_reducible assumption | with_reducible apply State.storeGo_good | exact outGood_fault
    | exact outGood_refused | with_reducible apply outGood_next | dsimp only | split | (intro _)
    | with_reducible apply good_foldl | simp only [State.good_upd_iff] | simp only [State.good_bootUpd_iff]
    | with_reducible refine good_snd (by assumption) ?_ | with_reducible refine good_fst (by assumption) ?_
    | (simp [*]; done)

@[simp] theorem execFeq_good {kt mv : Nat} (d a : Reg) (p : BitVec 9) {s : State} (hs : s.Good kt mv) :
    OutGood kt mv (execFeq d a p s) := by
  unfold execFeq
  repeat'
    first
    | with_reducible assumption | with_reducible apply State.loadGo_good | exact outGood_fault
    | exact outGood_refused | with_reducible apply outGood_next | dsimp only | split | (intro _)
    | with_reducible apply good_foldl | simp only [State.good_upd_iff] | simp only [State.good_bootUpd_iff]
    | with_reducible refine good_snd (by assumption) ?_ | with_reducible refine good_fst (by assumption) ?_
    | (simp [*]; done)

@[simp] theorem execFeqLone_good {kt mv : Nat} (d a : Reg) (e : W32) {s : State} (hs : s.Good kt mv) :
    OutGood kt mv (execFeqLone d a e s) := by
  unfold execFeqLone
  repeat'
    first
    | with_reducible assumption | with_reducible apply State.loadGo_good | exact outGood_fault
    | exact outGood_refused | with_reducible apply outGood_next | dsimp only | split | (intro _)
    | with_reducible apply good_foldl | simp only [State.good_upd_iff] | simp only [State.good_bootUpd_iff]
    | with_reducible refine good_snd (by assumption) ?_ | with_reducible refine good_fst (by assumption) ?_
    | (simp [*]; done)

@[simp] theorem execLdwt_good {kt mv : Nat} (d a : Reg) (_sc : Scope) (p : BitVec 9) {s : State} (hs : s.Good kt mv) :
    OutGood kt mv (execLdwt d a _sc p s) := by
  unfold execLdwt
  repeat'
    first
    | with_reducible assumption | with_reducible apply State.loadGo_good | exact outGood_fault
    | exact outGood_refused | with_reducible apply outGood_next | dsimp only | split | (intro _)
    | with_reducible apply good_foldl | simp only [State.good_upd_iff] | simp only [State.good_bootUpd_iff]
    | with_reducible refine good_snd (by assumption) ?_ | with_reducible refine good_fst (by assumption) ?_
    | (simp [*]; done)

@[simp] theorem execLdwtLone_good {kt mv : Nat} (d a : Reg) (_sc : Scope) (e : W32) {s : State} (hs : s.Good kt mv) :
    OutGood kt mv (execLdwtLone d a _sc e s) := by
  unfold execLdwtLone
  repeat'
    first
    | with_reducible assumption | with_reducible apply State.loadGo_good | exact outGood_fault
    | exact outGood_refused | with_reducible apply outGood_next | dsimp only | split | (intro _)
    | with_reducible apply good_foldl | simp only [State.good_upd_iff] | simp only [State.good_bootUpd_iff]
    | with_reducible refine good_snd (by assumption) ?_ | with_reducible refine good_fst (by assumption) ?_
    | (simp [*]; done)

@[simp] theorem execLdtt_good {kt mv : Nat} (d a : Reg) (_sc : Scope) (p : BitVec 9) {s : State} (hs : s.Good kt mv) :
    OutGood kt mv (execLdtt d a _sc p s) := by
  unfold execLdtt
  repeat'
    first
    | with_reducible assumption | with_reducible apply State.loadGo_good | exact outGood_fault
    | exact outGood_refused | with_reducible apply outGood_next | dsimp only | split | (intro _)
    | with_reducible apply good_foldl | simp only [State.good_upd_iff] | simp only [State.good_bootUpd_iff]
    | with_reducible refine good_snd (by assumption) ?_ | with_reducible refine good_fst (by assumption) ?_
    | (simp [*]; done)

@[simp] theorem execLdttLone_good {kt mv : Nat} (d a : Reg) (_sc : Scope) (e : W32) {s : State} (hs : s.Good kt mv) :
    OutGood kt mv (execLdttLone d a _sc e s) := by
  unfold execLdttLone
  repeat'
    first
    | with_reducible assumption | with_reducible apply State.loadGo_good | exact outGood_fault
    | exact outGood_refused | with_reducible apply outGood_next | dsimp only | split | (intro _)
    | with_reducible apply good_foldl | simp only [State.good_upd_iff] | simp only [State.good_bootUpd_iff]
    | with_reducible refine good_snd (by assumption) ?_ | with_reducible refine good_fst (by assumption) ?_
    | (simp [*]; done)

@[simp] theorem execStpt_good {kt mv : Nat} (d a : Reg) (sc : Scope) (p : BitVec 9) {s : State} (hs : s.Good kt mv) :
    OutGood kt mv (execStpt d a sc p s) := by
  unfold execStpt
  repeat'
    first
    | with_reducible assumption | with_reducible apply State.loadGo_good | exact outGood_fault
    | exact outGood_refused | with_reducible apply outGood_next | dsimp only | split | (intro _)
    | with_reducible apply good_foldl | simp only [State.good_upd_iff] | simp only [State.good_bootUpd_iff]
    | with_reducible refine good_snd (by assumption) ?_ | with_reducible refine good_fst (by assumption) ?_
    | (simp [*]; done)

@[simp] theorem execStptLone_good {kt mv : Nat} (d a : Reg) (sc : Scope) (e : W32) {s : State} (hs : s.Good kt mv) :
    OutGood kt mv (execStptLone d a sc e s) := by
  unfold execStptLone
  repeat'
    first
    | with_reducible assumption | with_reducible apply State.loadGo_good | exact outGood_fault
    | exact outGood_refused | with_reducible apply outGood_next | dsimp only | split | (intro _)
    | with_reducible apply good_foldl | simp only [State.good_upd_iff] | simp only [State.good_bootUpd_iff]
    | with_reducible refine good_snd (by assumption) ?_ | with_reducible refine good_fst (by assumption) ?_
    | (simp [*]; done)

@[simp] theorem execCas_good {kt mv : Nat} (d a b : Reg) (sc : Scope) (w : Bool) {s : State} (hs : s.Good kt mv) :
    OutGood kt mv (execCas d a b sc w s) := by
  unfold execCas
  repeat'
    first
    | with_reducible assumption | with_reducible apply State.loadGo_good | exact outGood_fault
    | exact outGood_refused | with_reducible apply outGood_next | dsimp only | split | (intro _)
    | with_reducible apply good_foldl | simp only [State.good_upd_iff] | simp only [State.good_bootUpd_iff]
    | with_reducible refine good_snd (by assumption) ?_ | with_reducible refine good_fst (by assumption) ?_
    | (simp [*]; done)

@[simp] theorem execRed_good {kt mv : Nat} (a b : Reg) (op : RedOp) (sc : Scope) (w : Bool) {s : State} (hs : s.Good kt mv) :
    OutGood kt mv (execRed a b op sc w s) := by
  unfold execRed
  repeat'
    first
    | with_reducible assumption | with_reducible apply State.storeGo_good | exact outGood_fault
    | exact outGood_refused | with_reducible apply outGood_next | dsimp only | split | (intro _)
    | with_reducible apply good_foldl | simp only [State.good_upd_iff] | simp only [State.good_bootUpd_iff]
    | with_reducible refine good_snd (by assumption) ?_ | with_reducible refine good_fst (by assumption) ?_
    | (simp [*]; done)

@[simp] theorem execLdw_good {kt mv : Nat} (d a : Reg) (_sc : Scope) (p : BitVec 9) {s : State} (hs : s.Good kt mv) :
    OutGood kt mv (execLdw d a _sc p s) := by
  unfold execLdw
  repeat'
    first
    | with_reducible assumption | with_reducible apply State.waitFE_good | exact outGood_fault
    | exact outGood_refused | with_reducible apply outGood_next | dsimp only | split | (intro _)
    | with_reducible apply good_foldl | simp only [State.good_upd_iff] | simp only [State.good_bootUpd_iff]
    | with_reducible refine good_snd (by assumption) ?_ | with_reducible refine good_fst (by assumption) ?_
    | (simp [*]; done)

@[simp] theorem execLdwLone_good {kt mv : Nat} (d a : Reg) (_sc : Scope) (e : W32) {s : State} (hs : s.Good kt mv) :
    OutGood kt mv (execLdwLone d a _sc e s) := by
  unfold execLdwLone
  repeat'
    first
    | with_reducible assumption | with_reducible apply State.waitFE_good | exact outGood_fault
    | exact outGood_refused | with_reducible apply outGood_next | dsimp only | split | (intro _)
    | with_reducible apply good_foldl | simp only [State.good_upd_iff] | simp only [State.good_bootUpd_iff]
    | with_reducible refine good_snd (by assumption) ?_ | with_reducible refine good_fst (by assumption) ?_
    | (simp [*]; done)

@[simp] theorem execLdt_good {kt mv : Nat} (d a : Reg) (_sc : Scope) (p : BitVec 9) {s : State} (hs : s.Good kt mv) :
    OutGood kt mv (execLdt d a _sc p s) := by
  unfold execLdt
  repeat'
    first
    | with_reducible assumption | with_reducible apply State.waitFE_good | exact outGood_fault
    | exact outGood_refused | with_reducible apply outGood_next | dsimp only | split | (intro _)
    | with_reducible apply good_foldl | simp only [State.good_upd_iff] | simp only [State.good_bootUpd_iff]
    | with_reducible refine good_snd (by assumption) ?_ | with_reducible refine good_fst (by assumption) ?_
    | (simp [*]; done)

@[simp] theorem execLdtLone_good {kt mv : Nat} (d a : Reg) (_sc : Scope) (e : W32) {s : State} (hs : s.Good kt mv) :
    OutGood kt mv (execLdtLone d a _sc e s) := by
  unfold execLdtLone
  repeat'
    first
    | with_reducible assumption | with_reducible apply State.waitFE_good | exact outGood_fault
    | exact outGood_refused | with_reducible apply outGood_next | dsimp only | split | (intro _)
    | with_reducible apply good_foldl | simp only [State.good_upd_iff] | simp only [State.good_bootUpd_iff]
    | with_reducible refine good_snd (by assumption) ?_ | with_reducible refine good_fst (by assumption) ?_
    | (simp [*]; done)

@[simp] theorem execStp_good {kt mv : Nat} (d a : Reg) (sc : Scope) (p : BitVec 9) {s : State} (hs : s.Good kt mv) :
    OutGood kt mv (execStp d a sc p s) := by
  unfold execStp
  repeat'
    first
    | with_reducible assumption | with_reducible apply State.waitFE_good | exact outGood_fault
    | exact outGood_refused | with_reducible apply outGood_next | dsimp only | split | (intro _)
    | with_reducible apply good_foldl | simp only [State.good_upd_iff] | simp only [State.good_bootUpd_iff]
    | with_reducible refine good_snd (by assumption) ?_ | with_reducible refine good_fst (by assumption) ?_
    | (simp [*]; done)

@[simp] theorem execStpLone_good {kt mv : Nat} (d a : Reg) (sc : Scope) (e : W32) {s : State} (hs : s.Good kt mv) :
    OutGood kt mv (execStpLone d a sc e s) := by
  unfold execStpLone
  repeat'
    first
    | with_reducible assumption | with_reducible apply State.waitFE_good | exact outGood_fault
    | exact outGood_refused | with_reducible apply outGood_next | dsimp only | split | (intro _)
    | with_reducible apply good_foldl | simp only [State.good_upd_iff] | simp only [State.good_bootUpd_iff]
    | with_reducible refine good_snd (by assumption) ?_ | with_reducible refine good_fst (by assumption) ?_
    | (simp [*]; done)

@[simp] theorem execAmo_good {kt mv : Nat} (d a b : Reg) (op : AmoOp) (sc : Scope) (w fe : Bool) {s : State} (hs :
    s.Good kt mv) :
    OutGood kt mv (execAmo d a b op sc w fe s) := by
  unfold execAmo
  repeat'
    first
    | with_reducible assumption | with_reducible apply State.loadGo_good | with_reducible apply State.waitFE_good
    | exact outGood_fault | exact outGood_refused | with_reducible apply outGood_next | dsimp only | split
    | (intro _) | with_reducible apply good_foldl | simp only [State.good_upd_iff]
    | simp only [State.good_bootUpd_iff] | with_reducible refine good_snd (by assumption) ?_
    | with_reducible refine good_fst (by assumption) ?_ | (simp [*]; done)

@[simp] theorem execPark_good {kt mv : Nat} (d a : Reg) (p : BitVec 9) {s : State} (hs : s.Good kt mv) :
    OutGood kt mv (execPark d a p s) := by
  unfold execPark
  repeat'
    first
    | with_reducible assumption | with_reducible apply State.parkOn_good | exact outGood_fault
    | exact outGood_refused | with_reducible apply outGood_next | dsimp only | split | (intro _)
    | with_reducible apply good_foldl | simp only [State.good_upd_iff] | simp only [State.good_bootUpd_iff]
    | with_reducible refine good_snd (by assumption) ?_ | with_reducible refine good_fst (by assumption) ?_
    | (simp [*]; done)

@[simp] theorem execParkLone_good {kt mv : Nat} (d a : Reg) (e : W32) {s : State} (hs : s.Good kt mv) :
    OutGood kt mv (execParkLone d a e s) := by
  unfold execParkLone
  repeat'
    first
    | with_reducible assumption | with_reducible apply State.parkOn_good | exact outGood_fault
    | exact outGood_refused | with_reducible apply outGood_next | dsimp only | split | (intro _)
    | with_reducible apply good_foldl | simp only [State.good_upd_iff] | simp only [State.good_bootUpd_iff]
    | with_reducible refine good_snd (by assumption) ?_ | with_reducible refine good_fst (by assumption) ?_
    | (simp [*]; done)

@[simp] theorem execTarm_good {kt mv : Nat} (a : Reg) (p : BitVec 9) {s : State} (hs : s.Good kt mv) :
    OutGood kt mv (execTarm a p s) := by
  unfold execTarm
  repeat'
    first
    | with_reducible assumption | with_reducible apply State.armPage_good | exact outGood_fault
    | exact outGood_refused | with_reducible apply outGood_next | dsimp only | split | (intro _)
    | with_reducible apply good_foldl | simp only [State.good_upd_iff] | simp only [State.good_bootUpd_iff]
    | with_reducible refine good_snd (by assumption) ?_ | with_reducible refine good_fst (by assumption) ?_
    | (simp [*]; done)

@[simp] theorem execTarmLone_good {kt mv : Nat} (a : Reg) (e : W32) {s : State} (hs : s.Good kt mv) :
    OutGood kt mv (execTarmLone a e s) := by
  unfold execTarmLone
  repeat'
    first
    | with_reducible assumption | with_reducible apply State.armPage_good | exact outGood_fault
    | exact outGood_refused | with_reducible apply outGood_next | dsimp only | split | (intro _)
    | with_reducible apply good_foldl | simp only [State.good_upd_iff] | simp only [State.good_bootUpd_iff]
    | with_reducible refine good_snd (by assumption) ?_ | with_reducible refine good_fst (by assumption) ?_
    | (simp [*]; done)

@[simp] theorem execFenceOrd_good {kt mv : Nat} (sc : Scope) {s : State} (hs : s.Good kt mv) :
    OutGood kt mv (execFenceOrd sc s) := by
  unfold execFenceOrd
  repeat'
    first
    | with_reducible assumption | with_reducible apply State.fence_good | exact outGood_fault
    | exact outGood_refused | with_reducible apply outGood_next | dsimp only | split | (intro _)
    | with_reducible apply good_foldl | simp only [State.good_upd_iff] | simp only [State.good_bootUpd_iff]
    | with_reducible refine good_snd (by assumption) ?_ | with_reducible refine good_fst (by assumption) ?_
    | (simp [*]; done)

@[simp] theorem execFenceR_good {kt mv : Nat} {s : State} (hs : s.Good kt mv) :
    OutGood kt mv (execFenceR s) := by
  unfold execFenceR
  repeat'
    first
    | with_reducible assumption | with_reducible apply State.fence_good | exact outGood_fault
    | exact outGood_refused | with_reducible apply outGood_next | dsimp only | split | (intro _)
    | with_reducible apply good_foldl | simp only [State.good_upd_iff] | simp only [State.good_bootUpd_iff]
    | with_reducible refine good_snd (by assumption) ?_ | with_reducible refine good_fst (by assumption) ?_
    | (simp [*]; done)

@[simp] theorem execFenceA_good {kt mv : Nat} {s : State} (hs : s.Good kt mv) :
    OutGood kt mv (execFenceA s) := by
  unfold execFenceA
  repeat'
    first
    | with_reducible assumption | with_reducible apply State.issue_good | with_reducible apply State.holdOp_good
    | exact outGood_fault | exact outGood_refused | with_reducible apply outGood_next | dsimp only | split
    | (intro _) | with_reducible apply good_foldl | simp only [State.good_upd_iff]
    | simp only [State.good_bootUpd_iff] | with_reducible refine good_snd (by assumption) ?_
    | with_reducible refine good_fst (by assumption) ?_ | (simp [*]; done)

@[simp] theorem execMfc_good {kt mv : Nat} (d : Reg) (n : BitVec 14) {s : State} (hs : s.Good kt mv) :
    OutGood kt mv (execMfc d n s) := by
  unfold execMfc
  repeat'
    first
    | with_reducible assumption | with_reducible apply State.trapHere_good | with_reducible apply State.setC_good
    | exact outGood_fault | exact outGood_refused | with_reducible apply outGood_next | dsimp only | split
    | (intro _) | with_reducible apply good_foldl | simp only [State.good_upd_iff]
    | simp only [State.good_bootUpd_iff] | with_reducible refine good_snd (by assumption) ?_
    | with_reducible refine good_fst (by assumption) ?_ | (simp [*]; done)

@[simp] theorem execMtc_good {kt mv : Nat} (a : Reg) (n : BitVec 14) {s : State} (hs : s.Good kt mv) :
    OutGood kt mv (execMtc a n s) := by
  unfold execMtc
  repeat'
    first
    | with_reducible assumption | with_reducible apply State.issue_good | with_reducible apply State.holdOp_good
    | with_reducible apply State.trapHere_good | with_reducible apply State.mtcVal_good | exact outGood_fault
    | exact outGood_refused | with_reducible apply outGood_next | dsimp only | split | (intro _)
    | with_reducible apply good_foldl | simp only [State.good_upd_iff] | simp only [State.good_bootUpd_iff]
    | with_reducible refine good_snd (by assumption) ?_ | with_reducible refine good_fst (by assumption) ?_
    | (simp [*]; done)

@[simp] theorem execTrap_good {kt mv : Nat} (i : BitVec 14) {s : State} (hs : s.Good kt mv) :
    OutGood kt mv (execTrap i s) := by
  unfold execTrap
  repeat'
    first
    | with_reducible assumption | with_reducible apply State.trapHere_good | exact outGood_fault
    | exact outGood_refused | with_reducible apply outGood_next | dsimp only | split | (intro _)
    | with_reducible apply good_foldl | simp only [State.good_upd_iff] | simp only [State.good_bootUpd_iff]
    | with_reducible refine good_snd (by assumption) ?_ | with_reducible refine good_fst (by assumption) ?_
    | (simp [*]; done)

@[simp] theorem execBrk_good {kt mv : Nat} (i : BitVec 14) {s : State} (hs : s.Good kt mv) :
    OutGood kt mv (execBrk i s) := by
  unfold execBrk
  repeat'
    first
    | with_reducible assumption | with_reducible apply State.issue_good | with_reducible apply State.trapHere_good
    | exact outGood_fault | exact outGood_refused | with_reducible apply outGood_next | dsimp only | split
    | (intro _) | with_reducible apply good_foldl | simp only [State.good_upd_iff]
    | simp only [State.good_bootUpd_iff] | with_reducible refine good_snd (by assumption) ?_
    | with_reducible refine good_fst (by assumption) ?_ | (simp [*]; done)

@[simp] theorem execSeal_good {kt mv : Nat} {s : State} (hs : s.Good kt mv) :
    OutGood kt mv (execSeal s) := by
  unfold execSeal
  repeat'
    first
    | with_reducible assumption | with_reducible apply State.trapHere_good | exact outGood_fault
    | exact outGood_refused | with_reducible apply outGood_next | dsimp only | split | (intro _)
    | with_reducible apply good_foldl | simp only [State.good_upd_iff] | simp only [State.good_bootUpd_iff]
    | with_reducible refine good_snd (by assumption) ?_ | with_reducible refine good_fst (by assumption) ?_
    | (simp [*]; done)

@[simp] theorem execSleep_good {kt mv : Nat} (i : BitVec 14) {s : State} (hs : s.Good kt mv) :
    OutGood kt mv (execSleep i s) := by
  unfold execSleep
  repeat'
    first
    | with_reducible assumption | with_reducible apply State.modMe_good | with_reducible apply State.enqueue_good
    | with_reducible apply State.issue_good | with_reducible apply State.hold_good | exact outGood_fault
    | exact outGood_refused | with_reducible apply outGood_next | dsimp only | split | (intro _)
    | with_reducible apply good_foldl | simp only [State.good_upd_iff] | simp only [State.good_bootUpd_iff]
    | with_reducible refine good_snd (by assumption) ?_ | with_reducible refine good_fst (by assumption) ?_
    | (simp [*]; done)

@[simp] theorem execSleepExpiry_good {kt mv : Nat} {s : State} (hs : s.Good kt mv) :
    OutGood kt mv (execSleepExpiry s) := by
  unfold execSleepExpiry
  repeat'
    first
    | with_reducible assumption | with_reducible apply State.modBank_good | exact outGood_fault
    | exact outGood_refused | with_reducible apply outGood_next | dsimp only | split | (intro _)
    | with_reducible apply good_foldl | simp only [State.good_upd_iff] | simp only [State.good_bootUpd_iff]
    | with_reducible refine good_snd (by assumption) ?_ | with_reducible refine good_fst (by assumption) ?_
    | (simp [*]; done)

@[simp] theorem execLtrig_good {kt mv : Nat} {s : State} (hs : s.Good kt mv) :
    OutGood kt mv (execLtrig s) := by
  unfold execLtrig
  repeat'
    first
    | with_reducible assumption | with_reducible apply State.issue_good | with_reducible apply State.holdOp_good
    | with_reducible apply State.modLaunch_good | with_reducible apply State.pokeStarts_good
    | with_reducible apply State.modInst_good | exact outGood_fault | exact outGood_refused
    | with_reducible apply outGood_next | dsimp only | split | (intro _) | with_reducible apply good_foldl
    | simp only [State.good_upd_iff] | simp only [State.good_bootUpd_iff]
    | with_reducible refine good_snd (by assumption) ?_ | with_reducible refine good_fst (by assumption) ?_
    | (simp [*]; done)

@[simp] theorem execMigr_good {kt mv : Nat} (a : Reg) {s : State} (hs : s.Good kt mv) :
    OutGood kt mv (execMigr a s) := by
  unfold execMigr
  repeat'
    first
    | with_reducible assumption | with_reducible apply State.modMe_good | with_reducible apply State.issue_good
    | with_reducible apply State.holdOp_good | with_reducible apply State.trapHere_good
    | with_reducible apply State.touch_good | with_reducible apply State.enterService_good | exact outGood_fault
    | exact outGood_refused | with_reducible apply outGood_next | dsimp only | split | (intro _)
    | with_reducible apply good_foldl | simp only [State.good_upd_iff] | simp only [State.good_bootUpd_iff]
    | with_reducible refine good_snd (by assumption) ?_ | with_reducible refine good_fst (by assumption) ?_
    | (simp [*]; done)

@[simp] theorem execResume_good {kt mv : Nat} (a b : Reg) {s : State} (hs : s.Good kt mv) :
    OutGood kt mv (execResume a b s) := by
  unfold execResume
  repeat'
    first
    | with_reducible assumption | with_reducible apply State.issue_good | with_reducible apply State.holdOp_good
    | with_reducible apply State.trapHere_good | with_reducible apply State.shipResume_good
    | with_reducible apply State.readWords_good | exact outGood_fault | exact outGood_refused
    | with_reducible apply outGood_next | dsimp only | split | (intro _) | with_reducible apply good_foldl
    | simp only [State.good_upd_iff] | simp only [State.good_bootUpd_iff]
    | with_reducible refine good_snd (by assumption) ?_ | with_reducible refine good_fst (by assumption) ?_
    | (simp [*]; done)

@[simp] theorem execTlbw_good {kt mv : Nat} (d a b : Reg) {s : State} (hs : s.Good kt mv) :
    OutGood kt mv (execTlbw d a b s) := by
  unfold execTlbw
  repeat'
    first
    | with_reducible assumption | with_reducible apply State.issue_good | with_reducible apply State.trapHere_good
    | with_reducible apply State.tlbWrite_good | exact outGood_fault | exact outGood_refused
    | with_reducible apply outGood_next | dsimp only | split | (intro _) | with_reducible apply good_foldl
    | simp only [State.good_upd_iff] | simp only [State.good_bootUpd_iff]
    | with_reducible refine good_snd (by assumption) ?_ | with_reducible refine good_fst (by assumption) ?_
    | (simp [*]; done)

@[simp] theorem execTlbi_good {kt mv : Nat} (a : Reg) {s : State} (hs : s.Good kt mv) :
    OutGood kt mv (execTlbi a s) := by
  unfold execTlbi
  repeat'
    first
    | with_reducible assumption | with_reducible apply State.shootIns_good | exact outGood_fault
    | exact outGood_refused | with_reducible apply outGood_next | dsimp only | split | (intro _)
    | with_reducible apply good_foldl | simp only [State.good_upd_iff] | simp only [State.good_bootUpd_iff]
    | with_reducible refine good_snd (by assumption) ?_ | with_reducible refine good_fst (by assumption) ?_
    | (simp [*]; done)

@[simp] theorem execTlbs_good {kt mv : Nat} (a : Reg) {s : State} (hs : s.Good kt mv) :
    OutGood kt mv (execTlbs a s) := by
  unfold execTlbs
  repeat'
    first
    | with_reducible assumption | with_reducible apply State.shootIns_good | exact outGood_fault
    | exact outGood_refused | with_reducible apply outGood_next | dsimp only | split | (intro _)
    | with_reducible apply good_foldl | simp only [State.good_upd_iff] | simp only [State.good_bootUpd_iff]
    | with_reducible refine good_snd (by assumption) ?_ | with_reducible refine good_fst (by assumption) ?_
    | (simp [*]; done)

@[simp] theorem execShootdownArrive_good {kt mv : Nat} {s : State} (hs : s.Good kt mv) :
    OutGood kt mv (execShootdownArrive s) := by
  unfold execShootdownArrive
  repeat'
    first
    | with_reducible assumption | with_reducible apply State.enqueue_good
    | with_reducible apply State.invalidate_good | with_reducible apply State.invalidateQuad_good
    | with_reducible apply State.shootAck_good | exact outGood_fault | exact outGood_refused
    | with_reducible apply outGood_next | dsimp only | split | (intro _) | with_reducible apply good_foldl
    | simp only [State.good_upd_iff] | simp only [State.good_bootUpd_iff]
    | with_reducible refine good_snd (by assumption) ?_ | with_reducible refine good_fst (by assumption) ?_
    | (simp [*]; done)

@[simp] theorem execEntryStart_good {kt mv : Nat} {s : State} (hs : s.Good kt mv) :
    OutGood kt mv (execEntryStart s) := by
  unfold execEntryStart
  repeat'
    first
    | with_reducible assumption | with_reducible apply State.choose_good | exact outGood_fault
    | exact outGood_refused | with_reducible apply outGood_next | dsimp only | split | (intro _)
    | with_reducible apply good_foldl | simp only [State.good_upd_iff] | simp only [State.good_bootUpd_iff]
    | with_reducible refine good_snd (by assumption) ?_ | with_reducible refine good_fst (by assumption) ?_
    | (simp [*]; done)

@[simp] theorem execFeAttempt_good {kt mv : Nat} {s : State} (hs : s.Good kt mv) :
    OutGood kt mv (execFeAttempt s) := by
  unfold execFeAttempt
  repeat'
    first
    | with_reducible assumption | with_reducible apply State.modBank_good | exact outGood_fault
    | exact outGood_refused | with_reducible apply outGood_next | dsimp only | split | (intro _)
    | with_reducible apply good_foldl | simp only [State.good_upd_iff] | simp only [State.good_bootUpd_iff]
    | with_reducible refine good_snd (by assumption) ?_ | with_reducible refine good_fst (by assumption) ?_
    | (simp [*]; done)

@[simp] theorem execWakeAppend_good {kt mv : Nat} {s : State} (hs : s.Good kt mv) :
    OutGood kt mv (execWakeAppend s) := by
  unfold execWakeAppend
  repeat'
    first
    | with_reducible assumption | with_reducible apply State.enqueue_good | with_reducible apply State.modPark_good
    | with_reducible apply State.pushResume_good | exact outGood_fault | exact outGood_refused
    | with_reducible apply outGood_next | dsimp only | split | (intro _) | with_reducible apply good_foldl
    | simp only [State.good_upd_iff] | simp only [State.good_bootUpd_iff]
    | with_reducible refine good_snd (by assumption) ?_ | with_reducible refine good_fst (by assumption) ?_
    | (simp [*]; done)

@[simp] theorem execTransientExpiry_good {kt mv : Nat} {s : State} (hs : s.Good kt mv) :
    OutGood kt mv (execTransientExpiry s) := by
  unfold execTransientExpiry
  repeat'
    first
    | with_reducible assumption | with_reducible apply State.expire_good | exact outGood_fault
    | exact outGood_refused | with_reducible apply outGood_next | dsimp only | split | (intro _)
    | with_reducible apply good_foldl | simp only [State.good_upd_iff] | simp only [State.good_bootUpd_iff]
    | with_reducible refine good_snd (by assumption) ?_ | with_reducible refine good_fst (by assumption) ?_
    | (simp [*]; done)

@[simp] theorem execMigrationDepart_good {kt mv : Nat} {s : State} (hs : s.Good kt mv) :
    OutGood kt mv (execMigrationDepart s) := by
  unfold execMigrationDepart
  repeat'
    first
    | with_reducible assumption | with_reducible apply State.modBank_good | with_reducible apply State.enqueue_good
    | with_reducible apply State.bumpId_good | with_reducible apply State.clearBank_good | exact outGood_fault
    | exact outGood_refused | with_reducible apply outGood_next | dsimp only | split | (intro _)
    | with_reducible apply good_foldl | simp only [State.good_upd_iff] | simp only [State.good_bootUpd_iff]
    | with_reducible refine good_snd (by assumption) ?_ | with_reducible refine good_fst (by assumption) ?_
    | (simp [*]; done)

@[simp] theorem execFcrArrive_good {kt mv : Nat} {s : State} (hs : s.Good kt mv) :
    OutGood kt mv (execFcrArrive s) := by
  unfold execFcrArrive
  repeat'
    first
    | with_reducible assumption | with_reducible apply State.enqueue_good | with_reducible apply State.poke_good
    | with_reducible apply State.letIn_good | with_reducible apply State.loseFiring_good | exact outGood_fault
    | exact outGood_refused | with_reducible apply outGood_next | dsimp only | split | (intro _)
    | with_reducible apply good_foldl | simp only [State.good_upd_iff] | simp only [State.good_bootUpd_iff]
    | with_reducible refine good_snd (by assumption) ?_ | with_reducible refine good_fst (by assumption) ?_
    | (simp [*]; done)

@[simp] theorem execResumeEntryDue_good {kt mv : Nat} {s : State} (hs : s.Good kt mv) :
    OutGood kt mv (execResumeEntryDue s) := by
  unfold execResumeEntryDue
  repeat'
    first
    | with_reducible assumption | with_reducible apply State.pushResume_good | exact outGood_fault
    | exact outGood_refused | with_reducible apply outGood_next | dsimp only | split | (intro _)
    | with_reducible apply good_foldl | simp only [State.good_upd_iff] | simp only [State.good_bootUpd_iff]
    | with_reducible refine good_snd (by assumption) ?_ | with_reducible refine good_fst (by assumption) ?_
    | (simp [*]; done)

@[simp] theorem execFcrDeliver_good {kt mv : Nat} {s : State} (hs : s.Good kt mv) :
    OutGood kt mv (execFcrDeliver s) := by
  unfold execFcrDeliver
  repeat'
    first
    | with_reducible assumption | with_reducible apply State.appendFcr_good
    | with_reducible apply State.reserveFcr_good | exact outGood_fault | exact outGood_refused
    | with_reducible apply outGood_next | dsimp only | split | (intro _) | with_reducible apply good_foldl
    | simp only [State.good_upd_iff] | simp only [State.good_bootUpd_iff]
    | with_reducible refine good_snd (by assumption) ?_ | with_reducible refine good_fst (by assumption) ?_
    | (simp [*]; done)

@[simp] theorem execHoldBufferOffer_good {kt mv : Nat} {s : State} (hs : s.Good kt mv) :
    OutGood kt mv (execHoldBufferOffer s) := by
  unfold execHoldBufferOffer
  repeat'
    first
    | with_reducible assumption | with_reducible apply State.enqueue_good
    | with_reducible apply State.countSetFull_good | exact State.portPark_good _ _ _ hs _ (by assumption)
    | with_reducible apply State.dropHeld_good | with_reducible apply State.discardFcr_good | exact outGood_fault
    | exact outGood_refused | with_reducible apply outGood_next | dsimp only | split | (intro _)
    | with_reducible apply good_foldl | simp only [State.good_upd_iff] | simp only [State.good_bootUpd_iff]
    | with_reducible refine good_snd (by assumption) ?_ | with_reducible refine good_fst (by assumption) ?_
    | (simp [*]; done)

@[simp] theorem execWatchdogExpiry_good {kt mv : Nat} {s : State} (hs : s.Good kt mv) :
    OutGood kt mv (execWatchdogExpiry s) := by
  unfold execWatchdogExpiry
  repeat'
    first
    | with_reducible assumption | with_reducible apply State.takeTrap_good
    | with_reducible apply State.watchdogParked_good | exact outGood_fault | exact outGood_refused
    | with_reducible apply outGood_next | dsimp only | split | (intro _) | with_reducible apply good_foldl
    | simp only [State.good_upd_iff] | simp only [State.good_bootUpd_iff]
    | with_reducible refine good_snd (by assumption) ?_ | with_reducible refine good_fst (by assumption) ?_
    | (simp [*]; done)

@[simp] theorem execCoreSleep_good {kt mv : Nat} {s : State} (hs : s.Good kt mv) :
    OutGood kt mv (execCoreSleep s) := by
  unfold execCoreSleep
  repeat'
    first
    | with_reducible assumption | with_reducible apply State.modCore_good | exact outGood_fault
    | exact outGood_refused | with_reducible apply outGood_next | dsimp only | split | (intro _)
    | with_reducible apply good_foldl | simp only [State.good_upd_iff] | simp only [State.good_bootUpd_iff]
    | with_reducible refine good_snd (by assumption) ?_ | with_reducible refine good_fst (by assumption) ?_
    | (simp [*]; done)

@[simp] theorem execCoreWake_good {kt mv : Nat} {s : State} (hs : s.Good kt mv) :
    OutGood kt mv (execCoreWake s) := by
  unfold execCoreWake
  repeat'
    first
    | with_reducible assumption | with_reducible apply State.modCore_good | exact outGood_fault
    | exact outGood_refused | with_reducible apply outGood_next | dsimp only | split | (intro _)
    | with_reducible apply good_foldl | simp only [State.good_upd_iff] | simp only [State.good_bootUpd_iff]
    | with_reducible refine good_snd (by assumption) ?_ | with_reducible refine good_fst (by assumption) ?_
    | (simp [*]; done)

@[simp] theorem execStartMessageArrive_good {kt mv : Nat} {s : State} (hs : s.Good kt mv) :
    OutGood kt mv (execStartMessageArrive s) := by
  unfold execStartMessageArrive
  repeat'
    first
    | with_reducible assumption | with_reducible apply State.modCore_good | with_reducible apply State.enqueue_good
    | with_reducible apply State.poke_good | with_reducible apply State.modInst_good
    | with_reducible apply State.pushInst_good | exact outGood_fault | exact outGood_refused
    | with_reducible apply outGood_next | dsimp only | split | (intro _) | with_reducible apply good_foldl
    | simp only [State.good_upd_iff] | simp only [State.good_bootUpd_iff]
    | with_reducible refine good_snd (by assumption) ?_ | with_reducible refine good_fst (by assumption) ?_
    | (simp [*]; done)

@[simp] theorem execTranslationRequest_good {kt mv : Nat} (c : Nat) (p : Prio) (va : Word) {s : State} (hs : s.Good kt mv) :
    OutGood kt mv (execTranslationRequest c p va s) := by
  unfold execTranslationRequest
  repeat'
    first
    | with_reducible assumption | with_reducible apply State.enqueue_good | with_reducible apply State.install_good
    | with_reducible apply State.releaseXl_good | with_reducible apply State.meetAll_good | exact outGood_fault
    | exact outGood_refused | with_reducible apply outGood_next | dsimp only | split | (intro _)
    | with_reducible apply good_foldl | simp only [State.good_upd_iff] | simp only [State.good_bootUpd_iff]
    | with_reducible refine good_snd (by assumption) ?_ | with_reducible refine good_fst (by assumption) ?_
    | (simp [*]; done)

@[simp] theorem execTokenRequest_good {kt mv : Nat} (rq : TokenReq) {s : State} (hs : s.Good kt mv) :
    OutGood kt mv (execTokenRequest rq s) := by
  unfold execTokenRequest
  repeat'
    first
    | with_reducible assumption | with_reducible apply State.later_good
    | with_reducible apply State.startShoot_good | with_reducible apply State.endReq_good | exact outGood_fault
    | exact outGood_refused | with_reducible apply outGood_next | dsimp only | split | (intro _)
    | with_reducible apply good_foldl | simp only [State.good_upd_iff] | simp only [State.good_bootUpd_iff]
    | with_reducible refine good_snd (by assumption) ?_ | with_reducible refine good_fst (by assumption) ?_
    | (simp [*]; done)

@[simp] theorem execShootdownComplete_good {kt mv : Nat} {s : State} (hs : s.Good kt mv) :
    OutGood kt mv (execShootdownComplete s) := by
  unfold execShootdownComplete
  repeat'
    first
    | with_reducible assumption | with_reducible apply State.later_good | with_reducible apply State.endShoot_good
    | with_reducible apply State.fillToken_good | exact outGood_fault | exact outGood_refused
    | with_reducible apply outGood_next | dsimp only | split | (intro _) | with_reducible apply good_foldl
    | simp only [State.good_upd_iff] | simp only [State.good_bootUpd_iff]
    | with_reducible refine good_snd (by assumption) ?_ | with_reducible refine good_fst (by assumption) ?_
    | (simp [*]; done)

@[simp] theorem execAccessArrive_good {kt mv : Nat} {s : State} (hs : s.Good kt mv) :
    OutGood kt mv (execAccessArrive s) := by
  unfold execAccessArrive
  repeat'
    first
    | with_reducible assumption | with_reducible apply State.accessArrive_good | exact outGood_fault
    | exact outGood_refused | with_reducible apply outGood_next | dsimp only | split | (intro _)
    | with_reducible apply good_foldl | simp only [State.good_upd_iff] | simp only [State.good_bootUpd_iff]
    | with_reducible refine good_snd (by assumption) ?_ | with_reducible refine good_fst (by assumption) ?_
    | (simp [*]; done)

@[simp] theorem execLoadReturn_good {kt mv : Nat} {s : State} (hs : s.Good kt mv) :
    OutGood kt mv (execLoadReturn s) := by
  unfold execLoadReturn
  repeat'
    first
    | with_reducible assumption | with_reducible apply State.modBank_good
    | with_reducible apply State.dropAccess_good | with_reducible apply State.giveAnswer_good | exact outGood_fault
    | exact outGood_refused | with_reducible apply outGood_next | dsimp only | split | (intro _)
    | with_reducible apply good_foldl | simp only [State.good_upd_iff] | simp only [State.good_bootUpd_iff]
    | with_reducible refine good_snd (by assumption) ?_ | with_reducible refine good_fst (by assumption) ?_
    | (simp [*]; done)

@[simp] theorem execStoreAck_good {kt mv : Nat} {s : State} (hs : s.Good kt mv) :
    OutGood kt mv (execStoreAck s) := by
  unfold execStoreAck
  repeat'
    first
    | with_reducible assumption | with_reducible apply State.giveAnswer_good | exact outGood_fault
    | exact outGood_refused | with_reducible apply outGood_next | dsimp only | split | (intro _)
    | with_reducible apply good_foldl | simp only [State.good_upd_iff] | simp only [State.good_bootUpd_iff]
    | with_reducible refine good_snd (by assumption) ?_ | with_reducible refine good_fst (by assumption) ?_
    | (simp [*]; done)

@[simp] theorem execRefreshOp_good {kt mv : Nat} {s : State} (hs : s.Good kt mv) :
    OutGood kt mv (execRefreshOp s) := by
  unfold execRefreshOp
  repeat'
    first
    | with_reducible assumption | with_reducible apply State.later_good | with_reducible apply State.setBankst_good
    | exact outGood_fault | exact outGood_refused | with_reducible apply outGood_next | dsimp only | split
    | (intro _) | with_reducible apply good_foldl | simp only [State.good_upd_iff]
    | simp only [State.good_bootUpd_iff] | with_reducible refine good_snd (by assumption) ?_
    | with_reducible refine good_fst (by assumption) ?_ | (simp [*]; done)

@[simp] theorem execRefreshOpEnd_good {kt mv : Nat} {s : State} (hs : s.Good kt mv) :
    OutGood kt mv (execRefreshOpEnd s) := by
  unfold execRefreshOpEnd
  repeat'
    first
    | with_reducible assumption | with_reducible apply State.setBankst_good | exact outGood_fault
    | exact outGood_refused | with_reducible apply outGood_next | dsimp only | split | (intro _)
    | with_reducible apply good_foldl | simp only [State.good_upd_iff] | simp only [State.good_bootUpd_iff]
    | with_reducible refine good_snd (by assumption) ?_ | with_reducible refine good_fst (by assumption) ?_
    | (simp [*]; done)

@[simp] theorem execScrubRead_good {kt mv : Nat} (i blk : Nat) (r : ScrubResult) (last : Bool) {s : State} (hs : s.Good
    kt mv) :
    OutGood kt mv (execScrubRead i blk r last s) := by
  unfold execScrubRead
  repeat'
    first
    | with_reducible assumption | with_reducible apply State.enqueue_good
    | with_reducible apply State.nextScrub_good | with_reducible apply State.scrubbed_good | exact outGood_fault
    | exact outGood_refused | with_reducible apply outGood_next | dsimp only | split | (intro _)
    | with_reducible apply good_foldl | simp only [State.good_upd_iff] | simp only [State.good_bootUpd_iff]
    | with_reducible refine good_snd (by assumption) ?_ | with_reducible refine good_fst (by assumption) ?_
    | (simp [*]; done)

@[simp] theorem execScrubForced_good {kt mv : Nat} (b blk : Nat) (r : ScrubResult) {s : State} (hs : s.Good kt mv) :
    OutGood kt mv (execScrubForced b blk r s) := by
  unfold execScrubForced
  repeat'
    first
    | with_reducible assumption | with_reducible apply State.setBankst_good
    | with_reducible apply State.scrubbed_good | exact outGood_fault | exact outGood_refused
    | with_reducible apply outGood_next | dsimp only | split | (intro _) | with_reducible apply good_foldl
    | simp only [State.good_upd_iff] | simp only [State.good_bootUpd_iff]
    | with_reducible refine good_snd (by assumption) ?_ | with_reducible refine good_fst (by assumption) ?_
    | (simp [*]; done)

@[simp] theorem execSend_good {kt mv : Nat} (a b : Reg) (l : Fin 8) {s : State} (hs : s.Good kt mv) :
    OutGood kt mv (execSend a b l s) := by
  unfold execSend
  repeat'
    first
    | with_reducible assumption | with_reducible apply State.modMe_good | with_reducible apply State.issue_good
    | with_reducible apply State.holdOp_good | with_reducible apply State.trapHere_good
    | with_reducible apply State.sendTry_good | with_reducible apply State.sendAnswered_good | exact outGood_fault
    | exact outGood_refused | with_reducible apply outGood_next | dsimp only | split | (intro _)
    | with_reducible apply good_foldl | simp only [State.good_upd_iff] | simp only [State.good_bootUpd_iff]
    | with_reducible refine good_snd (by assumption) ?_ | with_reducible refine good_fst (by assumption) ?_
    | (simp [*]; done)

@[simp] theorem execSendRetry_good {kt mv : Nat} {s : State} (hs : s.Good kt mv) :
    OutGood kt mv (execSendRetry s) := by
  unfold execSendRetry
  repeat'
    first
    | with_reducible assumption | with_reducible apply State.modBank_good | exact outGood_fault
    | exact outGood_refused | with_reducible apply outGood_next | dsimp only | split | (intro _)
    | with_reducible apply good_foldl | simp only [State.good_upd_iff] | simp only [State.good_bootUpd_iff]
    | with_reducible refine good_snd (by assumption) ?_ | with_reducible refine good_fst (by assumption) ?_
    | (simp [*]; done)

@[simp] theorem execMessageArrive_good {kt mv : Nat} {s : State} (hs : s.Good kt mv) :
    OutGood kt mv (execMessageArrive s) := by
  unfold execMessageArrive
  repeat'
    first
    | with_reducible assumption | with_reducible apply State.enqueue_good | with_reducible apply State.push_good
    | with_reducible apply State.crossing_good | with_reducible apply State.takeMsg_good
    | with_reducible apply State.takeOutbound_good | exact outGood_fault | exact outGood_refused
    | with_reducible apply outGood_next | dsimp only | split | (intro _) | with_reducible apply good_foldl
    | simp only [State.good_upd_iff] | simp only [State.good_bootUpd_iff]
    | with_reducible refine good_snd (by assumption) ?_ | with_reducible refine good_fst (by assumption) ?_
    | (simp [*]; done)

@[simp] theorem execMessageAnswerArrive_good {kt mv : Nat} (c : Nat) (p : Prio) (a : MsgAnswer) {s : State} (hs : s.Good
    kt mv) :
    OutGood kt mv (execMessageAnswerArrive c p a s) := by
  unfold execMessageAnswerArrive
  repeat'
    first
    | with_reducible assumption | with_reducible apply State.modBank_good | with_reducible apply State.poke_good
    | with_reducible apply State.bcastAnswer_good | exact outGood_fault | exact outGood_refused
    | with_reducible apply outGood_next | dsimp only | split | (intro _) | with_reducible apply good_foldl
    | simp only [State.good_upd_iff] | simp only [State.good_bootUpd_iff]
    | with_reducible refine good_snd (by assumption) ?_ | with_reducible refine good_fst (by assumption) ?_
    | (simp [*]; done)

@[simp] theorem execRecv_good {kt mv : Nat} (d a : Reg) (p w : Fin 8) {s : State} (hs : s.Good kt mv) :
    OutGood kt mv (execRecv d a p w s) := by
  unfold execRecv
  repeat'
    first
    | with_reducible assumption | with_reducible apply State.wrC_good | with_reducible apply State.issue_good
    | with_reducible apply State.meet_good | with_reducible apply State.trapHere_good | exact outGood_fault
    | exact outGood_refused | with_reducible apply outGood_next | dsimp only | split | (intro _)
    | with_reducible apply good_foldl | simp only [State.good_upd_iff] | simp only [State.good_bootUpd_iff]
    | with_reducible refine good_snd (by assumption) ?_ | with_reducible refine good_fst (by assumption) ?_
    | (simp [*]; done)

@[simp] theorem execPcnt_good {kt mv : Nat} (d : Reg) (p : Fin 8) {s : State} (hs : s.Good kt mv) :
    OutGood kt mv (execPcnt d p s) := by
  unfold execPcnt
  repeat'
    first
    | with_reducible assumption | with_reducible apply State.wrC_good | with_reducible apply State.issue_good
    | exact outGood_fault | exact outGood_refused | with_reducible apply outGood_next | dsimp only | split
    | (intro _) | with_reducible apply good_foldl | simp only [State.good_upd_iff]
    | simp only [State.good_bootUpd_iff] | with_reducible refine good_snd (by assumption) ?_
    | with_reducible refine good_fst (by assumption) ?_ | (simp [*]; done)

@[simp] theorem execBar_good {kt mv : Nat} (l : Level) {s : State} (hs : s.Good kt mv) :
    OutGood kt mv (execBar l s) := by
  unfold execBar
  repeat'
    first
    | with_reducible assumption | with_reducible apply State.modMe_good | with_reducible apply State.issue_good
    | with_reducible apply State.holdBar_good | with_reducible apply State.arriveBar_good
    | with_reducible apply State.waitBar_good | exact outGood_fault | exact outGood_refused
    | with_reducible apply outGood_next | dsimp only | split | (intro _) | with_reducible apply good_foldl
    | simp only [State.good_upd_iff] | simp only [State.good_bootUpd_iff]
    | with_reducible refine good_snd (by assumption) ?_ | with_reducible refine good_fst (by assumption) ?_
    | (simp [*]; done)

@[simp] theorem execBara_good {kt mv : Nat} (l : Level) {s : State} (hs : s.Good kt mv) :
    OutGood kt mv (execBara l s) := by
  unfold execBara
  repeat'
    first
    | with_reducible assumption | with_reducible apply State.issue_good | with_reducible apply State.arriveBar_good
    | exact outGood_fault | exact outGood_refused | with_reducible apply outGood_next | dsimp only | split
    | (intro _) | with_reducible apply good_foldl | simp only [State.good_upd_iff]
    | simp only [State.good_bootUpd_iff] | with_reducible refine good_snd (by assumption) ?_
    | with_reducible refine good_fst (by assumption) ?_ | (simp [*]; done)

@[simp] theorem execBarw_good {kt mv : Nat} (l : Level) {s : State} (hs : s.Good kt mv) :
    OutGood kt mv (execBarw l s) := by
  unfold execBarw
  repeat'
    first
    | with_reducible assumption | with_reducible apply State.issue_good | with_reducible apply State.waitBar_good
    | exact outGood_fault | exact outGood_refused | with_reducible apply outGood_next | dsimp only | split
    | (intro _) | with_reducible apply good_foldl | simp only [State.good_upd_iff]
    | simp only [State.good_bootUpd_iff] | with_reducible refine good_snd (by assumption) ?_
    | with_reducible refine good_fst (by assumption) ?_ | (simp [*]; done)

@[simp] theorem execBarrierRelease_good {kt mv : Nat} (lv : Level) (lid : W32) (grp : Nat) {s : State} (hs : s.Good kt mv) :
    OutGood kt mv (execBarrierRelease lv lid grp s) := by
  unfold execBarrierRelease
  repeat'
    first
    | with_reducible assumption | with_reducible apply State.modCore_good | with_reducible apply State.later_good
    | exact outGood_fault | exact outGood_refused | with_reducible apply outGood_next | dsimp only | split
    | (intro _) | with_reducible apply good_foldl | simp only [State.good_upd_iff]
    | simp only [State.good_bootUpd_iff] | with_reducible refine good_snd (by assumption) ?_
    | with_reducible refine good_fst (by assumption) ?_ | (simp [*]; done)

@[simp] theorem execBarphWithdraw_good {kt mv : Nat} (c : Nat) (v : Word) {s : State} (hs : s.Good kt mv) :
    OutGood kt mv (execBarphWithdraw c v s) := by
  unfold execBarphWithdraw
  repeat'
    first
    | with_reducible assumption | with_reducible apply State.withdraw_good | exact outGood_fault
    | exact outGood_refused | with_reducible apply outGood_next | dsimp only | split | (intro _)
    | with_reducible apply good_foldl | simp only [State.good_upd_iff] | simp only [State.good_bootUpd_iff]
    | with_reducible refine good_snd (by assumption) ?_ | with_reducible refine good_fst (by assumption) ?_
    | (simp [*]; done)

@[simp] theorem execPodBarrierToken_good {kt mv : Nat} (src : BitVec 12) (lid : W32) {s : State} (hs : s.Good kt mv) :
    OutGood kt mv (execPodBarrierToken src lid s) := by
  unfold execPodBarrierToken
  repeat'
    first
    | with_reducible assumption | with_reducible apply State.podCheck_good | exact outGood_fault
    | exact outGood_refused | with_reducible apply outGood_next | dsimp only | split | (intro _)
    | with_reducible apply good_foldl | simp only [State.good_upd_iff] | simp only [State.good_bootUpd_iff]
    | with_reducible refine good_snd (by assumption) ?_ | with_reducible refine good_fst (by assumption) ?_
    | (simp [*]; done)

@[simp] theorem execBarrierTimeout_good {kt mv : Nat} {s : State} (hs : s.Good kt mv) :
    OutGood kt mv (execBarrierTimeout s) := by
  unfold execBarrierTimeout
  repeat'
    first
    | with_reducible assumption | with_reducible apply State.takeTrap_good | exact outGood_fault
    | exact outGood_refused | with_reducible apply outGood_next | dsimp only | split | (intro _)
    | with_reducible apply good_foldl | simp only [State.good_upd_iff] | simp only [State.good_bootUpd_iff]
    | with_reducible refine good_snd (by assumption) ?_ | with_reducible refine good_fst (by assumption) ?_
    | (simp [*]; done)

@[simp] theorem execCopyDataPhase_good {kt mv : Nat} {s : State} (hs : s.Good kt mv) :
    OutGood kt mv (execCopyDataPhase s) := by
  unfold execCopyDataPhase
  repeat'
    first
    | with_reducible assumption | with_reducible apply State.moveLines_good
    | with_reducible apply State.writeLines_good | with_reducible apply State.nextPhase_good
    | with_reducible apply State.copyOver_good | with_reducible apply State.copyRest_good
    | with_reducible apply State.kickCopies_good | exact outGood_fault | exact outGood_refused
    | with_reducible apply outGood_next | dsimp only | split | (intro _) | with_reducible apply good_foldl
    | simp only [State.good_upd_iff] | simp only [State.good_bootUpd_iff]
    | with_reducible refine good_snd (by assumption) ?_ | with_reducible refine good_fst (by assumption) ?_
    | (simp [*]; done)

@[simp] theorem execCopyCompletionFill_good {kt mv : Nat} {s : State} (hs : s.Good kt mv) :
    OutGood kt mv (execCopyCompletionFill s) := by
  unfold execCopyCompletionFill
  repeat'
    first
    | with_reducible assumption | with_reducible apply State.enqueue_good
    | with_reducible apply State.askDevice_good | with_reducible apply State.follow_good
    | with_reducible apply State.engineAsk_good | with_reducible apply State.modCopy_good
    | with_reducible apply State.endCopy_good | with_reducible apply State.noFill_good | exact outGood_fault
    | exact outGood_refused | with_reducible apply outGood_next | dsimp only | split | (intro _)
    | with_reducible apply good_foldl | simp only [State.good_upd_iff] | simp only [State.good_bootUpd_iff]
    | with_reducible refine good_snd (by assumption) ?_ | with_reducible refine good_fst (by assumption) ?_
    | (simp [*]; done)

@[simp] theorem execCpy_good {kt mv : Nat} (d a b c w : Reg) (mode : CopyMode) (sc : Scope) {s : State} (hs : s.Good kt mv) :
    OutGood kt mv (execCpy d a b c w mode sc s) := by
  unfold execCpy
  repeat'
    first
    | with_reducible assumption | with_reducible apply State.startCopy_good | exact outGood_fault
    | exact outGood_refused | with_reducible apply outGood_next | dsimp only | split | (intro _)
    | with_reducible apply good_foldl | simp only [State.good_upd_iff] | simp only [State.good_bootUpd_iff]
    | with_reducible refine good_snd (by assumption) ?_ | with_reducible refine good_fst (by assumption) ?_
    | (simp [*]; done)

@[simp] theorem execCpy2_good {kt mv : Nat} (d a b c w st : Reg) (mode : CopyMode) (sc : Scope) (esz : Size) (tr : Bool)
    {s : State} (hs : s.Good kt mv) :
    OutGood kt mv (execCpy2 d a b c w st mode sc esz tr s) := by
  unfold execCpy2
  repeat'
    first
    | with_reducible assumption | with_reducible apply State.startCopy_good | exact outGood_fault
    | exact outGood_refused | with_reducible apply outGood_next | dsimp only | split | (intro _)
    | with_reducible apply good_foldl | simp only [State.good_upd_iff] | simp only [State.good_bootUpd_iff]
    | with_reducible refine good_snd (by assumption) ?_ | with_reducible refine good_fst (by assumption) ?_
    | (simp [*]; done)

@[simp] theorem execCpyw_good {kt mv : Nat} (mask : BitVec 8) {s : State} (hs : s.Good kt mv) :
    OutGood kt mv (execCpyw mask s) := by
  unfold execCpyw
  repeat'
    first
    | with_reducible assumption | with_reducible apply State.issue_good | with_reducible apply State.holdOp_good
    | with_reducible apply State.trapHere_good | exact outGood_fault | exact outGood_refused
    | with_reducible apply outGood_next | dsimp only | split | (intro _) | with_reducible apply good_foldl
    | simp only [State.good_upd_iff] | simp only [State.good_bootUpd_iff]
    | with_reducible refine good_snd (by assumption) ?_ | with_reducible refine good_fst (by assumption) ?_
    | (simp [*]; done)

@[simp] theorem execRingPushArrive_good {kt mv : Nat} {s : State} (hs : s.Good kt mv) :
    OutGood kt mv (execRingPushArrive s) := by
  unfold execRingPushArrive
  repeat'
    first
    | with_reducible assumption | with_reducible apply State.enqueue_good | with_reducible apply State.push_good
    | with_reducible apply State.crossing_good | with_reducible apply State.takeOutbound_good
    | with_reducible apply State.takePush_good | exact outGood_fault | exact outGood_refused
    | with_reducible apply outGood_next | dsimp only | split | (intro _) | with_reducible apply good_foldl
    | simp only [State.good_upd_iff] | simp only [State.good_bootUpd_iff]
    | with_reducible refine good_snd (by assumption) ?_ | with_reducible refine good_fst (by assumption) ?_
    | (simp [*]; done)

@[simp] theorem execRpush_good {kt mv : Nat} (h : RingNo) (remote : Bool) (a : Reg) {s : State} (hs : s.Good kt mv) :
    OutGood kt mv (execRpush h remote a s) := by
  unfold execRpush
  repeat'
    first
    | with_reducible assumption | with_reducible apply State.modMe_good | with_reducible apply State.issue_good
    | with_reducible apply State.holdOp_good | with_reducible apply State.trapHere_good
    | with_reducible apply State.pushTry_good | with_reducible apply State.pushAnswered_good | exact outGood_fault
    | exact outGood_refused | with_reducible apply outGood_next | dsimp only | split | (intro _)
    | with_reducible apply good_foldl | simp only [State.good_upd_iff] | simp only [State.good_bootUpd_iff]
    | with_reducible refine good_snd (by assumption) ?_ | with_reducible refine good_fst (by assumption) ?_
    | (simp [*]; done)

@[simp] theorem execRcfg_good {kt mv : Nat} (h : RingNo) (a b : Reg) {s : State} (hs : s.Good kt mv) :
    OutGood kt mv (execRcfg h a b s) := by
  unfold execRcfg
  repeat'
    first
    | with_reducible assumption | with_reducible apply State.issue_good | with_reducible apply State.trapHere_good
    | with_reducible apply State.modRing_good | exact outGood_fault | exact outGood_refused
    | with_reducible apply outGood_next | dsimp only | split | (intro _) | with_reducible apply good_foldl
    | simp only [State.good_upd_iff] | simp only [State.good_bootUpd_iff]
    | with_reducible refine good_snd (by assumption) ?_ | with_reducible refine good_fst (by assumption) ?_
    | (simp [*]; done)

@[simp] theorem execRpop_good {kt mv : Nat} (h : RingNo) (d : Reg) {s : State} (hs : s.Good kt mv) :
    OutGood kt mv (execRpop h d s) := by
  unfold execRpop
  repeat'
    first
    | with_reducible assumption | with_reducible apply State.wrC_good | with_reducible apply State.issue_good
    | with_reducible apply State.trapHere_good | with_reducible apply State.modRing_good
    | with_reducible apply State.slot_good | exact outGood_fault | exact outGood_refused
    | with_reducible apply outGood_next | dsimp only | split | (intro _) | with_reducible apply good_foldl
    | simp only [State.good_upd_iff] | simp only [State.good_bootUpd_iff]
    | with_reducible refine good_snd (by assumption) ?_ | with_reducible refine good_fst (by assumption) ?_
    | (simp [*]; done)

@[simp] theorem execRwait_good {kt mv : Nat} (h : RingNo) (n : BitVec 6) (cond : RingCond) {s : State} (hs : s.Good kt mv) :
    OutGood kt mv (execRwait h n cond s) := by
  unfold execRwait
  repeat'
    first
    | with_reducible assumption | with_reducible apply State.issue_good | with_reducible apply State.holdOp_good
    | with_reducible apply State.trapHere_good | exact outGood_fault | exact outGood_refused
    | with_reducible apply outGood_next | dsimp only | split | (intro _) | with_reducible apply good_foldl
    | simp only [State.good_upd_iff] | simp only [State.good_bootUpd_iff]
    | with_reducible refine good_snd (by assumption) ?_ | with_reducible refine good_fst (by assumption) ?_
    | (simp [*]; done)

@[simp] theorem execRfree_good {kt mv : Nat} (h : RingNo) (n : BitVec 6) {s : State} (hs : s.Good kt mv) :
    OutGood kt mv (execRfree h n s) := by
  unfold execRfree
  repeat'
    first
    | with_reducible assumption | with_reducible apply State.issue_good | with_reducible apply State.trapHere_good
    | with_reducible apply State.freeSlots_good | exact outGood_fault | exact outGood_refused
    | with_reducible apply outGood_next | dsimp only | split | (intro _) | with_reducible apply good_foldl
    | simp only [State.good_upd_iff] | simp only [State.good_bootUpd_iff]
    | with_reducible refine good_snd (by assumption) ?_ | with_reducible refine good_fst (by assumption) ?_
    | (simp [*]; done)

@[simp] theorem execRingSlotFreed_good {kt mv : Nat} {s : State} (hs : s.Good kt mv) :
    OutGood kt mv (execRingSlotFreed s) := by
  unfold execRingSlotFreed
  repeat'
    first
    | with_reducible assumption | with_reducible apply State.enqueue_good
    | with_reducible apply State.emptyReach_good | with_reducible apply State.emptyWords_good
    | with_reducible apply State.slotFree_good | exact outGood_fault | exact outGood_refused
    | with_reducible apply outGood_next | dsimp only | split | (intro _) | with_reducible apply good_foldl
    | simp only [State.good_upd_iff] | simp only [State.good_bootUpd_iff]
    | with_reducible refine good_snd (by assumption) ?_ | with_reducible refine good_fst (by assumption) ?_
    | (simp [*]; done)

@[simp] theorem execRq_good {kt mv : Nat} (h : RingNo) (d : Reg) (sel : Fin 5) {s : State} (hs : s.Good kt mv) :
    OutGood kt mv (execRq h d sel s) := by
  unfold execRq
  repeat'
    first
    | with_reducible assumption | with_reducible apply State.wrC_good | with_reducible apply State.issue_good
    | with_reducible apply State.trapHere_good | exact outGood_fault | exact outGood_refused
    | with_reducible apply outGood_next | dsimp only | split | (intro _) | with_reducible apply good_foldl
    | simp only [State.good_upd_iff] | simp only [State.good_bootUpd_iff]
    | with_reducible refine good_snd (by assumption) ?_ | with_reducible refine good_fst (by assumption) ?_
    | (simp [*]; done)

@[simp] theorem execAcmp_good {kt mv : Nat} (dt : Tag) (mask : Option Tag) (op : TagOp) (key : KeySrc) (f : Field) {s :
    State} (hs : s.Good kt mv) :
    OutGood kt mv (execAcmp dt mask op key f s) := by
  unfold execAcmp
  repeat'
    first
    | with_reducible assumption | with_reducible apply State.modMine_good | with_reducible apply State.onePass_good
    | exact outGood_fault | exact outGood_refused | with_reducible apply outGood_next | dsimp only | split
    | (intro _) | with_reducible apply good_foldl | simp only [State.good_upd_iff]
    | simp only [State.good_bootUpd_iff] | with_reducible refine good_snd (by assumption) ?_
    | with_reducible refine good_fst (by assumption) ?_ | (simp [*]; done)

@[simp] theorem execAwrt_good {kt mv : Nat} (mask : Option Tag) (f : Field) (v : BitVec 17) {s : State} (hs : s.Good kt mv) :
    OutGood kt mv (execAwrt mask f v s) := by
  unfold execAwrt
  repeat'
    first
    | with_reducible assumption | with_reducible apply State.writeRows_good | exact outGood_fault
    | exact outGood_refused | with_reducible apply outGood_next | dsimp only | split | (intro _)
    | with_reducible apply good_foldl | simp only [State.good_upd_iff] | simp only [State.good_bootUpd_iff]
    | with_reducible refine good_snd (by assumption) ?_ | with_reducible refine good_fst (by assumption) ?_
    | (simp [*]; done)

@[simp] theorem execAscw_good {kt mv : Nat} (mask : Option Tag) (a : Reg) (f : Field) {s : State} (hs : s.Good kt mv) :
    OutGood kt mv (execAscw mask a f s) := by
  unfold execAscw
  repeat'
    first
    | with_reducible assumption | with_reducible apply State.writeRows_good | exact outGood_fault
    | exact outGood_refused | with_reducible apply outGood_next | dsimp only | split | (intro _)
    | with_reducible apply good_foldl | simp only [State.good_upd_iff] | simp only [State.good_bootUpd_iff]
    | with_reducible refine good_snd (by assumption) ?_ | with_reducible refine good_fst (by assumption) ?_
    | (simp [*]; done)

@[simp] theorem execAbnd_good {kt mv : Nat} (dt : Tag) (a b : Reg) {s : State} (hs : s.Good kt mv) :
    OutGood kt mv (execAbnd dt a b s) := by
  unfold execAbnd
  repeat'
    first
    | with_reducible assumption | with_reducible apply State.modMine_good | with_reducible apply State.onePass_good
    | exact outGood_fault | exact outGood_refused | with_reducible apply outGood_next | dsimp only | split
    | (intro _) | with_reducible apply good_foldl | simp only [State.good_upd_iff]
    | simp only [State.good_bootUpd_iff] | with_reducible refine good_snd (by assumption) ?_
    | with_reducible refine good_fst (by assumption) ?_ | (simp [*]; done)

@[simp] theorem execAtag_good {kt mv : Nat} (dt ta tb : Tag) (fn : BitVec 4) {s : State} (hs : s.Good kt mv) :
    OutGood kt mv (execAtag dt ta tb fn s) := by
  unfold execAtag
  repeat'
    first
    | with_reducible assumption | with_reducible apply State.modMine_good | with_reducible apply State.onePass_good
    | exact outGood_fault | exact outGood_refused | with_reducible apply outGood_next | dsimp only | split
    | (intro _) | with_reducible apply good_foldl | simp only [State.good_upd_iff]
    | simp only [State.good_bootUpd_iff] | with_reducible refine good_snd (by assumption) ?_
    | with_reducible refine good_fst (by assumption) ?_ | (simp [*]; done)

@[simp] theorem execAfst_good {kt mv : Nat} (d : Reg) (ta : Tag) (clr : Bool) {s : State} (hs : s.Good kt mv) :
    OutGood kt mv (execAfst d ta clr s) := by
  unfold execAfst
  repeat'
    first
    | with_reducible assumption | with_reducible apply State.modMine_good | with_reducible apply State.wrC_good
    | with_reducible apply State.onePass_good | exact outGood_fault | exact outGood_refused
    | with_reducible apply outGood_next | dsimp only | split | (intro _) | with_reducible apply good_foldl
    | simp only [State.good_upd_iff] | simp only [State.good_bootUpd_iff]
    | with_reducible refine good_snd (by assumption) ?_ | with_reducible refine good_fst (by assumption) ?_
    | (simp [*]; done)

@[simp] theorem execArd_good {kt mv : Nat} (d a : Reg) (sg : Bool) (f : Field) {s : State} (hs : s.Good kt mv) :
    OutGood kt mv (execArd d a sg f s) := by
  unfold execArd
  repeat'
    first
    | with_reducible assumption | with_reducible apply State.wrC_good | with_reducible apply State.onePass_good
    | exact outGood_fault | exact outGood_refused | with_reducible apply outGood_next | dsimp only | split
    | (intro _) | with_reducible apply good_foldl | simp only [State.good_upd_iff]
    | simp only [State.good_bootUpd_iff] | with_reducible refine good_snd (by assumption) ?_
    | with_reducible refine good_fst (by assumption) ?_ | (simp [*]; done)

@[simp] theorem execAwr_good {kt mv : Nat} (a b : Reg) (f : Field) {s : State} (hs : s.Good kt mv) :
    OutGood kt mv (execAwr a b f s) := by
  unfold execAwr
  repeat'
    first
    | with_reducible assumption | with_reducible apply State.modMine_good | with_reducible apply State.onePass_good
    | exact outGood_fault | exact outGood_refused | with_reducible apply outGood_next | dsimp only | split
    | (intro _) | with_reducible apply good_foldl | simp only [State.good_upd_iff]
    | simp only [State.good_bootUpd_iff] | with_reducible refine good_snd (by assumption) ?_
    | with_reducible refine good_fst (by assumption) ?_ | (simp [*]; done)

@[simp] theorem execArws_good {kt mv : Nat} (d : Reg) {s : State} (hs : s.Good kt mv) :
    OutGood kt mv (execArws d s) := by
  unfold execArws
  repeat'
    first
    | with_reducible assumption | with_reducible apply State.wrC_good | with_reducible apply State.onePass_good
    | exact outGood_fault | exact outGood_refused | with_reducible apply outGood_next | dsimp only | split
    | (intro _) | with_reducible apply good_foldl | simp only [State.good_upd_iff]
    | simp only [State.good_bootUpd_iff] | with_reducible refine good_snd (by assumption) ?_
    | with_reducible refine good_fst (by assumption) ?_ | (simp [*]; done)

@[simp] theorem execAcnt_good {kt mv : Nat} (d : Reg) (ta : Tag) {s : State} (hs : s.Good kt mv) :
    OutGood kt mv (execAcnt d ta s) := by
  unfold execAcnt
  repeat'
    first
    | with_reducible assumption | with_reducible apply State.wrC_good | with_reducible apply State.hold_good
    | with_reducible apply State.passes_good | exact outGood_fault | exact outGood_refused
    | with_reducible apply outGood_next | dsimp only | split | (intro _) | with_reducible apply good_foldl
    | simp only [State.good_upd_iff] | simp only [State.good_bootUpd_iff]
    | with_reducible refine good_snd (by assumption) ?_ | with_reducible refine good_fst (by assumption) ?_
    | (simp [*]; done)

@[simp] theorem execArsum_good {kt mv : Nat} (d : Reg) (mask : Option Tag) (sg : Bool) (f : Field) {s : State} (hs :
    s.Good kt mv) :
    OutGood kt mv (execArsum d mask sg f s) := by
  unfold execArsum
  repeat'
    first
    | with_reducible assumption | with_reducible apply State.wrC_good | with_reducible apply State.hold_good
    | with_reducible apply State.passes_good | exact outGood_fault | exact outGood_refused
    | with_reducible apply outGood_next | dsimp only | split | (intro _) | with_reducible apply good_foldl
    | simp only [State.good_upd_iff] | simp only [State.good_bootUpd_iff]
    | with_reducible refine good_snd (by assumption) ?_ | with_reducible refine good_fst (by assumption) ?_
    | (simp [*]; done)

@[simp] theorem execAseq_good {kt mv : Nat} (code : SeqCode) (mask : Option Tag) (dt : Tag) (sr : Reg) (w1m1 w2m1 :
    BitVec 4) (doff aoff boff : BitVec 9) {s : State} (hs : s.Good kt mv) :
    OutGood kt mv (execAseq code mask dt sr w1m1 w2m1 doff aoff boff s) := by
  unfold execAseq
  repeat'
    first
    | with_reducible assumption | with_reducible apply State.modMine_good | with_reducible apply State.hold_good
    | with_reducible apply State.passes_good | exact outGood_fault | exact outGood_refused
    | with_reducible apply outGood_next | dsimp only | split | (intro _) | with_reducible apply good_foldl
    | simp only [State.good_upd_iff] | simp only [State.good_bootUpd_iff]
    | with_reducible refine good_snd (by assumption) ?_ | with_reducible refine good_fst (by assumption) ?_
    | (simp [*]; done)

@[simp] theorem execAusq_good {kt mv : Nat} (start : BitVec 8) (doff aoff boff : BitVec 9) {s : State} (hs : s.Good kt mv) :
    OutGood kt mv (execAusq start doff aoff boff s) := by
  unfold execAusq
  repeat'
    first
    | with_reducible assumption | with_reducible apply State.hold_good | with_reducible apply State.trapHere_good
    | with_reducible apply State.userPass_good | exact outGood_fault | exact outGood_refused
    | with_reducible apply outGood_next | dsimp only | split | (intro _) | with_reducible apply good_foldl
    | simp only [State.good_upd_iff] | simp only [State.good_bootUpd_iff]
    | with_reducible refine good_snd (by assumption) ?_ | with_reducible refine good_fst (by assumption) ?_
    | (simp [*]; done)

@[simp] theorem execAsql_good {kt mv : Nat} (a : Reg) {s : State} (hs : s.Good kt mv) :
    OutGood kt mv (execAsql a s) := by
  unfold execAsql
  repeat'
    first
    | with_reducible assumption | with_reducible apply State.modMine_good | with_reducible apply State.hold_good
    | with_reducible apply State.trapHere_good | with_reducible apply State.readWords_good
    | with_reducible apply State.parityTrap_good | with_reducible apply State.issueArray_good | exact outGood_fault
    | exact outGood_refused | with_reducible apply outGood_next | dsimp only | split | (intro _)
    | with_reducible apply good_foldl | simp only [State.good_upd_iff] | simp only [State.good_bootUpd_iff]
    | with_reducible refine good_snd (by assumption) ?_ | with_reducible refine good_fst (by assumption) ?_
    | (simp [*]; done)

@[simp] theorem execAfldWrite_good {kt mv : Nat} (c : Nat) (v : Word) {s : State} (hs : s.Good kt mv) :
    OutGood kt mv (execAfldWrite c v s) := by
  unfold execAfldWrite
  repeat'
    first
    | with_reducible assumption | with_reducible apply State.modCore_good | exact outGood_fault
    | exact outGood_refused | with_reducible apply outGood_next | dsimp only | split | (intro _)
    | with_reducible apply good_foldl | simp only [State.good_upd_iff] | simp only [State.good_bootUpd_iff]
    | with_reducible refine good_snd (by assumption) ?_ | with_reducible refine good_fst (by assumption) ?_
    | (simp [*]; done)

@[simp] theorem execAstepWrite_good {kt mv : Nat} (c : Nat) (v : Word) {s : State} (hs : s.Good kt mv) :
    OutGood kt mv (execAstepWrite c v s) := by
  unfold execAstepWrite
  repeat'
    first
    | with_reducible assumption | with_reducible apply State.setStep_good | exact outGood_fault
    | exact outGood_refused | with_reducible apply outGood_next | dsimp only | split | (intro _)
    | with_reducible apply good_foldl | simp only [State.good_upd_iff] | simp only [State.good_bootUpd_iff]
    | with_reducible refine good_snd (by assumption) ?_ | with_reducible refine good_fst (by assumption) ?_
    | (simp [*]; done)

@[simp] theorem execArrayLastPass_good {kt mv : Nat} {s : State} (hs : s.Good kt mv) :
    OutGood kt mv (execArrayLastPass s) := by
  unfold execArrayLastPass
  repeat'
    first
    | with_reducible assumption | with_reducible apply State.modBank_good
    | with_reducible apply State.endTrace_good | exact outGood_fault | exact outGood_refused
    | with_reducible apply outGood_next | dsimp only | split | (intro _) | with_reducible apply good_foldl
    | simp only [State.good_upd_iff] | simp only [State.good_bootUpd_iff]
    | with_reducible refine good_snd (by assumption) ?_ | with_reducible refine good_fst (by assumption) ?_
    | (simp [*]; done)

@[simp] theorem execAtrc_good {kt mv : Nat} (sr : Reg) {s : State} (hs : s.Good kt mv) :
    OutGood kt mv (execAtrc sr s) := by
  unfold execAtrc
  repeat'
    first
    | with_reducible assumption | with_reducible apply State.modMe_good | with_reducible apply State.hold_good
    | with_reducible apply State.holdOp_good | with_reducible apply State.trapHere_good
    | with_reducible apply State.issueArray_good | with_reducible apply State.passTrap_good
    | with_reducible apply State.beginTrace_good | exact outGood_fault | exact outGood_refused
    | with_reducible apply outGood_next | dsimp only | split | (intro _) | with_reducible apply good_foldl
    | simp only [State.good_upd_iff] | simp only [State.good_bootUpd_iff]
    | with_reducible refine good_snd (by assumption) ?_ | with_reducible refine good_fst (by assumption) ?_
    | (simp [*]; done)

@[simp] theorem execArwd_good {kt mv : Nat} (a : Reg) {s : State} (hs : s.Good kt mv) :
    OutGood kt mv (execArwd a s) := by
  unfold execArwd
  repeat'
    first
    | with_reducible assumption | with_reducible apply State.modMine_good | with_reducible apply State.holdOp_good
    | with_reducible apply State.passes_good | exact outGood_fault | exact outGood_refused
    | with_reducible apply outGood_next | dsimp only | split | (intro _) | with_reducible apply good_foldl
    | simp only [State.good_upd_iff] | simp only [State.good_bootUpd_iff]
    | with_reducible refine good_snd (by assumption) ?_ | with_reducible refine good_fst (by assumption) ?_
    | (simp [*]; done)

@[simp] theorem execRewardApplyStart_good {kt mv : Nat} {s : State} (hs : s.Good kt mv) :
    OutGood kt mv (execRewardApplyStart s) := by
  unfold execRewardApplyStart
  repeat'
    first
    | with_reducible assumption | with_reducible apply State.modCore_good
    | with_reducible apply State.enqueueLast_good | with_reducible apply State.runApply_good | exact outGood_fault
    | exact outGood_refused | with_reducible apply outGood_next | dsimp only | split | (intro _)
    | with_reducible apply good_foldl | simp only [State.good_upd_iff] | simp only [State.good_bootUpd_iff]
    | with_reducible refine good_snd (by assumption) ?_ | with_reducible refine good_fst (by assumption) ?_
    | (simp [*]; done)

@[simp] theorem execRewardApplyDone_good {kt mv : Nat} {s : State} (hs : s.Good kt mv) :
    OutGood kt mv (execRewardApplyDone s) := by
  unfold execRewardApplyDone
  repeat'
    first
    | with_reducible assumption | with_reducible apply State.modCore_good
    | with_reducible apply State.seeAgain_good | with_reducible apply State.pokeApply_good | exact outGood_fault
    | exact outGood_refused | with_reducible apply outGood_next | dsimp only | split | (intro _)
    | with_reducible apply good_foldl | simp only [State.good_upd_iff] | simp only [State.good_bootUpd_iff]
    | with_reducible refine good_snd (by assumption) ?_ | with_reducible refine good_fst (by assumption) ?_
    | (simp [*]; done)

@[simp] theorem execRbc_good {kt mv : Nat} (a b : Reg) (sc : Scope) {s : State} (hs : s.Good kt mv) :
    OutGood kt mv (execRbc a b sc s) := by
  unfold execRbc
  repeat'
    first
    | with_reducible assumption | with_reducible apply State.bcastIns_good | exact outGood_fault
    | exact outGood_refused | with_reducible apply outGood_next | dsimp only | split | (intro _)
    | with_reducible apply good_foldl | simp only [State.good_upd_iff] | simp only [State.good_bootUpd_iff]
    | with_reducible refine good_snd (by assumption) ?_ | with_reducible refine good_fst (by assumption) ?_
    | (simp [*]; done)

@[simp] theorem execRclr_good {kt mv : Nat} (b : Reg) (sc : Scope) {s : State} (hs : s.Good kt mv) :
    OutGood kt mv (execRclr b sc s) := by
  unfold execRclr
  repeat'
    first
    | with_reducible assumption | with_reducible apply State.bcastIns_good | exact outGood_fault
    | exact outGood_refused | with_reducible apply outGood_next | dsimp only | split | (intro _)
    | with_reducible apply good_foldl | simp only [State.good_upd_iff] | simp only [State.good_bootUpd_iff]
    | with_reducible refine good_snd (by assumption) ?_ | with_reducible refine good_fst (by assumption) ?_
    | (simp [*]; done)

@[simp] theorem execRewardBroadcastArrive_good {kt mv : Nat} {s : State} (hs : s.Good kt mv) :
    OutGood kt mv (execRewardBroadcastArrive s) := by
  unfold execRewardBroadcastArrive
  repeat'
    first
    | with_reducible assumption | with_reducible apply State.enqueue_good
    | with_reducible apply State.bcastAnswer_good | with_reducible apply State.takeBcast_good | exact outGood_fault
    | exact outGood_refused | with_reducible apply outGood_next | dsimp only | split | (intro _)
    | with_reducible apply good_foldl | simp only [State.good_upd_iff] | simp only [State.good_bootUpd_iff]
    | with_reducible refine good_snd (by assumption) ?_ | with_reducible refine good_fst (by assumption) ?_
    | (simp [*]; done)

@[simp] theorem execBroadcastRetry_good {kt mv : Nat} {s : State} (hs : s.Good kt mv) :
    OutGood kt mv (execBroadcastRetry s) := by
  unfold execBroadcastRetry
  repeat'
    first
    | with_reducible assumption | with_reducible apply State.sendBcast_good | exact outGood_fault
    | exact outGood_refused | with_reducible apply outGood_next | dsimp only | split | (intro _)
    | with_reducible apply good_foldl | simp only [State.good_upd_iff] | simp only [State.good_bootUpd_iff]
    | with_reducible refine good_snd (by assumption) ?_ | with_reducible refine good_fst (by assumption) ?_
    | (simp [*]; done)

@[simp] theorem execFoldJoinComplete_good {kt mv : Nat} {s : State} (hs : s.Good kt mv) :
    OutGood kt mv (execFoldJoinComplete s) := by
  unfold execFoldJoinComplete
  repeat'
    first
    | with_reducible assumption | with_reducible apply State.joinFails_good
    | with_reducible apply State.commitFold_good | exact outGood_fault | exact outGood_refused
    | with_reducible apply outGood_next | dsimp only | split | (intro _) | with_reducible apply good_foldl
    | simp only [State.good_upd_iff] | simp only [State.good_bootUpd_iff]
    | with_reducible refine good_snd (by assumption) ?_ | with_reducible refine good_fst (by assumption) ?_
    | (simp [*]; done)

@[simp] theorem execMfold_good {kt mv : Nat} (acc : Acc) (fmt : FoldFmt) (home : Fin 4) (ra rb : RingNo) (solo pin :
    Bool) (nkm1 : BitVec 8) {s : State} (hs : s.Good kt mv) :
    OutGood kt mv (execMfold acc fmt home ra rb solo pin nkm1 s) := by
  unfold execMfold
  repeat'
    first
    | with_reducible assumption | with_reducible apply State.trapHere_good
    | with_reducible apply State.checkJoin_good | with_reducible apply State.commitFold_good
    | with_reducible apply State.holdJoin_good | with_reducible apply State.issuePlaced_good | exact outGood_fault
    | exact outGood_refused | with_reducible apply outGood_next | dsimp only | split | (intro _)
    | with_reducible apply good_foldl | simp only [State.good_upd_iff] | simp only [State.good_bootUpd_iff]
    | with_reducible refine good_snd (by assumption) ?_ | with_reducible refine good_fst (by assumption) ?_
    | (simp [*]; done)

@[simp] theorem execFoldOpStart_good {kt mv : Nat} {s : State} (hs : s.Good kt mv) :
    OutGood kt mv (execFoldOpStart s) := by
  unfold execFoldOpStart
  repeat'
    first
    | with_reducible assumption | with_reducible apply State.modCore_good
    | with_reducible apply State.enqueueLast_good | with_reducible apply State.modFold_good
    | with_reducible apply State.endFold_good | exact outGood_fault | exact outGood_refused
    | with_reducible apply outGood_next | dsimp only | split | (intro _) | with_reducible apply good_foldl
    | simp only [State.good_upd_iff] | simp only [State.good_bootUpd_iff]
    | with_reducible refine good_snd (by assumption) ?_ | with_reducible refine good_fst (by assumption) ?_
    | (simp [*]; done)

@[simp] theorem execFoldRoundEnd_good {kt mv : Nat} {s : State} (hs : s.Good kt mv) :
    OutGood kt mv (execFoldRoundEnd s) := by
  unfold execFoldRoundEnd
  repeat'
    first
    | with_reducible assumption | with_reducible apply State.roundStep_good
    | with_reducible apply State.atBoundary_good | with_reducible apply State.takeSlots_good
    | with_reducible apply State.closeRound_good | exact outGood_fault | exact outGood_refused
    | with_reducible apply outGood_next | dsimp only | split | (intro _) | with_reducible apply good_foldl
    | simp only [State.good_upd_iff] | simp only [State.good_bootUpd_iff]
    | with_reducible refine good_snd (by assumption) ?_ | with_reducible refine good_fst (by assumption) ?_
    | (simp [*]; done)

@[simp] theorem execFoldOpComplete_good {kt mv : Nat} {s : State} (hs : s.Good kt mv) :
    OutGood kt mv (execFoldOpComplete s) := by
  unfold execFoldOpComplete
  repeat'
    first
    | with_reducible assumption | with_reducible apply State.poke_good | with_reducible apply State.restIdle_good
    | with_reducible apply State.kick_good | with_reducible apply State.takePlace_good
    | with_reducible apply State.devFlush_good | with_reducible apply State.devLog_good
    | with_reducible apply State.foldMember_good | exact outGood_fault | exact outGood_refused
    | with_reducible apply outGood_next | dsimp only | split | (intro _) | with_reducible apply good_foldl
    | simp only [State.good_upd_iff] | simp only [State.good_bootUpd_iff]
    | with_reducible refine good_snd (by assumption) ?_ | with_reducible refine good_fst (by assumption) ?_
    | (simp [*]; done)

@[simp] theorem execMzero_good {kt mv : Nat} (acc : Acc) {s : State} (hs : s.Good kt mv) :
    OutGood kt mv (execMzero acc s) := by
  unfold execMzero
  repeat'
    first
    | with_reducible assumption | with_reducible apply State.queueItem_good | exact outGood_fault
    | exact outGood_refused | with_reducible apply outGood_next | dsimp only | split | (intro _)
    | with_reducible apply good_foldl | simp only [State.good_upd_iff] | simp only [State.good_bootUpd_iff]
    | with_reducible refine good_snd (by assumption) ?_ | with_reducible refine good_fst (by assumption) ?_
    | (simp [*]; done)

@[simp] theorem execMwid_good {kt mv : Nat} (acc : Acc) (fmt : WidFmt) (a b : Reg) {s : State} (hs : s.Good kt mv) :
    OutGood kt mv (execMwid acc fmt a b s) := by
  unfold execMwid
  repeat'
    first
    | with_reducible assumption | with_reducible apply State.trapHere_good
    | with_reducible apply State.queueItem_good | exact outGood_fault | exact outGood_refused
    | with_reducible apply outGood_next | dsimp only | split | (intro _) | with_reducible apply good_foldl
    | simp only [State.good_upd_iff] | simp only [State.good_bootUpd_iff]
    | with_reducible refine good_snd (by assumption) ?_ | with_reducible refine good_fst (by assumption) ?_
    | (simp [*]; done)

@[simp] theorem execMnar_good {kt mv : Nat} (acc : Acc) (fmt : NarFmt) (rm : Rm) (a b c : Reg) (arr : Option (BitVec 9))
    {s : State} (hs : s.Good kt mv) :
    OutGood kt mv (execMnar acc fmt rm a b c arr s) := by
  unfold execMnar
  repeat'
    first
    | with_reducible assumption | with_reducible apply State.trapHere_good
    | with_reducible apply State.queueItem_good | exact outGood_fault | exact outGood_refused
    | with_reducible apply outGood_next | dsimp only | split | (intro _) | with_reducible apply good_foldl
    | simp only [State.good_upd_iff] | simp only [State.good_bootUpd_iff]
    | with_reducible refine good_snd (by assumption) ?_ | with_reducible refine good_fst (by assumption) ?_
    | (simp [*]; done)

@[simp] theorem execAccOpComplete_good {kt mv : Nat} {s : State} (hs : s.Good kt mv) :
    OutGood kt mv (execAccOpComplete s) := by
  unfold execAccOpComplete
  repeat'
    first
    | with_reducible assumption | with_reducible apply State.modCore_good | with_reducible apply State.enqueue_good
    | with_reducible apply State.enqueueFirst_good | with_reducible apply State.bumpFree_good
    | with_reducible apply State.countUncorr_good | with_reducible apply State.poke_good
    | with_reducible apply State.dropGroup_good | with_reducible apply State.popQueue_good
    | with_reducible apply State.failItem_good | with_reducible apply State.readElems_good
    | with_reducible apply State.rowStoresAll_good | with_reducible apply State.rowReach_good
    | with_reducible apply State.narHalted_good | exact outGood_fault | exact outGood_refused
    | with_reducible apply outGood_next | dsimp only | split | (intro _) | with_reducible apply good_foldl
    | simp only [State.good_upd_iff] | simp only [State.good_bootUpd_iff]
    | with_reducible refine good_snd (by assumption) ?_ | with_reducible refine good_fst (by assumption) ?_
    | (simp [*]; done)

@[simp] theorem execMrec_good {kt mv : Nat} (acc : Acc) (d : Reg) {s : State} (hs : s.Good kt mv) :
    OutGood kt mv (execMrec acc d s) := by
  unfold execMrec
  repeat'
    first
    | with_reducible assumption | with_reducible apply State.wrC_good | with_reducible apply State.issue_good
    | with_reducible apply State.holdOp_good | with_reducible apply State.anchor_good
    | with_reducible apply State.recTrap_good | exact outGood_fault | exact outGood_refused
    | with_reducible apply outGood_next | dsimp only | split | (intro _) | with_reducible apply good_foldl
    | simp only [State.good_upd_iff] | simp only [State.good_bootUpd_iff]
    | with_reducible refine good_snd (by assumption) ?_ | with_reducible refine good_fst (by assumption) ?_
    | (simp [*]; done)

@[simp] theorem execMwait_good {kt mv : Nat} (mask : BitVec 4) {s : State} (hs : s.Good kt mv) :
    OutGood kt mv (execMwait mask s) := by
  unfold execMwait
  repeat'
    first
    | with_reducible assumption | with_reducible apply State.issue_good | with_reducible apply State.holdOp_good
    | with_reducible apply State.anchor_good | with_reducible apply State.failTrap_good | exact outGood_fault
    | exact outGood_refused | with_reducible apply outGood_next | dsimp only | split | (intro _)
    | with_reducible apply good_foldl | simp only [State.good_upd_iff] | simp only [State.good_bootUpd_iff]
    | with_reducible refine good_snd (by assumption) ?_ | with_reducible refine good_fst (by assumption) ?_
    | (simp [*]; done)

@[simp] theorem execMq_good {kt mv : Nat} (d : Reg) {s : State} (hs : s.Good kt mv) :
    OutGood kt mv (execMq d s) := by
  unfold execMq
  repeat'
    first
    | with_reducible assumption | with_reducible apply State.wrC_good | with_reducible apply State.issue_good
    | with_reducible apply State.anchor_good | exact outGood_fault | exact outGood_refused
    | with_reducible apply outGood_next | dsimp only | split | (intro _) | with_reducible apply good_foldl
    | simp only [State.good_upd_iff] | simp only [State.good_bootUpd_iff]
    | with_reducible refine good_snd (by assumption) ?_ | with_reducible refine good_fst (by assumption) ?_
    | (simp [*]; done)

@[simp] theorem execFenceE_good {kt mv : Nat} {s : State} (hs : s.Good kt mv) :
    OutGood kt mv (execFenceE s) := by
  unfold execFenceE
  repeat'
    first
    | with_reducible assumption | with_reducible apply State.issue_good | with_reducible apply State.holdOp_good
    | with_reducible apply State.trapHere_good | with_reducible apply State.failTrap_good | exact outGood_fault
    | exact outGood_refused | with_reducible apply outGood_next | dsimp only | split | (intro _)
    | with_reducible apply good_foldl | simp only [State.good_upd_iff] | simp only [State.good_bootUpd_iff]
    | with_reducible refine good_snd (by assumption) ?_ | with_reducible refine good_fst (by assumption) ?_
    | (simp [*]; done)

@[simp] theorem execLaunchComplete_good {kt mv : Nat} (lid : W32) {s : State} (hs : s.Good kt mv) :
    OutGood kt mv (execLaunchComplete lid s) := by
  unfold execLaunchComplete
  repeat'
    first
    | with_reducible assumption | with_reducible apply State.poke_good | with_reducible apply State.complete_good
    | exact outGood_fault | exact outGood_refused | with_reducible apply outGood_next | dsimp only | split
    | (intro _) | with_reducible apply good_foldl | simp only [State.good_upd_iff]
    | simp only [State.good_bootUpd_iff] | with_reducible refine good_snd (by assumption) ?_
    | with_reducible refine good_fst (by assumption) ?_ | (simp [*]; done)

@[simp] theorem execCancel_good {kt mv : Nat} (l : Nat) (lid : W32) {s : State} (hs : s.Good kt mv) :
    OutGood kt mv (execCancel l lid s) := by
  unfold execCancel
  repeat'
    first
    | with_reducible assumption | with_reducible apply State.cancelLaunch_good | exact outGood_fault
    | exact outGood_refused | with_reducible apply outGood_next | dsimp only | split | (intro _)
    | with_reducible apply good_foldl | simp only [State.good_upd_iff] | simp only [State.good_bootUpd_iff]
    | with_reducible refine good_snd (by assumption) ?_ | with_reducible refine good_fst (by assumption) ?_
    | (simp [*]; done)

@[simp] theorem execCancelCoresFreed_good {kt mv : Nat} (lid : W32) {s : State} (hs : s.Good kt mv) :
    OutGood kt mv (execCancelCoresFreed lid s) := by
  unfold execCancelCoresFreed
  repeat'
    first
    | with_reducible assumption | with_reducible apply State.later_good | with_reducible apply State.complete_good
    | exact outGood_fault | exact outGood_refused | with_reducible apply outGood_next | dsimp only | split
    | (intro _) | with_reducible apply good_foldl | simp only [State.good_upd_iff]
    | simp only [State.good_bootUpd_iff] | with_reducible refine good_snd (by assumption) ?_
    | with_reducible refine good_fst (by assumption) ?_ | (simp [*]; done)

@[simp] theorem execPreemptSave_good {kt mv : Nat} (lid : W32) {s : State} (hs : s.Good kt mv) :
    OutGood kt mv (execPreemptSave lid s) := by
  unfold execPreemptSave
  repeat'
    first
    | with_reducible assumption | with_reducible apply State.later_good | with_reducible apply State.modLaunch_good
    | with_reducible apply State.pokeStarts_good | with_reducible apply State.pokeSweeps_good
    | with_reducible apply State.trapAsync_good | with_reducible apply State.unreserve_good
    | with_reducible apply State.saveCore_good | exact outGood_fault | exact outGood_refused
    | with_reducible apply outGood_next | dsimp only | split | (intro _) | with_reducible apply good_foldl
    | simp only [State.good_upd_iff] | simp only [State.good_bootUpd_iff]
    | with_reducible refine good_snd (by assumption) ?_ | with_reducible refine good_fst (by assumption) ?_
    | (simp [*]; done)

@[simp] theorem execLaunchStart_good {kt mv : Nat} (lid : W32) {s : State} (hs : s.Good kt mv) :
    OutGood kt mv (execLaunchStart lid s) := by
  unfold execLaunchStart
  repeat'
    first
    | with_reducible assumption | with_reducible apply State.modLaunch_good
    | with_reducible apply State.endUnrun_good | with_reducible apply State.startGraph_good
    | with_reducible apply State.startSweep_good | with_reducible apply State.growSweep_good
    | with_reducible apply State.release_good | with_reducible apply State.replaceInsts_good | exact outGood_fault
    | exact outGood_refused | with_reducible apply outGood_next | dsimp only | split | (intro _)
    | with_reducible apply good_foldl | simp only [State.good_upd_iff] | simp only [State.good_bootUpd_iff]
    | with_reducible refine good_snd (by assumption) ?_ | with_reducible refine good_fst (by assumption) ?_
    | (simp [*]; done)

@[simp] theorem execGrainClaim_good {kt mv : Nat} {s : State} (hs : s.Good kt mv) :
    OutGood kt mv (execGrainClaim s) := by
  unfold execGrainClaim
  repeat'
    first
    | with_reducible assumption | with_reducible apply State.modCore_good
    | with_reducible apply State.modLaunch_good | with_reducible apply State.pushInst_good
    | with_reducible apply State.checkPhases_good | with_reducible apply State.askBlock_good | exact outGood_fault
    | exact outGood_refused | with_reducible apply outGood_next | dsimp only | split | (intro _)
    | with_reducible apply good_foldl | simp only [State.good_upd_iff] | simp only [State.good_bootUpd_iff]
    | with_reducible refine good_snd (by assumption) ?_ | with_reducible refine good_fst (by assumption) ?_
    | (simp [*]; done)

@[simp] theorem execGrainBlockClaim_good {kt mv : Nat} (lid : W32) (level : GrainLevel) {s : State} (hs : s.Good kt mv) :
    OutGood kt mv (execGrainBlockClaim lid level s) := by
  unfold execGrainBlockClaim
  repeat'
    first
    | with_reducible assumption | with_reducible apply State.claimLayer_good
    | with_reducible apply State.claimTower_good | exact outGood_fault | exact outGood_refused
    | with_reducible apply outGood_next | dsimp only | split | (intro _) | with_reducible apply good_foldl
    | simp only [State.good_upd_iff] | simp only [State.good_bootUpd_iff]
    | with_reducible refine good_snd (by assumption) ?_ | with_reducible refine good_fst (by assumption) ?_
    | (simp [*]; done)

@[simp] theorem execGrainReportBatch_good {kt mv : Nat} (lid : W32) (level : GrainLevel) {s : State} (hs : s.Good kt mv) :
    OutGood kt mv (execGrainReportBatch lid level s) := by
  unfold execGrainReportBatch
  repeat'
    first
    | with_reducible assumption | with_reducible apply State.later_good | with_reducible apply State.modLaunch_good
    | with_reducible apply State.poke_good | with_reducible apply State.report_good | exact outGood_fault
    | exact outGood_refused | with_reducible apply outGood_next | dsimp only | split | (intro _)
    | with_reducible apply good_foldl | simp only [State.good_upd_iff] | simp only [State.good_bootUpd_iff]
    | with_reducible refine good_snd (by assumption) ?_ | with_reducible refine good_fst (by assumption) ?_
    | (simp [*]; done)

@[simp] theorem execMasterElectionDone_good {kt mv : Nat} {s : State} (hs : s.Good kt mv) :
    OutGood kt mv (execMasterElectionDone s) := by
  unfold execMasterElectionDone
  repeat'
    first
    | with_reducible assumption | with_reducible apply State.later_good
    | with_reducible apply State.pokeStarts_good | with_reducible apply State.pokeQueues_good
    | with_reducible apply State.pokeSweeps_good | with_reducible apply State.askCores_good | exact outGood_fault
    | exact outGood_refused | with_reducible apply outGood_next | dsimp only | split | (intro _)
    | with_reducible apply good_foldl | simp only [State.good_upd_iff] | simp only [State.good_bootUpd_iff]
    | with_reducible refine good_snd (by assumption) ?_ | with_reducible refine good_fst (by assumption) ?_
    | (simp [*]; done)

@[simp] theorem execLaunchResume_good {kt mv : Nat} (lid : W32) {s : State} (hs : s.Good kt mv) :
    OutGood kt mv (execLaunchResume lid s) := by
  unfold execLaunchResume
  repeat'
    first
    | with_reducible assumption | with_reducible apply State.later_good | with_reducible apply State.modLaunch_good
    | with_reducible apply State.poke_good | with_reducible apply State.pokeStarts_good
    | with_reducible apply State.dropGroup_good | with_reducible apply State.checkPhases_good
    | with_reducible apply State.pokeSweeps_good | with_reducible apply State.againOnce_good
    | with_reducible apply State.retake_good | with_reducible apply State.loseShare_good
    | with_reducible apply State.fenceFolds_good | with_reducible apply State.readSlots_good
    | with_reducible apply State.restoreCores_good | with_reducible apply State.findLost_good
    | with_reducible apply State.restartCore_good | with_reducible apply State.restartFolds_good
    | with_reducible apply State.restartParked_good | exact outGood_fault | exact outGood_refused
    | with_reducible apply outGood_next | dsimp only | split | (intro _) | with_reducible apply good_foldl
    | simp only [State.good_upd_iff] | simp only [State.good_bootUpd_iff]
    | with_reducible refine good_snd (by assumption) ?_ | with_reducible refine good_fst (by assumption) ?_
    | (simp [*]; done)

@[simp] theorem execRecordAccept_good {kt mv : Nat} (l q : Nat) {s : State} (hs : s.Good kt mv) :
    OutGood kt mv (execRecordAccept l q s) := by
  unfold execRecordAccept
  repeat'
    first
    | with_reducible assumption | with_reducible apply State.pokeQueue_good
    | with_reducible apply State.slotMet_good | with_reducible apply State.slotDone_good
    | with_reducible apply State.badRecord_good | with_reducible apply State.enter_good | exact outGood_fault
    | exact outGood_refused | with_reducible apply outGood_next | dsimp only | split | (intro _)
    | with_reducible apply good_foldl | simp only [State.good_upd_iff] | simp only [State.good_bootUpd_iff]
    | with_reducible refine good_snd (by assumption) ?_ | with_reducible refine good_fst (by assumption) ?_
    | (simp [*]; done)

@[simp] theorem execPageMoveRequest_good {kt mv : Nat} (l q : Nat) {s : State} (hs : s.Good kt mv) :
    OutGood kt mv (execPageMoveRequest l q s) := by
  unfold execPageMoveRequest
  repeat'
    first
    | with_reducible assumption | with_reducible apply State.later_good | with_reducible apply State.delayed_good
    | with_reducible apply State.pokeQueue_good | with_reducible apply State.moveResult_good
    | with_reducible apply State.countDropped_good | with_reducible apply State.slotMet_good
    | with_reducible apply State.slotDone_good | exact outGood_fault | exact outGood_refused
    | with_reducible apply outGood_next | dsimp only | split | (intro _) | with_reducible apply good_foldl
    | simp only [State.good_upd_iff] | simp only [State.good_bootUpd_iff]
    | with_reducible refine good_snd (by assumption) ?_ | with_reducible refine good_fst (by assumption) ?_
    | (simp [*]; done)

@[simp] theorem execQctlWrite_good {kt mv : Nat} (l q : Nat) (v : Word) {s : State} (hs : s.Good kt mv) :
    OutGood kt mv (execQctlWrite l q v s) := by
  unfold execQctlWrite
  repeat'
    first
    | with_reducible assumption | with_reducible apply State.modLink_good
    | with_reducible apply State.pokeQueue_good | exact outGood_fault | exact outGood_refused
    | with_reducible apply outGood_next | dsimp only | split | (intro _) | with_reducible apply good_foldl
    | simp only [State.good_upd_iff] | simp only [State.good_bootUpd_iff]
    | with_reducible refine good_snd (by assumption) ?_ | with_reducible refine good_fst (by assumption) ?_
    | (simp [*]; done)

@[simp] theorem execFunctionLevelReset_good {kt mv : Nat} {s : State} (hs : s.Good kt mv) :
    OutGood kt mv (execFunctionLevelReset s) := by
  unfold execFunctionLevelReset
  repeat'
    first
    | with_reducible assumption | with_reducible apply State.modLink_good
    | with_reducible apply State.cancelLaunch_good | exact outGood_fault | exact outGood_refused
    | with_reducible apply outGood_next | dsimp only | split | (intro _) | with_reducible apply good_foldl
    | simp only [State.good_upd_iff] | simp only [State.good_bootUpd_iff]
    | with_reducible refine good_snd (by assumption) ?_ | with_reducible refine good_fst (by assumption) ?_
    | (simp [*]; done)

@[simp] theorem execPcieLinkDown_good {kt mv : Nat} (l : Nat) (up : Bool) {s : State} (hs : s.Good kt mv) :
    OutGood kt mv (execPcieLinkDown l up s) := by
  unfold execPcieLinkDown
  repeat'
    first
    | with_reducible assumption | with_reducible apply State.modLink_good | exact outGood_fault
    | exact outGood_refused | with_reducible apply outGood_next | dsimp only | split | (intro _)
    | with_reducible apply good_foldl | simp only [State.good_upd_iff] | simp only [State.good_bootUpd_iff]
    | with_reducible refine good_snd (by assumption) ?_ | with_reducible refine good_fst (by assumption) ?_
    | (simp [*]; done)

@[simp] theorem execHostApertureWrite_good {kt mv : Nat} (l off : Nat) (data : List Byte) {s : State} (hs : s.Good kt mv) :
    OutGood kt mv (execHostApertureWrite l off data s) := by
  unfold execHostApertureWrite
  repeat'
    first
    | with_reducible assumption | with_reducible apply State.tlp_good
    | with_reducible apply State.countDropped_good | with_reducible apply State.post_good
    | with_reducible apply State.hostAgain_good | with_reducible apply State.hostStand_good
    | with_reducible apply State.hostPerform_good | exact outGood_fault | exact outGood_refused
    | with_reducible apply outGood_next | dsimp only | split | (intro _) | with_reducible apply good_foldl
    | simp only [State.good_upd_iff] | simp only [State.good_bootUpd_iff]
    | with_reducible refine good_snd (by assumption) ?_ | with_reducible refine good_fst (by assumption) ?_
    | (simp [*]; done)

@[simp] theorem execHostApertureRead_good {kt mv : Nat} (l off : Nat) (rq : HostReq) {s : State} (hs : s.Good kt mv) :
    OutGood kt mv (execHostApertureRead l off rq s) := by
  unfold execHostApertureRead
  repeat'
    first
    | with_reducible assumption | with_reducible apply State.hostSend_good
    | with_reducible apply State.hostAgain_good | with_reducible apply State.hostNumber_good
    | with_reducible apply State.aperRead_good | exact outGood_fault | exact outGood_refused
    | with_reducible apply outGood_next | dsimp only | split | (intro _) | with_reducible apply good_foldl
    | simp only [State.good_upd_iff] | simp only [State.good_bootUpd_iff]
    | with_reducible refine good_snd (by assumption) ?_ | with_reducible refine good_fst (by assumption) ?_
    | (simp [*]; done)

@[simp] theorem execHostFillWrite_good {kt mv : Nat} (l off : Nat) (data : List Byte) {s : State} (hs : s.Good kt mv) :
    OutGood kt mv (execHostFillWrite l off data s) := by
  unfold execHostFillWrite
  repeat'
    first
    | with_reducible assumption | with_reducible apply State.feWrite_good | exact outGood_fault
    | exact outGood_refused | with_reducible apply outGood_next | dsimp only | split | (intro _)
    | with_reducible apply good_foldl | simp only [State.good_upd_iff] | simp only [State.good_bootUpd_iff]
    | with_reducible refine good_snd (by assumption) ?_ | with_reducible refine good_fst (by assumption) ?_
    | (simp [*]; done)

@[simp] theorem execHostEmptyWrite_good {kt mv : Nat} (l off : Nat) (data : List Byte) {s : State} (hs : s.Good kt mv) :
    OutGood kt mv (execHostEmptyWrite l off data s) := by
  unfold execHostEmptyWrite
  repeat'
    first
    | with_reducible assumption | with_reducible apply State.feWrite_good | exact outGood_fault
    | exact outGood_refused | with_reducible apply outGood_next | dsimp only | split | (intro _)
    | with_reducible apply good_foldl | simp only [State.good_upd_iff] | simp only [State.good_bootUpd_iff]
    | with_reducible refine good_snd (by assumption) ?_ | with_reducible refine good_fst (by assumption) ?_
    | (simp [*]; done)

@[simp] theorem execHostFillRead_good {kt mv : Nat} (l off : Nat) {s : State} (hs : s.Good kt mv) :
    OutGood kt mv (execHostFillRead l off s) := by
  unfold execHostFillRead
  repeat'
    first
    | with_reducible assumption | with_reducible apply State.feRead_good | exact outGood_fault
    | exact outGood_refused | with_reducible apply outGood_next | dsimp only | split | (intro _)
    | with_reducible apply good_foldl | simp only [State.good_upd_iff] | simp only [State.good_bootUpd_iff]
    | with_reducible refine good_snd (by assumption) ?_ | with_reducible refine good_fst (by assumption) ?_
    | (simp [*]; done)

@[simp] theorem execHostStateRead_good {kt mv : Nat} (l off : Nat) {s : State} (hs : s.Good kt mv) :
    OutGood kt mv (execHostStateRead l off s) := by
  unfold execHostStateRead
  repeat'
    first
    | with_reducible assumption | with_reducible apply State.feRead_good | exact outGood_fault
    | exact outGood_refused | with_reducible apply outGood_next | dsimp only | split | (intro _)
    | with_reducible apply good_foldl | simp only [State.good_upd_iff] | simp only [State.good_bootUpd_iff]
    | with_reducible refine good_snd (by assumption) ?_ | with_reducible refine good_fst (by assumption) ?_
    | (simp [*]; done)

@[simp] theorem execRegisterWrite_good {kt mv : Nat} (w : RegWin) (off : Nat) (v : Word) {s : State} (hs : s.Good kt mv) :
    OutGood kt mv (execRegisterWrite w off v s) := by
  unfold execRegisterWrite
  repeat'
    first
    | with_reducible assumption | with_reducible apply State.modLink_good
    | with_reducible apply State.ctlWrite_good | with_reducible apply State.linkWrite_good
    | with_reducible apply State.tlp_good | with_reducible apply State.onLink_good | exact outGood_fault
    | exact outGood_refused | with_reducible apply outGood_next | dsimp only | split | (intro _)
    | with_reducible apply good_foldl | simp only [State.good_upd_iff] | simp only [State.good_bootUpd_iff]
    | with_reducible refine good_snd (by assumption) ?_ | with_reducible refine good_fst (by assumption) ?_
    | (simp [*]; done)

@[simp] theorem execSensorSample_good {kt mv : Nat} (j : Nat) (temp : BitVec 16) {s : State} (hs : s.Good kt mv) :
    OutGood kt mv (execSensorSample j temp s) := by
  unfold execSensorSample
  repeat'
    first
    | with_reducible assumption | with_reducible apply State.nextSample_good
    | with_reducible apply State.sample_good | exact outGood_fault | exact outGood_refused
    | with_reducible apply outGood_next | dsimp only | split | (intro _) | with_reducible apply good_foldl
    | simp only [State.good_upd_iff] | simp only [State.good_bootUpd_iff]
    | with_reducible refine good_snd (by assumption) ?_ | with_reducible refine good_fst (by assumption) ?_
    | (simp [*]; done)

@[simp] theorem execAllowanceWindowBoundary_good {kt mv : Nat} (meas : BitVec 16) {s : State} (hs : s.Good kt mv) :
    OutGood kt mv (execAllowanceWindowBoundary meas s) := by
  unfold execAllowanceWindowBoundary
  repeat'
    first
    | with_reducible assumption | with_reducible apply State.enqueueFirst_good
    | with_reducible apply State.bumpFree_good | with_reducible apply State.modLayer_good
    | with_reducible apply State.watchUsage_good | exact outGood_fault | exact outGood_refused
    | with_reducible apply outGood_next | dsimp only | split | (intro _) | with_reducible apply good_foldl
    | simp only [State.good_upd_iff] | simp only [State.good_bootUpd_iff]
    | with_reducible refine good_snd (by assumption) ?_ | with_reducible refine good_fst (by assumption) ?_
    | (simp [*]; done)

@[simp] theorem execAllowanceOverrun_good {kt mv : Nat} {s : State} (hs : s.Good kt mv) :
    OutGood kt mv (execAllowanceOverrun s) := by
  unfold execAllowanceOverrun
  repeat'
    first
    | with_reducible assumption | with_reducible apply State.modLayer_good | exact outGood_fault
    | exact outGood_refused | with_reducible apply outGood_next | dsimp only | split | (intro _)
    | with_reducible apply good_foldl | simp only [State.good_upd_iff] | simp only [State.good_bootUpd_iff]
    | with_reducible refine good_snd (by assumption) ?_ | with_reducible refine good_fst (by assumption) ?_
    | (simp [*]; done)

@[simp] theorem execLaneFailing_good {kt mv : Nat} (path lane : Nat) {s : State} (hs : s.Good kt mv) :
    OutGood kt mv (execLaneFailing path lane s) := by
  unfold execLaneFailing
  repeat'
    first
    | with_reducible assumption | with_reducible apply State.laneFails_good | exact outGood_fault
    | exact outGood_refused | with_reducible apply outGood_next | dsimp only | split | (intro _)
    | with_reducible apply good_foldl | simp only [State.good_upd_iff] | simp only [State.good_bootUpd_iff]
    | with_reducible refine good_snd (by assumption) ?_ | with_reducible refine good_fst (by assumption) ?_
    | (simp [*]; done)

@[simp] theorem execLaneMarginTest_good {kt mv : Nat} (path : Nat) (bad : List Nat) {s : State} (hs : s.Good kt mv) :
    OutGood kt mv (execLaneMarginTest path bad s) := by
  unfold execLaneMarginTest
  repeat'
    first
    | with_reducible assumption | with_reducible apply State.enqueue_good | with_reducible apply State.heard_good
    | with_reducible apply State.laneFails_good | with_reducible apply State.nextMargin_good | exact outGood_fault
    | exact outGood_refused | with_reducible apply outGood_next | dsimp only | split | (intro _)
    | with_reducible apply good_foldl | simp only [State.good_upd_iff] | simp only [State.good_bootUpd_iff]
    | with_reducible refine good_snd (by assumption) ?_ | with_reducible refine good_fst (by assumption) ?_
    | (simp [*]; done)

@[simp] theorem execLaneSpareSwap_good {kt mv : Nat} {s : State} (hs : s.Good kt mv) :
    OutGood kt mv (execLaneSpareSwap s) := by
  unfold execLaneSpareSwap
  repeat'
    first
    | with_reducible assumption | with_reducible apply State.later_good | with_reducible apply State.setPath_good
    | exact outGood_fault | exact outGood_refused | with_reducible apply outGood_next | dsimp only | split
    | (intro _) | with_reducible apply good_foldl | simp only [State.good_upd_iff]
    | simp only [State.good_bootUpd_iff] | with_reducible refine good_snd (by assumption) ?_
    | with_reducible refine good_fst (by assumption) ?_ | (simp [*]; done)

@[simp] theorem execLaneRepairRelease_good {kt mv : Nat} {s : State} (hs : s.Good kt mv) :
    OutGood kt mv (execLaneRepairRelease s) := by
  unfold execLaneRepairRelease
  repeat'
    first
    | with_reducible assumption | with_reducible apply State.setPath_good
    | with_reducible apply State.repairPath_good | exact outGood_fault | exact outGood_refused
    | with_reducible apply outGood_next | dsimp only | split | (intro _) | with_reducible apply good_foldl
    | simp only [State.good_upd_iff] | simp only [State.good_bootUpd_iff]
    | with_reducible refine good_snd (by assumption) ?_ | with_reducible refine good_fst (by assumption) ?_
    | (simp [*]; done)

@[simp] theorem execRailRise_good {kt mv : Nat} (readable : Bool) {s : State} (hs : s.Good kt mv) :
    OutGood kt mv (execRailRise readable s) := by
  unfold execRailRise
  repeat'
    first
    | with_reducible assumption | with_reducible apply State.rise_good | exact outGood_fault
    | exact outGood_refused | with_reducible apply outGood_next | dsimp only | split | (intro _)
    | with_reducible apply good_foldl | simp only [State.good_upd_iff] | simp only [State.good_bootUpd_iff]
    | with_reducible refine good_snd (by assumption) ?_ | with_reducible refine good_fst (by assumption) ?_
    | (simp [*]; done)

@[simp] theorem execSelfRailRemoval_good {kt mv : Nat} {s : State} (hs : s.Good kt mv) :
    OutGood kt mv (execSelfRailRemoval s) := by
  unfold execSelfRailRemoval
  repeat'
    first
    | with_reducible assumption | with_reducible apply State.later_good | with_reducible apply State.delayed_good
    | with_reducible apply State.powerOff_good | exact outGood_fault | exact outGood_refused
    | with_reducible apply outGood_next | dsimp only | split | (intro _) | with_reducible apply good_foldl
    | simp only [State.good_upd_iff] | simp only [State.good_bootUpd_iff]
    | with_reducible refine good_snd (by assumption) ?_ | with_reducible refine good_fst (by assumption) ?_
    | (simp [*]; done)

@[simp] theorem execBoardRailRemoval_good {kt mv : Nat} {s : State} (hs : s.Good kt mv) :
    OutGood kt mv (execBoardRailRemoval s) := by
  unfold execBoardRailRemoval
  repeat'
    first
    | with_reducible assumption | with_reducible apply State.powerOff_good | exact outGood_fault
    | exact outGood_refused | with_reducible apply outGood_next | dsimp only | split | (intro _)
    | with_reducible apply good_foldl | simp only [State.good_upd_iff] | simp only [State.good_bootUpd_iff]
    | with_reducible refine good_snd (by assumption) ?_ | with_reducible refine good_fst (by assumption) ?_
    | (simp [*]; done)

@[simp] theorem execStartRetry_good {kt mv : Nat} {s : State} (hs : s.Good kt mv) :
    OutGood kt mv (execStartRetry s) := by
  unfold execStartRetry
  repeat'
    first
    | with_reducible assumption | with_reducible apply State.rise_good | exact outGood_fault
    | exact outGood_refused | with_reducible apply outGood_next | dsimp only | split | (intro _)
    | with_reducible apply good_foldl | simp only [State.good_upd_iff] | simp only [State.good_bootUpd_iff]
    | with_reducible refine good_snd (by assumption) ?_ | with_reducible refine good_fst (by assumption) ?_
    | (simp [*]; done)

@[simp] theorem execStageTimeout_good {kt mv : Nat} {s : State} (hs : s.Good kt mv) :
    OutGood kt mv (execStageTimeout s) := by
  unfold execStageTimeout
  repeat'
    first
    | with_reducible assumption | with_reducible apply State.failStart_good | exact outGood_fault
    | exact outGood_refused | with_reducible apply outGood_next | dsimp only | split | (intro _)
    | with_reducible apply good_foldl | simp only [State.good_upd_iff] | simp only [State.good_bootUpd_iff]
    | with_reducible refine good_snd (by assumption) ?_ | with_reducible refine good_fst (by assumption) ?_
    | (simp [*]; done)

@[simp] theorem execDoeFirmwareImage_good {kt mv : Nat} (slot : Bool) (img : FwImage) {s : State} (hs : s.Good kt mv) :
    OutGood kt mv (execDoeFirmwareImage slot img s) := by
  unfold execDoeFirmwareImage
  apply outGood_next
  split
  · have hv := Nat.le_trans hs.version (Start.raise_ge s.boot img)
    dsimp only
    split <;> exact ⟨⟨hs.mem.bytes, hs.mem.empties, hs.mem.poison, hs.mem.wpoison⟩, hs.tick, hv⟩
  · exact hs

@[simp] theorem execStageComplete_good {kt mv : Nat} (r : StageResult) {s : State} (hs : s.Good kt mv) :
    OutGood kt mv (execStageComplete r s) := by
  unfold execStageComplete
  repeat'
    first
    | with_reducible assumption | with_reducible apply State.failStart_good
    | with_reducible apply State.fenceStart_good | with_reducible apply State.endStage_good
    | with_reducible apply State.goOn_good | exact outGood_fault | exact outGood_refused
    | with_reducible apply outGood_next | dsimp only | split | (intro _) | with_reducible apply good_foldl
    | simp only [State.good_upd_iff] | simp only [State.good_bootUpd_iff]
    | with_reducible refine good_snd (by assumption) ?_ | with_reducible refine good_fst (by assumption) ?_
    | (simp [*]; done)

@[simp] theorem execStartCtlCold_good {kt mv : Nat} {s : State} (hs : s.Good kt mv) :
    OutGood kt mv (execStartCtlCold s) := by
  unfold execStartCtlCold
  repeat'
    first
    | with_reducible assumption | with_reducible apply State.goDown_good
    | with_reducible apply State.modStatus_good | exact outGood_fault | exact outGood_refused
    | with_reducible apply outGood_next | dsimp only | split | (intro _) | with_reducible apply good_foldl
    | simp only [State.good_upd_iff] | simp only [State.good_bootUpd_iff]
    | with_reducible refine good_snd (by assumption) ?_ | with_reducible refine good_fst (by assumption) ?_
    | (simp [*]; done)

@[simp] theorem execStartCtlWarm_good {kt mv : Nat} {s : State} (hs : s.Good kt mv) :
    OutGood kt mv (execStartCtlWarm s) := by
  unfold execStartCtlWarm
  repeat'
    first
    | with_reducible assumption | with_reducible apply State.modLink_good | with_reducible apply State.expire_good
    | with_reducible apply State.loseAll_good | with_reducible apply State.modStatus_good
    | with_reducible apply State.beginStage_good | exact outGood_fault | exact outGood_refused
    | with_reducible apply outGood_next | dsimp only | split | (intro _) | with_reducible apply good_foldl
    | simp only [State.good_upd_iff] | simp only [State.good_bootUpd_iff]
    | with_reducible refine good_snd (by assumption) ?_ | with_reducible refine good_fst (by assumption) ?_
    | (simp [*]; done)

@[simp] theorem execDoeAttestationRequest_good {kt mv : Nat} {s : State} (hs : s.Good kt mv) :
    OutGood kt mv (execDoeAttestationRequest s) := by
  unfold execDoeAttestationRequest
  repeat'
    first
    | with_reducible assumption | with_reducible apply State.setCode_good | exact outGood_fault
    | exact outGood_refused | with_reducible apply outGood_next | dsimp only | split | (intro _)
    | with_reducible apply good_foldl | simp only [State.good_upd_iff] | simp only [State.good_bootUpd_iff]
    | with_reducible refine good_snd (by assumption) ?_ | with_reducible refine good_fst (by assumption) ?_
    | (simp [*]; done)

@[simp] theorem execOutboundQueueSend_good {kt mv : Nat} {s : State} (hs : s.Good kt mv) :
    OutGood kt mv (execOutboundQueueSend s) := by
  unfold execOutboundQueueSend
  repeat'
    first
    | with_reducible assumption | with_reducible apply State.modSpan_good | exact outGood_fault
    | exact outGood_refused | with_reducible apply outGood_next | dsimp only | split | (intro _)
    | with_reducible apply good_foldl | simp only [State.good_upd_iff] | simp only [State.good_bootUpd_iff]
    | with_reducible refine good_snd (by assumption) ?_ | with_reducible refine good_fst (by assumption) ?_
    | (simp [*]; done)

@[simp] theorem execLinkDown_good {kt mv : Nat} {s : State} (hs : s.Good kt mv) :
    OutGood kt mv (execLinkDown s) := by
  unfold execLinkDown
  repeat'
    first
    | with_reducible assumption | with_reducible apply State.modSpan_good | with_reducible apply State.sendOut_good
    | exact outGood_fault | exact outGood_refused | with_reducible apply outGood_next | dsimp only | split
    | (intro _) | with_reducible apply good_foldl | simp only [State.good_upd_iff]
    | simp only [State.good_bootUpd_iff] | with_reducible refine good_snd (by assumption) ?_
    | with_reducible refine good_fst (by assumption) ?_ | (simp [*]; done)

@[simp] theorem execLinkRetrainDone_good {kt mv : Nat} {s : State} (hs : s.Good kt mv) :
    OutGood kt mv (execLinkRetrainDone s) := by
  unfold execLinkRetrainDone
  repeat'
    first
    | with_reducible assumption | with_reducible apply State.later_good | with_reducible apply State.modSpan_good
    | with_reducible apply State.resend_good | exact outGood_fault | exact outGood_refused
    | with_reducible apply outGood_next | dsimp only | split | (intro _) | with_reducible apply good_foldl
    | simp only [State.good_upd_iff] | simp only [State.good_bootUpd_iff]
    | with_reducible refine good_snd (by assumption) ?_ | with_reducible refine good_fst (by assumption) ?_
    | (simp [*]; done)

@[simp] theorem execLinkResend_good {kt mv : Nat} {s : State} (hs : s.Good kt mv) :
    OutGood kt mv (execLinkResend s) := by
  unfold execLinkResend
  repeat'
    first
    | with_reducible assumption | with_reducible apply State.modSpan_good | with_reducible apply State.sendOut_good
    | with_reducible apply State.sendHeld_good | exact outGood_fault | exact outGood_refused
    | with_reducible apply outGood_next | dsimp only | split | (intro _) | with_reducible apply good_foldl
    | simp only [State.good_upd_iff] | simp only [State.good_bootUpd_iff]
    | with_reducible refine good_snd (by assumption) ?_ | with_reducible refine good_fst (by assumption) ?_
    | (simp [*]; done)

@[simp] theorem execRemoteMessagePresent_good {kt mv : Nat} (l : Nat) (p : Packet) {s : State} (hs : s.Good kt mv) :
    OutGood kt mv (execRemoteMessagePresent l p s) := by
  unfold execRemoteMessagePresent
  repeat'
    first
    | with_reducible assumption | with_reducible apply State.presentHead_good | exact outGood_fault
    | exact outGood_refused | with_reducible apply outGood_next | dsimp only | split | (intro _)
    | with_reducible apply good_foldl | simp only [State.good_upd_iff] | simp only [State.good_bootUpd_iff]
    | with_reducible refine good_snd (by assumption) ?_ | with_reducible refine good_fst (by assumption) ?_
    | (simp [*]; done)

@[simp] theorem execRemotePresentRetry_good {kt mv : Nat} {s : State} (hs : s.Good kt mv) :
    OutGood kt mv (execRemotePresentRetry s) := by
  unfold execRemotePresentRetry
  repeat'
    first
    | with_reducible assumption | with_reducible apply State.presentHead_good | exact outGood_fault
    | exact outGood_refused | with_reducible apply outGood_next | dsimp only | split | (intro _)
    | with_reducible apply good_foldl | simp only [State.good_upd_iff] | simp only [State.good_bootUpd_iff]
    | with_reducible refine good_snd (by assumption) ?_ | with_reducible refine good_fst (by assumption) ?_
    | (simp [*]; done)

@[simp] theorem execRemoteAccessArrive_good {kt mv : Nat} (src : BitVec 12) (rid : Nat) (op : AccOp) (pa : Nat) (tr :
    Bool) {s : State} (hs : s.Good kt mv) :
    OutGood kt mv (execRemoteAccessArrive src rid op pa tr s) := by
  unfold execRemoteAccessArrive
  repeat'
    first
    | with_reducible assumption | with_reducible apply State.enqueueFirst_good
    | with_reducible apply State.atPlace_good | with_reducible apply State.call_good
    | with_reducible apply State.toSpan_good | exact outGood_fault | exact outGood_refused
    | with_reducible apply outGood_next | dsimp only | split | (intro _) | with_reducible apply good_foldl
    | simp only [State.good_upd_iff] | simp only [State.good_bootUpd_iff]
    | with_reducible refine good_snd (by assumption) ?_ | with_reducible refine good_fst (by assumption) ?_
    | (simp [*]; done)

@[simp] theorem execRemoteWakeNotice_good {kt mv : Nat} {s : State} (hs : s.Good kt mv) :
    OutGood kt mv (execRemoteWakeNotice s) := by
  unfold execRemoteWakeNotice
  repeat'
    first
    | with_reducible assumption | with_reducible apply State.toSpan_good | exact outGood_fault
    | exact outGood_refused | with_reducible apply outGood_next | dsimp only | split | (intro _)
    | with_reducible apply good_foldl | simp only [State.good_upd_iff] | simp only [State.good_bootUpd_iff]
    | with_reducible refine good_snd (by assumption) ?_ | with_reducible refine good_fst (by assumption) ?_
    | (simp [*]; done)

@[simp] theorem execFlitReceive_good {kt mv : Nat} (l : Nat) (f : Flit) {s : State} (hs : s.Good kt mv) :
    OutGood kt mv (execFlitReceive l f s) := by
  unfold execFlitReceive
  repeat'
    first
    | with_reducible assumption | with_reducible apply State.later_good | with_reducible apply State.modSpan_good
    | with_reducible apply State.flitFails_good | with_reducible apply State.flitHeader_good
    | with_reducible apply State.flitPacket_good | with_reducible apply State.slot_good | exact outGood_fault
    | exact outGood_refused | with_reducible apply outGood_next | dsimp only | split | (intro _)
    | with_reducible apply good_foldl | simp only [State.good_upd_iff] | simp only [State.good_bootUpd_iff]
    | with_reducible refine good_snd (by assumption) ?_ | with_reducible refine good_fst (by assumption) ?_
    | (simp [*]; done)

@[simp] theorem execSpanIdSet_good {kt mv : Nat} (v : Word) {s : State} (hs : s.Good kt mv) :
    OutGood kt mv (execSpanIdSet v s) := by
  unfold execSpanIdSet
  repeat'
    first
    | with_reducible assumption | exact outGood_fault | exact outGood_refused | with_reducible apply outGood_next
    | dsimp only | split | (intro _) | with_reducible apply good_foldl | simp only [State.good_upd_iff]
    | simp only [State.good_bootUpd_iff] | with_reducible refine good_snd (by assumption) ?_
    | with_reducible refine good_fst (by assumption) ?_ | (simp [*]; done)

end Sys2Proof.Machine
end

