-- ==== Sys2Proof/Laws/State.lean ====
section
/-!
SUPPORT. One law per field per update of the state, each true by definition, and the laws of cores and banks: what is
put is read back, and every other core and the other bank stay.
-/
namespace Sys2Proof.Machine

/-! ### `State.setCore` -/

section
variable (s : State) (c : Nat) (k : Core)

@[simp] theorem State.setCore_tick : (s.setCore c k).tick = s.tick := rfl
@[simp] theorem State.setCore_epoch : (s.setCore c k).epoch = s.epoch := rfl
@[simp] theorem State.setCore_turn : (s.setCore c k).turn = s.turn := rfl
@[simp] theorem State.setCore_here : (s.setCore c k).here = s.here := rfl
@[simp] theorem State.setCore_evPrio : (s.setCore c k).evPrio = s.evPrio := rfl
@[simp] theorem State.setCore_evNum : (s.setCore c k).evNum = s.evNum := rfl
@[simp] theorem State.setCore_queue : (s.setCore c k).queue = s.queue := rfl
@[simp] theorem State.setCore_free : (s.setCore c k).free = s.free := rfl
@[simp] theorem State.setCore_delays : (s.setCore c k).delays = s.delays := rfl
@[simp] theorem State.setCore_nextId : (s.setCore c k).nextId = s.nextId := rfl
@[simp] theorem State.setCore_mem : (s.setCore c k).mem = s.mem := rfl
@[simp] theorem State.setCore_empties : (s.setCore c k).empties = s.empties := rfl
@[simp] theorem State.setCore_poison : (s.setCore c k).poison = s.poison := rfl
@[simp] theorem State.setCore_wpoison : (s.setCore c k).wpoison = s.wpoison := rfl
@[simp] theorem State.setCore_flaws : (s.setCore c k).flaws = s.flaws := rfl
@[simp] theorem State.setCore_dead : (s.setCore c k).dead = s.dead := rfl
@[simp] theorem State.setCore_noise : (s.setCore c k).noise = s.noise := rfl
@[simp] theorem State.setCore_seen : (s.setCore c k).seen = s.seen := rfl
@[simp] theorem State.setCore_cores : (s.setCore c k).cores = Sparse.insert s.cores c k := rfl
@[simp] theorem State.setCore_accesses : (s.setCore c k).accesses = s.accesses := rfl
@[simp] theorem State.setCore_msgs : (s.setCore c k).msgs = s.msgs := rfl
@[simp] theorem State.setCore_park : (s.setCore c k).park = s.park := rfl
@[simp] theorem State.setCore_transit : (s.setCore c k).transit = s.transit := rfl
@[simp] theorem State.setCore_setfull : (s.setCore c k).setfull = s.setfull := rfl
@[simp] theorem State.setCore_quadTlb : (s.setCore c k).quadTlb = s.quadTlb := rfl
@[simp] theorem State.setCore_joins : (s.setCore c k).joins = s.joins := rfl
@[simp] theorem State.setCore_foldOps : (s.setCore c k).foldOps = s.foldOps := rfl
@[simp] theorem State.setCore_foldSeq : (s.setCore c k).foldSeq = s.foldSeq := rfl
@[simp] theorem State.setCore_launches : (s.setCore c k).launches = s.launches := rfl
@[simp] theorem State.setCore_history : (s.setCore c k).history = s.history := rfl
@[simp] theorem State.setCore_saved : (s.setCore c k).saved = s.saved := rfl
@[simp] theorem State.setCore_masterVacant : (s.setCore c k).masterVacant = s.masterVacant := rfl
@[simp] theorem State.setCore_links : (s.setCore c k).links = s.links := rfl
@[simp] theorem State.setCore_span : (s.setCore c k).span = s.span := rfl
@[simp] theorem State.setCore_routes : (s.setCore c k).routes = s.routes := rfl
@[simp] theorem State.setCore_pkgId : (s.setCore c k).pkgId = s.pkgId := rfl
@[simp] theorem State.setCore_pkgSet : (s.setCore c k).pkgSet = s.pkgSet := rfl
@[simp] theorem State.setCore_pwrLimit : (s.setCore c k).pwrLimit = s.pwrLimit := rfl
@[simp] theorem State.setCore_pwrMeas : (s.setCore c k).pwrMeas = s.pwrMeas := rfl
@[simp] theorem State.setCore_limiting : (s.setCore c k).limiting = s.limiting := rfl
@[simp] theorem State.setCore_corr : (s.setCore c k).corr = s.corr := rfl
@[simp] theorem State.setCore_uncorr : (s.setCore c k).uncorr = s.uncorr := rfl
@[simp] theorem State.setCore_sensors : (s.setCore c k).sensors = s.sensors := rfl
@[simp] theorem State.setCore_layers : (s.setCore c k).layers = s.layers := rfl
@[simp] theorem State.setCore_fencedTowers : (s.setCore c k).fencedTowers = s.fencedTowers := rfl
@[simp] theorem State.setCore_devBase : (s.setCore c k).devBase = s.devBase := rfl
@[simp] theorem State.setCore_devPend : (s.setCore c k).devPend = s.devPend := rfl
@[simp] theorem State.setCore_devCount : (s.setCore c k).devCount = s.devCount := rfl
@[simp] theorem State.setCore_devLost : (s.setCore c k).devLost = s.devLost := rfl
@[simp] theorem State.setCore_boot : (s.setCore c k).boot = s.boot := rfl
@[simp] theorem State.setCore_blocks : (s.setCore c k).blocks = s.blocks := rfl
@[simp] theorem State.setCore_tokens : (s.setCore c k).tokens = s.tokens := rfl
@[simp] theorem State.setCore_replicas : (s.setCore c k).replicas = s.replicas := rfl
@[simp] theorem State.setCore_frames : (s.setCore c k).frames = s.frames := rfl
@[simp] theorem State.setCore_planes : (s.setCore c k).planes = s.planes := rfl
@[simp] theorem State.setCore_shoots : (s.setCore c k).shoots = s.shoots := rfl
@[simp] theorem State.setCore_paths : (s.setCore c k).paths = s.paths := rfl
@[simp] theorem State.setCore_banks : (s.setCore c k).banks = s.banks := rfl
@[simp] theorem State.setCore_refreshFrom : (s.setCore c k).refreshFrom = s.refreshFrom := rfl
@[simp] theorem State.setCore_podTokens : (s.setCore c k).podTokens = s.podTokens := rfl
@[simp] theorem State.setCore_watches : (s.setCore c k).watches = s.watches := rfl

end

/-! ### `State.modCore` -/

section
variable (s : State) (c : Nat) (f : Core → Core)

@[simp] theorem State.modCore_tick : (s.modCore c f).tick = s.tick := rfl
@[simp] theorem State.modCore_epoch : (s.modCore c f).epoch = s.epoch := rfl
@[simp] theorem State.modCore_turn : (s.modCore c f).turn = s.turn := rfl
@[simp] theorem State.modCore_here : (s.modCore c f).here = s.here := rfl
@[simp] theorem State.modCore_evPrio : (s.modCore c f).evPrio = s.evPrio := rfl
@[simp] theorem State.modCore_evNum : (s.modCore c f).evNum = s.evNum := rfl
@[simp] theorem State.modCore_queue : (s.modCore c f).queue = s.queue := rfl
@[simp] theorem State.modCore_free : (s.modCore c f).free = s.free := rfl
@[simp] theorem State.modCore_delays : (s.modCore c f).delays = s.delays := rfl
@[simp] theorem State.modCore_nextId : (s.modCore c f).nextId = s.nextId := rfl
@[simp] theorem State.modCore_mem : (s.modCore c f).mem = s.mem := rfl
@[simp] theorem State.modCore_empties : (s.modCore c f).empties = s.empties := rfl
@[simp] theorem State.modCore_poison : (s.modCore c f).poison = s.poison := rfl
@[simp] theorem State.modCore_wpoison : (s.modCore c f).wpoison = s.wpoison := rfl
@[simp] theorem State.modCore_flaws : (s.modCore c f).flaws = s.flaws := rfl
@[simp] theorem State.modCore_dead : (s.modCore c f).dead = s.dead := rfl
@[simp] theorem State.modCore_noise : (s.modCore c f).noise = s.noise := rfl
@[simp] theorem State.modCore_seen : (s.modCore c f).seen = s.seen := rfl
@[simp] theorem State.modCore_accesses : (s.modCore c f).accesses = s.accesses := rfl
@[simp] theorem State.modCore_msgs : (s.modCore c f).msgs = s.msgs := rfl
@[simp] theorem State.modCore_park : (s.modCore c f).park = s.park := rfl
@[simp] theorem State.modCore_transit : (s.modCore c f).transit = s.transit := rfl
@[simp] theorem State.modCore_setfull : (s.modCore c f).setfull = s.setfull := rfl
@[simp] theorem State.modCore_quadTlb : (s.modCore c f).quadTlb = s.quadTlb := rfl
@[simp] theorem State.modCore_joins : (s.modCore c f).joins = s.joins := rfl
@[simp] theorem State.modCore_foldOps : (s.modCore c f).foldOps = s.foldOps := rfl
@[simp] theorem State.modCore_foldSeq : (s.modCore c f).foldSeq = s.foldSeq := rfl
@[simp] theorem State.modCore_launches : (s.modCore c f).launches = s.launches := rfl
@[simp] theorem State.modCore_history : (s.modCore c f).history = s.history := rfl
@[simp] theorem State.modCore_saved : (s.modCore c f).saved = s.saved := rfl
@[simp] theorem State.modCore_masterVacant : (s.modCore c f).masterVacant = s.masterVacant := rfl
@[simp] theorem State.modCore_links : (s.modCore c f).links = s.links := rfl
@[simp] theorem State.modCore_span : (s.modCore c f).span = s.span := rfl
@[simp] theorem State.modCore_routes : (s.modCore c f).routes = s.routes := rfl
@[simp] theorem State.modCore_pkgId : (s.modCore c f).pkgId = s.pkgId := rfl
@[simp] theorem State.modCore_pkgSet : (s.modCore c f).pkgSet = s.pkgSet := rfl
@[simp] theorem State.modCore_pwrLimit : (s.modCore c f).pwrLimit = s.pwrLimit := rfl
@[simp] theorem State.modCore_pwrMeas : (s.modCore c f).pwrMeas = s.pwrMeas := rfl
@[simp] theorem State.modCore_limiting : (s.modCore c f).limiting = s.limiting := rfl
@[simp] theorem State.modCore_corr : (s.modCore c f).corr = s.corr := rfl
@[simp] theorem State.modCore_uncorr : (s.modCore c f).uncorr = s.uncorr := rfl
@[simp] theorem State.modCore_sensors : (s.modCore c f).sensors = s.sensors := rfl
@[simp] theorem State.modCore_layers : (s.modCore c f).layers = s.layers := rfl
@[simp] theorem State.modCore_fencedTowers : (s.modCore c f).fencedTowers = s.fencedTowers := rfl
@[simp] theorem State.modCore_devBase : (s.modCore c f).devBase = s.devBase := rfl
@[simp] theorem State.modCore_devPend : (s.modCore c f).devPend = s.devPend := rfl
@[simp] theorem State.modCore_devCount : (s.modCore c f).devCount = s.devCount := rfl
@[simp] theorem State.modCore_devLost : (s.modCore c f).devLost = s.devLost := rfl
@[simp] theorem State.modCore_boot : (s.modCore c f).boot = s.boot := rfl
@[simp] theorem State.modCore_blocks : (s.modCore c f).blocks = s.blocks := rfl
@[simp] theorem State.modCore_tokens : (s.modCore c f).tokens = s.tokens := rfl
@[simp] theorem State.modCore_replicas : (s.modCore c f).replicas = s.replicas := rfl
@[simp] theorem State.modCore_frames : (s.modCore c f).frames = s.frames := rfl
@[simp] theorem State.modCore_planes : (s.modCore c f).planes = s.planes := rfl
@[simp] theorem State.modCore_shoots : (s.modCore c f).shoots = s.shoots := rfl
@[simp] theorem State.modCore_paths : (s.modCore c f).paths = s.paths := rfl
@[simp] theorem State.modCore_banks : (s.modCore c f).banks = s.banks := rfl
@[simp] theorem State.modCore_refreshFrom : (s.modCore c f).refreshFrom = s.refreshFrom := rfl
@[simp] theorem State.modCore_podTokens : (s.modCore c f).podTokens = s.podTokens := rfl
@[simp] theorem State.modCore_watches : (s.modCore c f).watches = s.watches := rfl

end

/-! ### `State.modMine` -/

section
variable (s : State) (f : Core → Core)

@[simp] theorem State.modMine_tick : (s.modMine f).tick = s.tick := rfl
@[simp] theorem State.modMine_epoch : (s.modMine f).epoch = s.epoch := rfl
@[simp] theorem State.modMine_turn : (s.modMine f).turn = s.turn := rfl
@[simp] theorem State.modMine_here : (s.modMine f).here = s.here := rfl
@[simp] theorem State.modMine_evPrio : (s.modMine f).evPrio = s.evPrio := rfl
@[simp] theorem State.modMine_evNum : (s.modMine f).evNum = s.evNum := rfl
@[simp] theorem State.modMine_queue : (s.modMine f).queue = s.queue := rfl
@[simp] theorem State.modMine_free : (s.modMine f).free = s.free := rfl
@[simp] theorem State.modMine_delays : (s.modMine f).delays = s.delays := rfl
@[simp] theorem State.modMine_nextId : (s.modMine f).nextId = s.nextId := rfl
@[simp] theorem State.modMine_mem : (s.modMine f).mem = s.mem := rfl
@[simp] theorem State.modMine_empties : (s.modMine f).empties = s.empties := rfl
@[simp] theorem State.modMine_poison : (s.modMine f).poison = s.poison := rfl
@[simp] theorem State.modMine_wpoison : (s.modMine f).wpoison = s.wpoison := rfl
@[simp] theorem State.modMine_flaws : (s.modMine f).flaws = s.flaws := rfl
@[simp] theorem State.modMine_dead : (s.modMine f).dead = s.dead := rfl
@[simp] theorem State.modMine_noise : (s.modMine f).noise = s.noise := rfl
@[simp] theorem State.modMine_seen : (s.modMine f).seen = s.seen := rfl
@[simp] theorem State.modMine_accesses : (s.modMine f).accesses = s.accesses := rfl
@[simp] theorem State.modMine_msgs : (s.modMine f).msgs = s.msgs := rfl
@[simp] theorem State.modMine_park : (s.modMine f).park = s.park := rfl
@[simp] theorem State.modMine_transit : (s.modMine f).transit = s.transit := rfl
@[simp] theorem State.modMine_setfull : (s.modMine f).setfull = s.setfull := rfl
@[simp] theorem State.modMine_quadTlb : (s.modMine f).quadTlb = s.quadTlb := rfl
@[simp] theorem State.modMine_joins : (s.modMine f).joins = s.joins := rfl
@[simp] theorem State.modMine_foldOps : (s.modMine f).foldOps = s.foldOps := rfl
@[simp] theorem State.modMine_foldSeq : (s.modMine f).foldSeq = s.foldSeq := rfl
@[simp] theorem State.modMine_launches : (s.modMine f).launches = s.launches := rfl
@[simp] theorem State.modMine_history : (s.modMine f).history = s.history := rfl
@[simp] theorem State.modMine_saved : (s.modMine f).saved = s.saved := rfl
@[simp] theorem State.modMine_masterVacant : (s.modMine f).masterVacant = s.masterVacant := rfl
@[simp] theorem State.modMine_links : (s.modMine f).links = s.links := rfl
@[simp] theorem State.modMine_span : (s.modMine f).span = s.span := rfl
@[simp] theorem State.modMine_routes : (s.modMine f).routes = s.routes := rfl
@[simp] theorem State.modMine_pkgId : (s.modMine f).pkgId = s.pkgId := rfl
@[simp] theorem State.modMine_pkgSet : (s.modMine f).pkgSet = s.pkgSet := rfl
@[simp] theorem State.modMine_pwrLimit : (s.modMine f).pwrLimit = s.pwrLimit := rfl
@[simp] theorem State.modMine_pwrMeas : (s.modMine f).pwrMeas = s.pwrMeas := rfl
@[simp] theorem State.modMine_limiting : (s.modMine f).limiting = s.limiting := rfl
@[simp] theorem State.modMine_corr : (s.modMine f).corr = s.corr := rfl
@[simp] theorem State.modMine_uncorr : (s.modMine f).uncorr = s.uncorr := rfl
@[simp] theorem State.modMine_sensors : (s.modMine f).sensors = s.sensors := rfl
@[simp] theorem State.modMine_layers : (s.modMine f).layers = s.layers := rfl
@[simp] theorem State.modMine_fencedTowers : (s.modMine f).fencedTowers = s.fencedTowers := rfl
@[simp] theorem State.modMine_devBase : (s.modMine f).devBase = s.devBase := rfl
@[simp] theorem State.modMine_devPend : (s.modMine f).devPend = s.devPend := rfl
@[simp] theorem State.modMine_devCount : (s.modMine f).devCount = s.devCount := rfl
@[simp] theorem State.modMine_devLost : (s.modMine f).devLost = s.devLost := rfl
@[simp] theorem State.modMine_boot : (s.modMine f).boot = s.boot := rfl
@[simp] theorem State.modMine_blocks : (s.modMine f).blocks = s.blocks := rfl
@[simp] theorem State.modMine_tokens : (s.modMine f).tokens = s.tokens := rfl
@[simp] theorem State.modMine_replicas : (s.modMine f).replicas = s.replicas := rfl
@[simp] theorem State.modMine_frames : (s.modMine f).frames = s.frames := rfl
@[simp] theorem State.modMine_planes : (s.modMine f).planes = s.planes := rfl
@[simp] theorem State.modMine_shoots : (s.modMine f).shoots = s.shoots := rfl
@[simp] theorem State.modMine_paths : (s.modMine f).paths = s.paths := rfl
@[simp] theorem State.modMine_banks : (s.modMine f).banks = s.banks := rfl
@[simp] theorem State.modMine_refreshFrom : (s.modMine f).refreshFrom = s.refreshFrom := rfl
@[simp] theorem State.modMine_podTokens : (s.modMine f).podTokens = s.podTokens := rfl
@[simp] theorem State.modMine_watches : (s.modMine f).watches = s.watches := rfl

end

/-! ### `State.modBank` -/

section
variable (s : State) (c : Nat) (p : Prio) (f : Bank → Bank)

@[simp] theorem State.modBank_tick : (s.modBank c p f).tick = s.tick := rfl
@[simp] theorem State.modBank_epoch : (s.modBank c p f).epoch = s.epoch := rfl
@[simp] theorem State.modBank_turn : (s.modBank c p f).turn = s.turn := rfl
@[simp] theorem State.modBank_here : (s.modBank c p f).here = s.here := rfl
@[simp] theorem State.modBank_evPrio : (s.modBank c p f).evPrio = s.evPrio := rfl
@[simp] theorem State.modBank_evNum : (s.modBank c p f).evNum = s.evNum := rfl
@[simp] theorem State.modBank_queue : (s.modBank c p f).queue = s.queue := rfl
@[simp] theorem State.modBank_free : (s.modBank c p f).free = s.free := rfl
@[simp] theorem State.modBank_delays : (s.modBank c p f).delays = s.delays := rfl
@[simp] theorem State.modBank_nextId : (s.modBank c p f).nextId = s.nextId := rfl
@[simp] theorem State.modBank_mem : (s.modBank c p f).mem = s.mem := rfl
@[simp] theorem State.modBank_empties : (s.modBank c p f).empties = s.empties := rfl
@[simp] theorem State.modBank_poison : (s.modBank c p f).poison = s.poison := rfl
@[simp] theorem State.modBank_wpoison : (s.modBank c p f).wpoison = s.wpoison := rfl
@[simp] theorem State.modBank_flaws : (s.modBank c p f).flaws = s.flaws := rfl
@[simp] theorem State.modBank_dead : (s.modBank c p f).dead = s.dead := rfl
@[simp] theorem State.modBank_noise : (s.modBank c p f).noise = s.noise := rfl
@[simp] theorem State.modBank_seen : (s.modBank c p f).seen = s.seen := rfl
@[simp] theorem State.modBank_accesses : (s.modBank c p f).accesses = s.accesses := rfl
@[simp] theorem State.modBank_msgs : (s.modBank c p f).msgs = s.msgs := rfl
@[simp] theorem State.modBank_park : (s.modBank c p f).park = s.park := rfl
@[simp] theorem State.modBank_transit : (s.modBank c p f).transit = s.transit := rfl
@[simp] theorem State.modBank_setfull : (s.modBank c p f).setfull = s.setfull := rfl
@[simp] theorem State.modBank_quadTlb : (s.modBank c p f).quadTlb = s.quadTlb := rfl
@[simp] theorem State.modBank_joins : (s.modBank c p f).joins = s.joins := rfl
@[simp] theorem State.modBank_foldOps : (s.modBank c p f).foldOps = s.foldOps := rfl
@[simp] theorem State.modBank_foldSeq : (s.modBank c p f).foldSeq = s.foldSeq := rfl
@[simp] theorem State.modBank_launches : (s.modBank c p f).launches = s.launches := rfl
@[simp] theorem State.modBank_history : (s.modBank c p f).history = s.history := rfl
@[simp] theorem State.modBank_saved : (s.modBank c p f).saved = s.saved := rfl
@[simp] theorem State.modBank_masterVacant : (s.modBank c p f).masterVacant = s.masterVacant := rfl
@[simp] theorem State.modBank_links : (s.modBank c p f).links = s.links := rfl
@[simp] theorem State.modBank_span : (s.modBank c p f).span = s.span := rfl
@[simp] theorem State.modBank_routes : (s.modBank c p f).routes = s.routes := rfl
@[simp] theorem State.modBank_pkgId : (s.modBank c p f).pkgId = s.pkgId := rfl
@[simp] theorem State.modBank_pkgSet : (s.modBank c p f).pkgSet = s.pkgSet := rfl
@[simp] theorem State.modBank_pwrLimit : (s.modBank c p f).pwrLimit = s.pwrLimit := rfl
@[simp] theorem State.modBank_pwrMeas : (s.modBank c p f).pwrMeas = s.pwrMeas := rfl
@[simp] theorem State.modBank_limiting : (s.modBank c p f).limiting = s.limiting := rfl
@[simp] theorem State.modBank_corr : (s.modBank c p f).corr = s.corr := rfl
@[simp] theorem State.modBank_uncorr : (s.modBank c p f).uncorr = s.uncorr := rfl
@[simp] theorem State.modBank_sensors : (s.modBank c p f).sensors = s.sensors := rfl
@[simp] theorem State.modBank_layers : (s.modBank c p f).layers = s.layers := rfl
@[simp] theorem State.modBank_fencedTowers : (s.modBank c p f).fencedTowers = s.fencedTowers := rfl
@[simp] theorem State.modBank_devBase : (s.modBank c p f).devBase = s.devBase := rfl
@[simp] theorem State.modBank_devPend : (s.modBank c p f).devPend = s.devPend := rfl
@[simp] theorem State.modBank_devCount : (s.modBank c p f).devCount = s.devCount := rfl
@[simp] theorem State.modBank_devLost : (s.modBank c p f).devLost = s.devLost := rfl
@[simp] theorem State.modBank_boot : (s.modBank c p f).boot = s.boot := rfl
@[simp] theorem State.modBank_blocks : (s.modBank c p f).blocks = s.blocks := rfl
@[simp] theorem State.modBank_tokens : (s.modBank c p f).tokens = s.tokens := rfl
@[simp] theorem State.modBank_replicas : (s.modBank c p f).replicas = s.replicas := rfl
@[simp] theorem State.modBank_frames : (s.modBank c p f).frames = s.frames := rfl
@[simp] theorem State.modBank_planes : (s.modBank c p f).planes = s.planes := rfl
@[simp] theorem State.modBank_shoots : (s.modBank c p f).shoots = s.shoots := rfl
@[simp] theorem State.modBank_paths : (s.modBank c p f).paths = s.paths := rfl
@[simp] theorem State.modBank_banks : (s.modBank c p f).banks = s.banks := rfl
@[simp] theorem State.modBank_refreshFrom : (s.modBank c p f).refreshFrom = s.refreshFrom := rfl
@[simp] theorem State.modBank_podTokens : (s.modBank c p f).podTokens = s.podTokens := rfl
@[simp] theorem State.modBank_watches : (s.modBank c p f).watches = s.watches := rfl

end

/-! ### `State.modMe` -/

section
variable (s : State) (f : Bank → Bank)

@[simp] theorem State.modMe_tick : (s.modMe f).tick = s.tick := rfl
@[simp] theorem State.modMe_epoch : (s.modMe f).epoch = s.epoch := rfl
@[simp] theorem State.modMe_turn : (s.modMe f).turn = s.turn := rfl
@[simp] theorem State.modMe_here : (s.modMe f).here = s.here := rfl
@[simp] theorem State.modMe_evPrio : (s.modMe f).evPrio = s.evPrio := rfl
@[simp] theorem State.modMe_evNum : (s.modMe f).evNum = s.evNum := rfl
@[simp] theorem State.modMe_queue : (s.modMe f).queue = s.queue := rfl
@[simp] theorem State.modMe_free : (s.modMe f).free = s.free := rfl
@[simp] theorem State.modMe_delays : (s.modMe f).delays = s.delays := rfl
@[simp] theorem State.modMe_nextId : (s.modMe f).nextId = s.nextId := rfl
@[simp] theorem State.modMe_mem : (s.modMe f).mem = s.mem := rfl
@[simp] theorem State.modMe_empties : (s.modMe f).empties = s.empties := rfl
@[simp] theorem State.modMe_poison : (s.modMe f).poison = s.poison := rfl
@[simp] theorem State.modMe_wpoison : (s.modMe f).wpoison = s.wpoison := rfl
@[simp] theorem State.modMe_flaws : (s.modMe f).flaws = s.flaws := rfl
@[simp] theorem State.modMe_dead : (s.modMe f).dead = s.dead := rfl
@[simp] theorem State.modMe_noise : (s.modMe f).noise = s.noise := rfl
@[simp] theorem State.modMe_seen : (s.modMe f).seen = s.seen := rfl
@[simp] theorem State.modMe_accesses : (s.modMe f).accesses = s.accesses := rfl
@[simp] theorem State.modMe_msgs : (s.modMe f).msgs = s.msgs := rfl
@[simp] theorem State.modMe_park : (s.modMe f).park = s.park := rfl
@[simp] theorem State.modMe_transit : (s.modMe f).transit = s.transit := rfl
@[simp] theorem State.modMe_setfull : (s.modMe f).setfull = s.setfull := rfl
@[simp] theorem State.modMe_quadTlb : (s.modMe f).quadTlb = s.quadTlb := rfl
@[simp] theorem State.modMe_joins : (s.modMe f).joins = s.joins := rfl
@[simp] theorem State.modMe_foldOps : (s.modMe f).foldOps = s.foldOps := rfl
@[simp] theorem State.modMe_foldSeq : (s.modMe f).foldSeq = s.foldSeq := rfl
@[simp] theorem State.modMe_launches : (s.modMe f).launches = s.launches := rfl
@[simp] theorem State.modMe_history : (s.modMe f).history = s.history := rfl
@[simp] theorem State.modMe_saved : (s.modMe f).saved = s.saved := rfl
@[simp] theorem State.modMe_masterVacant : (s.modMe f).masterVacant = s.masterVacant := rfl
@[simp] theorem State.modMe_links : (s.modMe f).links = s.links := rfl
@[simp] theorem State.modMe_span : (s.modMe f).span = s.span := rfl
@[simp] theorem State.modMe_routes : (s.modMe f).routes = s.routes := rfl
@[simp] theorem State.modMe_pkgId : (s.modMe f).pkgId = s.pkgId := rfl
@[simp] theorem State.modMe_pkgSet : (s.modMe f).pkgSet = s.pkgSet := rfl
@[simp] theorem State.modMe_pwrLimit : (s.modMe f).pwrLimit = s.pwrLimit := rfl
@[simp] theorem State.modMe_pwrMeas : (s.modMe f).pwrMeas = s.pwrMeas := rfl
@[simp] theorem State.modMe_limiting : (s.modMe f).limiting = s.limiting := rfl
@[simp] theorem State.modMe_corr : (s.modMe f).corr = s.corr := rfl
@[simp] theorem State.modMe_uncorr : (s.modMe f).uncorr = s.uncorr := rfl
@[simp] theorem State.modMe_sensors : (s.modMe f).sensors = s.sensors := rfl
@[simp] theorem State.modMe_layers : (s.modMe f).layers = s.layers := rfl
@[simp] theorem State.modMe_fencedTowers : (s.modMe f).fencedTowers = s.fencedTowers := rfl
@[simp] theorem State.modMe_devBase : (s.modMe f).devBase = s.devBase := rfl
@[simp] theorem State.modMe_devPend : (s.modMe f).devPend = s.devPend := rfl
@[simp] theorem State.modMe_devCount : (s.modMe f).devCount = s.devCount := rfl
@[simp] theorem State.modMe_devLost : (s.modMe f).devLost = s.devLost := rfl
@[simp] theorem State.modMe_boot : (s.modMe f).boot = s.boot := rfl
@[simp] theorem State.modMe_blocks : (s.modMe f).blocks = s.blocks := rfl
@[simp] theorem State.modMe_tokens : (s.modMe f).tokens = s.tokens := rfl
@[simp] theorem State.modMe_replicas : (s.modMe f).replicas = s.replicas := rfl
@[simp] theorem State.modMe_frames : (s.modMe f).frames = s.frames := rfl
@[simp] theorem State.modMe_planes : (s.modMe f).planes = s.planes := rfl
@[simp] theorem State.modMe_shoots : (s.modMe f).shoots = s.shoots := rfl
@[simp] theorem State.modMe_paths : (s.modMe f).paths = s.paths := rfl
@[simp] theorem State.modMe_banks : (s.modMe f).banks = s.banks := rfl
@[simp] theorem State.modMe_refreshFrom : (s.modMe f).refreshFrom = s.refreshFrom := rfl
@[simp] theorem State.modMe_podTokens : (s.modMe f).podTokens = s.podTokens := rfl
@[simp] theorem State.modMe_watches : (s.modMe f).watches = s.watches := rfl

end

/-! ### `State.enqueue` -/

section
variable (s : State) (d c : Nat) (p : Prio) (n : Nat) (e : Instr)

@[simp] theorem State.enqueue_tick : (s.enqueue d c p n e).tick = s.tick := rfl
@[simp] theorem State.enqueue_epoch : (s.enqueue d c p n e).epoch = s.epoch := rfl
@[simp] theorem State.enqueue_turn : (s.enqueue d c p n e).turn = s.turn := rfl
@[simp] theorem State.enqueue_here : (s.enqueue d c p n e).here = s.here := rfl
@[simp] theorem State.enqueue_evPrio : (s.enqueue d c p n e).evPrio = s.evPrio := rfl
@[simp] theorem State.enqueue_evNum : (s.enqueue d c p n e).evNum = s.evNum := rfl
@[simp] theorem State.enqueue_free : (s.enqueue d c p n e).free = s.free := rfl
@[simp] theorem State.enqueue_delays : (s.enqueue d c p n e).delays = s.delays := rfl
@[simp] theorem State.enqueue_nextId : (s.enqueue d c p n e).nextId = s.nextId := rfl
@[simp] theorem State.enqueue_mem : (s.enqueue d c p n e).mem = s.mem := rfl
@[simp] theorem State.enqueue_empties : (s.enqueue d c p n e).empties = s.empties := rfl
@[simp] theorem State.enqueue_poison : (s.enqueue d c p n e).poison = s.poison := rfl
@[simp] theorem State.enqueue_wpoison : (s.enqueue d c p n e).wpoison = s.wpoison := rfl
@[simp] theorem State.enqueue_flaws : (s.enqueue d c p n e).flaws = s.flaws := rfl
@[simp] theorem State.enqueue_dead : (s.enqueue d c p n e).dead = s.dead := rfl
@[simp] theorem State.enqueue_noise : (s.enqueue d c p n e).noise = s.noise := rfl
@[simp] theorem State.enqueue_seen : (s.enqueue d c p n e).seen = s.seen := rfl
@[simp] theorem State.enqueue_cores : (s.enqueue d c p n e).cores = s.cores := rfl
@[simp] theorem State.enqueue_accesses : (s.enqueue d c p n e).accesses = s.accesses := rfl
@[simp] theorem State.enqueue_msgs : (s.enqueue d c p n e).msgs = s.msgs := rfl
@[simp] theorem State.enqueue_park : (s.enqueue d c p n e).park = s.park := rfl
@[simp] theorem State.enqueue_transit : (s.enqueue d c p n e).transit = s.transit := rfl
@[simp] theorem State.enqueue_setfull : (s.enqueue d c p n e).setfull = s.setfull := rfl
@[simp] theorem State.enqueue_quadTlb : (s.enqueue d c p n e).quadTlb = s.quadTlb := rfl
@[simp] theorem State.enqueue_joins : (s.enqueue d c p n e).joins = s.joins := rfl
@[simp] theorem State.enqueue_foldOps : (s.enqueue d c p n e).foldOps = s.foldOps := rfl
@[simp] theorem State.enqueue_foldSeq : (s.enqueue d c p n e).foldSeq = s.foldSeq := rfl
@[simp] theorem State.enqueue_launches : (s.enqueue d c p n e).launches = s.launches := rfl
@[simp] theorem State.enqueue_history : (s.enqueue d c p n e).history = s.history := rfl
@[simp] theorem State.enqueue_saved : (s.enqueue d c p n e).saved = s.saved := rfl
@[simp] theorem State.enqueue_masterVacant : (s.enqueue d c p n e).masterVacant = s.masterVacant := rfl
@[simp] theorem State.enqueue_links : (s.enqueue d c p n e).links = s.links := rfl
@[simp] theorem State.enqueue_span : (s.enqueue d c p n e).span = s.span := rfl
@[simp] theorem State.enqueue_routes : (s.enqueue d c p n e).routes = s.routes := rfl
@[simp] theorem State.enqueue_pkgId : (s.enqueue d c p n e).pkgId = s.pkgId := rfl
@[simp] theorem State.enqueue_pkgSet : (s.enqueue d c p n e).pkgSet = s.pkgSet := rfl
@[simp] theorem State.enqueue_pwrLimit : (s.enqueue d c p n e).pwrLimit = s.pwrLimit := rfl
@[simp] theorem State.enqueue_pwrMeas : (s.enqueue d c p n e).pwrMeas = s.pwrMeas := rfl
@[simp] theorem State.enqueue_limiting : (s.enqueue d c p n e).limiting = s.limiting := rfl
@[simp] theorem State.enqueue_corr : (s.enqueue d c p n e).corr = s.corr := rfl
@[simp] theorem State.enqueue_uncorr : (s.enqueue d c p n e).uncorr = s.uncorr := rfl
@[simp] theorem State.enqueue_sensors : (s.enqueue d c p n e).sensors = s.sensors := rfl
@[simp] theorem State.enqueue_layers : (s.enqueue d c p n e).layers = s.layers := rfl
@[simp] theorem State.enqueue_fencedTowers : (s.enqueue d c p n e).fencedTowers = s.fencedTowers := rfl
@[simp] theorem State.enqueue_devBase : (s.enqueue d c p n e).devBase = s.devBase := rfl
@[simp] theorem State.enqueue_devPend : (s.enqueue d c p n e).devPend = s.devPend := rfl
@[simp] theorem State.enqueue_devCount : (s.enqueue d c p n e).devCount = s.devCount := rfl
@[simp] theorem State.enqueue_devLost : (s.enqueue d c p n e).devLost = s.devLost := rfl
@[simp] theorem State.enqueue_boot : (s.enqueue d c p n e).boot = s.boot := rfl
@[simp] theorem State.enqueue_blocks : (s.enqueue d c p n e).blocks = s.blocks := rfl
@[simp] theorem State.enqueue_tokens : (s.enqueue d c p n e).tokens = s.tokens := rfl
@[simp] theorem State.enqueue_replicas : (s.enqueue d c p n e).replicas = s.replicas := rfl
@[simp] theorem State.enqueue_frames : (s.enqueue d c p n e).frames = s.frames := rfl
@[simp] theorem State.enqueue_planes : (s.enqueue d c p n e).planes = s.planes := rfl
@[simp] theorem State.enqueue_shoots : (s.enqueue d c p n e).shoots = s.shoots := rfl
@[simp] theorem State.enqueue_paths : (s.enqueue d c p n e).paths = s.paths := rfl
@[simp] theorem State.enqueue_banks : (s.enqueue d c p n e).banks = s.banks := rfl
@[simp] theorem State.enqueue_refreshFrom : (s.enqueue d c p n e).refreshFrom = s.refreshFrom := rfl
@[simp] theorem State.enqueue_podTokens : (s.enqueue d c p n e).podTokens = s.podTokens := rfl
@[simp] theorem State.enqueue_watches : (s.enqueue d c p n e).watches = s.watches := rfl

end

/-! ### `State.enqueueFirst` -/

section
variable (s : State) (d c : Nat) (p : Prio) (n : Nat) (e : Instr)

@[simp] theorem State.enqueueFirst_tick : (s.enqueueFirst d c p n e).tick = s.tick := rfl
@[simp] theorem State.enqueueFirst_epoch : (s.enqueueFirst d c p n e).epoch = s.epoch := rfl
@[simp] theorem State.enqueueFirst_turn : (s.enqueueFirst d c p n e).turn = s.turn := rfl
@[simp] theorem State.enqueueFirst_here : (s.enqueueFirst d c p n e).here = s.here := rfl
@[simp] theorem State.enqueueFirst_evPrio : (s.enqueueFirst d c p n e).evPrio = s.evPrio := rfl
@[simp] theorem State.enqueueFirst_evNum : (s.enqueueFirst d c p n e).evNum = s.evNum := rfl
@[simp] theorem State.enqueueFirst_free : (s.enqueueFirst d c p n e).free = s.free := rfl
@[simp] theorem State.enqueueFirst_delays : (s.enqueueFirst d c p n e).delays = s.delays := rfl
@[simp] theorem State.enqueueFirst_nextId : (s.enqueueFirst d c p n e).nextId = s.nextId := rfl
@[simp] theorem State.enqueueFirst_mem : (s.enqueueFirst d c p n e).mem = s.mem := rfl
@[simp] theorem State.enqueueFirst_empties : (s.enqueueFirst d c p n e).empties = s.empties := rfl
@[simp] theorem State.enqueueFirst_poison : (s.enqueueFirst d c p n e).poison = s.poison := rfl
@[simp] theorem State.enqueueFirst_wpoison : (s.enqueueFirst d c p n e).wpoison = s.wpoison := rfl
@[simp] theorem State.enqueueFirst_flaws : (s.enqueueFirst d c p n e).flaws = s.flaws := rfl
@[simp] theorem State.enqueueFirst_dead : (s.enqueueFirst d c p n e).dead = s.dead := rfl
@[simp] theorem State.enqueueFirst_noise : (s.enqueueFirst d c p n e).noise = s.noise := rfl
@[simp] theorem State.enqueueFirst_seen : (s.enqueueFirst d c p n e).seen = s.seen := rfl
@[simp] theorem State.enqueueFirst_cores : (s.enqueueFirst d c p n e).cores = s.cores := rfl
@[simp] theorem State.enqueueFirst_accesses : (s.enqueueFirst d c p n e).accesses = s.accesses := rfl
@[simp] theorem State.enqueueFirst_msgs : (s.enqueueFirst d c p n e).msgs = s.msgs := rfl
@[simp] theorem State.enqueueFirst_park : (s.enqueueFirst d c p n e).park = s.park := rfl
@[simp] theorem State.enqueueFirst_transit : (s.enqueueFirst d c p n e).transit = s.transit := rfl
@[simp] theorem State.enqueueFirst_setfull : (s.enqueueFirst d c p n e).setfull = s.setfull := rfl
@[simp] theorem State.enqueueFirst_quadTlb : (s.enqueueFirst d c p n e).quadTlb = s.quadTlb := rfl
@[simp] theorem State.enqueueFirst_joins : (s.enqueueFirst d c p n e).joins = s.joins := rfl
@[simp] theorem State.enqueueFirst_foldOps : (s.enqueueFirst d c p n e).foldOps = s.foldOps := rfl
@[simp] theorem State.enqueueFirst_foldSeq : (s.enqueueFirst d c p n e).foldSeq = s.foldSeq := rfl
@[simp] theorem State.enqueueFirst_launches : (s.enqueueFirst d c p n e).launches = s.launches := rfl
@[simp] theorem State.enqueueFirst_history : (s.enqueueFirst d c p n e).history = s.history := rfl
@[simp] theorem State.enqueueFirst_saved : (s.enqueueFirst d c p n e).saved = s.saved := rfl
@[simp] theorem State.enqueueFirst_masterVacant : (s.enqueueFirst d c p n e).masterVacant = s.masterVacant := rfl
@[simp] theorem State.enqueueFirst_links : (s.enqueueFirst d c p n e).links = s.links := rfl
@[simp] theorem State.enqueueFirst_span : (s.enqueueFirst d c p n e).span = s.span := rfl
@[simp] theorem State.enqueueFirst_routes : (s.enqueueFirst d c p n e).routes = s.routes := rfl
@[simp] theorem State.enqueueFirst_pkgId : (s.enqueueFirst d c p n e).pkgId = s.pkgId := rfl
@[simp] theorem State.enqueueFirst_pkgSet : (s.enqueueFirst d c p n e).pkgSet = s.pkgSet := rfl
@[simp] theorem State.enqueueFirst_pwrLimit : (s.enqueueFirst d c p n e).pwrLimit = s.pwrLimit := rfl
@[simp] theorem State.enqueueFirst_pwrMeas : (s.enqueueFirst d c p n e).pwrMeas = s.pwrMeas := rfl
@[simp] theorem State.enqueueFirst_limiting : (s.enqueueFirst d c p n e).limiting = s.limiting := rfl
@[simp] theorem State.enqueueFirst_corr : (s.enqueueFirst d c p n e).corr = s.corr := rfl
@[simp] theorem State.enqueueFirst_uncorr : (s.enqueueFirst d c p n e).uncorr = s.uncorr := rfl
@[simp] theorem State.enqueueFirst_sensors : (s.enqueueFirst d c p n e).sensors = s.sensors := rfl
@[simp] theorem State.enqueueFirst_layers : (s.enqueueFirst d c p n e).layers = s.layers := rfl
@[simp] theorem State.enqueueFirst_fencedTowers : (s.enqueueFirst d c p n e).fencedTowers = s.fencedTowers := rfl
@[simp] theorem State.enqueueFirst_devBase : (s.enqueueFirst d c p n e).devBase = s.devBase := rfl
@[simp] theorem State.enqueueFirst_devPend : (s.enqueueFirst d c p n e).devPend = s.devPend := rfl
@[simp] theorem State.enqueueFirst_devCount : (s.enqueueFirst d c p n e).devCount = s.devCount := rfl
@[simp] theorem State.enqueueFirst_devLost : (s.enqueueFirst d c p n e).devLost = s.devLost := rfl
@[simp] theorem State.enqueueFirst_boot : (s.enqueueFirst d c p n e).boot = s.boot := rfl
@[simp] theorem State.enqueueFirst_blocks : (s.enqueueFirst d c p n e).blocks = s.blocks := rfl
@[simp] theorem State.enqueueFirst_tokens : (s.enqueueFirst d c p n e).tokens = s.tokens := rfl
@[simp] theorem State.enqueueFirst_replicas : (s.enqueueFirst d c p n e).replicas = s.replicas := rfl
@[simp] theorem State.enqueueFirst_frames : (s.enqueueFirst d c p n e).frames = s.frames := rfl
@[simp] theorem State.enqueueFirst_planes : (s.enqueueFirst d c p n e).planes = s.planes := rfl
@[simp] theorem State.enqueueFirst_shoots : (s.enqueueFirst d c p n e).shoots = s.shoots := rfl
@[simp] theorem State.enqueueFirst_paths : (s.enqueueFirst d c p n e).paths = s.paths := rfl
@[simp] theorem State.enqueueFirst_banks : (s.enqueueFirst d c p n e).banks = s.banks := rfl
@[simp] theorem State.enqueueFirst_refreshFrom : (s.enqueueFirst d c p n e).refreshFrom = s.refreshFrom := rfl
@[simp] theorem State.enqueueFirst_podTokens : (s.enqueueFirst d c p n e).podTokens = s.podTokens := rfl
@[simp] theorem State.enqueueFirst_watches : (s.enqueueFirst d c p n e).watches = s.watches := rfl

end

/-! ### `State.enqueueLast` -/

section
variable (s : State) (d c : Nat) (p : Prio) (n : Nat) (e : Instr)

@[simp] theorem State.enqueueLast_tick : (s.enqueueLast d c p n e).tick = s.tick := rfl
@[simp] theorem State.enqueueLast_epoch : (s.enqueueLast d c p n e).epoch = s.epoch := rfl
@[simp] theorem State.enqueueLast_turn : (s.enqueueLast d c p n e).turn = s.turn := rfl
@[simp] theorem State.enqueueLast_here : (s.enqueueLast d c p n e).here = s.here := rfl
@[simp] theorem State.enqueueLast_evPrio : (s.enqueueLast d c p n e).evPrio = s.evPrio := rfl
@[simp] theorem State.enqueueLast_evNum : (s.enqueueLast d c p n e).evNum = s.evNum := rfl
@[simp] theorem State.enqueueLast_free : (s.enqueueLast d c p n e).free = s.free := rfl
@[simp] theorem State.enqueueLast_delays : (s.enqueueLast d c p n e).delays = s.delays := rfl
@[simp] theorem State.enqueueLast_nextId : (s.enqueueLast d c p n e).nextId = s.nextId := rfl
@[simp] theorem State.enqueueLast_mem : (s.enqueueLast d c p n e).mem = s.mem := rfl
@[simp] theorem State.enqueueLast_empties : (s.enqueueLast d c p n e).empties = s.empties := rfl
@[simp] theorem State.enqueueLast_poison : (s.enqueueLast d c p n e).poison = s.poison := rfl
@[simp] theorem State.enqueueLast_wpoison : (s.enqueueLast d c p n e).wpoison = s.wpoison := rfl
@[simp] theorem State.enqueueLast_flaws : (s.enqueueLast d c p n e).flaws = s.flaws := rfl
@[simp] theorem State.enqueueLast_dead : (s.enqueueLast d c p n e).dead = s.dead := rfl
@[simp] theorem State.enqueueLast_noise : (s.enqueueLast d c p n e).noise = s.noise := rfl
@[simp] theorem State.enqueueLast_seen : (s.enqueueLast d c p n e).seen = s.seen := rfl
@[simp] theorem State.enqueueLast_cores : (s.enqueueLast d c p n e).cores = s.cores := rfl
@[simp] theorem State.enqueueLast_accesses : (s.enqueueLast d c p n e).accesses = s.accesses := rfl
@[simp] theorem State.enqueueLast_msgs : (s.enqueueLast d c p n e).msgs = s.msgs := rfl
@[simp] theorem State.enqueueLast_park : (s.enqueueLast d c p n e).park = s.park := rfl
@[simp] theorem State.enqueueLast_transit : (s.enqueueLast d c p n e).transit = s.transit := rfl
@[simp] theorem State.enqueueLast_setfull : (s.enqueueLast d c p n e).setfull = s.setfull := rfl
@[simp] theorem State.enqueueLast_quadTlb : (s.enqueueLast d c p n e).quadTlb = s.quadTlb := rfl
@[simp] theorem State.enqueueLast_joins : (s.enqueueLast d c p n e).joins = s.joins := rfl
@[simp] theorem State.enqueueLast_foldOps : (s.enqueueLast d c p n e).foldOps = s.foldOps := rfl
@[simp] theorem State.enqueueLast_foldSeq : (s.enqueueLast d c p n e).foldSeq = s.foldSeq := rfl
@[simp] theorem State.enqueueLast_launches : (s.enqueueLast d c p n e).launches = s.launches := rfl
@[simp] theorem State.enqueueLast_history : (s.enqueueLast d c p n e).history = s.history := rfl
@[simp] theorem State.enqueueLast_saved : (s.enqueueLast d c p n e).saved = s.saved := rfl
@[simp] theorem State.enqueueLast_masterVacant : (s.enqueueLast d c p n e).masterVacant = s.masterVacant := rfl
@[simp] theorem State.enqueueLast_links : (s.enqueueLast d c p n e).links = s.links := rfl
@[simp] theorem State.enqueueLast_span : (s.enqueueLast d c p n e).span = s.span := rfl
@[simp] theorem State.enqueueLast_routes : (s.enqueueLast d c p n e).routes = s.routes := rfl
@[simp] theorem State.enqueueLast_pkgId : (s.enqueueLast d c p n e).pkgId = s.pkgId := rfl
@[simp] theorem State.enqueueLast_pkgSet : (s.enqueueLast d c p n e).pkgSet = s.pkgSet := rfl
@[simp] theorem State.enqueueLast_pwrLimit : (s.enqueueLast d c p n e).pwrLimit = s.pwrLimit := rfl
@[simp] theorem State.enqueueLast_pwrMeas : (s.enqueueLast d c p n e).pwrMeas = s.pwrMeas := rfl
@[simp] theorem State.enqueueLast_limiting : (s.enqueueLast d c p n e).limiting = s.limiting := rfl
@[simp] theorem State.enqueueLast_corr : (s.enqueueLast d c p n e).corr = s.corr := rfl
@[simp] theorem State.enqueueLast_uncorr : (s.enqueueLast d c p n e).uncorr = s.uncorr := rfl
@[simp] theorem State.enqueueLast_sensors : (s.enqueueLast d c p n e).sensors = s.sensors := rfl
@[simp] theorem State.enqueueLast_layers : (s.enqueueLast d c p n e).layers = s.layers := rfl
@[simp] theorem State.enqueueLast_fencedTowers : (s.enqueueLast d c p n e).fencedTowers = s.fencedTowers := rfl
@[simp] theorem State.enqueueLast_devBase : (s.enqueueLast d c p n e).devBase = s.devBase := rfl
@[simp] theorem State.enqueueLast_devPend : (s.enqueueLast d c p n e).devPend = s.devPend := rfl
@[simp] theorem State.enqueueLast_devCount : (s.enqueueLast d c p n e).devCount = s.devCount := rfl
@[simp] theorem State.enqueueLast_devLost : (s.enqueueLast d c p n e).devLost = s.devLost := rfl
@[simp] theorem State.enqueueLast_boot : (s.enqueueLast d c p n e).boot = s.boot := rfl
@[simp] theorem State.enqueueLast_blocks : (s.enqueueLast d c p n e).blocks = s.blocks := rfl
@[simp] theorem State.enqueueLast_tokens : (s.enqueueLast d c p n e).tokens = s.tokens := rfl
@[simp] theorem State.enqueueLast_replicas : (s.enqueueLast d c p n e).replicas = s.replicas := rfl
@[simp] theorem State.enqueueLast_frames : (s.enqueueLast d c p n e).frames = s.frames := rfl
@[simp] theorem State.enqueueLast_planes : (s.enqueueLast d c p n e).planes = s.planes := rfl
@[simp] theorem State.enqueueLast_shoots : (s.enqueueLast d c p n e).shoots = s.shoots := rfl
@[simp] theorem State.enqueueLast_paths : (s.enqueueLast d c p n e).paths = s.paths := rfl
@[simp] theorem State.enqueueLast_banks : (s.enqueueLast d c p n e).banks = s.banks := rfl
@[simp] theorem State.enqueueLast_refreshFrom : (s.enqueueLast d c p n e).refreshFrom = s.refreshFrom := rfl
@[simp] theorem State.enqueueLast_podTokens : (s.enqueueLast d c p n e).podTokens = s.podTokens := rfl
@[simp] theorem State.enqueueLast_watches : (s.enqueueLast d c p n e).watches = s.watches := rfl

end

/-! ### `State.delayed` -/

section
variable (s : State)

@[simp] theorem State.delayed_tick : s.delayed.tick = s.tick := rfl
@[simp] theorem State.delayed_epoch : s.delayed.epoch = s.epoch := rfl
@[simp] theorem State.delayed_turn : s.delayed.turn = s.turn := rfl
@[simp] theorem State.delayed_here : s.delayed.here = s.here := rfl
@[simp] theorem State.delayed_evPrio : s.delayed.evPrio = s.evPrio := rfl
@[simp] theorem State.delayed_evNum : s.delayed.evNum = s.evNum := rfl
@[simp] theorem State.delayed_queue : s.delayed.queue = s.queue := rfl
@[simp] theorem State.delayed_free : s.delayed.free = s.free := rfl
@[simp] theorem State.delayed_delays : s.delayed.delays = s.delays.tail := rfl
@[simp] theorem State.delayed_nextId : s.delayed.nextId = s.nextId := rfl
@[simp] theorem State.delayed_mem : s.delayed.mem = s.mem := rfl
@[simp] theorem State.delayed_empties : s.delayed.empties = s.empties := rfl
@[simp] theorem State.delayed_poison : s.delayed.poison = s.poison := rfl
@[simp] theorem State.delayed_cores : s.delayed.cores = s.cores := rfl
@[simp] theorem State.delayed_accesses : s.delayed.accesses = s.accesses := rfl
@[simp] theorem State.delayed_msgs : s.delayed.msgs = s.msgs := rfl
@[simp] theorem State.delayed_park : s.delayed.park = s.park := rfl
@[simp] theorem State.delayed_transit : s.delayed.transit = s.transit := rfl
@[simp] theorem State.delayed_setfull : s.delayed.setfull = s.setfull := rfl
@[simp] theorem State.delayed_quadTlb : s.delayed.quadTlb = s.quadTlb := rfl
@[simp] theorem State.delayed_joins : s.delayed.joins = s.joins := rfl
@[simp] theorem State.delayed_foldOps : s.delayed.foldOps = s.foldOps := rfl
@[simp] theorem State.delayed_foldSeq : s.delayed.foldSeq = s.foldSeq := rfl
@[simp] theorem State.delayed_launches : s.delayed.launches = s.launches := rfl
@[simp] theorem State.delayed_history : s.delayed.history = s.history := rfl
@[simp] theorem State.delayed_saved : s.delayed.saved = s.saved := rfl
@[simp] theorem State.delayed_masterVacant : s.delayed.masterVacant = s.masterVacant := rfl
@[simp] theorem State.delayed_links : s.delayed.links = s.links := rfl
@[simp] theorem State.delayed_span : s.delayed.span = s.span := rfl
@[simp] theorem State.delayed_routes : s.delayed.routes = s.routes := rfl
@[simp] theorem State.delayed_pkgId : s.delayed.pkgId = s.pkgId := rfl
@[simp] theorem State.delayed_pkgSet : s.delayed.pkgSet = s.pkgSet := rfl
@[simp] theorem State.delayed_pwrLimit : s.delayed.pwrLimit = s.pwrLimit := rfl
@[simp] theorem State.delayed_pwrMeas : s.delayed.pwrMeas = s.pwrMeas := rfl
@[simp] theorem State.delayed_limiting : s.delayed.limiting = s.limiting := rfl
@[simp] theorem State.delayed_corr : s.delayed.corr = s.corr := rfl
@[simp] theorem State.delayed_uncorr : s.delayed.uncorr = s.uncorr := rfl
@[simp] theorem State.delayed_sensors : s.delayed.sensors = s.sensors := rfl
@[simp] theorem State.delayed_layers : s.delayed.layers = s.layers := rfl
@[simp] theorem State.delayed_fencedTowers : s.delayed.fencedTowers = s.fencedTowers := rfl
@[simp] theorem State.delayed_devBase : s.delayed.devBase = s.devBase := rfl
@[simp] theorem State.delayed_devPend : s.delayed.devPend = s.devPend := rfl
@[simp] theorem State.delayed_devCount : s.delayed.devCount = s.devCount := rfl
@[simp] theorem State.delayed_devLost : s.delayed.devLost = s.devLost := rfl
@[simp] theorem State.delayed_boot : s.delayed.boot = s.boot := rfl
@[simp] theorem State.delayed_blocks : s.delayed.blocks = s.blocks := rfl
@[simp] theorem State.delayed_tokens : s.delayed.tokens = s.tokens := rfl
@[simp] theorem State.delayed_replicas : s.delayed.replicas = s.replicas := rfl
@[simp] theorem State.delayed_frames : s.delayed.frames = s.frames := rfl
@[simp] theorem State.delayed_planes : s.delayed.planes = s.planes := rfl
@[simp] theorem State.delayed_shoots : s.delayed.shoots = s.shoots := rfl
@[simp] theorem State.delayed_paths : s.delayed.paths = s.paths := rfl
@[simp] theorem State.delayed_banks : s.delayed.banks = s.banks := rfl
@[simp] theorem State.delayed_refreshFrom : s.delayed.refreshFrom = s.refreshFrom := rfl
@[simp] theorem State.delayed_podTokens : s.delayed.podTokens = s.podTokens := rfl
@[simp] theorem State.delayed_watches : s.delayed.watches = s.watches := rfl

end

/-! ### `State.bumpId` -/

section
variable (s : State)

@[simp] theorem State.bumpId_tick : s.bumpId.tick = s.tick := rfl
@[simp] theorem State.bumpId_epoch : s.bumpId.epoch = s.epoch := rfl
@[simp] theorem State.bumpId_turn : s.bumpId.turn = s.turn := rfl
@[simp] theorem State.bumpId_here : s.bumpId.here = s.here := rfl
@[simp] theorem State.bumpId_evPrio : s.bumpId.evPrio = s.evPrio := rfl
@[simp] theorem State.bumpId_evNum : s.bumpId.evNum = s.evNum := rfl
@[simp] theorem State.bumpId_queue : s.bumpId.queue = s.queue := rfl
@[simp] theorem State.bumpId_free : s.bumpId.free = s.free := rfl
@[simp] theorem State.bumpId_delays : s.bumpId.delays = s.delays := rfl
@[simp] theorem State.bumpId_nextId : s.bumpId.nextId = s.nextId + 1 := rfl
@[simp] theorem State.bumpId_mem : s.bumpId.mem = s.mem := rfl
@[simp] theorem State.bumpId_empties : s.bumpId.empties = s.empties := rfl
@[simp] theorem State.bumpId_poison : s.bumpId.poison = s.poison := rfl
@[simp] theorem State.bumpId_cores : s.bumpId.cores = s.cores := rfl
@[simp] theorem State.bumpId_accesses : s.bumpId.accesses = s.accesses := rfl
@[simp] theorem State.bumpId_msgs : s.bumpId.msgs = s.msgs := rfl
@[simp] theorem State.bumpId_park : s.bumpId.park = s.park := rfl
@[simp] theorem State.bumpId_transit : s.bumpId.transit = s.transit := rfl
@[simp] theorem State.bumpId_setfull : s.bumpId.setfull = s.setfull := rfl
@[simp] theorem State.bumpId_quadTlb : s.bumpId.quadTlb = s.quadTlb := rfl
@[simp] theorem State.bumpId_joins : s.bumpId.joins = s.joins := rfl
@[simp] theorem State.bumpId_foldOps : s.bumpId.foldOps = s.foldOps := rfl
@[simp] theorem State.bumpId_foldSeq : s.bumpId.foldSeq = s.foldSeq := rfl
@[simp] theorem State.bumpId_launches : s.bumpId.launches = s.launches := rfl
@[simp] theorem State.bumpId_history : s.bumpId.history = s.history := rfl
@[simp] theorem State.bumpId_saved : s.bumpId.saved = s.saved := rfl
@[simp] theorem State.bumpId_masterVacant : s.bumpId.masterVacant = s.masterVacant := rfl
@[simp] theorem State.bumpId_links : s.bumpId.links = s.links := rfl
@[simp] theorem State.bumpId_span : s.bumpId.span = s.span := rfl
@[simp] theorem State.bumpId_routes : s.bumpId.routes = s.routes := rfl
@[simp] theorem State.bumpId_pkgId : s.bumpId.pkgId = s.pkgId := rfl
@[simp] theorem State.bumpId_pkgSet : s.bumpId.pkgSet = s.pkgSet := rfl
@[simp] theorem State.bumpId_pwrLimit : s.bumpId.pwrLimit = s.pwrLimit := rfl
@[simp] theorem State.bumpId_pwrMeas : s.bumpId.pwrMeas = s.pwrMeas := rfl
@[simp] theorem State.bumpId_limiting : s.bumpId.limiting = s.limiting := rfl
@[simp] theorem State.bumpId_corr : s.bumpId.corr = s.corr := rfl
@[simp] theorem State.bumpId_uncorr : s.bumpId.uncorr = s.uncorr := rfl
@[simp] theorem State.bumpId_sensors : s.bumpId.sensors = s.sensors := rfl
@[simp] theorem State.bumpId_layers : s.bumpId.layers = s.layers := rfl
@[simp] theorem State.bumpId_fencedTowers : s.bumpId.fencedTowers = s.fencedTowers := rfl
@[simp] theorem State.bumpId_devBase : s.bumpId.devBase = s.devBase := rfl
@[simp] theorem State.bumpId_devPend : s.bumpId.devPend = s.devPend := rfl
@[simp] theorem State.bumpId_devCount : s.bumpId.devCount = s.devCount := rfl
@[simp] theorem State.bumpId_devLost : s.bumpId.devLost = s.devLost := rfl
@[simp] theorem State.bumpId_boot : s.bumpId.boot = s.boot := rfl
@[simp] theorem State.bumpId_blocks : s.bumpId.blocks = s.blocks := rfl
@[simp] theorem State.bumpId_tokens : s.bumpId.tokens = s.tokens := rfl
@[simp] theorem State.bumpId_replicas : s.bumpId.replicas = s.replicas := rfl
@[simp] theorem State.bumpId_frames : s.bumpId.frames = s.frames := rfl
@[simp] theorem State.bumpId_planes : s.bumpId.planes = s.planes := rfl
@[simp] theorem State.bumpId_shoots : s.bumpId.shoots = s.shoots := rfl
@[simp] theorem State.bumpId_paths : s.bumpId.paths = s.paths := rfl
@[simp] theorem State.bumpId_banks : s.bumpId.banks = s.banks := rfl
@[simp] theorem State.bumpId_refreshFrom : s.bumpId.refreshFrom = s.refreshFrom := rfl
@[simp] theorem State.bumpId_podTokens : s.bumpId.podTokens = s.podTokens := rfl
@[simp] theorem State.bumpId_watches : s.bumpId.watches = s.watches := rfl

end

/-! ### `State.bumpFree` -/

section
variable (s : State)

@[simp] theorem State.bumpFree_tick : s.bumpFree.tick = s.tick := rfl
@[simp] theorem State.bumpFree_epoch : s.bumpFree.epoch = s.epoch := rfl
@[simp] theorem State.bumpFree_turn : s.bumpFree.turn = s.turn := rfl
@[simp] theorem State.bumpFree_here : s.bumpFree.here = s.here := rfl
@[simp] theorem State.bumpFree_evPrio : s.bumpFree.evPrio = s.evPrio := rfl
@[simp] theorem State.bumpFree_evNum : s.bumpFree.evNum = s.evNum := rfl
@[simp] theorem State.bumpFree_queue : s.bumpFree.queue = s.queue := rfl
@[simp] theorem State.bumpFree_free : s.bumpFree.free = s.free + 1 := rfl
@[simp] theorem State.bumpFree_delays : s.bumpFree.delays = s.delays := rfl
@[simp] theorem State.bumpFree_nextId : s.bumpFree.nextId = s.nextId := rfl
@[simp] theorem State.bumpFree_mem : s.bumpFree.mem = s.mem := rfl
@[simp] theorem State.bumpFree_empties : s.bumpFree.empties = s.empties := rfl
@[simp] theorem State.bumpFree_poison : s.bumpFree.poison = s.poison := rfl
@[simp] theorem State.bumpFree_cores : s.bumpFree.cores = s.cores := rfl
@[simp] theorem State.bumpFree_accesses : s.bumpFree.accesses = s.accesses := rfl
@[simp] theorem State.bumpFree_msgs : s.bumpFree.msgs = s.msgs := rfl
@[simp] theorem State.bumpFree_park : s.bumpFree.park = s.park := rfl
@[simp] theorem State.bumpFree_transit : s.bumpFree.transit = s.transit := rfl
@[simp] theorem State.bumpFree_setfull : s.bumpFree.setfull = s.setfull := rfl
@[simp] theorem State.bumpFree_quadTlb : s.bumpFree.quadTlb = s.quadTlb := rfl
@[simp] theorem State.bumpFree_joins : s.bumpFree.joins = s.joins := rfl
@[simp] theorem State.bumpFree_foldOps : s.bumpFree.foldOps = s.foldOps := rfl
@[simp] theorem State.bumpFree_foldSeq : s.bumpFree.foldSeq = s.foldSeq := rfl
@[simp] theorem State.bumpFree_launches : s.bumpFree.launches = s.launches := rfl
@[simp] theorem State.bumpFree_history : s.bumpFree.history = s.history := rfl
@[simp] theorem State.bumpFree_saved : s.bumpFree.saved = s.saved := rfl
@[simp] theorem State.bumpFree_masterVacant : s.bumpFree.masterVacant = s.masterVacant := rfl
@[simp] theorem State.bumpFree_links : s.bumpFree.links = s.links := rfl
@[simp] theorem State.bumpFree_span : s.bumpFree.span = s.span := rfl
@[simp] theorem State.bumpFree_routes : s.bumpFree.routes = s.routes := rfl
@[simp] theorem State.bumpFree_pkgId : s.bumpFree.pkgId = s.pkgId := rfl
@[simp] theorem State.bumpFree_pkgSet : s.bumpFree.pkgSet = s.pkgSet := rfl
@[simp] theorem State.bumpFree_pwrLimit : s.bumpFree.pwrLimit = s.pwrLimit := rfl
@[simp] theorem State.bumpFree_pwrMeas : s.bumpFree.pwrMeas = s.pwrMeas := rfl
@[simp] theorem State.bumpFree_limiting : s.bumpFree.limiting = s.limiting := rfl
@[simp] theorem State.bumpFree_corr : s.bumpFree.corr = s.corr := rfl
@[simp] theorem State.bumpFree_uncorr : s.bumpFree.uncorr = s.uncorr := rfl
@[simp] theorem State.bumpFree_sensors : s.bumpFree.sensors = s.sensors := rfl
@[simp] theorem State.bumpFree_layers : s.bumpFree.layers = s.layers := rfl
@[simp] theorem State.bumpFree_fencedTowers : s.bumpFree.fencedTowers = s.fencedTowers := rfl
@[simp] theorem State.bumpFree_devBase : s.bumpFree.devBase = s.devBase := rfl
@[simp] theorem State.bumpFree_devPend : s.bumpFree.devPend = s.devPend := rfl
@[simp] theorem State.bumpFree_devCount : s.bumpFree.devCount = s.devCount := rfl
@[simp] theorem State.bumpFree_devLost : s.bumpFree.devLost = s.devLost := rfl
@[simp] theorem State.bumpFree_boot : s.bumpFree.boot = s.boot := rfl
@[simp] theorem State.bumpFree_blocks : s.bumpFree.blocks = s.blocks := rfl
@[simp] theorem State.bumpFree_tokens : s.bumpFree.tokens = s.tokens := rfl
@[simp] theorem State.bumpFree_replicas : s.bumpFree.replicas = s.replicas := rfl
@[simp] theorem State.bumpFree_frames : s.bumpFree.frames = s.frames := rfl
@[simp] theorem State.bumpFree_planes : s.bumpFree.planes = s.planes := rfl
@[simp] theorem State.bumpFree_shoots : s.bumpFree.shoots = s.shoots := rfl
@[simp] theorem State.bumpFree_paths : s.bumpFree.paths = s.paths := rfl
@[simp] theorem State.bumpFree_banks : s.bumpFree.banks = s.banks := rfl
@[simp] theorem State.bumpFree_refreshFrom : s.bumpFree.refreshFrom = s.refreshFrom := rfl
@[simp] theorem State.bumpFree_podTokens : s.bumpFree.podTokens = s.podTokens := rfl
@[simp] theorem State.bumpFree_watches : s.bumpFree.watches = s.watches := rfl

end

/-! ### `State.wrN` -/

section
variable (s : State) (a n v : Nat)

@[simp] theorem State.wrN_tick : (s.wrN a n v).tick = s.tick := rfl
@[simp] theorem State.wrN_epoch : (s.wrN a n v).epoch = s.epoch := rfl
@[simp] theorem State.wrN_turn : (s.wrN a n v).turn = s.turn := rfl
@[simp] theorem State.wrN_here : (s.wrN a n v).here = s.here := rfl
@[simp] theorem State.wrN_evPrio : (s.wrN a n v).evPrio = s.evPrio := rfl
@[simp] theorem State.wrN_evNum : (s.wrN a n v).evNum = s.evNum := rfl
@[simp] theorem State.wrN_queue : (s.wrN a n v).queue = s.queue := rfl
@[simp] theorem State.wrN_free : (s.wrN a n v).free = s.free := rfl
@[simp] theorem State.wrN_delays : (s.wrN a n v).delays = s.delays := rfl
@[simp] theorem State.wrN_nextId : (s.wrN a n v).nextId = s.nextId := rfl
@[simp] theorem State.wrN_empties : (s.wrN a n v).empties = s.empties := rfl
@[simp] theorem State.wrN_poison : (s.wrN a n v).poison = s.poison := rfl
@[simp] theorem State.wrN_wpoison : (s.wrN a n v).wpoison = s.wpoison := rfl
@[simp] theorem State.wrN_flaws : (s.wrN a n v).flaws = s.flaws := rfl
@[simp] theorem State.wrN_dead : (s.wrN a n v).dead = s.dead := rfl
@[simp] theorem State.wrN_noise : (s.wrN a n v).noise = s.noise := rfl
@[simp] theorem State.wrN_seen : (s.wrN a n v).seen = s.seen := rfl
@[simp] theorem State.wrN_cores : (s.wrN a n v).cores = s.cores := rfl
@[simp] theorem State.wrN_accesses : (s.wrN a n v).accesses = s.accesses := rfl
@[simp] theorem State.wrN_msgs : (s.wrN a n v).msgs = s.msgs := rfl
@[simp] theorem State.wrN_park : (s.wrN a n v).park = s.park := rfl
@[simp] theorem State.wrN_transit : (s.wrN a n v).transit = s.transit := rfl
@[simp] theorem State.wrN_setfull : (s.wrN a n v).setfull = s.setfull := rfl
@[simp] theorem State.wrN_quadTlb : (s.wrN a n v).quadTlb = s.quadTlb := rfl
@[simp] theorem State.wrN_joins : (s.wrN a n v).joins = s.joins := rfl
@[simp] theorem State.wrN_foldOps : (s.wrN a n v).foldOps = s.foldOps := rfl
@[simp] theorem State.wrN_foldSeq : (s.wrN a n v).foldSeq = s.foldSeq := rfl
@[simp] theorem State.wrN_launches : (s.wrN a n v).launches = s.launches := rfl
@[simp] theorem State.wrN_history : (s.wrN a n v).history = s.history := rfl
@[simp] theorem State.wrN_saved : (s.wrN a n v).saved = s.saved := rfl
@[simp] theorem State.wrN_masterVacant : (s.wrN a n v).masterVacant = s.masterVacant := rfl
@[simp] theorem State.wrN_links : (s.wrN a n v).links = s.links := rfl
@[simp] theorem State.wrN_span : (s.wrN a n v).span = s.span := rfl
@[simp] theorem State.wrN_routes : (s.wrN a n v).routes = s.routes := rfl
@[simp] theorem State.wrN_pkgId : (s.wrN a n v).pkgId = s.pkgId := rfl
@[simp] theorem State.wrN_pkgSet : (s.wrN a n v).pkgSet = s.pkgSet := rfl
@[simp] theorem State.wrN_pwrLimit : (s.wrN a n v).pwrLimit = s.pwrLimit := rfl
@[simp] theorem State.wrN_pwrMeas : (s.wrN a n v).pwrMeas = s.pwrMeas := rfl
@[simp] theorem State.wrN_limiting : (s.wrN a n v).limiting = s.limiting := rfl
@[simp] theorem State.wrN_corr : (s.wrN a n v).corr = s.corr := rfl
@[simp] theorem State.wrN_uncorr : (s.wrN a n v).uncorr = s.uncorr := rfl
@[simp] theorem State.wrN_sensors : (s.wrN a n v).sensors = s.sensors := rfl
@[simp] theorem State.wrN_layers : (s.wrN a n v).layers = s.layers := rfl
@[simp] theorem State.wrN_fencedTowers : (s.wrN a n v).fencedTowers = s.fencedTowers := rfl
@[simp] theorem State.wrN_devBase : (s.wrN a n v).devBase = s.devBase := rfl
@[simp] theorem State.wrN_devPend : (s.wrN a n v).devPend = s.devPend := rfl
@[simp] theorem State.wrN_devCount : (s.wrN a n v).devCount = s.devCount := rfl
@[simp] theorem State.wrN_devLost : (s.wrN a n v).devLost = s.devLost := rfl
@[simp] theorem State.wrN_boot : (s.wrN a n v).boot = s.boot := rfl
@[simp] theorem State.wrN_blocks : (s.wrN a n v).blocks = s.blocks := rfl
@[simp] theorem State.wrN_tokens : (s.wrN a n v).tokens = s.tokens := rfl
@[simp] theorem State.wrN_replicas : (s.wrN a n v).replicas = s.replicas := rfl
@[simp] theorem State.wrN_frames : (s.wrN a n v).frames = s.frames := rfl
@[simp] theorem State.wrN_planes : (s.wrN a n v).planes = s.planes := rfl
@[simp] theorem State.wrN_shoots : (s.wrN a n v).shoots = s.shoots := rfl
@[simp] theorem State.wrN_paths : (s.wrN a n v).paths = s.paths := rfl
@[simp] theorem State.wrN_banks : (s.wrN a n v).banks = s.banks := rfl
@[simp] theorem State.wrN_refreshFrom : (s.wrN a n v).refreshFrom = s.refreshFrom := rfl
@[simp] theorem State.wrN_podTokens : (s.wrN a n v).podTokens = s.podTokens := rfl
@[simp] theorem State.wrN_watches : (s.wrN a n v).watches = s.watches := rfl

end

/-! ### `State.setFE` -/

section
variable (s : State) (a : Nat) (b : Bool)

@[simp] theorem State.setFE_tick : (s.setFE a b).tick = s.tick := rfl
@[simp] theorem State.setFE_epoch : (s.setFE a b).epoch = s.epoch := rfl
@[simp] theorem State.setFE_turn : (s.setFE a b).turn = s.turn := rfl
@[simp] theorem State.setFE_here : (s.setFE a b).here = s.here := rfl
@[simp] theorem State.setFE_evPrio : (s.setFE a b).evPrio = s.evPrio := rfl
@[simp] theorem State.setFE_evNum : (s.setFE a b).evNum = s.evNum := rfl
@[simp] theorem State.setFE_queue : (s.setFE a b).queue = s.queue := rfl
@[simp] theorem State.setFE_free : (s.setFE a b).free = s.free := rfl
@[simp] theorem State.setFE_delays : (s.setFE a b).delays = s.delays := rfl
@[simp] theorem State.setFE_nextId : (s.setFE a b).nextId = s.nextId := rfl
@[simp] theorem State.setFE_mem : (s.setFE a b).mem = s.mem := rfl
@[simp] theorem State.setFE_empties : (s.setFE a b).empties = (if b then delKey s.empties (wordOf a) else addKey s.empties (wordOf a)) := rfl
@[simp] theorem State.setFE_poison : (s.setFE a b).poison = s.poison := rfl
@[simp] theorem State.setFE_wpoison : (s.setFE a b).wpoison = s.wpoison := rfl
@[simp] theorem State.setFE_flaws : (s.setFE a b).flaws = s.flaws := rfl
@[simp] theorem State.setFE_dead : (s.setFE a b).dead = s.dead := rfl
@[simp] theorem State.setFE_noise : (s.setFE a b).noise = s.noise := rfl
@[simp] theorem State.setFE_seen : (s.setFE a b).seen = s.seen := rfl
@[simp] theorem State.setFE_cores : (s.setFE a b).cores = s.cores := rfl
@[simp] theorem State.setFE_accesses : (s.setFE a b).accesses = s.accesses := rfl
@[simp] theorem State.setFE_msgs : (s.setFE a b).msgs = s.msgs := rfl
@[simp] theorem State.setFE_park : (s.setFE a b).park = s.park := rfl
@[simp] theorem State.setFE_transit : (s.setFE a b).transit = s.transit := rfl
@[simp] theorem State.setFE_setfull : (s.setFE a b).setfull = s.setfull := rfl
@[simp] theorem State.setFE_quadTlb : (s.setFE a b).quadTlb = s.quadTlb := rfl
@[simp] theorem State.setFE_joins : (s.setFE a b).joins = s.joins := rfl
@[simp] theorem State.setFE_foldOps : (s.setFE a b).foldOps = s.foldOps := rfl
@[simp] theorem State.setFE_foldSeq : (s.setFE a b).foldSeq = s.foldSeq := rfl
@[simp] theorem State.setFE_launches : (s.setFE a b).launches = s.launches := rfl
@[simp] theorem State.setFE_history : (s.setFE a b).history = s.history := rfl
@[simp] theorem State.setFE_saved : (s.setFE a b).saved = s.saved := rfl
@[simp] theorem State.setFE_masterVacant : (s.setFE a b).masterVacant = s.masterVacant := rfl
@[simp] theorem State.setFE_links : (s.setFE a b).links = s.links := rfl
@[simp] theorem State.setFE_span : (s.setFE a b).span = s.span := rfl
@[simp] theorem State.setFE_routes : (s.setFE a b).routes = s.routes := rfl
@[simp] theorem State.setFE_pkgId : (s.setFE a b).pkgId = s.pkgId := rfl
@[simp] theorem State.setFE_pkgSet : (s.setFE a b).pkgSet = s.pkgSet := rfl
@[simp] theorem State.setFE_pwrLimit : (s.setFE a b).pwrLimit = s.pwrLimit := rfl
@[simp] theorem State.setFE_pwrMeas : (s.setFE a b).pwrMeas = s.pwrMeas := rfl
@[simp] theorem State.setFE_limiting : (s.setFE a b).limiting = s.limiting := rfl
@[simp] theorem State.setFE_corr : (s.setFE a b).corr = s.corr := rfl
@[simp] theorem State.setFE_uncorr : (s.setFE a b).uncorr = s.uncorr := rfl
@[simp] theorem State.setFE_sensors : (s.setFE a b).sensors = s.sensors := rfl
@[simp] theorem State.setFE_layers : (s.setFE a b).layers = s.layers := rfl
@[simp] theorem State.setFE_fencedTowers : (s.setFE a b).fencedTowers = s.fencedTowers := rfl
@[simp] theorem State.setFE_devBase : (s.setFE a b).devBase = s.devBase := rfl
@[simp] theorem State.setFE_devPend : (s.setFE a b).devPend = s.devPend := rfl
@[simp] theorem State.setFE_devCount : (s.setFE a b).devCount = s.devCount := rfl
@[simp] theorem State.setFE_devLost : (s.setFE a b).devLost = s.devLost := rfl
@[simp] theorem State.setFE_boot : (s.setFE a b).boot = s.boot := rfl
@[simp] theorem State.setFE_blocks : (s.setFE a b).blocks = s.blocks := rfl
@[simp] theorem State.setFE_tokens : (s.setFE a b).tokens = s.tokens := rfl
@[simp] theorem State.setFE_replicas : (s.setFE a b).replicas = s.replicas := rfl
@[simp] theorem State.setFE_frames : (s.setFE a b).frames = s.frames := rfl
@[simp] theorem State.setFE_planes : (s.setFE a b).planes = s.planes := rfl
@[simp] theorem State.setFE_shoots : (s.setFE a b).shoots = s.shoots := rfl
@[simp] theorem State.setFE_paths : (s.setFE a b).paths = s.paths := rfl
@[simp] theorem State.setFE_banks : (s.setFE a b).banks = s.banks := rfl
@[simp] theorem State.setFE_refreshFrom : (s.setFE a b).refreshFrom = s.refreshFrom := rfl
@[simp] theorem State.setFE_podTokens : (s.setFE a b).podTokens = s.podTokens := rfl
@[simp] theorem State.setFE_watches : (s.setFE a b).watches = s.watches := rfl

end

/-! ### `State.unpoison` -/

section
variable (s : State) (a : Nat)

@[simp] theorem State.unpoison_tick : (s.unpoison a).tick = s.tick := rfl
@[simp] theorem State.unpoison_epoch : (s.unpoison a).epoch = s.epoch := rfl
@[simp] theorem State.unpoison_turn : (s.unpoison a).turn = s.turn := rfl
@[simp] theorem State.unpoison_here : (s.unpoison a).here = s.here := rfl
@[simp] theorem State.unpoison_evPrio : (s.unpoison a).evPrio = s.evPrio := rfl
@[simp] theorem State.unpoison_evNum : (s.unpoison a).evNum = s.evNum := rfl
@[simp] theorem State.unpoison_queue : (s.unpoison a).queue = s.queue := rfl
@[simp] theorem State.unpoison_free : (s.unpoison a).free = s.free := rfl
@[simp] theorem State.unpoison_delays : (s.unpoison a).delays = s.delays := rfl
@[simp] theorem State.unpoison_nextId : (s.unpoison a).nextId = s.nextId := rfl
@[simp] theorem State.unpoison_mem : (s.unpoison a).mem = s.mem := rfl
@[simp] theorem State.unpoison_empties : (s.unpoison a).empties = s.empties := rfl
@[simp] theorem State.unpoison_poison : (s.unpoison a).poison = s.poison := rfl
@[simp] theorem State.unpoison_wpoison : (s.unpoison a).wpoison = delKey s.wpoison (wordOf a) := rfl
@[simp] theorem State.unpoison_flaws : (s.unpoison a).flaws = s.flaws.filter fun x => x.2.wide || x.1 != wordOf a := rfl
@[simp] theorem State.unpoison_dead : (s.unpoison a).dead = s.dead := rfl
@[simp] theorem State.unpoison_noise : (s.unpoison a).noise = s.noise := rfl
@[simp] theorem State.unpoison_seen : (s.unpoison a).seen = s.seen := rfl
@[simp] theorem State.unpoison_cores : (s.unpoison a).cores = s.cores := rfl
@[simp] theorem State.unpoison_accesses : (s.unpoison a).accesses = s.accesses := rfl
@[simp] theorem State.unpoison_msgs : (s.unpoison a).msgs = s.msgs := rfl
@[simp] theorem State.unpoison_park : (s.unpoison a).park = s.park := rfl
@[simp] theorem State.unpoison_transit : (s.unpoison a).transit = s.transit := rfl
@[simp] theorem State.unpoison_setfull : (s.unpoison a).setfull = s.setfull := rfl
@[simp] theorem State.unpoison_quadTlb : (s.unpoison a).quadTlb = s.quadTlb := rfl
@[simp] theorem State.unpoison_joins : (s.unpoison a).joins = s.joins := rfl
@[simp] theorem State.unpoison_foldOps : (s.unpoison a).foldOps = s.foldOps := rfl
@[simp] theorem State.unpoison_foldSeq : (s.unpoison a).foldSeq = s.foldSeq := rfl
@[simp] theorem State.unpoison_launches : (s.unpoison a).launches = s.launches := rfl
@[simp] theorem State.unpoison_history : (s.unpoison a).history = s.history := rfl
@[simp] theorem State.unpoison_saved : (s.unpoison a).saved = s.saved := rfl
@[simp] theorem State.unpoison_masterVacant : (s.unpoison a).masterVacant = s.masterVacant := rfl
@[simp] theorem State.unpoison_links : (s.unpoison a).links = s.links := rfl
@[simp] theorem State.unpoison_span : (s.unpoison a).span = s.span := rfl
@[simp] theorem State.unpoison_routes : (s.unpoison a).routes = s.routes := rfl
@[simp] theorem State.unpoison_pkgId : (s.unpoison a).pkgId = s.pkgId := rfl
@[simp] theorem State.unpoison_pkgSet : (s.unpoison a).pkgSet = s.pkgSet := rfl
@[simp] theorem State.unpoison_pwrLimit : (s.unpoison a).pwrLimit = s.pwrLimit := rfl
@[simp] theorem State.unpoison_pwrMeas : (s.unpoison a).pwrMeas = s.pwrMeas := rfl
@[simp] theorem State.unpoison_limiting : (s.unpoison a).limiting = s.limiting := rfl
@[simp] theorem State.unpoison_corr : (s.unpoison a).corr = s.corr := rfl
@[simp] theorem State.unpoison_uncorr : (s.unpoison a).uncorr = s.uncorr := rfl
@[simp] theorem State.unpoison_sensors : (s.unpoison a).sensors = s.sensors := rfl
@[simp] theorem State.unpoison_layers : (s.unpoison a).layers = s.layers := rfl
@[simp] theorem State.unpoison_fencedTowers : (s.unpoison a).fencedTowers = s.fencedTowers := rfl
@[simp] theorem State.unpoison_devBase : (s.unpoison a).devBase = s.devBase := rfl
@[simp] theorem State.unpoison_devPend : (s.unpoison a).devPend = s.devPend := rfl
@[simp] theorem State.unpoison_devCount : (s.unpoison a).devCount = s.devCount := rfl
@[simp] theorem State.unpoison_devLost : (s.unpoison a).devLost = s.devLost := rfl
@[simp] theorem State.unpoison_boot : (s.unpoison a).boot = s.boot := rfl
@[simp] theorem State.unpoison_blocks : (s.unpoison a).blocks = s.blocks := rfl
@[simp] theorem State.unpoison_tokens : (s.unpoison a).tokens = s.tokens := rfl
@[simp] theorem State.unpoison_replicas : (s.unpoison a).replicas = s.replicas := rfl
@[simp] theorem State.unpoison_frames : (s.unpoison a).frames = s.frames := rfl
@[simp] theorem State.unpoison_planes : (s.unpoison a).planes = s.planes := rfl
@[simp] theorem State.unpoison_shoots : (s.unpoison a).shoots = s.shoots := rfl
@[simp] theorem State.unpoison_paths : (s.unpoison a).paths = s.paths := rfl
@[simp] theorem State.unpoison_banks : (s.unpoison a).banks = s.banks := rfl
@[simp] theorem State.unpoison_refreshFrom : (s.unpoison a).refreshFrom = s.refreshFrom := rfl
@[simp] theorem State.unpoison_podTokens : (s.unpoison a).podTokens = s.podTokens := rfl
@[simp] theorem State.unpoison_watches : (s.unpoison a).watches = s.watches := rfl

end

/-! ### `State.addPoison` -/

section
variable (s : State) (a : Nat)

@[simp] theorem State.addPoison_tick : (s.addPoison a).tick = s.tick := rfl
@[simp] theorem State.addPoison_epoch : (s.addPoison a).epoch = s.epoch := rfl
@[simp] theorem State.addPoison_turn : (s.addPoison a).turn = s.turn := rfl
@[simp] theorem State.addPoison_here : (s.addPoison a).here = s.here := rfl
@[simp] theorem State.addPoison_evPrio : (s.addPoison a).evPrio = s.evPrio := rfl
@[simp] theorem State.addPoison_evNum : (s.addPoison a).evNum = s.evNum := rfl
@[simp] theorem State.addPoison_queue : (s.addPoison a).queue = s.queue := rfl
@[simp] theorem State.addPoison_free : (s.addPoison a).free = s.free := rfl
@[simp] theorem State.addPoison_delays : (s.addPoison a).delays = s.delays := rfl
@[simp] theorem State.addPoison_nextId : (s.addPoison a).nextId = s.nextId := rfl
@[simp] theorem State.addPoison_mem : (s.addPoison a).mem = s.mem := rfl
@[simp] theorem State.addPoison_empties : (s.addPoison a).empties = s.empties := rfl
@[simp] theorem State.addPoison_poison : (s.addPoison a).poison = addKey s.poison (blockAt a) := rfl
@[simp] theorem State.addPoison_wpoison : (s.addPoison a).wpoison = s.wpoison := rfl
@[simp] theorem State.addPoison_flaws : (s.addPoison a).flaws = s.flaws := rfl
@[simp] theorem State.addPoison_dead : (s.addPoison a).dead = s.dead := rfl
@[simp] theorem State.addPoison_noise : (s.addPoison a).noise = s.noise := rfl
@[simp] theorem State.addPoison_seen : (s.addPoison a).seen = s.seen := rfl
@[simp] theorem State.addPoison_cores : (s.addPoison a).cores = s.cores := rfl
@[simp] theorem State.addPoison_accesses : (s.addPoison a).accesses = s.accesses := rfl
@[simp] theorem State.addPoison_msgs : (s.addPoison a).msgs = s.msgs := rfl
@[simp] theorem State.addPoison_park : (s.addPoison a).park = s.park := rfl
@[simp] theorem State.addPoison_transit : (s.addPoison a).transit = s.transit := rfl
@[simp] theorem State.addPoison_setfull : (s.addPoison a).setfull = s.setfull := rfl
@[simp] theorem State.addPoison_quadTlb : (s.addPoison a).quadTlb = s.quadTlb := rfl
@[simp] theorem State.addPoison_joins : (s.addPoison a).joins = s.joins := rfl
@[simp] theorem State.addPoison_foldOps : (s.addPoison a).foldOps = s.foldOps := rfl
@[simp] theorem State.addPoison_foldSeq : (s.addPoison a).foldSeq = s.foldSeq := rfl
@[simp] theorem State.addPoison_launches : (s.addPoison a).launches = s.launches := rfl
@[simp] theorem State.addPoison_history : (s.addPoison a).history = s.history := rfl
@[simp] theorem State.addPoison_saved : (s.addPoison a).saved = s.saved := rfl
@[simp] theorem State.addPoison_masterVacant : (s.addPoison a).masterVacant = s.masterVacant := rfl
@[simp] theorem State.addPoison_links : (s.addPoison a).links = s.links := rfl
@[simp] theorem State.addPoison_span : (s.addPoison a).span = s.span := rfl
@[simp] theorem State.addPoison_routes : (s.addPoison a).routes = s.routes := rfl
@[simp] theorem State.addPoison_pkgId : (s.addPoison a).pkgId = s.pkgId := rfl
@[simp] theorem State.addPoison_pkgSet : (s.addPoison a).pkgSet = s.pkgSet := rfl
@[simp] theorem State.addPoison_pwrLimit : (s.addPoison a).pwrLimit = s.pwrLimit := rfl
@[simp] theorem State.addPoison_pwrMeas : (s.addPoison a).pwrMeas = s.pwrMeas := rfl
@[simp] theorem State.addPoison_limiting : (s.addPoison a).limiting = s.limiting := rfl
@[simp] theorem State.addPoison_corr : (s.addPoison a).corr = s.corr := rfl
@[simp] theorem State.addPoison_uncorr : (s.addPoison a).uncorr = s.uncorr := rfl
@[simp] theorem State.addPoison_sensors : (s.addPoison a).sensors = s.sensors := rfl
@[simp] theorem State.addPoison_layers : (s.addPoison a).layers = s.layers := rfl
@[simp] theorem State.addPoison_fencedTowers : (s.addPoison a).fencedTowers = s.fencedTowers := rfl
@[simp] theorem State.addPoison_devBase : (s.addPoison a).devBase = s.devBase := rfl
@[simp] theorem State.addPoison_devPend : (s.addPoison a).devPend = s.devPend := rfl
@[simp] theorem State.addPoison_devCount : (s.addPoison a).devCount = s.devCount := rfl
@[simp] theorem State.addPoison_devLost : (s.addPoison a).devLost = s.devLost := rfl
@[simp] theorem State.addPoison_boot : (s.addPoison a).boot = s.boot := rfl
@[simp] theorem State.addPoison_blocks : (s.addPoison a).blocks = s.blocks := rfl
@[simp] theorem State.addPoison_tokens : (s.addPoison a).tokens = s.tokens := rfl
@[simp] theorem State.addPoison_replicas : (s.addPoison a).replicas = s.replicas := rfl
@[simp] theorem State.addPoison_frames : (s.addPoison a).frames = s.frames := rfl
@[simp] theorem State.addPoison_planes : (s.addPoison a).planes = s.planes := rfl
@[simp] theorem State.addPoison_shoots : (s.addPoison a).shoots = s.shoots := rfl
@[simp] theorem State.addPoison_paths : (s.addPoison a).paths = s.paths := rfl
@[simp] theorem State.addPoison_banks : (s.addPoison a).banks = s.banks := rfl
@[simp] theorem State.addPoison_refreshFrom : (s.addPoison a).refreshFrom = s.refreshFrom := rfl
@[simp] theorem State.addPoison_podTokens : (s.addPoison a).podTokens = s.podTokens := rfl
@[simp] theorem State.addPoison_watches : (s.addPoison a).watches = s.watches := rfl

end

/-! ### `State.addWordPoison` -/

section
variable (s : State) (a : Nat)

@[simp] theorem State.addWordPoison_tick : (s.addWordPoison a).tick = s.tick := rfl
@[simp] theorem State.addWordPoison_epoch : (s.addWordPoison a).epoch = s.epoch := rfl
@[simp] theorem State.addWordPoison_turn : (s.addWordPoison a).turn = s.turn := rfl
@[simp] theorem State.addWordPoison_here : (s.addWordPoison a).here = s.here := rfl
@[simp] theorem State.addWordPoison_evPrio : (s.addWordPoison a).evPrio = s.evPrio := rfl
@[simp] theorem State.addWordPoison_evNum : (s.addWordPoison a).evNum = s.evNum := rfl
@[simp] theorem State.addWordPoison_queue : (s.addWordPoison a).queue = s.queue := rfl
@[simp] theorem State.addWordPoison_free : (s.addWordPoison a).free = s.free := rfl
@[simp] theorem State.addWordPoison_delays : (s.addWordPoison a).delays = s.delays := rfl
@[simp] theorem State.addWordPoison_nextId : (s.addWordPoison a).nextId = s.nextId := rfl
@[simp] theorem State.addWordPoison_mem : (s.addWordPoison a).mem = s.mem := rfl
@[simp] theorem State.addWordPoison_empties : (s.addWordPoison a).empties = s.empties := rfl
@[simp] theorem State.addWordPoison_poison : (s.addWordPoison a).poison = s.poison := rfl
@[simp] theorem State.addWordPoison_wpoison : (s.addWordPoison a).wpoison = addKey s.wpoison (wordOf a) := rfl
@[simp] theorem State.addWordPoison_flaws : (s.addWordPoison a).flaws = s.flaws := rfl
@[simp] theorem State.addWordPoison_dead : (s.addWordPoison a).dead = s.dead := rfl
@[simp] theorem State.addWordPoison_noise : (s.addWordPoison a).noise = s.noise := rfl
@[simp] theorem State.addWordPoison_seen : (s.addWordPoison a).seen = s.seen := rfl
@[simp] theorem State.addWordPoison_cores : (s.addWordPoison a).cores = s.cores := rfl
@[simp] theorem State.addWordPoison_accesses : (s.addWordPoison a).accesses = s.accesses := rfl
@[simp] theorem State.addWordPoison_msgs : (s.addWordPoison a).msgs = s.msgs := rfl
@[simp] theorem State.addWordPoison_park : (s.addWordPoison a).park = s.park := rfl
@[simp] theorem State.addWordPoison_transit : (s.addWordPoison a).transit = s.transit := rfl
@[simp] theorem State.addWordPoison_setfull : (s.addWordPoison a).setfull = s.setfull := rfl
@[simp] theorem State.addWordPoison_quadTlb : (s.addWordPoison a).quadTlb = s.quadTlb := rfl
@[simp] theorem State.addWordPoison_joins : (s.addWordPoison a).joins = s.joins := rfl
@[simp] theorem State.addWordPoison_foldOps : (s.addWordPoison a).foldOps = s.foldOps := rfl
@[simp] theorem State.addWordPoison_foldSeq : (s.addWordPoison a).foldSeq = s.foldSeq := rfl
@[simp] theorem State.addWordPoison_launches : (s.addWordPoison a).launches = s.launches := rfl
@[simp] theorem State.addWordPoison_history : (s.addWordPoison a).history = s.history := rfl
@[simp] theorem State.addWordPoison_saved : (s.addWordPoison a).saved = s.saved := rfl
@[simp] theorem State.addWordPoison_masterVacant : (s.addWordPoison a).masterVacant = s.masterVacant := rfl
@[simp] theorem State.addWordPoison_links : (s.addWordPoison a).links = s.links := rfl
@[simp] theorem State.addWordPoison_span : (s.addWordPoison a).span = s.span := rfl
@[simp] theorem State.addWordPoison_routes : (s.addWordPoison a).routes = s.routes := rfl
@[simp] theorem State.addWordPoison_pkgId : (s.addWordPoison a).pkgId = s.pkgId := rfl
@[simp] theorem State.addWordPoison_pkgSet : (s.addWordPoison a).pkgSet = s.pkgSet := rfl
@[simp] theorem State.addWordPoison_pwrLimit : (s.addWordPoison a).pwrLimit = s.pwrLimit := rfl
@[simp] theorem State.addWordPoison_pwrMeas : (s.addWordPoison a).pwrMeas = s.pwrMeas := rfl
@[simp] theorem State.addWordPoison_limiting : (s.addWordPoison a).limiting = s.limiting := rfl
@[simp] theorem State.addWordPoison_corr : (s.addWordPoison a).corr = s.corr := rfl
@[simp] theorem State.addWordPoison_uncorr : (s.addWordPoison a).uncorr = s.uncorr := rfl
@[simp] theorem State.addWordPoison_sensors : (s.addWordPoison a).sensors = s.sensors := rfl
@[simp] theorem State.addWordPoison_layers : (s.addWordPoison a).layers = s.layers := rfl
@[simp] theorem State.addWordPoison_fencedTowers : (s.addWordPoison a).fencedTowers = s.fencedTowers := rfl
@[simp] theorem State.addWordPoison_devBase : (s.addWordPoison a).devBase = s.devBase := rfl
@[simp] theorem State.addWordPoison_devPend : (s.addWordPoison a).devPend = s.devPend := rfl
@[simp] theorem State.addWordPoison_devCount : (s.addWordPoison a).devCount = s.devCount := rfl
@[simp] theorem State.addWordPoison_devLost : (s.addWordPoison a).devLost = s.devLost := rfl
@[simp] theorem State.addWordPoison_boot : (s.addWordPoison a).boot = s.boot := rfl
@[simp] theorem State.addWordPoison_blocks : (s.addWordPoison a).blocks = s.blocks := rfl
@[simp] theorem State.addWordPoison_tokens : (s.addWordPoison a).tokens = s.tokens := rfl
@[simp] theorem State.addWordPoison_replicas : (s.addWordPoison a).replicas = s.replicas := rfl
@[simp] theorem State.addWordPoison_frames : (s.addWordPoison a).frames = s.frames := rfl
@[simp] theorem State.addWordPoison_planes : (s.addWordPoison a).planes = s.planes := rfl
@[simp] theorem State.addWordPoison_shoots : (s.addWordPoison a).shoots = s.shoots := rfl
@[simp] theorem State.addWordPoison_paths : (s.addWordPoison a).paths = s.paths := rfl
@[simp] theorem State.addWordPoison_banks : (s.addWordPoison a).banks = s.banks := rfl
@[simp] theorem State.addWordPoison_refreshFrom : (s.addWordPoison a).refreshFrom = s.refreshFrom := rfl
@[simp] theorem State.addWordPoison_podTokens : (s.addWordPoison a).podTokens = s.podTokens := rfl
@[simp] theorem State.addWordPoison_watches : (s.addWordPoison a).watches = s.watches := rfl

end

/-! ### `State.clearFlaw` -/

section
variable (s : State) (a : Nat)

@[simp] theorem State.clearFlaw_tick : (s.clearFlaw a).tick = s.tick := rfl
@[simp] theorem State.clearFlaw_epoch : (s.clearFlaw a).epoch = s.epoch := rfl
@[simp] theorem State.clearFlaw_turn : (s.clearFlaw a).turn = s.turn := rfl
@[simp] theorem State.clearFlaw_here : (s.clearFlaw a).here = s.here := rfl
@[simp] theorem State.clearFlaw_evPrio : (s.clearFlaw a).evPrio = s.evPrio := rfl
@[simp] theorem State.clearFlaw_evNum : (s.clearFlaw a).evNum = s.evNum := rfl
@[simp] theorem State.clearFlaw_queue : (s.clearFlaw a).queue = s.queue := rfl
@[simp] theorem State.clearFlaw_free : (s.clearFlaw a).free = s.free := rfl
@[simp] theorem State.clearFlaw_delays : (s.clearFlaw a).delays = s.delays := rfl
@[simp] theorem State.clearFlaw_nextId : (s.clearFlaw a).nextId = s.nextId := rfl
@[simp] theorem State.clearFlaw_mem : (s.clearFlaw a).mem = s.mem := rfl
@[simp] theorem State.clearFlaw_empties : (s.clearFlaw a).empties = s.empties := rfl
@[simp] theorem State.clearFlaw_poison : (s.clearFlaw a).poison = s.poison := rfl
@[simp] theorem State.clearFlaw_wpoison : (s.clearFlaw a).wpoison = s.wpoison := rfl
@[simp] theorem State.clearFlaw_flaws : (s.clearFlaw a).flaws = s.flaws.filter fun x => x.1 != x.2.unit a := rfl
@[simp] theorem State.clearFlaw_dead : (s.clearFlaw a).dead = s.dead := rfl
@[simp] theorem State.clearFlaw_noise : (s.clearFlaw a).noise = s.noise := rfl
@[simp] theorem State.clearFlaw_seen : (s.clearFlaw a).seen = s.seen := rfl
@[simp] theorem State.clearFlaw_cores : (s.clearFlaw a).cores = s.cores := rfl
@[simp] theorem State.clearFlaw_accesses : (s.clearFlaw a).accesses = s.accesses := rfl
@[simp] theorem State.clearFlaw_msgs : (s.clearFlaw a).msgs = s.msgs := rfl
@[simp] theorem State.clearFlaw_park : (s.clearFlaw a).park = s.park := rfl
@[simp] theorem State.clearFlaw_transit : (s.clearFlaw a).transit = s.transit := rfl
@[simp] theorem State.clearFlaw_setfull : (s.clearFlaw a).setfull = s.setfull := rfl
@[simp] theorem State.clearFlaw_quadTlb : (s.clearFlaw a).quadTlb = s.quadTlb := rfl
@[simp] theorem State.clearFlaw_joins : (s.clearFlaw a).joins = s.joins := rfl
@[simp] theorem State.clearFlaw_foldOps : (s.clearFlaw a).foldOps = s.foldOps := rfl
@[simp] theorem State.clearFlaw_foldSeq : (s.clearFlaw a).foldSeq = s.foldSeq := rfl
@[simp] theorem State.clearFlaw_launches : (s.clearFlaw a).launches = s.launches := rfl
@[simp] theorem State.clearFlaw_history : (s.clearFlaw a).history = s.history := rfl
@[simp] theorem State.clearFlaw_saved : (s.clearFlaw a).saved = s.saved := rfl
@[simp] theorem State.clearFlaw_masterVacant : (s.clearFlaw a).masterVacant = s.masterVacant := rfl
@[simp] theorem State.clearFlaw_links : (s.clearFlaw a).links = s.links := rfl
@[simp] theorem State.clearFlaw_span : (s.clearFlaw a).span = s.span := rfl
@[simp] theorem State.clearFlaw_routes : (s.clearFlaw a).routes = s.routes := rfl
@[simp] theorem State.clearFlaw_pkgId : (s.clearFlaw a).pkgId = s.pkgId := rfl
@[simp] theorem State.clearFlaw_pkgSet : (s.clearFlaw a).pkgSet = s.pkgSet := rfl
@[simp] theorem State.clearFlaw_pwrLimit : (s.clearFlaw a).pwrLimit = s.pwrLimit := rfl
@[simp] theorem State.clearFlaw_pwrMeas : (s.clearFlaw a).pwrMeas = s.pwrMeas := rfl
@[simp] theorem State.clearFlaw_limiting : (s.clearFlaw a).limiting = s.limiting := rfl
@[simp] theorem State.clearFlaw_corr : (s.clearFlaw a).corr = s.corr := rfl
@[simp] theorem State.clearFlaw_uncorr : (s.clearFlaw a).uncorr = s.uncorr := rfl
@[simp] theorem State.clearFlaw_sensors : (s.clearFlaw a).sensors = s.sensors := rfl
@[simp] theorem State.clearFlaw_layers : (s.clearFlaw a).layers = s.layers := rfl
@[simp] theorem State.clearFlaw_fencedTowers : (s.clearFlaw a).fencedTowers = s.fencedTowers := rfl
@[simp] theorem State.clearFlaw_devBase : (s.clearFlaw a).devBase = s.devBase := rfl
@[simp] theorem State.clearFlaw_devPend : (s.clearFlaw a).devPend = s.devPend := rfl
@[simp] theorem State.clearFlaw_devCount : (s.clearFlaw a).devCount = s.devCount := rfl
@[simp] theorem State.clearFlaw_devLost : (s.clearFlaw a).devLost = s.devLost := rfl
@[simp] theorem State.clearFlaw_boot : (s.clearFlaw a).boot = s.boot := rfl
@[simp] theorem State.clearFlaw_blocks : (s.clearFlaw a).blocks = s.blocks := rfl
@[simp] theorem State.clearFlaw_tokens : (s.clearFlaw a).tokens = s.tokens := rfl
@[simp] theorem State.clearFlaw_replicas : (s.clearFlaw a).replicas = s.replicas := rfl
@[simp] theorem State.clearFlaw_frames : (s.clearFlaw a).frames = s.frames := rfl
@[simp] theorem State.clearFlaw_planes : (s.clearFlaw a).planes = s.planes := rfl
@[simp] theorem State.clearFlaw_shoots : (s.clearFlaw a).shoots = s.shoots := rfl
@[simp] theorem State.clearFlaw_paths : (s.clearFlaw a).paths = s.paths := rfl
@[simp] theorem State.clearFlaw_banks : (s.clearFlaw a).banks = s.banks := rfl
@[simp] theorem State.clearFlaw_refreshFrom : (s.clearFlaw a).refreshFrom = s.refreshFrom := rfl
@[simp] theorem State.clearFlaw_podTokens : (s.clearFlaw a).podTokens = s.podTokens := rfl
@[simp] theorem State.clearFlaw_watches : (s.clearFlaw a).watches = s.watches := rfl

end

/-! ### `State.heal` -/

section
variable (s : State) (a : Nat)

@[simp] theorem State.heal_tick : (s.heal a).tick = s.tick := rfl
@[simp] theorem State.heal_epoch : (s.heal a).epoch = s.epoch := rfl
@[simp] theorem State.heal_turn : (s.heal a).turn = s.turn := rfl
@[simp] theorem State.heal_here : (s.heal a).here = s.here := rfl
@[simp] theorem State.heal_evPrio : (s.heal a).evPrio = s.evPrio := rfl
@[simp] theorem State.heal_evNum : (s.heal a).evNum = s.evNum := rfl
@[simp] theorem State.heal_queue : (s.heal a).queue = s.queue := rfl
@[simp] theorem State.heal_free : (s.heal a).free = s.free := rfl
@[simp] theorem State.heal_delays : (s.heal a).delays = s.delays := rfl
@[simp] theorem State.heal_nextId : (s.heal a).nextId = s.nextId := rfl
@[simp] theorem State.heal_mem : (s.heal a).mem = s.mem := rfl
@[simp] theorem State.heal_empties : (s.heal a).empties = s.empties := rfl
@[simp] theorem State.heal_poison : (s.heal a).poison = delKey s.poison (blockAt a) := rfl
@[simp] theorem State.heal_wpoison : (s.heal a).wpoison = s.wpoison.filter fun k => blockAt k != blockAt a := rfl
@[simp] theorem State.heal_flaws : (s.heal a).flaws = s.flaws.filter fun x => blockAt x.1 != blockAt a := rfl
@[simp] theorem State.heal_dead : (s.heal a).dead = s.dead := rfl
@[simp] theorem State.heal_noise : (s.heal a).noise = s.noise := rfl
@[simp] theorem State.heal_seen : (s.heal a).seen = s.seen := rfl
@[simp] theorem State.heal_cores : (s.heal a).cores = s.cores := rfl
@[simp] theorem State.heal_accesses : (s.heal a).accesses = s.accesses := rfl
@[simp] theorem State.heal_msgs : (s.heal a).msgs = s.msgs := rfl
@[simp] theorem State.heal_park : (s.heal a).park = s.park := rfl
@[simp] theorem State.heal_transit : (s.heal a).transit = s.transit := rfl
@[simp] theorem State.heal_setfull : (s.heal a).setfull = s.setfull := rfl
@[simp] theorem State.heal_quadTlb : (s.heal a).quadTlb = s.quadTlb := rfl
@[simp] theorem State.heal_joins : (s.heal a).joins = s.joins := rfl
@[simp] theorem State.heal_foldOps : (s.heal a).foldOps = s.foldOps := rfl
@[simp] theorem State.heal_foldSeq : (s.heal a).foldSeq = s.foldSeq := rfl
@[simp] theorem State.heal_launches : (s.heal a).launches = s.launches := rfl
@[simp] theorem State.heal_history : (s.heal a).history = s.history := rfl
@[simp] theorem State.heal_saved : (s.heal a).saved = s.saved := rfl
@[simp] theorem State.heal_masterVacant : (s.heal a).masterVacant = s.masterVacant := rfl
@[simp] theorem State.heal_links : (s.heal a).links = s.links := rfl
@[simp] theorem State.heal_span : (s.heal a).span = s.span := rfl
@[simp] theorem State.heal_routes : (s.heal a).routes = s.routes := rfl
@[simp] theorem State.heal_pkgId : (s.heal a).pkgId = s.pkgId := rfl
@[simp] theorem State.heal_pkgSet : (s.heal a).pkgSet = s.pkgSet := rfl
@[simp] theorem State.heal_pwrLimit : (s.heal a).pwrLimit = s.pwrLimit := rfl
@[simp] theorem State.heal_pwrMeas : (s.heal a).pwrMeas = s.pwrMeas := rfl
@[simp] theorem State.heal_limiting : (s.heal a).limiting = s.limiting := rfl
@[simp] theorem State.heal_corr : (s.heal a).corr = s.corr := rfl
@[simp] theorem State.heal_uncorr : (s.heal a).uncorr = s.uncorr := rfl
@[simp] theorem State.heal_sensors : (s.heal a).sensors = s.sensors := rfl
@[simp] theorem State.heal_layers : (s.heal a).layers = s.layers := rfl
@[simp] theorem State.heal_fencedTowers : (s.heal a).fencedTowers = s.fencedTowers := rfl
@[simp] theorem State.heal_devBase : (s.heal a).devBase = s.devBase := rfl
@[simp] theorem State.heal_devPend : (s.heal a).devPend = s.devPend := rfl
@[simp] theorem State.heal_devCount : (s.heal a).devCount = s.devCount := rfl
@[simp] theorem State.heal_devLost : (s.heal a).devLost = s.devLost := rfl
@[simp] theorem State.heal_boot : (s.heal a).boot = s.boot := rfl
@[simp] theorem State.heal_blocks : (s.heal a).blocks = s.blocks := rfl
@[simp] theorem State.heal_tokens : (s.heal a).tokens = s.tokens := rfl
@[simp] theorem State.heal_replicas : (s.heal a).replicas = s.replicas := rfl
@[simp] theorem State.heal_frames : (s.heal a).frames = s.frames := rfl
@[simp] theorem State.heal_planes : (s.heal a).planes = s.planes := rfl
@[simp] theorem State.heal_shoots : (s.heal a).shoots = s.shoots := rfl
@[simp] theorem State.heal_paths : (s.heal a).paths = s.paths := rfl
@[simp] theorem State.heal_banks : (s.heal a).banks = s.banks := rfl
@[simp] theorem State.heal_refreshFrom : (s.heal a).refreshFrom = s.refreshFrom := rfl
@[simp] theorem State.heal_podTokens : (s.heal a).podTokens = s.podTokens := rfl
@[simp] theorem State.heal_watches : (s.heal a).watches = s.watches := rfl

end

/-! ### `State.modLaunch` -/

section
variable (s : State) (l : BitVec 32) (f : Launch → Launch)

@[simp] theorem State.modLaunch_tick : (s.modLaunch l f).tick = s.tick := rfl
@[simp] theorem State.modLaunch_epoch : (s.modLaunch l f).epoch = s.epoch := rfl
@[simp] theorem State.modLaunch_turn : (s.modLaunch l f).turn = s.turn := rfl
@[simp] theorem State.modLaunch_here : (s.modLaunch l f).here = s.here := rfl
@[simp] theorem State.modLaunch_evPrio : (s.modLaunch l f).evPrio = s.evPrio := rfl
@[simp] theorem State.modLaunch_evNum : (s.modLaunch l f).evNum = s.evNum := rfl
@[simp] theorem State.modLaunch_queue : (s.modLaunch l f).queue = s.queue := rfl
@[simp] theorem State.modLaunch_free : (s.modLaunch l f).free = s.free := rfl
@[simp] theorem State.modLaunch_delays : (s.modLaunch l f).delays = s.delays := rfl
@[simp] theorem State.modLaunch_nextId : (s.modLaunch l f).nextId = s.nextId := rfl
@[simp] theorem State.modLaunch_mem : (s.modLaunch l f).mem = s.mem := rfl
@[simp] theorem State.modLaunch_empties : (s.modLaunch l f).empties = s.empties := rfl
@[simp] theorem State.modLaunch_poison : (s.modLaunch l f).poison = s.poison := rfl
@[simp] theorem State.modLaunch_wpoison : (s.modLaunch l f).wpoison = s.wpoison := rfl
@[simp] theorem State.modLaunch_flaws : (s.modLaunch l f).flaws = s.flaws := rfl
@[simp] theorem State.modLaunch_dead : (s.modLaunch l f).dead = s.dead := rfl
@[simp] theorem State.modLaunch_noise : (s.modLaunch l f).noise = s.noise := rfl
@[simp] theorem State.modLaunch_seen : (s.modLaunch l f).seen = s.seen := rfl
@[simp] theorem State.modLaunch_cores : (s.modLaunch l f).cores = s.cores := rfl
@[simp] theorem State.modLaunch_accesses : (s.modLaunch l f).accesses = s.accesses := rfl
@[simp] theorem State.modLaunch_msgs : (s.modLaunch l f).msgs = s.msgs := rfl
@[simp] theorem State.modLaunch_park : (s.modLaunch l f).park = s.park := rfl
@[simp] theorem State.modLaunch_transit : (s.modLaunch l f).transit = s.transit := rfl
@[simp] theorem State.modLaunch_setfull : (s.modLaunch l f).setfull = s.setfull := rfl
@[simp] theorem State.modLaunch_quadTlb : (s.modLaunch l f).quadTlb = s.quadTlb := rfl
@[simp] theorem State.modLaunch_joins : (s.modLaunch l f).joins = s.joins := rfl
@[simp] theorem State.modLaunch_foldOps : (s.modLaunch l f).foldOps = s.foldOps := rfl
@[simp] theorem State.modLaunch_foldSeq : (s.modLaunch l f).foldSeq = s.foldSeq := rfl
@[simp] theorem State.modLaunch_history : (s.modLaunch l f).history = s.history := rfl
@[simp] theorem State.modLaunch_saved : (s.modLaunch l f).saved = s.saved := rfl
@[simp] theorem State.modLaunch_masterVacant : (s.modLaunch l f).masterVacant = s.masterVacant := rfl
@[simp] theorem State.modLaunch_links : (s.modLaunch l f).links = s.links := rfl
@[simp] theorem State.modLaunch_span : (s.modLaunch l f).span = s.span := rfl
@[simp] theorem State.modLaunch_routes : (s.modLaunch l f).routes = s.routes := rfl
@[simp] theorem State.modLaunch_pkgId : (s.modLaunch l f).pkgId = s.pkgId := rfl
@[simp] theorem State.modLaunch_pkgSet : (s.modLaunch l f).pkgSet = s.pkgSet := rfl
@[simp] theorem State.modLaunch_pwrLimit : (s.modLaunch l f).pwrLimit = s.pwrLimit := rfl
@[simp] theorem State.modLaunch_pwrMeas : (s.modLaunch l f).pwrMeas = s.pwrMeas := rfl
@[simp] theorem State.modLaunch_limiting : (s.modLaunch l f).limiting = s.limiting := rfl
@[simp] theorem State.modLaunch_corr : (s.modLaunch l f).corr = s.corr := rfl
@[simp] theorem State.modLaunch_uncorr : (s.modLaunch l f).uncorr = s.uncorr := rfl
@[simp] theorem State.modLaunch_sensors : (s.modLaunch l f).sensors = s.sensors := rfl
@[simp] theorem State.modLaunch_layers : (s.modLaunch l f).layers = s.layers := rfl
@[simp] theorem State.modLaunch_fencedTowers : (s.modLaunch l f).fencedTowers = s.fencedTowers := rfl
@[simp] theorem State.modLaunch_devBase : (s.modLaunch l f).devBase = s.devBase := rfl
@[simp] theorem State.modLaunch_devPend : (s.modLaunch l f).devPend = s.devPend := rfl
@[simp] theorem State.modLaunch_devCount : (s.modLaunch l f).devCount = s.devCount := rfl
@[simp] theorem State.modLaunch_devLost : (s.modLaunch l f).devLost = s.devLost := rfl
@[simp] theorem State.modLaunch_boot : (s.modLaunch l f).boot = s.boot := rfl
@[simp] theorem State.modLaunch_blocks : (s.modLaunch l f).blocks = s.blocks := rfl
@[simp] theorem State.modLaunch_tokens : (s.modLaunch l f).tokens = s.tokens := rfl
@[simp] theorem State.modLaunch_replicas : (s.modLaunch l f).replicas = s.replicas := rfl
@[simp] theorem State.modLaunch_frames : (s.modLaunch l f).frames = s.frames := rfl
@[simp] theorem State.modLaunch_planes : (s.modLaunch l f).planes = s.planes := rfl
@[simp] theorem State.modLaunch_shoots : (s.modLaunch l f).shoots = s.shoots := rfl
@[simp] theorem State.modLaunch_paths : (s.modLaunch l f).paths = s.paths := rfl
@[simp] theorem State.modLaunch_banks : (s.modLaunch l f).banks = s.banks := rfl
@[simp] theorem State.modLaunch_refreshFrom : (s.modLaunch l f).refreshFrom = s.refreshFrom := rfl
@[simp] theorem State.modLaunch_podTokens : (s.modLaunch l f).podTokens = s.podTokens := rfl
@[simp] theorem State.modLaunch_watches : (s.modLaunch l f).watches = s.watches := rfl

end

/-! ### `State.modInst` -/

section
variable (s : State) (c n : Nat) (f : Inst → Inst)

@[simp] theorem State.modInst_tick : (s.modInst c n f).tick = s.tick := rfl
@[simp] theorem State.modInst_epoch : (s.modInst c n f).epoch = s.epoch := rfl
@[simp] theorem State.modInst_turn : (s.modInst c n f).turn = s.turn := rfl
@[simp] theorem State.modInst_here : (s.modInst c n f).here = s.here := rfl
@[simp] theorem State.modInst_evPrio : (s.modInst c n f).evPrio = s.evPrio := rfl
@[simp] theorem State.modInst_evNum : (s.modInst c n f).evNum = s.evNum := rfl
@[simp] theorem State.modInst_queue : (s.modInst c n f).queue = s.queue := rfl
@[simp] theorem State.modInst_free : (s.modInst c n f).free = s.free := rfl
@[simp] theorem State.modInst_delays : (s.modInst c n f).delays = s.delays := rfl
@[simp] theorem State.modInst_nextId : (s.modInst c n f).nextId = s.nextId := rfl
@[simp] theorem State.modInst_mem : (s.modInst c n f).mem = s.mem := rfl
@[simp] theorem State.modInst_empties : (s.modInst c n f).empties = s.empties := rfl
@[simp] theorem State.modInst_poison : (s.modInst c n f).poison = s.poison := rfl
@[simp] theorem State.modInst_wpoison : (s.modInst c n f).wpoison = s.wpoison := rfl
@[simp] theorem State.modInst_flaws : (s.modInst c n f).flaws = s.flaws := rfl
@[simp] theorem State.modInst_dead : (s.modInst c n f).dead = s.dead := rfl
@[simp] theorem State.modInst_noise : (s.modInst c n f).noise = s.noise := rfl
@[simp] theorem State.modInst_seen : (s.modInst c n f).seen = s.seen := rfl
@[simp] theorem State.modInst_accesses : (s.modInst c n f).accesses = s.accesses := rfl
@[simp] theorem State.modInst_msgs : (s.modInst c n f).msgs = s.msgs := rfl
@[simp] theorem State.modInst_park : (s.modInst c n f).park = s.park := rfl
@[simp] theorem State.modInst_transit : (s.modInst c n f).transit = s.transit := rfl
@[simp] theorem State.modInst_setfull : (s.modInst c n f).setfull = s.setfull := rfl
@[simp] theorem State.modInst_quadTlb : (s.modInst c n f).quadTlb = s.quadTlb := rfl
@[simp] theorem State.modInst_joins : (s.modInst c n f).joins = s.joins := rfl
@[simp] theorem State.modInst_foldOps : (s.modInst c n f).foldOps = s.foldOps := rfl
@[simp] theorem State.modInst_foldSeq : (s.modInst c n f).foldSeq = s.foldSeq := rfl
@[simp] theorem State.modInst_launches : (s.modInst c n f).launches = s.launches := rfl
@[simp] theorem State.modInst_history : (s.modInst c n f).history = s.history := rfl
@[simp] theorem State.modInst_saved : (s.modInst c n f).saved = s.saved := rfl
@[simp] theorem State.modInst_masterVacant : (s.modInst c n f).masterVacant = s.masterVacant := rfl
@[simp] theorem State.modInst_links : (s.modInst c n f).links = s.links := rfl
@[simp] theorem State.modInst_span : (s.modInst c n f).span = s.span := rfl
@[simp] theorem State.modInst_routes : (s.modInst c n f).routes = s.routes := rfl
@[simp] theorem State.modInst_pkgId : (s.modInst c n f).pkgId = s.pkgId := rfl
@[simp] theorem State.modInst_pkgSet : (s.modInst c n f).pkgSet = s.pkgSet := rfl
@[simp] theorem State.modInst_pwrLimit : (s.modInst c n f).pwrLimit = s.pwrLimit := rfl
@[simp] theorem State.modInst_pwrMeas : (s.modInst c n f).pwrMeas = s.pwrMeas := rfl
@[simp] theorem State.modInst_limiting : (s.modInst c n f).limiting = s.limiting := rfl
@[simp] theorem State.modInst_corr : (s.modInst c n f).corr = s.corr := rfl
@[simp] theorem State.modInst_uncorr : (s.modInst c n f).uncorr = s.uncorr := rfl
@[simp] theorem State.modInst_sensors : (s.modInst c n f).sensors = s.sensors := rfl
@[simp] theorem State.modInst_layers : (s.modInst c n f).layers = s.layers := rfl
@[simp] theorem State.modInst_fencedTowers : (s.modInst c n f).fencedTowers = s.fencedTowers := rfl
@[simp] theorem State.modInst_devBase : (s.modInst c n f).devBase = s.devBase := rfl
@[simp] theorem State.modInst_devPend : (s.modInst c n f).devPend = s.devPend := rfl
@[simp] theorem State.modInst_devCount : (s.modInst c n f).devCount = s.devCount := rfl
@[simp] theorem State.modInst_devLost : (s.modInst c n f).devLost = s.devLost := rfl
@[simp] theorem State.modInst_boot : (s.modInst c n f).boot = s.boot := rfl
@[simp] theorem State.modInst_blocks : (s.modInst c n f).blocks = s.blocks := rfl
@[simp] theorem State.modInst_tokens : (s.modInst c n f).tokens = s.tokens := rfl
@[simp] theorem State.modInst_replicas : (s.modInst c n f).replicas = s.replicas := rfl
@[simp] theorem State.modInst_frames : (s.modInst c n f).frames = s.frames := rfl
@[simp] theorem State.modInst_planes : (s.modInst c n f).planes = s.planes := rfl
@[simp] theorem State.modInst_shoots : (s.modInst c n f).shoots = s.shoots := rfl
@[simp] theorem State.modInst_paths : (s.modInst c n f).paths = s.paths := rfl
@[simp] theorem State.modInst_banks : (s.modInst c n f).banks = s.banks := rfl
@[simp] theorem State.modInst_refreshFrom : (s.modInst c n f).refreshFrom = s.refreshFrom := rfl
@[simp] theorem State.modInst_podTokens : (s.modInst c n f).podTokens = s.podTokens := rfl
@[simp] theorem State.modInst_watches : (s.modInst c n f).watches = s.watches := rfl

end

/-! ### `State.modLayer` -/

section
variable (s : State) (i : Nat) (f : Layer → Layer)

@[simp] theorem State.modLayer_tick : (s.modLayer i f).tick = s.tick := rfl
@[simp] theorem State.modLayer_epoch : (s.modLayer i f).epoch = s.epoch := rfl
@[simp] theorem State.modLayer_turn : (s.modLayer i f).turn = s.turn := rfl
@[simp] theorem State.modLayer_here : (s.modLayer i f).here = s.here := rfl
@[simp] theorem State.modLayer_evPrio : (s.modLayer i f).evPrio = s.evPrio := rfl
@[simp] theorem State.modLayer_evNum : (s.modLayer i f).evNum = s.evNum := rfl
@[simp] theorem State.modLayer_queue : (s.modLayer i f).queue = s.queue := rfl
@[simp] theorem State.modLayer_free : (s.modLayer i f).free = s.free := rfl
@[simp] theorem State.modLayer_delays : (s.modLayer i f).delays = s.delays := rfl
@[simp] theorem State.modLayer_nextId : (s.modLayer i f).nextId = s.nextId := rfl
@[simp] theorem State.modLayer_mem : (s.modLayer i f).mem = s.mem := rfl
@[simp] theorem State.modLayer_empties : (s.modLayer i f).empties = s.empties := rfl
@[simp] theorem State.modLayer_poison : (s.modLayer i f).poison = s.poison := rfl
@[simp] theorem State.modLayer_wpoison : (s.modLayer i f).wpoison = s.wpoison := rfl
@[simp] theorem State.modLayer_flaws : (s.modLayer i f).flaws = s.flaws := rfl
@[simp] theorem State.modLayer_dead : (s.modLayer i f).dead = s.dead := rfl
@[simp] theorem State.modLayer_noise : (s.modLayer i f).noise = s.noise := rfl
@[simp] theorem State.modLayer_seen : (s.modLayer i f).seen = s.seen := rfl
@[simp] theorem State.modLayer_cores : (s.modLayer i f).cores = s.cores := rfl
@[simp] theorem State.modLayer_accesses : (s.modLayer i f).accesses = s.accesses := rfl
@[simp] theorem State.modLayer_msgs : (s.modLayer i f).msgs = s.msgs := rfl
@[simp] theorem State.modLayer_park : (s.modLayer i f).park = s.park := rfl
@[simp] theorem State.modLayer_transit : (s.modLayer i f).transit = s.transit := rfl
@[simp] theorem State.modLayer_setfull : (s.modLayer i f).setfull = s.setfull := rfl
@[simp] theorem State.modLayer_quadTlb : (s.modLayer i f).quadTlb = s.quadTlb := rfl
@[simp] theorem State.modLayer_joins : (s.modLayer i f).joins = s.joins := rfl
@[simp] theorem State.modLayer_foldOps : (s.modLayer i f).foldOps = s.foldOps := rfl
@[simp] theorem State.modLayer_foldSeq : (s.modLayer i f).foldSeq = s.foldSeq := rfl
@[simp] theorem State.modLayer_launches : (s.modLayer i f).launches = s.launches := rfl
@[simp] theorem State.modLayer_history : (s.modLayer i f).history = s.history := rfl
@[simp] theorem State.modLayer_saved : (s.modLayer i f).saved = s.saved := rfl
@[simp] theorem State.modLayer_masterVacant : (s.modLayer i f).masterVacant = s.masterVacant := rfl
@[simp] theorem State.modLayer_links : (s.modLayer i f).links = s.links := rfl
@[simp] theorem State.modLayer_span : (s.modLayer i f).span = s.span := rfl
@[simp] theorem State.modLayer_routes : (s.modLayer i f).routes = s.routes := rfl
@[simp] theorem State.modLayer_pkgId : (s.modLayer i f).pkgId = s.pkgId := rfl
@[simp] theorem State.modLayer_pkgSet : (s.modLayer i f).pkgSet = s.pkgSet := rfl
@[simp] theorem State.modLayer_pwrLimit : (s.modLayer i f).pwrLimit = s.pwrLimit := rfl
@[simp] theorem State.modLayer_pwrMeas : (s.modLayer i f).pwrMeas = s.pwrMeas := rfl
@[simp] theorem State.modLayer_limiting : (s.modLayer i f).limiting = s.limiting := rfl
@[simp] theorem State.modLayer_corr : (s.modLayer i f).corr = s.corr := rfl
@[simp] theorem State.modLayer_uncorr : (s.modLayer i f).uncorr = s.uncorr := rfl
@[simp] theorem State.modLayer_sensors : (s.modLayer i f).sensors = s.sensors := rfl
@[simp] theorem State.modLayer_fencedTowers : (s.modLayer i f).fencedTowers = s.fencedTowers := rfl
@[simp] theorem State.modLayer_devBase : (s.modLayer i f).devBase = s.devBase := rfl
@[simp] theorem State.modLayer_devPend : (s.modLayer i f).devPend = s.devPend := rfl
@[simp] theorem State.modLayer_devCount : (s.modLayer i f).devCount = s.devCount := rfl
@[simp] theorem State.modLayer_devLost : (s.modLayer i f).devLost = s.devLost := rfl
@[simp] theorem State.modLayer_boot : (s.modLayer i f).boot = s.boot := rfl
@[simp] theorem State.modLayer_blocks : (s.modLayer i f).blocks = s.blocks := rfl
@[simp] theorem State.modLayer_tokens : (s.modLayer i f).tokens = s.tokens := rfl
@[simp] theorem State.modLayer_replicas : (s.modLayer i f).replicas = s.replicas := rfl
@[simp] theorem State.modLayer_frames : (s.modLayer i f).frames = s.frames := rfl
@[simp] theorem State.modLayer_planes : (s.modLayer i f).planes = s.planes := rfl
@[simp] theorem State.modLayer_shoots : (s.modLayer i f).shoots = s.shoots := rfl
@[simp] theorem State.modLayer_paths : (s.modLayer i f).paths = s.paths := rfl
@[simp] theorem State.modLayer_banks : (s.modLayer i f).banks = s.banks := rfl
@[simp] theorem State.modLayer_refreshFrom : (s.modLayer i f).refreshFrom = s.refreshFrom := rfl
@[simp] theorem State.modLayer_podTokens : (s.modLayer i f).podTokens = s.podTokens := rfl
@[simp] theorem State.modLayer_watches : (s.modLayer i f).watches = s.watches := rfl

end

/-! ### `State.modSpan` -/

section
variable (s : State) (l : Nat) (f : SpanLink → SpanLink)

@[simp] theorem State.modSpan_tick : (s.modSpan l f).tick = s.tick := rfl
@[simp] theorem State.modSpan_epoch : (s.modSpan l f).epoch = s.epoch := rfl
@[simp] theorem State.modSpan_turn : (s.modSpan l f).turn = s.turn := rfl
@[simp] theorem State.modSpan_here : (s.modSpan l f).here = s.here := rfl
@[simp] theorem State.modSpan_evPrio : (s.modSpan l f).evPrio = s.evPrio := rfl
@[simp] theorem State.modSpan_evNum : (s.modSpan l f).evNum = s.evNum := rfl
@[simp] theorem State.modSpan_queue : (s.modSpan l f).queue = s.queue := rfl
@[simp] theorem State.modSpan_free : (s.modSpan l f).free = s.free := rfl
@[simp] theorem State.modSpan_delays : (s.modSpan l f).delays = s.delays := rfl
@[simp] theorem State.modSpan_nextId : (s.modSpan l f).nextId = s.nextId := rfl
@[simp] theorem State.modSpan_mem : (s.modSpan l f).mem = s.mem := rfl
@[simp] theorem State.modSpan_empties : (s.modSpan l f).empties = s.empties := rfl
@[simp] theorem State.modSpan_poison : (s.modSpan l f).poison = s.poison := rfl
@[simp] theorem State.modSpan_wpoison : (s.modSpan l f).wpoison = s.wpoison := rfl
@[simp] theorem State.modSpan_flaws : (s.modSpan l f).flaws = s.flaws := rfl
@[simp] theorem State.modSpan_dead : (s.modSpan l f).dead = s.dead := rfl
@[simp] theorem State.modSpan_noise : (s.modSpan l f).noise = s.noise := rfl
@[simp] theorem State.modSpan_seen : (s.modSpan l f).seen = s.seen := rfl
@[simp] theorem State.modSpan_cores : (s.modSpan l f).cores = s.cores := rfl
@[simp] theorem State.modSpan_accesses : (s.modSpan l f).accesses = s.accesses := rfl
@[simp] theorem State.modSpan_msgs : (s.modSpan l f).msgs = s.msgs := rfl
@[simp] theorem State.modSpan_park : (s.modSpan l f).park = s.park := rfl
@[simp] theorem State.modSpan_transit : (s.modSpan l f).transit = s.transit := rfl
@[simp] theorem State.modSpan_setfull : (s.modSpan l f).setfull = s.setfull := rfl
@[simp] theorem State.modSpan_quadTlb : (s.modSpan l f).quadTlb = s.quadTlb := rfl
@[simp] theorem State.modSpan_joins : (s.modSpan l f).joins = s.joins := rfl
@[simp] theorem State.modSpan_foldOps : (s.modSpan l f).foldOps = s.foldOps := rfl
@[simp] theorem State.modSpan_foldSeq : (s.modSpan l f).foldSeq = s.foldSeq := rfl
@[simp] theorem State.modSpan_launches : (s.modSpan l f).launches = s.launches := rfl
@[simp] theorem State.modSpan_history : (s.modSpan l f).history = s.history := rfl
@[simp] theorem State.modSpan_saved : (s.modSpan l f).saved = s.saved := rfl
@[simp] theorem State.modSpan_masterVacant : (s.modSpan l f).masterVacant = s.masterVacant := rfl
@[simp] theorem State.modSpan_links : (s.modSpan l f).links = s.links := rfl
@[simp] theorem State.modSpan_routes : (s.modSpan l f).routes = s.routes := rfl
@[simp] theorem State.modSpan_pkgId : (s.modSpan l f).pkgId = s.pkgId := rfl
@[simp] theorem State.modSpan_pkgSet : (s.modSpan l f).pkgSet = s.pkgSet := rfl
@[simp] theorem State.modSpan_pwrLimit : (s.modSpan l f).pwrLimit = s.pwrLimit := rfl
@[simp] theorem State.modSpan_pwrMeas : (s.modSpan l f).pwrMeas = s.pwrMeas := rfl
@[simp] theorem State.modSpan_limiting : (s.modSpan l f).limiting = s.limiting := rfl
@[simp] theorem State.modSpan_corr : (s.modSpan l f).corr = s.corr := rfl
@[simp] theorem State.modSpan_uncorr : (s.modSpan l f).uncorr = s.uncorr := rfl
@[simp] theorem State.modSpan_sensors : (s.modSpan l f).sensors = s.sensors := rfl
@[simp] theorem State.modSpan_layers : (s.modSpan l f).layers = s.layers := rfl
@[simp] theorem State.modSpan_fencedTowers : (s.modSpan l f).fencedTowers = s.fencedTowers := rfl
@[simp] theorem State.modSpan_devBase : (s.modSpan l f).devBase = s.devBase := rfl
@[simp] theorem State.modSpan_devPend : (s.modSpan l f).devPend = s.devPend := rfl
@[simp] theorem State.modSpan_devCount : (s.modSpan l f).devCount = s.devCount := rfl
@[simp] theorem State.modSpan_devLost : (s.modSpan l f).devLost = s.devLost := rfl
@[simp] theorem State.modSpan_boot : (s.modSpan l f).boot = s.boot := rfl
@[simp] theorem State.modSpan_blocks : (s.modSpan l f).blocks = s.blocks := rfl
@[simp] theorem State.modSpan_tokens : (s.modSpan l f).tokens = s.tokens := rfl
@[simp] theorem State.modSpan_replicas : (s.modSpan l f).replicas = s.replicas := rfl
@[simp] theorem State.modSpan_frames : (s.modSpan l f).frames = s.frames := rfl
@[simp] theorem State.modSpan_planes : (s.modSpan l f).planes = s.planes := rfl
@[simp] theorem State.modSpan_shoots : (s.modSpan l f).shoots = s.shoots := rfl
@[simp] theorem State.modSpan_paths : (s.modSpan l f).paths = s.paths := rfl
@[simp] theorem State.modSpan_banks : (s.modSpan l f).banks = s.banks := rfl
@[simp] theorem State.modSpan_refreshFrom : (s.modSpan l f).refreshFrom = s.refreshFrom := rfl
@[simp] theorem State.modSpan_podTokens : (s.modSpan l f).podTokens = s.podTokens := rfl
@[simp] theorem State.modSpan_watches : (s.modSpan l f).watches = s.watches := rfl

end

/-! ### `State.modLink` -/

section
variable (s : State) (l : Nat) (f : PcieLink → PcieLink)

@[simp] theorem State.modLink_tick : (s.modLink l f).tick = s.tick := rfl
@[simp] theorem State.modLink_epoch : (s.modLink l f).epoch = s.epoch := rfl
@[simp] theorem State.modLink_turn : (s.modLink l f).turn = s.turn := rfl
@[simp] theorem State.modLink_here : (s.modLink l f).here = s.here := rfl
@[simp] theorem State.modLink_evPrio : (s.modLink l f).evPrio = s.evPrio := rfl
@[simp] theorem State.modLink_evNum : (s.modLink l f).evNum = s.evNum := rfl
@[simp] theorem State.modLink_queue : (s.modLink l f).queue = s.queue := rfl
@[simp] theorem State.modLink_free : (s.modLink l f).free = s.free := rfl
@[simp] theorem State.modLink_delays : (s.modLink l f).delays = s.delays := rfl
@[simp] theorem State.modLink_nextId : (s.modLink l f).nextId = s.nextId := rfl
@[simp] theorem State.modLink_mem : (s.modLink l f).mem = s.mem := rfl
@[simp] theorem State.modLink_empties : (s.modLink l f).empties = s.empties := rfl
@[simp] theorem State.modLink_poison : (s.modLink l f).poison = s.poison := rfl
@[simp] theorem State.modLink_wpoison : (s.modLink l f).wpoison = s.wpoison := rfl
@[simp] theorem State.modLink_flaws : (s.modLink l f).flaws = s.flaws := rfl
@[simp] theorem State.modLink_dead : (s.modLink l f).dead = s.dead := rfl
@[simp] theorem State.modLink_noise : (s.modLink l f).noise = s.noise := rfl
@[simp] theorem State.modLink_seen : (s.modLink l f).seen = s.seen := rfl
@[simp] theorem State.modLink_cores : (s.modLink l f).cores = s.cores := rfl
@[simp] theorem State.modLink_accesses : (s.modLink l f).accesses = s.accesses := rfl
@[simp] theorem State.modLink_msgs : (s.modLink l f).msgs = s.msgs := rfl
@[simp] theorem State.modLink_park : (s.modLink l f).park = s.park := rfl
@[simp] theorem State.modLink_transit : (s.modLink l f).transit = s.transit := rfl
@[simp] theorem State.modLink_setfull : (s.modLink l f).setfull = s.setfull := rfl
@[simp] theorem State.modLink_quadTlb : (s.modLink l f).quadTlb = s.quadTlb := rfl
@[simp] theorem State.modLink_joins : (s.modLink l f).joins = s.joins := rfl
@[simp] theorem State.modLink_foldOps : (s.modLink l f).foldOps = s.foldOps := rfl
@[simp] theorem State.modLink_foldSeq : (s.modLink l f).foldSeq = s.foldSeq := rfl
@[simp] theorem State.modLink_launches : (s.modLink l f).launches = s.launches := rfl
@[simp] theorem State.modLink_history : (s.modLink l f).history = s.history := rfl
@[simp] theorem State.modLink_saved : (s.modLink l f).saved = s.saved := rfl
@[simp] theorem State.modLink_masterVacant : (s.modLink l f).masterVacant = s.masterVacant := rfl
@[simp] theorem State.modLink_span : (s.modLink l f).span = s.span := rfl
@[simp] theorem State.modLink_routes : (s.modLink l f).routes = s.routes := rfl
@[simp] theorem State.modLink_pkgId : (s.modLink l f).pkgId = s.pkgId := rfl
@[simp] theorem State.modLink_pkgSet : (s.modLink l f).pkgSet = s.pkgSet := rfl
@[simp] theorem State.modLink_pwrLimit : (s.modLink l f).pwrLimit = s.pwrLimit := rfl
@[simp] theorem State.modLink_pwrMeas : (s.modLink l f).pwrMeas = s.pwrMeas := rfl
@[simp] theorem State.modLink_limiting : (s.modLink l f).limiting = s.limiting := rfl
@[simp] theorem State.modLink_corr : (s.modLink l f).corr = s.corr := rfl
@[simp] theorem State.modLink_uncorr : (s.modLink l f).uncorr = s.uncorr := rfl
@[simp] theorem State.modLink_sensors : (s.modLink l f).sensors = s.sensors := rfl
@[simp] theorem State.modLink_layers : (s.modLink l f).layers = s.layers := rfl
@[simp] theorem State.modLink_fencedTowers : (s.modLink l f).fencedTowers = s.fencedTowers := rfl
@[simp] theorem State.modLink_devBase : (s.modLink l f).devBase = s.devBase := rfl
@[simp] theorem State.modLink_devPend : (s.modLink l f).devPend = s.devPend := rfl
@[simp] theorem State.modLink_devCount : (s.modLink l f).devCount = s.devCount := rfl
@[simp] theorem State.modLink_devLost : (s.modLink l f).devLost = s.devLost := rfl
@[simp] theorem State.modLink_boot : (s.modLink l f).boot = s.boot := rfl
@[simp] theorem State.modLink_blocks : (s.modLink l f).blocks = s.blocks := rfl
@[simp] theorem State.modLink_tokens : (s.modLink l f).tokens = s.tokens := rfl
@[simp] theorem State.modLink_replicas : (s.modLink l f).replicas = s.replicas := rfl
@[simp] theorem State.modLink_frames : (s.modLink l f).frames = s.frames := rfl
@[simp] theorem State.modLink_planes : (s.modLink l f).planes = s.planes := rfl
@[simp] theorem State.modLink_shoots : (s.modLink l f).shoots = s.shoots := rfl
@[simp] theorem State.modLink_paths : (s.modLink l f).paths = s.paths := rfl
@[simp] theorem State.modLink_banks : (s.modLink l f).banks = s.banks := rfl
@[simp] theorem State.modLink_refreshFrom : (s.modLink l f).refreshFrom = s.refreshFrom := rfl
@[simp] theorem State.modLink_podTokens : (s.modLink l f).podTokens = s.podTokens := rfl
@[simp] theorem State.modLink_watches : (s.modLink l f).watches = s.watches := rfl

end

/-! ### Cores and banks -/

@[simp] theorem Core.bank_setBank_same (k : Core) (p : Prio) (b : Bank) : (k.setBank p b).bank p = b := by cases p <;> rfl
theorem Core.bank_setBank_ne (k : Core) {p q : Prio} (b : Bank) (h : q ≠ p) : (k.setBank p b).bank q = k.bank q := by
  cases p <;> cases q <;> first | rfl | exact absurd rfl h
@[simp] theorem Core.cur_setBank (k : Core) (p : Prio) (b : Bank) : (k.setBank p b).cur = k.cur := by cases p <;> rfl
@[simp] theorem Core.cur_modBank (k : Core) (p : Prio) (f : Bank → Bank) : (k.modBank p f).cur = k.cur := Core.cur_setBank ..
@[simp] theorem Core.bank_modBank_same (k : Core) (p : Prio) (f : Bank → Bank) : (k.modBank p f).bank p = f (k.bank p) :=
  Core.bank_setBank_same ..
theorem Core.bank_modBank_ne (k : Core) {p q : Prio} (f : Bank → Bank) (h : q ≠ p) : (k.modBank p f).bank q = k.bank q :=
  Core.bank_setBank_ne k _ h

@[simp] theorem State.core_setCore_same (s : State) (c : Nat) (k : Core) : (s.setCore c k).core c = k :=
  Sparse.get_insert_same ..
theorem State.core_setCore_ne (s : State) {c d : Nat} (k : Core) (h : d ≠ c) : (s.setCore c k).core d = s.core d :=
  Sparse.get_insert_ne _ _ _ _ _ h
@[simp] theorem State.core_modCore_same (s : State) (c : Nat) (f : Core → Core) : (s.modCore c f).core c = f (s.core c) :=
  State.core_setCore_same ..
theorem State.core_modCore_ne (s : State) {c d : Nat} (f : Core → Core) (h : d ≠ c) : (s.modCore c f).core d = s.core d :=
  State.core_setCore_ne _ _ h
@[simp] theorem State.mine_modMine (s : State) (f : Core → Core) : (s.modMine f).mine = f s.mine := State.core_modCore_same ..
@[simp] theorem State.mine_modMe (s : State) (f : Bank → Bank) : (s.modMe f).mine = s.mine.modBank s.mine.cur f :=
  State.mine_modMine ..
@[simp] theorem State.me_modMe (s : State) (f : Bank → Bank) : (s.modMe f).me = f s.me := by
  simp only [State.me, State.mine_modMe, Core.cur_modBank, Core.bank_modBank_same]
theorem State.core_modMe_ne (s : State) {d : Nat} (f : Bank → Bank) (h : d ≠ s.here) : (s.modMe f).core d = s.core d :=
  State.core_modCore_ne s _ h
theorem State.bank_modMe_ne (s : State) {d : Nat} {p : Prio} (f : Bank → Bank) (h : d ≠ s.here ∨ p ≠ s.mine.cur) :
    (s.modMe f).bank d p = s.bank d p := by
  by_cases hd : d = s.here
  · subst hd
    have hp : p ≠ s.mine.cur := h.resolve_left fun x => x rfl
    show ((s.modMe f).mine).bank p = s.mine.bank p
    rw [State.mine_modMe, Core.bank_modBank_ne _ _ hp]
  · simp only [State.bank, State.core_modMe_ne s f hd]

@[simp] theorem State.core_enqueue (s : State) (d c : Nat) (p : Prio) (n : Nat) (e : Instr) (i : Nat) :
    (s.enqueue d c p n e).core i = s.core i := rfl
@[simp] theorem State.core_enqueueLast (s : State) (d c : Nat) (p : Prio) (n : Nat) (e : Instr) (i : Nat) :
    (s.enqueueLast d c p n e).core i = s.core i := rfl
@[simp] theorem State.core_delayed (s : State) (i : Nat) : s.delayed.core i = s.core i := rfl
@[simp] theorem State.core_bumpId (s : State) (i : Nat) : s.bumpId.core i = s.core i := rfl

/-! ### Results on their way (R211) -/

/-- A result goes in at one place, and no other result moves. -/
theorem pendInsert_split (l : List Pend) (p : Pend) : ∃ a b, l = a ++ b ∧ pendInsert l p = a ++ p :: b := by
  induction l with
  | nil => exact ⟨[], [], rfl, rfl⟩
  | cons q m ih =>
    simp only [pendInsert]
    split
    · obtain ⟨a, b, h, h'⟩ := ih
      exact ⟨q :: a, b, by rw [h]; rfl, by rw [h']; rfl⟩
    · exact ⟨[], q :: m, rfl, rfl⟩

/-- Results for other registers leave a register alone. -/
theorem Bank.g_foldl_landOne (l : List Pend) (b : Bank) (r : Reg) (h : ∀ p ∈ l, p.dst ≠ .gpr r) :
    (l.foldl Bank.landOne b).g.get r = b.g.get r := by
  induction l generalizing b with
  | nil => rfl
  | cons p l ih =>
    rw [List.foldl_cons, ih _ fun q hq => h q (List.mem_cons_of_mem _ hq)]
    have hp := h p List.mem_cons_self
    obtain ⟨due, a, dst, v⟩ := p
    cases dst with
    | fpctl => rfl
    | gpr x =>
      have hx : x ≠ r := fun e => hp (by rw [e])
      have hn : x.val ≠ r.val := fun e => hx (Fin.ext e)
      exact Vector.getElem_set_ne (xs := _) x.isLt r.isLt hn


end Sys2Proof.Machine
end

