-- ==== Sys2Proof/Tests/Slice0.lean ====
section
/-!
SUPPORT. Tests: ill-formed terms, decoded words, and a witness for the hypotheses of every statement.
-/
namespace Sys2Proof.Tests
open Sys2Proof Sys2Proof.Machine

/-! ### Well-formed terms: an ill-formed one for each check, refused -/

/-- R239, R280: FE = 1 with W = 0; RED has no SWAP, and FADD no W = 1; a SEND range beyond g31; scope 6 of RBC and RCLR. -/
theorem test_wf_message_and_atomic_fields :
    (Instr.amo 1 2 3 .add .core false true).wf = false ∧ (Instr.red 1 2 (.int .swap) .core true).wf = false ∧
    (Instr.red 1 2 (.fadd .rne) .core true).wf = false ∧ (Instr.send 1 30 2).wf = false ∧ (Instr.send 1 30 1).wf = true ∧
    (Instr.rbc 1 2 .sys).wf = false ∧ (Instr.rclr 1 .sys).wf = false := by decide

/-- R286: numbers below 0x100 that the table does not assign. -/
theorem test_wf_control_numbers :
    (Instr.mfc 1 0x00C).wf = false ∧ (Instr.mtc 1 0x022).wf = false ∧ (Instr.mfc 1 0x0FF).wf = false ∧ (Instr.mfc 1 0x100).wf = true := by
  decide

/-- R330, R339: CPY2 with T and mode COPY of elements below .d; a local RPUSH with a register; RWAIT IDLE with a count. -/
theorem test_wf_copies_and_rings :
    (Instr.cpy2 1 2 3 4 0 5 .copy .core .w true).wf = false ∧ (Instr.cpy2 1 2 3 4 0 5 .copy .core .d true).wf = true ∧
    (Instr.rpush 0 false 3).wf = false ∧ (Instr.rwait 0 1 .idle).wf = false := by decide

/-- R351, R365: MFOLD with RA = RB, and SOLO with a home; the cases in which MNAR is stored as SEAL. -/
theorem test_wf_folds :
    (Instr.mfold 0 .fp16 0 2 2 false false 0).wf = false ∧ (Instr.mfold 0 .fp16 1 2 3 true false 0).wf = false ∧
    (Instr.mnar 0 .fp32 .rtz 1 2 0 none).wf = false ∧ (Instr.mnar 0 .fp16 .rtz 1 2 3 none).wf = false ∧
    (Instr.mnar 0 .dxb8 .rne 1 0 3 (some 0)).wf = false ∧ (Instr.mnar 0 .i8 .rne 1 2 0 (some 0)).wf = false ∧
    (Instr.mnar 0 .i8 .rne 1 0 0 (some 505)).wf = false ∧ (Instr.mnar 0 .i8 .rne 1 0 0 (some 504)).wf = true := by decide

/-- R384, R393: a field beyond the row, and ARSUM of more than 48 bits. -/
theorem test_wf_array_fields :
    (Instr.acmp 1 none .set (.reg 2) { off := 511, wm1 := 1 }).wf = false ∧ (Instr.awrt none { off := 450, wm1 := 63 } 0).wf = false ∧
    (Instr.ard 1 2 false { off := 505, wm1 := 7 }).wf = false ∧ (Instr.awr 1 2 { off := 511, wm1 := 1 }).wf = false ∧
    (Instr.ascw none 1 { off := 511, wm1 := 1 }).wf = false ∧ (Instr.arsum 1 none false { off := 511, wm1 := 1 }).wf = false ∧
    (Instr.arsum 1 none false { off := 0, wm1 := 48 }).wf = false ∧ (Instr.arsum 1 none false { off := 0, wm1 := 47 }).wf = true := by decide

/-- R396 to R398: ASEQ whose mask is its tag; widths beyond the limits; an unused field that is not zero; a field beyond the row;
the scratch field beyond the row, or over an operand; a destination that overlaps an operand. -/
theorem test_wf_sequences :
    (Instr.aseq .add (some 2) 2 0 7 0 8 0 0).wf = false ∧ (Instr.aseq .muln none 2 0 15 15 64 0 16).wf = true ∧
    (Instr.aseq .satn none 2 0 3 7 64 0 0).wf = false ∧ (Instr.aseq .f16add none 2 0 14 0 64 0 16).wf = false ∧
    (Instr.aseq .clt none 2 0 7 0 8 0 16).wf = false ∧ (Instr.aseq .adds none 2 1 7 0 8 8 0).wf = false ∧
    (Instr.aseq .mov none 2 0 7 0 8 0 16).wf = false ∧ (Instr.aseq .mov none 2 1 7 0 8 0 0).wf = false ∧
    (Instr.aseq .mov none 2 0 7 1 8 0 0).wf = false ∧ (Instr.aseq .mov none 2 0 7 0 505 0 0).wf = false ∧
    (Instr.aseq .mov none 2 0 7 0 8 505 0).wf = false ∧ (Instr.aseq .clt none 2 0 7 0 0 8 505).wf = false ∧
    (Instr.aseq .f16mul none 2 0 15 0 480 0 16).wf = false ∧ (Instr.aseq .f16mul none 2 0 15 0 64 80 16).wf = false ∧
    (Instr.aseq .f16mul none 2 0 15 0 64 0 90).wf = false ∧ (Instr.aseq .mov none 2 0 7 0 4 0 0).wf = false ∧
    (Instr.aseq .muln none 2 0 15 15 64 0 80).wf = false := by decide

/-- The index ranges of events: sensors, span links, PCIe links, queues, cores. -/
theorem test_wf_event_indices :
    (Instr.sensorSample 84 0).wf = false ∧ (Instr.remoteMessagePresent 16 (.start 0)).wf = false ∧
    (Instr.hostApertureRead 2 0 (.memory 8)).wf = false ∧ (Instr.cancel 2 0).wf = false ∧ (Instr.pcieLinkDown 2 true).wf = false ∧
    (Instr.qctlWrite 0 8 0).wf = false ∧ (Instr.recordAccept 2 0).wf = false ∧ (Instr.pageMoveRequest 0 8).wf = false ∧
    (Instr.astepWrite 8320 0).wf = false ∧ (Instr.afldWrite 8320 0).wf = false ∧ (Instr.barphWithdraw 8320 0).wf = false := by decide

/-! ### Decoding: words written out from the encoding tables, with the examples of the spec -/

/-- A bundle of a word C beside NOP. -/
def cOnly (i : Instr) : Option Bundle := some { c := i, a := .nopA }

/-- The four-bundle example of 13_instruction_formats: two bundles decode; MAX with rm 1 and scope 7 do not. -/
theorem test_decode_formats_example :
    decodeBundle 0x402940011820B002 = some { c := .ld 4 2 .d 2, a := .addi 5 5 1 } ∧
    decodeBundle 0x0001234591380000 = cOnly (.movlLone 7 0x12345) ∧ decodeBundle 0x142948400B183FFE = none ∧
    decodeBundle 0x142948000B183FFE = some { c := .bne 3 0 true 0x1FFE, a := .maxR 5 5 4 } ∧ decodeBundle 0x000000001D08BE00 = none := by
  decide

/-- 14_scalar, its table of words. -/
theorem test_decode_scalar :
    decodeBundle 0x4A103FF900000000 = some { c := .nopC, a := .movi 2 0x3FF9 } ∧
    decodeBundle 0x06188A0000000000 = some { c := .nopC, a := .div 3 2 5 } ∧
    decodeBundle 0x6549D50000000000 = some { c := .nopC, a := .fdiv 9 7 10 .dyn } ∧
    decodeBundle 0x726A450000000000 = some { c := .nopC, a := .cvtff 13 9 .f32e4m3 .dyn } ∧
    decodeBundle 0x2A7C010400000000 = some { c := .nopC, a := .bext 15 16 4 4 } := by decide

/-- 15_memory_instructions, its table of words; 20_fold and 17_control_flow for LDX and ST. -/
theorem test_decode_memory :
    decodeBundle 0x2620B601 = cOnly (.ldwt 4 2 .tower 1) ∧ decodeBundle 0x2130B601 = cOnly (.ldt 6 2 .tower 1) ∧
    decodeBundle 0x2330B601 = cOnly (.stf 6 2 .tower 1) ∧ decodeBundle 0x29521212 = cOnly (.amo 10 8 9 .add .pkg true false) ∧
    decodeBundle 0x2C000001 = cOnly .fenceR ∧ decodeBundle 0x2C000003 = cOnly .fenceE ∧
    decodeBundle 0x2B108910 = cOnly (.red 2 4 (.fadd .rdn) .pkg false) ∧ decodeBundle 0x1B408E02 = cOnly (.ldx 8 2 7 .w) ∧
    decodeBundle 0x1A48B021 = cOnly (.st 9 2 .d 33) := by decide

/-- 16_system R290, R296 to R298. -/
theorem test_decode_system :
    decodeBundle 0x13000123 = cOnly (.trap 0x123) ∧ decodeBundle 0x14000064 = cOnly (.sleep 100) ∧
    decodeBundle 0x15000007 = cOnly (.brk 7) ∧ decodeBundle 0x38000000 = cOnly .ltrig ∧ decodeBundle 0x39008000 = cOnly (.migr 2) ∧
    decodeBundle 0x72010A00 = cOnly (.resume 4 5) ∧ decodeBundle 0x71048021 = cOnly (.mtc 18 0x021) := by decide

/-- 17_control_flow R312, its table and its example; 21_throttling for BZ. -/
theorem test_decode_branches :
    decodeBundle 0x01000000 = cOnly .endFiring ∧ decodeBundle 0x0300003C = cOnly (.call false 60) ∧
    decodeBundle 0x0407C000 = cOnly (.jmp 31) ∧ decodeBundle 0x000017708B200000 = cOnly (.bneLone 4 0 false 6000) ∧
    decodeBundle 0x0E08BFFB = cOnly (.bltn 1 2 true 0x1FFB) ∧ decodeBundle 0x0D1A2003 = cOnly (.bge 3 8 true 3) ∧
    decodeBundle 0x1033FFFC = cOnly (.loop 6 false 0x3FFFC) ∧ decodeBundle 0x066FFFFE = cOnly (.bz 13 true 0x3FFFE) ∧
    decodeBundle 0x000020008B200000 = none := by decide

/-- 18_messages_barriers R317, R323, R327. -/
theorem test_decode_messages_and_barriers :
    decodeBundle 0x3001D802 = cOnly (.send 7 12 2) ∧ decodeBundle 0x31280050 = cOnly (.recv 5 0 1 2) ∧
    decodeBundle 0x32480080 = cOnly (.pcnt 9 2) ∧ decodeBundle 0x33000001 = cOnly (.bar .row) ∧
    decodeBundle 0x34000003 = cOnly (.bara .layer) ∧ decodeBundle 0x35000007 = cOnly (.barw .pod) := by decide

/-- 19_copy_rings R330, R336 and its example. -/
theorem test_decode_copies_and_rings :
    decodeBundle 0x000001C6C010C850 = cOnly (.cpy 2 3 4 5 6 .keep .tower) ∧ decodeBundle 0xC2000005 = cOnly (.cpyw 5) ∧
    decodeBundle 0xC36010C0 = cOnly (.rcfg 3 2 3) ∧ decodeBundle 0xC4200000 = cOnly (.rpush 1 false 0) ∧
    decodeBundle 0xC4204801 = cOnly (.rpush 1 true 9) ∧ decodeBundle 0xC6200001 = cOnly (.rwait 1 0 .free) := by decide

/-- 20_fold R351 and its example; 21_throttling. -/
theorem test_decode_folds :
    decodeBundle 0x00000005D0544C00 = cOnly (.mfold 1 .dxb8 0 2 3 false false 5) ∧
    decodeBundle 0xD0000600 = cOnly (.mfold 0 .fp16 0 0 1 true false 0) ∧
    decodeBundle 0xD2046E80 = cOnly (.mnar 0 .fp16 .rne 27 20 0 none) ∧ decodeBundle 0xD3001800 = cOnly (.mwid 0 .fp32 6 0) ∧
    decodeBundle 0xD4200000 = cOnly (.mrec 0 16) := by decide

/-- 22_associative_arrays R388, R396 and its example; 23_learning R411, R414, R421. -/
theorem test_decode_arrays_and_learning :
    decodeBundle 0x00028610E0640000 = cOnly (.acmp 3 (some 1) .set (.imm 5) { off := 16, wm1 := 3 }) ∧
    decodeBundle 0x00000008E209201C = cOnly (.aseq .add (some 1) 2 0 7 0 8 0 0) ∧
    decodeBundle 0xE4200400 = cOnly (.abnd 1 2 0) ∧ decodeBundle 0xE61A0000 = cOnly (.acnt 3 2) ∧
    decodeBundle 0x00000E08E8210000 = cOnly (.arsum 4 (some 1) false { off := 8, wm1 := 7 }) ∧
    decodeBundle 0xEE000E00 = cOnly (.atrc 7) ∧ decodeBundle 0x36024E00 = cOnly (.rbc 9 7 .core) ∧
    decodeBundle 0x37000C08 = cOnly (.rclr 6 .layer) ∧ decodeBundle 0xEF000A00 = cOnly (.arwd 5) := by decide
/-! ### Witnesses: states and operands that meet the hypotheses of the statements, one theorem a statement

A package after reset, with one thing changed: core 0 and its low bank issue. -/

/-- The low bank of core 0 changed. -/
def low0 (f : Bank → Bank) : State := State.reset.modBank 0 .low f
/-- Core 0 changed. -/
def core0 (f : Core → Core) : State := State.reset.modCore 0 f
/-- General registers 1 to 4 of the issuing bank. -/
def regs (a b c d : Word) : State := low0 fun k => { k with g := (((k.g.set 1 a).set 2 b).set 3 c).set 4 d }
/-- The issuing bundle holds an operation. -/
def withOp (o : Op) : State := low0 fun b => { b with run := .running, op := o }
/-- A 64 KiB page at virtual 0 on a frame, in the L1 TLB of core 0. -/
def page (frame : BitVec 40) (attr : BitVec 9) : TlbEntry :=
  { space := 0, size := 0, vpn := 0, pfn := frame, attr := attr, host := false }
/-- Core 0 with that page. -/
def paged (frame : BitVec 40) (attr : BitVec 9) : State := core0 fun k => { k with tlb := [page frame attr] }
/-- An access in flight of core 0's firing. -/
def flying (op : AccOp) (remote : Bool) : Access :=
  { id := 7, core := 0, prio := .low, fid := Bank.reset.key, op := op, va := 0, pa := 0, key := 0, agent := .l1, tr := false, dst := none,
    st := none, grp := false, back := none, ent := page 0 0xB, acq := false, rel := none, remote := remote, reg := none, sent := 0, late := false, miss := false,
    gone := false, told := [], ans := none }

theorem witness_IntegerForms :
    (regs 5 0 0 0).rd 2 = 0 ∧ (regs 0x8000000000000000 0xFFFFFFFFFFFFFFFF 0 0).rd 1 = 0x8000000000000000 ∧
    (regs 0x8000000000000000 0xFFFFFFFFFFFFFFFF 0 0).rd 2 = 0xFFFFFFFFFFFFFFFF := by decide

theorem witness_FloatForms :
    ((fpTyFmt .f32).decode ((regs 0x7FC00000 0 0 0).rd 1).toNat).isNan = true ∧
    (fpTyFmt .f32).decode ((regs 0x7F800000 0 0 0).rd 1).toNat = .inf false ∧
    (fpTyFmt .f16).decode ((regs 0xFC00 0 0 0).rd 1).toNat = .inf true := by decide

theorem witness_FloatInvalidCases :
    (f32 0x7FA00000).isNan = true ∧ f32 0xFF800000 = .inf true ∧ f32 0x7F800000 = .inf false ∧ (f32 0).isZero = true ∧
    (f32 0x7F800000).isInf = true ∧ (f32 0x3F800000).isNan = false ∧ (f32 0x3F800000).isFin = true ∧ (f32 0x3F800000).isZero = false ∧
    (f32 0x80000000).isZero = true ∧ (f32 0xBF800000).isNan = false ∧ (f32 0xBF800000).neg = true ∧ (f32 0xBF800000).isZero = false := by
  decide

theorem witness_ResultsLandInTime :
    Bank.reset.pending 0 = false ∧ Bank.reset.pending 31 = false ∧ (31 : Reg) ≠ 0 ∧ (30 : Reg) ≠ 31 ∧ 4 ≤ 4 := by decide

theorem witness_ResultFrame :
    1 ≠ State.reset.here ∧ Prio.high ≠ State.reset.mine.cur := by decide

theorem witness_LoopCounts :
    (0 : Reg) = 0 ∧ 0 < (1 : Word).toNat ∧ 3 < (5 : Word).toNat ∧ Bank.reset.ann1 = false ∧ Bank.reset.ann2 = false := by decide

/-- A bank with annulled successors. -/
def annulled (x y : Bool) : Bank := { Bank.reset with ann1 := x, ann2 := y }
theorem witness_PcQueueSteps :
    ((annulled false false).ann1 = false ∧ (annulled false false).ann2 = false) ∧ ((annulled true false).ann1 = true ∧ (annulled true false).ann2 = false) ∧
    ((annulled true true).ann1 = true ∧ (annulled true true).ann2 = true) ∧ (annulled false true).ann1 = false ∧ (annulled false true).ann2 = true := by
  decide

/-- R, W and C: an ordinary cached page of HBM. -/
theorem witness_LoadsTriesAndAtomicsIssue :
    (paged 0 0xB).reaches (reqLoad 0xFFFF 1) (page 0 0xB) 0xFFFF ∧ (paged 0 0xB).reaches (reqLoad 0xFFF8 8) (page 0 0xB) 0xFFF8 ∧
    (paged 0 0xB).reaches (reqFeRead 8) (page 0 0xB) 8 ∧ (paged 0 0xB).reaches (reqFeWrite 8) (page 0 0xB) 8 ∧
    (paged 0 0xB).reaches (reqAtom 4 4 false) (page 0 0xB) 4 ∧ (paged 0 0xB).reaches (reqAtom 8 8 false) (page 0 0xB) 8 := by
  unfold State.reaches; decide

theorem witness_StoresFencesAndPrefetch :
    ((paged 0 0xB).storeBuffer (paged 0 0xB).here < 16 ∧ (paged 0 0xB).reaches (reqStore 0xFFFE 2) (page 0 0xB) 0xFFFE ∧
      (paged 0 0xB).reaches (reqFeWrite 8) (page 0 0xB) 8 ∧ (paged 0 0xB).reaches (reqAtom 4 4 false) (page 0 0xB) 4) ∧
    (State.reset.accesses.filter (fun y => State.reset.own y) = [] ∧ State.reset.me.dropped = none) ∧
    (let s : State := { State.reset with accesses := [flying (.store .d 1) true] }
     s.accesses.filter (fun y => s.own y) = [flying (.store .d 1) true] ∧ (flying (.store .d 1) true).remote = true ∧ s.me.dropped = none ∧
       (flying (.store .d 1) true).ans = none) ∧
    (let y := { flying (.store .d 1) false with pa := 0x1400000 * 65536 }
     let s : State := { State.reset with accesses := [y] }
     s.accesses.filter (fun y => s.own y) = [y] ∧ y.ans = none ∧ y.remote = false ∧ placeOf (offOf y.pa) = .vault 0 0) ∧
    (low0 fun b => { b with dropped := some 8 }).me.dropped = some 8 ∧
    ((0 : Word).toNat < 2 ^ 56 ∧ (paged 0 0xB).lookup 0 (paged 0 0xB).mine.space 0 = some (page 0 0xB) ∧
      attrR (page 0 0xB).attr = true ∧ (paged 0 0xB).agentOf (page 0 0xB).attr 0 = .l1 ∧ attrR (page 0 0x2).attr = false) ∧
    State.reset.lookup 0 State.reset.mine.space 0 = none ∧ 2 ^ 56 ≤ (0xFFFFFFFFFFFFFFFF : Word).toNat := by
  unfold State.reaches; decide

theorem witness_WaitingOperations :
    (withOp (.fe 1 8 8 3 (.answered (.done 5)))).me.op = .fe 1 8 8 3 (.answered (.done 5)) ∧
    (withOp (.fe 1 8 8 0 (.answered (.done 5)))).me.op = .fe 1 8 8 0 (.answered (.done 5)) ∧
    ((withOp (.reading 0)).me.op = .reading 0 ∧ 0 ≤ (withOp (.reading 0)).tick) ∧
    (let s := (withOp (.fe 1 8 8 0 .ready)).modMe fun b => { b with rbud := 1, anch := true, feHeld := 32 }
     s.me.op = .fe 1 8 8 0 .ready ∧ s.me.anch = true ∧ s.me.rbud ≠ 0xFFFF ∧ (s.me.rbud.toNat + 1) * 16 ≤ s.me.feHeld) ∧
    (withOp (.fe 1 8 8 3 (.answered .expired))).me.op = .fe (0 + 1) 8 8 3 (.answered .expired) ∧
    (let s := (withOp (.fe 1 8 8 3 (.answered .notReady))).modMe fun b => { b with rbud := 1 }
     s.me.op = .fe (0 + 1) 8 8 3 (.answered .notReady) ∧ s.me.wasSusp = false ∧
       ¬ (s.me.woken = true ∨ (s.me.rbud ≠ 0xFFFF ∧ s.me.rbud.toNat ≤ 0))) ∧
    (∀ an : Bool, let s := (withOp (.fe 2 8 8 3 (.answered .notReady))).modMe fun b => { b with rbud := 1, anch := an }
     s.me.op = .fe (1 + 1) 8 8 3 (.answered .notReady) ∧ s.me.wasSusp = false ∧ (s.me.rbud ≠ 0xFFFF ∧ s.me.rbud.toNat ≤ 1) ∧
       s.me.anch = an ∧ s.mine.cur = .low) ∧
    (let s := (core0 fun k => { k with cur := .high }).modMe fun b => { b with op := .fe 1 8 8 3 (.answered .notReady), woken := true }
     s.me.op = .fe (0 + 1) 8 8 3 (.answered .notReady) ∧ s.me.wasSusp = false ∧ s.me.woken = true ∧ s.me.anch = false ∧
       s.mine.cur = .high) := by decide

theorem witness_AccessChecks :
    ((4 : Word).toNat % 8 ≠ 0 ∧ State.reset.resolve (reqLoad 4 8) = .trap 0x03 4) ∧
    ((0x100000000000000 : Word).toNat % 8 = 0 ∧ 2 ^ 56 ≤ (0x100000000000000 : Word).toNat) ∧
    (let s := paged 0 0x1
     (8 : Word).toNat % 8 = 0 ∧ (8 : Word).toNat < 2 ^ 56 ∧ s.me.xl = .none ∧ s.lookup s.here s.mine.space 8 = some (page 0 0x1) ∧
       (reqStore 8 8).w = true ∧ attrW (page 0 0x1).attr = false ∧ s.resolve (reqStore 8 8) = .trap 0x04 8 ∧
       s.resolve (reqFeWrite 8) = .trap 0x04 8 ∧ s.storeBuffer s.here < 16 ∧ s.me.op = .idle) ∧
    (let s := paged 0 0x2
     s.lookup s.here s.mine.space 8 = some (page 0 0x2) ∧ (reqLoad 8 8).r = true ∧ attrR (page 0 0x2).attr = false ∧
       s.resolve (reqLoad 8 8) = .trap 0x04 8 ∧ s.resolve (reqFeRead 8) = .trap 0x04 8) := by decide

theorem witness_MemoryAtItsAgent :
    Memory.wf State.reset.mem = true ∧ placeOf (offOf 0) = .hbm ∧ placeOf (offOf (0x1400000 * 65536)) = .vault 0 0 ∧
    State.reset.poisoned 0 = false ∧ 0 < Size.bytes .b ∧ 7 < Size.bytes .d := by decide

/-- A word of HBM emptied. -/
def emptied : State := State.reset.empty 64
theorem witness_FullEmptyAndAtomics :
    placeOf (offOf 64) = .hbm ∧ placeOf (offOf (0x1400000 * 65536)) = .vault 0 0 ∧ State.reset.poisoned 64 = false ∧
    State.reset.full 64 = true ∧ emptied.full 64 = false ∧ emptied.poisoned 64 = false := by decide

/-- A transient page on vault 0: R, W and T. -/
theorem witness_TarmArms :
    (let s := paged 0x1400000 0x43
     s.storeBuffer s.here < 16 ∧ attrT (page 0x1400000 0x43).attr = true ∧ pkgOf (0x1400000 * 65536) = s.pkgId ∧
       s.resolve (reqArm 0) = .go (page 0x1400000 0x43) (0x1400000 * 65536) ∧
       s.agentOf (page 0x1400000 0x43).attr (0x1400000 * 65536) ≠ .l1) ∧
    ((0 : Nat) < 0x400000 ∧ State.reset.armed 0 = false ∧ 0x3FFFFF < 0x400000 ∧ State.reset.armed 0x3FFFFF = false) ∧
    linearBase ≤ linearBase ∧
    ({ State.reset with blocks := [{ blk := 3, arm := 0, life := 5, deadline := 5 }] } : State).armed 3 = true := by decide

/-- The issuing core is service core 8192. -/
def onSvc : State := { State.reset with here := 8192 }
theorem witness_ControlRegisters :
    (0x0FF : BitVec 14).toNat < 0x100 ∧ isSvc onSvc.here = true ∧ (0x03F : BitVec 14).toNat < 0x040 ∧
    ((0x04A : BitVec 14).toNat < 0x100 ∧ 0x049 < (0x04A : BitVec 14).toNat) ∧
    ((0x049 : BitVec 14).toNat < 0x100 ∧ State.reset.mine.arrayDone = true) ∧ 0x100 ≤ (0x100 : BitVec 14).toNat ∧
    isSvc State.reset.here = false ∧
    (let s := core0 fun k => { k with low := { k.low with run := .running, op := .array 0 none (some 0) false 0 } }
     0x040 ≤ (0x040 : BitVec 14).toNat ∧ (0x049 : BitVec 14).toNat ≤ 0x049 ∧ s.mine.arrayDone = false) ∧
    (∀ n ∈ [0x001, 0x020, 0x040, 0x041, 0x048], State.reset.seenReg n = none) ∧
    ({ State.reset with seen := [(0, [(0x040, 7)])] } : State).seenReg 0x040 = some 7 := by decide

theorem witness_WrittenRegistersReadBack :
    State.reset.seenReg 0x006 = none ∧ ((0x006, 16) : Nat × Nat) ∈ [(0x006, 16), (0x007, 16), (0x009, 5), (0x021, 16), (0x030, 4), (0x032, 4), (0x033, 16), (0x042, 8),
      (0x043, 16), (0x044, 8), (0x045, 12), (0x047, 3), (0x048, 32)] ∧
    (State.reset.mtcVal 0x037 0).mfcVal 0x037 = 1 ∧ (State.reset.mtcVal 0x036 0xFFFF).mfcVal 0x036 = 0x1818 ∧
    1 ≠ State.reset.here := by decide

/-- Instance 0 is placed on core 0. -/
def inst0 : Inst :=
  { gidx := 0, act := 0, placed := true, disabled := false, inflight := true, trig := false, queued := false, started := false,
    waitIn := false, ports := [{ base := 0, size := 64, head := 0, msgs := [2], reserved := 0 }] }
theorem witness_TrapsSleepLaunchAndMigration :
    (core0 fun k => { k with brken := true }).mine.brken = true ∧ State.reset.mine.brken = false ∧
    (State.reset.me.op = .idle ∧ (0 : BitVec 14) = 0 ∧ (0x3FFF : BitVec 14) ≠ 0) ∧
    (withOp (.sleep 9 false)).me.op = .sleep 9 false ∧ (withOp (.sleep 9 true)).me.op = .sleep 9 true ∧
    (let s : State := { withOp (.sleep 9 false) with tick := 9 }
     s.evPrio = .low ∧ (s.bank s.here .low).op = .sleep 9 false ∧ 9 ≤ s.tick) ∧
    (∀ t : Bool, let s := core0 fun k => { k with insts := [{ inst0 with trig := t }] }
     s.released .pkg = true ∧ s.inst s.me.home s.me.inst = some { inst0 with trig := t } ∧ ({ inst0 with trig := t } : Inst).trig = t) := by decide
/-! A launch: launch id 1 in space 0, with nothing in its tables but what a test puts there. -/

/-- Its record. -/
def rec1 : LRec :=
  { lid := 1, sweep := false, prio := 1, rsafe := false, msix := false, vec := 0, link := 0, root := 0, layout := 0, desc := 0, w3 := 0,
    w4 := 0, w5 := 0, save := 0, crec := 0, cword := 0, preds := [], rbud := 0, wdlim := 0, fsamp := 0, rm := 0, barb := 0 }
/-- The launch, which holds core 0, in a state. -/
def launch1 (st : LState) : Launch := { newLaunch rec1 0 with st := st, cores := [0] }
/-- The package with the launch on core 0, whose low bank a firing of it holds. -/
def launched (st : LState) (f : Core → Core) : State :=
  { core0 fun k => f { k with launch := some (1, 0), low := { k.low with lid := 1, run := .running } } with launches := [launch1 st] }
/-- The launch's table with one actor of a kind, and its instance 0 on core 0. -/
def actor1 (strict : Bool) : Actor :=
  { entry := 0, high := false, strict := strict, keep := false, nin := 1, nout := 0, irate := [1], orate := [0], depth := [64] }
def withActor (strict : Bool) (f : Core → Core) : State :=
  { launched .running f with launches := [{ launch1 .running with actors := [actor1 strict] }] }

/-- A page on a vault of the launch; the firing may migrate to core 1, and not to its own core. -/
theorem witness_Migration :
    (let s := paged 0 0xB
     s.translate (s.rd 0) = .go (page 0 0xB) 0 ∧ s.migrTo 0 = none) ∧
    (∀ w : Bool,
     let s := { launched .running fun k => { k with
       tlb := [page 0x1400200 0x3], copies := if w then [{ (State.reset.newCopy 0 0 0 .copy .core 0) with owner := some (firingKey 1 0 0) }] else [] }
       with launches := [{ launch1 .running with cores := [0, 1] }] }
     s.translate (s.rd 0) = .go (page 0x1400200 0x3) (0x1400200 * 65536) ∧ s.migrTo (0x1400200 * 65536) = some 1 ∧
       s.mine.hasCopy s.me.key = w) := by decide

theorem witness_EndOfFiring :
    (let s := withActor false id
     s.me.dropped = none ∧ s.actorOf s.me.lid s.me.act = some (actor1 false) ∧ (actor1 false).strict = false) ∧
    (let s := withActor true id
     s.me.dropped = none ∧ s.actorOf s.me.lid s.me.act = some (actor1 true) ∧ (actor1 true).strict = true ∧
       ∀ j, j < 8 → (vget s.me.ocnt j 0).toNat = (actor1 true).orate.getD j 0) ∧
    (State.reset.me.dropped = none ∧ State.reset.actorOf State.reset.me.lid State.reset.me.act = none) ∧
    (∀ j : Fin 8, let s := withActor true fun k => { k with low := { k.low with ocnt := k.low.ocnt.set j 1 } }
     s.me.dropped = none ∧ s.actorOf s.me.lid s.me.act = some (actor1 true) ∧ j.val < 8 ∧
       (vget s.me.ocnt j.val 0).toNat ≠ (actor1 true).orate.getD j.val 0 ∧
       ∀ i, i < j.val → (vget s.me.ocnt i 0).toNat = (actor1 true).orate.getD i 0) ∧
    (low0 fun b => { b with dropped := some 8 }).me.dropped = some 8 := by decide

/-- A firing on core 0 resumes the record at 0: it has not asked for it, or its words have come, all of them 0: a firing of instance 0 of
launch 0. -/
def resuming (lid : BitVec 32) (o : Op) : State :=
  core0 fun k => { k with
    launch := some (lid, 0), insts := [{ inst0 with inflight := false }], tlb := [page 0 0xB], low := { k.low with op := o } }
/-- The words of a record, asked for by accesses 1 to 64: come back, or not yet. -/
def words64 (back : Option Answer) : List Access :=
  (List.range 64).map fun i => { flying (.load .d) false with id := i + 1, grp := true, back := back, ans := back }
theorem witness_Resuming (bad : Bool) :
    (let s := resuming 0 .idle
     s.me.op = .idle ∧ s.reaches (reqLoad (s.rd 0) 8) (page 0 0xB) 0 ∧ (s.touch s.here (page 0 0xB)).unreachable 0 = false ∧
       512 ≤ (page 0 0xB).bytes - (s.rd 0).toNat % (page 0 0xB).bytes ∧ (s.touch s.here (page 0 0xB)).wordsTrap (s.rd 0).toNat 0 64 = none) ∧
    (let s : State := { resuming (if bad then 1 else 0) (.gather 1 64) with accesses := words64 (some (.done 0)) }
     s.me.op = .gather 1 64 ∧ collected (s.grouped 1 64) = some (.ok (List.replicate 64 0)) ∧
       s.resumeBad (List.replicate 64 0) (s.rd 0).toNat = bad ∧ s.released .pkg = true) ∧
    (let s : State := { resuming 0 (.gather 1 64) with accesses := words64 none }
     s.me.op = .gather 1 64 ∧ collected (s.grouped 1 64) = none) := by
  unfold State.reaches
  refine ⟨by decide, ⟨by cases bad <;> decide, by rfl, by cases bad <;> decide, by cases bad <;> decide⟩, by decide, by rfl⟩
/-- A root table at 0 whose first entry names the table at 0x8000, whose first entry is a 32 GiB leaf on HBM: R, W and C. -/
def mapped : State :=
  ((launched .running id).wrWord 0 0x8001).wrWord 0x8000 0x182F
def bigPage : TlbEntry := { space := 0, size := 3, vpn := 0, pfn := 0, attr := 0xB, host := false }
/-- A shoot-down number 0 of the page. -/
def shoot0 (left : List Nat) (issuer : Option Prio) : Shoot :=
  { id := 0, space := 0, size := 3, vpn := 0, allv := false, alls := false, left := left, done := left.isEmpty, src := 8192, issuer := issuer }
/-- A token of the page, held by a request. -/
def token0 (rq : TokenReq) : Token := { lid := 1, va := 0, holder := some rq, shoot := 0, waiting := [] }
theorem witness_TranslationAndPages :
    (isSvc State.reset.here = false ∧ isSvc onSvc.here = true) ∧
    ((1 : Word).toNat < 8192 ∧ coreLayer 0 = coreLayer onSvc.here ∧ coreLayer 255 = coreLayer onSvc.here ∧ 8192 ≤ (8192 : Word).toNat) ∧
    onSvc.me.op = .idle ∧
    (∀ ended : Bool, let s : State :=
       { (onSvc.modMe fun k => { k with op := .shoot 0 }) with shoots := [shoot0 (if ended then [] else [0]) (some .low)] }
     s.me.op = .shoot 0 ∧ (s.shoots.any fun y => y.id == 0 && !y.done) = !ended) ∧
    ((mapped.core 0).lid?.bind mapped.launchOf = some (launch1 .running) ∧ mapped.missAhead 0 = false ∧
      mapped.stacksShut (mapped.tableWords (launch1 .running) 8) = false ∧ mapped.inMotion (launch1 .running) 8 = false ∧
      (mapped.meetAll (mapped.tableWords (launch1 .running) 8)).walkFor (launch1 .running) 0 8 = some bigPage) ∧
    (let s := launched .running id
     (s.core 0).lid?.bind s.launchOf = some (launch1 .running) ∧ s.missAhead 0 = false ∧ s.stacksShut (s.tableWords (launch1 .running) 8) = false ∧ s.inMotion (launch1 .running) 8 = false ∧
       (s.meetAll (s.tableWords (launch1 .running) 8)).walkFor (launch1 .running) 0 8 = none) ∧
    (∀ z : Bool, let s : State := { (core0 fun k => { k with asleep := z, low := { k.low with run := .running } }) with shoots := [shoot0 [0] none] }
     (s.shoots.find? fun y => y.id == s.evNum) = some (shoot0 [0] none) ∧ s.sleeps s.here = z ∧
       (s.invalidate s.here (shoot0 [0] none)).usesPage s.here (shoot0 [0] none) = false) ∧
    (∀ held : Bool, let rq := TokenReq.host 1 true 1 0 0x80000000000 0
     let s : State := { mapped with tokens := if held then [token0 (.setAttr 1 0 0)] else [] }
     s.reqPage rq = some (launch1 .running, 0) ∧ s.leaf (launch1 .running) 0 = some (bigPage, 0x8000) ∧
       (s.tokens.any fun t => t.lid == (launch1 .running).r.lid && t.va == bigPage.vbase) = held ∧
       s.reqBar (.setAttr 1 0 0) bigPage = none ∧ s.reqPage (.setAttr 1 0 0) = some (launch1 .running, 0)) ∧
    (let s : State := { mapped with shoots := [shoot0 [] none], tokens := [token0 (.setAttr 1 0 0)] }
     (s.shoots.find? fun y => y.id == s.evNum) = some (shoot0 [] none) ∧ (shoot0 [] none).left = [] ∧
       (s.tokens.find? fun k => k.shoot == s.evNum) = some (token0 (.setAttr 1 0 0)) ∧
       (s.endShoot s.evNum).stacksShut ((s.endShoot s.evNum).moveWords (token0 (.setAttr 1 0 0))) = false) := by decide

/-- A launch whose fault actor is instance 0 on core 0. -/
def faulting : Launch := { launch1 .running with faulti := 0, placed := [(0, 0, 0)] }
/-- An entry that fills a park set. -/
def filler (n : Nat) : ParkEntry :=
  { id := n, tower := 0, pset := parkSet (mailKey 0 0), way := n, kind := .port, key := 0, fcr := [], st := .parked, origin := 0, lid := 1,
    home := 0, inst := 0, prio := .low, order := n, due := 0, since := 0, ticks := 0, dropped := none }
theorem witness_TakingATrap :
    (let s := launched .running id
     s.quiet 0 .low = true ∧ s.launchOf (s.bank 0 .low).lid = some (launch1 .running)) ∧
    (low0 fun b => { b with pend := [{ due := 9, isA := false, dst := .gpr 1, val := 0 }] }).quiet 0 .low = false ∧
    (∀ fullSet : Bool,
     let s : State := { (launched .running fun k => { k with insts := [inst0] }) with
       launches := [faulting], park := if fullSet then (List.range 8).map filler else [] }
     s.launchOf 1 = some faulting ∧ faultActor faulting = some (0, 0) ∧ s.inst 0 0 = some inst0 ∧
       inst0.port 0 = some { base := 0, size := 64, head := 0, msgs := [2], reserved := 0 } ∧ 64 ≤ 64 ∧ inst0.disabled = false ∧ 0 ≠ 1 ∧
       s.setRoom (coreTower 1) (s.parkSetOf (mailKey 0 0)) = !fullSet) := by decide

theorem witness_WordRoundTrips :
    ((Instr.add 1 2 3).wf = true ∧ (Instr.add 1 2 3).isA = true) ∧ ((Instr.send 1 30 1).wf = true ∧ (Instr.send 1 30 1).isC = true) ∧
    (Instr.movlLone 1 0xFFFFFFFF).wf = true ∧ (Instr.movlLone 1 0xFFFFFFFF).isC = true := by decide

theorem witness_UnassignedAndSampleWords :
    (0x7E000000 : Nat) / 2 ^ 24 % 128 ∈ [0x16, 0x17, 0x2D, 0x2E, 0x2F, 0x3C, 0x3F, 0x49, 0x4F, 0x57, 0x5F, 0x76, 0x7E] ∧
    0xFF00000000000000 / 2 ^ 31 % 2 = 0 ∧ (0xFF00000000000000 : Nat) / 2 ^ 56 % 256 ∈ [0x2D, 0x3F, 0x4C, 0x5F, 0x6F, 0x75, 0x80, 0xFF] := by
  decide

/-- A step at a bundle whose word C issues, and one at a SLEEP, which is held. -/
theorem witness_StepRunsTheBundle (holds : Bool) : let s := State.reset.withFetchWord 32 (if holds then 0x14000005 else 0)
    let i := if holds then Instr.sleep 5 else .nopC
    ∃ s1 s2 t u, (∀ e q, s.queue = e :: q → s.tick < e.due) ∧ s.turn = [0] ∧
    s1 = ((({ s with turn := [], here := 0 } : State).modCore 0 fun k =>
      { k with low := k.low.land s.tick, high := k.high.land s.tick }).tryLeave 0 .high).tryLeave 0 .low ∧
    s1.mine.halt = false ∧ s1.me.leaving = none ∧ s1.me.inSkip s1.tick = false ∧ exec .entryStart s1.takeAsync = .next s2 ∧ s2.me.run = .running ∧
    s2.me.leaving = none ∧ s2.me.readyAt ≤ s2.tick ∧ s2.mine.codeAt ≠ some s2.tick ∧ s2.mine.badCode.contains s2.me.pc.toNat = false ∧
    decodeBundle (s2.rdWord (bundleKey s2.here s2.me.pc.toNat)).toNat = some { c := i, a := .nopA } ∧
    (needsOf { c := i, a := .nopA }).any s2.awaits = false ∧ exec i s2 = .next t ∧ t.me.issued = !holds ∧ exec .nopA t = .next u := by
  cases holds <;>
    exact ⟨_, _, _, _, by
      intro e q h
      have h2 : e ∈ (firstSample :: [stageZeroLate]) := by
        have h3 := h ▸ List.mem_cons_self (a := e) (l := q)
        exact (List.mem_filter.1 h3).1
      rcases List.mem_cons.1 h2 with rfl | h4
      · decide
      · rw [List.mem_singleton.1 h4]; decide, by rfl, rfl, by rfl, by rfl, by rfl, by rfl, by rfl, by rfl, by decide, by decide, by decide,
      by decide, by decide, by rfl, by rfl, by rfl⟩
theorem witness_StepWaitsForAResult :
    let s := (State.reset.withFetchWord 64 0x402940011820B002).modMe fun b => b.write false 9 5 1
    let b : Bundle := { c := .ld 4 2 .d 2, a := .addi 5 5 1 }
    s.mine.codeAt ≠ some s.tick ∧ s.mine.badCode.contains s.me.pc.toNat = false ∧
    decodeBundle (s.rdWord (bundleKey s.here s.me.pc.toNat)).toNat = some b ∧
    (∃ r ∈ needsOf b, s.me.pending r = true) ∧ (∀ r ∈ needsOf b, s.awaitsLoad r = false) ∧
    ∃ r ∈ needsOf b, (State.awaitsLoad { s with accesses := [{ flying (.load .d) false with dst := some (4, none) }] } r) = true := by decide

theorem witness_StepOrder :
    (∃ e q, State.reset.queue = e :: q ∧ ({ State.reset with tick := 35000001 } : State).queue = e :: q ∧ e.due ≤ 35000001) ∧
    (∀ f r, State.reset.queue = f :: r → State.reset.tick < f.due) ∧ State.reset.turn = [] := by
  refine ⟨⟨_, _, rfl, rfl, by decide⟩, ?_, rfl⟩
  intro f r h
  injection h with h _
  subst h
  decide

theorem witness_StateAtReset : 83 < 84 ∧ 31 < 32 ∧ 11 < 12 ∧ 15 < 16 ∧ 7 < 8 ∧ 4095 < 4096 := by decide
theorem witness_MemoryAtReset : inStore istoreBase = true ∧ (istoreBase + 3) % 8 = 3 ∧ 8191 < 8192 := by decide
/-- Reset steps into its first tick. -/
theorem witness_MemoryFormKept : State.reset.MemInv ∧ ∃ t, step State.reset = .next t :=
  ⟨⟨by decide, ⟨.nil, by decide⟩, ⟨.nil, by decide⟩, ⟨.nil, by decide⟩⟩, _, rfl⟩
theorem witness_ClockOnlyByTicks : (∃ t, exec .nopC State.reset = .next t) ∧ ∃ t, step State.reset = .next t := ⟨⟨_, rfl⟩, _, rfl⟩
theorem witness_MinimumVersionNeverFalls : ∃ t, step State.reset = .next t := ⟨_, rfl⟩

/-- A SEND whose answer has come, with a budget of 3. -/
def sendOp (o : Op) : State := (withOp o).modMe fun b => { b with rbud := 3 }
theorem witness_Sending :
    (sendOp (.send 1 (.answered .accept))).me.op = .send 1 (.answered .accept) ∧
    (sendOp (.send 1 (.answered .invalid))).me.op = .send 1 (.answered .invalid) ∧
    (let s := sendOp (.send 3 (.answered .refuse))
     s.me.op = .send 3 (.answered .refuse) ∧ s.portFar (s.rd 0) = false ∧ 3 = s.me.rbud.toNat ∧ s.me.rbud ≠ 0xFFFF) ∧
    (let s := sendOp (.send 2 (.answered .refuse))
     s.me.op = .send 2 (.answered .refuse) ∧ s.portFar (s.rd 0) = false ∧ 2 ≠ s.me.rbud.toNat ∧ s.me.wasSusp = false) ∧
    (let s := regs 0xFFFFFFFFFFFFFFFF 0 0 0
     s.me.op = .idle ∧ portOk (s.rd 1) = false) ∧
    (let s := regs 0x8000000000000000 0 0 0
     s.me.op = .idle ∧ portOk (s.rd 1) = true ∧ s.portFar (s.rd 1) = false ∧ s.orderedReleased = true) ∧
    (let s : State := { regs 0x8000000000000000 0 0 0 with pkgId := 1 }
     s.me.op = .idle ∧ portOk (s.rd 1) = true ∧ s.portFar (s.rd 1) = true ∧ (s.route (portPkg (s.rd 1))).valid = false) := by decide

/-- A message and a push on their way, number 0. -/
def msg0 (k : MsgKind) : Msg := { id := 0, src := 0, prio := .low, lid := 1, dst := 0, kind := k }
/-- A code store of core 0 to its own bundle 0, on its way. -/
def codeOnItsWay : Access :=
  { id := 1, core := 0, prio := .low, fid := 0, op := .store .d 0, va := 0, pa := istoreBase, key := istoreBase, agent := .window,
    tr := false, dst := none, st := none, grp := false, back := none, ent := page 0 0xB, acq := false, rel := none, remote := true, reg := none,
    sent := 0, late := false, miss := false, gone := false, told := [], ans := none }
theorem witness_MessagesAndAnswers :
    (let m := msg0 (.send 0 [7])
     let s : State := { State.reset with msgs := [m] }
     (s.msgs.find? fun x => x.id == s.evNum) = some m ∧ m.kind = .send 0 [7] ∧ s.portFar 0 = false ∧ s.codeAhead m = false) ∧
    (let m := { msg0 (.send 0 [7]) with id := 5 }
     let s : State := { State.reset with msgs := [m], evNum := 5, accesses := [codeOnItsWay] }
     (s.msgs.find? fun x => x.id == s.evNum) = some m ∧ m.kind = .send 0 [7] ∧ s.portFar 0 = false ∧ s.codeAhead m = true) ∧
    (let m := { msg0 (.push 0 3) with id := 5 }
     let s : State := { State.reset with msgs := [m], evNum := 5, accesses := [codeOnItsWay] }
     (s.msgs.find? fun x => x.id == s.evNum) = some m ∧ m.kind = .push 0 3 ∧ s.codeAhead m = true) ∧
    (let m := msg0 (.push 0 3)
     let s : State := { State.reset with msgs := [m] }
     (s.msgs.find? fun x => x.id == s.evNum) = some m ∧ m.kind = .push 0 3 ∧ (portPkg 0 != s.pkgId) = false ∧ s.codeAhead m = false) ∧
    (∀ held : Bool, let q : Port := { base := 0, size := 64, head := 0, msgs := [if held then 64 else 2], reserved := 0 }
     let s := launched .running fun k => { k with insts := [{ inst0 with ports := [q] }] }
     s.coreFenced 0 = false ∧ (s.core 0).lid? = some 1 ∧ s.inst 0 0 = some { inst0 with ports := [q] } ∧
       ({ inst0 with ports := [q] } : Inst).port 0 = some q ∧ inst0.placed = true ∧ (if held then q.free < 1 else 1 ≤ q.free)) ∧
    (State.reset.coreFenced 0 = false ∧ (State.reset.core 0).lid? ≠ some 1 ∧ State.reset.inst 0 0 = none ∧
      ((State.reset.core 0).ring 3).valid = false ∧ (State.reset.modLayer 0 fun x => { x with fenced := true }).coreFenced 0 = true) ∧
    (let i := { inst0 with placed := false }
     let s := launched .running fun k => { k with insts := [i] }
     s.coreFenced 0 = false ∧ s.inst 0 0 = some i ∧ i.placed = false ∧ i.port 1 = none ∧ i.ports.length ≤ 1) ∧
    (let s := launched .running fun k => { k with rings := k.rings.set 3 { Ring.reset with valid := true } }
     s.coreFenced 0 = false ∧ (s.core 0).lid? = some 1 ∧ ((s.core 0).ring 3).valid = true) ∧
    (let s := withOp (.send 1 (.flying 0))
     s.evNum < 2 ^ 64 ∧ (s.bank 0 .low).op = .send 1 (.flying s.evNum) ∧ s.msgs.filter (fun m => m.id == s.evNum) = []) ∧
    (let s := withOp (.send 1 (.resting 0))
     (s.bank s.here s.evPrio).op = .send 1 (.resting 0) ∧ 0 ≤ s.tick) ∧
    ∃ t, exec (.messageAnswerArrive 0 .low .accept) State.reset = .next t := by
  refine ⟨by decide, by decide, by decide, by decide, by decide, by decide, by decide, by decide, by decide, by decide, _, rfl⟩

theorem witness_PortReads :
    let s := launched .running fun k => { k with insts := [inst0] }
    let q : Port := { base := 0, size := 64, head := 0, msgs := [2], reserved := 0 }
    s.me.home = s.here ∧ s.myPort 0 = some q ∧ 0 < q.msgs.length ∧ 1 < q.msgs.getD 0 0 ∧
    (let word := mailKey s.here (q.at (q.head + (q.msgs.take 0).sum + 1))
     (s.meet word).poisoned word = false) ∧ q.msgs.getD 0 0 ≤ 2 ∧ q.msgs.length ≤ 1 := by decide

theorem witness_Barriers :
    (isSvc onSvc.here = true ∧ isSvc State.reset.here = false) ∧
    (State.reset.mine.arrived .pod = false ∧ State.reset.released (levelScope .pod) = true ∧ State.reset.me.op = .idle) ∧
    (∀ w : Bool, ((withOp (.bar .row (.wait true))).modMe fun b => { b with arrOwn := some (.row, w) }).me.arrOwn = some (.row, w)) ∧
    State.reset.me.arrOwn = none ∧ (core0 fun k => k.setArr .quad true).mine.arrived .quad = true ∧
    (let s := launched .running fun k => k.setArr .row true
     (∃ x, s.launchOf 1 = some x ∧ x.st ≠ .preempted ∧ 0 ∈ x.cores) ∧ (s.core 0).lid? = some 1 ∧ (s.core 0).arrived .row = true) ∧
    (let s := { (launched .running fun k => k.setArr .row true) with launches := [{ launch1 .running with cores := [0, 1] }] }
     (0xFFFFFFFFFFFFFFFF : Word).getLsbD (16 + levelIx .row) = true ∧ s.phaseDone .row ((s.core 0).lid?.getD 0) (barGroup .row 0) = false ∧
       (0 : Word).getLsbD (16 + levelIx .row) = false) ∧
    (∀ stuck : Bool, let s := core0 fun k =>
       { k.setArr .row stuck with low := { k.low with run := .running, barb := 1, barHeld := 64, op := .bar .row (.wait true) } }
     (s.bank s.here s.evPrio).run = .running ∧ (s.bank s.here s.evPrio).leaving = none ∧ (s.bank s.here s.evPrio).barb ≠ 0 ∧
       (s.bank s.here s.evPrio).barb.toNat * 64 ≤ (s.bank s.here s.evPrio).barHeld ∧ s.barStuck s.here s.evPrio = stuck) := by
  refine ⟨by decide, by decide, by decide, by decide, by decide, ⟨⟨_, rfl, by decide, by decide⟩, by decide, by decide⟩, by decide, by decide⟩
/-- Whether reads gave their values. -/
def valued {ε α : Type} : Except ε α → Bool
  | .ok _ => true
  | .error _ => false
theorem loads {ε α σ : Type} {r : Except ε α × σ} (h : valued r.1 = true) : ∃ v s, r = (.ok v, s) := by
  obtain ⟨v | v, s⟩ := r
  · cases h
  · exact ⟨v, s, rfl⟩
theorem gathers {ε α σ : Type} {r : Option (Except ε α) × σ} (h : (r.1.map valued) = some true) : ∃ v s, r = (some (.ok v), s) := by
  obtain ⟨_ | v | v, s⟩ := r
  · cases h
  · cases h
  · exact ⟨v, s, rfl⟩

/-- A copy of two words from 0x100 to 0x200. -/
def copy0 (mode : CopyMode) : Copy := { State.reset.newCopy 0 0 0 mode .core 0 with dst := 0x200, src := 0x100, cols := 2 }
/-- Copies attached to the firing of core 0. -/
def copying (l : List Copy) : State := core0 fun k => { k with copies := l, tlb := [page 0 0xB] }
def stop0 : Stop := { cause := 0x04, info := 0, faddr := 0x200 }
theorem witness_CopiesStart :
    (let s := (regs 0x200 0x100 2 0x1000000010).modMe fun b => { b with g := b.g.set 5 0x10002 }
     s.mine.freeCopy (copyLimit s.here) = some 0 ∧ (s.rd 1).toNat % 8 = 0 ∧ (s.rd 2).toNat % 8 = 0 ∧
       ({ s.newCopy 1 2 0 .full .core 0 with cols := (s.rd 3).toNat } : Copy).count ≠ 0 ∧
       (((s.rd 4).setWidth 32).signExtend 64 : Word).toNat % 8 = 0 ∧ (((s.rd 4 >>> 32).setWidth 32).signExtend 64 : Word).toNat % 8 = 0 ∧
       (BitVec.ofNat 64 ((s.rd 5).toNat % 65536 * Size.bytes .w) : Word).toNat % 8 = 0 ∧ (s.rd 5).toNat / 65536 % 65536 = 1 ∧
       ({ s.newCopy 1 2 0 .full .core 0 with twoD := true, cols := 2, rows := 1, sstr := 16, dstr := 16, esz := .w } : Copy).count ≠ 0) ∧
    (let s := regs 0x204 0x104 2 0x1000000014
     let bad (l : List Word) : Option Word := l.find? fun v => v.toNat % 8 != 0
     bad [s.rd 1, s.rd 2, 0] = some 0x204 ∧ bad [s.rd 3 * 8, s.rd 2, 0] = some 0x104 ∧
       bad [0, 0, 0, ((s.rd 4).setWidth 32).signExtend 64, 0, 0] = some 0x14) ∧
    (copying ((List.range 8).map fun i => { copy0 .copy with id := i })).mine.freeCopy (copyLimit 0) = none ∧
    State.reset.attached 0xFF = [] ∧
    (∃ x ∈ (copying [copy0 .copy]).attached 1, x.done = false) ∧
    (let s := copying [{ copy0 .copy with done := true, stop := some stop0 }]
     (∀ x ∈ s.attached 0, x.done = true) ∧ lowestStop (s.attached 0) = some stop0) := by decide

/-- An answer with its state. -/
theorem pairs {α σ : Type} (r : α × σ) : ∃ v s, r = (v, s) := ⟨r.1, r.2, rfl⟩
/-- What has come back for the word at 0x100: access 7 of a copy. -/
def fetched (a : Option Answer) : Access := { flying .fetch false with grp := true, back := a, ans := a, fid := unitKey 0 18 }
theorem witness_CopiesAtWork :
    (∀ n ∈ [2, 0], let s := copying [{ copy0 .full with cols := n, done := n == 0, start := 0 }]
     (s.core s.here).copies.any (s.copyWorks s.here) = (n == 2)) ∧
    (let x := { copy0 .full with start := 0 }
     let s := copying [x]
     s.mayMove 0 x = true ∧ s.mayMove 0 { x with start := 1 } = false ∧ s.tick < 1 ∧ (s.copyMove 0 x).1 = true ∧
       (s.copyMove 0 { x with src := 0x1000000 }).1 = false ∧ x.emptied = true ∧ x.sources (x.index x.head) = [0x100] ∧
       s.find 0 x.lid 0x100 false = .go (page 0 0xB) 0x100) ∧
    (let x := copy0 .full
     let s := core0 fun k => { k with halt := true }
     (s.core 0).halt = true ∧ x.inLine = false ∧ s.mayMove 0 x = false) ∧
    (let x := copy0 .arrive
     let s := copying [x]
     x.emptied = false ∧ s.find 0 x.lid (x.rising x.pos) true = .go (page 0 0xB) 0x200 ∧ toControl 0x200 = false ∧ toStore 0x200 = false ∧
       ((s.useEntry 0 (page 0 0xB)).armCopy 0 x (page 0 0xB)).arming (x.unit 0) = false) ∧
    (let s := core0 fun k => { k with tlb := [page 0 0x1] }
     s.find 0 0 ((copy0 .arrive).rising 0) true = .stop stop0 ∧ (copy0 .arrive).emptied = false) ∧
    (∀ a ∈ [none, some (Answer.word 5 true), some .poisoned], let x := { copy0 .full with reads := [[7]] }
     let s : State := { copying [x] with accesses := [fetched a] }
     x.reads = [7] :: [] ∧ s.wordBack [7] = a.map (fun y => [y]) ∧
       valued (joinWord x.elemBytes ((x.sources (x.index x.pos)).zip (a.toList))) = (a != some .poisoned)) ∧
    (∀ p ∈ [0, 2], let x : Copy := { copy0 .arrive with pos := p, stop := if p = 0 then some stop0 else none }
     let s := copying [x]
     (s.core 0).copyOf 0 = some x ∧ (x.stop = none → x.emptied = false ∧ x.count ≤ x.pos) ∧ (p = 0 → x.stop ≠ none) ∧
       s.acked (x.unit 0) = true ∧ s.fillDue 0 0 = false) ∧
    (∀ a ∈ [false, true], let x : Copy := { copy0 .full with pos := 2 }
     let s : State := { copying [x] with accesses := if a then [] else [{ flying (.store .d 1) true with fid := x.unit 0 }] }
     (s.core s.here).copyOf s.evNum = some x ∧ x.moving = false ∧ s.acked (x.unit s.here) = a ∧ x.cw = none ∧ x.filling = false) ∧
    ({ copy0 .full with filling := true } : Copy).filling = true ∧
    (∀ w ∈ [0xB, 0x1], let x : Copy := { copy0 .full with pos := 2, cw := some 0x300 }
     let s := core0 fun k => { k with copies := [x], tlb := [page 0 w] }
     (s.core s.here).copyOf s.evNum = some x ∧ x.moving = false ∧ s.acked (x.unit s.here) = true ∧ x.cw = some 0x300 ∧
       (s.core s.here).halt = false ∧ s.findFill s.here x.lid 0x300 =
         (if w = 0xB then .go (page 0 0xB) 0x300 else .stop { stop0 with faddr := 0x300 }) ∧ (page 0 0xB).host = false) := by
  refine ⟨by decide, by decide, by decide, by decide, by decide, by decide, by decide, by decide, by decide, by decide⟩

/-- Ring 0 of core 0. -/
def ringed (r : Ring) : State := core0 fun k => { k with rings := k.rings.set 0 r }
def ring0 : Ring := { Ring.reset with valid := true, nslot := 2, log2sz := 7 }
/-- An empty of ring 0 that has left in this tick. -/
def s64 : State :=
  { ringed { ring0 with pend := 1, fe := true } with accesses := [{ flying .emp false with fid := unitKey 0 10, sent := State.reset.tick }] }
theorem witness_Rings :
    (let s := regs 0x80 0x4087 0 0
     (s.mine.ring 0).filled = 0 ∧ (s.mine.ring 0).held = 0 ∧ (s.mine.ring 0).pend = 0 ∧ s.folds s.here 0 = false ∧
       ringBad (ringOf (s.rd 1) (s.rd 2)) = false ∧ ringBad (ringOf 0x40 0x4087) = true) ∧
    (((ringed { ring0 with filled := 1 }).mine.ring 0).filled ≠ 0 ∧ ((ringed { ring0 with held := 1 }).mine.ring 0).held ≠ 0 ∧
      ((ringed { ring0 with pend := 1 }).mine.ring 0).pend ≠ 0) ∧
    (let s := ringed ring0
     (s.mine.ring 0).valid = true ∧ s.folds s.here 0 = false ∧ (s.mine.ring 0).filled = 0 ∧ (s.mine.ring 0).held.toNat ≤ (0 : BitVec 6).toNat ∧
       (s.mine.ring 0).meets 1 .idle = true ∧ (s.mine.ring 0).meets 2 .free = true ∧ (s.mine.ring 0).meets 3 .free = false ∧
       (s.mine.ring 0).meets 1 .filled = false) ∧
    (let s := ringed { ring0 with filled := 1, held := 1 }
     (s.mine.ring 0).valid = true ∧ s.folds s.here 0 = false ∧ (s.mine.ring 0).filled ≠ 0 ∧ (0 : BitVec 6).toNat < (s.mine.ring 0).held.toNat) ∧
    (State.reset.mine.ring 0).valid = false ∧ State.reset.me.op = .idle ∧
    (withOp (.send 1 (.answered .accept))).me.op = .send 1 (.answered .accept) ∧
    (withOp (.send 1 (.answered .invalid))).me.op = .send 1 (.answered .invalid) ∧
    (let s := sendOp (.send 3 (.answered .refuse))
     s.me.op = .send 3 (.answered .refuse) ∧ s.portFar (s.pushAddr false 0) = false ∧ 3 = s.me.rbud.toNat ∧ s.me.rbud ≠ 0xFFFF) ∧
    (∀ f : Bool, ∀ b : Bool, let y : Access := { flying (.load .d) false with fid := if b then unitKey 0 10 else unitKey 0 11 }
     let s : State := { ringed { ring0 with pend := 1, fe := f, head := 1, freep := 1, filled := if f then 0 else 1 } with
       accesses := [y], evNum := 4194304 + if f then 0 else 2 + 2048 }
     ((s.core s.here).ring 0).pend ≠ 0 ∧ s.freeWaits s.here s.evPrio s.evNum = false ∧ s.evNum / 131072 % 8 = 0 ∧
       (f = true → s.evNum % 2048 < ((s.core s.here).ring 0).lines ∧ s.freeAhead s.here s.evNum = false) ∧
       (f = false → ((s.core s.here).ring 0).lines ≤ s.evNum % 2048) ∧
       ((s.core s.here).ring 0).oldest (s.evNum / 2048 % 64) = f) ∧
    (let s := ringed ring0
     s.slotPerformed s.here 0 0 = true ∧ s.freeSent s.here = false) ∧
    (s64.freeSent s64.here = true ∧ s64.slotPerformed s64.here 0 0 = false) := by decide

theorem witness_OnePassInstructions :
    State.reset.ArrayReady ∧ State.reset.mine.firstTag 0 = none ∧
    (core0 fun k => k.setRow 4095 { bits := 0, tags := 1 }).mine.firstTag 0 = some 4095 ∧
    (let s := core0 fun k => { k with cur := .high, low := { k.low with run := .suspended, op := .array 3 (some 0) none false 0 } }
     s.mine.nested = true ∧ s.me.op = .idle) ∧
    (let s := core0 fun k => { k with rewards := [{ r := 0, s := 0, late := false, due := true }] }
     s.mine.nested = false ∧ s.mayPass = false) ∧
    (let s := core0 fun k => { k with badPar := [9 * 5 + 0] }
     s.mine.nested = false ∧ s.mayPass = true ∧ s.mine.badRow none [(0, 8)] = some 5 ∧ s.mine.badOne 5 [(0, 8)] = some 5) ∧
    (let s := core0 fun k => { k with badPar := [9 * 5 + 8] }
     s.mine.nested = false ∧ s.mayPass = true ∧ s.mine.badRow none [] = some 5) := by
  refine ⟨⟨by decide, by decide, by decide⟩, by decide +kernel, by decide +kernel, by decide, by decide, by decide, by decide⟩

theorem witness_RowsAndFields :
    4095 < 4096 ∧ 0 + 512 ≤ 512 ∧ 8 + 8 ≤ 512 ∧ 0 + 8 ≤ 8 ∧ 0 + 8 ≤ 512 ∧ 8 + 8 ≤ 16 ∧ 16 + 496 ≤ 512 ∧ (1 : Tag) ≠ 0 := by decide

theorem witness_SequencesAndPasses :
    (∀ e : Bool, let s := withOp (.array 3 (some 1) (some 0) e 7)
     s.me.op = .array 3 (some 1) (some 0) e 7 ∧ s.mine.badPar = []) ∧
    (State.reset.me.op = .idle ∧ State.reset.ArrayReady) ∧
    passEnds (State.reset.mine.seqWord 0) 0 = true ∧
    (let s := paged 0 0xB
     let s1 := s.touch s.here (page 0 0xB)
     s.mine.nested = false ∧ s.me.op = .idle ∧ s.mayPass = true ∧ s.reaches (reqLoad (s.rd 0) 8) (page 0 0xB) 0 ∧ s1.unreachable 0 = false ∧
       2048 ≤ (page 0 0xB).bytes - (s.rd 0).toNat % (page 0 0xB).bytes ∧ s1.wordsTrap (s.rd 0).toNat 0 256 = none) ∧
    (let s : State := { withOp (.gather 1 64) with accesses := words64 none }
     s.mine.nested = false ∧ s.me.op = .gather 1 64 ∧ collected (s.grouped 1 64) = none) ∧
    (let s : State := { withOp (.gather 1 64) with accesses := words64 (some (.done 0)) }
     s.mine.nested = false ∧ s.me.op = .gather 1 64 ∧ collected (s.grouped 1 64) = some (.ok (List.replicate 64 0))) := by
  unfold State.reaches
  exact ⟨by decide, ⟨by decide, by decide, by decide, by decide⟩, by decide, by decide, ⟨by decide, by decide, by rfl⟩, by decide, by decide, by rfl⟩

theorem witness_TracesAndBroadcasts :
    (State.reset.me.op = .idle ∧ State.reset.me.pass = 0 ∧ State.reset.mine.nested = false ∧
      (State.reset.rd 0).toNat ≠ State.reset.mine.astep.toNat + 1) ∧
    (let s := regs 1 0 0 0
     (s.rd 1).toNat = s.mine.astep.toNat + 1 ∧ s.mine.ahz.toNat + s.mine.rlag.toNat < (s.rd 1).toNat) ∧
    (∀ code ∈ [some 0x41, none, some 3], let s := withOp (.array 0 code (some 0) false 5)
     (s.bank s.here s.evPrio).op = .array 0 code (some s.evNum) false 5 ∧ (s.core s.here).badPar = []) ∧
    (isSvc onSvc.here = true ∧ isSvc State.reset.here = false ∧ State.reset.mine.bcast = none) ∧
    (let x : Bcast := { r := none, s := 3, sc := .layer, left := [0, 1] }
     let s := core0 fun k => { k with bcast := some x }
     s.mine.bcast = some x ∧ (s.core s.here).bcast = some x ∧ s.evNum ∈ x.left ∧ (s.core s.here).halt = false) ∧
    (∀ n ∈ [4, 3], let w : Reward := { r := 0, s := 9, late := false, due := false }
     let s := launched .running fun k => { k with rewards := List.replicate n w }
     s.coreFenced 0 = false ∧ (s.core 0).lid? = some 1 ∧ s.preempted 1 = false ∧ (s.core 0).pendRewards = n ∧
       (s.takeBcast 1 0 (some 0) 9).1 = if n = 4 then .refuse else .accept) ∧
    (let s := launched .preempted id
     s.coreFenced 0 = false ∧ s.preempted 1 = true ∧ bcastNum ≤ ({ s with evNum := bcastNum + 1 } : State).evNum) ∧
    4095 < 4096 := by decide

theorem witness_RewardsApply :
    (let x : Reward := { r := 0x3C00, s := 9, late := true, due := true }
     let k := (core0 fun k => { k with rewards := [x] }).core 0
     k.halt = false ∧ k.apply = none ∧ nextReward k.rewards = some x ∧ k.low.passesLeft 0 = false ∧ k.high.passesLeft 0 = false ∧ k.narrowing = false) ∧
    (nextReward (State.reset.core 0).rewards = none) ∧
    (let x : Reward := { r := 0x3C00, s := 9, late := true, due := true }
     let s := core0 fun k => { k with apply := some (x, 0, some 0) }
     (s.core s.here).apply = some (x, 0, some s.evNum) ∧ (s.core s.here).badPar = []) ∧ 4095 < 4096 := by decide

theorem witness_AccumulatorInstructions :
    State.reset.mine.fqRoom = true ∧ (State.reset.rd 0).toNat % 8 = 0 ∧ (((State.reset.rd 0).setWidth 32).signExtend 64 : Word).toNat % 8 = 0 ∧
    (core0 fun k => { k with fq := List.replicate 4 { owner := none, item := .zero 0, begun := false } }).mine.fqRoom = false ∧
    (let s := regs 4 12 16 0
     let bad (l : List Word) : Option Word := l.find? fun v => v.toNat % 8 != 0
     bad [s.rd 1, 0] = some 4 ∧ bad [0, ((s.rd 2).setWidth 32).signExtend 64] = some 12 ∧ bad [s.rd 3, s.rd 3, s.rd 2] = some 12 ∧
       (narDxb .dxb8).isSome = true) ∧
    (some (0 : BitVec 9)).isSome = true ∧
    (∀ x ∈ State.reset.mine.fq, State.reset.names 0xF x.item = false) ∧ State.reset.myFails 0xF = [] ∧
    State.reset.engineBusy = false ∧ lowestStop (State.reset.attached 0) = none ∧ (copying [copy0 .copy]).engineBusy = true := by decide

/-- A join of layer k of fold 0, at tick 0. -/
def join0 (k : Nat) (f : FoldFmt) : Join :=
  { fold := 0, core := 256 * k, prio := .low, acc := 0, fmt := f, home := 0, ra := 0, rb := 1, pin := false, nkm1 := 0, fmask := 3, fpin := 0,
    at_ := 0 }
/-- Two cores of the fold have joined, or one. -/
def joined (l : List Join) (t : Nat) : State :=
  let s := l.foldl (fun (st : State) j => st.modBank j.core .low fun b => { b with op := .fold none false }) State.reset
  { s with joins := l, tick := t }
theorem witness_FoldStarts :
    (∀ b : Bool, (withOp (.fold (some 1) b)).me.op = .fold (some 1) b) ∧ (withOp (.fold none false)).me.op = .fold none false ∧
    (State.reset.me.op = .idle ∧ ¬ (ringServes .fp16 (State.reset.mine.ring 0) = true ∧ ringServes .fp16 (State.reset.mine.ring 1) = true)) ∧
    (∀ m ∈ [0xF, 0xE], let r : Ring := { ring0 with log2sz := 15 }
     let s := core0 fun k => { k with rings := (k.rings.set 0 r).set 1 r, fmask := m }
     s.me.op = .idle ∧ ringServes .fp16 (s.mine.ring 0) = true ∧ ringServes .fp16 (s.mine.ring 1) = true ∧
       (s.memberSet s.here).getLsbD (layerIn s.here) = (m == 0xF)) ∧
    (let s := joined [join0 0 .fp16] 9
     s.liveJoins s.evNum (s.core s.here).lid? = join0 0 .fp16 :: [] ∧ s.joinReady [join0 0 .fp16] = false) ∧
    (∀ f ∈ [FoldFmt.fp16, .bf16], let l := [join0 0 .fp16, join0 1 f]
     let s := joined l 9
     s.liveJoins s.evNum (s.core s.here).lid? = l ∧ s.joinReady l = true ∧ (∀ x ∈ l, x.at_ + 4 ≤ s.tick) ∧
       (∀ x ∈ [join0 1 f], (join0 0 .fp16).agrees x = (f == .fp16)) ∧ (s.joinSet (join0 0 .fp16)).getLsbD 0 = true) := by decide

/-- A solo operation of fold 0 at home 0. -/
def fold0 : FoldOp := newFold 1 0 0 .fp16 0 [(0, 0, 1)] [] true false 0 1
def folding (o : FoldOp) : State := { State.reset with foldOps := [o], evNum := 1 }
/-- Core 0 of the launch, halted or not, with an item at the head of its queue, and rings with a page. -/
def working (h : Bool) (it : QItem) : State :=
  launched .running fun k => { k with halt := h, tlb := [page 0 0xB], fq := [{ owner := none, item := it, begun := true }] }
/-- MNAR of accumulator 0 in FP16: into the array, or to memory at 0. -/
def nar0 (arr : Option (BitVec 9)) (row : Nat) : QItem := .nar 0 .fp16 .rne 0 64 0 arr row 0
/-- The words of an MWID with a row stride of 0, read. -/
def rowRead : List Access :=
  (List.range 16).map fun i => { fetched (some (.word 0 true)) with id := i, fid := unitKey 0 8, pa := 8 * i, va := BitVec.ofNat 64 (8 * i) }
theorem witness_FoldEngineAtWork :
    ((∀ b : Bool, (folding { fold0 with begun := b }).foldOp 1 = some { fold0 with begun := b }) ∧ (folding fold0).evNum = 1 ∧
      State.reset.evNum = 0 ∧ ({ ring0 with read := true } : Ring).read = true ∧
      (((ringed { ring0 with read := true }).core (ringed ring0).here).ring 0).read = true) ∧
    (let s := folding fold0
     (∀ c ∈ fold0.cores, (s.core c).halt = false) ∧ s.foldFenced fold0 = false ∧ s.nowSet (fold0.fold / 256) &&& fold0.members ≠ 0 ∧
       Sparse.wf (fun _ => (0 : BitVec 32)) s.foldSeq = true) ∧
    (let s := (folding fold0).modLayer 0 fun x => { x with fenced := true }
     s.foldOp s.evNum = some fold0 ∧ (∀ c ∈ fold0.cores, (s.core c).halt = false) ∧ s.foldFenced fold0 = true) ∧
    (let s := (folding fold0).modCore 0 fun k => { k with halt := true }
     ∃ c ∈ fold0.cores, (s.core c).halt = true) ∧
    (let o : FoldOp := { fold0 with begun := true, busy := some 0 }
     o.begun = true ∧ o.fin = false ∧ o.busy = some 0 ∧ ({ o with busy := none } : FoldOp).busy = none ∧ 0 ≤ (folding o).tick ∧
       ((folding o).core o.homeCore).accBad o.acc 0 1024 = false ∧ ({ o with busy := some 9 } : FoldOp).busy = some 9 ∧ (folding o).tick < 9) ∧
    (fold0.fin = false ∧ ({ fold0 with fin := true } : FoldOp).fin = true) ∧
    (let o : FoldOp := { fold0 with rings := [], begun := true, busy := some 0 }
     (folding o).foldOp (folding o).evNum = some o ∧ ((folding o).readRound o o.owners).1.map valued = some true) ∧
    ((((folding fold0).readRound fold0 fold0.owners).1.map valued) = some false) ∧
    (((launched .running id).readRound fold0 fold0.owners).1.map valued = none) ∧
    (∀ it ∈ [QItem.zero 0, .wid 0 .fp32 0 0 true, .wid 0 .fp32 0 0 false, nar0 none 32, nar0 (some 0) 30, nar0 (some 0) 31, nar0 none 0],
     ∀ h : Bool, let s := working h it
     (s.core s.here).halt = h ∧ (s.core s.here).lid? = some 1 ∧ (s.core s.here).fq = { owner := none, item := it, begun := true } :: [] ∧
       (s.core s.here).arrayBusy = false ∧ (s.core s.here).accBad 0 (32 * 30) 32 = false ∧ s.rowsDone s.here = true ∧
       s.rowFailed s.here = none) ∧
    (∀ bad : Bool, let y : Access := { flying (.store .d 1) true with
       grp := true, fid := unitKey 0 8, back := if bad then some .poisoned else none }
     let s : State := { working false (nar0 none 32) with accesses := [y] }
     s.rowsDone s.here = bad ∧ (s.rowFailed s.here).isSome = bad) ∧
    (∀ on : Bool, (core0 fun k => { k with apply := if on then some ({ r := 0, s := 0, late := false, due := true }, 0, some 0) else none }).mine.arrayBusy = on) ∧
    (let s := working false (nar0 none 0)
     let l := rowStores .fp16 0 64 0 0 (0, [])
     (s.rowReach 0 1 l).1 = true ∧ ((s.rowReach 0 1 l).2.rowStoresAll 0 1 l).2 = none ∧
       ((core0 fun k => { k with tlb := [page 0 0x1] }).rowStoresAll 0 1 l).2.isSome = true ∧
       ((launched .running id).rowReach 0 1 l).1 = false ∧ s.find 0 1 0 true = .go (page 0 0xB) 0) ∧
    (((launched .running id).readElems 0 1 .fp32 0 0 [0]).1.map valued = none ∧
      ((State.reset.readElems 0 1 .fp32 0 0 [0]).1.map valued) = some false) ∧
    ((({ working false (.wid 0 .fp32 0 0 false) with accesses := rowRead } : State).readElems 0 1 .fp32 0 0 (List.range 1024)).1.map valued) =
      some true := by
  refine ⟨by decide, by decide, by decide, by decide, by decide, by decide, by decide, by decide, by decide, by decide, by decide, by decide, by decide,
    by decide +kernel⟩

theorem witness_RecordRestoresFiring :
    Bank.reset.act < 64 ∧ Bank.reset.inst < 64 ∧ Bank.reset.home < 8192 ∧ Bank.reset.start < 2 ^ 64 ∧ Bank.reset.wdc < 2 ^ 32 ∧
    (31 : Fin 32).val ≠ 0 := by decide

/-- A park-table entry of the launch on core 0. -/
def parked (st : ParkState) : ParkEntry := { filler 0 with fcr := [1], st := st, kind := .waiter }
/-- Core 0 with the low firing in a state and an entry at the head of a FIFO, at tick 9. -/
def choosing (low high : Run) (fl fh : List Entry) (asleep : Bool) : State :=
  { (core0 fun k => { k with low := { k.low with run := low }, high := { k.high with run := high }, fifoLow := fl, fifoHigh := fh, asleep := asleep }) with
    tick := 9 }
theorem witness_FiringEvents :
    (∀ z : Bool, (choosing .none .none [] [] z).mine.asleep = z) ∧ (choosing .none .running [] [] false).mine.high.run = .running ∧
    (let s := choosing .running .none [] [.inst 0 3] false
     s.mine.high.run ≠ .running ∧ s.headEntry .high = some (.inst 0 3) ∧ s.passFirst (.inst 0 3) = false) ∧
    (let s := (choosing .running .none [] [.inst 0 8] false).modBank 0 .low fun b => { b with op := .array 0 (some 3) (some 0) false 0 }
     s.mine.asleep = false ∧ s.mine.high.run ≠ .running ∧ s.headEntry .high = some (.inst 0 8) ∧ s.passFirst (.inst 0 8) = true) ∧
    (∀ r ∈ [Run.running, .suspended, .none], ∀ f ∈ [[], [Entry.inst 0 3]], let s := choosing r .none f [] false
     s.mine.high.run ≠ .running ∧ s.headEntry .high = none ∧ s.mine.low.run = r ∧ s.headEntry .low = f.head?) ∧
    (let s := withOp (.fe 1 8 8 3 (.resting 0))
     (s.bank s.here s.evPrio).op = .fe 1 8 8 3 (.resting 0) ∧ 0 ≤ s.tick) ∧
    (∀ st ∈ [LState.running, .preempted], let s := { launched st id with park := [parked .woken] }
     s.parkEntry s.evNum = some (parked .woken) ∧ (parked .woken).st = .woken ∧ s.preempted (parked .woken).lid = (st == .preempted) ∧
       (parked .woken).fcr ≠ []) ∧
    (let e : ParkEntry := { parked .woken with fcr := [] }
     let s := { launched .running id with park := [e] }
     s.parkEntry s.evNum = some e ∧ e.st = .woken ∧ s.preempted e.lid = false ∧ e.fcr = []) ∧
    (let s := { launched .running id with park := [parked .due] }
     s.dueFirst s.here s.evPrio = some (parked .due) ∧ ((s.core s.here).fifo s.evPrio).length < 448) ∧
    (let s : State := { State.reset with tick := 4096 }
     (s.core s.here).idle = true ∧ (s.core s.here).idleAt + 4096 ≤ s.tick) ∧
    ((core0 fun k => { k with asleep := true }).core 0).asleep = true ∧
    (let s := withActor false fun k => { k with insts := [{ inst0 with inflight := false }] }
     s.inst 0 0 = some { inst0 with inflight := false } ∧ s.instActor 0 0 = some (actor1 false) ∧ inst0.disabled = false) := by decide

/-- A record on its way to core 0. -/
def transit0 : Transit :=
  { id := 0, fcr := [1], core := 0, lid := 1, home := 0, inst := 0, prio := .low, arrived := false, dropped := none }
theorem witness_RecordsTravel :
    (let s := low0 fun b => { b with leaving := some (.migrate 1) }
     (s.bank s.here s.evPrio).leaving = some (.migrate 1) ∧ s.quiet s.here s.evPrio = true) ∧
    (∀ fullSet : Bool, let s := { launched .running id with
        transit := [transit0], park := if fullSet then (List.range 8).map fun n => { filler n with pset := parkSet (mailKey 0 0) } else [] }
     (s.transit.find? fun x => x.id == s.evNum) = some transit0 ∧ s.launchOf transit0.lid = some (launch1 .running) ∧
       (s.layer (coreLayer transit0.core)).fenced = false ∧ s.preempted transit0.lid = false ∧
       s.setRoom (coreTower transit0.core) (s.coreSet transit0.core) = !fullSet) ∧
    (∀ fullSet : Bool, let h : Hold := { fcr := [1], tower := 0, pset := parkSet (mailKey 0 0), lid := 1 }
     let s := { (launched .running fun k => { k with insts := [inst0], holdLow := [h] }) with
       launches := [faulting], park := if fullSet then (List.range 8).map filler else [] }
     s.faultHere s.here = some 0 ∧ s.preempted ((s.core s.here).lid?.getD 0) = false ∧ (s.core s.here).held s.evPrio = h :: [] ∧
       (s.launchOf h.lid).bind faultActor = some (0, 0) ∧
       ((s.inst 0 0).bind fun i => i.port 0) = some { base := 0, size := 64, head := 0, msgs := [2], reserved := 0 } ∧
       (s.portPark 0 (mailKey 0 0) h).isSome = !fullSet) ∧
    (let s := core0 fun k => { k with wdlim := 1, low := { k.low with run := .running, wdc := 1024 } }
     s.evNum = 0 ∧ (s.bank s.here s.evPrio).run = .running ∧ (s.bank s.here s.evPrio).leaving = none ∧ (s.core s.here).wdlim ≠ 0 ∧
       (s.core s.here).wdlim.toNat * 1024 ≤ (s.bank s.here s.evPrio).wdc ∧ (s.bank s.here s.evPrio).unsettled = false) ∧
    (let s := launched .running id
     (s.core s.here).lid?.bind s.launchOf = some (launch1 .running) ∧ (launch1 .running).st = .running ∧ (s.core s.here).insts = [] ∧
       (launch1 .running).r.sweep = false ∧ s.acked (distKey (launch1 .running).r.lid) = true) ∧
    (let s : State := { launched .running id with accesses := [{ flying (.store .d 1) true with fid := distKey 1 }] }
     (s.core s.here).lid?.bind s.launchOf = some (launch1 .running) ∧ s.acked (distKey (launch1 .running).r.lid) = false) := by decide

theorem witness_AccessAndVaultEvents :
    (∀ zone ∈ [(0 : BitVec 2), 3], let a : Access := { flying (.load .d) false with id := 0, agent := .unit }
     let s := { State.reset with accesses := [a], sensors := State.reset.sensors.set 72 { Sensor.reset with zone := zone } }
     s.accessOf s.evNum = some a ∧ a.ans = none ∧ s.inOrder a = true ∧ s.agentReady a = (zone == 0) ∧ a.agent = .unit) ∧
    (let a : Access := { flying (.load .d) false with id := 0, agent := .package 3, pa := 3 * 2 ^ 44 }
     let s := { State.reset with accesses := [a] }
     s.accessOf s.evNum = some a ∧ a.ans = none ∧ s.inOrder a = true ∧ s.agentReady a = true ∧ a.agent = .package 3) ∧
    (let a : Access := { flying (.load .d) false with id := 9 }
     let y : Access := { flying (.load .d) false with id := 8, acq := true }
     let s := { State.reset with accesses := [y, a], evNum := 9 }
     s.accessOf s.evNum = some a ∧ a.ans = none ∧ s.inOrder a = false) ∧
    (let a : Access := { flying (.load .d) false with id := 0, ans := some (.done 5), dst := some (3, none) }
     let s := { State.reset with accesses := [a] }
     s.accessOf s.evNum = some a ∧ a.ans = some (.done 5) ∧ accWaits a.op = false ∧ a.grp = false ∧ (s.bank a.core a.prio).key = a.fid ∧
       a.dst = some (3, none) ∧ a.st = none) ∧
    (let a : Access := { flying .ldw false with id := 0, ans := some .notReady }
     let s := { State.reset with accesses := [a] }
     s.accessOf s.evNum = some a ∧ a.ans = some .notReady ∧ accWaits a.op = true ∧ (s.bank a.core a.prio).key = a.fid) ∧
    (let a : Access := { flying (.store .d 1) false with id := 0, ans := some (.done 0) }
     let s := { State.reset with accesses := [a] }
     s.accessOf s.evNum = some a ∧ a.ans = some (.done 0) ∧ a.grp = false ∧ a.dst = none ∧ a.st = none ∧ (s.bank a.core a.prio).key = a.fid) ∧
    (let s : State := { State.reset with refreshFrom := some 0, tick := 100000 }
     s.refreshBase s.evNum = some 0 ∧ 0 + s.spacing s.evNum ≤ s.tick ∧ Sparse.wf (fun _ => Bankst.reset) s.banks = true) ∧
    (let s : State := { State.reset.setBankst 0 { last := some 0, busy := some 40, row := none } with tick := 40 }
     (s.bankst s.evNum).busy = some 40 ∧ 40 ≤ s.tick) ∧
    (∀ skip : Bool, let key := linearBase + 31 * 2 ^ 33 + 64 * 0x7FFFFFF
     let s : State := { State.reset with blocks := if skip then [{ blk := 0x3FFFFF, arm := 0, life := 0, deadline := 0 }] else [] }
     64 * 0x7FFFFFF < 2 ^ 33 ∧ s.scrubSkips key = skip ∧ s.evNum = 0 ∧ s.scrubFree 31 0x7FFFFFF = true ∧ ∀ x ∈ s.flaws, x.1 ≠ blockAt key) ∧
    (let key := linearBase + 64 * 3
     let s : State := { State.reset with flaws := [(key, ⟨2, false⟩)] }
     (blockAt key, (⟨2, false⟩ : Flaw)) ∈ s.flaws ∧ ∀ x ∈ s.flaws, x.1 = blockAt key → x = (blockAt key, (⟨2, false⟩ : Flaw))) ∧
    (let s : State := { State.reset with blocks := [{ blk := 0, arm := 0, life := 0, deadline := 0 }] }
     ∀ b ∈ s.blocks, b.blk = s.evNum ∧ b.deadline ≤ s.tick) := by
  refine ⟨by decide, by decide, by decide, by decide, by decide, by decide, by decide, by decide, by decide, by decide, by decide⟩

/-- A launch of no instances on all cores of tower 0, layer 0. -/
def small : LRec := { rec1 with w5 := 0x10100000000 }
/-- A launch whose descriptor is at 0x10000, with its code and its table of actors after it, and a page for all: of a sweep, or of a
graph of one instance that has no core to be placed on. -/
def described (sweep : Bool) : State × Launch :=
  let l := newLaunch { rec1 with desc := 0x10000, sweep := sweep, save := 0x1000000 } 0
  ({ State.reset with
      launches := [l],
      mem := [(0, 0x01), (1, 0x80), (0x8000, 0x3F), (0x8001, 0x18)] ++ (if sweep then [] else [(0x10000, 1)]) ++
        [(0x10002, 0x10), (0x10004, 0xFF), (0x10005, 0xFF), (0x10006, 0x0F), (0x10009, 1), (0x1000A, 1), (0x10010, 1), (0x10019, 2),
         (0x1001A, 1), (0x10021, 3), (0x10022, 1), (0x10029, 4), (0x1002A, 1)] }, l)
theorem witness_LaunchesFromTables :
    (∀ w : Bool, let s := (described w).1
     s.launchOf 1 = some (described w).2 ∧ (described w).2.st = .waiting ∧ s.openPreds (described w).2 = [] ∧ (described w).2.r.preds = []) ∧
    (∀ w : Bool, (match ((described w).1.readDesc (described w).2).1 with
      | .got l => (placeAll l ((described w).1.openUnfenced l)).isSome == w
      | .fail => false
      | .wait => false) = true) ∧
    (∃ s, (launched .waiting id).readDesc (launch1 .waiting) = (.fail, s)) ∧
    (∃ x s, (launched .released id).readLoads (launch1 .released) = (some x, s)) ∧
    (∃ s, (launched .preempted id).readSlots (launch1 .preempted) [0] = (some [(0, none, none)], s)) :=
  ⟨by decide, by decide +kernel, ⟨_, rfl⟩, ⟨_, _, rfl⟩, ⟨_, rfl⟩⟩
theorem witness_Launches :
    (∀ st ∈ [LState.waiting, .released, .finished, .running, .halting, .preempted, .cancelling],
      (launched st id).launchOf 1 = some (launch1 st) ∧ (launched st id).masterVacant = false ∧ (launch1 st).st = st) ∧
    (launched .waiting id).openPreds (launch1 .waiting) = [] ∧
    (let l : Launch := { newLaunch small 0 with st := .released }
     let s : State := { State.reset with launches := [l] }
     s.launchOf 1 = some l ∧ s.isFirst l = true ∧ l.r.sweep = false ∧ (placeAll l (s.openUnfenced l)).isSome = true ∧
       placeAll l ((s.openFor l).filter s.coreFree) = some []) ∧
    (∀ b : Bool, let s := { launched .running fun k => { k with low := if b then Bank.reset else k.low } with launches := [launch1 .running] }
     s.isComplete (launch1 .running) = b) ∧
    (let l := launch1 .halting
     let rests (s : State) := (s.heldBy l).all ((s.heldBy l).foldl (fun st c => (st.trapAsync c .low).trapAsync c .high) s).coreRests
     rests { launched .halting id with accesses := [flying (.load .d) false] } = false ∧ rests (launched .halting id) = true ∧
       (((launched .halting id).heldBy l).foldl (fun (st : State) c => (st.trapAsync c .low).trapAsync c .high) (launched .halting id)).releaseOut 1 = false) ∧
    (∀ free : Bool, let l := launch1 .preempted
     let s : State := { (if free then State.reset else launched .preempted id) with launches := [l] }
     s.launchOf 1 = some l ∧ s.isFirst l = true ∧ ((l.cores.filter fun c => !s.coreFenced c).all fun c => s.coreFree c && !s.sweepGets c) = free) ∧
    ((launch1 .running).r.link = 0 ∧ (launch1 .running).r.link ≠ 1) ∧
    (∀ zone ∈ [(0 : BitVec 2), 3],
     ({ launched .running id with sensors := State.reset.sensors.set 72 { Sensor.reset with zone := zone } } : State).reportShut
       (launch1 .running).r = (zone == 3)) ∧
    (let s : State := { launched .halting id with
       queue := [{ due := 1, rank := 0, core := 0, prio := .low, num := 0, ev := .barrierRelease .quad 1 0 }] }
     ((s.heldBy (launch1 .halting)).foldl (fun (st : State) c => (st.trapAsync c .low).trapAsync c .high) s).releaseOut 1 = true) ∧
    (State.reset.acked (distKey 1) = true ∧ (∀ c ∈ (launch1 .preempted).cores, State.reset.coreFenced c = false) ∧
      (launch1 .preempted).lost = []) ∧
    (∀ busy : Bool, let s := { launched .cancelling id with accesses := if busy then [flying (.load .d) false] else [] }
     (s.heldBy (launch1 .cancelling)).all s.coreStopped = !busy) := by decide

/-- A sweep of the launch on core 0, without a grain. -/
def sweeping (gs : List Nat) : State :=
  { (launched .running fun k => { k with insts := [{ inst0 with inflight := false }] }) with
    launches := [{ launch1 .running with
      r := { rec1 with sweep := true }, placed := [(0, 0, 0)], blocks := [{ holder := .layer 0, grains := gs }, { holder := .tower 0, grains := gs }] }] }
def sweep1 (gs : List Nat) : Launch := ((sweeping gs).launches.head?).getD (launch1 .running)
theorem witness_Grains :
    (∀ gs ∈ [[], [5], List.range 9], let s := sweeping gs
     (s.mine.lid?.bind s.launchOf) = some (sweep1 gs) ∧ s.mine.sweptInst (sweep1 gs) = some 0 ∧ (sweep1 gs).st = .running ∧ s.mine.halt = false ∧
       s.mine.grain = none ∧ s.masterVacant = false ∧ ((s.inst s.here 0).any fun x => x.queued || x.inflight || x.disabled) = false ∧
       (sweep1 gs).block (.layer (coreLayer s.here)) = gs ∧ s.launchOf 1 = some (sweep1 gs) ∧ (sweep1 gs).block (.tower 0) = gs) ∧
    ((sweeping [5]).hot (coreLayer (sweeping [5]).here) = false ∧ ([] : List Nat).length < 8) ∧
    ((List.range 9) = 0 :: (List.range 9).tail ∧ 8 ≤ (List.range 9).tail.length ∧ (List.range 9) ≠ []) ∧
    (let rep : GReport := { holder := .tower 0, grains := List.range 64, firings := 64, oldest := 0 }
     let l : Launch := { launch1 .running with reports := [rep] }
     let s : State := { State.reset with launches := [l] }
     s.launchOf 1 = some l ∧ l.report (.tower 0) = some rep ∧ 64 ≤ rep.grains.length) ∧
    ((State.reset.layer 31).fenced = false ∧
      ∀ i, i < 32 → (({ State.reset with layers := .replicate 32 { Layer.reset with fenced := true } } : State).layer i).fenced = true) ∧
    ∀ v : Bool, ({ State.reset with masterVacant := v } : State).masterVacant = v := by decide

/-- The package READY, queue 0 of link 0 enabled at 0x10000, and some bytes written to memory. -/
def queued (kind : Bool) (cells : List Host.Cell) (s : State) : State :=
  { (s.modStatus fun x => { x with ready := true }).modLink 0 fun x =>
      x.modQueue 0 fun y => { y with base := 0x200, en := true, kind := kind } with mem := cells }
/-- A record with its check: a graph of some launch id on tower 0, layer 0. -/
def recordCells (lid : Byte) : List Host.Cell :=
  (if lid = 0 then [] else [(0x10000, lid)]) ++
  [(0x1002C, 1), (0x1002D, 1), (0x10078, 0xef), (0x10079, 0xe), (0x1007A, 0xe), (0x1007B, 0x73)]
/-- The tables of `mapped`, and a request numbered 1 to move page 0 of launch 1 to the device, with its check. -/
def moveCells : List Host.Cell :=
  [(0, 0x01), (1, 0x80), (0x8000, 0x2F), (0x8001, 0x18), (0x10000, 1), (0x10008, 1), (0x10078, 0xcb), (0x10079, 0x1a),
   (0x1007A, 0x20), (0x1007B, 0x42)]
theorem witness_QueuesOfRecords :
    (∀ lid ∈ [(5 : Byte), 1, 0], let s := queued false (recordCells lid) (launched .running id)
     s.mayAccept 0 0 false = true ∧ s.launches.length < 1024 ∧
       s.recordValid (s.slotRead 0 0) (recordOf 0 (s.slotRead 0 0)) = (lid != 0) ∧ s.knows (recordOf 0 (s.slotRead 0 0)).lid = (lid == 1)) ∧
    (∀ b : Bool, let s := queued false [] { State.reset with
        sensors := (State.reset.sensors.set 72 { Sensor.reset with zone := if b then 3 else 0 }).set 76 { Sensor.reset with zone := if b then 3 else 0 },
        poison := if b then [] else [0x10040] }
     s.mayAccept 0 0 false = true ∧ s.slotShut 0 0 = b ∧ (s.slotMet 0 0).slotPoisoned 0 0 = !b ∧
       s.reportShut (recordOf 0 (s.slotRead 0 0)) = b) ∧
    (let s := queued false (recordCells 5) State.reset
     s.slotShut 0 0 = false ∧ (s.slotMet 0 0).slotPoisoned 0 0 = false) ∧
    State.reset.mayAccept 0 0 false = false := by decide +kernel
theorem witness_Queues :
    (∀ a ∈ [(0 : Byte), 4], let s := queued true (if a = 0 then [] else [(0x10020, a)]) State.reset
     s.mayAccept 0 0 true = true ∧ (s.slotDone 0 0).recordOk ((s.slotRead 0 0).getD 4 0).toNat 8 = (a == 0) ∧
       (s.slotDone 0 0).moveBad (s.slotRead 0 0) = true) ∧
    (let s := queued true moveCells (launched .running id)
     s.mayAccept 0 0 true = true ∧ (s.slotDone 0 0).recordOk ((s.slotRead 0 0).getD 4 0).toNat 8 = true ∧
       (s.slotDone 0 0).moveBad (s.slotRead 0 0) = false ∧
       ((s.slotDone 0 0).pageAt (((s.slotRead 0 0).getD 1 0).setWidth 32) ((s.slotRead 0 0).getD 2 0).toNat).isSome = true) ∧
    (let s := queued true (moveCells.drop 4) (launched .running id)
     s.mayAccept 0 0 true = true ∧ s.slotShut 0 0 = false ∧ (s.slotMet 0 0).slotPoisoned 0 0 = false ∧ (s.slotDone 0 0).moveBad (s.slotRead 0 0) = false ∧
       (s.slotDone 0 0).pageAt (((s.slotRead 0 0).getD 1 0).setWidth 32) ((s.slotRead 0 0).getD 2 0).toNat = none) ∧
    (let s := queued true [] { State.reset with poison := [0x10040] }
     (s.slotMet 0 0).slotPoisoned 0 0 = true ∧ (s.slotDone 0 0).recordOk ((s.slotRead 0 0).getD 4 0).toNat 8 = true) ∧
    (0 < 2 ∧ 7 < 8 ∧ (queued false [] State.reset).boot.status.ready = true) ∧
    (({ Queue.reset with en := true } : Queue).en = true ∧ Queue.reset.en = false ∧ bitOf 1 0 = true) ∧
    State.reset.evNum < 2 ∧ ∀ x ∈ State.reset.launches, x.r.link ≠ State.reset.evNum := by decide +kernel

/-- The package open to the host, with a posted write number 5 to local offset 0. -/
def opened (posted : List (Nat × Nat × List Byte)) : State :=
  { (State.reset.modStatus fun x => { x with ready := true }).modLink 0 fun x => { x with posted := posted, up := true, bar4 := 34 } with
    evNum := 5 }
/-- The tables of `mapped`, with a transient leaf onto the first vault frame. -/
def transientMapped : State := ((launched .running id).wrWord 0 0x8001).wrWord 0x8000 0x1400000190F
theorem witness_HostAccesses :
    (State.reset.boot.rails = true ∧ State.reset.hostOpen = false ∧ State.reset.evNum = 0 ∧ (opened []).hostOpen = true ∧
      (opened []).boot.rails = true) ∧
    (let s : State := { State.reset with evNum := 5 }
     s.boot.rails = true ∧ s.hostOpen = false ∧ s.evNum ≠ 0 ∧ (s.link 0).waits s.evNum none = false) ∧
    (let s := opened [(4, 0x40, [0]), (5, 0x40, [0])]
     s.evNum ≠ 0 ∧ (s.link 0).waits s.evNum none = true ∧ (s.link 0).waits s.evNum (some (0x40, 1)) = true) ∧
    (let s : State := { opened [] with evNum := 0 }
     s.evNum = 0 ∧ s.hostOpen = true ∧ aperDrops ((s.link 0).aperAt 8) 8 = false ∧ aperDrops ((s.link 0).aperAt (0xC000000000)) 8 = true ∧
       feDrops ((s.link 0).feAt 8) (List.replicate 8 1) = false ∧ feDrops ((s.link 0).feAt 4) (List.replicate 8 1) = true) ∧
    (subWin 0 = .fill ∧ subWin (2 ^ 32) = .empty ∧ subWin (2 * 2 ^ 32) = .bits ∧ subWin (2 ^ 34 - 8) = .reserved ∧ 0xFFFFFFF8 < 2 ^ 32) ∧
    (let d : List Byte := [1, 2, 3, 4, 5, 6, 7, 8]
     let s := opened [(4, 0x40, d), (5, 0, d)]
     s.boot.rails = true ∧ s.evNum ≠ 0 ∧ ((s.link 0).posted.find? fun e => e.1 == s.evNum) = some (s.evNum, 0, d) ∧
       (s.link 0).waits s.evNum (some (0, d.length)) = false ∧ s.hostReady true (wordsOf 0 d.length) = true) ∧
    (let d : List Byte := [1, 2, 3, 4, 5, 6, 7, 8]
     let s := opened [(5, 0, d)]
     ((s.link 0).posted.find? fun e => e.1 == s.evNum) = some (s.evNum, 0, d) ∧ (s.link 0).waits s.evNum none = false ∧
       s.hostReady true [0] = true) ∧
    (transientMapped.spent linearBase = true ∧ State.reset.spent linearBase = false) ∧
    (let s := opened []
     s.evNum ≠ 0 ∧ (s.link 0).waits s.evNum none = false ∧ (s.link 0).up = true) ∧
    (let s := opened []
     let fe := (s.link 0).feAt 8
     (wordsOf ((s.link 0).aperAt (0xC000000000)) 8).all isPlace = false ∧
       (wordsOf ((s.link 0).aperAt 8) 8).all isPlace = true ∧ s.hostReady false (wordsOf ((s.link 0).aperAt 8) 8) = true ∧
       inMemory fe = true ∧ s.hostReady false [fe] = true ∧ s.spent (wordOf fe) = false ∧
       (s.meet (keyOf (wordOf fe))).poisoned (keyOf (wordOf fe)) = false) ∧
    (let s := opened [(5, 0, [1])]
     (s.modCore 0 fun k => { k with codeAt := some s.tick }).hostReady true [istoreBase] = false ∧ placeOf istoreBase = .istore 0 0) ∧
    0xFF8 % 8 = 0 := by
  refine ⟨?_, ?_, ?_, ?_, ?_, ?_, ?_, ?_, ?_, ?_, ?_, ?_⟩ <;> decide +kernel

theorem witness_SensorsWindowsAndLanes :
    (State.reset.boot.rails = true ∧ 83 < 84 ∧ (1840 : BitVec 16).toInt ≤ 1840 ∧ 1840 < (1841 : BitVec 16).toInt ∧ State.reset.boot.down = false ∧
      State.reset.boot.why ≠ .thermal ∧ State.reset.evNum ≠ 1 ∧ ({ State.reset with evNum := 1 } : State).evNum = 1) ∧
    (let s : State := { State.reset with tick := 44800 }
     s.evNum = s.epoch ∧ s.timebase % 44800 = 0 ∧ s.timebase ≠ 0 ∧ s.boot.rails = true ∧ 31 < 32) ∧
    (let s := State.reset.modLayer 0 fun x => { x with allow := 1, used := 1000000000 }
     s.evNum < 32 ∧ (s.layer s.evNum).allow ≠ 0 ∧ (s.layer s.evNum).allow ≠ 0xFF ∧ (s.layer s.evNum).budget ≤ (s.layer s.evNum).usage s.tick) ∧
    (∀ z ∈ [Path.reset, { Path.reset with spares := 0 }], let s := State.reset.setPath 16383 z
     16383 < 16384 ∧ 151 < 152 ∧ (s.path 16383).failing.contains 151 = false ∧ (s.path 16383).exhausted = false ∧
       ((s.path 16383).failing.length < (s.path 16383).spares) = ((s.path 16383).spares ≠ 0)) ∧
    (pathExists 8191 = true ∧ pathExists (8192 + 767) = true ∧ pathExists (8192 + 768) = false) ∧
    (∀ q : Bool, let s := State.reset.setPath 0 { Path.reset with quiesced := q }
     s.evNum = 0 ∧ s.boot.rails = true ∧ s.pathIdle 0 = !q) ∧
    (∀ on : Bool, ∀ t ∈ [199, 200], let a : Access := { flying (.load .d) false with agent := .vault, pa := linearBase }
     let s : State := { State.reset.setPath 0 { Path.reset with quiesced := true, failing := [3], since := 1 } with
       accesses := if on then [a] else [], tick := 1 + t }
     (s.path s.evNum).quiesced = true ∧ (s.path s.evNum).failing = [3] ∧ s.onPath s.evNum (s.path s.evNum).since = on ∧
       (s.tick < (s.path s.evNum).since + 200) = (t = 199)) ∧
    (let s := State.reset.setPath 0 { Path.reset with quiesced := true }
     (s.path s.evNum).quiesced = true ∧ (s.path s.evNum).failing = [] ∧ Sparse.wf (fun _ => Path.reset) s.paths = true) := by decide

/-- An image that verifies: signed with the fused key over what it holds. -/
def img0 : FwImage :=
  { version := 0, boot := [1], service := [2],
    sig := { key := State.reset.boot.fusedKey, version := 0, boot := [1], service := [2] } }
/-- A start in a stage. -/
def inStage (n : BitVec 4) : State := State.reset.modStatus fun x => { x with stage := n }
theorem witness_StartAndStop :
    (∀ y ∈ [Why.failed, .cold], let s : State := { State.reset with boot := { State.reset.boot with rails := false, why := y } }
     s.boot.rails = false ∧ s.boot.why = y ∧ s.boot.idStep < 4096) ∧
    (let s : State := { State.reset with boot := { State.reset.boot with down := true } }
     s.boot.rails = true ∧ s.boot.down = true) ∧
    (let s : State := { State.reset with tick := stageLimit 0 + 1 }
     s.starting = true ∧ s.boot.since = s.evNum ∧ s.boot.since + stageLimit s.boot.status.stage.toNat < s.tick) ∧
    (let s := State.reset.modStatus fun x => { x with recovery := true }
     s.boot.rails = true ∧ s.boot.down = false ∧ s.boot.status.recovery = true ∧ s.boot.accepts img0 = true) ∧
    (∀ n ∈ [(0 : BitVec 4), 5], (inStage n).starting = true ∧ ((inStage n).fenceStart 1 0).fencedTowers ≠ 0xFF ∧
      (inStage n).boot.status.stage = n ∧ (inStage n).boot.status.attempts.toNat < 3 ∧ (inStage n).boot.warmRun = false ∧
      (inStage n).tick ≤ (inStage n).boot.since + stageLimit (inStage n).boot.status.stage.toNat) ∧
    (stageFailure (1, 4) = true ∧ ((inStage 0).fenceStart 0 0xFF).fencedTowers = 0xFF) ∧
    (let s : State := { inStage 1 with boot := { (inStage 1).boot with slotA := img0 } }
     s.starting = true ∧ s.tick ≤ s.boot.since + stageLimit 1 ∧ s.boot.status.stage = 1 ∧ s.boot.status.attempts.toNat < 3 ∧
       s.boot.warmRun = false ∧ s.boot.slots.find? s.boot.accepts = some img0) ∧
    ((State.reset.modStatus fun x => { x with recovery := true }).boot.status.recovery = true ∧ (opened []).boot.down = false ∧
      (opened []).blocks = [] ∧ Sparse.wf memUnlisted (opened []).mem = true) ∧
    (State.reset.boot.rails = true ∧ State.reset.boot.down = false ∧ State.reset.boot.status.recovery = false ∧
      State.reset.boot.idNext < State.reset.boot.idStep * 2 ^ 28) ∧
    (opened []).boot.status.ready = true := by
  refine ⟨by decide, by decide, by decide, by decide, by decide, ⟨by decide, by decide +kernel⟩, by decide, by decide, by decide, by decide⟩

/-- Span link 0 trained. -/
def spanned (f : SpanLink → SpanLink) : State := State.reset.modSpan 0 fun x => f { x with down := false, width := 8 }
def flit0 (seq : BitVec 12) (ok : Bool) (p : Option Packet) : Flit :=
  { seq := seq, ack := 0, nak := false, adaptive := false, pos := 3, slot := 0, fslot := 0, frun := 0, crcOk := ok, reservedZero := true, lane := 0, packet := p }
theorem witness_SpanLinks :
    (let s := spanned id
     0 < 16 ∧ (s.spanLink 0).works = true ∧ (flit0 9 true none).seq ≠ ((s.modSpan 0 SpanLink.countFlit).spanLink 0).rxSeq + 1 ∧
       (flit0 1 true none).seq = ((s.modSpan 0 SpanLink.countFlit).spanLink 0).rxSeq + 1 ∧ (flit0 1 true none).packet = none ∧
       (flit0 1 true (some (.start 0))).packet = some (.start 0) ∧ (flit0 1 true (some (.start 0))).pos = 3 ∧
       (flit0 1 false none).crcOk = false) ∧
    (∀ b : Bool, let s := spanned fun x => { x with awaits := b }
     (s.spanLink 0).works = true ∧ (flit0 9 true none).crcOk = true ∧ (flit0 9 true none).reservedZero = true ∧
       (flit0 9 true none).seq ≠ ((s.modSpan 0 SpanLink.countFlit).spanLink 0).rxSeq + 1 ∧
       ((s.modSpan 0 SpanLink.countFlit).spanLink 0).awaits = b) ∧
    (∀ e ∈ ((spanned fun x => { x with outq := [{ tower := 0, queue := 0, owner := 0, dst := 3, pk := .start 0 }] }).spanLink 0).outq,
      isOrdered e.pk = true) ∧
    (let s : State := { State.reset with empties := [0x40] }
     let d := (s.call 0x40).atPlace 0 .ldw 0 0x40 (keyOf (offOf 0x40)) false
     pkgOf 0x40 = s.pkgId ∧ s.placeReady s.distCore (memAgent 0x40) 0x40 s.tick = true ∧ d.1 = .notReady ∧ watchOps .ldw = true ∧
       d.2.watches.contains (3, keyOf (offOf 0x40)) = false ∧ (1 : Nat) ≠ 0) ∧
    ((spanned fun x => { x with retrain := some 4 }).spanLink State.reset.evNum).retrain = some 4 ∧
    (State.reset.spanLink State.reset.evNum).down = true ∧
    ((spanned fun x => { x with rxq := [(0, .start 0)] }).spanLink 0).rxq.head?.map Prod.snd = some (Packet.start 0) ∧
    (let s := State.reset
     pkgOf 0 = s.pkgId ∧ s.placeReady s.distCore (memAgent 0) 0 s.tick = true ∧ placeOf (offOf 0) ≠ .unassigned ∧
       ((s.call 0).atPlace 0 (.load .d) 0 0 (keyOf (offOf 0)) false).1 ≠ .notReady) ∧
    (∀ x ∈ State.reset.watches, x.2 ≠ State.reset.evNum / 3) ∧
    (let s : State := { State.reset with watches := [(7, 0)], evNum := 1 }
     s.watches = [(7, s.evNum / 3)] ∧ s.evNum % 3 = 1) ∧
    (pkgOf (3 * 2 ^ 44) ≠ State.reset.pkgId ∧
      (State.reset.modLayer 0 fun x => x).placeReady State.reset.distCore (memAgent 0) 0 State.reset.tick = true ∧
      ({ State.reset with sensors := State.reset.sensors.set 72 { Sensor.reset with zone := 3 } } : State).placeReady
        State.reset.distCore (memAgent 0) 0 State.reset.tick = false) ∧
    ((spanned fun x => { x with replay := [{ replays := 0, src := none, dst := 3, flit := flit0 1 true none }] }).spanLink 0).replay ≠ [] ∧
    ∀ b : Bool, ({ State.reset with pkgSet := b } : State).pkgSet = b := by decide
/-- R28, R29, R30: a load finds a correctable error and counts it; one beyond correction is counted, and the load meets poison. -/
theorem test_errors_found :
    (let s : State := { State.reset with flaws := [(0x1000, { domain := 3, hard := false })] }
     let r := s.atPlace 0 (.load .d) 0x1008 0x1008 0x1008 false
     r.1 = .done 0 ∧ vget r.2.corr 3 0 = 1 ∧ r.2.flaws = [] ∧ r.2.poison = []) ∧
    (let s : State := { State.reset with flaws := [(0x1000, { domain := 3, hard := true })] }
     let r := s.atPlace 0 (.load .d) 0x1008 0x1008 0x1008 false
     r.1 = .poisoned ∧ vget r.2.uncorr 3 0 = 1 ∧ r.2.flaws = [] ∧ r.2.poison = [0x1000]) := by decide
/-! ### The values of the spec's examples -/

/-- 14_scalar, the example's table: DIV, REM and DIVN, with the results on their way (R211, R253, R254). -/
theorem test_division_example :
    (match exec (.div 3 1 2) (regs 0xFFFFFFFFFFFFFFF9 2 0 0) with | .next t => ((t.me.land 20).rd 3, (t.me.land 19).rd 3) | _ => (0, 0)) =
      (0xFFFFFFFFFFFFFFFD, 0) ∧
    (match exec (.rem 4 1 2) (regs 0xFFFFFFFFFFFFFFF9 2 0 0) with | .next t => (t.me.land 20).rd 4 | _ => 0) = 0xFFFFFFFFFFFFFFFF ∧
    (match exec (.divn 4 1 0) (regs 0xFFFFFFFFFFFFFFF9 2 0 0) with | .next t => (t.me.land 20).rd 4 | _ => 0) = 0xFFFFFFFFFFFFFFFF := by
  decide

/-- 14_scalar, the example's table: CVTIF of 3, 1/3, 1/0, 0/0, and 1/3 as E4M3, each with its flags (NX bit 4, DZ bit 1, NV bit 0). -/
theorem test_float_example :
    cvtifRes .i64 .f32 .rne 3 = (0x40400000, 0) ∧ fdivRes .rne 0x3F800000 0x40400000 = (0x3EAAAAAB, 0x10) ∧
    fdivRes .rne 0x3F800000 0 = (0x7F800000, 2) ∧ fdivRes .rne 0 0 = (0x7FC00000, 1) ∧
    cvtffRes .f32e4m3 .rne 0x3EAAAAAB = (0x2B, 0x10) := by decide

/-- R310: a CALL at bundle 8191 links bundle 2. -/
theorem test_call_wraps :
    (match exec (.call false 1) (low0 fun b => { b with pc := 8191 }) with | .next t => ((t.me.land 1).rd 31, t.me.flow) | _ => (0, .seq)) =
      (2, .taken 0) := by decide

/-- 16_system, the example: TRAP 0x123 at bundle 40 leaves %cause 0x00280013. -/
theorem test_trap_example :
    (match exec (.trap 0x123) (launched .running fun k => { k with low := { k.low with pc := 40 } }) with
      | .next t => (t.mine.cause, t.mine.low.run) | _ => (0, .running)) = (0x280013, .none) := by decide

/-- R6, R7: a byte stored at the top of a word, and the word read back. -/
theorem test_store_byte :
    ((State.reset.doOp 0 (.store .b 0x1FF) 0x1007 0x1007 0x1007 false).2.rdWord 0x1000) = 0xFF00000000000000 := by decide

/-- A sequence that stood after 3 passes and has run since tick 5 is left at tick 9 (R402). -/
theorem test_trap_keeps_passes :
    (({ Bank.reset with op := .array 3 (some 0x40) (some 5) false 0 } : Bank).keepPass 9).pass = 0x1400007 := by decide
/-- What RQ reads of a ring whose slot the sequencer has read in this tick, and in the next (R344, R345, R359). -/
theorem test_ring_taken_behind_tick :
    (let r : Ring := { ring0 with filled := 1, read := true }
     r.query 0 = 0x1000000 ∧ r.taken.drop.query 0 = 0x10100) := by decide
/-- 12_number_formats, its example: one DXB8 block, finite and non-finite (R234). -/
theorem test_dxb_example :
    narRow .dxb8 .rne 4 [0x40400000, 0xBE200000, 0x42C80000, 0x3A83126F, 0x40FCCCCD, 0x40FE6666, 0xC2240000] =
      (0x8581, [0x18, 0x41, 0xB2, 0x00, 0x3F, 0x84, 0xD4]) ∧
    narRow .dxb8 .rne 4 [0x40400000, 0xBE200000, 0x7F800000, 0x3A83126F, 0x40FCCCCD, 0x40FE6666, 0x7FC00000] =
      (0xFF82, [0x0C, 0x41, 0x80, 0x00, 0x20, 0x20, 0x81]) := by decide

/-- 13_instruction_formats, its example: bundles 2 and 3 of core (0, 1, 3, 2) are stored as SEAL, bundle 1 as it is, and CCHK of
layer 1 reads as given (R243 to R245). -/
theorem test_code_checker_example :
    let s := ((State.reset.codeStore 291 1 0x0001234591380000).codeStore 291 2 0x142948400B183FFE).codeStore 291 3 0x1D08BE00
    s.rdWord (bundleKey 291 1) = 0x0001234591380000 ∧ s.rdWord (bundleKey 291 2) = 0x7F000000 ∧ s.rdWord (bundleKey 291 3) = 0x7F000000 ∧
    s.ctlRead 0xC08 = 0x0000008460030002 := by decide

end Sys2Proof.Tests
end

section
/-!
SUPPORT. What lasts through a step, and the statements of 00_scope about one step and about memory at its agent.
-/
namespace Sys2Proof.Machine

/-! ### The order of a step (R5, R160) -/

/-- Settles O30: both branches of `step` as they stand. -/
theorem stepOrder : Obligations.StepOrder := by
  refine fun s e q => ⟨fun hq hdue => ?_, fun hnone hturn => ?_⟩
  · simp only [step, hq, if_pos hdue]
  · unfold step
    split
    next f r hq => rw [if_neg (Nat.not_le.2 (hnone f r hq)), hturn]; rfl
    next => rw [hturn]; rfl

/-! ### Loads and stores in ordinary memory (R7, R177, R270) -/

/-- An address of ordinary memory: of HBM or of a vault (R128). -/
def Ordinary (pa : Nat) : Prop := placeOf (offOf pa) = .hbm ∨ ∃ k o, placeOf (offOf pa) = .vault k o

section
variable {s : State} {pa key : Nat}

theorem State.placeRead_ordinary (n : Nat) (hpa : Ordinary pa) : s.placeRead pa key n = s.rdN key n := by
  rcases hpa with h | ⟨k, o, h⟩ <;> simp [State.placeRead, h]
theorem State.placeRead'_ordinary (hpa : Ordinary pa) : s.placeRead' pa = s := by
  rcases hpa with h | ⟨k, o, h⟩ <;> simp [State.placeRead', h]
theorem State.placeWrite_ordinary (n v : Nat) (hpa : Ordinary pa) : s.placeWrite pa key n v = s.wrN key n v := by
  rcases hpa with h | ⟨k, o, h⟩ <;> simp [State.placeWrite, h]
theorem State.bad_ordinary (hpa : Ordinary pa) (hp : s.poisoned key = false) : s.bad pa key = none := by
  rcases hpa with h | ⟨k, o, h⟩ <;> simp [State.bad, h, hp]
theorem State.merges_of_not_poisoned (n : Nat) (hp : s.poisoned key = false) : s.merges key n = false := by
  obtain ⟨hblock, hword⟩ := Bool.or_eq_false_iff.1 hp
  rw [State.merges, hblock, hword, Bool.false_and, Bool.or_false]

/-- A load answers the bytes of its place and changes nothing. -/
theorem State.doOp_load_ordinary (lid : BitVec 32) (sz : Size) (va : Nat) (hpa : Ordinary pa) (hp : s.poisoned key = false) :
    s.doOp lid (.load sz) va pa key false = (.done (BitVec.ofNat 64 (s.rdN key sz.bytes)), s) := by
  simp [State.doOp, State.unarmed, State.guarded, State.bad_ordinary hpa hp, State.placeRead_ordinary _ hpa,
    State.placeRead'_ordinary hpa]

/-- A store writes the low bytes of its operand; one of a whole word makes the word sound (R29). -/
theorem State.doOp_store_ordinary (lid : BitVec 32) (sz : Size) (v : Word) (va : Nat) (hpa : Ordinary pa)
    (hp : s.poisoned key = false) :
    s.doOp lid (.store sz v) va pa key false = (.done 0,
      if sz.bytes = 8 then (s.wrN key sz.bytes (v.toNat % 2 ^ (8 * sz.bytes))).unpoison key
      else s.wrN key sz.bytes (v.toNat % 2 ^ (8 * sz.bytes))) := by
  simp [State.doOp, State.unarmed, State.merges_of_not_poisoned _ hp, State.placeWrite_ordinary _ _ hpa]
end

/-- R7: what a write of bytes leaves. -/
theorem State.wrN_reads (s : State) (a v n : Nat) (hw : Memory.wf s.mem = true) :
    (s.wrN a n v).rdN a n = v % 256 ^ n ∧ (∀ b, b < a ∨ a + n ≤ b → (s.wrN a n v).rdByte b = s.rdByte b) ∧
    (∀ i, i < n → (s.wrN a n v).rdByte (a + i) = BitVec.ofNat 8 (v / 256 ^ i)) ∧ (s.wrN a n v).empties = s.empties :=
  ⟨memRead_memWrite n s.mem a v hw, fun b hb => memWrite_other n s.mem a v b hw hb,
   fun i hi => memWrite_byte n s.mem a v i hw hi, rfl⟩

theorem two_pow_eight_mul (n : Nat) : 2 ^ (8 * n) = 256 ^ n := by rw [Nat.pow_mul]

/-- Byte `i` of the low `n` bytes of a word. -/
theorem byte_of_low_bytes (v : Word) {i n : Nat} (hi : i < n) :
    BitVec.ofNat 8 (v.toNat % 256 ^ n / 256 ^ i) = v.extractLsb' (8 * i) 8 := by
  apply BitVec.eq_of_toNat_eq
  have hn : 256 ^ n = 256 ^ i * 256 ^ (n - i) := by rw [← Nat.pow_add]; congr 1; omega
  have hd : 256 ^ 1 ∣ 256 ^ (n - i) := Nat.pow_dvd_pow 256 (by omega)
  rw [BitVec.toNat_ofNat, BitVec.extractLsb'_toNat, Nat.shiftRight_eq_div_pow, two_pow_eight_mul, hn,
    Nat.mod_mul_right_div_self]
  exact Nat.mod_mod_of_dvd _ hd

/-- Settles O15: a load and a store at their agent are a read and a write of bytes of memory, and those are read back as
they were written. -/
theorem memoryAtItsAgent : Obligations.MemoryAtItsAgent := by
  refine ⟨fun s lid sz v va pa key hw hpa hp => ⟨s.doOp_load_ordinary lid sz va hpa hp, ?_⟩, State.wrN_reads⟩
  obtain ⟨hread, hother, hbyte, -⟩ := s.wrN_reads key (v.toNat % 256 ^ sz.bytes) sz.bytes hw
  have hbytes i (hi : i < sz.bytes) := (hbyte i hi).trans (byte_of_low_bytes v hi)
  rw [Nat.mod_mod] at hread
  simp only [s.doOp_store_ordinary lid sz v va hpa hp, two_pow_eight_mul]
  split
  · exact ⟨trivial, hread, hbytes, hother, rfl, rfl, rfl, memWrite_wf _ _ _ _ hw⟩
  · exact ⟨trivial, hread, hbytes, hother, rfl, rfl, rfl, memWrite_wf _ _ _ _ hw⟩

/-! ### What a meaning answers -/

/-- What a meaning answers has the property, where it answers a next state. -/
def OutHas (P : State → Prop) (o : Out) : Prop := ∀ t, o = .next t → P t

@[simp] theorem outHas_next {P : State → Prop} {t : State} : OutHas P (.next t) ↔ P t :=
  ⟨fun h => h t rfl, fun h _ ht => by cases ht; exact h⟩
@[simp] theorem outHas_fault {P : State → Prop} {r : Fault} : OutHas P (.fault r) := fun _ ht => nomatch ht
@[simp] theorem outHas_refused {P : State → Prop} {r : Refusal} : OutHas P (.refused r) := fun _ ht => nomatch ht
@[simp] theorem outHas_ite {P : State → Prop} (c : Prop) [Decidable c] (o p : Out) :
    OutHas P (if c then o else p) ↔ if c then OutHas P o else OutHas P p := by split <;> rfl
theorem OutHas.imp {P Q : State → Prop} {o : Out} (h : OutHas P o) (hPQ : ∀ t, P t → Q t) : OutHas Q o :=
  fun t ht => hPQ t (h t ht)

/-! ### What lasts through a core's tick and through a step

A property that every meaning keeps, and with it the few operations that a core's tick makes around the meanings, is kept by
every step but the beginning of a tick. It is said once, for any property. -/

/-- A property that the meanings keep, and the operations that the step makes around them. -/
structure Lasting (P : State → Prop) : Prop where
  exec : ∀ {s : State} (i : Instr), P s → OutHas P (exec i s)
  aim : ∀ {s : State} (turn : List Nat) (queue : List Timed) (here : Nat) (evPrio : Prio) (evNum : Nat), P s →
    P { s with turn := turn, queue := queue, here := here, evPrio := evPrio, evNum := evNum }
  modCore : ∀ {s : State} (c : Nat) (f : Core → Core), P s → P (s.modCore c f)
  tryLeave : ∀ {s : State} (c : Nat) (p : Prio), P s → P (s.tryLeave c p)
  takeTrap : ∀ {s : State} (c : Nat) (p : Prio) (cause : BitVec 8) (info : BitVec 48) (faddr : Word), P s →
    P (s.takeTrap c p cause info faddr)
  holdOp : ∀ {s : State}, P s → P s.holdOp
  countUncorr : ∀ {s : State} (d : Nat), P s → P (s.countUncorr d)

namespace Lasting
variable {P : State → Prop} (h : Lasting P) {s : State}
include h

theorem modMe (f : Bank → Bank) (hs : P s) : P (s.modMe f) := h.modCore s.here (fun k => k.modBank k.cur f) hs

theorem endSlot (c : Nat) (hs : P s) : P (s.endSlot c) := h.modCore _ _ hs

theorem finishBundle (hs : P s) : P s.finishBundle := by
  unfold State.finishBundle
  split
  · exact h.tryLeave _ _ (h.modMe _ hs)
  · exact h.tryLeave _ _ (h.modMe _ hs)
  · exact h.modMe _ hs

theorem takeAsync (hs : P s) : P s.takeAsync := by
  unfold State.takeAsync
  split
  · exact h.takeTrap _ _ _ _ _ hs
  · exact hs

theorem issueBundle (b : Bundle) (hs : P s) : OutHas P (s.issueBundle b) := by
  unfold State.issueBundle
  split
  next t ht =>
    have hP := h.exec b.c hs t ht
    split
    · split
      next u hu => exact outHas_next.2 (h.endSlot _ (h.finishBundle (h.exec b.a hP u hu)))
      next => exact h.exec b.a hP
    · exact outHas_next.2 (h.endSlot _ hP)
  next => exact h.exec b.c hs

theorem runBundle (hs : P s) : OutHas P s.runBundle := by
  simp only [State.runBundle]
  split
  · exact outHas_next.2 (h.endSlot _ hs)
  · split
    · exact outHas_next.2 (h.endSlot _ (h.takeTrap _ _ _ _ _ (h.countUncorr _ hs)))
    · split
      · exact outHas_fault
      next b _ =>
        split
        · refine outHas_next.2 (h.endSlot _ ?_)
          split
          · exact h.holdOp hs
          · exact hs
        · exact h.issueBundle b hs

theorem settleBank (p : Prio) (hs : P s) : OutHas P (s.settleBank p) := by
  have hrun := h.runBundle (h.modCore s.here (fun k => { k with cur := p }) hs)
  simp only [State.settleBank]
  split
  · split
    next t ht => exact outHas_next.2 (h.modCore _ _ (hrun t ht))
    next => exact hrun
  · exact outHas_next.2 hs

theorem haltedSlot (hs : P s) : OutHas P s.haltedSlot := by
  unfold State.haltedSlot
  split
  next t ht => exact h.settleBank _ (h.settleBank _ hs t ht)
  next => exact h.settleBank _ hs

theorem slot (c : Nat) (hs : P s) : OutHas P (s.slot c) := by
  have h1 := h.tryLeave c .low (h.tryLeave c .high (h.modCore c
    (fun k => { k with low := k.low.land s.tick, high := k.high.land s.tick }) (h.aim s.turn s.queue c s.evPrio s.evNum hs)))
  have he := h.exec .entryStart (h.takeAsync h1)
  simp only [State.slot]
  split
  · split
    next t ht => exact outHas_next.2 (h.endSlot c (h.haltedSlot h1 t ht))
    next => exact h.haltedSlot h1
  · split
    · exact outHas_next.2 (h.endSlot c h1)
    · split
      next s2 hs2 =>
        have h2 := he s2 hs2
        split
        · exact h.runBundle h2
        · exact outHas_next.2 (h.endSlot c h2)
      next => exact he

/-- A step keeps it, or it begins the next tick. -/
theorem step {t : State} (hs : P s) (ht : step s = .next t) : P t ∨ t = s.nextTick := by
  have turn : (match s.turn with | c :: r => ({ s with turn := r }).slot c | [] => .next s.nextTick) = .next t →
      P t ∨ t = s.nextTick := by
    split
    next c r _ => exact fun hc => .inl (h.slot c (h.aim r s.queue s.here s.evPrio s.evNum hs) t hc)
    next => exact fun hn => .inr (Host.Outcome.next.inj hn).symm
  unfold Machine.step at ht
  split at ht
  next e q _ =>
    split at ht
    · exact .inl (h.exec e.ev (h.aim s.turn q e.core e.prio e.num hs) t ht)
    · exact turn ht
  next => exact turn ht

end Lasting

/-! ### The form of memory (R7, R29, R174) -/

/-- Every meaning keeps the invariant of memory, the tick and the least firmware version. -/
theorem exec_good {kt mv : Nat} (i : Instr) {s : State} (hs : s.Good kt mv) : OutGood kt mv (exec i s) := by
  cases i <;> simp [exec, hs]

theorem lasting_good (kt mv : Nat) : Lasting (State.Good kt mv) where
  exec i hs := exec_good i hs
  aim _ _ _ _ _ hs := State.good_upd_iff.2 hs
  modCore c f hs := State.modCore_good c f hs
  tryLeave c p hs := State.tryLeave_good c p hs
  takeTrap c p cause info faddr hs := State.takeTrap_good c p cause info faddr hs
  holdOp hs := State.holdOp_good hs
  countUncorr d hs := State.countUncorr_good d hs

/-- Settles O33: the invariant of memory lasts through a core's tick, and the beginning of a tick leaves memory alone. -/
theorem memoryFormKept : Obligations.MemoryFormKept := by
  intro s t hs ht
  have hgood : s.Good s.tick 0 := ⟨hs, rfl, Nat.zero_le _⟩
  rcases (lasting_good s.tick 0).step hgood ht with h | rfl
  · exact h.mem
  · exact (State.nextTick_good hgood).mem

end Sys2Proof.Machine
end

section
/-!
SUPPORT. What only ever rises: the tick and the least firmware version. One law per operation says that it leaves both
alone, with no hypothesis about the state; no later proof unfolds an operation for it. Only the operations that accept a
firmware image raise the version, and only the beginning of a tick moves the tick.
-/
namespace Sys2Proof.Machine

/-- What only ever rises: the tick and the least firmware version (R5, R79). -/
def State.ratchet : State → Nat × BitVec 32
  | { tick := k, boot := b, .. } => (k, b.minVersion)

/-- An update of the state in its other fields. It is no lemma for `dsimp`, for which the `(rfl)` stands here and below: the
kernel then follows the rewriting and does not evaluate states. -/
@[simp] theorem State.ratchet_mk
    {tick epoch turn here evPrio evNum queue free delays nextId mem empties poison wpoison flaws dead noise cores
      accesses msgs park transit setfull quadTlb joins foldOps foldSeq launches history saved masterVacant links
      span routes pkgId pkgSet pwrLimit pwrMeas limiting corr uncorr sensors layers fencedTowers devBase devCount
      devPend devLost boot blocks tokens replicas frames planes shoots paths banks refreshFrom podTokens watches
      seen} :
    (State.mk tick epoch turn here evPrio evNum queue free delays nextId mem empties poison wpoison flaws dead noise cores
      accesses msgs park transit setfull quadTlb joins foldOps foldSeq launches history saved masterVacant links
      span routes pkgId pkgSet pwrLimit pwrMeas limiting corr uncorr sensors layers fencedTowers devBase devCount
      devPend devLost boot blocks tokens replicas frames planes shoots paths banks refreshFrom podTokens watches
      seen).ratchet =
      (tick, boot.minVersion) := (rfl)

@[simp] theorem State.ratchet_fold (s : State) : (s.tick, s.boot.minVersion) = s.ratchet := (rfl)

@[simp] theorem ratchet_ite (c : Prop) [Decidable c] (s t : State) :
    (if c then s else t).ratchet = if c then s.ratchet else t.ratchet := apply_ite State.ratchet c s t

@[simp] theorem foldl_ratchet {α : Type} {f : State → α → State} (hf : ∀ st x, (f st x).ratchet = st.ratchet)
    (s : State) (l : List α) : (l.foldl f s).ratchet = s.ratchet := by
  induction l generalizing s with
  | nil => rfl
  | cons x l ih => exact (ih (f s x)).trans (hf s x)
@[simp] theorem foldl_snd_ratchet {α β : Type} {f : β × State → α → β × State} (hf : ∀ p x, (f p x).2.ratchet = p.2.ratchet)
    (p : β × State) (l : List α) : (l.foldl f p).2.ratchet = p.2.ratchet := by
  induction l generalizing p with
  | nil => rfl
  | cons x l ih => exact (ih (f p x)).trans (hf p x)
@[simp] theorem foldl_fst_ratchet {α β : Type} {f : State × β → α → State × β} (hf : ∀ p x, (f p x).1.ratchet = p.1.ratchet)
    (p : State × β) (l : List α) : (l.foldl f p).1.ratchet = p.1.ratchet := by
  induction l generalizing p with
  | nil => rfl
  | cons x l ih => exact (ih (f p x)).trans (hf p x)

theorem ratchet_of_snd {α : Type} {p : α × State} {a : α} {t : State} {r : Nat × BitVec 32} (h : p = (a, t))
    (hp : p.2.ratchet = r) : t.ratchet = r := by rw [h] at hp; exact hp
theorem ratchet_of_fst {α : Type} {p : State × α} {a : α} {t : State} {r : Nat × BitVec 32} (h : p = (t, a))
    (hp : p.1.ratchet = r) : t.ratchet = r := by rw [h] at hp; exact hp

/-- Where a meaning answers a next state, nothing that only rises has moved. -/
abbrev OutKeeps (s : State) (o : Out) : Prop := OutHas (fun t => t.ratchet = s.ratchet) o

/-! ### Shared operations on cores, memory and accesses -/

section
variable (s : State)

@[simp] theorem State.setCore_ratchet (c : Nat) (k : Core) : (s.setCore c k).ratchet = s.ratchet := by
  simp [State.setCore]
@[simp] theorem State.modCore_ratchet (c : Nat) (f : Core → Core) : (s.modCore c f).ratchet = s.ratchet := by
  simp [State.modCore]
@[simp] theorem State.modBank_ratchet (c : Nat) (p : Prio) (f : Bank → Bank) :
    (s.modBank c p f).ratchet = s.ratchet := by
  simp [State.modBank]
@[simp] theorem State.modMine_ratchet (f : Core → Core) : (s.modMine f).ratchet = s.ratchet := by simp [State.modMine]
@[simp] theorem State.modMe_ratchet (f : Bank → Bank) : (s.modMe f).ratchet = s.ratchet := by simp [State.modMe]
@[simp] theorem State.wrC_ratchet (lat : Nat) (r : Reg) (v : Word) : (s.wrC lat r v).ratchet = s.ratchet := by
  simp [State.wrC]
@[simp] theorem State.wrA_ratchet (lat : Nat) (r : Reg) (v : Word) : (s.wrA lat r v).ratchet = s.ratchet := by
  simp [State.wrA]
@[simp] theorem State.wrAF_ratchet (lat : Nat) (r : Reg) (v : Word × BitVec 5) :
    (s.wrAF lat r v).ratchet = s.ratchet := by
  simp [State.wrAF]
@[simp] theorem State.enqueue_ratchet (due core : Nat) (p : Prio) (num : Nat) (ev : Instr) :
    (s.enqueue due core p num ev).ratchet = s.ratchet := by
  simp [State.enqueue]
@[simp] theorem State.enqueueFirst_ratchet (due core : Nat) (p : Prio) (num : Nat) (ev : Instr) :
    (s.enqueueFirst due core p num ev).ratchet = s.ratchet := by
  simp [State.enqueueFirst]
@[simp] theorem State.enqueueLast_ratchet (due core : Nat) (p : Prio) (num : Nat) (ev : Instr) :
    (s.enqueueLast due core p num ev).ratchet = s.ratchet := by
  simp [State.enqueueLast]
@[simp] theorem State.later_ratchet (d num : Nat) (ev : Instr) : (s.later d num ev).ratchet = s.ratchet := by
  simp [State.later]
@[simp] theorem State.delayed_ratchet : s.delayed.ratchet = s.ratchet := by simp [State.delayed]
@[simp] theorem State.bumpId_ratchet : s.bumpId.ratchet = s.ratchet := by simp [State.bumpId]
@[simp] theorem State.bumpFree_ratchet : s.bumpFree.ratchet = s.ratchet := by simp [State.bumpFree]
@[simp] theorem State.issue_ratchet : s.issue.ratchet = s.ratchet := by simp [State.issue]
@[simp] theorem State.hold_ratchet : s.hold.ratchet = s.ratchet := by simp [State.hold]
@[simp] theorem State.holdOp_ratchet : s.holdOp.ratchet = s.ratchet := by simp [State.holdOp]
@[simp] theorem State.flow_ratchet (f : Flow) : (s.flow f).ratchet = s.ratchet := by simp [State.flow]
@[simp] theorem State.wrN_ratchet (a n v : Nat) : (s.wrN a n v).ratchet = s.ratchet := by simp [State.wrN]
@[simp] theorem State.wrWord_ratchet (a : Nat) (v : Word) : (s.wrWord a v).ratchet = s.ratchet := by simp [State.wrWord]
@[simp] theorem State.wrWords_ratchet (a : Nat) (l : List Word) : (s.wrWords a l).ratchet = s.ratchet := by
  induction l generalizing s a with
  | nil => rfl
  | cons w l ih => simp [State.wrWords, ih]
@[simp] theorem State.setFE_ratchet (a : Nat) (full : Bool) : (s.setFE a full).ratchet = s.ratchet := by
  simp [State.setFE]
@[simp] theorem State.unpoison_ratchet (a : Nat) : (s.unpoison a).ratchet = s.ratchet := by simp [State.unpoison]
@[simp] theorem State.clearFlaw_ratchet (a : Nat) : (s.clearFlaw a).ratchet = s.ratchet := by simp [State.clearFlaw]
@[simp] theorem State.heal_ratchet (a : Nat) : (s.heal a).ratchet = s.ratchet := by simp [State.heal]
@[simp] theorem State.addPoison_ratchet (a : Nat) : (s.addPoison a).ratchet = s.ratchet := by simp [State.addPoison]
@[simp] theorem State.addWordPoison_ratchet (a : Nat) : (s.addWordPoison a).ratchet = s.ratchet := by
  simp [State.addWordPoison]
@[simp] theorem State.modLayer_ratchet (i : Nat) (f : Layer → Layer) : (s.modLayer i f).ratchet = s.ratchet := by
  simp [State.modLayer]
@[simp] theorem State.modSpan_ratchet (l : Nat) (f : SpanLink → SpanLink) : (s.modSpan l f).ratchet = s.ratchet := by
  simp [State.modSpan]
@[simp] theorem State.modLink_ratchet (l : Nat) (f : PcieLink → PcieLink) : (s.modLink l f).ratchet = s.ratchet := by
  simp [State.modLink]
@[simp] theorem State.ctlPlain_ratchet (o : Nat) (v : Word) : (s.ctlPlain o v).ratchet = s.ratchet := by
  unfold State.ctlPlain
  (repeat' split) <;> simp
@[simp] theorem State.ctlWrite_ratchet (o : Nat) (v : Word) : (s.ctlWrite o v).ratchet = s.ratchet := by
  unfold State.ctlWrite
  split <;> simp
@[simp] theorem State.ctlWriteN_ratchet (o n v : Nat) : (s.ctlWriteN o n v).ratchet = s.ratchet := by
  simp [State.ctlWriteN]
@[simp] theorem State.linkPlain_ratchet (l o : Nat) (v : Word) : (s.linkPlain l o v).ratchet = s.ratchet := by
  simp [State.linkPlain]
@[simp] theorem State.linkWrite_ratchet (l o : Nat) (v : Word) : (s.linkWrite l o v).ratchet = s.ratchet := by
  simp [State.linkWrite]
@[simp] theorem State.countCorr_ratchet (d : Nat) : (s.countCorr d).ratchet = s.ratchet := by simp [State.countCorr]
@[simp] theorem State.countUncorr_ratchet (d : Nat) : (s.countUncorr d).ratchet = s.ratchet := by
  simp [State.countUncorr]
@[simp] theorem State.meetOne_ratchet (a : Nat) (x : Flaw) : (s.meetOne a x).ratchet = s.ratchet := by
  simp [State.meetOne]
@[simp] theorem State.meet_ratchet (a : Nat) : (s.meet a).ratchet = s.ratchet := by simp [State.meet]
@[simp] theorem State.meetBlock_ratchet (a : Nat) : (s.meetBlock a).ratchet = s.ratchet := by simp [State.meetBlock]
@[simp] theorem State.modLaunch_ratchet (lid : BitVec 32) (f : Launch → Launch) :
    (s.modLaunch lid f).ratchet = s.ratchet := by
  simp [State.modLaunch]
@[simp] theorem State.poke_ratchet (lid : BitVec 32) : (s.poke lid).ratchet = s.ratchet := by simp [State.poke]
@[simp] theorem State.pokeStarts_ratchet : s.pokeStarts.ratchet = s.ratchet := by simp [State.pokeStarts]
@[simp] theorem State.anchor_ratchet : s.anchor.ratchet = s.ratchet := by simp [State.anchor]
@[simp] theorem State.modInst_ratchet (c n : Nat) (f : Inst → Inst) : (s.modInst c n f).ratchet = s.ratchet := by
  simp [State.modInst]
@[simp] theorem State.push_ratchet (c : Nat) (p : Prio) (e : Entry) : (s.push c p e).ratchet = s.ratchet := by
  simp [State.push]
@[simp] theorem State.pushInst_ratchet (c n : Nat) : (s.pushInst c n).ratchet = s.ratchet := by simp [State.pushInst]
@[simp] theorem State.checkReady_ratchet (c n : Nat) : (s.checkReady c n).ratchet = s.ratchet := by
  simp [State.checkReady]
@[simp] theorem State.modPark_ratchet (id : Nat) (f : ParkEntry → ParkEntry) :
    (s.modPark id f).ratchet = s.ratchet := by
  simp [State.modPark]
@[simp] theorem State.countSetFull_ratchet (t : Nat) : (s.countSetFull t).ratchet = s.ratchet := by
  simp [State.countSetFull]
@[simp] theorem State.pushResume_ratchet (e : ParkEntry) : (s.pushResume e).ratchet = s.ratchet := by
  simp [State.pushResume]
@[simp] theorem State.letIn_ratchet (t : Transit) : (s.letIn t).ratchet = s.ratchet := by simp [State.letIn]
@[simp] theorem State.freePark_ratchet (id : Nat) : (s.freePark id).ratchet = s.ratchet := by
  simp only [State.freePark]
  (repeat' split) <;> simp
@[simp] theorem State.wakeEntry_ratchet (e : ParkEntry) : (s.wakeEntry e).ratchet = s.ratchet := by
  simp [State.wakeEntry]
@[simp] theorem State.lookAt_ratchet (qs : List (Nat × Nat)) : (s.lookAt qs).ratchet = s.ratchet := by
  simp [State.lookAt]
@[simp] theorem State.pokeQueue_ratchet (l q : Nat) : (s.pokeQueue l q).ratchet = s.ratchet := by simp [State.pokeQueue]
@[simp] theorem State.pokeQueues_ratchet : s.pokeQueues.ratchet = s.ratchet := by simp [State.pokeQueues]
@[simp] theorem State.noteHeader_ratchet (key : Nat) : (s.noteHeader key).ratchet = s.ratchet := by
  simp [State.noteHeader]
@[simp] theorem State.feEvent_ratchet (key : Nat) (fill : Bool) : (s.feEvent key fill).ratchet = s.ratchet := by
  simp [State.feEvent]
@[simp] theorem State.fill_ratchet (a : Nat) : (s.fill a).ratchet = s.ratchet := by simp [State.fill]
@[simp] theorem State.empty_ratchet (a : Nat) : (s.empty a).ratchet = s.ratchet := by simp [State.empty]
@[simp] theorem State.fillWord_ratchet (a : Nat) (v : Word) : (s.fillWord a v).ratchet = s.ratchet := by
  simp [State.fillWord]
@[simp] theorem State.mailWrite_ratchet (c : Nat) (q : Port) (o : Nat) (l : List Word) :
    (s.mailWrite c q o l).ratchet = s.ratchet := by
  induction l generalizing s o with
  | nil => rfl
  | cons w l ih => simp [State.mailWrite, ih]
@[simp] theorem State.appendMsg_ratchet (c n p : Nat) (ws : List Word) :
    (s.appendMsg c n p ws).ratchet = s.ratchet := by
  unfold State.appendMsg
  split <;> simp
@[simp] theorem State.grainDone_ratchet (lid : BitVec 32) (c g n : Nat) :
    (s.grainDone lid c g n).ratchet = s.ratchet := by
  simp only [State.grainDone]
  (repeat' split) <;> simp
@[simp] theorem State.fcrGone_ratchet (l : Launch) (c : Nat) (f : List Word) :
    (s.fcrGone l c f).ratchet = s.ratchet := by
  simp [State.fcrGone]
theorem State.portPark_ratchet (fc key : Nat) (h : Hold) (t : State) (ht : s.portPark fc key h = some t) :
    t.ratchet = s.ratchet := by
  simp only [State.portPark] at ht
  split at ht
  · cases ht; simp
  · cases ht
@[simp] theorem State.holdFcr_ratchet (c : Nat) (p : Prio) (h : Hold) : (s.holdFcr c p h).ratchet = s.ratchet := by
  simp [State.holdFcr]
@[simp] theorem State.deliver_ratchet (c : Nat) (p : Prio) (lid : BitVec 32) (home inst : Nat) (f : List Word) :
    (s.deliver c p lid home inst f).ratchet = s.ratchet := by
  simp only [State.deliver]
  (repeat' split) <;> try simp
  all_goals exact State.portPark_ratchet _ _ _ _ _ ‹_›
@[simp] theorem State.corruptTo_ratchet (c : Nat) (p : Prio) (lid : BitVec 32) (home inst : Nat) (f : List Word) :
    (s.corruptTo c p lid home inst f).ratchet = s.ratchet := by
  simp [State.corruptTo]
@[simp] theorem State.corrupt_ratchet (c : Nat) (p : Prio) (lid : BitVec 32) (home inst : Nat) (f : List Word) :
    (s.corrupt c p lid home inst f).ratchet = s.ratchet := by
  simp [State.corrupt]
@[simp] theorem State.unregister_ratchet (b : Bank) : (s.unregister b).ratchet = s.ratchet := by
  unfold State.unregister
  split <;> simp
@[simp] theorem State.restIdle_ratchet (c : Nat) : (s.restIdle c).ratchet = s.ratchet := by simp [State.restIdle]
@[simp] theorem State.dropGroup_ratchet (fid : Nat) : (s.dropGroup fid).ratchet = s.ratchet := by simp [State.dropGroup]
@[simp] theorem State.clearBank_ratchet (c : Nat) (p : Prio) : (s.clearBank c p).ratchet = s.ratchet := by
  simp [State.clearBank]
@[simp] theorem State.endGrain_ratchet (b : Bank) : (s.endGrain b).ratchet = s.ratchet := by simp [State.endGrain]
@[simp] theorem State.loseFiring_ratchet (b : Bank) : (s.loseFiring b).ratchet = s.ratchet := by
  unfold State.loseFiring
  split <;> simp
@[simp] theorem State.trapDepart_ratchet (c : Nat) (p : Prio) (t : TrapInfo) :
    (s.trapDepart c p t).ratchet = s.ratchet := by
  simp [State.trapDepart]
@[simp] theorem State.parkDepart_ratchet (c : Nat) (p : Prio) (pa : Nat) :
    (s.parkDepart c p pa).ratchet = s.ratchet := by
  simp only [State.parkDepart]
  (repeat' split) <;> simp
@[simp] theorem State.consume_ratchet (c n : Nat) : (s.consume c n).ratchet = s.ratchet := by
  simp only [State.consume]
  (repeat' split) <;> try simp
  all_goals
    refine (foldl_ratchet (fun st x => ?_) _ _).trans (by simp)
    (repeat' split) <;> simp
@[simp] theorem State.leaveBehind_ratchet (fid : Nat) : (s.leaveBehind fid).ratchet = s.ratchet := by
  simp [State.leaveBehind]
@[simp] theorem State.endDepart_ratchet (c : Nat) (p : Prio) : (s.endDepart c p).ratchet = s.ratchet := by
  simp only [State.endDepart]
  (repeat' split) <;> simp
@[simp] theorem State.tryLeave_ratchet (c : Nat) (p : Prio) : (s.tryLeave c p).ratchet = s.ratchet := by
  simp only [State.tryLeave]
  (repeat' split) <;> simp
@[simp] theorem State.leaveAs_ratchet (c : Nat) (p : Prio) (l : Leaving) : (s.leaveAs c p l).ratchet = s.ratchet := by
  simp [State.leaveAs]
@[simp] theorem State.withdraw_ratchet (c : Nat) (l : Level) : (s.withdraw c l).ratchet = s.ratchet := by
  simp [State.withdraw]
@[simp] theorem State.dropArrival_ratchet (c : Nat) (p : Prio) : (s.dropArrival c p).ratchet = s.ratchet := by
  unfold State.dropArrival
  split <;> simp
@[simp] theorem State.takeTrap_ratchet (c : Nat) (p : Prio) (cause : BitVec 8) (info : BitVec 48) (faddr : Word) :
    (s.takeTrap c p cause info faddr).ratchet = s.ratchet := by
  simp [State.takeTrap]
@[simp] theorem State.trapHere_ratchet (cause : BitVec 8) (info : BitVec 48) (faddr : Word) :
    (s.trapHere cause info faddr).ratchet = s.ratchet := by
  simp [State.trapHere]
@[simp] theorem State.budgetEnd_ratchet (key pa : Nat) (kind : ParkKind) :
    (s.budgetEnd key pa kind).ratchet = s.ratchet := by
  simp [State.budgetEnd]
@[simp] theorem State.registerPark_ratchet (c : Nat) (p : Prio) (tower key : Nat) (kind : ParkKind) :
    (s.registerPark c p tower key kind).ratchet = s.ratchet := by
  simp [State.registerPark]
@[simp] theorem State.install_ratchet (c : Nat) (e : TlbEntry) : (s.install c e).ratchet = s.ratchet := by
  simp [State.install]
@[simp] theorem State.useEntry_ratchet (c : Nat) (e : TlbEntry) : (s.useEntry c e).ratchet = s.ratchet := by
  simp [State.useEntry]
@[simp] theorem State.touch_ratchet (c : Nat) (e : TlbEntry) : (s.touch c e).ratchet = s.ratchet := by
  simp [State.touch]
@[simp] theorem State.invalidate_ratchet (c : Nat) (x : Shoot) : (s.invalidate c x).ratchet = s.ratchet := by
  simp [State.invalidate]
@[simp] theorem State.enterService_ratchet (va : Word) (wr : Bool) (send : Option Instr) :
    (s.enterService va wr send).ratchet = s.ratchet := by
  unfold State.enterService
  split <;> simp
@[simp] theorem State.withPage_ratchet (rq : Req) (k : State → TlbEntry → Nat → State) (hk : ∀ st e pa, (k st e
    pa).ratchet = st.ratchet) :
    (s.withPage rq k).ratchet = s.ratchet := by
  unfold State.withPage
  split <;> simp [hk]
@[simp] theorem State.freshCode_ratchet (c i : Nat) : (s.freshCode c i).ratchet = s.ratchet := by simp [State.freshCode]
@[simp] theorem State.codeStore_ratchet (c i : Nat) (w : Word) : (s.codeStore c i w).ratchet = s.ratchet := by
  unfold State.codeStore
  split <;> simp
@[simp] theorem State.clearBlock_ratchet (blk : Nat) : (s.clearBlock blk).ratchet = s.ratchet := by
  simp [State.clearBlock]
@[simp] theorem State.refreshVault_ratchet (v : Nat) : (s.refreshVault v).ratchet = s.ratchet := by
  simp [State.refreshVault]
@[simp] theorem State.armBlockAt_ratchet (arm life : Nat) (hot : Bool) (blk : Nat) :
    (s.armBlockAt arm life hot blk).ratchet = s.ratchet := by
  simp [State.armBlockAt]
@[simp] theorem State.armBlock_ratchet (life blk : Nat) : (s.armBlock life blk).ratchet = s.ratchet := by
  simp [State.armBlock]
@[simp] theorem State.armPageAt_ratchet (o n life : Nat) : (s.armPageAt o n life).ratchet = s.ratchet := by
  simp [State.armPageAt]
@[simp] theorem State.placeRead'_ratchet (pa : Nat) : (s.placeRead' pa).ratchet = s.ratchet := by
  unfold State.placeRead'
  split <;> simp
@[simp] theorem State.placeWrite_ratchet (pa key n v : Nat) : (s.placeWrite pa key n v).ratchet = s.ratchet := by
  unfold State.placeWrite
  split <;> simp
@[simp] theorem State.setBit_ratchet (lid : BitVec 32) (va pa key : Nat) (full : Bool) :
    (s.setBit lid va pa key full).ratchet = s.ratchet := by
  unfold State.setBit
  (repeat' split) <;> simp
@[simp] theorem State.guarded_ratchet (pa key : Nat) (r : Answer × State) (hr : r.2.ratchet = s.ratchet) :
    (s.guarded pa key r).2.ratchet = s.ratchet := by
  unfold State.guarded
  split <;> simp [hr]
@[simp] theorem State.sound_ratchet (key : Nat) (r : Answer × State) (hr : r.2.ratchet = s.ratchet) :
    (s.sound key r).2.ratchet = s.ratchet := by
  unfold State.sound
  split <;> simp [hr]
@[simp] theorem State.rmw_ratchet (tr : Bool) (pa key n : Nat) (f : Nat → Option Nat) :
    (s.rmw tr pa key n f).2.ratchet = s.ratchet := by
  simp only [State.rmw]
  (repeat' split) <;> simp
@[simp] theorem State.fillAt_ratchet (pa key : Nat) (v : Word) : (s.fillAt pa key v).ratchet = s.ratchet := by
  simp [State.fillAt]
@[simp] theorem State.storeRun_ratchet (tr : Bool) (pa : Nat) (l : List Word) :
    (s.storeRun tr pa l).ratchet = s.ratchet := by
  induction l generalizing s pa with
  | nil => rfl
  | cons w l ih => simp [State.storeRun, ih]
@[simp] theorem State.doOp_ratchet (lid : BitVec 32) (op : AccOp) (va pa key : Nat) (tr : Bool) :
    (s.doOp lid op va pa key tr).2.ratchet = s.ratchet := by
  simp only [State.doOp]
  (repeat' split) <;> simp
@[simp] theorem State.meetRun_ratchet (pa : Nat) (op : AccOp) : (s.meetRun pa op).ratchet = s.ratchet := by
  unfold State.meetRun
  split <;> simp
@[simp] theorem State.atPlace_ratchet (lid : BitVec 32) (op : AccOp) (va pa key : Nat) (tr : Bool) :
    (s.atPlace lid op va pa key tr).2.ratchet = s.ratchet := by
  simp [State.atPlace]
@[simp] theorem State.openRow_ratchet (ag : Agent) (pa : Nat) : (s.openRow ag pa).ratchet = s.ratchet := by
  unfold State.openRow
  split <;> simp
@[simp] theorem State.replayIn_ratchet (d : Nat) : (s.replayIn d).ratchet = s.ratchet := by simp [State.replayIn]
@[simp] theorem State.heard_ratchet : s.heard.ratchet = s.ratchet := by simp [State.heard]
@[simp] theorem State.crossing_ratchet : s.crossing.ratchet = s.ratchet := by simp [State.crossing]
@[simp] theorem State.tlp_ratchet : s.tlp.ratchet = s.ratchet := by simp [State.tlp]
@[simp] theorem State.travel_ratchet (c : Nat) (ag : Agent) (pa : Nat) : (s.travel c ag pa).ratchet = s.ratchet := by
  simp only [State.travel]
  (repeat' split) <;> simp
@[simp] theorem State.dropAccess_ratchet (id : Nat) : (s.dropAccess id).ratchet = s.ratchet := by
  simp [State.dropAccess]
@[simp] theorem State.markDone_ratchet (id : Nat) (ans : Answer) : (s.markDone id ans).ratchet = s.ratchet := by
  simp [State.markDone]
@[simp] theorem State.performAt_ratchet (a : Access) : (s.performAt a).2.ratchet = s.ratchet := by
  simp only [State.performAt]
  (repeat' split) <;> simp
@[simp] theorem State.engineMet_ratchet (a : Access) (ans : Answer) : (s.engineMet a ans).ratchet = s.ratchet := by
  unfold State.engineMet
  split <;> simp
@[simp] theorem State.giveAnswer_ratchet (a : Access) (ans : Answer) : (s.giveAnswer a ans).ratchet = s.ratchet := by
  unfold State.giveAnswer
  (repeat' split) <;> simp
@[simp] theorem State.visit_ratchet (c : Nat) (ag : Agent) (pa : Nat) : (s.visit c ag pa).ratchet = s.ratchet := by
  simp [State.visit]
@[simp] theorem State.call_ratchet (pa : Nat) : (s.call pa).ratchet = s.ratchet := by simp [State.call]
@[simp] theorem State.answerIn_ratchet (a : Access) (d : Nat) : (s.answerIn a d).ratchet = s.ratchet := by
  unfold State.answerIn
  split <;> simp
@[simp] theorem State.missAt_ratchet (a : Access) : (s.missAt a).ratchet = s.ratchet := by
  unfold State.missAt
  split <;> simp
@[simp] theorem State.missVault_ratchet (a : Access) : (s.missVault a).ratchet = s.ratchet := by
  unfold State.missVault
  split <;> simp
@[simp] theorem State.arrive_ratchet (a : Access) : (s.arrive a).ratchet = s.ratchet := by simp [State.arrive]
@[simp] theorem State.sendOver_ratchet (l : Nat) (x : OutPk) : (s.sendOver l x).ratchet = s.ratchet := by
  simp [State.sendOver]
@[simp] theorem State.sendOut_ratchet (x : OutPk) : (s.sendOut x).ratchet = s.ratchet := by simp [State.sendOut]
@[simp] theorem State.toSpan_ratchet (p : BitVec 12) (x : Packet) : (s.toSpan p x).ratchet = s.ratchet := by
  simp [State.toSpan]
@[simp] theorem State.sendRequest_ratchet (a : Access) : (s.sendRequest a).ratchet = s.ratchet := by
  simp [State.sendRequest]
@[simp] theorem State.keepHome_ratchet (a : Access) : (s.keepHome a).ratchet = s.ratchet := by simp [State.keepHome]
@[simp] theorem State.keepLate_ratchet (a : Access) : (s.keepLate a).ratchet = s.ratchet := by
  unfold State.keepLate
  split <;> simp
@[simp] theorem State.accessArrive_ratchet (a : Access) : (s.accessArrive a).ratchet = s.ratchet := by
  unfold State.accessArrive
  (repeat' split) <;> simp
@[simp] theorem State.depart_ratchet (a : Access) : (s.depart a).ratchet = s.ratchet := by simp [State.depart]
@[simp] theorem State.launchAccess_ratchet (e : TlbEntry) (pa : Nat) (op : AccOp) (va : Word) (dst : Option (Reg ×
    Option Nat)) (st : Option Reg) (acq : Bool) (rel : Option Scope) (reg : Option ParkKind) :
    (s.launchAccess e pa op va dst st acq rel reg).ratchet = s.ratchet := by
  simp [State.launchAccess]
@[simp] theorem State.noRoute_ratchet (pa : Nat) : (s.noRoute pa).ratchet = s.ratchet := by simp [State.noRoute]
@[simp] theorem State.alu2_ratchet (lat : Nat) (d a b : Reg) (f : Word → Word → Word) :
    OutKeeps s (s.alu2 lat d a b f) := by
  simp [State.alu2]
@[simp] theorem State.alu1_ratchet (lat : Nat) (d a : Reg) (f : Word → Word) : OutKeeps s (s.alu1 lat d a f) := by
  simp [State.alu1]
@[simp] theorem State.aluF_ratchet (lat : Nat) (d : Reg) (r : FRes) : OutKeeps s (s.aluF lat d r) := by
  simp [State.aluF]
@[simp] theorem State.setC_ratchet (d : Reg) (v : Word) : OutKeeps s (s.setC d v) := by simp [State.setC]
@[simp] theorem State.dropStore_ratchet (pa : Nat) : (s.dropStore pa).ratchet = s.ratchet := by simp [State.dropStore]
@[simp] theorem State.loadGo_ratchet (rq : Req) (op : AccOp) (dst : Option (Reg × Option Nat)) (st : Option Reg) (acq
    : Bool) (rel : Option Scope) :
    (s.loadGo rq op dst st acq rel).ratchet = s.ratchet := by
  simp [State.loadGo]
@[simp] theorem State.storeGo_ratchet (rq : Req) (op : AccOp) (rel : Option Scope) :
    (s.storeGo rq op rel).ratchet = s.ratchet := by
  unfold State.storeGo
  (repeat' split) <;> simp
@[simp] theorem State.prefetch_ratchet (va : Word) : (s.prefetch va).ratchet = s.ratchet := by
  unfold State.prefetch
  split <;> simp
@[simp] theorem State.settle_ratchet (w : Wait) (n key pa lat : Nat) (a : Answer) :
    (s.settle w n key pa lat a).ratchet = s.ratchet := by
  unfold State.settle
  (repeat' split) <;> simp
@[simp] theorem State.attempt_ratchet (w : Wait) (n : Nat) : (s.attempt w n).ratchet = s.ratchet := by
  simp only [State.attempt]
  refine withPage_ratchet _ _ _ fun st e pa => ?_
  (repeat' split) <;> simp
@[simp] theorem State.failedSuspended_ratchet (w : Wait) (n key pa lat : Nat) :
    (s.failedSuspended w n key pa lat).ratchet = s.ratchet := by
  unfold State.failedSuspended
  (repeat' split) <;> simp
@[simp] theorem State.waitFE_ratchet (w : Wait) : (s.waitFE w).ratchet = s.ratchet := by
  unfold State.waitFE
  split <;> simp
@[simp] theorem State.parkOn_ratchet (d : Reg) (va : Word) : OutKeeps s (s.parkOn d va) := by simp [State.parkOn]
@[simp] theorem State.armSent_ratchet (e : TlbEntry) (pa : Nat) (va : Word) :
    (s.armSent e pa va).ratchet = s.ratchet := by
  simp [State.armSent]
@[simp] theorem State.armPage_ratchet (va : Word) : (s.armPage va).ratchet = s.ratchet := by simp [State.armPage]
@[simp] theorem State.fence_ratchet (ready : Bool) : (s.fence ready).ratchet = s.ratchet := by
  unfold State.fence
  split <;> simp
@[simp] theorem State.seeAgain_ratchet (c : Nat) (l : List Nat) : (s.seeAgain c l).ratchet = s.ratchet := by
  simp [State.seeAgain]
@[simp] theorem State.mtcCore_ratchet (n : Nat) (w : Word) : (s.mtcCore n w).ratchet = s.ratchet := by
  unfold State.mtcCore
  split <;> simp
@[simp] theorem State.mtcVal_ratchet (n : Nat) (w : Word) : (s.mtcVal n w).ratchet = s.ratchet := by
  unfold State.mtcVal
  split <;> simp
@[simp] theorem State.shipResume_ratchet (f : List Word) (t : Nat) : (s.shipResume f t).ratchet = s.ratchet := by
  simp [State.shipResume]
@[simp] theorem State.badRead_ratchet (a : Answer) (pa : Nat) : (s.badRead a pa).ratchet = s.ratchet := by
  unfold State.badRead
  split <;> simp
@[simp] theorem State.loadWords_ratchet (e : TlbEntry) (va : Word) (pa n : Nat) :
    (s.loadWords e va pa n).ratchet = s.ratchet := by
  simp [State.loadWords]
@[simp] theorem State.dropRead_ratchet (first n : Nat) : (s.dropRead first n).ratchet = s.ratchet := by
  simp [State.dropRead]
@[simp] theorem State.readWords_ratchet (va : Word) (n : Nat) (k : State → List Word → Bool × State) (hk : ∀ st ws, (k
    st ws).2.ratchet = st.ratchet) :
    (s.readWords va n k).ratchet = s.ratchet := by
  simp only [State.readWords]
  split
  · (repeat' split) <;> simp [hk]
  · refine State.withPage_ratchet _ _ _ fun st e pa => ?_
    (repeat' split) <;> try simp
    refine State.withPage_ratchet _ _ _ fun st e pa => ?_
    (repeat' split) <;> simp
@[simp] theorem State.tlbWrite_ratchet (c : Nat) (w0 w1 : Word) : (s.tlbWrite c w0 w1).ratchet = s.ratchet := by
  unfold State.tlbWrite
  split <;> simp
@[simp] theorem State.shootAt_ratchet (x : Shoot) (l : List Nat) : (s.shootAt x l).ratchet = s.ratchet := by
  induction l generalizing s with
  | nil => rfl
  | cons c r ih => simp [State.shootAt, ih]
@[simp] theorem State.startShoot_ratchet (x : Shoot) : (s.startShoot x).ratchet = s.ratchet := by
  simp [State.startShoot]
@[simp] theorem State.shootIns_ratchet (w : Word) (cores : List Nat) : OutKeeps s (s.shootIns w cores) := by
  unfold State.shootIns
  (repeat' split) <;> simp
@[simp] theorem State.invalidateQuad_ratchet (c : Nat) (x : Shoot) : (s.invalidateQuad c x).ratchet = s.ratchet := by
  simp [State.invalidateQuad]
@[simp] theorem State.shootAck_ratchet (id c : Nat) : (s.shootAck id c).ratchet = s.ratchet := by
  simp only [State.shootAck]
  (repeat' split) <;> simp
@[simp] theorem State.endShoot_ratchet (id : Nat) : (s.endShoot id).ratchet = s.ratchet := by simp [State.endShoot]
@[simp] theorem State.giveBack_ratchet (c : Nat) (i : Inst) : (s.giveBack c i).ratchet = s.ratchet := by
  unfold State.giveBack
  split <;> simp
@[simp] theorem State.startInst_ratchet (c : Nat) (p : Prio) (n d : Nat) :
    (s.startInst c p n d).ratchet = s.ratchet := by
  simp only [State.startInst]
  (repeat' split) <;> simp
@[simp] theorem State.startResume_ratchet (c : Nat) (p : Prio) (k d : Nat) :
    (s.startResume c p k d).ratchet = s.ratchet := by
  unfold State.startResume
  split <;> simp
@[simp] theorem State.startEntry_ratchet (p : Prio) (e : Entry) : (s.startEntry p e).ratchet = s.ratchet := by
  unfold State.startEntry
  (repeat' split) <;> simp
@[simp] theorem State.choose_ratchet : s.choose.ratchet = s.ratchet := by
  simp only [State.choose]
  (repeat' split) <;> simp
@[simp] theorem State.expire_ratchet (blk : Nat) : (s.expire blk).ratchet = s.ratchet := by simp [State.expire]
@[simp] theorem State.appendFcr_ratchet (c n : Nat) (e : ParkEntry) : (s.appendFcr c n e).ratchet = s.ratchet := by
  simp [State.appendFcr]
@[simp] theorem State.reserveFcr_ratchet (c n : Nat) : (s.reserveFcr c n).ratchet = s.ratchet := by
  simp only [State.reserveFcr]
  (repeat' split) <;> simp
@[simp] theorem State.dropHeld_ratchet (c : Nat) (p : Prio) : (s.dropHeld c p).ratchet = s.ratchet := by
  simp [State.dropHeld]
@[simp] theorem State.discardFcr_ratchet (h : Hold) : (s.discardFcr h).ratchet = s.ratchet := by
  unfold State.discardFcr
  split <;> simp
@[simp] theorem State.watchdogParked_ratchet (e : ParkEntry) : (s.watchdogParked e).ratchet = s.ratchet := by
  simp [State.watchdogParked]

end

/-! ### Shared operations of the engines -/

section
variable (s : State)

@[simp] theorem State.releaseXl_ratchet (c : Nat) (p : Prio) (va : Nat) (x : Xl) (lands : Bool) :
    (s.releaseXl c p va x lands).ratchet = s.ratchet := by
  simp [State.releaseXl]
@[simp] theorem State.meetAll_ratchet (pas : List Nat) : (s.meetAll pas).ratchet = s.ratchet := by simp [State.meetAll]
@[simp] theorem State.rewriteLeaf_ratchet (e : TlbEntry) (at_ : Nat) (f : Word → Word) :
    (s.rewriteLeaf e at_ f).ratchet = s.ratchet := by
  simp [State.rewriteLeaf]
@[simp] theorem State.covers_ratchet (a : Nat) : (s.covers a).ratchet = s.ratchet := by simp [State.covers]
@[simp] theorem State.moveWord_ratchet (src dst : Nat) : (s.moveWord src dst).ratchet = s.ratchet := by
  simp [State.moveWord]
@[simp] theorem State.movePage_ratchet (src dst n : Nat) : (s.movePage src dst n).ratchet = s.ratchet := by
  simp [State.movePage]
@[simp] theorem State.dropReplicas_ratchet (lid : BitVec 32) (e : TlbEntry) :
    (s.dropReplicas lid e).ratchet = s.ratchet := by
  simp [State.dropReplicas]
@[simp] theorem State.toHostPage_ratchet (lid : BitVec 32) (e : TlbEntry) (at_ dest : Nat) :
    (s.toHostPage lid e at_ dest).ratchet = s.ratchet := by
  simp [State.toHostPage]
@[simp] theorem State.fetchWord_ratchet (pl : Option Plane) (dst i : Nat) :
    (s.fetchWord pl dst i).ratchet = s.ratchet := by
  simp [State.fetchWord]
@[simp] theorem State.toDevicePage_ratchet (lid : BitVec 32) (e : TlbEntry) (at_ : Nat) (frame : Nat) :
    (s.toDevicePage lid e at_ frame).ratchet = s.ratchet := by
  simp only [State.toDevicePage]
  (repeat' split) <;> simp
@[simp] theorem State.moveResult_ratchet (rid : W32) (result code : Nat) :
    (s.moveResult rid result code).ratchet = s.ratchet := by
  simp [State.moveResult]
@[simp] theorem State.endReq_ratchet (rq : TokenReq) (code : Nat) : (s.endReq rq code).ratchet = s.ratchet := by
  unfold State.endReq
  split <;> simp
@[simp] theorem State.carryOut_ratchet (rq : TokenReq) (lid : BitVec 32) (e : TlbEntry) (at_ : Nat) :
    (s.carryOut rq lid e at_).ratchet = s.ratchet := by
  unfold State.carryOut
  (repeat' split) <;> simp
@[simp] theorem State.againFrom_ratchet (l : List TokenReq) : (s.againFrom l).ratchet = s.ratchet := by
  induction l generalizing s with
  | nil => rfl
  | cons rq r ih => cases rq <;> simp [State.againFrom, ih]
@[simp] theorem State.fillToken_ratchet (t : Token) : (s.fillToken t).ratchet = s.ratchet := by
  simp only [State.fillToken]
  (repeat' split) <;> simp
@[simp] theorem State.setBankst_ratchet (b : Nat) (x : Bankst) : (s.setBankst b x).ratchet = s.ratchet := by
  simp [State.setBankst]
@[simp] theorem State.reRefresh_ratchet (i : Nat) : (s.reRefresh i).ratchet = s.ratchet := by
  refine foldl_ratchet (fun st j => ?_) _ _
  split <;> simp
@[simp] theorem State.setInterval_ratchet (i : Nat) : (s.setInterval i).ratchet = s.ratchet := by
  simp [State.setInterval]
@[simp] theorem State.endPass_ratchet (i : Nat) : (s.endPass i).ratchet = s.ratchet := by simp [State.endPass]
@[simp] theorem State.poisonBlock_ratchet (key : Nat) : (s.poisonBlock key).ratchet = s.ratchet := by
  simp [State.poisonBlock]
@[simp] theorem State.scrub_ratchet (i blk : Nat) (r : ScrubResult) : (s.scrub i blk r).ratchet = s.ratchet := by
  unfold State.scrub
  (repeat' split) <;> simp
@[simp] theorem State.nextScrub_ratchet (i blk from_ : Nat) : (s.nextScrub i blk from_).ratchet = s.ratchet := by
  simp [State.nextScrub]
@[simp] theorem State.scrubbed_ratchet (i blk : Nat) (r : ScrubResult) (last : Bool) :
    (s.scrubbed i blk r last).ratchet = s.ratchet := by
  simp [State.scrubbed]
@[simp] theorem State.startScrub_ratchet : s.startScrub.ratchet = s.ratchet := by simp [State.startScrub]
@[simp] theorem State.sendTry_ratchet (port : Word) (ws : List Word) (n : Nat) :
    (s.sendTry port ws n).ratchet = s.ratchet := by
  simp [State.sendTry]
@[simp] theorem State.sendAgain_ratchet (n : Nat) (retry : State → Nat → State) (hretry : ∀ st m, (retry st m).ratchet
    = st.ratchet) :
    (s.sendAgain n retry).ratchet = s.ratchet := by
  simp [State.sendAgain, hretry]
@[simp] theorem State.sendAnswered_ratchet (port : Word) (ws : List Word) (n : Nat) (a : MsgAnswer) :
    (s.sendAnswered port ws n a).ratchet = s.ratchet := by
  unfold State.sendAnswered
  split <;> simp
@[simp] theorem State.takeMsg_ratchet (lid : BitVec 32) (c inst port : Nat) (ws : List Word) :
    (s.takeMsg lid c inst port ws).2.ratchet = s.ratchet := by
  unfold State.takeMsg
  (repeat' split) <;> simp
@[simp] theorem State.takeOutbound_ratchet (c owner : Nat) (p : BitVec 12) (x : Packet) :
    (s.takeOutbound c owner p x).2.ratchet = s.ratchet := by
  simp only [State.takeOutbound]
  (repeat' split) <;> simp
@[simp] theorem State.bcastAnswer_ratchet (c target : Nat) (a : MsgAnswer) :
    (s.bcastAnswer c target a).ratchet = s.ratchet := by
  unfold State.bcastAnswer
  split <;> simp
@[simp] theorem State.podCheck_ratchet (lid : BitVec 32) (fig : Nat) : (s.podCheck lid fig).ratchet = s.ratchet := by
  simp [State.podCheck]
@[simp] theorem State.podArrive_ratchet (lid : BitVec 32) : (s.podArrive lid).ratchet = s.ratchet := by
  simp [State.podArrive]
@[simp] theorem State.checkPhase_ratchet (lv : Level) (lid : BitVec 32) (grp : Nat) :
    (s.checkPhase lv lid grp).ratchet = s.ratchet := by
  unfold State.checkPhase
  split <;> simp
@[simp] theorem State.checkPhases_ratchet (lid : BitVec 32) : (s.checkPhases lid).ratchet = s.ratchet := by
  unfold State.checkPhases
  split <;> simp
@[simp] theorem State.holdBar_ratchet (l : Level) (st : BarStage) : (s.holdBar l st).ratchet = s.ratchet := by
  simp [State.holdBar]
@[simp] theorem State.arriveBar_ratchet (l : Level) (go : State → State) (hgo : ∀ st, (go st).ratchet = st.ratchet) :
    (s.arriveBar l go).ratchet = s.ratchet := by
  simp [State.arriveBar, hgo]
@[simp] theorem State.waitBar_ratchet (l : Level) (own : Bool) : (s.waitBar l own).ratchet = s.ratchet := by
  simp [State.waitBar]
@[simp] theorem State.engineWait_ratchet (c : Nat) (va : Word) (due : Nat) (ev : Instr) :
    (s.engineWait c va due ev).ratchet = s.ratchet := by
  simp [State.engineWait]
@[simp] theorem State.askWalk_ratchet (c : Nat) (va : Word) : (s.askWalk c va).ratchet = s.ratchet := by
  simp [State.askWalk]
@[simp] theorem State.askCollapse_ratchet (c : Nat) (va : Word) : (s.askCollapse c va).ratchet = s.ratchet := by
  simp [State.askCollapse]
@[simp] theorem State.askDevice_ratchet (c : Nat) (va : Word) : (s.askDevice c va).ratchet = s.ratchet := by
  simp [State.askDevice]
@[simp] theorem State.follow_ratchet (c : Nat) (va : Word) (found : Found) :
    (s.follow c va found).2.ratchet = s.ratchet := by
  unfold State.follow
  split <;> simp
@[simp] theorem State.reach_ratchet (c : Nat) (lid : BitVec 32) (va : Word) (wr : Bool) :
    (s.reach c lid va wr).2.ratchet = s.ratchet := by
  simp [State.reach]
@[simp] theorem State.engineSend_ratchet (c key : Nat) (e : TlbEntry) (va : Word) (pa : Nat) (op : AccOp) (back :
    Bool) :
    (s.engineSend c key e va pa op back).ratchet = s.ratchet := by
  simp [State.engineSend]
@[simp] theorem State.engineAsk_ratchet (c key : Nat) (e : TlbEntry) (va : Word) (pa : Nat) (op : AccOp) :
    (s.engineAsk c key e va pa op).ratchet = s.ratchet := by
  simp [State.engineAsk]
@[simp] theorem State.engineRead_ratchet (c key : Nat) (va : Word) (e : TlbEntry) (pa n : Nat) :
    (s.engineRead c key va e pa n).2.ratchet = s.ratchet := by
  unfold State.engineRead
  split <;> simp
@[simp] theorem State.engineWrite_ratchet (c key : Nat) (va : Word) (e : TlbEntry) (pa : Nat) (v : Word) (full :
    Option Bool) :
    (s.engineWrite c key va e pa v full).ratchet = s.ratchet := by
  simp [State.engineWrite]
@[simp] theorem State.engineEmpty_ratchet (c key : Nat) (va : Word) (e : TlbEntry) (pa : Nat) :
    (s.engineEmpty c key va e pa).ratchet = s.ratchet := by
  simp [State.engineEmpty]
@[simp] theorem State.modCopy_ratchet (c id : Nat) (f : Copy → Copy) : (s.modCopy c id f).ratchet = s.ratchet := by
  simp [State.modCopy]
@[simp] theorem State.armCopy_ratchet (c : Nat) (x : Copy) (e : TlbEntry) : (s.armCopy c x e).ratchet = s.ratchet := by
  simp [State.armCopy]
@[simp] theorem State.stopCopy_ratchet (c : Nat) (x : Copy) (t : Stop) : (s.stopCopy c x t).ratchet = s.ratchet := by
  simp [State.stopCopy]
@[simp] theorem State.copyDest_ratchet (c : Nat) (x : Copy) : (s.copyDest c x).2.ratchet = s.ratchet := by
  simp only [State.copyDest]
  split
  next h =>
    have := ratchet_of_snd h (s.reach_ratchet ..)
    (repeat' split) <;> simp [this]
  next => simp
@[simp] theorem State.copyWrite_ratchet (c : Nat) (x : Copy) : (s.copyWrite c x).2.ratchet = s.ratchet := by
  simp only [State.copyWrite]
  (repeat' split) <;> try simp
  all_goals exact ratchet_of_snd ‹_› (s.copyDest_ratchet ..)
@[simp] theorem State.copyMove_ratchet (c : Nat) (x : Copy) : (s.copyMove c x).2.ratchet = s.ratchet := by
  simp only [State.copyMove]
  (repeat' split) <;> try simp
  case h_3 =>
    refine foldl_fst_ratchet (fun st a => ?_) _ _
    split
    next h => simpa using ratchet_of_snd h (st.1.reach_ratchet ..)
    next => rfl
  all_goals exact ratchet_of_snd ‹_› (s.copyDest_ratchet ..)
@[simp] theorem State.moveOne_ratchet (c : Nat) (l : List Copy) : (s.moveOne c l).2.ratchet = s.ratchet := by
  induction l generalizing s with
  | nil => rfl
  | cons x l ih =>
    simp only [State.moveOne]
    (repeat' split) <;> try simp [ih]
    all_goals exact ratchet_of_snd ‹_› (s.copyMove_ratchet ..)
@[simp] theorem State.moveLines_ratchet (c : Nat) (n : Nat) : (State.moveLines c n s).ratchet = s.ratchet := by
  induction n generalizing s with
  | zero => rfl
  | succ n ih =>
    simp only [State.moveLines]
    split <;> simp [ih, ratchet_of_snd ‹_› (s.moveOne_ratchet ..)]
@[simp] theorem State.writeWords_ratchet (c id : Nat) (n : Nat) :
    (State.writeWords c id n s).2.ratchet = s.ratchet := by
  induction n generalizing s with
  | zero => rfl
  | succ n ih =>
    simp only [State.writeWords]
    (repeat' split) <;> try simp [ih]
    all_goals exact ratchet_of_snd ‹_› (s.copyWrite_ratchet ..)
@[simp] theorem State.writeLines_ratchet (c : Nat) : (s.writeLines c).ratchet = s.ratchet := by simp [State.writeLines]
@[simp] theorem State.nextPhase_ratchet (c id : Nat) : (s.nextPhase c id).ratchet = s.ratchet := by
  unfold State.nextPhase
  split <;> simp
@[simp] theorem State.copyOver_ratchet (c id : Nat) : (s.copyOver c id).ratchet = s.ratchet := by
  unfold State.copyOver
  split <;> simp
@[simp] theorem State.copyRest_ratchet (c id : Nat) : (s.copyRest c id).ratchet = s.ratchet := by
  unfold State.copyRest
  split <;> simp
@[simp] theorem State.kickCopies_ratchet (c due : Nat) : (s.kickCopies c due).ratchet = s.ratchet := by
  simp [State.kickCopies]
@[simp] theorem State.endCopy_ratchet (c id : Nat) : (s.endCopy c id).ratchet = s.ratchet := by
  unfold State.endCopy
  split <;> simp
@[simp] theorem State.noFill_ratchet (c : Nat) (x : Copy) (va : Word) (t : Stop) :
    (s.noFill c x va t).ratchet = s.ratchet := by
  simp [State.noFill]
@[simp] theorem State.startCopy_ratchet (d : Reg) (checks : List Word) (f : Nat → Copy) :
    (s.startCopy d checks f).ratchet = s.ratchet := by
  unfold State.startCopy
  (repeat' split) <;> simp
@[simp] theorem State.modRing_ratchet (c : Nat) (h : RingNo) (f : Ring → Ring) :
    (s.modRing c h f).ratchet = s.ratchet := by
  simp [State.modRing]
@[simp] theorem State.takePush_ratchet (lid : BitVec 32) (c : Nat) (h : RingNo) :
    (s.takePush lid c h).2.ratchet = s.ratchet := by
  unfold State.takePush
  (repeat' split) <;> simp
@[simp] theorem State.pushTry_ratchet (h : RingNo) (addr : Word) (n : Nat) :
    (s.pushTry h addr n).ratchet = s.ratchet := by
  simp [State.pushTry]
@[simp] theorem State.pushAnswered_ratchet (h : RingNo) (remote : Bool) (addr : Word) (n : Nat) (x : MsgAnswer) :
    (s.pushAnswered h remote addr n x).ratchet = s.ratchet := by
  unfold State.pushAnswered
  split <;> simp
@[simp] theorem State.freeSlots_ratchet (c : Nat) (p : Prio) (fold : Bool) (h : RingNo) (n t : Nat) :
    (s.freeSlots c p fold h n t).ratchet = s.ratchet := by
  simp [State.freeSlots]
@[simp] theorem State.emptyReach_ratchet (c : Nat) (lid : BitVec 32) (l : List Word) :
    (s.emptyReach c lid l).2.ratchet = s.ratchet := by
  induction l with
  | nil => rfl
  | cons a r ih =>
    simp only [State.emptyReach]
    split <;> simp [ih]
@[simp] theorem State.emptyWords_ratchet (c : Nat) (h : RingNo) (lid : BitVec 32) (l : List Word) :
    (s.emptyWords c h lid l).ratchet = s.ratchet := by
  refine foldl_ratchet (fun st a => ?_) _ _
  split <;> simp [ratchet_of_snd ‹_› (st.reach_ratchet ..)]
@[simp] theorem State.slotFree_ratchet (c : Nat) (h : RingNo) (lid : BitVec 32) :
    (s.slotFree c h lid).ratchet = s.ratchet := by
  simp [State.slotFree]
@[simp] theorem State.parityTrap_ratchet (row : Nat) : (s.parityTrap row).ratchet = s.ratchet := by
  simp [State.parityTrap]
@[simp] theorem State.issueArray_ratchet : s.issueArray.ratchet = s.ratchet := by simp [State.issueArray]
@[simp] theorem State.onePass_ratchet (bad : Core → Option Nat) (f : State → State) (hf : ∀ st, (f st).ratchet =
    st.ratchet) :
    OutKeeps s (s.onePass bad f) := by
  unfold State.onePass
  (repeat' split) <;> simp [hf]
@[simp] theorem State.writeRows_ratchet (mask : Option Tag) (f : Field) (v : Nat) :
    OutKeeps s (s.writeRows mask f v) := by
  simp [State.writeRows]
@[simp] theorem State.passTrap_ratchet (done : Nat) (code : Option Nat) (row : Nat) :
    (s.passTrap done code row).ratchet = s.ratchet := by
  unfold State.passTrap
  split <;> simp
@[simp] theorem State.beginPasses_ratchet (p d : Nat) (code : Option Nat) (stamp : Word) (bad : Core → Option Nat)
    (last : State → State) (hlast : ∀ st, (last st).ratchet = st.ratchet) :
    (s.beginPasses p d code stamp bad last).ratchet = s.ratchet := by
  unfold State.beginPasses
  split <;> simp [hlast]
@[simp] theorem State.firstPass_ratchet (p : Nat) (code : Option Nat) (bad : Core → Option Nat) (last : State → State)
    (wait : State → State) (hlast : ∀ st, (last st).ratchet = st.ratchet) (hwait : ∀ st, (wait st).ratchet =
    st.ratchet) :
    (s.firstPass p code bad last wait).ratchet = s.ratchet := by
  simp [State.firstPass, hlast, hwait]
@[simp] theorem State.passes_ratchet (p : Nat) (code : Option Nat) (bad : Core → Option Nat) (last : State → State)
    (wait : State → State) (hlast : ∀ st, (last st).ratchet = st.ratchet) (hwait : ∀ st, (wait st).ratchet =
    st.ratchet) :
    OutKeeps s (s.passes p code bad last wait) := by
  unfold State.passes
  (repeat' split) <;> simp [hlast, hwait]
@[simp] theorem State.userPass_ratchet (start doff aoff boff i : Nat) (op : Op) :
    (s.userPass start doff aoff boff i op).ratchet = s.ratchet := by
  unfold State.userPass
  split <;> simp
@[simp] theorem State.pokeApply_ratchet (c : Nat) : (s.pokeApply c).ratchet = s.ratchet := by simp [State.pokeApply]
@[simp] theorem State.setStep_ratchet (c : Nat) (v : Word) : (s.setStep c v).ratchet = s.ratchet := by
  simp [State.setStep]
@[simp] theorem State.endTrace_ratchet (c : Nat) (stamp : Word) : (s.endTrace c stamp).ratchet = s.ratchet := by
  simp [State.endTrace]
@[simp] theorem State.beginTrace_ratchet (d : Nat) (stamp : Word) : (s.beginTrace d stamp).ratchet = s.ratchet := by
  simp [State.beginTrace]
@[simp] theorem State.passParity_ratchet (c : Nat) (bad : List Nat) : (s.passParity c bad).ratchet = s.ratchet := by
  unfold State.passParity
  split <;> simp
@[simp] theorem State.runApply_ratchet (c : Nat) (x : Reward) (done : Nat) :
    (s.runApply c x done).ratchet = s.ratchet := by
  simp [State.runApply]
@[simp] theorem State.sendBcast_ratchet (c d : Nat) (sc : Scope) : (s.sendBcast c d sc).ratchet = s.ratchet := by
  simp [State.sendBcast]
@[simp] theorem State.broadcast_ratchet (r : Option (BitVec 16)) (stamp : Word) (sc : Scope) :
    (s.broadcast r stamp sc).ratchet = s.ratchet := by
  simp [State.broadcast]
@[simp] theorem State.bcastIns_ratchet (r : Option (BitVec 16)) (stamp : Word) (sc : Scope) :
    OutKeeps s (s.bcastIns r stamp sc) := by
  simp [State.bcastIns]
@[simp] theorem State.takeBcast_ratchet (lid : BitVec 32) (c : Nat) (r : Option (BitVec 16)) (stamp : Word) :
    (s.takeBcast lid c r stamp).2.ratchet = s.ratchet := by
  simp only [State.takeBcast]
  (repeat' split) <;> simp
@[simp] theorem State.modFold_ratchet (id : Nat) (f : FoldOp → FoldOp) : (s.modFold id f).ratchet = s.ratchet := by
  simp [State.modFold]
@[simp] theorem State.kick_ratchet (c : Nat) : (s.kick c).ratchet = s.ratchet := by
  unfold State.kick
  (repeat' split) <;> simp
@[simp] theorem State.takePlace_ratchet (c : Nat) : (s.takePlace c).ratchet = s.ratchet := by
  simp only [State.takePlace]
  (repeat' split) <;> simp
@[simp] theorem State.popQueue_ratchet (c : Nat) : (s.popQueue c).ratchet = s.ratchet := by simp [State.popQueue]
@[simp] theorem State.failItem_ratchet (c : Nat) (owner : Option Nat) (a : Acc) (fold : Bool) (x : Stop) :
    (s.failItem c owner a fold x).ratchet = s.ratchet := by
  unfold State.failItem
  split <;> simp
@[simp] theorem State.placeAgain_ratchet (o : FoldOp) (j : Join) : (s.placeAgain o j).ratchet = s.ratchet := by
  simp [State.placeAgain]
@[simp] theorem State.joinFails_ratchet (j : Join) : (s.joinFails j).ratchet = s.ratchet := by simp [State.joinFails]
@[simp] theorem State.checkJoin_ratchet (c : Nat) : (s.checkJoin c).ratchet = s.ratchet := by simp [State.checkJoin]
@[simp] theorem State.commitFold_ratchet (o : FoldOp) (who : List (Nat × Prio)) (stand : List Join) :
    (s.commitFold o who stand).ratchet = s.ratchet := by
  simp [State.commitFold]
@[simp] theorem State.holdJoin_ratchet : s.holdJoin.ratchet = s.ratchet := by simp [State.holdJoin]
@[simp] theorem State.issuePlaced_ratchet : s.issuePlaced.ratchet = s.ratchet := by
  unfold State.issuePlaced
  split <;> simp
@[simp] theorem State.endFold_ratchet (o : FoldOp) : (s.endFold o).ratchet = s.ratchet := by simp [State.endFold]
@[simp] theorem State.readSlot_ratchet (c : Nat) (lid : BitVec 32) (at_ : Word) (n : Nat) :
    (s.readSlot c lid at_ n).2.ratchet = s.ratchet := by
  induction n generalizing s at_ with
  | zero => rfl
  | succ n ih =>
    simp only [State.readSlot]
    split
    next h => exact ratchet_of_snd h (s.reach_ratchet ..)
    next e pa s0 h =>
      refine .trans ?_ (ratchet_of_snd h (s.reach_ratchet ..))
      split
      next h1 => exact ratchet_of_snd h1 (s0.engineRead_ratchet ..)
      next s1 h1 =>
        refine .trans ?_ (ratchet_of_snd h1 (s0.engineRead_ratchet ..))
        split
        next h2 => exact ratchet_of_snd h2 (ih ..)
        next => exact ih ..
      next h1 => exact (ih ..).trans (ratchet_of_snd h1 (s0.engineRead_ratchet ..))
    next h => exact ratchet_of_snd h (s.reach_ratchet ..)
@[simp] theorem State.readRound_ratchet (o : FoldOp) (l : List Nat) : (s.readRound o l).2.ratchet = s.ratchet := by
  induction l generalizing s with
  | nil => rfl
  | cons l r ih =>
    simp only [State.readRound]
    split
    next => rfl
    next =>
      split
      next h => exact ratchet_of_snd h (s.readSlot_ratchet ..)
      next h => exact ratchet_of_snd h (s.readSlot_ratchet ..)
      next s1 h =>
        refine .trans ?_ (ratchet_of_snd h (s.readSlot_ratchet ..))
        split
        next h1 => exact ratchet_of_snd h1 (s1.readSlot_ratchet ..)
        next h1 => exact ratchet_of_snd h1 (s1.readSlot_ratchet ..)
        next s2 h1 =>
          refine .trans ?_ (ratchet_of_snd h1 (s1.readSlot_ratchet ..))
          split
          next h2 => exact ratchet_of_snd h2 (ih s2)
          next => exact ih s2
@[simp] theorem State.watchUsage_ratchet (i : Nat) : (s.watchUsage i).ratchet = s.ratchet := by
  simp only [State.watchUsage]
  (repeat' split) <;> simp
@[simp] theorem State.addUsage_ratchet (i n : Nat) : (s.addUsage i n).ratchet = s.ratchet := by simp [State.addUsage]
@[simp] theorem State.roundOver_ratchet (o : FoldOp) : (s.roundOver o).ratchet = s.ratchet := by simp [State.roundOver]
@[simp] theorem State.foldAgain_ratchet (o : FoldOp) : (s.foldAgain o).ratchet = s.ratchet := by simp [State.foldAgain]
@[simp] theorem State.beginRound_ratchet (o : FoldOp) : (s.beginRound o).ratchet = s.ratchet := by
  simp [State.beginRound]
@[simp] theorem State.retire_ratchet (o : FoldOp) : (s.retire o).ratchet = s.ratchet := by
  refine foldl_ratchet (fun st l => ?_) _ _
  simp only
  split <;> simp
@[simp] theorem State.roundStep_ratchet (o : FoldOp) (till : Nat) (close : State → List (Nat × Nat × Nat) → State) (hc
    : ∀ st d, (close st d).ratchet = st.ratchet) :
    (s.roundStep o till close).ratchet = s.ratchet := by
  simp only [State.roundStep]
  split <;> simp [hc, ratchet_of_snd ‹_› (s.readRound_ratchet ..)]
@[simp] theorem State.startRound_ratchet (o : FoldOp) : (s.startRound o).ratchet = s.ratchet := by
  simp only [State.startRound]
  (repeat' split) <;> simp
@[simp] theorem State.atBoundary_ratchet (o : FoldOp) : (s.atBoundary o).ratchet = s.ratchet := by
  simp [State.atBoundary]
@[simp] theorem State.takeSlots_ratchet (c : Nat) : (s.takeSlots c).ratchet = s.ratchet := by
  unfold State.takeSlots
  split <;> simp
@[simp] theorem State.closeRound_ratchet (o : FoldOp) (data : List (Nat × Nat × Nat)) :
    (State.closeRound o s data).ratchet = s.ratchet := by
  simp [State.closeRound]
@[simp] theorem State.devWrite_ratchet (e : List Word) : (s.devWrite e).ratchet = s.ratchet := by simp [State.devWrite]
@[simp] theorem State.devFlush_ratchet (c : Nat) (l : List (List Word)) :
    (State.devFlush c l s).ratchet = s.ratchet := by
  induction l generalizing s with
  | nil => simp [State.devFlush]
  | cons e r ih => simp [State.devFlush, ih]
@[simp] theorem State.devLog_ratchet (o : FoldOp) : (s.devLog o).ratchet = s.ratchet := by simp [State.devLog]
@[simp] theorem State.foldMember_ratchet (o : FoldOp) (c : Nat) : (s.foldMember o c).ratchet = s.ratchet := by
  unfold State.foldMember
  split <;> simp
@[simp] theorem State.queueItem_ratchet (it : QItem) : (s.queueItem it).ratchet = s.ratchet := by simp [State.queueItem]
@[simp] theorem State.readElem_ratchet (c : Nat) (lid : BitVec 32) (f : WidFmt) (ga gb : Word) (i : Nat) :
    (s.readElem c lid f ga gb i).2.ratchet = s.ratchet := by
  unfold State.readElem
  dsimp only
  split
  next h => exact ratchet_of_snd h (s.reach_ratchet ..)
  next e pa s0 h =>
    refine .trans ?_ (ratchet_of_snd h (s.reach_ratchet ..))
    split
    next h1 => exact ratchet_of_snd h1 (s0.engineRead_ratchet ..)
    next h1 => exact ratchet_of_snd h1 (s0.engineRead_ratchet ..)
    next h1 => exact ratchet_of_snd h1 (s0.engineRead_ratchet ..)
  next h => exact ratchet_of_snd h (s.reach_ratchet ..)
@[simp] theorem State.readElems_ratchet (c : Nat) (lid : BitVec 32) (f : WidFmt) (ga gb : Word) (l : List Nat) :
    (s.readElems c lid f ga gb l).2.ratchet = s.ratchet := by
  induction l generalizing s with
  | nil => rfl
  | cons i r ih => simp [State.readElems, ih, apply_ite Prod.snd]
theorem State.rowStore_ratchet {s t : State} (c : Nat) (lid : BitVec 32) (x : Word × Nat × Nat) (ht : s.rowStore c lid
    x = .ok t) :
    t.ratchet = s.ratchet := by
  simp only [State.rowStore] at ht
  (repeat' split at ht) <;> cases ht
  all_goals simpa using ratchet_of_snd ‹_› (s.reach_ratchet ..)
@[simp] theorem State.rowStoresAll_ratchet (c : Nat) (lid : BitVec 32) (l : List (Word × Nat × Nat)) :
    (s.rowStoresAll c lid l).1.ratchet = s.ratchet := by
  induction l generalizing s with
  | nil => rfl
  | cons x l ih =>
    simp only [State.rowStoresAll]
    split
    next h => exact (ih _).trans (State.rowStore_ratchet c lid x h)
    next => rfl
@[simp] theorem State.rowReach_ratchet (c : Nat) (lid : BitVec 32) (l : List (Word × Nat × Nat)) :
    (s.rowReach c lid l).2.ratchet = s.ratchet := by
  induction l with
  | nil => rfl
  | cons x r ih =>
    simp only [State.rowReach]
    split <;> simp [ih]
@[simp] theorem State.narHalted_ratchet (c : Nat) : (s.narHalted c).ratchet = s.ratchet := by
  unfold State.narHalted
  (repeat' split) <;> simp
@[simp] theorem State.failTrapOf_ratchet (l : List QFail) (ok : State → State) (hok : ∀ st, (ok st).ratchet =
    st.ratchet) :
    (s.failTrapOf l ok).ratchet = s.ratchet := by
  unfold State.failTrapOf
  split <;> simp [hok]
@[simp] theorem State.failTrap_ratchet (m : BitVec 4) (ok : State → State) (hok : ∀ st, (ok st).ratchet = st.ratchet) :
    (s.failTrap m ok).ratchet = s.ratchet := by
  simp [State.failTrap, hok]
@[simp] theorem State.recTrap_ratchet (m : BitVec 4) (ok : State → State) (hok : ∀ st, (ok st).ratchet = st.ratchet) :
    (s.recTrap m ok).ratchet = s.ratchet := by
  simp [State.recTrap, hok]

end

/-! ### Shared operations of the package -/

section
variable (s : State)

@[simp] theorem State.dropUnits_ratchet (c : Nat) : (s.dropUnits c).ratchet = s.ratchet := by simp [State.dropUnits]
@[simp] theorem State.freeCore_ratchet (c : Nat) : (s.freeCore c).ratchet = s.ratchet := by simp [State.freeCore]
@[simp] theorem State.dropSpace_ratchet (sp : BitVec 10) : (s.dropSpace sp).ratchet = s.ratchet := by
  simp [State.dropSpace]
@[simp] theorem State.dropFolds_ratchet (cs : List Nat) : (s.dropFolds cs).ratchet = s.ratchet := by
  simp [State.dropFolds]
@[simp] theorem State.dropParts_ratchet (lid : BitVec 32) : (s.dropParts lid).ratchet = s.ratchet := by
  simp [State.dropParts]
@[simp] theorem State.leaveCores_ratchet (l : Launch) : (s.leaveCores l).ratchet = s.ratchet := by
  simp [State.leaveCores]
@[simp] theorem State.addHistory_ratchet (lid : BitVec 32) (st : BitVec 8) :
    (s.addHistory lid st).ratchet = s.ratchet := by
  simp [State.addHistory]
@[simp] theorem State.recordWord_ratchet (a : Nat) (w : Word) : (s.recordWord a w).ratchet = s.ratchet := by
  simp [State.recordWord]
@[simp] theorem State.fillWords_ratchet (a : Nat) (l : List Word) : (s.fillWords a l).ratchet = s.ratchet := by
  induction l generalizing s a with
  | nil => rfl
  | cons w ws ih => simp [State.fillWords, ih]
@[simp] theorem State.countDropped_ratchet (l : Nat) : (s.countDropped l).ratchet = s.ratchet := by
  simp [State.countDropped]
@[simp] theorem State.onLink_ratchet (l : Nat) (f : PcieLink → PcieLink) : (s.onLink l f).ratchet = s.ratchet := by
  simp [State.onLink]
@[simp] theorem State.report_ratchet (r : LRec) (w : List Word) : (s.report r w).ratchet = s.ratchet := by
  simp [State.report]
@[simp] theorem State.forget_ratchet (l : Launch) (st : BitVec 8) : (s.forget l st).ratchet = s.ratchet := by
  simp [State.forget]
@[simp] theorem State.pokeSweeps_ratchet : s.pokeSweeps.ratchet = s.ratchet := by simp [State.pokeSweeps]
@[simp] theorem State.complete_ratchet (l : Launch) (st : BitVec 8) : (s.complete l st).ratchet = s.ratchet := by
  simp [State.complete]
@[simp] theorem State.neverRan_ratchet (l : Launch) (st : BitVec 8) : (s.neverRan l st).ratchet = s.ratchet := by
  simp [State.neverRan]
@[simp] theorem State.endUnrun_ratchet (l : Launch) (st : BitVec 8) : (s.endUnrun l st).ratchet = s.ratchet := by
  simp [State.endUnrun]
@[simp] theorem State.withdrawFold_ratchet (o : FoldOp) : (s.withdrawFold o).ratchet = s.ratchet := by
  simp [State.withdrawFold]
@[simp] theorem State.withdrawFolds_ratchet (cs : List Nat) : (s.withdrawFolds cs).ratchet = s.ratchet := by
  simp [State.withdrawFolds]
@[simp] theorem State.haltCores_ratchet (cs : List Nat) : (s.haltCores cs).ratchet = s.ratchet := by
  simp [State.haltCores]
@[simp] theorem State.cancelLaunch_ratchet (l : Launch) : (s.cancelLaunch l).ratchet = s.ratchet := by
  unfold State.cancelLaunch
  split <;> simp
@[simp] theorem State.distHere_ratchet (lid : BitVec 32) (va pa : Nat) (e : TlbEntry) :
    (s.distHere lid va pa e).2.ratchet = s.ratchet := by
  simp only [State.distHere]
  (repeat' split) <;> simp
@[simp] theorem State.distStore_ratchet (lid : BitVec 32) (va pa : Nat) (e : TlbEntry) (v : Option Word) (full : Bool) :
    (s.distStore lid va pa e v full).ratchet = s.ratchet := by
  unfold State.distStore
  split <;> simp
@[simp] theorem State.distRead_ratchet (l : Launch) (need : BitVec 9) (va : Nat) :
    (s.distRead l need va).2.ratchet = s.ratchet := by
  simp only [State.distRead]
  (repeat' split) <;> try simp
  all_goals
    refine ratchet_of_snd ‹_› ?_
    split <;> simp
@[simp] theorem State.distReads_ratchet (l : Launch) (need : BitVec 9) (va : Nat) (n : Nat) :
    (s.distReads l need va n).2.ratchet = s.ratchet := by
  induction n generalizing s va with
  | zero => rfl
  | succ n ih =>
    simp only [State.distReads]
    split
    next h => exact ratchet_of_snd h (s.distRead_ratchet ..)
    next r s1 _ h =>
      refine .trans ?_ (ratchet_of_snd h (s.distRead_ratchet ..))
      split
      all_goals exact ratchet_of_snd ‹_› (ih s1 _)
@[simp] theorem State.distWords_ratchet (l : Launch) (need : BitVec 9) (va n : Nat) :
    (s.distWords l need va n).2.ratchet = s.ratchet := by
  simp only [State.distWords]
  split <;> simp [ratchet_of_snd ‹_› (s.distReads_ratchet ..)]
@[simp] theorem State.distWrite_ratchet (l : Launch) (va : Nat) (v : Word) (full : Bool) :
    (s.distWrite l va v full).ratchet = s.ratchet := by
  unfold State.distWrite
  split <;> simp
@[simp] theorem State.distEmpty_ratchet (l : Launch) (va : Nat) : (s.distEmpty l va).ratchet = s.ratchet := by
  unfold State.distEmpty
  split <;> simp
@[simp] theorem State.againOnce_ratchet (ev : Instr) : (s.againOnce ev).ratchet = s.ratchet := by simp [State.againOnce]
@[simp] theorem State.writeSlot_ratchet (l : Launch) (c : Nat) : (s.writeSlot l c).ratchet = s.ratchet := by
  simp [State.writeSlot]
@[simp] theorem State.pauseParked_ratchet (lid : BitVec 32) : (s.pauseParked lid).ratchet = s.ratchet := by
  simp [State.pauseParked]
@[simp] theorem State.preempt_ratchet (l : Launch) : (s.preempt l).ratchet = s.ratchet := by simp [State.preempt]
@[simp] theorem State.trapAsync_ratchet (c : Nat) (p : Prio) : (s.trapAsync c p).ratchet = s.ratchet := by
  simp only [State.trapAsync]
  (repeat' split) <;> simp
@[simp] theorem State.unreserve_ratchet (lid : BitVec 32) : (s.unreserve lid).ratchet = s.ratchet := by
  refine foldl_ratchet (fun st e => ?_) _ _
  split <;> simp
@[simp] theorem State.landBoth_ratchet (c : Nat) : (s.landBoth c).ratchet = s.ratchet := by simp [State.landBoth]
@[simp] theorem State.saveCore_ratchet (l : Launch) (c : Nat) : (s.saveCore l c).ratchet = s.ratchet := by
  simp [State.saveCore]
@[simp] theorem State.initMsgs_ratchet (l : Launch) : (s.initMsgs l).2.ratchet = s.ratchet := by
  simp only [State.initMsgs]
  (repeat' split) <;> try simp
  all_goals exact ratchet_of_snd ‹_› (s.distWords_ratchet ..)
@[simp] theorem State.readDesc_ratchet (l : Launch) : (s.readDesc l).2.ratchet = s.ratchet := by
  simp only [State.readDesc]
  split
  next h => exact ratchet_of_snd h (s.distWords_ratchet ..)
  next h => exact ratchet_of_snd h (s.distWords_ratchet ..)
  next w s1 h =>
    refine .trans ?_ (ratchet_of_snd h (s.distWords_ratchet ..))
    (repeat' split) <;> try simp
    all_goals exact ratchet_of_snd ‹_› (by simp)
@[simp] theorem State.clearCore_ratchet (c : Nat) (l : Launch) : (s.clearCore c l).ratchet = s.ratchet := by
  simp [State.clearCore]
@[simp] theorem State.putBundle_ratchet (c i : Nat) (w : Option (Word × Bool)) :
    (s.putBundle c i w).ratchet = s.ratchet := by
  unfold State.putBundle
  split <;> simp
@[simp] theorem State.loadCode_ratchet (c : Nat) (img : Image) : (s.loadCode c img).ratchet = s.ratchet := by
  simp [State.loadCode]
@[simp] theorem State.giveCore_ratchet (l : Launch) (c : Nat) (img : Image) :
    (s.giveCore l c img).ratchet = s.ratchet := by
  simp only [State.giveCore]
  (repeat' split) <;> try simp
  all_goals
    refine (foldl_ratchet (fun st x => ?_) _ _).trans (by simp)
    (repeat' split) <;> simp
@[simp] theorem State.fillMap_ratchet (l : Launch) (ps : List (Nat × Nat × Nat)) :
    (s.fillMap l ps).ratchet = s.ratchet := by
  simp [State.fillMap]
@[simp] theorem State.primeMsgs_ratchet (ps : List (Nat × Nat × Nat)) (ms : List (Nat × Nat × List Word)) :
    (s.primeMsgs ps ms).ratchet = s.ratchet := by
  refine foldl_ratchet (fun st m => ?_) _ _
  split <;> simp
@[simp] theorem State.sendStart_ratchet (c : Nat) : (s.sendStart c).ratchet = s.ratchet := by simp [State.sendStart]
@[simp] theorem State.readLoads_ratchet (l : Launch) : (s.readLoads l).2.ratchet = s.ratchet := by
  simp only [State.readLoads]
  (repeat' split) <;> simp
@[simp] theorem State.giveCores_ratchet (l : Launch) (cs : List Nat) (ps : List (Nat × Nat × Nat)) (x : Loads) :
    (s.giveCores l cs ps x).ratchet = s.ratchet := by
  simp [State.giveCores]
@[simp] theorem State.startOn_ratchet (l : Launch) (ps : List (Nat × Nat × Nat)) (cs : List Nat) :
    (s.startOn l ps cs).ratchet = s.ratchet := by
  simp only [State.startOn]
  split <;> simp [ratchet_of_snd ‹_› (s.readLoads_ratchet _)]
@[simp] theorem State.startGraph_ratchet (l : Launch) : (s.startGraph l).ratchet = s.ratchet := by
  simp only [State.startGraph]
  (repeat' split) <;> simp
@[simp] theorem State.retake_ratchet (l : Launch) (cs : List Nat) : (s.retake l cs).ratchet = s.ratchet := by
  simp [State.retake]
@[simp] theorem State.startSweep_ratchet (l : Launch) : (s.startSweep l).ratchet = s.ratchet := by
  simp only [State.startSweep]
  (repeat' split) <;> simp
@[simp] theorem State.growSweep_ratchet (l : Launch) : (s.growSweep l).ratchet = s.ratchet := by
  simp only [State.growSweep]
  split
  · rfl
  · split <;> simp [ratchet_of_snd ‹_› (s.readLoads_ratchet _)]
@[simp] theorem State.release_ratchet (l : Launch) : (s.release l).ratchet = s.ratchet := by
  simp only [State.release]
  split <;> simp [ratchet_of_snd ‹_› (s.readDesc_ratchet _)]
@[simp] theorem State.setAgain_ratchet (l : Launch) (ps : List (Nat × Nat × Nat)) (x : Loads) :
    (s.setAgain l ps x).ratchet = s.ratchet := by
  simp only [State.setAgain, State.primeMsgs_ratchet, State.fillMap_ratchet, foldl_ratchet State.sendStart_ratchet]
  refine (foldl_ratchet (fun st x => ?_) _ _).trans (by simp)
  split <;> simp
@[simp] theorem State.replaceInsts_ratchet (l : Launch) : (s.replaceInsts l).ratchet = s.ratchet := by
  simp only [State.replaceInsts]
  split <;> simp [ratchet_of_snd ‹_› (s.readLoads_ratchet _)]
@[simp] theorem State.askBlock_ratchet (lid : BitVec 32) (i : Nat) : (s.askBlock lid i).ratchet = s.ratchet := by
  simp [State.askBlock]
@[simp] theorem State.askCores_ratchet (l : Launch) (i : Nat) : (s.askCores l i).ratchet = s.ratchet := by
  simp [State.askCores]
@[simp] theorem State.claimLayer_ratchet (l : Launch) (i : Nat) : (s.claimLayer l i).ratchet = s.ratchet := by
  simp only [State.claimLayer]
  (repeat' split) <;> simp
@[simp] theorem State.claimTower_ratchet (l : Launch) (t : Nat) : (s.claimTower l t).ratchet = s.ratchet := by
  simp [State.claimTower]
@[simp] theorem State.loseShare_ratchet (l : Launch) (i : Nat) (whole : Bool) :
    (s.loseShare l i whole).ratchet = s.ratchet := by
  simp [State.loseShare]
@[simp] theorem State.loseRecord_ratchet (h : BitVec 32 × List Word) : (s.loseRecord h).ratchet = s.ratchet := by
  simp [State.loseRecord]
@[simp] theorem State.clearLayer_ratchet (i : Nat) : (s.clearLayer i).ratchet = s.ratchet := by simp [State.clearLayer]
@[simp] theorem State.fenceFolds_ratchet (i : Nat) : (s.fenceFolds i).ratchet = s.ratchet := by simp [State.fenceFolds]
@[simp] theorem State.fenceLayer_ratchet (i : Nat) : (s.fenceLayer i).ratchet = s.ratchet := by
  simp only [State.fenceLayer]
  (repeat' split) <;> try simp
  all_goals
    refine (foldl_ratchet (fun st x => ?_) _ _).trans (by simp)
    (repeat' split) <;> simp
@[simp] theorem State.restoreStores_ratchet (l : Launch) (c : Nat) (raw : Image) (ws : List (Word × Bool)) (x : Option
    Saved) :
    (s.restoreStores l c raw ws x).ratchet = s.ratchet := by
  simp [State.restoreStores]
@[simp] theorem State.restoreSeq_ratchet (c : Nat) (w : Option (List Word)) :
    (s.restoreSeq c w).ratchet = s.ratchet := by
  unfold State.restoreSeq
  split <;> simp
@[simp] theorem State.restoreBank_ratchet (c : Nat) (p : Prio) (f : List Word) (under : Bool) (x : Saved) :
    (s.restoreBank c p f under x).ratchet = s.ratchet := by
  simp [State.restoreBank]
@[simp] theorem State.restoreGood_ratchet (l : Launch) (c : Nat) (ws : List (Word × Bool)) (is : List Inst) (x :
    Saved) :
    (s.restoreGood l c ws is x).1.ratchet = s.ratchet := by
  simp [State.restoreGood]
@[simp] theorem State.restoreFailed_ratchet (l : Launch) (c : Nat) (read : Bool) (ws : List (Word × Bool)) (is : List
    Inst) :
    (s.restoreFailed l c read ws is).1.ratchet = s.ratchet := by
  simp [State.restoreFailed]
@[simp] theorem State.readSlots_ratchet (l : Launch) (xs : List Nat) : (s.readSlots l xs).2.ratchet = s.ratchet := by
  induction xs generalizing s with
  | nil => rfl
  | cons c cs ih =>
    simp only [State.readSlots]
    (repeat' split) <;> simp [ih]
@[simp] theorem State.restoreCore_ratchet (l : Launch) (y : SlotRead) : (s.restoreCore l y).1.ratchet = s.ratchet := by
  simp only [State.restoreCore]
  (repeat' split) <;> simp
@[simp] theorem State.restoreCores_ratchet (l : Launch) (ys : List SlotRead) :
    (s.restoreCores l ys).ratchet = s.ratchet := by
  simp [State.restoreCores]
@[simp] theorem State.findLost_ratchet (lid : BitVec 32) : (s.findLost lid).ratchet = s.ratchet := by
  unfold State.findLost
  split <;> simp
@[simp] theorem State.restartCopies_ratchet (c : Nat) : (s.restartCopies c).ratchet = s.ratchet := by
  simp [State.restartCopies]
@[simp] theorem State.restartQueue_ratchet (c : Nat) : (s.restartQueue c).ratchet = s.ratchet := by
  unfold State.restartQueue
  (repeat' split) <;> simp
@[simp] theorem State.restartBcast_ratchet (c : Nat) : (s.restartBcast c).ratchet = s.ratchet := by
  unfold State.restartBcast
  split <;> simp
@[simp] theorem State.restartHold_ratchet (c : Nat) (p : Prio) : (s.restartHold c p).ratchet = s.ratchet := by
  simp [State.restartHold]
@[simp] theorem State.restartCore_ratchet (c : Nat) : (s.restartCore c).ratchet = s.ratchet := by
  simp [State.restartCore]
@[simp] theorem State.restartFolds_ratchet (cs : List Nat) : (s.restartFolds cs).ratchet = s.ratchet := by
  simp [State.restartFolds]
@[simp] theorem State.restartParked_ratchet (lid : BitVec 32) : (s.restartParked lid).ratchet = s.ratchet := by
  simp [State.restartParked]
@[simp] theorem State.slotMet_ratchet (l q : Nat) : (s.slotMet l q).ratchet = s.ratchet := by simp [State.slotMet]
@[simp] theorem State.slotDone_ratchet (l q : Nat) : (s.slotDone l q).ratchet = s.ratchet := by simp [State.slotDone]
@[simp] theorem State.badRecord_ratchet (r : LRec) (repeated : Bool) :
    (s.badRecord r repeated).ratchet = s.ratchet := by
  simp [State.badRecord]
@[simp] theorem State.enter_ratchet (r : LRec) : (s.enter r).ratchet = s.ratchet := by simp [State.enter]
@[simp] theorem State.hostSend_ratchet (l : Nat) (x : HostOut) : (s.hostSend l x).ratchet = s.ratchet := by
  simp [State.hostSend]
@[simp] theorem State.unpost_ratchet (l n : Nat) : (s.unpost l n).ratchet = s.ratchet := by simp [State.unpost]
@[simp] theorem State.post_ratchet (l d o : Nat) (data : List Byte) (ev : Instr) :
    (s.post l d o data ev).ratchet = s.ratchet := by
  simp [State.post]
@[simp] theorem State.hostAgain_ratchet (n : Nat) (ev : Instr) : (s.hostAgain n ev).ratchet = s.ratchet := by
  simp [State.hostAgain]
@[simp] theorem State.hostStand_ratchet (n : Nat) (ev : Instr) : (s.hostStand n ev).ratchet = s.ratchet := by
  simp [State.hostStand]
@[simp] theorem State.hostNumber_ratchet : s.hostNumber.2.ratchet = s.ratchet := by
  unfold State.hostNumber
  split <;> simp
@[simp] theorem State.hostPut_ratchet (o n v : Nat) : (s.hostPut o n v).ratchet = s.ratchet := by simp [State.hostPut]
@[simp] theorem State.hostWrite_ratchet (o : Nat) (data : List Byte) : (s.hostWrite o data).ratchet = s.ratchet := by
  simp [State.hostWrite]
@[simp] theorem State.repost_ratchet (l n o : Nat) (data : List Byte) : (s.repost l n o data).ratchet = s.ratchet := by
  simp [State.repost]
@[simp] theorem State.hostPerform_ratchet (l n o : Nat) (data : List Byte) (ev : Instr) :
    (s.hostPerform l n o data ev).ratchet = s.ratchet := by
  unfold State.hostPerform
  split <;> simp
@[simp] theorem State.hostGet_ratchet (o n : Nat) : (s.hostGet o n).2.ratchet = s.ratchet := by
  simp only [State.hostGet]
  (repeat' split) <;> simp
@[simp] theorem State.hostRead_ratchet (o n : Nat) : (s.hostRead o n).2.ratchet = s.ratchet := by simp [State.hostRead]
@[simp] theorem State.aperRead_ratchet (l off len n : Nat) : (s.aperRead l off len n).ratchet = s.ratchet := by
  simp [State.aperRead]
@[simp] theorem State.feDo_ratchet (x : SubWin) (o : Nat) (data : List Byte) :
    (s.feDo x o data).ratchet = s.ratchet := by
  unfold State.feDo
  (repeat' split) <;> simp
@[simp] theorem State.feWrite_ratchet (l off : Nat) (data : List Byte) (ev : Instr) :
    (s.feWrite l off data ev).ratchet = s.ratchet := by
  unfold State.feWrite
  (repeat' split) <;> simp
@[simp] theorem State.bitRead_ratchet (o : Nat) : (s.bitRead o).2.ratchet = s.ratchet := by
  unfold State.bitRead
  split <;> simp
@[simp] theorem State.feRead_ratchet (l off : Nat) (ev : Instr) : (s.feRead l off ev).ratchet = s.ratchet := by
  simp only [State.feRead]
  (repeat' split) <;> simp
@[simp] theorem State.shortenBlocks_ratchet (i : Nat) : (s.shortenBlocks i).ratchet = s.ratchet := by
  simp [State.shortenBlocks]
@[simp] theorem State.heatCopies_ratchet (i : Nat) : (s.heatCopies i).ratchet = s.ratchet := by simp [State.heatCopies]
@[simp] theorem State.vaultZone_ratchet (i old new : Nat) : (s.vaultZone i old new).ratchet = s.ratchet := by
  simp [State.vaultZone]
@[simp] theorem State.loseAll_ratchet : s.loseAll.ratchet = s.ratchet := by simp [State.loseAll]
@[simp] theorem State.goDown_ratchet (w : Why) : (s.goDown w).ratchet = s.ratchet := by simp [State.goDown]
@[simp] theorem State.setCode_ratchet (code : BitVec 8) (detail : Nat) :
    (s.setCode code detail).ratchet = s.ratchet := by
  simp [State.setCode]
@[simp] theorem State.thermalShutdown_ratchet (j : Nat) : (s.thermalShutdown j).ratchet = s.ratchet := by
  simp [State.thermalShutdown]
@[simp] theorem State.nextSample_ratchet (j : Nat) : (s.nextSample j).ratchet = s.ratchet := by simp [State.nextSample]
@[simp] theorem State.sample_ratchet (j : Nat) (temp : BitVec 16) : (s.sample j temp).ratchet = s.ratchet := by
  unfold State.sample
  split <;> simp
@[simp] theorem State.setPath_ratchet (p : Nat) (x : Path) : (s.setPath p x).ratchet = s.ratchet := by
  simp [State.setPath]
@[simp] theorem State.repairPath_ratchet (p : Nat) : (s.repairPath p).ratchet = s.ratchet := by simp [State.repairPath]
@[simp] theorem State.laneFails_ratchet (p lane : Nat) : (s.laneFails p lane).ratchet = s.ratchet := by
  simp [State.laneFails]
@[simp] theorem State.nextMargin_ratchet (p : Nat) : (s.nextMargin p).ratchet = s.ratchet := by simp [State.nextMargin]
@[simp] theorem State.modStatus_ratchet (f : StartStatus → StartStatus) : (s.modStatus f).ratchet = s.ratchet := by
  simp [State.modStatus]
@[simp] theorem State.beginStage_ratchet (n : Nat) : (s.beginStage n).ratchet = s.ratchet := by simp [State.beginStage]
@[simp] theorem State.powerOff_ratchet : s.powerOff.ratchet = s.ratchet := by simp [State.powerOff]
@[simp] theorem State.burnStep_ratchet : s.burnStep.ratchet = s.ratchet := by simp [State.burnStep]
@[simp] theorem State.rise_ratchet (readable : Bool) : (s.rise readable).ratchet = s.ratchet := by simp [State.rise]
@[simp] theorem State.failStart_ratchet (code : BitVec 8) (detail : Nat) :
    (s.failStart code detail).ratchet = s.ratchet := by
  simp [State.failStart]
@[simp] theorem State.fenceStart_ratchet (ls : BitVec 32) (ts : BitVec 8) :
    (s.fenceStart ls ts).ratchet = s.ratchet := by
  simp [State.fenceStart]
@[simp] theorem State.trainPcie_ratchet : s.trainPcie.ratchet = s.ratchet := by simp [State.trainPcie]
@[simp] theorem State.calibrate_ratchet : s.calibrate.ratchet = s.ratchet := by simp [State.calibrate]
@[simp] theorem State.mendRows_ratchet (i : Nat) : (s.mendRows i).ratchet = s.ratchet := by simp [State.mendRows]
@[simp] theorem State.initMemory_ratchet : s.initMemory.ratchet = s.ratchet := by simp [State.initMemory]
@[simp] theorem State.loadFirmware_ratchet : s.loadFirmware.ratchet = s.ratchet := by simp [State.loadFirmware]
@[simp] theorem State.becomeReady_ratchet : s.becomeReady.ratchet = s.ratchet := by simp [State.becomeReady]
@[simp] theorem State.goOn_ratchet (n : Nat) : (s.goOn n).ratchet = s.ratchet := by
  unfold State.goOn
  (repeat' split) <;> simp
@[simp] theorem State.retrainLink_ratchet (l : Nat) : (s.retrainLink l).ratchet = s.ratchet := by
  simp [State.retrainLink]
@[simp] theorem State.resend_ratchet (l : Nat) : (s.resend l).ratchet = s.ratchet := by simp [State.resend]
@[simp] theorem State.sendHeld_ratchet (e : OutPk) : (s.sendHeld e).ratchet = s.ratchet := by simp [State.sendHeld]
@[simp] theorem State.noticed_ratchet (pa : Nat) (fill : Option Bool) : (s.noticed pa fill).ratchet = s.ratchet := by
  simp [State.noticed]
@[simp] theorem State.presentReward_ratchet (lid : BitVec 32) (r : Option (BitVec 16)) (stamp : Word) (l : List Nat) :
    (s.presentReward lid r stamp l).2.ratchet = s.ratchet := by
  induction l generalizing s with
  | nil => rfl
  | cons c l ih => simp [State.presentReward, ih]
@[simp] theorem State.present_ratchet (p : Packet) : (s.present p).2.ratchet = s.ratchet := by
  simp only [State.present]
  (repeat' split) <;> simp
@[simp] theorem State.presentHead_ratchet (l : Nat) : (s.presentHead l).ratchet = s.ratchet := by
  simp only [State.presentHead]
  (repeat' split) <;> try simp [-Option.foldl_toList]
  all_goals exact ratchet_of_snd ‹_› (s.present_ratchet _)
@[simp] theorem State.parkRemote_ratchet (a : Access) (kind : ParkKind) :
    (s.parkRemote a kind).ratchet = s.ratchet := by
  simp only [State.parkRemote]
  (repeat' split) <;> simp
@[simp] theorem State.responseArrive_ratchet (k : Nat) (ans : Answer) :
    (s.responseArrive k ans).ratchet = s.ratchet := by
  unfold State.responseArrive
  (repeat' split) <;> simp
@[simp] theorem State.flitFails_ratchet (l lane : Nat) : (s.flitFails l lane).ratchet = s.ratchet := by
  simp [State.flitFails]
@[simp] theorem State.flitHeader_ratchet (l : Nat) (f : Flit) : (s.flitHeader l f).ratchet = s.ratchet := by
  simp [State.flitHeader]
@[simp] theorem State.flitPacket_ratchet (l slot : Nat) (p : Packet) : (s.flitPacket l slot p).ratchet = s.ratchet := by
  unfold State.flitPacket
  split <;> simp

end

/-! ### Meanings of more than one line -/

section
variable (s : State)

@[simp] theorem execEndFiring_ratchet : OutKeeps s (execEndFiring s) := by
  unfold execEndFiring
  (repeat' split) <;> simp
@[simp] theorem execSleep_ratchet (i : BitVec 14) : OutKeeps s (execSleep i s) := by
  unfold execSleep
  split <;> simp
@[simp] theorem execMigr_ratchet (a : Reg) : OutKeeps s (execMigr a s) := by
  simp only [execMigr]
  (repeat' split) <;> simp
@[simp] theorem execResume_ratchet (a b : Reg) : OutKeeps s (execResume a b s) := by
  simp only [execResume, outHas_next]
  exact State.readWords_ratchet _ _ _ _ fun st f => by (repeat' split) <;> simp
@[simp] theorem execShootdownArrive_ratchet : OutKeeps s (execShootdownArrive s) := by
  unfold execShootdownArrive
  split <;> simp
@[simp] theorem execWakeAppend_ratchet : OutKeeps s (execWakeAppend s) := by
  unfold execWakeAppend
  split <;> simp
@[simp] theorem execMigrationDepart_ratchet : OutKeeps s (execMigrationDepart s) := by
  simp only [execMigrationDepart]
  (repeat' split) <;> simp
@[simp] theorem execFcrArrive_ratchet : OutKeeps s (execFcrArrive s) := by
  unfold execFcrArrive
  split <;> simp
@[simp] theorem execResumeEntryDue_ratchet : OutKeeps s (execResumeEntryDue s) := by
  unfold execResumeEntryDue
  split <;> simp
@[simp] theorem execFcrDeliver_ratchet : OutKeeps s (execFcrDeliver s) := by
  unfold execFcrDeliver
  split <;> simp
@[simp] theorem execHoldBufferOffer_ratchet : OutKeeps s (execHoldBufferOffer s) := by
  simp only [execHoldBufferOffer, outHas_next]
  (repeat' split) <;> try simp
  all_goals exact State.portPark_ratchet _ _ _ _ _ ‹_›
@[simp] theorem execWatchdogExpiry_ratchet : OutKeeps s (execWatchdogExpiry s) := by
  unfold execWatchdogExpiry
  (repeat' split) <;> simp
@[simp] theorem execStartMessageArrive_ratchet : OutKeeps s (execStartMessageArrive s) := by
  simp only [execStartMessageArrive]
  (repeat' split) <;> try simp
  all_goals
    refine (foldl_ratchet (fun st x => ?_) _ _).trans (by simp)
    (repeat' split) <;> simp
@[simp] theorem execTranslationRequest_ratchet (c : Nat) (p : Prio) (va : Word) :
    OutKeeps s (execTranslationRequest c p va s) := by
  simp only [execTranslationRequest]
  (repeat' split) <;> simp
@[simp] theorem execTokenRequest_ratchet (rq : TokenReq) : OutKeeps s (execTokenRequest rq s) := by
  unfold execTokenRequest
  (repeat' split) <;> simp
@[simp] theorem execShootdownComplete_ratchet : OutKeeps s (execShootdownComplete s) := by
  simp only [execShootdownComplete]
  (repeat' split) <;> simp
@[simp] theorem execAccessArrive_ratchet : OutKeeps s (execAccessArrive s) := by
  unfold execAccessArrive
  split <;> simp
@[simp] theorem execLoadReturn_ratchet : OutKeeps s (execLoadReturn s) := by
  unfold execLoadReturn
  (repeat' split) <;> simp
@[simp] theorem execStoreAck_ratchet : OutKeeps s (execStoreAck s) := by
  unfold execStoreAck
  (repeat' split) <;> simp
@[simp] theorem execRefreshOp_ratchet : OutKeeps s (execRefreshOp s) := by
  unfold execRefreshOp
  split <;> simp
@[simp] theorem execRefreshOpEnd_ratchet : OutKeeps s (execRefreshOpEnd s) := by
  unfold execRefreshOpEnd
  split <;> simp
@[simp] theorem execScrubForced_ratchet (b blk : Nat) (r : ScrubResult) : OutKeeps s (execScrubForced b blk r s) := by
  unfold execScrubForced
  split <;> simp
@[simp] theorem execSend_ratchet (a b : Reg) (l : Fin 8) : OutKeeps s (execSend a b l s) := by
  unfold execSend
  split <;> simp
@[simp] theorem execMessageArrive_ratchet : OutKeeps s (execMessageArrive s) := by
  unfold execMessageArrive
  (repeat' split) <;> simp
@[simp] theorem execRecv_ratchet (d a : Reg) (p w : Fin 8) : OutKeeps s (execRecv d a p w s) := by
  simp only [execRecv]
  (repeat' split) <;> simp
@[simp] theorem execBarrierRelease_ratchet (lv : Level) (lid : W32) (grp : Nat) :
    OutKeeps s (execBarrierRelease lv lid grp s) := by
  unfold execBarrierRelease
  split <;> simp
@[simp] theorem execCopyCompletionFill_ratchet : OutKeeps s (execCopyCompletionFill s) := by
  simp only [execCopyCompletionFill, outHas_next]
  (repeat' split) <;> try simp
  all_goals exact ratchet_of_snd ‹_› (s.follow_ratchet ..)
@[simp] theorem execCpyw_ratchet (mask : BitVec 8) : OutKeeps s (execCpyw mask s) := by
  simp only [execCpyw]
  (repeat' split) <;> simp
@[simp] theorem execRingPushArrive_ratchet : OutKeeps s (execRingPushArrive s) := by
  simp only [execRingPushArrive]
  (repeat' split) <;> simp
@[simp] theorem execRpush_ratchet (h : RingNo) (remote : Bool) (a : Reg) : OutKeeps s (execRpush h remote a s) := by
  unfold execRpush
  split <;> simp
@[simp] theorem execRingSlotFreed_ratchet : OutKeeps s (execRingSlotFreed s) := by
  simp only [execRingSlotFreed, outHas_next]
  (repeat' split) <;> try simp
  all_goals exact ratchet_of_snd ‹_› (s.emptyReach_ratchet ..)
@[simp] theorem execAfst_ratchet (d : Reg) (ta : Tag) (clr : Bool) : OutKeeps s (execAfst d ta clr s) := by
  refine State.onePass_ratchet _ _ _ fun st => ?_
  split <;> simp
@[simp] theorem execAusq_ratchet (start : BitVec 8) (doff aoff boff : BitVec 9) :
    OutKeeps s (execAusq start doff aoff boff s) := by
  unfold execAusq
  split <;> simp
@[simp] theorem execAsql_ratchet (a : Reg) : OutKeeps s (execAsql a s) := by
  simp only [execAsql, outHas_next]
  split
  · simp
  · split
    · simp
    · exact State.readWords_ratchet _ _ _ _ fun st l => by split <;> simp
@[simp] theorem execArrayLastPass_ratchet : OutKeeps s (execArrayLastPass s) := by
  unfold execArrayLastPass
  split <;> simp
@[simp] theorem execAtrc_ratchet (sr : Reg) : OutKeeps s (execAtrc sr s) := by
  unfold execAtrc
  (repeat' split) <;> simp
@[simp] theorem execRewardApplyStart_ratchet : OutKeeps s (execRewardApplyStart s) := by
  simp only [execRewardApplyStart]
  (repeat' split) <;> simp
@[simp] theorem execRewardApplyDone_ratchet : OutKeeps s (execRewardApplyDone s) := by
  unfold execRewardApplyDone
  split <;> simp
@[simp] theorem execRewardBroadcastArrive_ratchet : OutKeeps s (execRewardBroadcastArrive s) := by
  unfold execRewardBroadcastArrive
  split <;> simp
@[simp] theorem execBroadcastRetry_ratchet : OutKeeps s (execBroadcastRetry s) := by
  unfold execBroadcastRetry
  split <;> simp
@[simp] theorem execFoldJoinComplete_ratchet : OutKeeps s (execFoldJoinComplete s) := by
  simp only [execFoldJoinComplete]
  (repeat' split) <;> simp
@[simp] theorem execMfold_ratchet (acc : Acc) (fmt : FoldFmt) (home : Fin 4) (ra rb : RingNo) (solo pin : Bool) (nkm1
    : BitVec 8) :
    OutKeeps s (execMfold acc fmt home ra rb solo pin nkm1 s) := by
  unfold execMfold
  split <;> simp
@[simp] theorem execFoldOpStart_ratchet : OutKeeps s (execFoldOpStart s) := by
  unfold execFoldOpStart
  split <;> simp
@[simp] theorem execFoldRoundEnd_ratchet : OutKeeps s (execFoldRoundEnd s) := by
  unfold execFoldRoundEnd
  (repeat' split) <;> simp
@[simp] theorem execFoldOpComplete_ratchet : OutKeeps s (execFoldOpComplete s) := by
  unfold execFoldOpComplete
  (repeat' split) <;> simp
@[simp] theorem execMwid_ratchet (acc : Acc) (fmt : WidFmt) (a b : Reg) : OutKeeps s (execMwid acc fmt a b s) := by
  unfold execMwid
  split <;> simp
@[simp] theorem execMnar_ratchet (acc : Acc) (fmt : NarFmt) (rm : Rm) (a b c : Reg) (arr : Option (BitVec 9)) :
    OutKeeps s (execMnar acc fmt rm a b c arr s) := by
  simp only [execMnar]
  (repeat' split) <;> simp
@[simp] theorem execAccOpComplete_ratchet : OutKeeps s (execAccOpComplete s) := by
  simp only [execAccOpComplete, outHas_next]
  (repeat' split) <;> try simp
  iterate 4 exact ratchet_of_snd ‹_› (s.readElems_ratchet ..)
  · exact ratchet_of_snd ‹_› (s.rowReach_ratchet ..)
  iterate 3 exact (ratchet_of_fst ‹_› (State.rowStoresAll_ratchet ..)).trans (ratchet_of_snd ‹_› (s.rowReach_ratchet ..))
@[simp] theorem execFenceE_ratchet : OutKeeps s (execFenceE s) := by
  unfold execFenceE
  (repeat' split) <;> simp
@[simp] theorem execLaunchComplete_ratchet (lid : W32) : OutKeeps s (execLaunchComplete lid s) := by
  unfold execLaunchComplete
  (repeat' split) <;> simp
@[simp] theorem execCancel_ratchet (l : Nat) (lid : W32) : OutKeeps s (execCancel l lid s) := by
  unfold execCancel
  split <;> simp
@[simp] theorem execCancelCoresFreed_ratchet (lid : W32) : OutKeeps s (execCancelCoresFreed lid s) := by
  unfold execCancelCoresFreed
  split <;> simp
@[simp] theorem execPreemptSave_ratchet (lid : W32) : OutKeeps s (execPreemptSave lid s) := by
  unfold execPreemptSave
  split <;> simp
@[simp] theorem execLaunchStart_ratchet (lid : W32) : OutKeeps s (execLaunchStart lid s) := by
  unfold execLaunchStart
  (repeat' split) <;> simp
@[simp] theorem execGrainClaim_ratchet : OutKeeps s (execGrainClaim s) := by
  simp only [execGrainClaim]
  (repeat' split) <;> simp
@[simp] theorem execGrainBlockClaim_ratchet (lid : W32) (level : GrainLevel) :
    OutKeeps s (execGrainBlockClaim lid level s) := by
  unfold execGrainBlockClaim
  (repeat' split) <;> simp
@[simp] theorem execGrainReportBatch_ratchet (lid : W32) (level : GrainLevel) :
    OutKeeps s (execGrainReportBatch lid level s) := by
  unfold execGrainReportBatch
  (repeat' split) <;> simp
@[simp] theorem execLaunchResume_ratchet (lid : W32) : OutKeeps s (execLaunchResume lid s) := by
  simp only [execLaunchResume, outHas_next]
  (repeat' split) <;> try simp
  case h_1 h => exact ratchet_of_snd h (s.readSlots_ratchet ..)
  all_goals
    refine (foldl_ratchet (fun st i => ?_) _ _).trans (by simp [ratchet_of_snd ‹_› (s.readSlots_ratchet ..)])
    split <;> simp
@[simp] theorem execFunctionLevelReset_ratchet : OutKeeps s (execFunctionLevelReset s) := by
  simp only [execFunctionLevelReset, outHas_next]
  split
  · refine (foldl_ratchet (fun st x => ?_) _ _).trans (by simp)
    split <;> simp
  · rfl
@[simp] theorem execHostApertureWrite_ratchet (l off : Nat) (data : List Byte) :
    OutKeeps s (execHostApertureWrite l off data s) := by
  unfold execHostApertureWrite
  (repeat' split) <;> simp
@[simp] theorem execHostApertureRead_ratchet (l off : Nat) (rq : HostReq) :
    OutKeeps s (execHostApertureRead l off rq s) := by
  simp only [execHostApertureRead]
  (repeat' split) <;> simp
@[simp] theorem execRegisterWrite_ratchet (w : RegWin) (off : Nat) (v : Word) :
    OutKeeps s (execRegisterWrite w off v s) := by
  unfold execRegisterWrite
  (repeat' split) <;> simp
@[simp] theorem execSelfRailRemoval_ratchet : OutKeeps s (execSelfRailRemoval s) := by
  unfold execSelfRailRemoval
  (repeat' split) <;> simp
@[simp] theorem execLinkRetrainDone_ratchet : OutKeeps s (execLinkRetrainDone s) := by
  unfold execLinkRetrainDone
  split <;> simp
@[simp] theorem execRemoteAccessArrive_ratchet (src : BitVec 12) (rid : Nat) (op : AccOp) (pa : Nat) (tr : Bool) :
    OutKeeps s (execRemoteAccessArrive src rid op pa tr s) := by
  unfold execRemoteAccessArrive
  (repeat' split) <;> simp
@[simp] theorem execFlitReceive_ratchet (l : Nat) (f : Flit) : OutKeeps s (execFlitReceive l f s) := by
  unfold execFlitReceive
  (repeat' split) <;> simp

end

/-! ### The meanings that accept a firmware image (R78, R79) -/

/-- The tick stands, and the least firmware version does not fall. -/
structure State.Rises (s t : State) : Prop where
  tick : t.tick = s.tick
  version : s.boot.minVersion.toNat ≤ t.boot.minVersion.toNat

theorem State.rises_of_ratchet {s t : State} (h : t.ratchet = s.ratchet) : s.Rises t := by
  obtain ⟨htick, hversion⟩ := Prod.ext_iff.1 h
  exact ⟨htick, Nat.le_of_eq (congrArg BitVec.toNat hversion.symm)⟩
theorem State.Rises.trans {s t u : State} (h : s.Rises t) (k : t.Rises u) : s.Rises u :=
  ⟨k.tick.trans h.tick, Nat.le_trans h.version k.version⟩

theorem State.verifyFw_rises (s : State) : s.Rises s.verifyFw.1 := by
  unfold State.verifyFw
  split
  · exact ⟨rfl, Start.raise_ge _ _⟩
  · split <;> exact State.rises_of_ratchet (by simp)

theorem State.endStage_rises (s : State) (n : Nat) : s.Rises (s.endStage n).1 := by
  unfold State.endStage
  split
  · exact s.verifyFw_rises
  all_goals exact State.rises_of_ratchet (by simp)

theorem execStageComplete_rises (r : StageResult) (s : State) : OutHas s.Rises (execStageComplete r s) := by
  have hend (n : Nat) (p : State × Bool) (h : (s.fenceStart r.fencedLayers r.fencedTowers).endStage n = p) : s.Rises p.1 :=
    h ▸ (State.rises_of_ratchet (s.fenceStart_ratchet ..)).trans (State.endStage_rises _ n)
  simp only [execStageComplete, outHas_next]
  split
  · exact State.rises_of_ratchet rfl
  · split
    · exact State.rises_of_ratchet (by simp)
    · split
      · split <;> exact State.rises_of_ratchet (by simp)
      · split
        · exact State.rises_of_ratchet (by simp)
        · split
          next h => exact hend _ _ h
          next h => exact (hend _ _ h).trans (State.rises_of_ratchet (State.goOn_ratchet ..))

theorem execDoeFirmwareImage_rises (slot : Bool) (img : FwImage) (s : State) :
    OutHas s.Rises (execDoeFirmwareImage slot img s) := by
  simp only [execDoeFirmwareImage, outHas_next]
  split
  · cases slot <;> exact ⟨rfl, Start.raise_ge _ _⟩
  · exact ⟨rfl, Nat.le_refl _⟩

/-! ### The clock (R5, R17) -/

theorem OutKeeps.rises {s : State} {o : Out} (h : OutKeeps s o) : OutHas s.Rises o :=
  h.imp fun _ => State.rises_of_ratchet

/-- No instruction and no event moves the tick, and none lets the least firmware version fall. -/
theorem exec_rises (i : Instr) (s : State) : OutHas s.Rises (exec i s) := by
  cases i with
  | stageComplete r => exact execStageComplete_rises r s
  | doeFirmwareImage slot img => exact execDoeFirmwareImage_rises slot img s
  | _ =>
    refine OutKeeps.rises ?_
    simp [exec, State.branch, execNopC, execBr, execBrLone, execJmp, execBz, execBzLone, execBnz, execBnzLone, execBltz,
      execBltzLone, execBgez, execBgezLone, execBeq, execBeqLone, execBne, execBneLone, execBlt, execBltLone,
      execBge, execBgeLone, execBltn, execBltnLone, execBgen, execBgenLone, execMovl, execMovlLone, execMovlh,
      execNopA, execAdd, execSub, execMul, execMulh, execMulhn, execDiv, execDivn, execRem, execRemn, execAndR,
      execOrR, execXorR, execAndn, execOrn, execShl, execShr, execSar, execRol, execMinR, execMaxR, execMinn,
      execMaxn, execCeq, execCne, execClt, execCle, execCltn, execClen, execSel, execClz, execCtz, execPopc,
      execSxb, execSxh, execSxw, execZxb, execZxh, execZxw, execAddw, execSubw, execMulw, execBext, execBins,
      execBswp, execAddi, execAndi, execOri, execXori, execShli, execShri, execSari, execCeqi, execClti, execCltni,
      execMovi, execMovhi, execFadd, execFsub, execFmul, execFma, execFms, execFdiv, execFsqrt, execFmin, execFmax,
      execFceq, execFclt, execFcle, execFabs, execFneg, execFcpys, execCvtif, execCvtfi, execCvtff, execPk2,
      execUnpk, execLd, execLdLone, execLdn, execLdnLone, execSt, execStLone, execLdx, execStx, execLda,
      execLdaLone, execStl, execStlLone, execPref, execPrefLone, execStf, execStfLone, execEmp, execEmpLone,
      execFeq, execFeqLone, execLdwt, execLdwtLone, execLdtt, execLdttLone, execStpt, execStptLone, execCas,
      execRed, execLdw, execLdwLone, execLdt, execLdtLone, execStp, execStpLone, execAmo, execPark, execParkLone,
      execTarm, execTarmLone, execFenceOrd, execFenceR, execFenceA, execMfc, execMtc, execTrap, execBrk, execSeal,
      execSleepExpiry, execLtrig, execTlbw, execTlbi, execTlbs, execEntryStart, execFeAttempt, execTransientExpiry,
      execCoreSleep, execCoreWake, execScrubRead, execSendRetry, execMessageAnswerArrive, execPcnt, execBar,
      execBara, execBarw, execBarphWithdraw, execPodBarrierToken, execBarrierTimeout, execCopyDataPhase, execCpy,
      execCpy2, execRcfg, execRpop, execRwait, execRfree, execRq, execAcmp, execAwrt, execAscw, execAbnd, execAtag,
      execArd, execAwr, execArws, execAcnt, execArsum, execAseq, execAfldWrite, execAstepWrite, execArwd, execRbc,
      execRclr, execMzero, execMrec, execMwait, execMq, execMasterElectionDone, execRecordAccept,
      execPageMoveRequest, execQctlWrite, execPcieLinkDown, execHostFillWrite, execHostEmptyWrite, execHostFillRead,
      execHostStateRead, execSensorSample, execAllowanceWindowBoundary, execAllowanceOverrun, execLaneFailing,
      execLaneMarginTest, execLaneSpareSwap, execLaneRepairRelease, execRailRise, execBoardRailRemoval,
      execStartRetry, execStageTimeout, execStartCtlCold, execStartCtlWarm, execDoeAttestationRequest,
      execOutboundQueueSend, execLinkDown, execLinkResend, execRemoteMessagePresent, execRemotePresentRetry,
      execRemoteWakeNotice, execSpanIdSet, execCall, execCallLone, execCallr, execLoop, execLoopLone]

/-- What rises lasts through a core's tick. -/
theorem lasting_rises (s : State) : Lasting s.Rises where
  exec i hs := (exec_rises i _).imp fun _ => hs.trans
  aim _ _ _ _ _ hs := ⟨hs.tick, hs.version⟩
  modCore c f hs := hs.trans (State.rises_of_ratchet (State.modCore_ratchet _ c f))
  tryLeave c p hs := hs.trans (State.rises_of_ratchet (State.tryLeave_ratchet _ c p))
  takeTrap c p cause info faddr hs := hs.trans (State.rises_of_ratchet (State.takeTrap_ratchet _ c p cause info faddr))
  holdOp hs := hs.trans (State.rises_of_ratchet (State.holdOp_ratchet _))
  countUncorr d hs := hs.trans (State.rises_of_ratchet (State.countUncorr_ratchet _ d))

/-- An event that answers a next state comes about in its own tick. -/
theorem comes_of_next {i : Instr} {s t : State} (h : exec i s = .next t) : ∃ t, exec i s = .next t ∧ t.tick = s.tick :=
  ⟨t, h, (exec_rises i s t h).tick⟩

theorem startMessageArrive_next (s : State) : ∃ t, exec .startMessageArrive s = .next t := by
  change ∃ t, execStartMessageArrive s = .next t
  unfold execStartMessageArrive
  split
  · exact ⟨_, rfl⟩
  · split
    · exact ⟨_, rfl⟩
    · exact ⟨_, rfl⟩

/-- Settles O34: no meaning moves the tick, of a step only the beginning of a tick does, and the events answer a next state
on every path. -/
theorem clockOnlyByTicks : Obligations.ClockOnlyByTicks := by
  refine ⟨fun i s t => ⟨fun h => (exec_rises i s t h).tick, fun h => ?_⟩, fun s lid n blk r last => ?_⟩
  · rcases (lasting_rises s).step (s := s) ⟨rfl, Nat.le_refl _⟩ h with ht | rfl
    · exact .inl ht.tick
    · exact .inr rfl
  · obtain ⟨t, ht⟩ := startMessageArrive_next s
    exact ⟨comes_of_next rfl, comes_of_next rfl, comes_of_next rfl, comes_of_next rfl, comes_of_next rfl,
      comes_of_next rfl, comes_of_next rfl, comes_of_next rfl, comes_of_next rfl, comes_of_next rfl,
      comes_of_next rfl, comes_of_next rfl, comes_of_next rfl, comes_of_next rfl, comes_of_next rfl,
      comes_of_next rfl, comes_of_next rfl, comes_of_next ht, comes_of_next rfl, comes_of_next rfl, comes_of_next rfl,
      comes_of_next rfl, comes_of_next rfl, comes_of_next rfl, comes_of_next rfl, comes_of_next rfl⟩

end Sys2Proof.Machine
end

section
/-!
SUPPORT. The package by itself: what its control window reads as, and the statement about it at reset (01_package R19 to R30,
04_startup R70).
-/
namespace Sys2Proof.Machine

/-! ### Fixed lists of registers -/

@[simp] theorem vget_replicate {α : Type} (n i : Nat) (x : α) : vget (Vector.replicate n x) i x = x := by
  simp only [vget, Vector.toList_replicate, List.getD_eq_getElem?_getD, List.getElem?_replicate]
  split
  · rfl
  · rfl
@[simp] theorem vget_vset_same {α : Type} {n : Nat} (v : Vector α n) {i : Nat} (x d : α) (h : i < n) :
    vget (vset v i x) i d = x := by
  simp [vget, vset, h]
theorem vget_vset_ne {α : Type} {n : Nat} (v : Vector α n) {i j : Nat} (x d : α) (h : j ≠ i) :
    vget (vset v i x) j d = vget v j d := by
  simp [vget, vset, List.getElem?_set_ne h.symm]

theorem State.layer_modLayer_same (s : State) {i : Nat} (f : Layer → Layer) (h : i < 32) :
    (s.modLayer i f).layer i = f (s.layer i) := vget_vset_same _ _ _ h
theorem State.layer_modLayer_ne (s : State) {i j : Nat} (f : Layer → Layer) (h : j ≠ i) :
    (s.modLayer i f).layer j = s.layer j := vget_vset_ne _ _ _ h

/-! ### The package control window (R19, R48) -/

theorem regIn_self {n j : Nat} (base : Nat) (h : j < n) : regIn (base + 8 * j) base n = some j := by
  rw [regIn, if_pos (by omega)]
  congr 1
  omega
theorem regIn_above {o base n : Nat} (h : base + 8 * n ≤ o) : regIn o base n = none := if_neg (by omega)

section
variable (s : State)

theorem State.ctlRead_sensor {j : Nat} (h : j < 84) : s.ctlRead (8 * j) = sensorWord (s.sensor j) := by
  have hj : regIn (8 * j) 0 84 = some j := by simpa using regIn_self 0 h
  simp only [State.ctlRead.eq_def, hj]
theorem State.ctlRead_cap {i : Nat} (h : i < 32) : s.ctlRead (0x400 + 8 * i) = s.capWord i := by
  simp (disch := omega) only [State.ctlRead.eq_def, regIn_above, regIn_self]
theorem State.ctlRead_err {d : Nat} (h : d < 12) : s.ctlRead (0x600 + 8 * d) = s.errWord d := by
  simp (disch := omega) only [State.ctlRead.eq_def, regIn_above, regIn_self]
theorem State.ctlRead_span {l : Nat} (h : l < 16) : s.ctlRead (0x800 + 8 * l) = spanWord (s.spanLink l) := by
  simp (disch := omega) only [State.ctlRead.eq_def, regIn_above, regIn_self]
theorem State.ctlRead_vaultRef {i : Nat} (h : i < 32) : s.ctlRead (0xA00 + 8 * i) = vaultRefWord (s.layer i) := by
  simp (disch := omega) only [State.ctlRead.eq_def, regIn_above, regIn_self]
theorem State.ctlRead_park {t : Nat} (h : t < 8) : s.ctlRead (0xB00 + 8 * t) =
    BitVec.ofNat 64 (s.parkUsed t + place (vget s.setfull t 0).toNat 32 32) := by
  simp (disch := omega) only [State.ctlRead.eq_def, regIn_above, regIn_self]
theorem State.ctlRead_cchk {i : Nat} (h : i < 32) : s.ctlRead (0xC00 + 8 * i) = cchkWord (s.layer i) := by
  simp (disch := omega) only [State.ctlRead.eq_def, regIn_above, regIn_self]
theorem State.ctlRead_route {p : Nat} (h : p < 4096) : s.ctlRead (0x10000 + 8 * p) = routeWord (s.route (BitVec.ofNat 12 p)) := by
  simp (disch := omega) only [State.ctlRead.eq_def, regIn_above, regIn_self]
end

/-! ### The package at reset -/

@[simp] theorem reset_sensor (j : Nat) : State.reset.sensor j = Sensor.reset := vget_replicate ..
@[simp] theorem reset_layer (i : Nat) : State.reset.layer i = Layer.reset := vget_replicate ..
@[simp] theorem reset_spanLink (l : Nat) : State.reset.spanLink l = SpanLink.reset := vget_replicate ..
@[simp] theorem reset_route (p : BitVec 12) : State.reset.route p = Route.reset := rfl
@[simp] theorem reset_capWord (i : Nat) : State.reset.capWord i = 0xFFFF := by
  have htrip : State.reset.trip i = false := by simp only [State.trip, reset_sensor]; rfl
  simp only [State.capWord, State.allowOf, htrip, reset_layer]
  rfl
@[simp] theorem reset_errWord (d : Nat) : State.reset.errWord d = 0 := by
  have hcorr : vget State.reset.corr d 0 = 0 := vget_replicate ..
  have huncorr : vget State.reset.uncorr d 0 = 0 := vget_replicate ..
  rw [State.errWord, hcorr, huncorr]
  rfl
@[simp] theorem reset_parkUsed (t : Nat) : State.reset.parkUsed t = 0 := rfl
@[simp] theorem reset_setfull (t : Nat) : vget State.reset.setfull t 0 = 0 := vget_replicate ..

/-- Settles O31: the banks of equal registers by the law of each bank, the single registers and those of a core by evaluation. -/
theorem stateAtReset : Obligations.StateAtReset := by
  refine ⟨⟨fun j hj => ?_, fun i hi => ?_, rfl, fun d hd => ?_, rfl, fun l hl => ?_, rfl, rfl, rfl, fun i hi => ?_,
    fun t ht => ?_, fun i hi => ?_, rfl, rfl, fun p hp => ?_⟩, by decide⟩
  · rw [State.ctlRead_sensor _ hj, reset_sensor]; rfl
  · rw [State.ctlRead_cap _ hi, reset_capWord]
  · rw [State.ctlRead_err _ hd, reset_errWord]
  · rw [State.ctlRead_span _ hl, reset_spanLink]; rfl
  · rw [State.ctlRead_vaultRef _ hi, reset_layer]; rfl
  · rw [State.ctlRead_park _ ht, reset_parkUsed, reset_setfull]; rfl
  · rw [State.ctlRead_cchk _ hi, reset_layer]; rfl
  · rw [State.ctlRead_route _ hp, reset_route]; rfl

end Sys2Proof.Machine
end

section
/-!
SUPPORT. Accesses that arrive and are answered, refresh, the patrol scrubber, and the statement about them (08_memory_hierarchy
R160 to R168, R435, 11_core R211).
-/
namespace Sys2Proof.Machine

/-! ### Arrival (R191, R194, R435) -/

section
variable {s : State} {a : Access}

theorem execAccessArrive_of_accessOf (h : s.accessOf s.evNum = some a) : execAccessArrive s = .next (s.accessArrive a) := by
  rw [execAccessArrive, h]
theorem State.accessArrive_outOfOrder (hans : a.ans = none) (ho : s.inOrder a = false) :
    s.accessArrive a = (s.keepHome a).enqueue (s.tick + 1) a.core a.prio a.id .accessArrive := by
  simp [State.accessArrive, hans, ho]
theorem State.accessArrive_notReady (hans : a.ans = none) (ho : s.inOrder a = true) (hr : s.agentReady a = false) :
    s.accessArrive a = (s.keepLate a).enqueueFirst (s.tick + 1) a.core a.prio a.id .accessArrive := by
  simp [State.accessArrive, hans, ho, hr]
theorem State.accessArrive_package {y : BitVec 12} (hans : a.ans = none) (ho : s.inOrder a = true)
    (hr : s.agentReady a = true) (hag : a.agent = .package y) :
    s.accessArrive a = (s.visit a.core a.agent a.pa).sendRequest a := by
  simp [State.accessArrive, hans, ho, hr, hag]
theorem State.accessArrive_here (hans : a.ans = none) (ho : s.inOrder a = true) (hr : s.agentReady a = true)
    (hag : ∀ y, a.agent ≠ .package y) : s.accessArrive a = s.arrive a := by
  simp only [State.accessArrive, hans, ho, hr]
  cases h : a.agent with
  | package y => exact absurd h (hag y)
  | l1 | slice | vault | window | unit | host => rfl

/-! ### Answers (R211, R275) -/

@[simp] theorem State.bank_dropAccess (id c : Nat) (p : Prio) : (s.dropAccess id).bank c p = s.bank c p := rfl
@[simp] theorem State.bank_modBank_same (c : Nat) (p : Prio) (f : Bank → Bank) : (s.modBank c p f).bank c p = f (s.bank c p) := by
  simp [State.bank, State.modBank]

/-- A value that comes back for a register. -/
theorem State.giveAnswer_load {r : Reg} (v : Word) (hg : a.grp = false) (hkey : (s.bank a.core a.prio).key = a.fid)
    (hdst : a.dst = some (r, none)) (hst : a.st = none) : s.giveAnswer a (.done v) =
      (s.dropAccess a.id).modBank a.core a.prio fun b => b.write false s.tick r v := by
  simp [State.giveAnswer, hg, hkey, hdst, hst, widen, answerVal]
/-- An acknowledgement, which no register waits for. -/
theorem State.giveAnswer_ack (v : Word) (hg : a.grp = false) (hkey : (s.bank a.core a.prio).key = a.fid)
    (hdst : a.dst = none) (hst : a.st = none) : s.giveAnswer a (.done v) =
      (s.dropAccess a.id).modBank a.core a.prio fun b => b := by
  simp [State.giveAnswer, hg, hkey, hdst, hst]
theorem execLoadReturn_waits {ans : Answer} (h : s.accessOf s.evNum = some a) (hans : a.ans = some ans)
    (hw : accWaits a.op = true) : execLoadReturn s =
      .next ((s.dropAccess a.id).modBank a.core a.prio fun b => if b.key = a.fid then b.answer a.id ans else b) := by
  simp [execLoadReturn, h, hans, hw]
theorem execLoadReturn_gives {ans : Answer} (h : s.accessOf s.evNum = some a) (hans : a.ans = some ans)
    (hw : accWaits a.op = false) : execLoadReturn s = .next (s.giveAnswer a ans) := by
  simp [execLoadReturn, h, hans, hw]
theorem execStoreAck_gives {ans : Answer} (h : s.accessOf s.evNum = some a) (hans : a.ans = some ans) :
    execStoreAck s = .next (s.giveAnswer a ans) := by
  simp [execStoreAck, h, hans]
end

/-! ### Refresh (R158, R163) -/

section
variable {s : State}

theorem State.bankst_setBankst_same (b : Nat) (x : Bankst) (hw : Sparse.wf (fun _ => Bankst.reset) s.banks = true) :
    (s.setBankst b x).bankst b = x := Sparse.get_set_same _ _ _ _ hw
@[simp] theorem State.bankst_later (d n b : Nat) (e : Instr) : (s.later d n e).bankst b = s.bankst b := rfl
theorem execRefreshOp_due {p : Nat} (hp : s.refreshBase s.evNum = some p) (hdue : p + s.spacing s.evNum ≤ s.tick) :
    execRefreshOp s = .next (((s.setBankst s.evNum { last := some s.tick, busy := some (s.tick + 40), row := none }).later 40
      s.evNum .refreshOpEnd).later (s.spacing s.evNum) s.evNum .refreshOp) := by
  simp only [execRefreshOp, hp, if_pos hdue]
theorem execRefreshOpEnd_due {e : Nat} (he : (s.bankst s.evNum).busy = some e) (hdue : e ≤ s.tick) :
    execRefreshOpEnd s = .next (s.setBankst s.evNum { (s.bankst s.evNum) with busy := none }) := by
  simp only [execRefreshOpEnd, he, if_pos hdue]

/-! ### The patrol scrubber (R159, R162, R164) -/

theorem scrubKey_of_vault {i blk : Nat} (h : 64 * blk < 2 ^ 33) : scrubKey i blk = some (linearBase + i * 2 ^ 33 + 64 * blk) :=
  if_pos h
theorem State.scrubFinds_unflawed {key : Nat} (r : ScrubResult) (h : ∀ x ∈ s.flaws, x.1 ≠ blockAt key) :
    s.scrubFinds key r = r := by
  have hnone : (s.flaws.find? fun x => x.2.domain == 2 && x.1 == blockAt key) = none :=
    List.find?_eq_none.2 fun x hx => by simp [h x hx]
  rw [State.scrubFinds, hnone]
theorem State.scrubFinds_soft {key : Nat} (r : ScrubResult) (hin : (blockAt key, (⟨2, false⟩ : Flaw)) ∈ s.flaws)
    (honly : ∀ x ∈ s.flaws, x.1 = blockAt key → x = (blockAt key, (⟨2, false⟩ : Flaw))) : s.scrubFinds key r = .corrected := by
  cases hf : s.flaws.find? fun x => x.2.domain == 2 && x.1 == blockAt key with
  | none => exact absurd (List.find?_eq_none.1 hf _ hin) (by simp)
  | some x =>
    have hfound := List.find?_some hf
    have hkey : x.1 = blockAt key := by simpa using (Bool.and_eq_true_iff.1 hfound).2
    rw [State.scrubFinds, hf, honly x (List.mem_of_find?_eq_some hf) hkey]
    rfl

section
variable {i blk key : Nat} {r : ScrubResult} (hk : scrubKey i blk = some key)
include hk

theorem State.scrub_skips (hs : s.scrubSkips key = true) : s.scrub i blk r = s := by
  simp [State.scrub, hk, hs]
theorem State.scrub_clean (hs : s.scrubSkips key = false) (hr : s.scrubFinds key r = .clean) :
    s.scrub i blk r = s.openRow .vault key := by
  simp [State.scrub, hk, hs, hr]
theorem State.scrub_corrected (hs : s.scrubSkips key = false) (hr : s.scrubFinds key r = .corrected) : s.scrub i blk r =
    (((s.openRow .vault key).clearFlaw key).countCorr 2).modLayer i fun x => { x with scrubNow := satAdd x.scrubNow 1 } := by
  simp [State.scrub, hk, hs, hr]
theorem State.scrub_uncorrectable (hs : s.scrubSkips key = false) (hr : s.scrubFinds key r = .uncorrectable) :
    s.scrub i blk r = ((s.openRow .vault key).countUncorr 2).poisonBlock key := by
  simp [State.scrub, hk, hs, hr]
end

/-- A bank is occupied for a closed-row time of 22 ticks, or for as long as it was (R161). -/
def State.delayBank (s : State) (n : Nat) : State :=
  s.setBankst n { (s.bankst n) with busy := some (max (((s.bankst n).busy).getD 0) (s.tick + 22)) }
/-- What follows a scrub that has left a state: the end of the pass, where it was the last (R162). -/
def State.passOver (s : State) (i : Nat) (last : Bool) : State := if last then s.endPass i else s

theorem State.scrubbed_eq_passOver (s : State) (i blk : Nat) (r : ScrubResult) (last : Bool) :
    s.scrubbed i blk r last = (s.scrub i blk r).passOver i last := rfl
theorem execScrubRead_outside {i blk : Nat} {t : State} (r : ScrubResult) (last : Bool) (hn : s.evNum = 0)
    (hfree : s.scrubFree i blk = true) (ht : s.scrub i blk r = t) : execScrubRead i blk r last s = .next (t.passOver i last) := by
  simp [execScrubRead, hn, hfree, State.scrubbed_eq_passOver, ht]
theorem execScrubForced_vault {i blk key : Nat} {t : State} (r : ScrubResult) (hk : scrubKey i blk = some key)
    (ht : s.scrub i blk r = t) : execScrubForced (4096 * i) blk r s =
      .next ((t.passOver i (s.evNum == 1)).delayBank (vaultBank (vaultAt key).1 (vaultAt key).2)) := by
  have hi : 4096 * i / 4096 = i := Nat.mul_div_cancel_left i (by decide)
  simp only [execScrubForced, hi, hk, scrubBank, State.scrubbed_eq_passOver, ht, State.delayBank]

/-! ### The expiry of a block (R168, R188) -/

theorem execTransientExpiry_due {b : Block} (hb : b ∈ s.blocks) (hblk : b.blk = s.evNum) (hdue : b.deadline ≤ s.tick) :
    execTransientExpiry s = .next (s.expire s.evNum) := by
  have hany : (s.blocks.any fun b => b.blk == s.evNum && decide (b.deadline ≤ s.tick)) = true :=
    List.any_eq_true.2 ⟨b, hb, by simp [hblk, hdue]⟩
  rw [execTransientExpiry, if_pos hany]
end

/-- Settles O53: each clause is the law of its event. -/
theorem accessAndVaultEvents : Obligations.AccessAndVaultEvents := by
  intro s a ans p i blk r v last
  refine ⟨fun hof hans => ?_, fun hof hans hw hg hkey hdst hst => ?_, fun hof hans hw _ => execLoadReturn_waits hof hans hw,
    fun hof hans hg hdst hst hkey => ?_, fun hp hdue => ⟨_, execRefreshOp_due hp hdue, rfl, fun hwf => ?_⟩,
    fun e he hdue => execRefreshOpEnd_due he hdue, ?_, fun b hb hblk hdue => execTransientExpiry_due hb hblk hdue⟩
  · have harr := execAccessArrive_of_accessOf hof
    exact ⟨fun ho hr hag => harr.trans (congrArg _ (State.accessArrive_here hans ho hr hag)),
      fun y ho hr hag => harr.trans (congrArg _ (State.accessArrive_package hans ho hr hag)),
      fun ho => harr.trans (congrArg _ (State.accessArrive_outOfOrder hans ho)),
      fun ho hr => harr.trans (congrArg _ (State.accessArrive_notReady hans ho hr))⟩
  · exact (execLoadReturn_gives hof hans hw).trans (congrArg _ (State.giveAnswer_load v hg hkey hdst hst))
  · refine ⟨_, (execStoreAck_gives hof hans).trans (congrArg _ (State.giveAnswer_ack v hg hkey hdst hst)), rfl, rfl, ?_⟩
    rw [State.bank_modBank_same, State.bank_dropAccess]
  · rw [State.bankst_later, State.bankst_later, State.bankst_setBankst_same _ _ hwf]
  · intro key s1 bad one n done busy hlt
    have hk : scrubKey i blk = some key := scrubKey_of_vault hlt
    refine ⟨fun hskip => ?_, fun hskip => ⟨fun y => ?_, fun hnone y => State.scrubFinds_unflawed y hnone,
      fun hin honly y => State.scrubFinds_soft y hin honly⟩⟩
    · have hscrub (y : ScrubResult) : s.scrub i blk y = s := State.scrub_skips hk hskip
      exact ⟨fun hn hfree y => execScrubRead_outside y last hn hfree (hscrub y),
        fun y => execScrubForced_vault y hk (hscrub y)⟩
    · intro z
      have hscrub : s.scrub i blk y = z := by
        cases hr : s.scrubFinds key y with
        | clean => rw [State.scrub_clean hk hskip hr]; simp only [z, hr]; rfl
        | corrected => rw [State.scrub_corrected hk hskip hr]; simp only [z, hr]; rfl
        | uncorrectable => rw [State.scrub_uncorrectable hk hskip hr]; simp only [z, hr]; rfl
      exact ⟨fun hn hfree => execScrubRead_outside y last hn hfree hscrub, execScrubForced_vault y hk hscrub⟩

end Sys2Proof.Machine
end

section
/-!
SUPPORT. Sensors and the shutdown, allowance windows, the repair of vertical lanes, and the statement about them (01_package R20 to
R25, R31 to R33, 21_throttling R373 to R376).
-/
namespace Sys2Proof.Machine

/-! ### A sample (R20 to R23, R162, R167) -/

/-- What a sample leaves to the sensor and the shutdown alone: memory, the state of the start, the sensors. -/
def State.steady (s : State) : List Host.Cell × Start × Vector Sensor 84 := (s.mem, s.boot, s.sensors)

@[simp] theorem steady_ite (c : Prop) [Decidable c] (s t : State) :
    (if c then s else t).steady = if c then s.steady else t.steady := apply_ite State.steady c s t

section
variable (s : State)

@[simp] theorem State.modLayer_steady (i : Nat) (f : Layer → Layer) : (s.modLayer i f).steady = s.steady := rfl
@[simp] theorem State.heatCopies_steady (i : Nat) : (s.heatCopies i).steady = s.steady := rfl

@[simp] theorem State.reRefresh_steady (i : Nat) : (s.reRefresh i).steady = s.steady := by
  refine List.foldlRecOn (motive := fun t : State => t.steady = s.steady) _ _ rfl fun t ht j _ => ?_
  split
  · exact ht
  · exact ht
@[simp] theorem State.setInterval_steady (i : Nat) : (s.setInterval i).steady = s.steady := by
  simp [State.setInterval]
@[simp] theorem State.shortenBlocks_steady (i : Nat) : (s.shortenBlocks i).steady = s.steady :=
  List.foldlRecOn (motive := fun t : State => t.steady = s.steady) _ _ rfl fun _ ht _ _ => ht
@[simp] theorem State.vaultZone_steady (i old new : Nat) : (s.vaultZone i old new).steady = s.steady := by
  simp [State.vaultZone]

/-- A sensor's record after a sample (R20, R21). -/
def State.sampled (s : State) (j : Nat) (temp : BitVec 16) : Sensor :=
  { temp := temp, valid := true, zone := BitVec.ofNat 2 (zoneAfter temp.toInt (s.sensor j).zone.toNat), stamp := BitVec.ofNat 32 s.timebase }

/-- What a sample does below the shutdown: its sensor's record, and what a change of zone brings about. -/
def State.recordSample (s : State) (j : Nat) (temp : BitVec 16) : State :=
  let s1 := { s with sensors := vset s.sensors j (s.sampled j temp) }
  let old := (s.sensor j).zone.toNat
  let z := zoneAfter temp.toInt old
  match vaultSensorLayer j with
  | some i => if z = old ∧ (s.layer i).vcap = capOfZone z then s1 else s1.vaultZone i old z
  | none => s1

theorem State.sample_eq_recordSample (j : Nat) (temp : BitVec 16) : s.sample j temp =
    if 1840 < temp.toInt then (s.recordSample j temp).thermalShutdown j else s.recordSample j temp := rfl
/-- Of memory, the start and the sensors, only the record of the sensor itself changes. -/
theorem State.recordSample_steady (j : Nat) (temp : BitVec 16) :
    (s.recordSample j temp).steady = (s.mem, s.boot, vset s.sensors j (s.sampled j temp)) := by
  simp only [State.recordSample]
  split
  · rw [steady_ite, State.vaultZone_steady, ite_self]
    rfl
  · rfl
theorem State.recordSample_mem (j : Nat) (temp : BitVec 16) : (s.recordSample j temp).mem = s.mem :=
  congrArg (·.1) (s.recordSample_steady j temp)
theorem State.recordSample_boot (j : Nat) (temp : BitVec 16) : (s.recordSample j temp).boot = s.boot :=
  congrArg (·.2.1) (s.recordSample_steady j temp)
theorem State.recordSample_sensors (j : Nat) (temp : BitVec 16) :
    (s.recordSample j temp).sensors = vset s.sensors j (s.sampled j temp) :=
  congrArg (·.2.2) (s.recordSample_steady j temp)
theorem State.sample_cool {j : Nat} {temp : BitVec 16} (hj : j < 84) (hcool : temp.toInt ≤ 1840) :
    (s.sample j temp).mem = s.mem ∧ (s.sample j temp).sensor j = s.sampled j temp := by
  rw [State.sample_eq_recordSample, if_neg (by omega), State.sensor, State.recordSample_sensors, vget_vset_same _ _ _ hj]
  exact ⟨s.recordSample_mem j temp, rfl⟩

/-- A shutdown that is not already under way (R23, R76). -/
theorem State.thermalShutdown_begins (j : Nat) (h : ¬ (s.boot.down = true ∧ s.boot.why = .thermal)) :
    let t := s.thermalShutdown j
    t.boot.down = true ∧ t.boot.why = .thermal ∧ t.boot.status.code = 7 ∧ t.boot.status.detail = BitVec.ofNat 16 j ∧
      t.launches = [] ∧ t.mem = s.mem := by
  have hnot : ¬ (s.boot.down && s.boot.why == .thermal) = true := by simpa using h
  simp only [State.thermalShutdown, if_neg hnot]
  cases hdown : s.boot.down with
  | false => exact ⟨rfl, rfl, rfl, rfl, rfl, rfl⟩
  | true => exact ⟨hdown, rfl, rfl, rfl, rfl, rfl⟩
theorem State.sample_hot {j : Nat} {temp : BitVec 16} (hhot : 1840 < temp.toInt)
    (h : ¬ (s.boot.down = true ∧ s.boot.why = .thermal)) : let t := s.sample j temp
    t.boot.down = true ∧ t.boot.why = .thermal ∧ t.boot.status.code = 7 ∧ t.boot.status.detail = BitVec.ofNat 16 j ∧
      t.launches = [] ∧ t.mem = s.mem := by
  rw [State.sample_eq_recordSample, if_pos hhot, ← s.recordSample_mem j temp]
  exact (s.recordSample j temp).thermalShutdown_begins j (by rwa [State.recordSample_boot])
end

section
variable {s : State} {j : Nat}

theorem execSensorSample_own (temp : BitVec 16) (hrails : s.boot.rails = true) (hj : j < 84) (hn : s.evNum = 1) :
    execSensorSample j temp s = .next ((s.sample j temp).nextSample j) := by
  simp [execSensorSample, hrails, hn, Nat.not_le.2 hj]
theorem execSensorSample_outside (temp : BitVec 16) (hrails : s.boot.rails = true) (hj : j < 84) (hn : s.evNum ≠ 1) :
    execSensorSample j temp s = .next (s.sample j temp) := by
  simp [execSensorSample, hrails, hn, Nat.not_le.2 hj]
/-- A property of the sample that the choice of the next one does not touch. -/
theorem execSensorSample_has {P : State → Prop} (temp : BitVec 16) (hrails : s.boot.rails = true) (hj : j < 84)
    (hnext : ∀ t : State, P t → P (t.nextSample j)) (h : P (s.sample j temp)) :
    ∃ t, execSensorSample j temp s = .next t ∧ P t := by
  by_cases hn : s.evNum = 1
  · exact ⟨_, execSensorSample_own temp hrails hj hn, hnext _ h⟩
  · exact ⟨_, execSensorSample_outside temp hrails hj hn, h⟩
end

/-! ### Allowance windows (R25, R373, R375) -/

@[simp] theorem State.layer_bumpFree (s : State) (i : Nat) : s.bumpFree.layer i = s.layer i := rfl
@[simp] theorem State.layer_enqueueFirst (s : State) (d c : Nat) (p : Prio) (n : Nat) (e : Instr) (i : Nat) :
    (s.enqueueFirst d c p n e).layer i = s.layer i := rfl

/-- The watch for an overrun only puts an event into the queue. -/
theorem State.watchUsage_cases (s : State) (i : Nat) :
    s.watchUsage i = s ∨ ∃ d, s.watchUsage i = s.enqueueFirst d 0 .low i .allowanceOverrun := by
  simp only [State.watchUsage]
  split
  · exact .inl rfl
  · split
    · exact .inr ⟨_, rfl⟩
    · exact .inl rfl
@[simp] theorem State.watchUsage_layer (s : State) (i k : Nat) : (s.watchUsage i).layer k = s.layer k := by
  obtain h | ⟨d, h⟩ := s.watchUsage_cases i
  · rw [h]
  · rw [h]; rfl
@[simp] theorem State.watchUsage_mem (s : State) (i : Nat) : (s.watchUsage i).mem = s.mem := by
  obtain h | ⟨d, h⟩ := s.watchUsage_cases i
  · rw [h]
  · rw [h]; rfl
@[simp] theorem State.watchUsage_pwrMeas (s : State) (i : Nat) : (s.watchUsage i).pwrMeas = s.pwrMeas := by
  obtain h | ⟨d, h⟩ := s.watchUsage_cases i
  · rw [h]
  · rw [h]; rfl

/-- Operations on one layer after another leave each layer as its own operation does. -/
theorem foldl_layer {P : Layer → Prop} {f : State → Nat → State} (hself : ∀ st i, i < 32 → P ((f st i).layer i))
    (hother : ∀ st i k, k ≠ i → (f st i).layer k = st.layer k) {i : Nat} (hi : i < 32) (l : List Nat) (s : State)
    (h : i ∈ l ∨ P (s.layer i)) : P ((l.foldl f s).layer i) := by
  induction l generalizing s with
  | nil => exact h.resolve_left List.not_mem_nil
  | cons j l ih =>
    refine ih (f s j) ?_
    by_cases hij : i = j
    · subst hij
      exact .inr (hself s i hi)
    · rw [hother s j i hij]
      exact h.imp_left fun hm => (List.mem_cons.1 hm).resolve_left hij

/-- What the boundary of a window does to a layer: a new window with its allowance, and the watch for an overrun (R375). -/
def State.openWindow (allow : Nat → Nat) (t : Nat) (s : State) (i : Nat) : State :=
  (s.modLayer i fun x => x.newWindow (allow i) t).watchUsage i

section
variable (s : State) (allow : Nat → Nat) (t : Nat)

theorem State.foldl_openWindow_mem (l : List Nat) : (l.foldl (State.openWindow allow t) s).mem = s.mem :=
  List.foldlRecOn (motive := fun u : State => u.mem = s.mem) _ _ rfl fun _ hu _ _ => (State.watchUsage_mem ..).trans hu
theorem State.foldl_openWindow_pwrMeas (l : List Nat) : (l.foldl (State.openWindow allow t) s).pwrMeas = s.pwrMeas :=
  List.foldlRecOn (motive := fun u : State => u.pwrMeas = s.pwrMeas) _ _ rfl fun _ hu _ _ =>
    (State.watchUsage_pwrMeas ..).trans hu
theorem State.foldl_openWindow_fresh {i : Nat} (hi : i < 32) (l : List Nat) (hl : i ∈ l) :
    let x := (l.foldl (State.openWindow allow t) s).layer i
    x.used = 0 ∧ x.overran = false := by
  refine foldl_layer (P := fun x => x.used = 0 ∧ x.overran = false) (fun st k hk => ?_) (fun st k m hm => ?_) hi l s (.inl hl)
  · rw [State.openWindow, State.watchUsage_layer, State.layer_modLayer_same _ _ hk]
    exact ⟨rfl, rfl⟩
  · rw [State.openWindow, State.watchUsage_layer, State.layer_modLayer_ne _ _ hm]
end

/-- The boundary of a window takes the measured power, opens the window of every layer, and puts the next boundary on its way. -/
theorem execAllowanceWindowBoundary_due {s : State} (meas : BitVec 16) (hep : s.evNum = s.epoch)
    (hbound : s.timebase % 44800 = 0) (hrails : s.boot.rails = true) :
    ∃ (s2 : State) (allow : Nat → Nat) (next : BitVec 16), s2.mem = s.mem ∧ s2.pwrMeas = meas ∧
      execAllowanceWindowBoundary meas s = .next ((((List.range 32).foldl (State.openWindow allow s.tick) s2).enqueueFirst
        (s.tick + 44800) 0 .low s.epoch (.allowanceWindowBoundary next)).bumpFree) := by
  have hdue : ¬ (s.evNum ≠ s.epoch ∨ s.timebase % 44800 ≠ 0 ∨ s.boot.rails = false) := by simp [hep, hbound, hrails]
  let s1 := { s with pwrMeas := meas }
  let s2 := { s1 with limiting := (List.range 32).any fun i => decide (s1.powerValue i < s1.allowCeil i) }
  let allow (i : Nat) : Nat := min (s1.allowCeil i) (s1.powerValue i)
  let s3 := (List.range 32).foldl (State.openWindow allow s.tick) s2
  refine ⟨s2, allow, s3.freeVal.setWidth 16, rfl, rfl, ?_⟩
  rw [execAllowanceWindowBoundary, if_neg hdue]
  rfl

/-! ### Vertical lanes (R31 to R33) -/

section
variable {s : State} {p lane : Nat}

theorem State.path_setPath_same (x : Path) (hw : Sparse.wf (fun _ => Path.reset) s.paths = true) : (s.setPath p x).path p = x :=
  Sparse.get_set_same _ _ _ _ hw
theorem State.repairPath_of_sound (h : (s.path p).failing = []) : s.repairPath p = s := by
  simp [State.repairPath, h]

section
variable (hp : pathExists p = true) (hl : lane < 152) (hnew : (s.path p).failing.contains lane = false)
  (hnot : (s.path p).exhausted = false)
include hp hl hnew hnot

/-- A new failure of a lane of a path is none of the reports that change nothing. -/
theorem laneFails_guard :
    ¬ (pathExists p = false ∨ 152 ≤ lane ∨ (s.path p).failing.contains lane = true ∨ (s.path p).exhausted = true) := by
  rw [hp, hnew, hnot]
  simp [hl]
theorem State.laneFails_exhausts (hfull : (s.path p).spares ≤ (s.path p).failing.length) :
    s.laneFails p lane = (s.setPath p { (s.path p) with exhausted := true }).fenceLayer (pathLayer p) := by
  rw [State.laneFails, if_neg (laneFails_guard hp hl hnew hnot), if_pos hfull]
theorem State.laneFails_spared (hroom : (s.path p).failing.length < (s.path p).spares) :
    s.laneFails p lane = (s.setPath p { (s.path p) with failing := (s.path p).failing ++ [lane] }).repairPath p := by
  rw [State.laneFails, if_neg (laneFails_guard hp hl hnew hnot), if_neg (Nat.not_le.2 hroom)]
end

theorem execLaneMarginTest_idle (bad : List Nat) (hn : s.evNum = 0) (hp : pathExists p = true) (hrails : s.boot.rails = true)
    (hidle : s.pathIdle p = true) : execLaneMarginTest p bad s = .next (bad.foldl (fun st b => st.laneFails p b) s) := by
  simp [execLaneMarginTest, hn, hp, hrails, hidle, State.marginBad]
theorem execLaneMarginTest_busy (bad : List Nat) (hn : s.evNum = 0) (hp : pathExists p = true) (hrails : s.boot.rails = true)
    (hidle : s.pathIdle p = false) :
    execLaneMarginTest p bad s = .next (s.enqueue (s.tick + 1) 0 .high 0 (.laneMarginTest p bad)) := by
  simp [execLaneMarginTest, hn, hp, hrails, hidle]

section
variable (hq : (s.path s.evNum).quiesced = true)
include hq

theorem execLaneSpareSwap_swaps (hf : (s.path s.evNum).failing ≠ [])
    (hdrained : s.onPath s.evNum (s.path s.evNum).since = false ∨ (s.path s.evNum).since + 200 ≤ s.tick) :
    execLaneSpareSwap s = .next ((s.setPath s.evNum { (s.path s.evNum) with
      spares := (s.path s.evNum).spares - (s.path s.evNum).failing.length, failing := [] }).later 64 s.evNum
        .laneRepairRelease) := by
  have hnow : ¬ (s.onPath s.evNum (s.path s.evNum).since && decide (s.tick < (s.path s.evNum).since + 200)) = true := by
    rcases hdrained with h | h
    · simp [h]
    · simp [Nat.not_lt.2 h]
  have hrepair : (!(s.path s.evNum).quiesced || (s.path s.evNum).failing.isEmpty) = false := by simp [hq, hf]
  simp only [execLaneSpareSwap, hrepair, if_neg hnow]
  rfl
theorem execLaneSpareSwap_waits (hf : (s.path s.evNum).failing ≠ []) (hon : s.onPath s.evNum (s.path s.evNum).since = true)
    (ht : s.tick < (s.path s.evNum).since + 200) : execLaneSpareSwap s = .next (s.later 1 s.evNum .laneSpareSwap) := by
  simp [execLaneSpareSwap, hq, hf, hon, ht]
theorem execLaneRepairRelease_releases : execLaneRepairRelease s =
    .next ((s.setPath s.evNum { (s.path s.evNum) with quiesced := false }).repairPath s.evNum) := by
  simp [execLaneRepairRelease, hq]
end
end

/-- Settles O58: each clause is the law of its event; what a sample does is `State.sample_eq_recordSample`. -/
theorem sensorsWindowsAndLanes : Obligations.SensorsWindowsAndLanes := by
  intro s j p lane temp meas bad x
  refine ⟨fun hrails hj hcool => ?_, fun hrails hj hhot hnot => ?_, fun hrails hj => ?_, fun hep hbound hrails => ?_, ?_, ?_,
    fun hn hp hrails hidle => execLaneMarginTest_idle bad hn hp hrails hidle,
    fun hn hp hrails hidle => execLaneMarginTest_busy bad hn hp hrails hidle, fun hq hf => ?_, fun hq => ?_⟩
  · obtain ⟨hmem, hsensor⟩ := s.sample_cool hj hcool
    exact execSensorSample_has (P := fun t => t.mem = s.mem ∧ (t.sensor j).temp = temp ∧ (t.sensor j).valid = true ∧
      (t.sensor j).zone = BitVec.ofNat 2 (zoneAfter temp.toInt (s.sensor j).zone.toNat)) temp hrails hj (fun _ h => h)
      ⟨hmem, by rw [hsensor]; exact ⟨rfl, rfl, rfl⟩⟩
  · exact execSensorSample_has (P := fun t => t.boot.down = true ∧ t.boot.why = .thermal ∧ t.boot.status.code = 7 ∧
      t.boot.status.detail = BitVec.ofNat 16 j ∧ t.launches = [] ∧ t.mem = s.mem) temp hrails hj (fun _ h => h)
      (s.sample_hot hhot hnot)
  · exact ⟨execSensorSample_own temp hrails hj, execSensorSample_outside temp hrails hj⟩
  · obtain ⟨s2, allow, next, hmem, hmeas, hnext⟩ := execAllowanceWindowBoundary_due meas hep hbound hrails
    refine ⟨_, hnext, ?_, ?_, fun i hi => ?_⟩
    · rw [State.bumpFree_pwrMeas, State.enqueueFirst_pwrMeas, State.foldl_openWindow_pwrMeas, hmeas]
    · rw [State.bumpFree_mem, State.enqueueFirst_mem, State.foldl_openWindow_mem, hmem]
    · rw [State.layer_bumpFree, State.layer_enqueueFirst]
      exact s2.foldl_openWindow_fresh allow s.tick hi _ (List.mem_range.2 hi)
  · intro y hn hzero hfree hover
    exact congrArg _ (if_pos ⟨hn, hzero, hfree, hover⟩)
  · intro z hp hl hnew hnot
    exact ⟨fun hfull => congrArg _ (State.laneFails_exhausts hp hl hnew hnot hfull),
      fun hroom => congrArg _ (State.laneFails_spared hp hl hnew hnot hroom)⟩
  · exact ⟨execLaneSpareSwap_swaps hq hf, execLaneSpareSwap_waits hq hf⟩
  · have hrel := execLaneRepairRelease_releases hq
    refine ⟨hrel, fun hf hwf => hrel.trans (congrArg _ (State.repairPath_of_sound ?_))⟩
    rw [State.path_setPath_same _ hwf]
    exact hf

end Sys2Proof.Machine
end

section
/-!
SUPPORT. Flits, links that go down and come back, what other packages ask of this one, its id, and the statement about them
(02_span_links R35 to R43, 10_consistency R201, 18_messages_barriers R321).
-/
namespace Sys2Proof.Machine

/-! ### A link of the state -/

section
variable (s : State) {l : Nat}

theorem State.spanLink_modSpan_same (f : SpanLink → SpanLink) (hl : l < 16) :
    (s.modSpan l f).spanLink l = f (s.spanLink l) := vget_vset_same _ _ _ hl
@[simp] theorem State.spanLink_later (d n : Nat) (e : Instr) (k : Nat) : (s.later d n e).spanLink k = s.spanLink k := rfl
@[simp] theorem State.spanLink_countCorr (d k : Nat) : (s.countCorr d).spanLink k = s.spanLink k := rfl

/-- A link whose replay buffer is sent again (R36). -/
def SpanLink.resent (x : SpanLink) : SpanLink :=
  { x with sent := (x.replay.map fun e => (e.dst, { e.flit with ack := x.rxSeq })).reverse ++ x.sent,
           replay := x.replay.map fun e => { e with replays := e.replays + 1 } }
theorem SpanLink.resent_of_empty {x : SpanLink} (h : x.replay = []) : x.resent = x := by
  obtain ⟨⟩ := x
  cases h
  rfl
/-- An empty replay buffer is no exception: `State.resend` then leaves the state, and `resent` the link. -/
theorem State.spanLink_resend (hl : l < 16) : (s.resend l).spanLink l = (s.spanLink l).resent := by
  rw [State.resend]
  split
  · next hempty => rw [SpanLink.resent_of_empty (List.isEmpty_iff.1 hempty)]
  · rw [State.spanLink_countCorr, State.spanLink_modSpan_same _ _ hl]
    rfl
end

/-! ### A flit comes (R35 to R37) -/

/-- What a flit in order does ahead of its packet: it is taken, its slot with it, and its header is carried out. -/
def State.takeInOrder (s : State) (l : Nat) (f : Flit) : State :=
  (s.modSpan l fun x => ({ x with rxSeq := f.seq, nak := false, awaits := false }).takeFlit f).flitHeader l f

/-- A flit passes its check: it is taken in order, with the packet that it completes, or it is out of order, and a NAK is owed from
the first such flit on. -/
def State.flitPassed (s : State) (l : Nat) (f : Flit) : State :=
  if f.seq ≠ (s.spanLink l).rxSeq + 1 then
    if (s.spanLink l).awaits then s
    else (s.modSpan l fun x => { x with nak := true, awaits := true }).later 0 l .outboundQueueSend
  else
    match f.packet with
    | some p => if f.pos = 0 ∨ f.pos = 1 then s.takeInOrder l f else (s.takeInOrder l f).flitPacket l f.slot.toNat p
    | none => s.takeInOrder l f

section
variable {s : State} {l : Nat} {f : Flit}

theorem State.flitPassed_outOfOrder (hseq : f.seq ≠ (s.spanLink l).rxSeq + 1) (ha : (s.spanLink l).awaits = false) :
    s.flitPassed l f = (s.modSpan l fun x => { x with nak := true, awaits := true }).later 0 l .outboundQueueSend := by
  rw [State.flitPassed, if_pos hseq, if_neg (Bool.not_eq_true _ ▸ ha)]
theorem State.flitPassed_discarded (hseq : f.seq ≠ (s.spanLink l).rxSeq + 1) (ha : (s.spanLink l).awaits = true) :
    s.flitPassed l f = s := by
  rw [State.flitPassed, if_pos hseq, if_pos ha]
theorem State.flitPassed_noPacket (hseq : f.seq = (s.spanLink l).rxSeq + 1) (hp : f.packet = none) :
    s.flitPassed l f = s.takeInOrder l f := by
  rw [State.flitPassed, if_neg (not_not_intro hseq), hp]
theorem State.flitPassed_lastOfPacket {p : Packet} (hseq : f.seq = (s.spanLink l).rxSeq + 1) (hp : f.packet = some p)
    (hpos : f.pos = 2 ∨ f.pos = 3) : s.flitPassed l f = (s.takeInOrder l f).flitPacket l f.slot.toNat p := by
  have hlast : ¬ (f.pos = 0 ∨ f.pos = 1) := by
    rcases hpos with h | h <;> rw [h] <;> decide
  rw [State.flitPassed, if_neg (not_not_intro hseq), hp]
  exact if_neg hlast
end

section
variable {s : State} {l : Nat} {f : Flit} (hl : l < 16) (hw : (s.spanLink l).works = true)
include hl hw

/-- A flit that is received and fails its check, or passes it. -/
theorem execFlitReceive_works : execFlitReceive l f s = .next (if !f.crcOk || !f.reservedZero then
      (s.modSpan l SpanLink.countFlit).flitFails l f.lane
    else (s.modSpan l SpanLink.countFlit).flitPassed l f) := by
  have hreceived : ¬ (decide (16 ≤ l) || !(s.spanLink l).works) = true := by simp [hl, hw]
  rw [execFlitReceive, if_neg hreceived]
  rfl
theorem execFlitReceive_badCheck (hbad : f.crcOk = false ∨ f.reservedZero = false) :
    execFlitReceive l f s = .next ((s.modSpan l SpanLink.countFlit).flitFails l f.lane) := by
  have hfails : (!f.crcOk || !f.reservedZero) = true := by
    rcases hbad with h | h <;> simp [h]
  rw [execFlitReceive_works hl hw, if_pos hfails]
theorem execFlitReceive_passes (hcrc : f.crcOk = true) (hres : f.reservedZero = true) :
    execFlitReceive l f s = .next ((s.modSpan l SpanLink.countFlit).flitPassed l f) := by
  rw [execFlitReceive_works hl hw, if_neg (by simp [hcrc, hres])]
end

/-! ### What a link sends, and a link that goes down or comes back (R36, R37, R40, R43) -/

/-- A link that has gone down, when only ordered packets waited on it: it holds what has not been acknowledged, and the packages whose
ordered traffic it carried wait for RESEND (R40). -/
def SpanLink.goneDown (x : SpanLink) (carried : List (BitVec 12)) : SpanLink :=
  { SpanLink.reset with
    txSeq := x.txSeq, rxSeq := x.rxSeq, heldPk := x.heldPk ++ x.replay.filterMap (·.src), affected := x.affected ++ carried,
    outq := x.outq, rxq := x.rxq.map fun e => (256, e.2), sent := x.sent }

section
variable {s : State}

theorem execOutboundQueueSend_works (hw : (s.spanLink s.evNum).works = true) : execOutboundQueueSend s =
    .next (s.modSpan s.evNum fun x => (({ x with outq := [] }).drain x.outq).sendOwed 256) := by
  rw [execOutboundQueueSend, if_pos hw]
theorem execLinkDown_ordered (ho : ∀ e ∈ (s.spanLink s.evNum).outq, isOrdered e.pk = true) :
    execLinkDown s = .next (s.modSpan s.evNum fun x =>
      { x.goneDown (s.carries s.evNum) with outq := x.outq.filter fun e => isOrdered e.pk }) := by
  have hnone : (s.spanLink s.evNum).outq.filter (fun e => !isOrdered e.pk) = [] :=
    List.filter_eq_nil_iff.2 fun e he => by simp [ho e he]
  simp only [execLinkDown, hnone]
  rfl
theorem execLinkDown_holds (hl : s.evNum < 16) (ho : ∀ e ∈ (s.spanLink s.evNum).outq, isOrdered e.pk = true) :
    ∃ t, execLinkDown s = .next t ∧ t.spanLink s.evNum = (s.spanLink s.evNum).goneDown (s.carries s.evNum) := by
  refine ⟨_, execLinkDown_ordered ho, ?_⟩
  rw [State.spanLink_modSpan_same _ _ hl, List.filter_eq_self.2 ho]
  rfl
theorem execLinkRetrainDone_resends {w : BitVec 4} (hl : s.evNum < 16) (hr : (s.spanLink s.evNum).retrain = some w) :
    ∃ t, execLinkRetrainDone s = .next t ∧
      t.spanLink s.evNum = ({ (s.spanLink s.evNum) with width := w, retrain := none } : SpanLink).resent := by
  refine ⟨_, by simp only [execLinkRetrainDone, hr]; rfl, ?_⟩
  rw [State.spanLink_later, State.spanLink_resend _ hl, State.spanLink_modSpan_same _ _ hl]
theorem execRemoteMessagePresent_head {l : Nat} {p : Packet} (hh : (s.spanLink l).rxq.head?.map Prod.snd = some p) :
    execRemoteMessagePresent l p s = .next (s.presentHead l) := by
  rw [execRemoteMessagePresent, if_pos hh]
end

/-! ### Accesses and notices (R41, R42) -/

/-- What an access of another package finds at its place: the answer, and the state behind it. -/
def State.remoteDone (s : State) (op : AccOp) (pa : Nat) (tr : Bool) : Answer × State :=
  (s.call pa).atPlace 0 op 0 pa (keyOf (offOf pa)) tr
/-- A package that asked for a word watches it, where its access waits for the word's state and has failed (R42). -/
def State.watchedBy (s : State) (src : BitVec 12) (op : AccOp) (pa : Nat) (ans : Answer) : State :=
  if ans = .notReady ∧ watchOps op = true ∧ s.watches.contains (src, keyOf (offOf pa)) = false then
    { s with watches := s.watches ++ [(src, keyOf (offOf pa))] }
  else s

section
variable {s : State} {src : BitVec 12} {rid pa : Nat} {op : AccOp} {tr : Bool}

theorem State.watchedBy_answered {ans : Answer} (hans : ans ≠ .notReady) : s.watchedBy src op pa ans = s :=
  if_neg fun h => hans h.1
theorem State.watchedBy_notReady (hw : watchOps op = true) (hnew : s.watches.contains (src, keyOf (offOf pa)) = false) :
    s.watchedBy src op pa .notReady = { s with watches := s.watches ++ [(src, keyOf (offOf pa))] } :=
  if_pos ⟨rfl, hw, hnew⟩
theorem execRemoteAccessArrive_foreign (hp : pkgOf pa ≠ s.pkgId) : execRemoteAccessArrive src rid op pa tr s = .next s := by
  rw [execRemoteAccessArrive, if_pos hp]

section
variable (hp : pkgOf pa = s.pkgId)
include hp

theorem execRemoteAccessArrive_waits
    (hr : ¬ (s.placeReady s.distCore (memAgent pa) pa s.tick = true ∧ (accStores op && s.portTaken pa) = false)) :
    execRemoteAccessArrive src rid op pa tr s =
      .next (s.enqueueFirst (s.tick + 1) 0 .low 0 (.remoteAccessArrive src rid op pa tr)) := by
  have hbusy : (!s.placeReady s.distCore (memAgent pa) pa s.tick || (accStores op && s.portTaken pa)) = true := by
    rcases Decidable.not_and_iff_not_or_not.1 hr with h | h
    · rw [eq_false_of_ne_true h, Bool.not_false, Bool.true_or]
    · rw [eq_true_of_ne_false h, Bool.or_true]
  rw [execRemoteAccessArrive, if_neg (not_not_intro hp), if_pos hbusy]

section
variable (hr : s.placeReady s.distCore (memAgent pa) pa s.tick = true ∧ (accStores op && s.portTaken pa) = false)
  (hplace : placeOf (offOf pa) ≠ .unassigned)
include hr hplace

theorem execRemoteAccessArrive_performs :
    execRemoteAccessArrive src rid op pa tr s = .next (if rid = 0 then
        (s.remoteDone op pa tr).2.watchedBy src op pa (s.remoteDone op pa tr).1
      else ((s.remoteDone op pa tr).2.watchedBy src op pa (s.remoteDone op pa tr).1).toSpan src
        (.response rid (s.remoteDone op pa tr).1)) := by
  have hfree : ¬ (!s.placeReady s.distCore (memAgent pa) pa s.tick || (accStores op && s.portTaken pa)) = true := by
    simp only [hr.1, hr.2]
    decide
  simp only [execRemoteAccessArrive, if_neg (not_not_intro hp), if_neg hfree, if_neg hplace]
  rfl
theorem execRemoteAccessArrive_answered (hd : (s.remoteDone op pa tr).1 ≠ .notReady) :
    execRemoteAccessArrive src rid op pa tr s = .next (if rid = 0 then (s.remoteDone op pa tr).2
      else (s.remoteDone op pa tr).2.toSpan src (.response rid (s.remoteDone op pa tr).1)) := by
  rw [execRemoteAccessArrive_performs hp hr hplace, State.watchedBy_answered hd]
theorem execRemoteAccessArrive_watches (hd : (s.remoteDone op pa tr).1 = .notReady) (hw : watchOps op = true)
    (hnew : (s.remoteDone op pa tr).2.watches.contains (src, keyOf (offOf pa)) = false) (hrid : rid ≠ 0) :
    execRemoteAccessArrive src rid op pa tr s =
      .next (({ (s.remoteDone op pa tr).2 with
        watches := (s.remoteDone op pa tr).2.watches ++ [(src, keyOf (offOf pa))] } : State).toSpan src
          (.response rid .notReady)) := by
  rw [execRemoteAccessArrive_performs hp hr hplace, if_neg hrid, hd, State.watchedBy_notReady hw hnew]
end
end

theorem execRemoteWakeNotice_unwatched (h : ∀ x ∈ s.watches, x.2 ≠ s.evNum / 3) : execRemoteWakeNotice s = .next s := by
  have hnone : s.watches.filter (fun w => w.2 == s.evNum / 3) = [] :=
    List.filter_eq_nil_iff.2 fun x hx => by simp [h x hx]
  simp only [execRemoteWakeNotice, hnone]
  rfl
theorem execRemoteWakeNotice_filled {x : BitVec 12} (h : s.watches = [(x, s.evNum / 3)]) (hfill : s.evNum % 3 = 1) :
    execRemoteWakeNotice s = .next (s.toSpan x (.wake (s.pkgId.toNat * 2 ^ 44 + s.evNum / 3) (some true))) := by
  simp [execRemoteWakeNotice, h, hfill]

/-! ### The package id (R38) -/

theorem execSpanIdSet_set (v : Word) (h : s.pkgSet = true) : execSpanIdSet v s = .next s := by
  rw [execSpanIdSet, if_pos h]
theorem execSpanIdSet_unset (v : Word) (h : s.pkgSet = false) :
    execSpanIdSet v s = .next { s with pkgId := v.setWidth 12, pkgSet := v.getLsbD 12 } := by
  rw [execSpanIdSet, if_neg (by simp [h]), bitOf, BitVec.testBit_toNat]
end

/-- Settles O60: each clause is the law of its event. -/
theorem spanLinks : Obligations.SpanLinks := by
  intro s l rid pa f p v src op tr w s0
  refine ⟨fun hl hw => ?_, execOutboundQueueSend_works, fun hl ho => ?_, fun hl hr => ?_, rfl, execRemoteMessagePresent_head, rfl,
    fun hl _ => ?_,
    execRemoteAccessArrive_foreign, fun hp => ⟨execRemoteAccessArrive_waits hp, execRemoteAccessArrive_answered hp,
      execRemoteAccessArrive_watches hp⟩,
    execRemoteWakeNotice_unwatched, fun _ => execRemoteWakeNotice_filled, execSpanIdSet_set v, execSpanIdSet_unset v⟩
  · have hpass (hcrc : f.crcOk = true) (hres : f.reservedZero = true) : exec (.flitReceive l f) s = .next (s0.flitPassed l f) :=
      execFlitReceive_passes hl hw hcrc hres
    exact ⟨fun hcrc hres hseq ha => (hpass hcrc hres).trans (congrArg _ (State.flitPassed_outOfOrder hseq ha)),
      fun hcrc hres hseq ha => (hpass hcrc hres).trans (congrArg _ (State.flitPassed_discarded hseq ha)),
      execFlitReceive_badCheck hl hw,
      fun hcrc hres hseq => ⟨fun hp => (hpass hcrc hres).trans (congrArg _ (State.flitPassed_noPacket hseq hp)),
        fun hp hpos => (hpass hcrc hres).trans (congrArg _ (State.flitPassed_lastOfPacket hseq hp hpos))⟩⟩
  · obtain ⟨t, hnext, ht⟩ := execLinkDown_holds hl ho
    refine ⟨t, hnext, ?_⟩
    rw [ht]
    exact ⟨rfl, rfl, rfl, rfl, rfl⟩
  · obtain ⟨t, hnext, ht⟩ := execLinkRetrainDone_resends hl hr
    refine ⟨t, hnext, ?_⟩
    rw [ht]
    exact ⟨rfl, rfl⟩
  · rw [State.spanLink_resend _ hl]
    rfl

end Sys2Proof.Machine
end

section
/-!
SUPPORT. Events that are put on their way, the launch table and the completion history, what each event of a launch's life does, and
the statement about them (03_host_interface R54, R63 to R67, 05_distribution R82 to R100, R432).
-/
namespace Sys2Proof.Machine

/-! ### Events put on their way -/

/-- Two states that differ in no more than the events on their way. -/
def State.QueueOnly (s t : State) : Prop := t = { s with queue := t.queue }

namespace State.QueueOnly
variable {s t u : State}

theorem refl (s : State) : s.QueueOnly s := rfl
theorem trans (h : s.QueueOnly t) (k : t.QueueOnly u) : s.QueueOnly u := by
  rw [State.QueueOnly, k, h]
theorem foldl {α : Type} {f : State → α → State} (hf : ∀ (st : State) x, st.QueueOnly (f st x)) (s : State) (l : List α) :
    s.QueueOnly (l.foldl f s) :=
  List.foldlRecOn (motive := s.QueueOnly) l f (refl s) fun st hst x _ => hst.trans (hf st x)
theorem launches (h : s.QueueOnly t) : t.launches = s.launches := (congrArg State.launches h :)
theorem history (h : s.QueueOnly t) : t.history = s.history := (congrArg State.history h :)
theorem foldOps (h : s.QueueOnly t) : t.foldOps = s.foldOps := (congrArg State.foldOps h :)
end State.QueueOnly

section
variable (s : State)

theorem State.queueOnly_later (d n : Nat) (e : Instr) : s.QueueOnly (s.later d n e) := rfl
theorem State.queueOnly_pokeStarts : s.QueueOnly s.pokeStarts := by
  refine State.QueueOnly.foldl (fun st l => ?_) _ _
  split
  · exact st.queueOnly_later ..
  · exact .refl st
theorem State.queueOnly_pokeSweeps : s.QueueOnly s.pokeSweeps :=
  State.QueueOnly.foldl (fun st _ => st.queueOnly_later ..) _ _
theorem State.queueOnly_pokeQueues : s.QueueOnly s.pokeQueues := by
  refine State.QueueOnly.foldl (fun st x => ?_) _ _
  generalize (if ((s.link x.1).queue x.2).kind then Instr.pageMoveRequest x.1 x.2 else .recordAccept x.1 x.2) = ev
  dsimp only
  split
  · exact .refl st
  · rfl
end

/-! ### The launch table and the history (R54, R63, R66) -/

theorem State.lid_of_launchOf {s : State} {lid : BitVec 32} {l : Launch} (h : s.launchOf lid = some l) : l.r.lid = lid := by
  simpa using List.find?_some h
theorem State.launchOf_modLaunch (s : State) (lid : BitVec 32) {f : Launch → Launch} (hf : ∀ x, (f x).r.lid = x.r.lid) :
    (s.modLaunch lid f).launchOf lid = (s.launchOf lid).map f := by
  have hkey : ((fun x : Launch => x.r.lid == lid) ∘ fun x => if x.r.lid == lid then f x else x) =
      fun x => x.r.lid == lid := by
    funext x
    simp only [Function.comp]
    split
    · rw [hf]
    · rfl
  rw [State.launchOf, State.modLaunch, List.find?_map, hkey, State.launchOf]
  cases h : s.launches.find? fun x => x.r.lid == lid with
  | none => rfl
  | some l => exact congrArg some (if_pos (List.find?_some h))

theorem State.addHistory_history (s : State) (lid : BitVec 32) (st : BitVec 8) :
    let h := (s.history.filter fun x => x.1 != lid) ++ [(lid, st)]
    (s.addHistory lid st).history = h.drop (h.length - 4096) := by
  simp only [State.addHistory]
theorem State.mem_addHistory (s : State) (lid : BitVec 32) (st : BitVec 8) : (lid, st) ∈ (s.addHistory lid st).history := by
  rw [State.addHistory_history, List.drop_append_of_le_length]
  · exact List.mem_append_right _ (List.mem_singleton_self _)
  · rw [List.length_append, List.length_singleton]
    omega
theorem State.status_of_mem_addHistory {s : State} {lid : BitVec 32} {st y : BitVec 8}
    (h : (lid, y) ∈ (s.addHistory lid st).history) : y = st := by
  rw [State.addHistory_history] at h
  simpa using List.mem_of_mem_drop h

/-- A launch is over: it is gone from the table, and the history has it with this status alone (R63, R66). -/
def State.Ended (s : State) (lid : BitVec 32) (st : BitVec 8) : Prop :=
  s.launchOf lid = none ∧ (lid, st) ∈ s.history ∧ ∀ y, y ≠ st → (lid, y) ∉ s.history

theorem State.QueueOnly.ended {s t : State} {lid : BitVec 32} {st : BitVec 8} (h : s.QueueOnly t) (hs : s.Ended lid st) :
    t.Ended lid st := by
  rwa [State.Ended, State.launchOf, h.launches, h.history]

/-- A dependent keeps its id when it learns of a completion (R64). -/
theorem Launch.predDone_lid (d : Launch) (lid : BitVec 32) (st : BitVec 8) (now : Nat) : (d.predDone lid st now).r.lid = d.r.lid := by
  simp only [Launch.predDone]
  (repeat' split) <;> rfl
theorem State.launchOf_forget (s : State) (l : Launch) (st : BitVec 8) : (s.forget l st).launchOf l.r.lid = none := by
  have hlaunches : (s.forget l st).launches =
      (s.launches.filter fun x => x.r.lid != l.r.lid).map fun d => d.predDone l.r.lid st s.timebase :=
    (State.QueueOnly.foldl (fun u _ => u.queueOnly_later ..) _ _).launches
  refine List.find?_eq_none.2 fun x hx => ?_
  obtain ⟨d, hd, rfl⟩ := List.mem_map.1 (hlaunches ▸ hx)
  rw [Launch.predDone_lid]
  simpa using (List.mem_filter.1 hd).2
theorem State.forget_history (s : State) (l : Launch) (st : BitVec 8) : (s.forget l st).history = s.history :=
  (State.QueueOnly.foldl (fun u _ => u.queueOnly_later ..) _ _).history
/-- R63: a launch that completes is over. -/
theorem State.complete_ended (s : State) (l : Launch) (st : BitVec 8) : (s.complete l st).Ended l.r.lid st :=
  (((State.queueOnly_pokeQueues _).trans (State.queueOnly_pokeStarts _)).trans (State.queueOnly_pokeSweeps _)).ended
    ⟨State.launchOf_forget _ l st, by rw [State.forget_history]; exact State.mem_addHistory _ _ _,
      fun y hy h => hy (State.status_of_mem_addHistory (State.forget_history _ l st ▸ h))⟩

/-- The event ends the launch with a status, in its own tick. -/
def Ends (s : State) (lid : BitVec 32) (i : Instr) (st : BitVec 8) : Prop :=
  ∃ t, exec i s = .next t ∧ t.launchOf lid = none ∧ (lid, st) ∈ t.history ∧ (∀ y, y ≠ st → (lid, y) ∉ t.history) ∧
    t.tick = s.tick

theorem ends_of_complete {s : State} {lid : BitVec 32} {l : Launch} {i : Instr} {st : BitVec 8} (hl : l.r.lid = lid)
    (h : exec i s = .next (s.complete l st)) : Ends s lid i st := by
  obtain ⟨hgone, hin, honly⟩ := hl ▸ s.complete_ended l st
  exact ⟨_, h, hgone, hin, honly, (exec_rises i s _ h).tick⟩

theorem State.endUnrun_completes {s : State} {l : Launch} (st : BitVec 8) (hr : s.reportShut l.r = false) :
    ∃ l1 : Launch, l1.r = l.r ∧ s.endUnrun l st = s.complete l1 st := by
  refine ⟨_, ?_, if_neg (by simp [hr])⟩
  rfl

/-! ### The release and the start (R64, R87 to R96) -/

section
variable {s s1 s2 : State} {lid : BitVec 32} {l l1 : Launch}

section
variable (hof : s.launchOf lid = some l) (hv : s.masterVacant = false)
include hof hv

theorem execLaunchStart_releases (hst : l.st = .waiting) (hp : s.openPreds l = []) :
    execLaunchStart lid s = .next ((s.modLaunch lid fun _ => { l with r := { l.r with preds := [] } }).release
      { l with r := { l.r with preds := [] } }) := by
  simp [execLaunchStart, hof, hv, hst, hp]
theorem execLaunchStart_starts {ps : List (Nat × Nat × Nat)} (hst : l.st = .released) (hfirst : s.isFirst l = true)
    (hgraph : l.r.sweep = false) (hfits : (placeAll l (s.openUnfenced l)).isSome = true)
    (hp : placeAll l ((s.openFor l).filter s.coreFree) = some ps) : execLaunchStart lid s =
      .next (s.startOn l ps (((s.openFor l).filter s.coreFree).filter fun c => ps.any fun x => x.2.1 == c)) := by
  have hplace : (placeAll l (s.openUnfenced l)).isNone = false := by rw [← Option.not_isSome, hfits]; rfl
  simp [execLaunchStart, hof, hv, hst, hfirst, hgraph, hplace, State.startGraph, hp]
end

theorem State.release_placeable (hd : s.readDesc l = (.got l1, s2))
    (hp : (placeAll l1 ((s2.dropGroup (distKey l.r.lid)).openUnfenced l1)).isSome = true) :
    let s1 := s2.dropGroup (distKey l.r.lid)
    s.release l = ((s1.modLaunch l.r.lid fun _ =>
      { l1 with st := .released, order := s1.nextId, startT := s1.timebase }).bumpId).later 0 0 (.launchStart l.r.lid) := by
  have hplace := Option.not_isSome _ ▸ congrArg not hp
  simp only [State.release, hd, hplace]
  rfl
theorem State.release_unplaceable (hd : s.readDesc l = (.got l1, s2))
    (hp : (placeAll l1 ((s2.dropGroup (distKey l.r.lid)).openUnfenced l1)).isSome = false) :
    s.release l = (s2.dropGroup (distKey l.r.lid)).endUnrun l 2 := by
  have hplace := Option.not_isSome _ ▸ congrArg not hp
  simp only [State.release, hd, hplace]
  rfl
theorem State.release_bad (hd : s.readDesc l = (.fail, s2)) :
    s.release l = (s2.dropGroup (distKey l.r.lid)).endUnrun l 2 := by
  simp only [State.release, hd]
theorem State.startOn_loaded {x : Loads} (ps : List (Nat × Nat × Nat)) (cs : List Nat)
    (hx : s.readLoads l = (some x, s1)) : let l1 := { l with st := .running, placed := ps, cores := cs }
    s.startOn l ps cs = ((((s1.modLaunch l.r.lid fun _ => l1).giveCores l1 cs ps x).poke l.r.lid).pokeStarts).pokeSweeps := by
  simp only [State.startOn, hx]
end

/-! ### The completion (R22, R63, R94) -/

section
variable {s : State} {lid : BitVec 32} {l : Launch} (hof : s.launchOf lid = some l)
include hof

theorem execLaunchComplete_shut (hr : s.reportShut l.r = true) : execLaunchComplete lid s = .next (s.poke lid) := by
  simp [execLaunchComplete, hof, hr]

section
variable (hr : s.reportShut l.r = false)
include hr

theorem execLaunchComplete_finished (hst : l.st = .finished) :
    execLaunchComplete lid s = .next (s.complete l l.status) := by
  simp [execLaunchComplete, hof, hr, hst]
theorem execLaunchComplete_quiet (hst : l.st = .running) (hq : s.isComplete l = true) :
    execLaunchComplete lid s = .next (s.complete l (if l.lossy then 1 else 0)) := by
  simp [execLaunchComplete, hof, hr, hst, hq]
theorem execLaunchComplete_busy (hst : l.st = .running) (hq : s.isComplete l = false) :
    execLaunchComplete lid s = .next s := by
  simp [execLaunchComplete, hof, hr, hst, hq]
end

end

/-! ### Pre-emption: the save (R97, R100, R120) -/

/-- The cores of a halting launch with the traps taken that their accesses answered with (R120). -/
def State.trapsTaken (s : State) (l : Launch) : State :=
  (s.heldBy l).foldl (fun st c => (st.trapAsync c .low).trapAsync c .high) s
/-- The cores of a launch saved and freed, and their fold operations gone (R100). -/
def State.coresSaved (s : State) (l : Launch) : State :=
  let s2 := (s.heldBy l).foldl (fun st c => st.saveCore l c) ((s.trapsTaken l).unreserve l.r.lid)
  { s2 with foldOps := s2.foldOps.filter fun o => !(o.cores.any fun c => (s.heldBy l).contains c) }

section
variable {s : State} {lid : BitVec 32} {l : Launch}

theorem State.mem_coresSaved_foldOps {o : FoldOp} (ho : o ∈ (s.coresSaved l).foldOps) : ∀ c ∈ o.cores, c ∉ s.heldBy l := by
  simpa using (List.mem_filter.1 ho).2

section
variable (hof : s.launchOf lid = some l) (hst : l.st = .halting)
include hof hst

theorem execPreemptSave_waits (h : (s.heldBy l).all (s.trapsTaken l).coreRests = false ∨ (s.trapsTaken l).releaseOut lid = true) :
    execPreemptSave lid s = .next ((s.trapsTaken l).later 1 0 (.preemptSave lid)) := by
  have hwait : ((s.heldBy l).all (s.trapsTaken l).coreRests && !(s.trapsTaken l).releaseOut lid) = false := by
    rcases h with h | h <;> simp [h]
  rw [State.trapsTaken] at hwait
  simp only [execPreemptSave, hof, hst, hwait]
  rfl
theorem execPreemptSave_saves (hrest : (s.heldBy l).all (s.trapsTaken l).coreRests = true)
    (hno : (s.trapsTaken l).releaseOut lid = false) : execPreemptSave lid s =
      .next ((((s.coresSaved l).modLaunch lid fun x => { x with st := .preempted }).pokeStarts).pokeSweeps) := by
  obtain rfl := State.lid_of_launchOf hof
  rw [State.trapsTaken] at hrest hno
  simp only [execPreemptSave, hof, hst, hrest, hno]
  rfl
end
end

/-! ### Pre-emption: the return (R96, R98) -/

theorem State.filter_unfenced {s : State} {cs : List Nat} (h : ∀ c ∈ cs, s.coreFenced c = false) :
    (cs.filter fun c => !s.coreFenced c) = cs :=
  List.filter_eq_self.2 fun c hc => by rw [h c hc]; rfl

section
variable {s : State} {lid : BitVec 32} {l : Launch} (hof : s.launchOf lid = some l) (hst : l.st = .preempted)
  (hv : s.masterVacant = false) (hfirst : s.isFirst l = true)
include hof hst hv hfirst

theorem execLaunchResume_retakes (h : ((l.cores.filter fun c => !s.coreFenced c).all fun c =>
    s.coreFree c && !s.sweepGets c) = false) :
    execLaunchResume lid s = .next (s.retake l (l.cores.filter fun c => !s.coreFenced c)) := by
  simp only [execLaunchResume, hof, hst, hv, hfirst, h]
  rfl
theorem execLaunchResume_restores {slots : List SlotRead} {s0 : State}
    (h : (l.cores.all fun c => s.coreFree c && !s.sweepGets c) = true) (hack : s.acked (distKey lid) = true)
    (hcores : ∀ c ∈ l.cores, s.coreFenced c = false) (hlost : l.lost = []) (hslots : s.readSlots l l.cores = (some slots, s0)) :
    let l1 := { l with st := .running }
    let s2 := ((s0.dropGroup (distKey lid)).modLaunch lid fun _ => l1).restoreCores l1 slots
    let s3 := { s2 with saved := s2.saved.filter fun x => x.lid != lid }
    execLaunchResume lid s = .next (((((((l.cores.foldl State.restartCore s3).restartFolds l.cores).restartParked lid).findLost
      lid).checkPhases lid).poke lid).pokeStarts.pokeSweeps) := by
  have hall := State.filter_unfenced hcores
  have hgone : ((List.range 32).filter fun i => l.cores.any fun c => s.coreFenced c && coreLayer c == i) = [] :=
    List.filter_eq_nil_iff.2 fun i _ => by simpa using fun c hc hfenced => absurd (hcores c hc) (by simp [hfenced])
  simp only [execLaunchResume, hof, hst, hv, hfirst, hall, h, hack, hslots, hgone, hlost]
  rfl
end

/-! ### CANCEL (R67, R99, R432) -/

section
variable {s : State}

theorem State.haltCores_launches (cs : List Nat) : (s.haltCores cs).launches = s.launches := by
  have hwithdraw : (s.withdrawFolds cs).launches = s.launches :=
    List.foldlRecOn (motive := fun t : State => t.launches = s.launches) _ _ rfl fun t ht o _ =>
      List.foldlRecOn (motive := fun u : State => u.launches = s.launches) _ _ ht fun _ hu _ _ => hu
  exact List.foldlRecOn (motive := fun t : State => t.launches = s.launches) _ _ hwithdraw fun _ ht _ _ => ht
theorem State.pushResume_launches (e : ParkEntry) : (s.pushResume e).launches = s.launches := by
  rw [State.pushResume]
  split
  · rw [State.push]
    split
    · rfl
    · rfl
  · rfl
theorem State.freePark_launches (id : Nat) : (s.freePark id).launches = s.launches := by
  simp only [State.freePark]
  split
  · rfl
  · split
    · exact State.pushResume_launches _
    · rfl
theorem State.dropParts_launches (lid : BitVec 32) : (s.dropParts lid).launches = s.launches :=
  List.foldlRecOn (motive := fun t : State => t.launches = s.launches) _ _ rfl fun _ ht _ _ => (State.freePark_launches _).trans ht

variable {lid : BitVec 32} {l : Launch} {n : Nat}

/-- A launch that runs or halts for a pre-emption stops first (R432). -/
theorem State.cancelLaunch_halts (hof : s.launchOf lid = some l) (hst : l.st = .running ∨ l.st = .halting) :
    ((s.cancelLaunch l).launchOf lid).map (·.st) = some .cancelling := by
  obtain rfl := State.lid_of_launchOf hof
  let s1 := (s.heldBy l).foldl (fun st c => st.modCore c Core.cancelled) (s.haltCores (s.heldBy l))
  have hcancel : s.cancelLaunch l = ((s1.modLaunch l.r.lid fun x => { x with st := .cancelling }).dropParts l.r.lid).later 1 0
      (.cancelCoresFreed l.r.lid) := by
    rcases hst with hst | hst
    · simp only [State.cancelLaunch, hst, s1]
    · simp only [State.cancelLaunch, hst, s1]
  have hs1 : s1.launches = s.launches := List.foldlRecOn (motive := fun t : State => t.launches = s.launches) _ _
    (State.haltCores_launches _) fun _ ht _ _ => ht
  have hfound : s1.launchOf l.r.lid = some l := by rw [State.launchOf, hs1]; exact hof
  rw [hcancel, State.launchOf, (State.queueOnly_later ..).launches, State.dropParts_launches, ← State.launchOf,
    State.launchOf_modLaunch, hfound]
  · rfl
  · exact fun _ => rfl
/-- Any other launch that is not being cancelled completes at once. -/
theorem State.cancelLaunch_completes
    (hst : l.st = .waiting ∨ l.st = .finished ∨ l.st = .released ∨ l.st = .preempted) (hr : s.reportShut l.r = false) :
    ∃ l1 : Launch, l1.r = l.r ∧ s.cancelLaunch l = s.complete l1 5 := by
  rcases hst with hst | hst | hst | hst
  · simpa only [State.cancelLaunch, hst] using State.endUnrun_completes 5 hr
  · simpa only [State.cancelLaunch, hst] using State.endUnrun_completes 5 hr
  · simpa only [State.cancelLaunch, hst] using State.endUnrun_completes 5 hr
  · exact ⟨l, rfl, by simp [State.cancelLaunch, hst, hr]⟩

section
variable (hof : s.launchOf lid = some l)
include hof

theorem execCancel_own (hn : l.r.link = n) : execCancel n lid s = .next (s.cancelLaunch l) := by
  simp [execCancel, hof, hn]
theorem execCancel_foreign (hn : l.r.link ≠ n) : execCancel n lid s = .next s := by
  simp [execCancel, hof, hn]
theorem execCancelCoresFreed_frees (hst : l.st = .cancelling) (hstop : (s.heldBy l).all s.coreStopped = true)
    (hr : s.reportShut l.r = false) : execCancelCoresFreed lid s = .next (s.complete l 5) := by
  simp only [execCancelCoresFreed, hof, hst, hstop, hr]
  rfl
theorem execCancelCoresFreed_waits (hst : l.st = .cancelling) (hstop : (s.heldBy l).all s.coreStopped = false) :
    execCancelCoresFreed lid s = .next (s.later 1 0 (.cancelCoresFreed lid)) := by
  simp only [execCancelCoresFreed, hof, hst, hstop]
  rfl
end
end

/-- Settles O54: each clause is the law of its event; what a completion leaves is `State.complete_ended`. -/
theorem launches : Obligations.Launches := by
  intro s lid l ps hof ends
  have hlid : l.r.lid = lid := State.lid_of_launchOf hof
  have hends {i : Instr} {st : BitVec 8} (h : exec i s = .next (s.complete l st)) :
      exec i s = .next (s.complete l st) ∧ ends i st := ⟨h, ends_of_complete hlid h⟩
  refine ⟨fun hst hv hp => ?_, fun hst hv hfirst hgraph hfits hps => ?_,
    fun hst hr => hends (execLaunchComplete_finished hof hr hst), fun hst hq hr => hends (execLaunchComplete_quiet hof hr hst hq),
    fun hst hq hr => execLaunchComplete_busy hof hr hst hq, execLaunchComplete_shut hof, fun hst => ?_,
    fun hst hv hfirst => ?_, fun n hn => ?_, fun n => execCancel_foreign hof,
    fun hst => ⟨fun hstop hr => hends (execCancelCoresFreed_frees hof hst hstop hr), execCancelCoresFreed_waits hof hst⟩⟩
  · subst hlid
    have hstart := execLaunchStart_releases hof hv hst hp
    exact ⟨hstart, fun l1 s2 hd => ⟨fun hfits => hstart.trans (congrArg _ (State.release_placeable hd hfits)),
        fun hfits => hstart.trans (congrArg _ (State.release_unplaceable hd hfits))⟩,
      fun s2 hd => hstart.trans (congrArg _ (State.release_bad hd))⟩
  · subst hlid
    have hstart := execLaunchStart_starts hof hv hst hfirst hgraph hfits hps
    exact ⟨hstart, fun x s1 hx => hstart.trans (congrArg _ (State.startOn_loaded ps _ hx))⟩
  · refine ⟨fun hrest => execPreemptSave_waits hof hst (.inl hrest), fun _ hout => execPreemptSave_waits hof hst (.inr hout),
      fun hrest hno => ?_⟩
    have hsave := execPreemptSave_saves hof hst hrest hno
    refine ⟨hlid ▸ hsave, _, hsave, fun o ho => State.mem_coresSaved_foldOps ?_, (exec_rises (.preemptSave lid) s _ hsave).tick⟩
    rwa [(State.queueOnly_pokeSweeps _).foldOps, (State.queueOnly_pokeStarts _).foldOps] at ho
  · refine ⟨execLaunchResume_retakes hof hst hv hfirst,
      fun hfree => ⟨comes_of_next rfl, fun slots s0 hack hcores hlost hslots => ?_⟩⟩
    exact execLaunchResume_restores hof hst hv hfirst (State.filter_unfenced hcores ▸ hfree) hack hcores hlost hslots
  · have hcancel := execCancel_own hof hn
    refine ⟨hcancel, fun hst hr => ?_, fun hst => ⟨_, hcancel, State.cancelLaunch_halts hof hst⟩⟩
    obtain ⟨l1, hr1, hdone⟩ := State.cancelLaunch_completes hst hr
    exact ends_of_complete (hr1 ▸ hlid) (hcancel.trans (congrArg _ hdone))

end Sys2Proof.Machine
end

section
/-!
SUPPORT. What the master does with the next slot of a queue, QCTL, function-level reset and the statement about them
(03_host_interface R46, R53 to R69).
-/
namespace Sys2Proof.Machine

/-! ### The next launch record of a queue (R22, R54, R60) -/

/-- The words in the next slot of a queue as the master reads them (R54). -/
def State.nextWords (s : State) (l q : Nat) : List Word := (s.slotMet l q).slotRead l q
/-- The record that they are (R56). -/
def State.nextRecord (s : State) (l q : Nat) : LRec := recordOf l (s.nextWords l q)
/-- Whether that record is valid, but for a repeated id, and its slot is not poisoned (R60; log entry 115). -/
def State.NextValid (s : State) (l q : Nat) : Prop :=
  (s.slotMet l q).slotPoisoned l q = false ∧
    (s.slotMet l q).recordValid (s.nextWords l q) (s.nextRecord l q) = true
/-- Whether its id is known (R60, R65). -/
def State.nextKnown (s : State) (l q : Nat) : Bool := (s.slotMet l q).knows (s.nextRecord l q).lid
/-- The state behind the slot: its header is empty, and COUNT has advanced (R54). -/
def State.nextTaken (s : State) (l q : Nat) : State := (s.slotMet l q).slotDone l q

section
variable {s : State} {l q : Nat}

theorem State.not_nextValid (h : ¬ s.NextValid l q) : (s.slotMet l q).slotPoisoned l q = true ∨
    (s.slotMet l q).recordValid (s.nextWords l q) (s.nextRecord l q) = false := by
  rwa [State.NextValid, Decidable.not_and_iff_not_or_not, Bool.not_eq_false, Bool.not_eq_true] at h
theorem execRecordAccept_notServed (h : s.mayAccept l q false = false) : execRecordAccept l q s = .next s := by
  simp [execRecordAccept, h]

section
variable (hmay : s.mayAccept l q false = true) (hroom : s.launches.length < 1024)
include hmay hroom

theorem execRecordAccept_shut (hshut : s.slotShut l q = true) : execRecordAccept l q s = .next (s.pokeQueue l q) := by
  simp [execRecordAccept, hmay, hroom, hshut]

section
variable (hopen : s.slotShut l q = false)
include hopen

theorem execRecordAccept_enters (hv : s.NextValid l q) (hnew : s.nextKnown l q = false) :
    execRecordAccept l q s = .next ((s.nextTaken l q).enter (s.nextRecord l q)) := by
  obtain ⟨hsound, hvalid⟩ := hv
  rw [State.nextKnown] at hnew
  rw [State.nextRecord, State.nextWords] at hvalid hnew
  simp [execRecordAccept, hmay, hroom, hopen, hsound, hvalid, hnew, State.nextTaken, State.nextRecord, State.nextWords]
theorem execRecordAccept_repeated (hv : s.NextValid l q) (hold : s.nextKnown l q = true)
    (hr : s.reportShut (s.nextRecord l q) = false) :
    execRecordAccept l q s = .next ((s.nextTaken l q).badRecord (s.nextRecord l q) true) := by
  obtain ⟨hsound, hvalid⟩ := hv
  rw [State.nextKnown] at hold
  rw [State.nextRecord, State.nextWords] at hvalid hold hr
  simp [execRecordAccept, hmay, hroom, hopen, hsound, hvalid, hold, hr, State.nextTaken, State.nextRecord, State.nextWords]
theorem execRecordAccept_invalid (hv : ¬ s.NextValid l q) (hr : s.reportShut (s.nextRecord l q) = false) :
    execRecordAccept l q s = .next ((s.nextTaken l q).badRecord (s.nextRecord l q) false) := by
  rw [State.nextRecord, State.nextWords] at hr
  rcases State.not_nextValid hv with hbad | hbad
  · simp [execRecordAccept, hmay, hroom, hopen, hbad, hr, State.nextTaken, State.nextRecord, State.nextWords]
  · rw [State.nextRecord, State.nextWords] at hbad
    simp [execRecordAccept, hmay, hroom, hopen, hbad, hr, State.nextTaken, State.nextRecord, State.nextWords]
end
end

/-! ### The next page-move request of a queue (R22, R68, R69) -/

section
variable (hmay : s.mayAccept l q true = true) (hopen : s.slotShut l q = false)
include hmay hopen

theorem execPageMoveRequest_served : execPageMoveRequest l q s = .next (
    if !(s.nextTaken l q).recordOk ((s.nextWords l q).getD 4 0).toNat 8 then (s.nextTaken l q).countDropped l
    else if (s.slotMet l q).slotPoisoned l q || (s.nextTaken l q).moveBad (s.nextWords l q) then
      (s.nextTaken l q).moveResult (((s.nextWords l q).getD 0 0).setWidth 32) ((s.nextWords l q).getD 4 0).toNat 3
    else if ((s.nextTaken l q).pageAt (((s.nextWords l q).getD 1 0).setWidth 32) ((s.nextWords l q).getD 2 0).toNat).isNone then
      (s.nextTaken l q).moveResult (((s.nextWords l q).getD 0 0).setWidth 32) ((s.nextWords l q).getD 4 0).toNat 2
    else (s.nextTaken l q).delayed.later ((s.nextTaken l q).delay 120) 0
      (.tokenRequest ((s.slotMet l q).moveOf l (s.nextWords l q)))) := by
  rw [execPageMoveRequest, if_pos hmay]
  simp only [hopen, Bool.false_eq_true, if_false]
  rfl
theorem execPageMoveRequest_drops
    (hres : (s.nextTaken l q).recordOk ((s.nextWords l q).getD 4 0).toNat 8 = false) :
    execPageMoveRequest l q s = .next ((s.nextTaken l q).countDropped l) := by
  rw [execPageMoveRequest_served hmay hopen, if_pos (by rw [hres]; rfl)]

section
variable (hres : (s.nextTaken l q).recordOk ((s.nextWords l q).getD 4 0).toNat 8 = true)
include hres

theorem execPageMoveRequest_bad
    (hbad : (s.slotMet l q).slotPoisoned l q = true ∨ (s.nextTaken l q).moveBad (s.nextWords l q) = true) :
    execPageMoveRequest l q s = .next ((s.nextTaken l q).moveResult (((s.nextWords l q).getD 0 0).setWidth 32)
      ((s.nextWords l q).getD 4 0).toNat 3) := by
  rw [execPageMoveRequest_served hmay hopen, if_neg (by rw [hres]; decide), if_pos (Bool.or_eq_true_iff.2 hbad)]

section
variable (hsound : (s.slotMet l q).slotPoisoned l q = false) (hgood : (s.nextTaken l q).moveBad (s.nextWords l q) = false)
include hsound hgood

theorem execPageMoveRequest_sends (hpage : ((s.nextTaken l q).pageAt (((s.nextWords l q).getD 1 0).setWidth 32)
      ((s.nextWords l q).getD 2 0).toNat).isSome = true) :
    execPageMoveRequest l q s = .next ((s.nextTaken l q).delayed.later ((s.nextTaken l q).delay 120) 0
      (.tokenRequest ((s.slotMet l q).moveOf l (s.nextWords l q)))) := by
  rw [execPageMoveRequest_served hmay hopen, if_neg (by rw [hres]; decide), if_neg (by rw [hsound, hgood]; decide),
    if_neg (by rw [← Option.not_isSome, hpage]; decide)]
theorem execPageMoveRequest_notMapped (hpage : (s.nextTaken l q).pageAt (((s.nextWords l q).getD 1 0).setWidth 32)
      ((s.nextWords l q).getD 2 0).toNat = none) :
    execPageMoveRequest l q s = .next ((s.nextTaken l q).moveResult (((s.nextWords l q).getD 0 0).setWidth 32)
      ((s.nextWords l q).getD 4 0).toNat 2) := by
  rw [execPageMoveRequest_served hmay hopen, if_neg (by rw [hres]; decide), if_neg (by rw [hsound, hgood]; decide),
    if_pos (by rw [hpage]; rfl)]
end
end
end
end

/-! ### QCTL, function-level reset (R46, R53) -/

theorem Queue.ctl_enabled {q : Queue} (v : Word) (h : q.en = true) : q.ctl v = { q with en := bitOf v 0 } := if_pos h
theorem Queue.ctl_rises {q : Queue} {v : Word} (h : q.en = false) (hv : bitOf v 0 = true) : (q.ctl v).count = 0 := by
  simp [Queue.ctl, h, hv]
theorem execQctlWrite_ready {s : State} {l q : Nat} (v : Word) (hl : l < 2) (hq : q < 8) (h : s.boot.status.ready = true) :
    execQctlWrite l q v s = .next ((s.modLink l fun x => x.modQueue q fun y => y.ctl v).pokeQueue l q) := by
  simp [execQctlWrite, h, hl, hq]

/-- What a function-level reset leaves of a link (R46). -/
def PcieLink.functionReset (x : PcieLink) : PcieLink :=
  { PcieLink.reset with table := x.table, pending := x.pending, up := x.up, bar4 := x.bar4, posted := x.posted, out := x.out }

theorem PcieLink.functionReset_queue (x : PcieLink) (i : Nat) : x.functionReset.queue i = Queue.reset := vget_replicate ..
theorem State.link_modLink_same (s : State) {l : Nat} (f : PcieLink → PcieLink) (hl : l < 2) :
    (s.modLink l f).link l = f (s.link l) := vget_vset_same _ _ _ hl
/-- Where the link has no launch, the reset is one of the link alone. -/
theorem execFunctionLevelReset_noLaunch {s : State} (hl : s.evNum < 2) (hnone : ∀ x ∈ s.launches, x.r.link ≠ s.evNum) :
    execFunctionLevelReset s = .next (s.modLink s.evNum PcieLink.functionReset) := by
  have hquiet : (s.launches.map fun x => if x.r.link = s.evNum then { x with r := { x.r with msix := false } } else x) =
      s.launches := by
    refine (List.map_congr_left fun x hx => ?_).trans (List.map_id _)
    rw [if_neg (hnone x hx)]
    rfl
  have hfilter : s.launches.filter (fun x => x.r.link == s.evNum) = [] :=
    List.filter_eq_nil_iff.2 fun x hx => by simpa using hnone x hx
  simp only [execFunctionLevelReset, if_pos hl, State.modLink, hquiet, hfilter]
  rfl

/-- Settles O56: each clause is the law of its event. -/
theorem queues : Obligations.Queues := by
  intro s l q v up s0 w r done good
  refine ⟨fun hmay hroom => ⟨fun hopen => ⟨execRecordAccept_enters hmay hroom hopen, execRecordAccept_repeated hmay hroom hopen,
      execRecordAccept_invalid hmay hroom hopen⟩, execRecordAccept_shut hmay hroom⟩,
    execRecordAccept_notServed, fun hmay hopen => ⟨execPageMoveRequest_drops hmay hopen, execPageMoveRequest_bad hmay hopen,
      execPageMoveRequest_sends hmay hopen, execPageMoveRequest_notMapped hmay hopen⟩,
    execQctlWrite_ready v, fun y hen => ?_, fun y => Queue.ctl_rises,
    fun hl hnone => ⟨_, execFunctionLevelReset_noLaunch hl hnone, fun i _ => ?_, rfl⟩, rfl⟩
  · rw [Queue.ctl_enabled v hen]
    exact ⟨rfl, rfl⟩
  · rw [State.link_modLink_same _ _ hl, PcieLink.functionReset_queue]
    rfl

end Sys2Proof.Machine
end

section
/-!
SUPPORT. The turn of a host access on its link, what it does there through BAR 0, BAR 2 and BAR 4, and the statement about host
accesses (03_host_interface R45 to R52, 08_memory_hierarchy R168).
-/
namespace Sys2Proof.Machine

/-! ### Reads through BAR 0 and BAR 4 (R45, R48, R50 to R52) -/

theorem State.hostNumber_of_numbered {s : State} (hn : s.evNum ≠ 0) : s.hostNumber = (s.evNum, s) := if_neg hn

section
variable {s : State} {l off len : Nat} {rq : HostReq} (hrails : s.boot.rails = true) (hn : s.evNum ≠ 0)
include hrails hn

theorem execHostApertureRead_waits (hw : (s.link l).waits s.evNum none = true) :
    execHostApertureRead l off rq s = .next (s.later 1 s.evNum (.hostApertureRead l off rq)) := by
  simp [execHostApertureRead, hrails, State.hostNumber_of_numbered hn, hw, State.hostAgain]

section
variable (hw : (s.link l).waits s.evNum none = false)
include hw

theorem execHostApertureRead_atomic : execHostApertureRead l off .atomic s = .next (s.hostSend l .unsupported) := by
  simp [execHostApertureRead, hrails, State.hostNumber_of_numbered hn, hw]
theorem execHostApertureRead_control (hup : (s.link l).up = true) :
    execHostApertureRead l off (.control len) s = .next (s.hostSend l (.data (s.bar0Bytes l off len) false)) := by
  simp [execHostApertureRead, hrails, State.hostNumber_of_numbered hn, hw, hup]
theorem execHostApertureRead_memory : execHostApertureRead l off (.memory len) s = .next (s.aperRead l off len s.evNum) := by
  simp [execHostApertureRead, hrails, State.hostNumber_of_numbered hn, hw]
end
end

section
variable {s : State} {l off len n : Nat}

theorem State.aperRead_closed (ho : s.hostOpen = false) : s.aperRead l off len n = s.hostSend l .unsupported := by
  simp [State.aperRead, ho]
theorem State.aperRead_unassigned (hp : (wordsOf ((s.link l).aperAt off) len).all isPlace = false) :
    s.aperRead l off len n = s.hostSend l .unsupported := by
  simp [State.aperRead, hp]
theorem State.aperRead_answers (ho : s.hostOpen = true) (hp : (wordsOf ((s.link l).aperAt off) len).all isPlace = true)
    (hr : s.hostReady false (wordsOf ((s.link l).aperAt off) len) = true) : s.aperRead l off len n =
      (s.hostRead ((s.link l).aperAt off) len).2.hostSend l (readDone (s.hostRead ((s.link l).aperAt off) len).1) := by
  simp [State.aperRead, ho, hp, hr]
end

/-! ### Reads through BAR 2 (R29, R50, R51, R168) -/

/-- The sub-windows of 2^32 bytes each, at their places in BAR 2 (R50). -/
theorem subWin_at {off : Nat} (h : off < 2 ^ 32) :
    subWin off = .fill ∧ subWin (2 ^ 32 + off) = .empty ∧ subWin (2 * 2 ^ 32 + off) = .bits := by
  have hfill : off / 2 ^ 32 % 4 = 0 := by omega
  have hempty : (2 ^ 32 + off) / 2 ^ 32 % 4 = 1 := by omega
  have hbits : (2 * 2 ^ 32 + off) / 2 ^ 32 % 4 = 2 := by omega
  exact ⟨by rw [subWin, if_pos hfill], by rw [subWin, hempty]; rfl, by rw [subWin, hbits]; rfl⟩
/-- A sub-window shows the same words as the others. -/
theorem PcieLink.feAt_window (x : PcieLink) (k off : Nat) : x.feAt (k * 2 ^ 32 + off) = x.feAt off := by
  rw [PcieLink.feAt, PcieLink.feAt, Nat.add_mod, Nat.mul_mod_left, Nat.zero_add, Nat.mod_mod]

/-- The bit of a word that is neither poisoned nor in an unarmed block (R50). -/
theorem State.bitRead_sound {s : State} {o : Nat} (hs : s.spent o = false)
    (hp : ((s.call o).meet (keyOf o)).poisoned (keyOf o) = false) : s.bitRead o =
      (.data ((List.range 8).map fun i => if i = 0 ∧ s.full (keyOf o) = true then 1 else 0) false,
        (s.call o).meet (keyOf o)) := by
  simp [State.bitRead, hs, hp, readDone]

section
variable {s : State} {l off : Nat} {ev : Instr} (hrails : s.boot.rails = true) (hn : s.evNum ≠ 0)
include hrails hn

theorem State.feRead_waits (hw : (s.link l).waits s.evNum none = true) : s.feRead l off ev = s.later 1 s.evNum ev := by
  simp [State.feRead, hrails, State.hostNumber_of_numbered hn, hw, State.hostAgain]

section
variable (hw : (s.link l).waits s.evNum none = false)
include hw

theorem State.feRead_closed (ho : s.hostOpen = false) : s.feRead l off ev = s.hostSend l .unsupported := by
  simp [State.feRead, hrails, State.hostNumber_of_numbered hn, hw, ho]

section
variable (ho : s.hostOpen = true) (hm : inMemory ((s.link l).feAt off) = true)
include ho hm

theorem State.feRead_fill (hx : subWin off = .fill) (hr : s.hostReady false [(s.link l).feAt off] = true) :
    s.feRead l off ev = (s.hostRead (wordOf ((s.link l).feAt off)) 8).2.hostSend l
      (readDone (s.hostRead (wordOf ((s.link l).feAt off)) 8).1) := by
  simp [State.feRead, hrails, State.hostNumber_of_numbered hn, hw, ho, hm, hx, hr]
theorem State.feRead_bits (hx : subWin off = .bits) (hr : s.hostReady false [(s.link l).feAt off] = true) :
    s.feRead l off ev = (s.bitRead (wordOf ((s.link l).feAt off))).2.hostSend l
      (s.bitRead (wordOf ((s.link l).feAt off))).1 := by
  simp [State.feRead, hrails, State.hostNumber_of_numbered hn, hw, ho, hm, hx, hr]
theorem State.feRead_zeros (hx : subWin off = .empty ∨ subWin off = .reserved) :
    s.feRead l off ev = s.hostSend l (.data ((List.range 8).map fun _ => 0) false) := by
  rcases hx with hx | hx <;> simp [State.feRead, hrails, State.hostNumber_of_numbered hn, hw, ho, hm, hx]
end
end
end

/-! ### Posted writes through BAR 4 and BAR 2 (R50 to R52) -/

section
variable {s : State} {l off : Nat} {data : List Byte} {ev : Instr} (hrails : s.boot.rails = true)
include hrails

section
variable (hn : s.evNum = 0)
include hn

theorem execHostApertureWrite_drops
    (hd : s.hostOpen = false ∨ aperDrops ((s.link l).aperAt off) data.length = true) :
    execHostApertureWrite l off data s = .next (s.tlp.countDropped l) := by
  have hdrop : (!s.hostOpen || aperDrops ((s.link l).aperAt off) data.length) = true := by
    rcases hd with h | h <;> simp [h]
  simp [execHostApertureWrite, hrails, hn, hdrop]
theorem execHostApertureWrite_posts (ho : s.hostOpen = true)
    (hd : aperDrops ((s.link l).aperAt off) data.length = false) : execHostApertureWrite l off data s =
      .next (s.tlp.post l (s.delay 0) ((s.link l).aperAt off) data (.hostApertureWrite l off data)) := by
  simp [execHostApertureWrite, hrails, hn, ho, hd]
theorem State.feWrite_drops (hd : s.hostOpen = false ∨ feDrops ((s.link l).feAt off) data = true) :
    s.feWrite l off data ev = s.tlp.countDropped l := by
  have hdrop : (!s.hostOpen || feDrops ((s.link l).feAt off) data) = true := by
    rcases hd with h | h <;> simp [h]
  simp [State.feWrite, hrails, hn, hdrop]
theorem State.feWrite_posts (ho : s.hostOpen = true) (hd : feDrops ((s.link l).feAt off) data = false)
    (hx : subWin off = .fill ∨ subWin off = .empty) :
    s.feWrite l off data ev = s.tlp.post l (s.delay 0) ((s.link l).feAt off) data ev := by
  rcases hx with hx | hx <;> simp [State.feWrite, hrails, hn, ho, hd, hx]
theorem State.feWrite_ignored (ho : s.hostOpen = true) (hd : feDrops ((s.link l).feAt off) data = false)
    (hx : subWin off = .bits ∨ subWin off = .reserved) : s.feWrite l off data ev = s.tlp := by
  simp [State.feWrite, hrails, hn, ho, hd, hx]
end

section
variable {n : Nat} {d : List Byte} (hn : s.evNum ≠ 0)
  (hpost : ((s.link l).posted.find? fun e => e.1 == s.evNum) = some (s.evNum, n, d))
include hn hpost

theorem execHostApertureWrite_performs (hw : (s.link l).waits s.evNum (some (n, d.length)) = false)
    (hr : s.hostReady true (wordsOf n d.length) = true) : execHostApertureWrite l off data s =
      .next (s.hostPerform l s.evNum n d (.hostApertureWrite l off data)) := by
  simp [execHostApertureWrite, hrails, hn, hpost, hw, hr]
theorem execHostApertureWrite_stands (hw : (s.link l).waits s.evNum (some (n, d.length)) = false)
    (hr : s.hostReady true (wordsOf n d.length) = false) : execHostApertureWrite l off data s =
      .next (s.hostStand s.evNum (.hostApertureWrite l off data)) := by
  simp [execHostApertureWrite, hrails, hn, hpost, hw, hr]
theorem State.feWrite_performs (hw : (s.link l).waits s.evNum none = false) (hr : s.hostReady true [n] = true) :
    s.feWrite l off data ev = (s.unpost l s.evNum).feDo (subWin off) n d := by
  simp [State.feWrite, hrails, hn, hpost, hw, hr]
end
end

section
variable {s : State} {l k n c o : Nat} {d : List Byte} {ev : Instr}

theorem State.hostPerform_ordinary (h : ∀ c o, placeOf n ≠ .istore c o) :
    s.hostPerform l k n d ev = (s.unpost l k).hostWrite n d := by
  rw [State.hostPerform]
  split
  · next c o hp => exact absurd hp (h c o)
  · rfl
theorem State.hostPerform_lastBundle (h : placeOf n = .istore c o) (hd : d.length ≤ 8) :
    s.hostPerform l k n d ev = (s.unpost l k).hostWrite n d := by
  simp [State.hostPerform, h, hd]
theorem State.hostPerform_bundle (h : placeOf n = .istore c o) (hd : 8 < d.length) : s.hostPerform l k n d ev =
    ((s.repost l k (n + 8) (d.drop 8)).hostWrite n (d.take 8)).hostStand k ev := by
  simp [State.hostPerform, h, Nat.not_le.2 hd]

theorem State.feDo_spent (x : SubWin) (h : s.spent n = true) : s.feDo x n d = s := if_pos h
theorem State.feDo_fill (h : s.spent n = false) : s.feDo .fill n d =
    ((s.call n).meetBlock (keyOf n)).fillWord (keyOf n) (BitVec.ofNat 64 (bytesNat d)) := if_neg (by simp [h])
theorem State.feDo_empty (h : s.spent n = false) : s.feDo .empty n d = ((s.call n).meet (keyOf n)).empty (keyOf n) :=
  if_neg (by simp [h])
end

/-! ### Registers (R48, R49, R53) -/

section
variable {s : State} {off : Nat} (l : Nat) (v : Word) (hrails : s.boot.rails = true) (hoff : off % 8 = 0)
include hrails hoff

theorem execRegisterWrite_pkg : execRegisterWrite .pkg off v s = .next (s.tlp.ctlWrite off v) := by
  simp [execRegisterWrite, hrails, hoff]
theorem execRegisterWrite_link : execRegisterWrite (.link l) off v s = .next (s.tlp.linkWrite l off v) := by
  simp [execRegisterWrite, hrails, hoff]
theorem execRegisterWrite_msix :
    execRegisterWrite (.msix l) off v s = .next (s.tlp.onLink l fun x => x.msixWrite off v) := by
  simp [execRegisterWrite, hrails, hoff]
end

/-- Settles O57: each clause is the law of its event. -/
theorem hostAccesses : Obligations.HostAccesses := by
  intro s l off n len rq d d' v ap fe zeros hrails
  refine ⟨fun ho => ⟨fun hn hw => ⟨?_, congrArg _ (State.feRead_closed hrails hn hw ho),
        congrArg _ (State.feRead_closed hrails hn hw ho)⟩,
      fun hn => ⟨execHostApertureWrite_drops hrails hn (.inl ho), congrArg _ (State.feWrite_drops hrails hn (.inl ho)),
        congrArg _ (State.feWrite_drops hrails hn (.inl ho))⟩⟩,
    fun hn hw => ⟨execHostApertureRead_waits hrails hn hw, congrArg _ (State.feRead_waits hrails hn hw),
      congrArg _ (State.feRead_waits hrails hn hw)⟩,
    fun hn ho => ⟨fun hd => execHostApertureWrite_drops hrails hn (.inr hd), execHostApertureWrite_posts hrails hn ho,
      fun hd => congrArg _ (State.feWrite_drops hrails hn (.inr hd)),
      fun hd => ⟨fun hx => congrArg _ (State.feWrite_posts hrails hn ho hd hx),
        fun hx => congrArg _ (State.feWrite_ignored hrails hn ho hd hx)⟩⟩,
    fun hn hpost => ⟨fun hw => ⟨execHostApertureWrite_performs hrails hn hpost hw,
        execHostApertureWrite_stands hrails hn hpost hw⟩,
      fun hw hr => ⟨congrArg _ (State.feWrite_performs hrails hn hpost hw hr),
        congrArg _ (State.feWrite_performs hrails hn hpost hw hr)⟩⟩,
    fun ev => ⟨State.hostPerform_ordinary, fun c o hp => ⟨State.hostPerform_lastBundle hp, State.hostPerform_bundle hp⟩⟩,
    fun hs x => State.feDo_spent x hs, fun hs => ⟨State.feDo_fill hs, State.feDo_empty hs⟩, subWin_at,
    fun hn hw => ⟨execHostApertureRead_atomic hrails hn hw, execHostApertureRead_control hrails hn hw⟩,
    fun ho hn hw => ?_,
    fun hoff => ⟨execRegisterWrite_pkg v hrails hoff, execRegisterWrite_link l v hrails hoff,
      execRegisterWrite_msix l v hrails hoff⟩⟩
  · exact (execHostApertureRead_memory hrails hn hw).trans (congrArg _ (State.aperRead_closed ho))
  · have hread := execHostApertureRead_memory (off := off) (len := len) hrails hn hw
    have hbits : (s.link l).feAt (2 * 2 ^ 32 + off) = fe := PcieLink.feAt_window _ 2 off
    refine ⟨fun hp => hread.trans (congrArg _ (State.aperRead_unassigned hp)),
      fun hp hr => hread.trans (congrArg _ (State.aperRead_answers ho hp hr)),
      fun hm hr hoff => ⟨congrArg _ (State.feRead_fill hrails hn hw ho hm (subWin_at hoff).1 hr), fun hs hp => ?_⟩,
      fun hm hx => congrArg _ (State.feRead_zeros hrails hn hw ho hm hx)⟩
    have hstate := State.feRead_bits (ev := .hostStateRead l off) hrails hn hw ho (by rwa [hbits]) (subWin_at hoff).2.2
      (by rwa [hbits])
    rw [hbits, State.bitRead_sound hs hp] at hstate
    exact congrArg _ hstate

end Sys2Proof.Machine
end

section
/-!
SUPPORT. Memory as its initialisation leaves it, and the statements about it and about the minimum firmware version (04_startup R75,
R79).
-/
namespace Sys2Proof.Machine

/-! ### Memory at reset (R75) -/

theorem reset_memInv : State.reset.MemInv :=
  have hempty : wordList [] := ⟨.nil, fun _ h => absurd h List.not_mem_nil⟩
  ⟨rfl, hempty, hempty, hempty⟩

theorem memUnlisted_eq (a : Nat) : memUnlisted a = if inStore a = true ∧ a % 8 = 3 then 0x7F else 0 := by
  simp [memUnlisted]

/-- The bundles of the compute cores lie in their instruction stores, each in a word of its own. -/
theorem bundleKey_inStore {c i : Nat} (j : Nat) (hc : c < 8192) (hj : j < 8) :
    inStore (bundleKey c i + j) = true ∧ (bundleKey c i + j) % 8 = j := by
  have hi : i % 8192 < 8192 := Nat.mod_lt _ (by decide)
  have hkey : bundleKey c i = istoreBase + c * 0x10000 + 8 * (i % 8192) := if_pos hc
  have hbase : istoreBase = 0x18100000000 := rfl
  simp only [inStore, hkey, Bool.or_eq_true, Bool.and_eq_true, decide_eq_true_eq]
  omega
theorem memUnlisted_bundle {c i : Nat} (j : Nat) (hc : c < 8192) (hj : j < 8) :
    memUnlisted (bundleKey c i + j) = if j = 3 then 0x7F else 0 := by
  obtain ⟨hstore, hmod⟩ := bundleKey_inStore (i := i) j hc hj
  simp [memUnlisted_eq, hstore, hmod]
/-- A bundle that nothing has written reads as SEAL. -/
theorem reset_rdWord_bundle {c : Nat} (i : Nat) (hc : c < 8192) : State.reset.rdWord (bundleKey c i) = 0x7F000000 := by
  have hbyte (j : Nat) (hj : j < 8) : Sparse.get memUnlisted State.reset.mem (bundleKey c i + j) = if j = 3 then 0x7F else 0 :=
    memUnlisted_bundle j hc hj
  have hzero := hbyte 0 (by decide)
  rw [Nat.add_zero] at hzero
  simp [State.rdWord, memRead, Nat.add_assoc, hbyte, hzero]

/-- Settles O32: memory and the arrays hold no entry at reset, so that every place reads as an unlisted one. -/
theorem memoryAtReset : Obligations.MemoryAtReset := by
  refine ⟨memUnlisted_eq, fun a => ⟨rfl, rfl⟩, reset_memInv, fun c i hc _ => ?_, fun c n => ⟨rfl, rfl⟩⟩
  rw [reset_rdWord_bundle i hc]
  decide

/-! ### The minimum firmware version (R79) -/

/-- Settles O35: the version lasts through a core's tick and through every event, and the beginning of a tick leaves the start
sequencer alone. -/
theorem minimumVersionNeverFalls : Obligations.MinimumVersionNeverFalls := by
  intro s t h
  rcases (lasting_rises s).step (s := s) ⟨rfl, Nat.le_refl _⟩ h with ht | rfl
  · exact ht.version
  · exact Nat.le_refl s.boot.minVersion.toNat

end Sys2Proof.Machine
end

section
/-!
SUPPORT. What each event of a start does: rails, stages, firmware, warm starts and attestation, and the statement about them
(04_startup R70 to R80).
-/
namespace Sys2Proof.Sparse

/-- What is read of a place that no left-out entry has. -/
theorem get_filter_of_key {α : Type} (d : Nat → α) (m : List (Nat × α)) (lo : Option Nat) (p : Nat → Bool) (k : Nat)
    (hm : risingFrom lo m = true) (hk : p k = true) : get d (m.filter fun x => p x.1) k = get d m k := by
  induction m generalizing lo with
  | nil => rfl
  | cons e m ih =>
    obtain ⟨j, v⟩ := e
    simp only [risingFrom, Bool.and_eq_true] at hm
    cases hj : p j with
    | true => simp [hj, get, ih _ hm.2]
    | false =>
      have hne : j ≠ k := fun h => by rw [h, hk] at hj; exact Bool.noConfusion hj
      simp only [List.filter_cons, hj, Bool.false_eq_true, if_false, get, if_neg hne, ih _ hm.2]
      split
      · exact get_of_below d m j k hm.2 (by omega)
      · rfl

end Sys2Proof.Sparse

namespace Sys2Proof.Machine

/-! ### The rails (R71, R76) -/

section
variable {s : State}

/-- Where a step of the identity counter is left to burn, the status stands (R80). -/
theorem State.burnStep_status (h : s.boot.idStep < 4096) : s.burnStep.boot.status = s.boot.status := by
  rw [State.burnStep, if_neg (Nat.not_le.2 h)]
@[simp] theorem State.burnStep_rails (s : State) : s.burnStep.boot.rails = s.boot.rails := by
  unfold State.burnStep
  split
  · rfl
  · rfl
@[simp] theorem State.burnStep_mem (s : State) : s.burnStep.mem = s.mem := by
  unfold State.burnStep
  split
  · rfl
  · rfl

/-- The status that a start begins from (R71). -/
def Start.risenStatus (b : Start) (readable : Bool) : StartStatus := if b.self && readable then b.flash else StartStatus.reset
/-- The package with its rails up, before stage 0 (R71). -/
def State.powered (s : State) (readable : Bool) : State :=
  { s.powerOff with boot := { s.powerOff.boot with
    rails := true, running := true, status := s.boot.risenStatus readable, flashOk := readable,
    self := if readable then false else s.boot.self } }

theorem State.beginStage_boot (s : State) (n : Nat) : (s.beginStage n).boot =
    { s.boot with since := s.tick, status := { s.boot.status with stage := BitVec.ofNat 4 n } } := rfl
theorem State.beginStage_mem (s : State) (n : Nat) : (s.beginStage n).mem = s.mem := rfl
/-- Behind the rails, stage 0 and the sampling of the sensors begin (R20, R71, R74). -/
theorem State.rise_eq (s : State) (readable : Bool) : s.rise readable =
    let s3 := (s.powered readable).burnStep.beginStage 0
    (s3.enqueueFirst (s3.tick + 1400) 0 .low 1 (.sensorSample 0 (s3.freeVal.setWidth 16))).bumpFree := rfl
theorem State.rise_boot (s : State) (readable : Bool) :
    (s.rise readable).boot = ((s.powered readable).burnStep.beginStage 0).boot := by
  rw [State.rise_eq, State.bumpFree_boot, State.enqueueFirst_boot]
theorem State.rise_mem (s : State) (readable : Bool) : (s.rise readable).mem = [] := by
  rw [State.rise_eq, State.bumpFree_mem, State.enqueueFirst_mem, State.beginStage_mem, State.burnStep_mem]
  rfl
theorem State.rise_rails (s : State) (readable : Bool) : (s.rise readable).boot.rails = true := by
  rw [State.rise_boot, State.beginStage_boot]
  exact (s.powered readable).burnStep_rails
theorem State.rise_stage (s : State) (readable : Bool) : (s.rise readable).boot.status.stage = 0 := by
  rw [State.rise_boot, State.beginStage_boot]
  rfl
theorem State.rise_status (readable : Bool) (h : s.boot.idStep < 4096) :
    (s.rise readable).boot.status = { s.boot.risenStatus readable with stage := 0 } := by
  have hburn : (s.powered readable).burnStep.boot.status = s.boot.risenStatus readable := State.burnStep_status h
  rw [State.rise_boot, State.beginStage_boot, hburn]
  rfl

theorem execRailRise_rises (readable : Bool) (h : s.boot.rails = false) : execRailRise readable s = .next (s.rise readable) := by
  simp [execRailRise, h]
theorem execStartRetry_rises (hrails : s.boot.rails = false) (hwhy : s.boot.why = .failed) :
    execStartRetry s = .next (s.rise s.boot.flashOk) := by
  simp [execStartRetry, hrails, hwhy]
theorem execBoardRailRemoval_falls (h : s.boot.rails = true) : execBoardRailRemoval s = .next s.powerOff := by
  simp [execBoardRailRemoval, h]
/-- The package's own removal writes the record, whatever it is for. -/
theorem execSelfRailRemoval_records (hrails : s.boot.rails = true) (hdown : s.boot.down = true) :
    ∃ t, execSelfRailRemoval s = .next t ∧ t.boot.rails = false ∧ t.boot.flash = s.boot.status ∧ t.boot.self = true ∧ t.mem = [] := by
  rw [execSelfRailRemoval, if_pos (by rw [hrails, hdown]; rfl)]
  refine ⟨_, rfl, ?_⟩
  dsimp only
  split <;> exact ⟨rfl, rfl, rfl, rfl⟩
end

/-! ### Recovery, attestation and START_CTL_COLD (R72, R78 to R80) -/

section
variable {s : State} (hrails : s.boot.rails = true) (hdown : s.boot.down = false)
include hrails hdown

theorem execStartCtlCold_goesDown (h : s.boot.status.recovery = false) : execStartCtlCold s = .next (s.goDown .cold) := by
  simp [execStartCtlCold, hrails, hdown, h]
theorem execStartCtlCold_leavesRecovery (h : s.boot.status.recovery = true) : execStartCtlCold s =
    .next ((s.modStatus fun x => { x with recovery := false, attempts := 0 }).goDown .cold) := by
  simp [execStartCtlCold, hrails, hdown, h]

theorem execDoeFirmwareImage_writes {img : FwImage} (slot : Bool) (hrec : s.boot.status.recovery = true)
    (hacc : s.boot.accepts img = true) : execDoeFirmwareImage slot img s = .next { s with boot :=
      if slot then { s.boot.raise img with slotB := img } else { s.boot.raise img with slotA := img } } := by
  simp [execDoeFirmwareImage, hrails, hdown, hrec, hacc]

/-- An index below the last step's end is signed with, and spent. -/
theorem execDoeAttestationRequest_signs (h : s.boot.idNext < s.boot.idStep * 2 ^ 28) :
    ∃ t, execDoeAttestationRequest s = .next t ∧ t.boot.idNext = s.boot.idNext + 1 ∧
      t.boot.attest = some s.boot.idNext :: s.boot.attest := by
  rw [execDoeAttestationRequest, if_neg (by rw [hrails, hdown]; decide), if_pos h]
  refine ⟨_, rfl, ?_⟩
  split
  · exact ⟨rfl, rfl⟩
  · exact ⟨rfl, rfl⟩
end

/-! ### Stages (R73, R74, R76) -/

/-- Fencing in a start changes no more of the start sequencer than the record of what is fenced. -/
theorem State.fenceStart_boot (s : State) (ls : BitVec 32) (ts : BitVec 8) :
    ∃ fl ft, (s.fenceStart ls ts).boot = { s.boot with fencedLayers := fl, fencedTowers := ft } := by
  have hlayers (bad : Nat → Bool) (l : List Nat) :
      (l.foldl (fun st i => if bad i then st.modLayer i fun x => { x with fenced := true } else st) s).boot = s.boot :=
    List.foldlRecOn (motive := fun u : State => u.boot = s.boot) _ _ rfl fun u hu i _ => by
      split
      · exact hu
      · exact hu
  simp only [State.fenceStart, hlayers]
  exact ⟨_, _, rfl⟩
theorem State.fenceStart_status (s : State) (ls : BitVec 32) (ts : BitVec 8) :
    (s.fenceStart ls ts).boot.status = s.boot.status := by
  obtain ⟨fl, ft, h⟩ := s.fenceStart_boot ls ts
  rw [h]
theorem State.fenceStart_warmRun (s : State) (ls : BitVec 32) (ts : BitVec 8) :
    (s.fenceStart ls ts).boot.warmRun = s.boot.warmRun := by
  obtain ⟨fl, ft, h⟩ := s.fenceStart_boot ls ts
  rw [h]
theorem State.fenceStart_accepted (s : State) (ls : BitVec 32) (ts : BitVec 8) :
    (s.fenceStart ls ts).boot.slots.find? (s.fenceStart ls ts).boot.accepts = s.boot.slots.find? s.boot.accepts := by
  obtain ⟨fl, ft, h⟩ := s.fenceStart_boot ls ts
  rw [h]
  rfl
theorem State.fenceStart_tick (s : State) (ls : BitVec 32) (ts : BitVec 8) : (s.fenceStart ls ts).tick = s.tick :=
  congrArg (·.1) (s.fenceStart_ratchet ls ts)
theorem State.fenceStart_minVersion (s : State) (ls : BitVec 32) (ts : BitVec 8) :
    (s.fenceStart ls ts).boot.minVersion = s.boot.minVersion :=
  congrArg (·.2) (s.fenceStart_ratchet ls ts)

@[simp] theorem State.codeStore_fencedTowers (s : State) (c i : Nat) (w : Word) :
    (s.codeStore c i w).fencedTowers = s.fencedTowers := by
  unfold State.codeStore
  split
  · simp [State.freshCode, State.wrWord]
  · simp [State.freshCode, State.wrWord]
@[simp] theorem State.loadFirmware_fencedTowers (s : State) : s.loadFirmware.fencedTowers = s.fencedTowers :=
  List.foldlRecOn (motive := fun u : State => u.fencedTowers = s.fencedTowers) _ _ rfl fun _ hu _ _ =>
    List.foldlRecOn (motive := fun v : State => v.fencedTowers = s.fencedTowers) _ _ hu fun v hv _ _ =>
      (v.codeStore_fencedTowers ..).trans hv

/-- The package is ready, of the kind of its start, with no failed attempt, at the beginning of the timebase (R17, R70, R74). -/
theorem State.becomeReady_ready (s : State) :
    s.becomeReady.boot.status.ready = true ∧ s.becomeReady.boot.status.attempts = 0 ∧
      s.becomeReady.boot.status.warm = s.boot.warmRun ∧ s.becomeReady.epoch = s.tick ∧
      s.becomeReady.fencedTowers = s.fencedTowers := by
  have htowers := s.loadFirmware_fencedTowers
  unfold State.becomeReady
  dsimp only
  split
  · exact ⟨rfl, rfl, rfl, rfl, htowers⟩
  · exact ⟨rfl, rfl, rfl, rfl, htowers⟩

/-- Accepting an image changes the least version alone, and raises it to that of the image (R79). -/
theorem Start.raise_eq (b : Start) (x : FwImage) :
    b.raise x = { b with minVersion := if b.minVersion.toNat < x.version.toNat then x.version else b.minVersion } := by
  unfold Start.raise
  split
  · rfl
  · rfl
/-- An accepted image runs: its service image is kept, and the least version is raised to its own (R79). -/
def State.runImage (s : State) (x : FwImage) : State :=
  { s with boot := { s.boot with
    minVersion := if s.boot.minVersion.toNat < x.version.toNat then x.version else s.boot.minVersion, service := x.service } }
theorem State.verifyFw_runs {s : State} {x : FwImage} (h : s.boot.slots.find? s.boot.accepts = some x) :
    s.verifyFw = (s.runImage x, true) := by
  simp only [State.verifyFw, h, Start.raise_eq]
  rfl

theorem Start.not_toRecovery {b : Start} (h : b.status.attempts.toNat < 3) : b.toRecovery = false := by
  rw [Start.toRecovery, decide_eq_false (Nat.not_le.2 h), Bool.false_and]

section
variable {s : State} {n : Nat} (htowers : s.fencedTowers ≠ 0xFF)
include htowers

theorem State.goOn_begins {m : Nat} (h : nextStage s.boot.warmRun s.boot.toRecovery n = some m) : s.goOn n = s.beginStage m := by
  simp only [State.goOn, if_neg htowers, h]
theorem State.goOn_over (h : nextStage s.boot.warmRun s.boot.toRecovery n = none) (hrec : s.boot.toRecovery = false) :
    s.goOn n = s := by
  rw [hrec] at h
  simp only [State.goOn, if_neg htowers, hrec, h, Bool.false_eq_true, if_false]
end

theorem State.runImage_goOn {s : State} (x : FwImage) (htowers : s.fencedTowers ≠ 0xFF)
    (hatt : s.boot.status.attempts.toNat < 3) (hwarm : s.boot.warmRun = false) :
    (s.runImage x).goOn 1 = (s.runImage x).beginStage 2 := by
  have hrec : (s.runImage x).boot.toRecovery = false := Start.not_toRecovery hatt
  have hcold : (s.runImage x).boot.warmRun = false := hwarm
  exact State.goOn_begins (s := s.runImage x) htowers (by rw [hrec, hcold]; rfl)

/-- The package with what a stage has found failing fenced (R73). -/
abbrev State.fencedBy (s : State) (r : StageResult) : State := s.fenceStart r.fencedLayers r.fencedTowers

theorem execStageTimeout_fails {s : State} (hstart : s.starting = true) (hsince : s.boot.since = s.evNum)
    (hlate : s.boot.since + stageLimit s.boot.status.stage.toNat < s.tick) :
    execStageTimeout s = .next (s.failStart 6 s.boot.status.stage.toNat) := by
  rw [execStageTimeout, hstart, beq_iff_eq.2 hsince, decide_eq_true hlate]
  rfl

section
variable {s : State} {r : StageResult} (hstart : s.starting = true)
include hstart

theorem execStageComplete_late (hlate : s.boot.since + stageLimit s.boot.status.stage.toNat < s.tick) :
    execStageComplete r s = .next (s.failStart 6 s.boot.status.stage.toNat) := by
  simp [execStageComplete, hstart, hlate]

section
variable (hlimit : s.tick ≤ s.boot.since + stageLimit s.boot.status.stage.toNat)
include hlimit

theorem execStageComplete_reportsFailure {f : BitVec 8 × BitVec 16} (hf : r.fail = some f) (hs : stageFailure f = true) :
    execStageComplete r s = .next ((s.fencedBy r).failStart f.1 f.2.toNat) := by
  simp [execStageComplete, hstart, Nat.not_lt.2 hlimit, hf, hs]
theorem execStageComplete_noTower (hf : r.fail = none) (htowers : (s.fencedBy r).fencedTowers = 0xFF) :
    execStageComplete r s = .next ((s.fencedBy r).failStart 5 0) := by
  simp [execStageComplete, hstart, Nat.not_lt.2 hlimit, hf, htowers]
/-- A stage that finds nothing wrong does its work, and the start goes on. -/
theorem execStageComplete_goesOn {t : State} (hf : r.fail = none)
    (htowers : (s.fencedBy r).fencedTowers ≠ 0xFF) (hend : (s.fencedBy r).endStage s.boot.status.stage.toNat = (t, true)) :
    execStageComplete r s = .next (t.goOn s.boot.status.stage.toNat) := by
  simp only [execStageComplete, hstart, Bool.not_true, Bool.false_eq_true, if_false, if_neg (Nat.not_lt.2 hlimit), hf,
    if_neg htowers, hend]

section
variable (hf : r.fail = none) (htowers : (s.fencedBy r).fencedTowers ≠ 0xFF)
include hf htowers

theorem execStageComplete_stage0 (hstage : s.boot.status.stage = 0) (hatt : s.boot.status.attempts.toNat < 3)
    (hwarm : s.boot.warmRun = false) : execStageComplete r s = .next ((s.fencedBy r).beginStage 1) := by
  have hend := execStageComplete_goesOn (t := s.fencedBy r) hstart hlimit hf htowers (by rw [hstage]; rfl)
  rw [hend, State.goOn_begins htowers]
  rw [hstage, State.fenceStart_warmRun, hwarm, Start.not_toRecovery (by rwa [State.fenceStart_status])]
  rfl
/-- The slot that is accepted runs: stage 2 begins, with its service image and the least version raised to its own (R79). -/
theorem execStageComplete_stage1 {x : FwImage} (hstage : s.boot.status.stage = 1) (hatt : s.boot.status.attempts.toNat < 3)
    (hwarm : s.boot.warmRun = false) (hx : s.boot.slots.find? s.boot.accepts = some x) :
    ∃ t, execStageComplete r s = .next t ∧ t.boot.status.stage = 2 ∧ t.boot.service = x.service ∧
      t.boot.minVersion = (if s.boot.minVersion.toNat < x.version.toNat then x.version else s.boot.minVersion) := by
  have hrun := State.verifyFw_runs ((s.fenceStart_accepted r.fencedLayers r.fencedTowers).trans hx)
  have hend := execStageComplete_goesOn hstart hlimit hf htowers (by rw [hstage]; exact hrun)
  have hgoOn := State.runImage_goOn x htowers ((s.fenceStart_status ..).symm ▸ hatt) ((s.fenceStart_warmRun ..).trans hwarm)
  rw [hstage] at hend
  refine ⟨_, hend.trans (congrArg _ hgoOn), rfl, rfl, ?_⟩
  rw [← s.fenceStart_minVersion r.fencedLayers r.fencedTowers]
  rfl
theorem execStageComplete_stage5 (hstage : s.boot.status.stage = 5) :
    ∃ t, execStageComplete r s = .next t ∧ t.boot.status.ready = true ∧ t.boot.status.attempts = 0 ∧
      t.boot.status.warm = s.boot.warmRun ∧ t.epoch = s.tick := by
  obtain ⟨hready, hatt, hwarm, hepoch, hkept⟩ := (s.fencedBy r).becomeReady_ready
  refine ⟨_, execStageComplete_goesOn hstart hlimit hf htowers (by rw [hstage]; rfl), ?_⟩
  rw [State.goOn_over (hkept.symm ▸ htowers) (by rw [hstage]; rfl) (Start.not_toRecovery (by rw [hatt]; decide))]
  exact ⟨hready, hatt, hwarm.trans (State.fenceStart_warmRun ..), hepoch.trans (State.fenceStart_tick ..)⟩
end
end
end

/-! ### A warm start (R77, R168) -/

/-- Two states that differ in no more than what is parked and the events on their way. -/
def State.WakesOnly (s t : State) : Prop := t = { s with park := t.park, queue := t.queue }

theorem State.WakesOnly.trans {s t u : State} (h : s.WakesOnly t) (k : t.WakesOnly u) : s.WakesOnly u := by
  rw [State.WakesOnly, k, h]
theorem State.WakesOnly.foldl {α : Type} {f : State → α → State} (hf : ∀ (st : State) x, st.WakesOnly (f st x)) (s : State)
    (l : List α) : s.WakesOnly (l.foldl f s) :=
  List.foldlRecOn (motive := s.WakesOnly) l f rfl fun st hst x _ => hst.trans (hf st x)
theorem State.wakesOnly_wakeEntry (s : State) (e : ParkEntry) : s.WakesOnly (s.wakeEntry e) := rfl
theorem State.wakesOnly_later (s : State) (d n : Nat) (e : Instr) : s.WakesOnly (s.later d n e) := rfl

/-- The block is taken from the armed ones, and its bytes and bits are reset; the rest of an expiry are wakes and notices. -/
theorem State.expire_wakesOnly (s : State) (blk : Nat) :
    { s with blocks := s.blocks.filter fun b => b.blk != blk, mem := s.mem.filter fun x => !inBlock blk x.1,
             empties := emptyBlock s.empties blk }.WakesOnly (s.expire blk) :=
  (State.WakesOnly.foldl State.wakesOnly_wakeEntry _ _).trans (State.WakesOnly.foldl (fun st _ => st.wakesOnly_later ..) _ _)
@[simp] theorem State.expire_launches (s : State) (blk : Nat) : (s.expire blk).launches = s.launches :=
  (congrArg State.launches (s.expire_wakesOnly blk) :)
@[simp] theorem State.expire_history (s : State) (blk : Nat) : (s.expire blk).history = s.history :=
  (congrArg State.history (s.expire_wakesOnly blk) :)
theorem State.expire_mem (s : State) (blk : Nat) : (s.expire blk).mem = s.mem.filter fun x => !inBlock blk x.1 :=
  (congrArg State.mem (s.expire_wakesOnly blk) :)

/-- The blocks of a list expire, one after another. -/
def State.expireAll (s : State) (l : List Block) : State := l.foldl (fun st b => st.expire b.blk) s

theorem State.expireAll_launches (s : State) (l : List Block) : (s.expireAll l).launches = s.launches :=
  List.foldlRecOn (motive := fun t : State => t.launches = s.launches) _ _ rfl fun t ht _ _ => (t.expire_launches _).trans ht
theorem State.expireAll_history (s : State) (l : List Block) : (s.expireAll l).history = s.history :=
  List.foldlRecOn (motive := fun t : State => t.history = s.history) _ _ rfl fun t ht _ _ => (t.expire_history _).trans ht
/-- A byte outside the blocks keeps what it holds. -/
theorem State.expireAll_rdByte (s : State) (l : List Block) {a : Nat} (hwf : Sparse.wf memUnlisted s.mem = true)
    (ha : ∀ b ∈ l, inBlock b.blk a = false) : (s.expireAll l).rdByte a = s.rdByte a := by
  induction l generalizing s with
  | nil => rfl
  | cons b l ih =>
    have hmem := s.expire_mem b.blk
    have hrest := ih (s.expire b.blk) (hmem ▸ Sparse.wf_filter _ _ _ hwf) fun b hb => ha b (List.mem_cons_of_mem _ hb)
    refine hrest.trans ?_
    rw [State.rdByte, hmem]
    exact Sparse.get_filter_of_key _ _ none (fun k => !inBlock b.blk k) a (Bool.and_eq_true_iff.1 hwf).1
      (by rw [ha b List.mem_cons_self]; rfl)

/-- What a warm start leaves of a package before its stages: nothing of firings and launches, and no armed block (R77). -/
def State.warmKept (s : State) : State :=
  State.expireAll { s.loseAll with history := [], queue := s.queue.filter fun e => !ofWork e.ev } s.blocks

/-- The stages of a warm start begin: the links train again, no queue is enabled, and stage 2 is the first (R77). -/
def State.warmStages (s : State) : State :=
  let s3 := (List.range 2).foldl (fun st l => st.modLink l fun x =>
    { x with up := false, queues := Vector.ofFn fun i => { (x.queue i.val) with en := false } }) s
  let s4 := { s3 with boot := { s3.boot with running := true, warmRun := true, fencedLayers := 0, fencedTowers := 0 } }
  (s4.modStatus fun x => { x with ready := false, warm := true }).beginStage 2

theorem State.warmStages_kept (s : State) :
    s.warmStages.launches = s.launches ∧ s.warmStages.history = s.history ∧ s.warmStages.mem = s.mem := by
  simp [State.warmStages, State.beginStage, State.modStatus, List.range_succ]
theorem State.warmStages_status (s : State) : s.warmStages.boot.status.ready = false ∧ s.warmStages.boot.status.warm = true ∧
    s.warmStages.boot.status.stage = 2 := ⟨rfl, rfl, rfl⟩
theorem warmStart_of_ready {s : State} (hrails : s.boot.rails = true) (hdown : s.boot.down = false)
    (hready : s.boot.status.ready = true) : execStartCtlWarm s = .next s.warmKept.warmStages := by
  rw [execStartCtlWarm, if_pos (by rw [hrails, hdown, hready]; rfl)]
  rfl

/-- Settles O59: each clause is the law of its event. -/
theorem startAndStop : Obligations.StartAndStop := by
  intro s ok slot img r
  refine ⟨fun hoff => ⟨_, execRailRise_rises ok hoff, s.rise_rails ok, s.rise_stage ok, s.rise_mem ok, State.rise_status ok⟩,
    execSelfRailRemoval_records, fun hon => ⟨_, execBoardRailRemoval_falls hon, rfl, rfl⟩, execStartRetry_rises,
    execStageTimeout_fails, fun hon hup hrec hacc => ⟨_, execDoeFirmwareImage_writes hon hup slot hrec hacc, ?_, ?_, rfl⟩,
    execStageComplete_late,
    fun hstart hlimit => ⟨fun f => execStageComplete_reportsFailure hstart hlimit, execStageComplete_noTower hstart hlimit,
      fun hf htowers => ⟨execStageComplete_stage0 hstart hlimit hf htowers,
        fun x => execStageComplete_stage1 hstart hlimit hf htowers, execStageComplete_stage5 hstart hlimit hf htowers⟩⟩,
    fun hon hup => ⟨execStartCtlCold_goesDown hon hup, execStartCtlCold_leavesRecovery hon hup⟩,
    fun hon hup hready => ?_, execDoeAttestationRequest_signs⟩
  · cases slot
    · rfl
    · rfl
  · cases slot
    · exact Start.raise_ge _ _
    · exact Start.raise_ge _ _
  · obtain ⟨hlaunches, hhistory, hmem⟩ := s.warmKept.warmStages_kept
    obtain ⟨hnotReady, hwarm, hstage⟩ := s.warmKept.warmStages_status
    refine ⟨_, warmStart_of_ready hon hup hready, hlaunches.trans (State.expireAll_launches ..),
      hhistory.trans (State.expireAll_history ..), hnotReady, hwarm, hstage, fun hnone => ?_, fun hwf a ha => ?_⟩
    · rw [hmem, State.warmKept, hnone]
      rfl
    · rw [State.rdByte, hmem]
      exact State.expireAll_rdByte _ _ hwf ha

end Sys2Proof.Machine
end

section
/-!
SUPPORT. What each event of a sweep's grains does, the end of an election, and the statement about them (05_distribution R81, R82, R91
to R93, 21_throttling R382).
-/
namespace Sys2Proof.Machine

/-! ### A core claims a grain (R92, R382) -/

theorem State.grainless_of_idle {s : State} {c n : Nat} (hhalt : (s.core c).halt = false) (hgrain : (s.core c).grain = none)
    (hidle : ((s.inst c n).any fun x => x.queued || x.inflight || x.disabled) = false) : s.grainless c n = true := by
  rw [State.grainless, hhalt, hgrain, hidle]
  rfl

/-- Core `c` takes grain `g` from its layer's block, of which `r` is left, in its instance `n` of the swept actor. -/
def State.giveGrain (s : State) (lid : BitVec 32) (c n g : Nat) (r : List Nat) : State :=
  ((s.modLaunch lid fun x => { (x.setBlock (.layer (coreLayer c)) r) with issued := x.issued ++ [(g, c)] }).modCore c
    fun k => { k with grain := some g }).pushInst c n

section
variable {s : State} {l : Launch} {n : Nat} (hof : (s.core s.here).lid?.bind s.launchOf = some l)
  (hn : (s.core s.here).sweptInst l = some n) (hst : l.st = .running) (hv : s.masterVacant = false)
  (hfree : s.grainless s.here n = true)
include hof hn hst hv hfree

theorem execGrainClaim_emptyBlock (hb : l.block (.layer (coreLayer s.here)) = []) :
    execGrainClaim s = .next ((s.checkPhases l.r.lid).askBlock l.r.lid (coreLayer s.here)) := by
  simp [execGrainClaim, hof, hn, hst, hv, hfree, hb]

section
variable {g : Nat} {r : List Nat} (hb : l.block (.layer (coreLayer s.here)) = g :: r)
include hb

/-- A core that may take a grain gets the first of its layer's block, and only then the layer looks at what is left. -/
theorem execGrainClaim_takes : execGrainClaim s = .next (
    let t := (s.checkPhases l.r.lid).giveGrain l.r.lid s.here n g r
    if r.length < 8 ∧ s.hot (coreLayer s.here) = false then t.askBlock l.r.lid (coreLayer s.here) else t) := by
  have hserved : ¬(l.st ≠ .running ∨ s.masterVacant = true ∨ s.grainless s.here n = false) := by simp [hst, hv, hfree]
  simp only [execGrainClaim, hof, hn, if_neg hserved, hb]
  rfl
theorem execGrainClaim_takesOnly (henough : 8 ≤ r.length ∨ s.hot (coreLayer s.here) = true) :
    execGrainClaim s = .next ((s.checkPhases l.r.lid).giveGrain l.r.lid s.here n g r) := by
  have hno : ¬(r.length < 8 ∧ s.hot (coreLayer s.here) = false) := by
    rintro ⟨hfew, hcool⟩
    rcases henough with hmany | hhot
    · exact Nat.not_lt.2 hmany hfew
    · simp [hhot] at hcool
  exact (execGrainClaim_takes hof hn hst hv hfree hb).trans (congrArg _ (if_neg hno))
theorem execGrainClaim_takesAndAsks (hfew : r.length < 8) (hcool : s.hot (coreLayer s.here) = false) :
    execGrainClaim s = .next (((s.checkPhases l.r.lid).giveGrain l.r.lid s.here n g r).askBlock l.r.lid (coreLayer s.here)) :=
  (execGrainClaim_takes hof hn hst hv hfree hb).trans (congrArg _ (if_pos ⟨hfew, hcool⟩))
end
end

/-! ### Layers and tower masters claim and report (R92, R93) -/

section
variable {s : State} {l : Launch} {lid : W32} (hof : s.launchOf lid = some l)
include hof

theorem execGrainBlockClaim_layer (i : Nat) (hst : l.st = .running) (hv : s.masterVacant = false) :
    execGrainBlockClaim lid (.layer i) s = .next (s.claimLayer l i) := by
  simp [execGrainBlockClaim, hof, hst, hv]
theorem execGrainBlockClaim_tower (i : Nat) (hst : l.st = .running) (hv : s.masterVacant = false) :
    execGrainBlockClaim lid (.tower i) s = .next (s.claimTower l i) := by
  simp [execGrainBlockClaim, hof, hst, hv]

/-- A full batch at a tower master is confirmed: its grains are issued no more, and each is confirmed once (R93). -/
theorem execGrainReportBatch_confirms {i : Nat} {rep : GReport} (hrep : l.report (.tower i) = some rep) (hfull : 64 ≤ rep.grains.length) :
    execGrainReportBatch lid (.tower i) s = .next ((s.modLaunch lid fun x =>
      { x with reports := x.reports.filter (fun y => y.holder != .tower i),
               issued := x.issued.filter (fun y => !rep.grains.contains y.1),
               confirmed := x.confirmed ++ (rep.grains.filter fun g => !x.confirmed.contains g).eraseDups,
               firings := x.firings + rep.firings }).poke lid) := by
  have hdue : ¬(rep.grains.length < 64 ∧ s.tick < rep.oldest + 4096) := fun h => Nat.not_lt.2 hfull h.1
  simp only [execGrainReportBatch, hof, hrep, if_neg hdue]
end

theorem State.claimTower_holding {s : State} {l : Launch} {i : Nat} (hb : l.block (.tower i) ≠ []) : s.claimTower l i = s := by
  rw [State.claimTower, if_pos (by simpa using hb)]

/-! ### The end of an election (R81, R82) -/

theorem State.queueOnly_enqueue (s : State) (d c : Nat) (p : Prio) (n : Nat) (e : Instr) : s.QueueOnly (s.enqueue d c p n e) := rfl
theorem State.queueOnly_askCores (s : State) (l : Launch) (i : Nat) : s.QueueOnly (s.askCores l i) :=
  State.QueueOnly.foldl (fun st _ => st.queueOnly_enqueue ..) _ _

section
variable {s : State}

/-- A layer that is not fenced gives the role a holder: beside that, the end of an election puts events on their way alone. -/
theorem execMasterElectionDone_serves {i : Nat} (hv : s.masterVacant = true) (hi : i < 32) (hopen : (s.layer i).fenced = false) :
    ∃ t, execMasterElectionDone s = .next t ∧ { s with masterVacant := false }.QueueOnly t := by
  have helected : (s.masterVacant && (List.range 32).any fun i => !(s.layer i).fenced) = true := by
    rw [hv, Bool.true_and, List.any_eq_true]
    exact ⟨i, List.mem_range.2 hi, by rw [hopen]; rfl⟩
  refine ⟨_, by rw [execMasterElectionDone, if_pos helected], ?_⟩
  have hpokes := ((State.queueOnly_pokeQueues { s with masterVacant := false }).trans (State.queueOnly_pokeStarts _)).trans
    (State.queueOnly_pokeSweeps _)
  refine State.QueueOnly.trans ?_ (State.QueueOnly.foldl (fun st l =>
    State.QueueOnly.foldl (fun u j => u.queueOnly_askCores l j) st _) _ _)
  exact hpokes.trans (State.QueueOnly.foldl (fun st _ => st.queueOnly_later ..) _ _)
theorem execMasterElectionDone_allFenced (hall : ∀ i, i < 32 → (s.layer i).fenced = true) : execMasterElectionDone s = .next s := by
  have hnone : ((List.range 32).any fun i => !(s.layer i).fenced) = false :=
    List.any_eq_false.2 fun i hi => by simp [hall i (List.mem_range.1 hi)]
  rw [execMasterElectionDone, hnone, Bool.and_false]
  rfl
theorem execMasterElectionDone_notVacant (hv : s.masterVacant = false) : execMasterElectionDone s = .next s := by
  rw [execMasterElectionDone, hv, Bool.false_and]
  rfl
end

/-- Settles O55: each clause is the law of its event. -/
theorem grains : Obligations.Grains := by
  intro s l n g i r rep lid
  refine ⟨fun hof hn hst hhalt hgrain hv hidle => ?_, fun hof hst hv => ?_, fun hof => execGrainReportBatch_confirms hof,
    fun hv hi hopen => ?_, execMasterElectionDone_allFenced, execMasterElectionDone_notVacant⟩
  · have hfree := State.grainless_of_idle hhalt hgrain hidle
    exact ⟨execGrainClaim_emptyBlock hof hn hst hv hfree, fun hb => ⟨execGrainClaim_takesOnly hof hn hst hv hfree hb,
      execGrainClaim_takesAndAsks hof hn hst hv hfree hb⟩⟩
  · exact ⟨execGrainBlockClaim_layer hof i hst hv, execGrainBlockClaim_tower hof i hst hv, State.claimTower_holding⟩
  · obtain ⟨t, hnext, ht⟩ := execMasterElectionDone_serves hv hi hopen
    refine ⟨t, hnext, ?_⟩
    rw [ht]
    exact ⟨rfl, rfl⟩

end Sys2Proof.Machine
end

section
/-!
SUPPORT. The words of a Firing Context Record, the bank that a record restores, and the statement about them (06_firings R124, R125).
-/
namespace Sys2Proof.Machine

/-! ### Fields of a word (R7) -/

theorem place_eq_mul (v n lo : Nat) : place v n lo = v % 2 ^ n * 2 ^ lo := Nat.shiftLeft_eq ..
theorem bitN_lt_two (b : Bool) : bitN b < 2 := by cases b <;> decide
theorem bitN_mod_two (b : Bool) : decide (bitN b % 2 = 1) = b := by cases b <;> rfl
theorem bitOf_eq_decide (w : Word) (i : Nat) : bitOf w i = decide (w.toNat / 2 ^ i % 2 = 1) := Nat.testBit_eq_decide_div_mod_eq

/-! ### Bytes in a word -/

/-- The first `n` of a row of bytes, packed into a number, byte `j` at bit `8 * j`. -/
def packBytes (v : Nat → BitVec 8) (n : Nat) : Nat := (List.range n).foldl (fun m j => m + place (v j).toNat 8 (8 * j)) 0

theorem packBytes_succ (v : Nat → BitVec 8) (n : Nat) : packBytes v (n + 1) = packBytes v n + (v n).toNat * 256 ^ n := by
  rw [packBytes, List.range_succ, List.foldl_append, ← packBytes, List.foldl_cons, List.foldl_nil, place_eq_mul,
    Nat.mod_eq_of_lt (v n).isLt, Nat.pow_mul]
theorem packBytes_lt (v : Nat → BitVec 8) (n : Nat) : packBytes v n < 256 ^ n := by
  induction n with
  | zero => exact Nat.one_pos
  | succ n ih =>
    have hv : (v n).toNat * 256 ^ n ≤ 255 * 256 ^ n := Nat.mul_le_mul_right _ (Nat.le_of_lt_succ (v n).isLt)
    rw [packBytes_succ, Nat.pow_succ]
    omega
/-- Each byte is read back. -/
theorem packBytes_byte (v : Nat → BitVec 8) {j n : Nat} (hj : j < n) : packBytes v n / 256 ^ j % 256 = (v j).toNat := by
  induction n with
  | zero => exact absurd hj (Nat.not_lt_zero j)
  | succ n ih =>
    rw [packBytes_succ]
    rcases Nat.lt_succ_iff_lt_or_eq.1 hj with hlt | rfl
    · have hpow : 256 ^ n = 256 ^ j * (256 * 256 ^ (n - j - 1)) := by
        rw [← Nat.pow_succ', ← Nat.pow_add]
        congr 1
        omega
      rw [hpow, Nat.mul_left_comm, Nat.add_mul_div_left _ _ (Nat.pow_pos (by decide)), Nat.mul_left_comm, Nat.add_mul_mod_self_left]
      exact ih hlt
    · rw [Nat.add_mul_div_right _ _ (Nat.pow_pos (by decide)), Nat.div_eq_of_lt (packBytes_lt v j), Nat.zero_add]
      exact Nat.mod_eq_of_lt (v j).isLt

/-! ### The words of a record (R125) -/

/-- The words before the integrity word stand where the body has them. -/
theorem fcrWord_sealFcr {body : List Word} {i : Nat} (h : i < body.length) : fcrWord (sealFcr body) i = body.getD i 0 := by
  rw [fcrWord, sealFcr, List.getD_eq_getElem?_getD, List.getElem?_append_left h, List.getD_eq_getElem?_getD]
/-- A record that is closed passes its check. -/
theorem fcrOk_sealFcr {body : List Word} (h : body.length = 63) : fcrOk (sealFcr body) = true := by
  have hlast : fcrWord (sealFcr body) 63 = BitVec.ofNat 64 (crc32c body) := by
    rw [fcrWord, sealFcr, List.getD_eq_getElem?_getD, List.getElem?_append_right (Nat.le_of_eq h), h]
    rfl
  have hbody : (sealFcr body).take 63 = body := by rw [sealFcr, ← h, List.take_left]
  rw [fcrOk, hlast, hbody]
  simp [sealFcr, h]

section
variable (s : State) (c : Nat) (p : Prio) (kind : FcrKind) (t : TrapInfo) (wa : Nat)

theorem State.fcrBody_length : (s.fcrBody c p kind t wa).length = 63 := by simp [State.fcrBody]
theorem State.fcr_length : (s.fcr c p kind t wa).length = 64 := by
  rw [State.fcr, sealFcr, List.length_append, State.fcrBody_length]
  rfl

/-- The registers come after 32 words. -/
theorem State.fcrBody_split : ∃ front : List Word, front.length = 32 ∧
    s.fcrBody c p kind t wa = front ++ (s.bank c p).g.toList.tail := ⟨_, rfl, rfl⟩
/-- Word 31 + r of a record holds register r. -/
theorem State.fcr_register {r : Fin 32} (hr : r.val ≠ 0) : fcrWord (s.fcr c p kind t wa) (31 + r.val) = (s.bank c p).g.get r := by
  obtain ⟨front, hfront, hbody⟩ := s.fcrBody_split c p kind t wa
  obtain ⟨n, hn⟩ := Nat.exists_eq_succ_of_ne_zero hr
  have hlt := r.isLt
  have hidx : 31 + r.val = 32 + n := by omega
  have hreg : n + 1 < (s.bank c p).g.toList.length := by rw [Vector.length_toList]; omega
  rw [State.fcr, hidx, fcrWord_sealFcr (by rw [State.fcrBody_length]; omega), hbody, List.getD_eq_getElem?_getD,
    List.getElem?_append_right (by omega), hfront, Nat.add_sub_cancel_left, List.getElem?_tail, List.getElem?_eq_getElem hreg,
    Option.getD_some, Vector.getElem_toList]
  exact congrArg (s.bank c p).g.get (Fin.ext hn.symm : (⟨n + 1, by omega⟩ : Fin 32) = r)

theorem State.fcr_trapWord : fcrWord (s.fcr c p kind t wa) 5 =
    BitVec.ofNat 64 (t.cause.toNat + 256 * kind.code + 65536 * t.info.toNat) := by
  have hcode : kind.code < 256 := by cases kind <;> decide
  have hinfo := t.info.isLt
  show BitVec.ofNat 64 (t.cause.toNat + place kind.code 8 8 + place t.info.toNat 48 16) = _
  congr 1
  simp only [place_eq_mul]
  omega

/-! ### The bank that a record restores (R124, R125) -/

/-- Word 0: the names of the firing. -/
theorem State.fcr_names :
    let b := s.bank c p
    let r := bankOfFcr (s.fcr c p kind t wa)
    r.lid = b.lid ∧ r.act = b.act % 64 ∧ r.inst = b.inst % 64 ∧ r.home = b.home % 8192 := by
  intro b r
  have hlid := b.lid.isLt
  have hprio := bitN_lt_two (p == .high)
  have hw : (fcrWord (s.fcr c p kind t wa) 0).toNat = b.lid.toNat + b.act % 64 * 2 ^ 32 + b.inst % 64 * 2 ^ 38 +
      bitN (p == .high) * 2 ^ 44 + b.home % 8192 * 2 ^ 46 := by
    show (b.lid.toNat + place b.act 6 32 + place b.inst 6 38 + place (bitN (p == .high)) 1 44 + place b.home 13 46) % 2 ^ 64 = _
    simp only [place_eq_mul]
    omega
  refine ⟨BitVec.eq_of_toNat_eq ?_, ?_, ?_, ?_⟩
  · show (fcrWord (s.fcr c p kind t wa) 0).toNat % 2 ^ 32 = _
    omega
  · show (fcrWord (s.fcr c p kind t wa) 0).toNat / 2 ^ 32 % 64 = _
    omega
  · show (fcrWord (s.fcr c p kind t wa) 0).toNat / 2 ^ 38 % 64 = _
    omega
  · show (fcrWord (s.fcr c p kind t wa) 0).toNat / 2 ^ 46 % 8192 = _
    omega

/-- A bundle index in a word of its own. -/
theorem setWidth_setWidth_bundle (x : Bundle13) : (x.setWidth 64).setWidth 13 = x := by
  rw [BitVec.setWidth_setWidth_of_le _ (by decide), BitVec.setWidth_eq]

/-- Words 1 to 3: the PC queue. -/
theorem State.fcr_pcQueue :
    let b := s.bank c p
    let r := bankOfFcr (s.fcr c p kind t wa)
    r.pc = b.pc ∧ r.npc1 = b.npc1 ∧ r.npc2 = b.npc2 :=
  ⟨setWidth_setWidth_bundle _, setWidth_setWidth_bundle _, setWidth_setWidth_bundle _⟩

/-- Word 4: the annul bits, the anchor, the service bit and the count of migrations. -/
theorem State.fcr_marks :
    let b := s.bank c p
    let r := bankOfFcr (s.fcr c p kind t wa)
    r.ann1 = b.ann1 ∧ r.ann2 = b.ann2 ∧ r.anch = b.anch ∧ r.svc = b.svc ∧ r.migc = b.migc := by
  intro b r
  have hmigc := b.migc.isLt
  have h1 := bitN_lt_two b.ann1
  have h2 := bitN_lt_two b.ann2
  have h3 := bitN_lt_two b.anch
  have h4 := bitN_lt_two b.svc
  have hw : (fcrWord (s.fcr c p kind t wa) 4).toNat = bitN b.ann1 + bitN b.ann2 * 2 + bitN b.anch * 4 + bitN b.svc * 8 +
      b.migc.toNat * 16 := by
    show (bitN b.ann1 + place (bitN b.ann2) 1 1 + place (bitN b.anch) 1 2 + place (bitN b.svc) 1 3 +
      place b.migc.toNat 4 4) % 2 ^ 64 = _
    simp only [place_eq_mul]
    omega
  have hbit {i : Nat} {x : Bool} (h : (fcrWord (s.fcr c p kind t wa) 4).toNat / 2 ^ i % 2 = bitN x % 2) :
      bitOf (fcrWord (s.fcr c p kind t wa) 4) i = x := by rw [bitOf_eq_decide, h, bitN_mod_two]
  refine ⟨hbit ?_, hbit ?_, hbit ?_, hbit ?_, BitVec.eq_of_toNat_eq ?_⟩
  · omega
  · omega
  · omega
  · omega
  · show (fcrWord (s.fcr c p kind t wa) 4).toNat >>> 4 % 2 ^ 4 = _
    rw [Nat.shiftRight_eq_div_pow]
    omega

/-- Word 8: the start, in the 64 bits of the timebase. -/
theorem State.fcr_start : (bankOfFcr (s.fcr c p kind t wa)).start = (s.bank c p).start % 2 ^ 64 := rfl
/-- Words 9 and 10: the sweep index and the passes. -/
theorem State.fcr_sidx : (bankOfFcr (s.fcr c p kind t wa)).sidx = (s.bank c p).sidx := rfl
theorem State.fcr_pass : (bankOfFcr (s.fcr c p kind t wa)).pass = (s.bank c p).pass := rfl
/-- Word 12: the sweep count. -/
theorem State.fcr_scount : (bankOfFcr (s.fcr c p kind t wa)).scount = (s.bank c p).scount := by
  show ((s.bank c p).scount.setWidth 64).setWidth 32 = _
  rw [BitVec.setWidth_setWidth_of_le _ (by decide), BitVec.setWidth_eq]

/-- Word 13: the output counts, a byte each. -/
theorem State.fcr_ocnt : (bankOfFcr (s.fcr c p kind t wa)).ocnt = (s.bank c p).ocnt := by
  have hw : fcrWord (s.fcr c p kind t wa) 13 = BitVec.ofNat 64 (packBytes (fun i => vget (s.bank c p).ocnt i 0) 8) := rfl
  refine Vector.ext fun j hj => BitVec.eq_of_toNat_eq ?_
  have hget : (s.bank c p).ocnt[j] = vget (s.bank c p).ocnt j 0 := by simp [vget, hj]
  have hlt : packBytes (fun i => vget (s.bank c p).ocnt i 0) 8 < 2 ^ 64 := packBytes_lt _ 8
  have hbyte : packBytes (fun i => vget (s.bank c p).ocnt i 0) 8 / (2 ^ 8) ^ j % 2 ^ 8 = (vget (s.bank c p).ocnt j 0).toNat :=
    packBytes_byte _ hj
  rw [hget, ← hbyte, bankOfFcr, hw]
  simp only [Vector.getElem_ofFn, BitVec.toNat_setWidth, BitVec.toNat_ushiftRight, Nat.shiftRight_eq_div_pow, BitVec.toNat_ofNat,
    Nat.pow_mul]
  rw [Nat.mod_eq_of_lt hlt]

/-- Word 14: the floating-point control and status, and the budgets. -/
theorem State.fcr_budgets :
    let b := s.bank c p
    let r := bankOfFcr (s.fcr c p kind t wa)
    r.fpctl = b.fpctl ∧ r.fpst = b.fpst ∧ r.rbud = b.rbud ∧ r.barb = b.barb := by
  intro b r
  have hfpctl := b.fpctl.isLt
  have hfpst := b.fpst.isLt
  have hrbud := b.rbud.isLt
  have hbarb := b.barb.isLt
  have hw : (fcrWord (s.fcr c p kind t wa) 14).toNat = b.fpctl.toNat + b.fpst.toNat * 2 ^ 8 + b.rbud.toNat * 2 ^ 16 +
      b.barb.toNat * 2 ^ 32 := by
    show (b.fpctl.toNat + place b.fpst.toNat 8 8 + place b.rbud.toNat 16 16 + place b.barb.toNat 16 32) % 2 ^ 64 = _
    simp only [place_eq_mul]
    omega
  refine ⟨BitVec.eq_of_toNat_eq ?_, BitVec.eq_of_toNat_eq ?_, BitVec.eq_of_toNat_eq ?_, BitVec.eq_of_toNat_eq ?_⟩
  · show (fcrWord (s.fcr c p kind t wa) 14).toNat % 2 ^ 2 = _
    omega
  · show (fcrWord (s.fcr c p kind t wa) 14).toNat >>> 8 % 2 ^ 5 = _
    rw [Nat.shiftRight_eq_div_pow]
    omega
  · show (fcrWord (s.fcr c p kind t wa) 14).toNat >>> 16 % 2 ^ 16 = _
    rw [Nat.shiftRight_eq_div_pow]
    omega
  · show (fcrWord (s.fcr c p kind t wa) 14).toNat >>> 32 % 2 ^ 16 = _
    rw [Nat.shiftRight_eq_div_pow]
    omega

/-- Word 15: the watchdog's count, which stays at the largest value that 32 bits hold. -/
theorem State.fcr_wdc : (bankOfFcr (s.fcr c p kind t wa)).wdc = min (s.bank c p).wdc 0xFFFFFFFF := by
  show min (s.bank c p).wdc 0xFFFFFFFF % 2 ^ 64 % 2 ^ 32 = _
  omega

theorem State.fcr_rd (i : Reg) : (bankOfFcr (s.fcr c p kind t wa)).rd i = (s.bank c p).rd i := by
  by_cases hi : i = 0
  · simp [Bank.rd, hi]
  · have hne : i.val ≠ 0 := fun h => hi (Fin.ext h)
    have hg : (bankOfFcr (s.fcr c p kind t wa)).g.get i = fcrWord (s.fcr c p kind t wa) (31 + i.val) :=
      (Vector.getElem_ofFn i.isLt).trans (if_neg hne)
    rw [Bank.rd, Bank.rd, if_neg hi, if_neg hi, hg, s.fcr_register c p kind t wa hne]
end

/-- Settles O25: the record's words are those of its body, and each field of the bank that it restores is that of its word. -/
theorem recordRestoresFiring : Obligations.RecordRestoresFiring := by
  refine ⟨fun s c p kind t wa => ⟨s.fcr_length c p kind t wa, fcrOk_sealFcr (s.fcrBody_length c p kind t wa), rfl, rfl, rfl,
    s.fcr_trapWord c p kind t wa, rfl, fun r hr => s.fcr_register c p kind t wa hr⟩, fun s c p kind t wa => ?_⟩
  obtain ⟨hlid, hact, hinst, hhome⟩ := s.fcr_names c p kind t wa
  obtain ⟨hpc, hnpc1, hnpc2⟩ := s.fcr_pcQueue c p kind t wa
  obtain ⟨hann1, hann2, hanch, hsvc, hmigc⟩ := s.fcr_marks c p kind t wa
  obtain ⟨hfpctl, hfpst, hrbud, hbarb⟩ := s.fcr_budgets c p kind t wa
  refine ⟨s.fcr_rd c p kind t wa, hpc, hnpc1, hnpc2, hann1, hann2, hanch, hsvc, hmigc, hfpctl, hfpst, hrbud, hbarb,
    s.fcr_sidx c p kind t wa, s.fcr_pass c p kind t wa, s.fcr_scount c p kind t wa, s.fcr_ocnt c p kind t wa, hlid,
    fun ha hi hh => ⟨?_, ?_, ?_⟩, fun h => ?_, fun h => ?_⟩
  · rw [hact, Nat.mod_eq_of_lt ha]
  · rw [hinst, Nat.mod_eq_of_lt hi]
  · rw [hhome, Nat.mod_eq_of_lt hh]
  · rw [s.fcr_start c p kind t wa, Nat.mod_eq_of_lt h]
  · rw [s.fcr_wdc c p kind t wa]
    omega

end Sys2Proof.Machine
end

section
/-!
SUPPORT. What the departure of a firing and the way of its record leave alone, what a trap does, and the statement about it
(06_firings R114, R123, 16_system R288, R301).
-/
namespace Sys2Proof.Machine

/-! ### What the way of a record leaves alone (R114, R123) -/

/-- What the departure of a firing leaves alone of the package: memory, the clock, and the count of faults of each launch. -/
def State.packageView (s : State) : List Host.Cell × List Nat × Nat × (W32 → Option Nat) :=
  (s.mem, s.empties, s.tick, fun lid => (s.launchOf lid).map (·.faults))
/-- What a record on its way to the fault actor leaves alone: of the package what a departure does, and of each core the banks and
%cause. -/
def State.firingView (s : State) : (List Host.Cell × List Nat × Nat × (W32 → Option Nat)) × (Nat → Bank × Bank × BitVec 30) :=
  (s.packageView, fun c => ((s.core c).low, (s.core c).high, (s.core c).cause))

section
variable {s t : State}

theorem State.packageView_memory (h : t.packageView = s.packageView) : t.mem = s.mem ∧ t.empties = s.empties ∧ t.tick = s.tick :=
  ⟨congrArg Prod.fst h, congrArg (fun v => v.2.1) h, congrArg (fun v => v.2.2.1) h⟩
theorem State.packageView_faults (h : t.packageView = s.packageView) (lid : W32) :
    (t.launchOf lid).map (·.faults) = (s.launchOf lid).map (·.faults) := congrArg (fun v => v.2.2.2 lid) h
theorem State.firingView_package (h : t.firingView = s.firingView) : t.packageView = s.packageView := congrArg Prod.fst h
theorem State.firingView_bank (h : t.firingView = s.firingView) (c : Nat) (p : Prio) : t.bank c p = s.bank c p := by
  have hcores := congrArg (fun v => v.2 c) h
  cases p with
  | low => exact congrArg Prod.fst hcores
  | high => exact congrArg (fun v => v.2.1) hcores
theorem State.firingView_cause (h : t.firingView = s.firingView) (c : Nat) : (t.core c).cause = (s.core c).cause :=
  congrArg (fun v => (v.2 c).2.2) h
end

section
variable (s : State)

theorem State.modCore_firingView {c : Nat} {f : Core → Core}
    (hf : ∀ k, ((f k).low, (f k).high, (f k).cause) = (k.low, k.high, k.cause)) : (s.modCore c f).firingView = s.firingView := by
  have hcores : (fun d => (((s.modCore c f).core d).low, ((s.modCore c f).core d).high, ((s.modCore c f).core d).cause)) =
      fun d => ((s.core d).low, (s.core d).high, (s.core d).cause) := by
    funext d
    by_cases hd : d = c
    · rw [hd, State.core_modCore_same, hf]
    · rw [State.core_modCore_ne s f hd]
  rw [State.firingView, hcores]
  rfl
theorem State.modLaunch_firingView {lid : BitVec 32} {f : Launch → Launch}
    (hf : ∀ x, (f x).r.lid = x.r.lid ∧ (f x).faults = x.faults) : (s.modLaunch lid f).firingView = s.firingView := by
  have hfaults : (fun y => ((s.modLaunch lid f).launchOf y).map (·.faults)) = fun y => (s.launchOf y).map (·.faults) := by
    funext y
    have hkey : ((fun x : Launch => x.r.lid == y) ∘ fun x => if x.r.lid == lid then f x else x) = fun x => x.r.lid == y := by
      funext x
      simp only [Function.comp]
      split
      · rw [(hf x).1]
      · rfl
    have hcount : ((fun x : Launch => x.faults) ∘ fun x => if x.r.lid == lid then f x else x) = fun x => x.faults := by
      funext x
      simp only [Function.comp]
      split
      · exact (hf x).2
      · rfl
    rw [State.launchOf, State.modLaunch, List.find?_map, hkey, Option.map_map, hcount, State.launchOf]
  rw [State.firingView, State.packageView, hfaults]
  rfl
@[simp] theorem State.modInst_firingView (c n : Nat) (f : Inst → Inst) : (s.modInst c n f).firingView = s.firingView :=
  s.modCore_firingView fun _ => rfl
@[simp] theorem State.enqueue_firingView (d c : Nat) (p : Prio) (n : Nat) (e : Instr) : (s.enqueue d c p n e).firingView = s.firingView := rfl
@[simp] theorem State.later_firingView (d n : Nat) (e : Instr) : (s.later d n e).firingView = s.firingView := rfl
@[simp] theorem State.poke_firingView (lid : BitVec 32) : (s.poke lid).firingView = s.firingView := rfl
@[simp] theorem State.countSetFull_firingView (n : Nat) : (s.countSetFull n).firingView = s.firingView := rfl

/-! The park tables (R109, R123, R180). -/

@[simp] theorem State.push_firingView (c : Nat) (p : Prio) (e : Entry) : (s.push c p e).firingView = s.firingView := by
  have hmod : (s.modCore c fun k => { k.setFifo p (k.fifo p ++ [e]) with asleep := s.sleeps c }).firingView = s.firingView :=
    s.modCore_firingView fun k => by cases p <;> rfl
  rw [State.push]
  split
  · exact hmod
  · exact hmod
@[simp] theorem State.pushResume_firingView (e : ParkEntry) : (s.pushResume e).firingView = s.firingView := by
  rw [State.pushResume]
  split
  · exact State.push_firingView ..
  · rfl
@[simp] theorem State.freePark_firingView (id : Nat) : (s.freePark id).firingView = s.firingView := by
  simp only [State.freePark]
  split
  · rfl
  · split
    · exact State.pushResume_firingView ..
    · rfl
@[simp] theorem State.unregister_firingView (b : Bank) : (s.unregister b).firingView = s.firingView := by
  rw [State.unregister]
  split
  · exact State.freePark_firingView ..
  · rfl
theorem State.portPark_firingView {fc key : Nat} {h : Hold} {t : State} (ht : s.portPark fc key h = some t) :
    t.firingView = s.firingView := by
  simp only [State.portPark] at ht
  split at ht
  · cases ht
    rfl
  · cases ht

/-! Delivery, and the report of a grain that is over (R92, R93, R123). -/

@[simp] theorem State.grainDone_firingView (lid : BitVec 32) (c g n : Nat) : (s.grainDone lid c g n).firingView = s.firingView := by
  simp only [State.grainDone]
  have hreport (f : Launch → List GReport) : (s.modLaunch lid fun l => { l with reports := f l }).firingView = s.firingView :=
    s.modLaunch_firingView fun _ => ⟨rfl, rfl⟩
  (repeat' split) <;> exact hreport _
@[simp] theorem State.fcrGone_firingView (l : Launch) (c : Nat) (f : List Word) : (s.fcrGone l c f).firingView = s.firingView := by
  rw [State.fcrGone]
  split
  · exact State.grainDone_firingView ..
  · rfl
@[simp] theorem State.holdFcr_firingView (c : Nat) (p : Prio) (h : Hold) : (s.holdFcr c p h).firingView = s.firingView := by
  have hmod : (s.modCore c fun k => k.setHeld p (k.held p ++ [h])).firingView = s.firingView :=
    s.modCore_firingView fun k => by cases p <;> rfl
  simp only [State.holdFcr]
  split
  · exact hmod
  · exact hmod
@[simp] theorem State.deliver_firingView (c : Nat) (p : Prio) (lid : BitVec 32) (home inst : Nat) (f : List Word) :
    (s.deliver c p lid home inst f).firingView = s.firingView := by
  have hoff (n fc : Nat) (u : Inst → Inst) :
      ((s.modInst fc n u).modLaunch lid fun x => { x with faultOff := true }).firingView = s.firingView := by
    rw [State.modLaunch_firingView _ (f := fun x => { x with faultOff := true }) fun _ => ⟨rfl, rfl⟩, State.modInst_firingView]
  simp only [State.deliver]
  repeat' split
  · rfl
  · exact State.fcrGone_firingView ..
  · exact State.fcrGone_firingView ..
  · exact State.fcrGone_firingView ..
  · exact (State.fcrGone_firingView ..).trans (hoff ..)
  · exact State.fcrGone_firingView ..
  · exact s.portPark_firingView ‹_›
  · exact State.holdFcr_firingView ..
@[simp] theorem State.endGrain_firingView (b : Bank) : (s.endGrain b).firingView = s.firingView := by
  simp only [State.endGrain]
  split
  · rfl
  · rw [State.enqueue_firingView]
    refine State.modCore_firingView _ fun k => ?_
    split
    · rfl
    · rfl

@[simp] theorem State.restIdle_firingView (c : Nat) : (s.restIdle c).firingView = s.firingView := by
  rw [State.restIdle]
  split
  · rw [State.enqueue_firingView]
    exact State.modCore_firingView _ fun _ => rfl
  · rfl
/-- To clear a bank is, of what the view holds, to put the bank as power-on left it. -/
theorem State.clearBank_firingView (c : Nat) (p : Prio) : (s.clearBank c p).firingView =
    (s.modCore c fun k => (k.detach (k.bank p).key).setBank p Bank.reset).firingView := by
  simp only [State.clearBank]
  split
  · rw [State.restIdle_firingView]
    rfl
  · rw [State.enqueue_firingView, State.restIdle_firingView]
    rfl
theorem State.bank_clearBank (c : Nat) (p : Prio) : (s.clearBank c p).bank c p = Bank.reset := by
  rw [State.firingView_bank (s.clearBank_firingView c p), State.bank, State.core_modCore_same, Core.bank_setBank_same]
theorem State.cause_clearBank (c : Nat) (p : Prio) : ((s.clearBank c p).core c).cause = (s.core c).cause := by
  rw [State.firingView_cause (s.clearBank_firingView c p), State.core_modCore_same]
  cases p <;> rfl
theorem State.clearBank_packageView (c : Nat) (p : Prio) : (s.clearBank c p).packageView = s.packageView :=
  (State.firingView_package (s.clearBank_firingView c p)).trans rfl

/-! ### The departure of a trap (R114, R288, R301) -/

section
variable (c : Nat) (p : Prio) (t : TrapInfo)

/-- The state of a trap's departure in which its record has still to be delivered. -/
def State.trapFreed : State :=
  let b := s.bank c p
  let s1 := s.modCore c fun k =>
    { k with cause := BitVec.ofNat 30 (t.cause.toNat + place b.pc.toNat 13 16 + place (bitN (p == .high)) 1 29) }
  ((s1.unregister b).clearBank c p).modInst b.home b.inst fun i =>
    { i with inflight := false, disabled := i.disabled || t.cause == 0x0A, waitIn := i.waitIn || t.cause != 0x0A }

/-- To deliver the record changes nothing that the view holds. -/
theorem State.trapDepart_firingView : (s.trapDepart c p t).firingView =
    ((s.trapFreed c p t).modLaunch (s.bank c p).lid fun l => { l with faults := l.faults + 1 }).firingView := by
  simp only [State.trapDepart, State.poke_firingView, State.endGrain_firingView, State.deliver_firingView]
  rfl

theorem State.bank_trapDepart : (s.trapDepart c p t).bank c p = Bank.reset :=
  (State.firingView_bank (s.trapDepart_firingView c p t) c p).trans
    ((State.firingView_bank (State.modInst_firingView ..) c p).trans (State.bank_clearBank ..))
theorem State.cause_trapDepart : ((s.trapDepart c p t).core c).cause =
    BitVec.ofNat 30 (t.cause.toNat + place (s.bank c p).pc.toNat 13 16 + place (bitN (p == .high)) 1 29) := by
  refine (State.firingView_cause (s.trapDepart_firingView c p t) c).trans
    ((State.firingView_cause (State.modInst_firingView ..) c).trans ((State.cause_clearBank ..).trans
      ((State.firingView_cause (State.unregister_firingView ..) c).trans ?_)))
  rw [State.core_modCore_same]
theorem State.trapFreed_packageView : (s.trapFreed c p t).packageView = s.packageView :=
  (State.firingView_package (State.modInst_firingView ..)).trans
    ((State.clearBank_packageView ..).trans ((State.firingView_package (State.unregister_firingView ..)).trans rfl))
theorem State.memory_trapDepart :
    (s.trapDepart c p t).mem = s.mem ∧ (s.trapDepart c p t).empties = s.empties ∧ (s.trapDepart c p t).tick = s.tick := by
  obtain ⟨hmem, hempties, htick⟩ := State.packageView_memory (State.firingView_package (s.trapDepart_firingView c p t))
  obtain ⟨hmem', hempties', htick'⟩ := State.packageView_memory (s.trapFreed_packageView c p t)
  exact ⟨hmem.trans hmem', hempties.trans hempties', htick.trans htick'⟩
theorem State.faults_trapDepart {l : Launch} (hl : s.launchOf (s.bank c p).lid = some l) :
    ((s.trapDepart c p t).launchOf (s.bank c p).lid).map (·.faults) = some (l.faults + 1) := by
  have hfreed := State.packageView_faults (s.trapFreed_packageView c p t) (s.bank c p).lid
  rw [hl] at hfreed
  obtain ⟨x, hx, hxl⟩ := Option.map_eq_some_iff.1 hfreed
  rw [State.packageView_faults (State.firingView_package (s.trapDepart_firingView c p t)),
    State.launchOf_modLaunch _ _ (f := fun l => { l with faults := l.faults + 1 }) fun _ => rfl, hx]
  exact congrArg (fun n => some (n + 1)) hxl
end
end

/-! ### Taking a trap (R114, R301, R328) -/

/-- An arrival that is withdrawn changes cores alone. -/
theorem State.dropArrival_eq (s : State) (c : Nat) (p : Prio) : ∃ cs, s.dropArrival c p = { s with cores := cs } := by
  rw [State.dropArrival]
  split
  · rw [State.withdraw]
    split
    · exact ⟨s.cores, rfl⟩
    · exact ⟨_, rfl⟩
  · exact ⟨s.cores, rfl⟩
theorem Bank.phaseOver_eq (b : Bank) (l : Level) : ∃ a, b.phaseOver l = { b with arrOwn := a } := by
  rw [Bank.phaseOver]
  split
  · exact ⟨_, rfl⟩
  · exact ⟨b.arrOwn, rfl⟩
/-- Of the bank that traps only the mark of its own arrival may change. -/
theorem State.bank_dropArrival (s : State) (c : Nat) (p : Prio) :
    ∃ a, (s.dropArrival c p).bank c p = { s.bank c p with arrOwn := a } := by
  rw [State.dropArrival]
  split
  next l _ =>
    rw [State.withdraw]
    split
    · exact ⟨_, rfl⟩
    · rw [State.bank, State.core_modCore_same]
      cases p with
      | low => exact Bank.phaseOver_eq ..
      | high => exact Bank.phaseOver_eq ..
  next => exact ⟨_, rfl⟩
theorem Bank.keepPass_eq (b : Bank) (t : Nat) : ∃ w, b.keepPass t = { b with pass := w } := by
  rw [Bank.keepPass]
  split
  · exact ⟨_, rfl⟩
  · exact ⟨b.pass, rfl⟩

section
variable (s : State) (c : Nat) (p : Prio) (t : TrapInfo)

/-- The state in which the bank stands at its bundle to trap, and its departure has still to be looked at. -/
def State.trapping : State := (s.dropArrival c p).modBank c p fun b => (b.keepPass s.tick).leave (.trap t)

theorem State.takeTrap_eq (cause : BitVec 8) (info : BitVec 48) (faddr : Word) : s.takeTrap c p cause info faddr =
    (s.trapping c p { cause := cause, info := info, faddr := faddr }).tryLeave c p := by
  obtain ⟨cs, h⟩ := s.dropArrival_eq c p
  rw [State.takeTrap, State.leaveAs, State.trapping, h]
theorem State.trapping_eq : ∃ cs, s.trapping c p t = { s with cores := cs } := by
  obtain ⟨cs, h⟩ := s.dropArrival_eq c p
  exact ⟨_, by rw [State.trapping, h]; rfl⟩
theorem State.bank_trapping : ∃ a w, (s.trapping c p t).bank c p = { s.bank c p with arrOwn := a, pass := w }.leave (.trap t) := by
  obtain ⟨a, ha⟩ := s.bank_dropArrival c p
  obtain ⟨w, hw⟩ := { s.bank c p with arrOwn := a }.keepPass_eq s.tick
  exact ⟨a, w, by rw [State.trapping, State.bank_modBank_same, ha, hw]⟩

/-- Whether a bank may go as far as its messages are concerned, for which a migration waits alone (R117). -/
def State.mayShip (b : Bank) : Bool := match b.leaving with | some (.migrate _) => !s.msgsOut b.key | _ => true

/-- A bank that traps waits for what it waited for, but no longer for its messages. -/
theorem State.quiet_trapping : s.quiet c p = ((s.trapping c p t).quiet c p && s.mayShip (s.bank c p)) := by
  obtain ⟨cs, hs⟩ := s.trapping_eq c p t
  obtain ⟨a, w, hb⟩ := s.bank_trapping c p t
  rw [State.quiet, State.quiet, hb, hs]
  simp only [Bank.leave, Bank.key, Bool.and_true]
  rfl
theorem State.quiet_trapping_of_quiet (h : s.quiet c p = true) : (s.trapping c p t).quiet c p = true := by
  rw [s.quiet_trapping c p t] at h
  exact (Bool.and_eq_true_iff.1 h).1
theorem State.quiet_trapping_of_not_leaving (h : (s.bank c p).leaving = none) : (s.trapping c p t).quiet c p = s.quiet c p := by
  rw [s.quiet_trapping c p t, State.mayShip, h, Bool.and_true]

/-- A bank that is to trap and waits for nothing departs. -/
theorem State.tryLeave_trap (hl : (s.bank c p).leaving = some (.trap t)) (hq : s.quiet c p = true) :
    s.tryLeave c p = (s.modBank c p (Bank.landFlags · s.tick)).trapDepart c p t := by
  have hland : ((s.modBank c p (Bank.landFlags · s.tick)).bank c p).leaving = some (.trap t) := by
    rw [State.bank_modBank_same]
    exact hl
  simp only [State.tryLeave, hl, hq, hland, Option.isSome_some, Bool.and_self, if_true]
theorem State.tryLeave_waits (hq : s.quiet c p = false) : s.tryLeave c p = s := by
  rw [State.tryLeave, hq, Bool.and_false]
  rfl

/-- The state in which the flags of this tick have come in and the bank's record is due. -/
def State.trapDue : State := (s.trapping c p t).modBank c p (Bank.landFlags · (s.trapping c p t).tick)

theorem State.trapDue_eq : ∃ cs, s.trapDue c p t = { s with cores := cs } := by
  obtain ⟨cs, hs⟩ := s.trapping_eq c p t
  exact ⟨_, by rw [State.trapDue, hs]; rfl⟩
theorem State.bank_trapDue : ((s.trapDue c p t).bank c p).lid = (s.bank c p).lid ∧ ((s.trapDue c p t).bank c p).pc = (s.bank c p).pc := by
  obtain ⟨a, w, hb⟩ := s.bank_trapping c p t
  rw [State.trapDue, State.bank_modBank_same, hb]
  exact ⟨rfl, rfl⟩

section
variable (cause : BitVec 8) (info : BitVec 48) (faddr : Word)

theorem State.takeTrap_departs (hq : s.quiet c p = true) :
    let i : TrapInfo := { cause := cause, info := info, faddr := faddr }
    s.takeTrap c p cause info faddr = (s.trapDue c p i).trapDepart c p i := by
  intro i
  obtain ⟨a, w, hb⟩ := s.bank_trapping c p i
  exact (s.takeTrap_eq ..).trans (State.tryLeave_trap _ c p i (by rw [hb]; rfl) (s.quiet_trapping_of_quiet c p i hq))

/-- A bank whose outstanding work is over traps at once. -/
theorem State.takeTrap_quiet (hq : s.quiet c p = true) :
    let t := s.takeTrap c p cause info faddr
    (t.bank c p).run = .none ∧
    (t.core c).cause = BitVec.ofNat 30 (cause.toNat + place (s.bank c p).pc.toNat 13 16 + place (bitN (p == .high)) 1 29) ∧
    (∀ l, s.launchOf (s.bank c p).lid = some l → (t.launchOf (s.bank c p).lid).map (·.faults) = some (l.faults + 1)) ∧
    t.mem = s.mem ∧ t.empties = s.empties ∧ t.tick = s.tick := by
  intro t
  let i : TrapInfo := { cause := cause, info := info, faddr := faddr }
  obtain ⟨cs, hs⟩ := s.trapDue_eq c p i
  obtain ⟨hlid, hpc⟩ := s.bank_trapDue c p i
  have ht : t = (s.trapDue c p i).trapDepart c p i := s.takeTrap_departs c p cause info faddr hq
  have hlaunch (lid : W32) : (s.trapDue c p i).launchOf lid = s.launchOf lid := by rw [hs]; rfl
  rw [ht]
  refine ⟨by rw [State.bank_trapDepart]; rfl, by rw [State.cause_trapDepart, hpc], fun l hl => ?_, ?_⟩
  · rw [← hlid] at hl ⊢
    exact State.faults_trapDepart _ c p i ((hlaunch _).trans hl)
  · obtain ⟨hmem, hempties, htick⟩ := (s.trapDue c p i).memory_trapDepart c p i
    rw [hmem, hempties, htick, hs]
    exact ⟨rfl, rfl, rfl⟩

/-- A bank with outstanding work stands at its bundle, to leave once that is over. -/
theorem State.takeTrap_waits (hq : s.quiet c p = false) (hl : (s.bank c p).leaving = none) :
    let t := s.takeTrap c p cause info faddr
    (t.bank c p).leaving = some (.trap { cause := cause, info := info, faddr := faddr }) ∧
    (t.bank c p).pc = (s.bank c p).pc ∧ (t.bank c p).g = (s.bank c p).g ∧ t.mem = s.mem := by
  intro t
  let i : TrapInfo := { cause := cause, info := info, faddr := faddr }
  obtain ⟨cs, hs⟩ := s.trapping_eq c p i
  obtain ⟨a, w, hb⟩ := s.bank_trapping c p i
  have ht : t = s.trapping c p i := (s.takeTrap_eq ..).trans
    (State.tryLeave_waits _ c p ((s.quiet_trapping_of_not_leaving c p i hl).trans hq))
  rw [ht, hb]
  exact ⟨rfl, rfl, rfl, by rw [hs]⟩
end
end

/-! ### Delivery to the fault actor's port (R123) -/

section
variable {s : State}

theorem State.portPark_takes (fc key : Nat) (h : Hold) (hroom : s.setRoom h.tower h.pset = true) :
    ∃ e : ParkEntry, e.fcr = h.fcr ∧ e.kind = .port ∧ e.st = .parked ∧ e.origin = fc ∧
      s.portPark fc key h = some (({ s with park := s.park ++ [e] } : State).bumpId.enqueue s.tick fc .low 0 .fcrDeliver) := by
  refine ⟨_, ?_, ?_, ?_, ?_, if_pos hroom⟩
  · rfl
  · rfl
  · rfl
  · rfl
theorem State.portPark_refuses (fc key : Nat) (h : Hold) (hroom : s.setRoom h.tower h.pset = false) : s.portPark fc key h = none := by
  rw [State.portPark, hroom]
  rfl

theorem Core.held_setHeld_same (k : Core) (p : Prio) (l : List Hold) : (k.setHeld p l).held p = l := by cases p <;> rfl
theorem State.holdFcr_held (c : Nat) (p : Prio) (h : Hold) :
    ((s.holdFcr c p h).core c).held p = (s.core c).held p ++ [h] ∧ (s.holdFcr c p h).park = s.park := by
  have hheld : (((s.modCore c fun k => k.setHeld p (k.held p ++ [h])).countSetFull h.tower).core c).held p = (s.core c).held p ++ [h] := by
    show ((s.modCore c fun k => k.setHeld p (k.held p ++ [h])).core c).held p = _
    rw [State.core_modCore_same, Core.held_setHeld_same]
  simp only [State.holdFcr]
  split
  · exact ⟨hheld, rfl⟩
  · exact ⟨hheld, rfl⟩

/-- A record of another instance than a fault actor that takes records is offered to the set of its port, and is held where the set
refuses it. -/
theorem State.deliver_offers {lid : BitVec 32} {l : Launch} {fc n home k : Nat} {i : Inst} {q : Port} (c : Nat) (p : Prio) (f : List Word)
    (hl : s.launchOf lid = some l) (hfa : faultActor l = some (fc, n)) (hi : s.inst fc n = some i) (hq : i.port 0 = some q)
    (hsize : 64 ≤ q.size) (hdis : i.disabled = false) (hother : fc ≠ home ∨ n ≠ k) :
    let h : Hold := { fcr := f, tower := coreTower c, pset := s.parkSetOf (mailKey fc q.base), lid := lid }
    s.deliver c p lid home k f = (s.portPark fc (mailKey fc q.base) h).getD (s.holdFcr c p h) := by
  have hown : ¬(fc = home ∧ n = k) := fun ⟨hfc, hn⟩ => hother.elim (· hfc) (· hn)
  have hgone : ¬(q.size < 64 ∨ l.faultOff = true ∧ i.disabled = true) := by
    rw [hdis]
    simpa using hsize
  simp only [State.deliver, hl, hfa, hi, hq, if_neg hown, if_neg hgone]
  split
  next u hu => rw [hu]; rfl
  next hu => rw [hu]; rfl
end

theorem place_bit (b : Bool) (n : Nat) : place (bitN b) 1 n = if b = true then 2 ^ n else 0 := by
  cases b <;> simp [place, bitN, Nat.shiftLeft_eq]

/-- Settles O24: a trap is `State.takeTrap_quiet` or `State.takeTrap_waits`, and the record's way is `State.deliver_offers`. -/
theorem takingATrap : Obligations.TakingATrap := by
  intro s c p cause info faddr l fc n home k i q f lid
  refine ⟨fun hq hl => ?_, fun hq hl => s.takeTrap_waits c p cause info faddr hq hl, fun hl hfa hi hq hsize hdis hother => ?_⟩
  · obtain ⟨hrun, hcause, hfaults, hmemory⟩ := s.takeTrap_quiet c p cause info faddr hq
    refine ⟨hrun, hcause.trans ?_, hfaults l hl, hmemory⟩
    rw [place_bit, place_eq_mul, Nat.mod_eq_of_lt (s.bank c p).pc.isLt]
    cases p <;> rfl
  · have hdel := State.deliver_offers c p f hl hfa hi hq hsize hdis hother
    refine ⟨fun hroom => ?_, fun hroom => ?_⟩
    · obtain ⟨e, hfcr, hkind, hst, horigin, he⟩ := State.portPark_takes fc (mailKey fc q.base)
        { fcr := f, tower := coreTower c, pset := s.parkSetOf (mailKey fc q.base), lid := lid } hroom
      exact ⟨e, hfcr, hkind, hst, horigin, by rw [hdel, he]; rfl⟩
    · rw [hdel, State.portPark_refuses _ _ _ hroom]
      exact State.holdFcr_held ..

end Sys2Proof.Machine
end

section
/-!
SUPPORT. END, what each event of a firing and of its record does, and the statements about them (06_firings R105 to R125, 07_translation
R142, 09_full_empty R178 to R184, 11_core R215, 17_control_flow R312).
-/
namespace Sys2Proof.Machine

/-! ### END (R39, R114, R312) -/

theorem rateMiss_none {a : Actor} {b : Bank} (h : ∀ j, j < 8 → (vget b.ocnt j 0).toNat = a.orate.getD j 0) : rateMiss a b = none :=
  List.find?_eq_none.2 fun j hj => by rw [h j (List.mem_range.1 hj), bne_self_eq_false]; exact Bool.false_ne_true
/-- The port that a RATE trap names is the lowest whose count is wrong. -/
theorem rateMiss_lowest {a : Actor} {b : Bank} {j : Nat} (hj : j < 8) (hmiss : (vget b.ocnt j 0).toNat ≠ a.orate.getD j 0)
    (hbelow : ∀ i, i < j → (vget b.ocnt i 0).toNat = a.orate.getD i 0) : rateMiss a b = some j :=
  List.find?_range_eq_some.2 ⟨by simpa using hmiss, List.mem_range.2 hj, fun i hi => by rw [hbelow i hi, bne_self_eq_false]; rfl⟩

section
variable {s : State}

theorem execEndFiring_dropped {w : Word} (hd : s.me.dropped = some w) : execEndFiring s = .next (s.trapHere 0x14 0 w) := by
  simp only [execEndFiring, hd]

section
variable (hd : s.me.dropped = none)
include hd

theorem execEndFiring_noActor (ha : s.actorOf s.me.lid s.me.act = none) :
    execEndFiring s = .next (s.issue.modMe fun b => { b with leaving := some .ended }) := by
  simp only [execEndFiring, hd, ha]

section
variable {a : Actor} (ha : s.actorOf s.me.lid s.me.act = some a)
include ha

theorem execEndFiring_ends (hrates : a.strict = false ∨ rateMiss a s.me = none) :
    execEndFiring s = .next (s.issue.modMe fun b => { b with leaving := some .ended }) := by
  have hmiss : (if a.strict then rateMiss a s.me else none) = none := by
    rcases hrates with hlax | hnone
    · rw [hlax]
      rfl
    · rw [hnone, ite_self]
  simp only [execEndFiring, hd, ha, hmiss]
theorem execEndFiring_rateMiss {j : Nat} (hstrict : a.strict = true) (hmiss : rateMiss a s.me = some j) :
    execEndFiring s = .next (s.trapHere 0x08 (BitVec.ofNat 48 j) 0) := by
  simp only [execEndFiring, hd, ha, hstrict, hmiss, if_true]
end
end
end

/-- Settles O21: each clause is the law of END in its case. -/
theorem endOfFiring : Obligations.EndOfFiring := by
  intro s
  refine ⟨fun a hd ha hrates => ?_, fun hd ha => execEndFiring_noActor hd ha, fun a j hd ha hstrict hj hmiss hbelow => ?_,
    fun w hd => execEndFiring_dropped hd⟩
  · exact execEndFiring_ends hd ha (hrates.imp id rateMiss_none)
  · exact execEndFiring_rateMiss hd ha hstrict (rateMiss_lowest hj hmiss hbelow)

/-! ### What a core chooses (R110, R112, R402) -/

section
variable {s : State}

theorem State.choose_asleep (hz : s.mine.asleep = true) : s.choose = s := by simp only [State.choose, hz, if_true]

section
variable (hz : s.mine.asleep = false)
include hz

theorem State.choose_high (hh : s.mine.high.run = .running) : s.choose = s.modMine fun k => { k with cur := .high } := by
  simp [State.choose, hz, hh]

section
variable (hh : s.mine.high.run ≠ .running)
include hh

theorem State.choose_startsHigh {e : Entry} (he : s.headEntry .high = some e) (hp : s.passFirst e = false) :
    s.choose = s.startEntry .high e := by
  simp [State.choose, hz, hh, he, hp]
theorem State.choose_passFirst {e : Entry} (he : s.headEntry .high = some e) (hp : s.passFirst e = true) :
    s.choose = s.modMine fun k => { k with cur := .low } := by
  simp [State.choose, hz, hh, he, hp]

section
variable (he : s.headEntry .high = none)
include he

theorem State.choose_runsLow (hl : s.mine.low.run = .running) : s.choose = s.modMine fun k => { k with cur := .low } := by
  simp [State.choose, hz, hh, he, hl]
theorem State.choose_continuesLow (hl : s.mine.low.run = .suspended) :
    s.choose = s.modMine fun k => { k.modBank .low (Bank.continue · s.tick) with cur := .low } := by
  simp [State.choose, hz, hh, he, hl]
theorem State.choose_startsLow {e : Entry} (hl : s.mine.low.run = .none) (hlow : s.headEntry .low = some e) :
    s.choose = s.startEntry .low e := by
  simp [State.choose, hz, hh, he, hl, hlow]
theorem State.choose_nothing (hl : s.mine.low.run = .none) (hlow : s.headEntry .low = none) : s.choose = s := by
  simp [State.choose, hz, hh, he, hl, hlow]
end
end
end

/-! ### Rests, wakes and what falls due (R109, R178, R180, R184) -/

/-- Two changes of a bank are one where they agree on what stands in it. -/
theorem State.modBank_congr {c : Nat} {p : Prio} {f g : Bank → Bank} (h : f (s.bank c p) = g (s.bank c p)) :
    s.modBank c p f = s.modBank c p g := by
  simp only [State.modBank, State.modCore, Core.modBank]
  exact congrArg (fun b => s.setCore c ((s.core c).setBank p b)) h

theorem execFeAttempt_rested {n key pa lat d : Nat} (hop : (s.bank s.here s.evPrio).op = .fe n key pa lat (.resting d)) (hd : d ≤ s.tick) :
    execFeAttempt s = .next (s.modBank s.here s.evPrio fun y => { y with op := .fe n key pa lat .ready }) := by
  refine congrArg _ (State.modBank_congr ?_)
  simp only [hop, if_pos hd]

section
variable {x : ParkEntry} (hx : s.parkEntry s.evNum = some x) (hst : x.st = .woken)
include hx hst

theorem execWakeAppend_held (hp : s.preempted x.lid = true) :
    execWakeAppend s = .next (s.modPark x.id fun y => { y with st := .heldWake }) := by
  simp [execWakeAppend, hx, hst, hp]
theorem execWakeAppend_appends (hp : s.preempted x.lid = false) (hf : x.fcr ≠ []) : execWakeAppend s = .next (s.pushResume x) := by
  simp [execWakeAppend, hx, hst, hp, hf]
theorem execWakeAppend_waits (hp : s.preempted x.lid = false) (hf : x.fcr = []) :
    execWakeAppend s = .next (s.enqueue (s.tick + 1) s.here s.evPrio x.id .wakeAppend) := by
  simp [execWakeAppend, hx, hst, hp, hf]
end

theorem execResumeEntryDue_appends {x : ParkEntry} (hx : s.dueFirst s.here s.evPrio = some x)
    (hroom : ((s.core s.here).fifo s.evPrio).length < 448) : execResumeEntryDue s = .next (s.pushResume x) := by
  simp only [execResumeEntryDue, hx, if_pos hroom]

/-! ### Sleep and waking of a core (R142, R215) -/

theorem execCoreSleep_sleeps (hi : (s.core s.here).idle = true) (ht : (s.core s.here).idleAt + 4096 ≤ s.tick) :
    execCoreSleep s = .next (s.modCore s.here fun k => { k with asleep := true }) := by
  simp [execCoreSleep, hi, ht]

/-- The quad TLB is flushed where no other core of the quad is awake. -/
theorem execCoreWake_wakes (hz : (s.core s.here).asleep = true) :
    execCoreWake s = .next (({ s with quadTlb := (
      if isSvc s.here = false ∧ (∀ d ∈ quadCores s.here, s.sleeps d = true ∨ d = s.here)
      then s.quadTlb.filter (fun x => x.1 != coreQuad s.here) else s.quadTlb) } : State).modCore s.here
        fun k => { k with asleep := false, tlb := [] }) := by
  have hflush : (!isSvc s.here && (quadCores s.here).all fun d => s.sleeps d || d == s.here) = true ↔
      (isSvc s.here = false ∧ ∀ d ∈ quadCores s.here, s.sleeps d = true ∨ d = s.here) := by simp
  simp only [execCoreWake, hz, if_true, hflush]
  split
  · rfl
  · rfl

/-! ### The start of a firing (R111) -/

theorem State.inst_modInst_same {c n : Nat} {i : Inst} (f : Inst → Inst) (hi : s.inst c n = some i) :
    (s.modInst c n f).inst c n = some (f i) := by
  rw [State.inst] at hi
  rw [State.inst, State.modInst, State.core_modCore_same, List.getElem?_modify_eq, hi]
  rfl
/-- An instance that is changed keeps its actor where it keeps the actor's number. -/
theorem State.instActor_modInst_same {c n : Nat} {i : Inst} {f : Inst → Inst} (hi : s.inst c n = some i) (hf : (f i).act = i.act) :
    (s.modInst c n f).instActor c n = s.instActor c n := by
  have hlid : ((s.modInst c n f).core c).lid? = (s.core c).lid? := by rw [State.modInst, State.core_modCore_same]; rfl
  rw [State.instActor, State.instActor, hlid, State.inst_modInst_same f hi, hi]
  cases (s.core c).lid? with
  | none => rfl
  | some lid => exact congrArg (s.actorOf lid) hf

/-- An instance without a firing in flight that is not disabled starts one: its bank is a new firing's. -/
theorem State.bank_startInst {c n d : Nat} {p : Prio} {i : Inst} {a : Actor} (hi : s.inst c n = some i)
    (ha : s.instActor c n = some a) (hf : i.inflight = false) (hd : i.disabled = false) :
    (s.startInst c p n d).bank c p =
      (s.modInst c n fun i => { i with queued := false }).newBank c n d { i with queued := false } a := by
  have hi' := State.inst_modInst_same (fun i => { i with queued := false }) hi
  have ha' := (State.instActor_modInst_same (f := fun i => { i with queued := false }) hi rfl).trans ha
  simp only [State.startInst, hi', ha', hf, hd, Bool.or_false, Bool.false_eq_true, if_false, State.bank_modBank_same]
end

/-- Settles O51: each clause is the law of its event. -/
theorem firingEvents : Obligations.FiringEvents := by
  refine ⟨fun s e n key pa lat d x => ⟨fun hz => congrArg _ (State.choose_asleep hz),
    fun hz hh => congrArg _ (State.choose_high hz hh), fun hz hh he hp => congrArg _ (State.choose_startsHigh hz hh he hp),
    fun hz hh he hp => congrArg _ (State.choose_passFirst hz hh he hp), fun hz hh he => ⟨?_, ?_, ?_, ?_⟩, execFeAttempt_rested,
    fun hx hst => ⟨execWakeAppend_held hx hst, execWakeAppend_appends hx hst, execWakeAppend_waits hx hst⟩,
    execResumeEntryDue_appends, execCoreSleep_sleeps, fun hz => ⟨_, execCoreWake_wakes hz, ?_, ?_, rfl, rfl⟩⟩,
    fun s c n d p i a hi ha hf hd => ?_⟩
  · exact fun hl => congrArg _ (State.choose_runsLow hz hh he hl)
  · exact fun hl => congrArg _ (State.choose_continuesLow hz hh he hl)
  · exact fun hl hlow => congrArg _ (State.choose_startsLow hz hh he hl hlow)
  · exact fun hl hlow => congrArg _ (State.choose_nothing hz hh he hl hlow)
  · rw [State.core_modCore_same]
  · rw [State.core_modCore_same]
  · rw [State.bank_startInst hi ha hf hd]
    exact ⟨rfl, rfl, rfl, rfl⟩

/-! ### Migration and arrival of records (R109, R117) -/

section
variable {s : State}

/-- The record of a migrating firing: KIND MIGRATE, of a bank that has migrated once more. -/
def State.migrating (s : State) : State := s.modBank s.here s.evPrio fun b => { b with migc := b.migc + 1 }

/-- What leaves for core `t`. -/
def State.migration (s : State) (t : Nat) : Transit :=
  let b := s.bank s.here s.evPrio
  { id := s.nextId, fcr := s.migrating.fcr s.here s.evPrio .migrate noTrap 0, core := t, lid := b.lid, home := b.home,
    inst := b.inst, prio := s.evPrio, arrived := false, dropped := b.dropped }

theorem execMigrationDepart_departs {t : Nat} (hl : (s.bank s.here s.evPrio).leaving = some (.migrate t))
    (hq : s.quiet s.here s.evPrio = true) : execMigrationDepart s = .next
      (((({ s.migrating with transit := s.transit ++ [s.migration t] } : State).bumpId).clearBank s.here s.evPrio).enqueue
        (s.tick + oneWay s.here t) t s.evPrio s.nextId .fcrArrive) := by
  simp only [execMigrationDepart, hl, hq, if_true]
  rfl

theorem State.clearBank_transit (c : Nat) (p : Prio) : (s.clearBank c p).transit = s.transit := by
  simp only [State.clearBank, State.restIdle]
  (repeat' split) <;> rfl

/-- The record holds the bank's PC, and one more migration than the bank has made. -/
theorem State.migration_fcr (t : Nat) : (bankOfFcr (s.migration t).fcr).migc = (s.bank s.here s.evPrio).migc + 1 ∧
    (bankOfFcr (s.migration t).fcr).pc = (s.bank s.here s.evPrio).pc := by
  have hbank : s.migrating.bank s.here s.evPrio =
      { s.bank s.here s.evPrio with migc := (s.bank s.here s.evPrio).migc + 1 } := by rw [State.migrating, State.bank_modBank_same]
  obtain ⟨-, -, -, -, hmigc⟩ := s.migrating.fcr_marks s.here s.evPrio .migrate noTrap 0
  obtain ⟨hpc, -, -⟩ := s.migrating.fcr_pcQueue s.here s.evPrio .migrate noTrap 0
  rw [hbank] at hmigc hpc
  exact ⟨hmigc, hpc⟩

section
variable {r : Transit} {l : Launch} (hr : (s.transit.find? fun x => x.id == s.evNum) = some r) (hl : s.launchOf r.lid = some l)
  (hf : (s.layer (coreLayer r.core)).fenced = false) (hp : s.preempted r.lid = false)
include hr hl hf hp

theorem execFcrArrive_enters (hroom : s.setRoom (coreTower r.core) (s.coreSet r.core) = true) : execFcrArrive s = .next (s.letIn r) := by
  simp [execFcrArrive, hr, hl, hf, hp, hroom]
theorem execFcrArrive_waits (hroom : s.setRoom (coreTower r.core) (s.coreSet r.core) = false) : execFcrArrive s =
    .next { s with transit := (s.transit.filter fun u => u.id != r.id) ++ [{ r with arrived := true }] } := by
  simp [execFcrArrive, hr, hl, hf, hp, hroom]
end

/-! ### The fault actor's port and the hold buffer (R123) -/

theorem execFcrDeliver_appends {n : Nat} (hn : s.faultHere s.here = some n)
    (hp : s.preempted ((s.core s.here).lid?.getD 0) = false) : execFcrDeliver s =
      .next (((s.park.filter fun e => e.kind == .port && e.origin == s.here && (s.core s.here).lid? == some e.lid &&
        e.st == .reserved && decide (e.due ≤ s.tick)).foldl (fun st e => st.appendFcr s.here n e) s).reserveFcr s.here n) := by
  simp only [execFcrDeliver, hn, hp]
  rfl

section
variable {h : Hold} {hs : List Hold} {fc n : Nat} {q : Port} (hh : (s.core s.here).held s.evPrio = h :: hs)
  (hfa : (s.launchOf h.lid).bind faultActor = some (fc, n)) (hq : ((s.inst fc n).bind fun i => i.port 0) = some q)
include hh hfa hq

theorem execHoldBufferOffer_refused (hp : s.portPark fc (mailKey fc q.base) h = none) : execHoldBufferOffer s =
    .next ((s.countSetFull h.tower).enqueue (s.tick + 64) s.here s.evPrio 0 .holdBufferOffer) := by
  simp only [execHoldBufferOffer, hh, hfa, hq, hp]
theorem execHoldBufferOffer_taken {u : State} (hp : s.portPark fc (mailKey fc q.base) h = some u) :
    execHoldBufferOffer s = .next (u.dropHeld s.here s.evPrio) := by
  simp only [execHoldBufferOffer, hh, hfa, hq, hp]
end

/-! ### The watchdog (R121, R122) -/

theorem execWatchdogExpiry_traps (hn : s.evNum = 0) (hrun : (s.bank s.here s.evPrio).run = .running)
    (hl : (s.bank s.here s.evPrio).leaving = none) (hlim : (s.core s.here).wdlim ≠ 0)
    (hreach : (s.core s.here).wdlim.toNat * 1024 ≤ (s.bank s.here s.evPrio).wdc) (hset : (s.bank s.here s.evPrio).unsettled = false) :
    execWatchdogExpiry s = .next (s.takeTrap s.here s.evPrio 0x0A (s.opcodeAt s.here (s.bank s.here s.evPrio).pc) 0) := by
  have hne : (s.core s.here).wdlim.toNat ≠ 0 := fun h0 => hlim (BitVec.eq_of_toNat_eq h0)
  have hlim' : (s.core s.here).wdlim.toNat * 1024 ≠ 0 := by omega
  simp only [execWatchdogExpiry, hn, if_true]
  rw [if_pos ⟨hrun, hl, hlim', hreach, hset⟩]

/-! ### The start message (R89) -/

section
variable {l : Launch} (hl : (s.core s.here).lid?.bind s.launchOf = some l)
include hl

theorem execStartMessageArrive_waits (ha : s.acked (distKey l.r.lid) = false) :
    execStartMessageArrive s = .next (s.enqueue (s.tick + 1) s.here .low 0 .startMessageArrive) := by
  simp [execStartMessageArrive, hl, ha]
/-- A core of a graph launch on which no instance stands has no more to do than to issue. -/
theorem execStartMessageArrive_starts (hst : l.st = .running) (hno : (s.core s.here).insts = []) (hg : l.r.sweep = false)
    (ha : s.acked (distKey l.r.lid) = true) :
    execStartMessageArrive s = .next ((s.modCore s.here fun k => { k with halt := false }).poke l.r.lid) := by
  simp [execStartMessageArrive, hl, hst, hno, hg, ha]
end
end

/-- Settles O52: each clause is the law of its event. -/
theorem recordsTravel : Obligations.RecordsTravel := by
  intro s t n fc r h hs q l
  refine ⟨fun hl hq => ⟨_, execMigrationDepart_departs hl hq, ?_, ?_, s.migration t, ?_, rfl, rfl, rfl, rfl, s.migration_fcr t⟩,
    fun hr hl hf hp => ⟨execFcrArrive_enters hr hl hf hp, execFcrArrive_waits hr hl hf hp⟩, execFcrDeliver_appends,
    fun hh hfa hq => ⟨execHoldBufferOffer_refused hh hfa hq, fun u => execHoldBufferOffer_taken hh hfa hq⟩,
    execWatchdogExpiry_traps, execStartMessageArrive_starts, execStartMessageArrive_waits⟩
  · exact congrArg Bank.run (State.bank_clearBank ..)
  · exact (State.packageView_memory (State.clearBank_packageView ..)).1
  · show _ ∈ State.transit (State.clearBank ..)
    rw [State.clearBank_transit]
    exact List.mem_append_right _ (List.mem_singleton_self _)

end Sys2Proof.Machine
end

section
/-!
SUPPORT. The first checks of an access, what an access does whose checks fail, and the statement about them (07_translation R135,
15_memory_instructions R268).
-/
namespace Sys2Proof.Machine

/-! ### The checks in order (R135, R268) -/

section
variable {s : State} {rq : Req}

theorem State.resolve_misaligned (h : rq.va.toNat % rq.size ≠ 0) : s.resolve rq = .trap 0x03 rq.va := if_pos h

section
variable (hal : rq.va.toNat % rq.size = 0)
include hal

theorem State.resolve_beyondSpace (h : 2 ^ 56 ≤ rq.va.toNat) : s.resolve rq = .trap 0x05 rq.va := by
  unfold State.resolve
  rw [if_neg (not_not_intro hal), if_pos h]
/-- A page without a right of the access decides before its place, its tokens and its frame are looked at. -/
theorem State.resolve_withoutRight {e : TlbEntry} (hin : rq.va.toNat < 2 ^ 56) (hxl : s.me.xl = .none)
    (he : s.lookup s.here s.mine.space rq.va.toNat = some e)
    (h : (rq.r = true ∧ attrR e.attr = false) ∨ (rq.w = true ∧ attrW e.attr = false)) : s.resolve rq = .trap 0x04 rq.va := by
  have hright : (rq.r && !attrR e.attr || rq.w && !attrW e.attr) = true := by
    rcases h with ⟨hr, ha⟩ | ⟨hw, ha⟩
    · rw [hr, ha]; rfl
    · rw [hw, ha]; exact Bool.or_true _
  have hwaits : ¬ s.me.xl.waits = true := by rw [hxl]; exact Bool.false_ne_true
  have hfault : ¬ s.me.xl = .fault rq.va := by rw [hxl]; exact Xl.noConfusion
  unfold State.resolve
  rw [if_neg (not_not_intro hal), if_neg (Nat.not_le.2 hin), if_neg hwaits, if_neg hfault]
  simp only [he, hright, Bool.true_or, if_true]
end

/-! ### What an access does whose checks fail (R135) -/

variable {cause : BitVec 8} {faddr : Word} (hbad : s.resolve rq = .trap cause faddr)
include hbad

theorem State.withPage_trap (k : State → TlbEntry → Nat → State) : s.withPage rq k = s.trapHere cause 0 faddr := by
  simp only [State.withPage, hbad]

variable {i : Instr}

theorem traps_of_loadGo {op : AccOp} {dst : Option (Reg × Option Nat)} {st : Option Reg} {acq : Bool} {rel : Option Scope}
    (hi : exec i s = .next (s.loadGo rq op dst st acq rel)) : Traps i s cause 0 faddr :=
  hi.trans (congrArg Host.Outcome.next (State.withPage_trap hbad _))
/-- Room in the store buffer is waited for before the checks of a store (R206). -/
theorem traps_of_storeGo {op : AccOp} {rel : Option Scope} (hfree : s.storeBuffer s.here < 16)
    (hi : exec i s = .next (s.storeGo rq op rel)) : Traps i s cause 0 faddr :=
  hi.trans (congrArg Host.Outcome.next ((if_neg (Nat.not_le.2 hfree)).trans (State.withPage_trap hbad _)))
/-- The checks of a waiting operation are those of its attempt; its first attempt is made where none stands. -/
theorem traps_of_waitFE {op : AccOp} {d : Option Reg} {lat : Nat} {acq : Bool} {rel : Option Scope} (hidle : s.me.op = .idle)
    (hi : exec i s = .next (s.waitFE ⟨rq, op, d, lat, acq, rel⟩)) : Traps i s cause 0 faddr := by
  have hattempt : s.waitFE ⟨rq, op, d, lat, acq, rel⟩ = s.attempt ⟨rq, op, d, lat, acq, rel⟩ 0 := by
    simp only [State.waitFE, hidle]
  exact hi.trans (congrArg Host.Outcome.next (hattempt.trans (State.withPage_trap hbad _)))
end

/-- Settles O14: the checks are decided in their order, and each instruction is a load, a store or a waiting operation of the request
that the statement names for it. -/
theorem accessChecks : Obligations.AccessChecks := by
  refine ⟨fun s rq => ⟨State.resolve_misaligned, State.resolve_beyondSpace,
    fun hal hin hxl e he => State.resolve_withoutRight hal hin hxl he⟩, ?_⟩
  intro s d a b sz sc p x cause faddr bad n va v8 free
  refine ⟨fun h => ⟨?ld, ?ldn, ?lda⟩, fun h => ?ldx, fun h hf => ⟨?st, ?stl⟩, fun h hf => ?stx, fun h hf => ⟨?stf, ?emp⟩,
    fun h => ⟨?feq, fun hop => ?ldw⟩, fun h hop => ⟨?ldt, ?stp⟩, fun h => ?ldLone⟩
  case ld | ldn | lda | ldx | feq | ldLone => exact traps_of_loadGo h rfl
  case st | stl | stx | stf | emp => exact traps_of_storeGo h hf rfl
  case ldw | ldt | stp => exact traps_of_waitFE h hop rfl

end Sys2Proof.Machine
end

section
/-!
SUPPORT. What TARM and the arming of one block do to memory, to the armed blocks and to the accesses on their way, and the statement
about them (08_memory_hierarchy R167, R168, 15_memory_instructions R279).
-/
namespace Sys2Proof.Sparse

/-- A key that no entry has reads as an unlisted one, whatever the order of the entries. -/
theorem get_of_no_entry {α : Type} (d : Nat → α) (m : List (Nat × α)) (k : Nat) (h : ∀ e ∈ m, e.1 ≠ k) : get d m k = d k := by
  induction m with
  | nil => rfl
  | cons e m ih =>
    have hrest : get d m k = d k := ih fun x hx => h x (List.mem_cons_of_mem _ hx)
    rw [get, if_neg (h e List.mem_cons_self), hrest, ite_self]

end Sys2Proof.Sparse

namespace Sys2Proof.Machine

/-! ### The words of a block (R165, R168) -/

theorem inBlock_iff {blk k : Nat} : inBlock blk k = true ↔ blockKey blk ≤ k ∧ k < blockKey blk + 2 ^ 16 := by
  simp [inBlock]

/-- The vault-linear window ends below the instruction stores, so nothing in its blocks reads as SEAL unwritten. -/
theorem memUnlisted_inBlock {blk k : Nat} (hblk : blk < 0x400000) (hk : inBlock blk k = true) : memUnlisted k = 0 := by
  obtain ⟨hlo, hhi⟩ := inBlock_iff.1 hk
  have hstore : ¬ inStore k = true := by
    simp only [blockKey, linearBase] at hlo hhi
    simp only [inStore, Bool.or_eq_true, Bool.and_eq_true, decide_eq_true_eq]
    simp only [istoreBase, svcStoreBase]
    omega
  rw [memUnlisted_eq, if_neg fun h => hstore h.1]

theorem wordOf_mem_emptyBlock (l : List Nat) {blk k : Nat} (hk : inBlock blk k = true) : wordOf k ∈ emptyBlock l blk := by
  obtain ⟨hlo, hhi⟩ := inBlock_iff.1 hk
  have hword : blockKey blk + 8 * ((k - blockKey blk) / 8) = wordOf k := by
    simp only [blockKey, linearBase, wordOf] at hlo ⊢
    omega
  have hrow : (k - blockKey blk) / 8 < 8192 := by omega
  exact List.mem_append_left _ (List.mem_append_right _ (List.mem_map.2 ⟨_, List.mem_range.2 hrow, hword⟩))

/-! ### Arming one block (R167, R168) -/

section
variable (s : State) (life : Nat) {blk k : Nat}

theorem State.clearBlock_rdByte (hblk : blk < 0x400000) (hk : inBlock blk k = true) : (s.clearBlock blk).rdByte k = 0 := by
  have hgone : ∀ x ∈ (s.clearBlock blk).mem, x.1 ≠ k := by
    rintro x hx rfl
    have hout := (List.mem_filter.1 hx).2
    rw [hk] at hout
    exact Bool.false_ne_true hout
  rw [State.rdByte, Sparse.get_of_no_entry _ _ _ hgone, memUnlisted_inBlock hblk hk]
theorem State.clearBlock_full (hk : inBlock blk k = true) : (s.clearBlock blk).full k = false := by
  have hmem : (s.clearBlock blk).empties.contains (wordOf k) = true := List.contains_iff_mem.2 (wordOf_mem_emptyBlock _ hk)
  rw [State.full, hmem, Bool.not_true]

theorem State.armBlock_blocks (blk : Nat) : ∃ bs, (s.armBlock life blk).blocks =
    { blk := blk, arm := s.tick, life := life, deadline := deadlineOf s.tick life (s.hotBlock blk) } :: bs := ⟨_, rfl⟩
/-- The deadline counts half as long where the layer's sensor stands in zone 1 or above (R167). -/
theorem State.armBlock_deadline (blk : Nat) : ∃ y ∈ (s.armBlock life blk).blocks, y.blk = blk ∧
    y.deadline = s.tick + life * (if (s.sensor (vaultSensor (blk / 131072))).zone = 0 then 700 else 350) := by
  obtain ⟨bs, hbs⟩ := s.armBlock_blocks life blk
  refine ⟨_, hbs ▸ List.mem_cons_self, rfl, ?_⟩
  simp only [deadlineOf, State.hotBlock, bne_iff_ne, ite_not]

@[simp] theorem State.refreshVault_mem (v : Nat) : (s.refreshVault v).mem = s.mem := by rw [State.refreshVault]
@[simp] theorem State.refreshVault_empties (v : Nat) : (s.refreshVault v).empties = s.empties := by rw [State.refreshVault]
/-- An unarmed block is cleared, and its memory is that of the cleared block. -/
theorem State.armBlock_unarmed (h : s.armed blk = false) : (s.armBlock life blk).mem = (s.clearBlock blk).mem ∧
    (s.armBlock life blk).empties = (s.clearBlock blk).empties := by
  simp only [State.armBlock, State.armBlockAt, h, Bool.false_eq_true, if_false, State.enqueue_mem, State.enqueue_empties, and_self]
/-- An armed block keeps its contents (R168): re-arming it occupies its vault's banks and moves its deadline. -/
theorem State.armBlock_armed (h : s.armed blk = true) : (s.armBlock life blk).mem = s.mem ∧
    (s.armBlock life blk).empties = s.empties := by
  simp only [State.armBlock, State.armBlockAt, h, if_true, State.enqueue_mem, State.enqueue_empties, State.refreshVault_mem,
    State.refreshVault_empties, and_self]

theorem State.armBlock_zeroed (h : s.armed blk = false) (hblk : blk < 0x400000) (hk : inBlock blk k = true) :
    (s.armBlock life blk).rdByte k = 0 ∧ (s.armBlock life blk).full k = false := by
  obtain ⟨hmem, hempties⟩ := s.armBlock_unarmed life h
  refine ⟨?_, ?_⟩
  · rw [State.rdByte, hmem]
    exact s.clearBlock_rdByte hblk hk
  · rw [State.full, hempties]
    exact s.clearBlock_full hk
end

/-! ### TARM (R279) -/

section
variable (s : State) (e : TlbEntry)

@[simp] theorem State.useEntry_pkgId (c : Nat) : (s.useEntry c e).pkgId = s.pkgId := by
  unfold State.useEntry
  split
  · rfl
  · rfl
@[simp] theorem State.useEntry_here (c : Nat) : (s.useEntry c e).here = s.here := by
  unfold State.useEntry
  split
  · rfl
  · rfl
/-- The use of an entry changes the TLB of its core and no more of the core. -/
theorem State.core_useEntry_same (c : Nat) : (s.useEntry c e).core c = { s.core c with tlb := tlbPut (s.core c).tlb e } := by
  rw [State.useEntry, State.core_modCore_same]
  split
  · rfl
  · rfl
@[simp] theorem State.touch_pkgId (c : Nat) : (s.touch c e).pkgId = s.pkgId := s.useEntry_pkgId e c
@[simp] theorem Core.tlife_modBank (k : Core) (p : Prio) (f : Bank → Bank) : (k.modBank p f).tlife = k.tlife := by cases p <;> rfl
/-- An access through an entry leaves the issuing core's lifetime of transient blocks. -/
@[simp] theorem State.touch_here_tlife : (s.touch s.here e).mine.tlife = s.mine.tlife := by
  rw [State.touch, State.mine_modMe, Core.tlife_modBank, State.mine, State.useEntry_here, State.core_useEntry_same]
  rfl

/-- The record of a TARM is a remote store wherever its page is not of the L1 (R189, R279). -/
theorem State.armSent_remote {pa : Nat} (va : Word) (h : s.agentOf e.attr pa ≠ .l1) :
    ∃ y : Access, (s.armSent e pa va).accesses = s.accesses ++ [y] ∧ y.remote = true ∧ y.fid = s.me.key := by
  refine ⟨_, rfl, ?_, rfl⟩
  show (true && !(s.agentOf e.attr pa == .l1)) = true
  rw [beq_false_of_ne h]
  rfl
end

section
variable {s : State} {e : TlbEntry} {pa : Nat}

theorem State.unreachable_of_here (h : pkgOf pa = s.pkgId) : s.unreachable pa = false := by
  simp [State.unreachable, h]
theorem State.withPage_go {rq : Req} (h : s.resolve rq = .go e pa) (k : State → TlbEntry → Nat → State) :
    s.withPage rq k = k (s.touch s.here e) e pa := by
  simp only [State.withPage, h]

/-- A TARM of a transient page of this package whose checks pass, with room in the store buffer. -/
theorem State.armPage_arms {va : Word} (hroom : s.storeBuffer s.here < 16) (ht : attrT e.attr = true) (hpkg : pkgOf pa = s.pkgId)
    (hgo : s.resolve (reqArm va) = .go e pa) : s.armPage va =
      (((s.touch s.here e).armPageAt (offOf e.pbase) e.bytes s.mine.tlife.toNat).armSent e pa va).issue := by
  have hown : pkgOf pa = (s.touch s.here e).pkgId := hpkg.trans (s.touch_pkgId e _).symm
  rw [State.armPage, if_neg (Nat.not_le.2 hroom), State.withPage_go hgo]
  simp only [ht, Bool.not_true, Bool.false_eq_true, if_false, State.unreachable_of_here hown, if_pos hown, State.touch_here_tlife]
end

/-- Settles O17: the instruction is `State.armPage_arms` in both forms, and the rest are the laws of its record and of one block. -/
theorem tarmArms : Obligations.TarmArms := by
  intro s a p x e pa arm
  refine ⟨fun hroom ht hpkg => ⟨fun hgo => ?_, fun hgo => ?_⟩, fun va hag => s.armSent_remote e va hag, s.armBlock_deadline,
    fun life blk hblk h k hlo hhi => s.armBlock_zeroed life h hblk (inBlock_iff.2 ⟨hlo, hhi⟩),
    fun life blk h => s.armBlock_armed life h⟩
  · exact congrArg Host.Outcome.next (State.armPage_arms hroom ht hpkg hgo)
  · exact congrArg Host.Outcome.next (State.armPage_arms hroom ht hpkg hgo)

end Sys2Proof.Machine
end

section
/-!
SUPPORT. The full/empty operations and the atomics at their agent in ordinary memory, and the statement about them (09_full_empty R177,
R186, 15_memory_instructions R280 to R282).
-/
namespace Sys2Proof.Machine

section
variable {s : State} {pa key : Nat} (lid : BitVec 32) (va : Nat)

/-! ### Bits, checks and read-modify-writes in ordinary memory (R29, R168, R174) -/

/-- An access that is not through a transient page finds no block unarmed. -/
@[simp] theorem State.unarmed_not_transient : s.unarmed false key = false := rfl
theorem State.sound_of_not_poisoned (r : Answer × State) (hp : s.poisoned key = false) : s.sound key r = r := by
  rw [State.sound, hp, if_neg Bool.false_ne_true]
theorem State.guarded_ordinary (r : Answer × State) (hpa : Ordinary pa) (hp : s.poisoned key = false) :
    s.guarded pa key r = r := by
  rw [State.guarded, State.bad_ordinary hpa hp]
theorem State.wordFull_ordinary (hpa : Ordinary pa) : s.wordFull lid va pa key = s.full key := by
  rcases hpa with h | ⟨k, o, h⟩
  · simp only [State.wordFull, h]
  · simp only [State.wordFull, h]
theorem State.setBit_ordinary (full : Bool) (hpa : Ordinary pa) :
    s.setBit lid va pa key full = if full then s.fill key else s.empty key := by
  rcases hpa with h | ⟨k, o, h⟩
  · simp only [State.setBit, h]
  · simp only [State.setBit, h]
theorem State.fillAt_ordinary (v : Word) (hpa : Ordinary pa) : s.fillAt pa key v = s.fillWord key v := by
  rw [State.fillAt, State.placeWrite_ordinary _ _ hpa, State.fillWord, State.wrWord]
/-- The word that a read of eight bytes answers. -/
theorem State.placeRead_word_ordinary (hpa : Ordinary pa) : BitVec.ofNat 64 (s.placeRead pa key 8) = s.rdWord key := by
  rw [State.placeRead_ordinary 8 hpa, State.rdN, State.rdWord]

section
variable (hpa : Ordinary pa) (hp : s.poisoned key = false)
include hpa hp

/-- A read-modify-write answers the old value, and writes the new one where there is one. -/
theorem State.rmw_ordinary (n : Nat) (f : Nat → Option Nat) : s.rmw false pa key n f =
    (.done (BitVec.ofNat 64 (s.rdN key n)), (f (s.rdN key n)).elim s (s.wrN key n)) := by
  rw [State.rmw, State.unarmed_not_transient, if_neg Bool.false_ne_true, State.guarded_ordinary _ hpa hp,
    State.placeRead_ordinary n hpa, State.placeRead'_ordinary hpa]
  cases f (s.rdN key n) with
  | none => rfl
  | some w => exact congrArg _ (State.placeWrite_ordinary n w hpa)

/-! ### The full/empty operations (R177, R186) -/

/-- An operation that waits for a full word reads it in the step in which it has its effect `f`. -/
theorem State.waitsFull_ordinary (f : State → State) :
    (if s.unarmed false key then (.expired, s) else if !s.wordFull lid va pa key then s.sound key (.notReady, s)
      else s.guarded pa key (.done (BitVec.ofNat 64 (s.placeRead pa key 8)), f (s.placeRead' pa))) =
    if s.full key then (Answer.done (s.rdWord key), f s) else (.notReady, s) := by
  rw [State.unarmed_not_transient, if_neg Bool.false_ne_true, State.wordFull_ordinary lid va hpa, State.sound_of_not_poisoned _ hp,
    State.guarded_ordinary _ hpa hp, State.placeRead_word_ordinary hpa, State.placeRead'_ordinary hpa]
  cases s.full key with
  | true => rfl
  | false => rfl
/-- LDW and its timed form leave their word full. -/
theorem State.doOp_ldw_ordinary {op : AccOp} (hop : op = .ldw ∨ op = .ldwt) : s.doOp lid op va pa key false =
    if s.full key then (.done (s.rdWord key), s) else (.notReady, s) := by
  have hwaits := State.waitsFull_ordinary lid va hpa hp id
  rcases hop with rfl | rfl
  · exact hwaits
  · exact hwaits
/-- LDT and its timed form empty their word. -/
theorem State.doOp_ldt_ordinary {op : AccOp} (hop : op = .ldt ∨ op = .ldtt) : s.doOp lid op va pa key false =
    if s.full key then (.done (s.rdWord key), s.empty key) else (.notReady, s) := by
  have hwaits := State.waitsFull_ordinary lid va hpa hp (State.empty · key)
  rcases hop with rfl | rfl
  · exact hwaits
  · exact hwaits
/-- STP and its timed form wait for an empty word and fill it. -/
theorem State.doOp_stp_ordinary {op : AccOp} {v : Word} (hop : op = .stp v ∨ op = .stpt v) : s.doOp lid op va pa key false =
    if s.full key then (.notReady, s) else (.done 0, s.fillWord key v) := by
  rcases hop with rfl | rfl
  all_goals
    simp only [State.doOp, State.wordFull_ordinary lid va hpa, State.unarmed_not_transient, State.sound_of_not_poisoned _ hp,
      State.fillAt_ordinary v hpa, Bool.false_eq_true, if_false]
/-- STF fills its word, full or empty. -/
theorem State.doOp_stf_ordinary (v : Word) : s.doOp lid (.stf v) va pa key false = (.done 0, s.fillWord key v) := by
  simp only [State.doOp, State.unarmed_not_transient, State.merges_of_not_poisoned 8 hp, State.fillAt_ordinary v hpa,
    Bool.false_eq_true, if_false]
omit hpa in
/-- EMP empties its word, full or empty. -/
theorem State.doOp_emp : s.doOp lid .emp va pa key false = (.done 0, s.empty key) := by
  simp only [State.doOp, State.unarmed_not_transient, State.merges_of_not_poisoned 8 hp, Bool.false_eq_true, if_false]
/-- FEQ answers the bit. -/
theorem State.doOp_feq_ordinary : s.doOp lid .feq va pa key false = (.done (boolWord (s.full key)), s) := by
  simp only [State.doOp, State.wordFull_ordinary lid va hpa, State.unarmed_not_transient, State.guarded_ordinary _ hpa hp,
    Bool.false_eq_true, if_false]
/-- A parked operation is woken where the bit is no longer the one it waits behind. -/
theorem State.doOp_park_ordinary (expected : Bool) : s.doOp lid (.park expected) va pa key false =
    (if s.full key = expected then .notReady else .done 0, s) := by
  simp only [State.doOp, State.wordFull_ordinary lid va hpa, State.unarmed_not_transient, State.sound_of_not_poisoned _ hp,
    Bool.not_false, Bool.true_and, Bool.false_eq_true, if_false]
  split
  · rfl
  · rfl

/-- An engine reads a word with its bit. -/
theorem State.doOp_fetch_ordinary : s.doOp lid .fetch va pa key false = (.word (s.rdWord key) (s.full key), s) := by
  simp only [State.doOp, State.wordFull_ordinary lid va hpa, State.unarmed_not_transient, State.guarded_ordinary _ hpa hp,
    State.placeRead_word_ordinary hpa, State.placeRead'_ordinary hpa, Bool.false_eq_true, if_false]
omit hp in
/-- An engine writes a word, and its bit where it has one for it. -/
theorem State.doOp_put_ordinary (v : Word) (bit : Option Bool) : s.doOp lid (.put v bit) va pa key false = (.done 0,
    let t := (s.wrWord key v).unpoison key
    bit.elim t fun full => if full then t.fill key else t.empty key) := by
  simp only [State.doOp, State.unarmed_not_transient, State.placeWrite_ordinary 8 v.toNat hpa, State.setBit_ordinary lid va _ hpa,
    Bool.false_eq_true, if_false]
  cases bit with
  | none => rfl
  | some full => rfl

/-! ### The atomics (R280 to R282) -/

/-- An AMO that leaves the bit alone, and RED, write the new value of their operation. -/
theorem State.doOp_amo_ordinary (o : AmoOp) (w : Bool) (v : Word) {op : AccOp} (hop : op = .amo o w v false ∨ op = .red o w v) :
    s.doOp lid op va pa key false = (.done (BitVec.ofNat 64 (s.rdN key (atomBytes w))),
      s.wrN key (atomBytes w) (amoVal o (8 * atomBytes w) (s.rdN key (atomBytes w)) v.toNat)) := by
  have hrmw := State.rmw_ordinary hpa hp (atomBytes w) fun old => some (amoVal o (8 * atomBytes w) old v.toNat)
  rcases hop with rfl | rfl
  · exact hrmw
  · exact hrmw
/-- CAS writes its new value where the old one equals its compare value. -/
theorem State.doOp_cas_ordinary (w : Bool) (cmp new : Word) :
    s.doOp lid (.cas w cmp new) va pa key false = (.done (BitVec.ofNat 64 (s.rdN key (atomBytes w))),
      if s.rdN key (atomBytes w) = cmp.toNat % 2 ^ (8 * atomBytes w) then
        s.wrN key (atomBytes w) (new.toNat % 2 ^ (8 * atomBytes w)) else s) := by
  rw [State.doOp, State.rmw_ordinary hpa hp]
  split
  · rfl
  · rfl
end
end

/-- Settles O16: what each operation answers and leaves, by the bit of its word. -/
theorem fullEmptyAndAtomics : Obligations.FullEmptyAndAtomics := by
  refine ⟨fun s lid v va pa key hpa hp => ?_, fun s lid w v c va pa key o hpa hp => ?_⟩
  · have hldw := State.doOp_ldw_ordinary lid va hpa hp (.inl rfl)
    have hldwt := State.doOp_ldw_ordinary lid va hpa hp (.inr rfl)
    have hldt := State.doOp_ldt_ordinary lid va hpa hp (.inl rfl)
    have hldtt := State.doOp_ldt_ordinary lid va hpa hp (.inr rfl)
    have hstp := State.doOp_stp_ordinary (v := v) lid va hpa hp (.inl rfl)
    have hstpt := State.doOp_stp_ordinary (v := v) lid va hpa hp (.inr rfl)
    have hstf := State.doOp_stf_ordinary lid va hpa hp v
    have hemp := State.doOp_emp (pa := pa) lid va hp
    have hfeq := State.doOp_feq_ordinary lid va hpa hp
    have hpark := State.doOp_park_ordinary lid va hpa hp
    refine ⟨⟨?puts, ?putsEmpty, ?putsWord, State.doOp_fetch_ordinary lid va hpa hp⟩, fun hfull => ?full, fun hempty => ?empty⟩
    case puts | putsEmpty | putsWord => exact State.doOp_put_ordinary lid va hpa v _
    case full =>
      simp only [hfull, if_true] at hldw hldwt hldt hldtt hstp hstpt hfeq hpark
      exact ⟨hldw, hldt, hstp, hstf, hemp, hfeq, hldwt, hldtt, hstpt, hpark true, hpark false⟩
    case empty =>
      simp only [hempty, Bool.false_eq_true, if_false] at hldw hldwt hldt hldtt hstp hstpt hfeq hpark
      exact ⟨hldw, hldt, hstp, hstf, hemp, hfeq, hldwt, hldtt, hstpt, hpark false, hpark true⟩
  · exact ⟨State.doOp_amo_ordinary lid va hpa hp o w v (.inl rfl), State.doOp_amo_ordinary lid va hpa hp o w v (.inr rfl),
      State.doOp_cas_ordinary lid va hpa hp w c v⟩

end Sys2Proof.Machine
end

section
/-!
SUPPORT. Results on their way and what they leave, what MTC writes, the step of a running core, and the accumulator
instructions (11_core, 20_fold).
-/
namespace Sys2Proof.Machine

/-! ### The order of results on their way (R211) -/

/-- A result that is on its way lands before one that is put on its way now: in an earlier tick, or in the same one, where no
result of word A gives way to one of word C (R211). -/
def Pend.before (q p : Pend) : Bool := q.due < p.due || (q.due == p.due && (!q.isA || p.isA))

theorem pendInsert_cons (q : Pend) (l : List Pend) (p : Pend) :
    pendInsert (q :: l) p = if q.before p then q :: pendInsert l p else p :: q :: l := rfl

section
variable {pc pa : Pend} (hc : pc.isA = false) (ha : pa.isA = true) (hdue : pc.due = pa.due)
include hc hdue

theorem Pend.wordC_before_wordA : pc.before pa = true := by simp [Pend.before, hc, hdue]

include ha
theorem Pend.wordA_not_before_wordC : pa.before pc = false := by simp [Pend.before, hc, ha, hdue]
/-- What lands before a result of word C lands before one of word A of the same tick. -/
theorem Pend.before_wordA {q : Pend} (hq : q.before pc = true) : q.before pa = true := by
  simp only [Pend.before, hc, ha, hdue] at hq ⊢
  simp only [Bool.or_eq_true, Bool.and_eq_true, decide_eq_true_eq] at hq ⊢
  exact hq.imp id fun ⟨htick, _⟩ => ⟨htick, .inr trivial⟩

/-- Two results of one tick, one of each word, stand in the same order whichever is put on its way first. -/
theorem pendInsert_comm (l : List Pend) : pendInsert (pendInsert l pa) pc = pendInsert (pendInsert l pc) pa := by
  have hca := Pend.wordC_before_wordA hc hdue
  have hac := Pend.wordA_not_before_wordC hc ha hdue
  induction l with
  | nil => simp [pendInsert_cons, pendInsert, hca, hac]
  | cons q l ih =>
    by_cases hqc : q.before pc = true
    · simp [pendInsert_cons, hqc, Pend.before_wordA hc ha hdue hqc, ih]
    · by_cases hqa : q.before pa = true
      · simp [pendInsert_cons, hqc, hqa, hca]
      · simp [pendInsert_cons, hqc, hqa, hca, hac]

/-- Behind the result of word A stands nothing but what was on its way before. -/
theorem pendInsert_wordA_last (l : List Pend) :
    ∃ a b, pendInsert (pendInsert l pc) pa = a ++ pa :: b ∧ ∀ q ∈ b, q ∈ l := by
  induction l with
  | nil => exact ⟨[pc], [], by simp [pendInsert_cons, pendInsert, Pend.wordC_before_wordA hc hdue], by simp⟩
  | cons q l ih =>
    by_cases hqc : q.before pc = true
    · obtain ⟨a, b, hab, hb⟩ := ih
      refine ⟨q :: a, b, ?_, fun x hx => List.mem_cons_of_mem _ (hb x hx)⟩
      simp [pendInsert_cons, hqc, Pend.before_wordA hc ha hdue hqc, hab]
    · obtain ⟨a, b, hl, hab⟩ := pendInsert_split (q :: l) pa
      refine ⟨pc :: a, b, ?_, fun x hx => hl ▸ List.mem_append_right _ hx⟩
      rw [pendInsert_cons, if_neg hqc, pendInsert_cons, if_pos (Pend.wordC_before_wordA hc hdue), hab]
      rfl
end

/-! ### What a register reads as once results have landed (R207, R211) -/

/-- A result for a register, as it is put on its way. -/
abbrev Pend.forReg (isA : Bool) (due : Nat) (d : Reg) (v : Word) : Pend := { due := due, isA := isA, dst := .gpr d, val := v }

theorem Bank.write_eq (b : Bank) (isA : Bool) (due : Nat) (d : Reg) (v : Word) : b.write isA due d v =
    { b with pend := if d = 0 then b.pend else pendInsert b.pend (.forReg isA due d v) } := by
  unfold Bank.write
  split
  · rfl
  · rfl

/-- Where a register reads the same before, it does so behind the same results. -/
theorem Bank.g_foldl_landOne_congr (l : List Pend) {b b' : Bank} {r : Reg} (h : b'.g.get r = b.g.get r) :
    (l.foldl Bank.landOne b').g.get r = (l.foldl Bank.landOne b).g.get r := by
  induction l generalizing b b' with
  | nil => exact h
  | cons p l ih =>
    refine ih ?_
    obtain ⟨due, isA, dst, v⟩ := p
    cases dst with
    | fpctl => exact h
    | gpr x =>
      show (b'.g.set x v)[r.val] = (b.g.set x v)[r.val]
      rw [Vector.getElem_set, Vector.getElem_set]
      split
      · rfl
      · exact h

theorem Bank.rd_land (b : Bank) (k : Nat) (r : Reg) : (b.land k).rd r =
    if r = 0 then 0 else ((b.pend.filter fun p => p.due ≤ k).foldl Bank.landOne b).g.get r := rfl

section
variable {b b' : Bank} {x y : List Pend} {p : Pend} {k : Nat} {r : Reg}

/-- Of the results for a register that have landed, the last one is read. -/
theorem Bank.rd_land_last (hr : r ≠ 0) (hp : b.pend = x ++ p :: y) (hdst : p.dst = .gpr r) (hdue : p.due ≤ k)
    (hy : ∀ q ∈ y, q.dst ≠ .gpr r) : (b.land k).rd r = p.val := by
  rw [Bank.rd_land, if_neg hr, hp, List.filter_append, List.filter_cons_of_pos (by simpa using hdue), List.foldl_append,
    List.foldl_cons, Bank.g_foldl_landOne _ _ _ fun q hq => hy q (List.mem_filter.1 hq).1]
  simp only [Bank.landOne, hdst]
  exact Vector.getElem_set_self ..

/-- A result for another register, or one that has not landed, makes no difference. -/
theorem Bank.rd_land_without (hg : b'.g = b.g) (hp : b.pend = x ++ y) (hp' : b'.pend = x ++ p :: y)
    (hskip : p.dst ≠ .gpr r ∨ k < p.due) : (b'.land k).rd r = (b.land k).rd r := by
  have hbase (l : List Pend) : (l.foldl Bank.landOne b').g.get r = (l.foldl Bank.landOne b).g.get r :=
    Bank.g_foldl_landOne_congr l (by rw [hg])
  rw [Bank.rd_land, Bank.rd_land, hp, hp', List.filter_append, List.filter_append]
  by_cases hdue : p.due ≤ k
  · have hdst := hskip.resolve_right (Nat.not_lt.2 hdue)
    have hone (c : Bank) : (c.landOne p).g.get r = c.g.get r := Bank.g_foldl_landOne [p] c r (by simpa using hdst)
    rw [List.filter_cons_of_pos (by simpa using hdue), hbase, List.foldl_append, List.foldl_append, List.foldl_cons,
      Bank.g_foldl_landOne_congr _ (hone _)]
  · rw [List.filter_cons_of_neg (by simpa using hdue), hbase]
end

section
variable {b : Bank} {d : Reg} (hpend : b.pending d = false)
include hpend

theorem Bank.dst_ne_of_not_pending {p : Pend} (hp : p ∈ b.pend) : p.dst ≠ .gpr d := by
  simpa using List.any_eq_false.1 hpend p hp

/-- A result reads from its tick on, and not before; one for g0 never. -/
theorem Bank.rd_land_write_same (isA : Bool) (due k : Nat) (v : Word) : ((b.write isA due d v).land k).rd d =
    if d = 0 then 0 else if due ≤ k then v else (b.land k).rd d := by
  by_cases hd : d = 0
  · rw [if_pos hd, Bank.rd_land, if_pos hd]
  · obtain ⟨x, y, hx, hxy⟩ := pendInsert_split b.pend (.forReg isA due d v)
    have hw : (b.write isA due d v).pend = x ++ .forReg isA due d v :: y := by rw [Bank.write_eq, if_neg hd, hxy]
    rw [if_neg hd]
    split
    next hdue => exact Bank.rd_land_last hd hw rfl hdue fun q hq => Bank.dst_ne_of_not_pending hpend (hx ▸ List.mem_append_right _ hq)
    next hdue => exact Bank.rd_land_without (by rw [Bank.write_eq]) hx hw (.inr (Nat.not_le.1 hdue))

/-- Behind a result of each word in one tick, that of word A is read. -/
theorem Bank.rd_land_wordA {due k : Nat} (v w : Word) (hd : d ≠ 0) (hdue : due ≤ k) :
    (((b.write false due d v).write true due d w).land k).rd d = w := by
  obtain ⟨x, y, hxy, hy⟩ := pendInsert_wordA_last (pc := .forReg false due d v) (pa := .forReg true due d w) rfl rfl rfl b.pend
  have hw : ((b.write false due d v).write true due d w).pend = x ++ .forReg true due d w :: y := by
    simp only [Bank.write_eq, if_neg hd, hxy]
  exact Bank.rd_land_last hd hw rfl hdue fun q hq => Bank.dst_ne_of_not_pending hpend (hy q hq)
end

theorem Bank.rd_land_write_ne (b : Bank) (isA : Bool) (due k : Nat) {d r : Reg} (v : Word) (h : r ≠ d) :
    ((b.write isA due d v).land k).rd r = (b.land k).rd r := by
  by_cases hd : d = 0
  · rw [Bank.write_eq, if_pos hd]
  · obtain ⟨x, y, hx, hxy⟩ := pendInsert_split b.pend (.forReg isA due d v)
    exact Bank.rd_land_without (by rw [Bank.write_eq]) hx (by rw [Bank.write_eq, if_neg hd, hxy])
      (.inl fun e => h (Dest.gpr.inj e).symm)

/-- Results of the two words in one tick are put on their way in either order. -/
theorem Bank.write_comm (b : Bank) (due : Nat) (d : Reg) (v w : Word) :
    (b.write true due d w).write false due d v = (b.write false due d v).write true due d w := by
  simp only [Bank.write_eq]
  split
  · rfl
  · rw [pendInsert_comm (pc := .forReg false due d v) (pa := .forReg true due d w) rfl rfl rfl]

/-- Settles O4: by where a result is put among those on their way. -/
theorem resultsLandInTime : Obligations.ResultsLandInTime := by
  refine ⟨fun b isA due k d r v hpend => ⟨Bank.rd_land_write_same hpend isA due k v,
    b.rd_land_write_ne isA due k v, if_pos rfl⟩, fun b due k d v w hd hpend hdue => ?_⟩
  have hA := Bank.rd_land_wordA hpend v w hd hdue
  exact ⟨hA, by rw [Bank.write_comm, hA]⟩

/-! ### What a change of the issuing bank leaves alone (R208) -/

/-- Nothing but the issuing bank of the issuing core of `s` differs in `t`. -/
structure State.OnlyMyBank (s t : State) : Prop where
  package : t = { s with cores := t.cores }
  others : ∀ c, c ≠ s.here → t.core c = s.core c
  rest : { t.mine with low := s.mine.low, high := s.mine.high } = s.mine
  bank : ∀ p, p ≠ s.mine.cur → t.bank s.here p = s.bank s.here p

theorem Core.modBank_rest (k : Core) (p : Prio) (f : Bank → Bank) (x y : Bank) :
    { k.modBank p f with low := x, high := y } = { k with low := x, high := y } := by cases p <;> rfl

namespace State.OnlyMyBank
variable {s t : State}

theorem refl (s : State) : s.OnlyMyBank s := ⟨rfl, fun _ _ => rfl, rfl, fun _ _ => rfl⟩

theorem modMe (h : s.OnlyMyBank t) (f : Bank → Bank) : s.OnlyMyBank (t.modMe f) := by
  obtain ⟨hpackage, hothers, hrest, hbank⟩ := h
  have hhere : t.here = s.here := by rw [hpackage]
  have hcur : t.mine.cur = s.mine.cur := by simpa only using congrArg Core.cur hrest
  refine ⟨?_, fun c hc => ?_, ?_, fun p hp => ?_⟩
  · exact congrArg (fun u : State => { u with cores := (t.modMe f).cores }) hpackage
  · rw [State.core_modMe_ne t f (hhere ▸ hc), hothers c hc]
  · rw [State.mine_modMe, Core.modBank_rest, hrest]
  · rw [State.bank_modMe_ne t f (.inr (hcur ▸ hp)), hbank p hp]
end State.OnlyMyBank

/-- Settles O5: a result and an issue change the issuing bank alone. -/
theorem resultFrame : Obligations.ResultFrame := by
  refine fun s lat d v => ⟨fun t ht => ?_, ?_, ?_⟩
  · have h : s.OnlyMyBank t := by
      rcases ht with rfl | rfl
      · exact (State.OnlyMyBank.refl s).modMe _
      · exact ((State.OnlyMyBank.refl s).modMe _).modMe _
    exact ⟨h.package, h.others, h.rest, h.bank⟩
  · rw [State.wrA, State.me_modMe, Bank.write_eq]
  · rw [State.issue, State.me_modMe, State.wrC, State.me_modMe, Bank.write_eq]
    rfl

/-! ### The step of a running core (R209, R210, R303) -/

theorem step_turn {s : State} {c : Nat} {r : List Nat} (hdue : ∀ e q, s.queue = e :: q → s.tick < e.due) (hturn : s.turn = c :: r) :
    step s = ({ s with turn := r }).slot c := by
  unfold step
  split
  next e q hq => rw [if_neg (Nat.not_le.2 (hdue e q hq)), hturn]
  next => rw [hturn]

/-- A core that neither leaves, drops annulled bundles nor is halted runs the bundle of the firing it chooses. -/
theorem State.slot_runs {s s1 s2 : State} {c : Nat}
    (hs1 : s1 = ((({ s with here := c } : State).modCore c fun k =>
      { k with low := k.low.land s.tick, high := k.high.land s.tick }).tryLeave c .high).tryLeave c .low)
    (hhalt : s1.mine.halt = false) (hleaving : s1.me.leaving = none) (hskip : s1.me.inSkip s1.tick = false)
    (hchoose : exec .entryStart s1.takeAsync = .next s2)
    (hruns : s2.me.run = .running ∧ s2.me.leaving = none ∧ s2.me.readyAt ≤ s2.tick) : s.slot c = s2.runBundle := by
  simp only [State.slot, ← hs1, hhalt, hleaving, hskip, hchoose]
  exact if_pos hruns

section
variable {s t u : State} {b : Bundle}

/-- Word A executes in the tick in which word C issues. -/
theorem State.issueBundle_whole (hc : exec b.c s = .next t) (hissued : t.me.issued = true) (ha : exec b.a t = .next u) :
    s.issueBundle b = .next (u.finishBundle.endSlot s.here) := by
  simp only [State.issueBundle, hc, hissued, ha, if_true]
theorem State.issueBundle_held (hc : exec b.c s = .next t) (hissued : t.me.issued = false) :
    s.issueBundle b = .next (t.endSlot s.here) := by
  simp only [State.issueBundle, hc, hissued, Bool.false_eq_true, if_false]

/-- A bundle that can be fetched waits for its registers, and then issues. -/
theorem State.runBundle_fetched (hcode : s.mine.codeAt ≠ some s.tick) (hbad : s.mine.badCode.contains s.me.pc.toNat = false)
    (hb : decodeBundle (s.rdWord (bundleKey s.here s.me.pc.toNat)).toNat = some b) :
    s.runBundle = if (needsOf b).any s.awaits then
      .next ((if (needsOf b).any s.awaitsLoad then s.holdOp else s.hold).endSlot s.here) else s.issueBundle b := by
  simp only [State.runBundle, hcode, hbad, hb, false_and, Bool.false_eq_true, if_false]
end

/-- Settles O29: a core's tick chooses the firing, fetches, and issues or holds the bundle. -/
theorem stepRunsTheBundle : Obligations.StepRunsTheBundle := by
  refine ⟨fun s s1 s2 t u c r b hdue hturn hs1 hhalt hleaving hskip hchoose hrun hleaving2 hready hcode hbad hb hneeds hc => ?_,
    fun s b hcode hbad hb => ⟨rfl, fun hload => ?_, fun hpend hload => ?_⟩⟩
  · have hissue : step s = s2.issueBundle b := by
      rw [step_turn hdue hturn, State.slot_runs (s := { s with turn := r }) hs1 hhalt hleaving hskip hchoose
        ⟨hrun, hleaving2, hready⟩, State.runBundle_fetched hcode hbad hb, hneeds]
      rfl
    exact ⟨fun hissued ha => hissue.trans (State.issueBundle_whole hc hissued ha),
      fun hheld => hissue.trans (State.issueBundle_held hc hheld)⟩
  · obtain ⟨r, hr, hawaits⟩ := hload
    have hany : (needsOf b).any s.awaitsLoad = true := List.any_eq_true.2 ⟨r, hr, hawaits⟩
    have hall : (needsOf b).any s.awaits = true := List.any_eq_true.2 ⟨r, hr, by rw [State.awaits, hawaits, Bool.or_true]⟩
    rw [State.runBundle_fetched hcode hbad hb, if_pos hall, if_pos hany]
  · obtain ⟨r, hr, hpending⟩ := hpend
    have hany : (needsOf b).any s.awaitsLoad = false := List.any_eq_false.2 fun x hx => by rw [hload x hx]; exact Bool.false_ne_true
    have hall : (needsOf b).any s.awaits = true := List.any_eq_true.2 ⟨r, hr, by rw [State.awaits, hpending, Bool.true_or]⟩
    rw [State.runBundle_fetched hcode hbad hb, if_pos hall, hany]
    rfl

/-! ### The accumulator instructions (R206, R365 to R371) -/

section
variable {s : State}

theorem State.queueItem_room (it : QItem) (h : s.mine.fqRoom = true) : s.queueItem it =
    (((s.modMine fun k => { k with fq := k.fq ++ [{ owner := some s.me.key, item := it, begun := false }] }).anchor).issue).kick
      s.here := if_pos h
theorem State.queueItem_full (it : QItem) (h : s.mine.fqRoom = false) : s.queueItem it = s :=
  if_neg (by rw [h]; exact Bool.false_ne_true)
end

/-- The words of an MWID that must be multiples of 8: address and row stride (R367). -/
def State.widWords (s : State) (a b : Reg) : List Word := [s.rd a, rowStride (s.rd b)]
/-- Those of an MNAR to memory: in a DXB format its scale address with them (R368). -/
def State.narWords (s : State) (f : NarFmt) (a b e : Reg) (arr : Option (BitVec 9)) : List Word :=
  if arr.isSome then [] else s.widWords a b ++ if (narDxb f).isSome then [s.rd e] else []
/-- The first of some words that is not a multiple of 8. -/
def unaligned (l : List Word) : Option Word := l.find? fun v => v.toNat % 8 != 0

theorem misaligned_words (l : List Word) : misaligned (l.map fun v => (v, 8)) = unaligned l := by
  rw [misaligned, List.find?_map, Option.map_map]
  exact congrFun Option.map_id _

section
variable {s : State} {c : Acc} {w : WidFmt} {f : NarFmt} {rm : Rm} {a b e : Reg} {arr : Option (BitVec 9)} {v : Word}

theorem execMwid_queues (h : unaligned (s.widWords a b) = none) :
    execMwid c w a b s = .next (s.queueItem (.wid c w (s.rd a) (s.rd b) false)) := by
  have hm : misaligned [(s.rd a, 8), (rowStride (s.rd b), 8)] = none := (misaligned_words (s.widWords a b)).trans h
  simp only [execMwid, hm]
theorem execMwid_traps (h : unaligned (s.widWords a b) = some v) : execMwid c w a b s = .next (s.trapHere 0x03 0 v) := by
  have hm : misaligned [(s.rd a, 8), (rowStride (s.rd b), 8)] = some v := (misaligned_words (s.widWords a b)).trans h
  simp only [execMwid, hm]

theorem State.narWords_checks : (if arr.isSome then [] else
    [(s.rd a, 8), (rowStride (s.rd b), 8)] ++ if (narDxb f).isSome then [(s.rd e, 8)] else []) =
    (s.narWords f a b e arr).map fun v => (v, 8) := by
  unfold State.narWords
  split
  · rfl
  · split
    · rfl
    · rfl
theorem execMnar_queues (h : unaligned (s.narWords f a b e arr) = none) : execMnar c f rm a b e arr s =
    .next (s.queueItem (.nar c f (s.mode rm) (s.rd a) (s.rd b) (s.rd e) arr 0 (s.mine.gapOf f))) := by
  simp only [execMnar, State.narWords_checks, misaligned_words, h]
theorem execMnar_traps (h : unaligned (s.narWords f a b e arr) = some v) :
    execMnar c f rm a b e arr s = .next (s.trapHere 0x03 0 v) := by
  simp only [execMnar, State.narWords_checks, misaligned_words, h]

theorem unaligned_widWords (ha : (s.rd a).toNat % 8 = 0) (hb : (rowStride (s.rd b)).toNat % 8 = 0) :
    unaligned (s.widWords a b) = none := by simp [unaligned, State.widWords, ha, hb]
theorem unaligned_narWords (h : ((s.rd a).toNat % 8 = 0 ∧ (rowStride (s.rd b)).toNat % 8 = 0 ∧
      ((narDxb f).isSome = true → (s.rd e).toNat % 8 = 0)) ∨ arr.isSome = true) :
    unaligned (s.narWords f a b e arr) = none := by
  unfold State.narWords
  split
  · rfl
  next harr =>
    obtain ⟨ha, hb, he⟩ := h.resolve_right harr
    rw [unaligned, List.find?_append, ← unaligned, unaligned_widWords ha hb]
    split
    next hdxb => simp [he hdxb]
    next => rfl
end

section
variable {s : State} {m : BitVec 4}

theorem State.names_none (h : ∀ x ∈ s.mine.fq, s.names m x.item = false) :
    ¬ (s.mine.fq.any fun x => s.names m x.item) = true := by
  rw [List.any_eq_true]
  exact fun ⟨x, hx, hn⟩ => by rw [h x hx] at hn; exact Bool.false_ne_true hn

/-- A wait on which no failure falls goes on. -/
theorem State.failTrap_none (ok : State → State) (h : s.myFails m = []) : s.failTrap m ok = ok s := by
  rw [State.failTrap, h, State.failTrapOf]
theorem State.recTrap_none (ok : State → State) (h : (s.myFails m).filter (·.fold) = []) : s.recTrap m ok = ok s := by
  rw [State.recTrap, h, State.failTrapOf]

theorem execMrec_issues {c : Acc} (d : Reg) (hfree : ∀ x ∈ s.mine.fq, s.names (layerBit c.val) x.item = false)
    (hfails : (s.myFails (layerBit c.val)).filter (·.fold) = []) :
    let r := (vget s.mine.recs c.val none).getD { gd := 0, gs := 0 }
    execMrec c d s = .next (((s.wrC 1 d r.gd).wrC 1 (nextReg d) r.gs).anchor).issue := by
  simp only [execMrec, if_neg (State.names_none hfree), State.recTrap_none _ hfails]
theorem execMwait_issues {mask : BitVec 4} (hfree : ∀ x ∈ s.mine.fq, s.names (if mask = 0 then 0xF else mask) x.item = false)
    (hfails : s.myFails (if mask = 0 then 0xF else mask) = []) : execMwait mask s = .next s.anchor.issue := by
  simp only [execMwait, if_neg (State.names_none hfree), State.failTrap_none _ hfails]
theorem execFenceE_issues (hbusy : s.engineBusy = false) (hstop : lowestStop (s.attached 0) = none) (hfails : s.myFails 0xF = []) :
    execFenceE s = .next s.issue := by
  simp only [execFenceE, hbusy, Bool.false_eq_true, if_false, hstop, State.failTrap_none _ hfails]
theorem execFenceE_holds (hbusy : s.engineBusy = true) : execFenceE s = .next s.holdOp := by
  simp only [execFenceE, hbusy, if_true]
end

/-- The fields of MQ's word (R371). -/
theorem execMq_issues (d : Reg) (s : State) : execMq d s =
    .next ((s.wrC 1 d (BitVec.ofNat 64 ((s.memberSet s.here).toNat + 16 * (s.nowSet (coreTower s.here)).toNat +
      256 * s.mine.flast.toNat + 4096 * (s.fencedSet (coreTower s.here)).toNat + 65536 * (s.mine.fq.length % 8)))).anchor).issue := by
  have hset (x : BitVec 4) (lo : Nat) : place x.toNat 4 lo = 2 ^ lo * x.toNat := by
    rw [place_eq_mul, Nat.mod_eq_of_lt x.isLt, Nat.mul_comm]
  have hlen : place s.mine.fq.length 3 16 = 65536 * (s.mine.fq.length % 8) :=
    (place_eq_mul ..).trans (Nat.mul_comm ..)
  simp only [execMq, hset, hlen, Nat.reducePow]

/-- Settles O48: each meaning where its words are aligned, where nothing it waits for is left, and where it traps or waits. -/
theorem accumulatorInstructions : Obligations.AccumulatorInstructions := by
  intro s c d a b e w f rm arr mask enters stride free
  refine ⟨fun hroom => ?zero, fun ha hb hroom => ?wid, fun hwords hroom => ?nar, fun hfull => ?full,
    ⟨fun v hv => ?widTraps, fun v hv => ?narTraps⟩, execMrec_issues d, fun ⟨hnone, hfails⟩ => execMwait_issues hnone hfails,
    execMq_issues d s, execFenceE_issues, execFenceE_holds⟩
  case zero => exact congrArg Host.Outcome.next (s.queueItem_room _ hroom)
  case wid => exact (execMwid_queues (unaligned_widWords ha hb)).trans (congrArg Host.Outcome.next (s.queueItem_room _ hroom))
  case nar => exact (execMnar_queues (unaligned_narWords hwords)).trans (congrArg Host.Outcome.next (s.queueItem_room _ hroom))
  case full => exact congrArg Host.Outcome.next (State.queueItem_full _ hfull)
  case widTraps => exact execMwid_traps hv
  case narTraps => exact execMnar_traps hv

/-! ### What MTC writes (R207, R285, R286) -/

/-- A result for %fpctl that stands as one of word A: it lands behind what an MTC puts on its way for the same tick. -/
def fpctlOfWordA : Pend := { due := 1, isA := true, dst := .fpctl, val := 0 }
/-- The package at reset, with that result on its way in the bank that issues. -/
def State.fpctlPending : State := State.reset.modMe fun b => { b with pend := [fpctlOfWordA] }

/-- Refutes O19: the statement is about every state, and in one where a result for %fpctl is on its way already, as one of word A
and for the next tick, an MTC of 1 puts its own result before it: the old one lands last, and %fpctl reads 0. (The model itself
puts no such result on its way: only MTC writes %fpctl, and as a result of word C.) -/
theorem not_writtenRegistersReadBack : ¬ Obligations.WrittenRegistersReadBack := by
  intro h
  obtain ⟨-, -, -, hfpctl, -⟩ := h State.fpctlPending 1 0x008
  exact absurd (hfpctl rfl).1 (by decide)

end Sys2Proof.Machine
end

section
/-!
SUPPORT. Encoding and decoding an instruction: what a field of a word gives back, one lemma for each format of word A and of word C,
and the opcodes that are refused (13_instruction_formats).
-/
namespace Sys2Proof

/-! ### A field of a word holds what was put there (R236, R240) -/

section
variable (w e lo n : Nat)

@[simp] theorem fld_eq : fld w lo n = w / 2 ^ lo % 2 ^ n := rfl
@[simp] theorem reg_eq_iff (r : Reg) : reg w lo = r ↔ w / 2 ^ lo % 32 = r.val := Fin.ext_iff
@[simp] theorem fin8_eq_iff (x : Fin 8) : fin8 w lo = x ↔ w / 2 ^ lo % 8 = x.val := Fin.ext_iff
@[simp] theorem fin4_eq_iff (x : Fin 4) : fin4 w lo = x ↔ w / 2 ^ lo % 4 = x.val := Fin.ext_iff
@[simp] theorem bv_eq_iff (x : BitVec n) : bv n w lo = x ↔ w / 2 ^ lo % 2 ^ n = x.toNat := by
  rw [bv, ← BitVec.toNat_inj, BitVec.toNat_ofNat]
@[simp] theorem flag_eq_iff (b : Bool) : flag w lo = b ↔ w / 2 ^ lo % 2 = bit b := by
  cases b <;> simp [flag, bit]
@[simp] theorem afield_eq_iff (f : Field) : afield e = f ↔ e % 512 = f.off.toNat ∧ e / 512 % 64 = f.wm1.toNat := by
  obtain ⟨off, wm1⟩ := f
  simp [afield]
@[simp] theorem mask_eq_none_iff (mu mt : Nat) : mask w mu mt = none ↔ w / 2 ^ mu % 2 = 1 := by simp [mask, bit]
@[simp] theorem mask_eq_some_iff (mu mt : Nat) (t : Tag) :
    mask w mu mt = some t ↔ w / 2 ^ mu % 2 = 0 ∧ w / 2 ^ mt % 8 = t.val := by simp [mask, bit]
@[simp] theorem key_eq_reg_iff (a : Reg) : key w e = .reg a ↔ w / 2 ^ 14 % 2 = 1 ∧ w / 2 ^ 9 % 32 = a.val := by
  unfold key
  split <;> simp_all [bit]
@[simp] theorem key_eq_imm_iff (k : BitVec 17) : key w e = .imm k ↔ w / 2 ^ 14 % 2 = 0 ∧ e / 2 ^ 15 % 2 ^ 17 = k.toNat := by
  unfold key
  split <;> simp_all [bit]
@[simp] theorem arr?_eq_some_iff (arr : Option (BitVec 9)) : arr? e = some arr ↔ e % 1024 = arrBit arr + arrOff arr * 2 := by
  by_cases h : e % 2 = 1 <;> rcases arr with _ | o <;> simp [arr?, flag, h, arrBit, arrOff] <;> omega
@[simp] theorem sel5?_eq_some_iff (x : Fin 5) : sel5? n = some x ↔ n = x.val := by
  unfold sel5?
  split <;> simp [Fin.ext_iff]
  omega

@[simp] theorem allZero_nil : allZero w [] = true := rfl
@[simp] theorem allZero_cons (p : Nat × Nat) (l : List (Nat × Nat)) :
    allZero w (p :: l) = true ↔ w / 2 ^ p.1 % 2 ^ p.2 = 0 ∧ allZero w l = true := by simp [allZero]
end

theorem bit_lt (b : Bool) : bit b < 2 := by cases b <;> decide

/-! ### A code stands for what it encodes (R237, R239, R241) -/
theorem Scope.code_lt (x : Scope) : x.code < 7 := by cases x <;> decide
theorem Rm.code_lt (x : Rm) : x.code < 5 := by cases x <;> decide
theorem AmoOp.code_lt (x : AmoOp) : x.code < 9 := by cases x <;> decide
theorem RingCond.code_lt (x : RingCond) : x.code < 3 := by cases x <;> decide
theorem FoldFmt.code_lt (x : FoldFmt) : x.code < 8 := by cases x <;> decide
theorem NarFmt.code_lt (x : NarFmt) : x.code < 10 := by cases x <;> decide
theorem SeqCode.code_lt (x : SeqCode) : x.code < 24 := by cases x <;> decide
theorem IntTy.code_lt (x : IntTy) : x.code < 4 := by cases x <;> decide
theorem FpTy.code_lt (x : FpTy) : x.code < 3 := by cases x <;> decide
theorem FfPair.code_lt (x : FfPair) : x.code < 8 := by cases x <;> decide
theorem NarrowFmt.code_lt (x : NarrowFmt) : x.code < 4 := by cases x <;> decide
theorem WidFmt.code_lt (x : WidFmt) : x.code < 9 := by cases x <;> decide
theorem Size.code_lt (x : Size) : x.code < 4 := by cases x <;> decide
theorem Level.code_lt (x : Level) : x.code < 8 := by cases x <;> decide
theorem CopyMode.code_lt (x : CopyMode) : x.code < 4 := by cases x <;> decide
theorem TagOp.code_lt (x : TagOp) : x.code < 4 := by cases x <;> decide
@[simp] theorem Scope.ofCode?_eq_some_iff (n : Nat) (x : Scope) : Scope.ofCode? n = some x ↔ n = x.code :=
  ⟨by unfold Scope.ofCode?; split <;> rintro ⟨⟩ <;> rfl, by rintro rfl; cases x <;> rfl⟩
@[simp] theorem Rm.ofCode?_eq_some_iff (n : Nat) (x : Rm) : Rm.ofCode? n = some x ↔ n = x.code :=
  ⟨by unfold Rm.ofCode?; split <;> rintro ⟨⟩ <;> rfl, by rintro rfl; cases x <;> rfl⟩
@[simp] theorem AmoOp.ofCode?_eq_some_iff (n : Nat) (x : AmoOp) : AmoOp.ofCode? n = some x ↔ n = x.code :=
  ⟨by unfold AmoOp.ofCode?; split <;> rintro ⟨⟩ <;> rfl, by rintro rfl; cases x <;> rfl⟩
@[simp] theorem RingCond.ofCode?_eq_some_iff (n : Nat) (x : RingCond) : RingCond.ofCode? n = some x ↔ n = x.code :=
  ⟨by unfold RingCond.ofCode?; split <;> rintro ⟨⟩ <;> rfl, by rintro rfl; cases x <;> rfl⟩
@[simp] theorem FoldFmt.ofCode?_eq_some_iff (n : Nat) (x : FoldFmt) : FoldFmt.ofCode? n = some x ↔ n = x.code :=
  ⟨by unfold FoldFmt.ofCode?; split <;> rintro ⟨⟩ <;> rfl, by rintro rfl; cases x <;> rfl⟩
@[simp] theorem NarFmt.ofCode?_eq_some_iff (n : Nat) (x : NarFmt) : NarFmt.ofCode? n = some x ↔ n = x.code :=
  ⟨by unfold NarFmt.ofCode?; split <;> rintro ⟨⟩ <;> rfl, by rintro rfl; cases x <;> rfl⟩
@[simp] theorem SeqCode.ofCode?_eq_some_iff (n : Nat) (x : SeqCode) : SeqCode.ofCode? n = some x ↔ n = x.code :=
  ⟨by unfold SeqCode.ofCode?; split <;> rintro ⟨⟩ <;> rfl, by rintro rfl; cases x <;> rfl⟩
@[simp] theorem IntTy.ofCode?_eq_some_iff (n : Nat) (x : IntTy) : IntTy.ofCode? n = some x ↔ n = x.code :=
  ⟨by unfold IntTy.ofCode?; split <;> rintro ⟨⟩ <;> rfl, by rintro rfl; cases x <;> rfl⟩
@[simp] theorem FpTy.ofCode?_eq_some_iff (n : Nat) (x : FpTy) : FpTy.ofCode? n = some x ↔ n = x.code :=
  ⟨by unfold FpTy.ofCode?; split <;> rintro ⟨⟩ <;> rfl, by rintro rfl; cases x <;> rfl⟩
@[simp] theorem FfPair.ofCode?_eq_some_iff (n : Nat) (x : FfPair) : FfPair.ofCode? n = some x ↔ n = x.code :=
  ⟨by unfold FfPair.ofCode?; split <;> rintro ⟨⟩ <;> rfl, by rintro rfl; cases x <;> rfl⟩
@[simp] theorem NarrowFmt.ofCode?_eq_some_iff (n : Nat) (x : NarrowFmt) : NarrowFmt.ofCode? n = some x ↔ n = x.code :=
  ⟨by unfold NarrowFmt.ofCode?; split <;> rintro ⟨⟩ <;> rfl, by rintro rfl; cases x <;> rfl⟩
@[simp] theorem WidFmt.ofCode?_eq_some_iff (n : Nat) (x : WidFmt) : WidFmt.ofCode? n = some x ↔ n = x.code :=
  ⟨by unfold WidFmt.ofCode?; split <;> rintro ⟨⟩ <;> rfl, by rintro rfl; cases x <;> rfl⟩
@[simp] theorem Size.ofCode_eq_iff (n : Nat) (x : Size) : Size.ofCode (n % 4) = x ↔ n % 4 = x.code := by
  have hlt : n % 4 < 4 := Nat.mod_lt _ (by decide)
  exact ⟨by rintro rfl; interval_cases n % 4 <;> rfl, by intro h; rw [h]; cases x <;> rfl⟩
@[simp] theorem Level.ofCode_eq_iff (n : Nat) (x : Level) : Level.ofCode (n % 8) = x ↔ n % 8 = x.code := by
  have hlt : n % 8 < 8 := Nat.mod_lt _ (by decide)
  exact ⟨by rintro rfl; interval_cases n % 8 <;> rfl, by intro h; rw [h]; cases x <;> rfl⟩
@[simp] theorem CopyMode.ofCode_eq_iff (n : Nat) (x : CopyMode) : CopyMode.ofCode (n % 4) = x ↔ n % 4 = x.code := by
  have hlt : n % 4 < 4 := Nat.mod_lt _ (by decide)
  exact ⟨by rintro rfl; interval_cases n % 4 <;> rfl, by intro h; rw [h]; cases x <;> rfl⟩
@[simp] theorem TagOp.ofCode_eq_iff (n : Nat) (x : TagOp) : TagOp.ofCode (n % 4) = x ↔ n % 4 = x.code := by
  have hlt : n % 4 < 4 := Nat.mod_lt _ (by decide)
  exact ⟨by rintro rfl; interval_cases n % 4 <;> rfl, by intro h; rw [h]; cases x <;> rfl⟩
@[simp] theorem cvtif?_eq_some_iff (n : Nat) (p : IntTy × FpTy) : cvtif? n = some p ↔ n = 4 * p.2.code + p.1.code := by
  obtain ⟨x, y⟩ := p
  have hx := x.code_lt
  simp only [cvtif?, Option.bind_eq_some_iff, Option.map_eq_some_iff, IntTy.ofCode?_eq_some_iff, FpTy.ofCode?_eq_some_iff,
    Prod.mk.injEq, existsAndEq, and_true]
  omega
@[simp] theorem cvtfi?_eq_some_iff (n : Nat) (p : FpTy × IntTy) : cvtfi? n = some p ↔ n = 4 * p.1.code + p.2.code := by
  obtain ⟨x, y⟩ := p
  have hy := y.code_lt
  simp only [cvtfi?, Option.bind_eq_some_iff, Option.map_eq_some_iff, IntTy.ofCode?_eq_some_iff, FpTy.ofCode?_eq_some_iff,
    Prod.mk.injEq, existsAndEq, and_true]
  omega
@[simp] theorem redop?_eq_some_int_iff (w : Nat) (o : AmoOp) : redop? w = some (.int o) ↔ w / 32 % 16 = o.code ∧ o ≠ .swap := by
  have hswap : o ≠ .swap ↔ o.code < 8 := by cases o <;> decide
  unfold redop?
  split_ifs with h8 hlt
  all_goals
    simp [hswap] at *
    omega
@[simp] theorem redop?_eq_some_fadd_iff (w : Nat) (r : Rm) :
    redop? w = some (.fadd r) ↔ w / 32 % 16 = 8 ∧ w / 524288 % 8 = r.code := by
  unfold redop?
  split_ifs with h8 hlt
  all_goals
    simp at *
    omega

/-! ### Word A (R240, R241) -/

/-- Beside a NOP, encoding and decoding give a word A instruction back. -/
def Instr.RoundTripsA (i : Instr) : Prop :=
  ∃ b, encode i = some b ∧ b < 2 ^ 64 ∧ decodeBundle b = some { c := .nopC, a := i }

/-- A bundle that is not lone decodes to what is read of its two words, their checks passed. -/
theorem decodeBundle_of_reads {b w e opC opA : Nat} {c a : Instr} (hlow : b % 2 ^ 32 = w) (hhigh : b / 2 ^ 32 % 2 ^ 32 = e)
    (hopC : w / 2 ^ 24 % 128 = opC) (hopA : e / 2 ^ 24 % 256 = opA) (hlone : flag w 31 = false)
    (hC : (assignedC opC && allZero w (zeroC opC false w) && !loneBad opC false && !condZero opC w (if opC == 0x7F then e else 0)) = true)
    (hA : (assignedA opA && allZero e (zeroA opA)) = true) (hc : readC false w e = some c) (ha : readA e = some a)
    (hwf : (c.wf && a.wf) = true) : decodeBundle b = some { c := c, a := a } := by
  have hfar : loneFar opC false e = false := rfl
  rw [decodeBundle]
  simp only [hlow, hhigh, hopC, hopA, hlone, Bool.false_or]
  rw [if_pos]
  · simp [hc, ha, hwf]
  · simp only [hC, hfar, hA]; rfl

/-- A word A of an assigned opcode, its fixed fields zero, decodes beside a NOP to what is read of it. -/
theorem roundTripsA_of_reads {i : Instr} (op w : Nat) {z : List (Nat × Nat)} (hop : (assignedA op && op < 256) = true)
    (hz : zeroA op = z) (henc : encode i = some (w * 2 ^ 32)) (hwf : i.wf = true)
    (hread : ∀ v, v = w → v / 2 ^ 24 = op ∧ allZero v z = true ∧ (v / 2 ^ 24 % 256 = op → readA v = some i)) :
    i.RoundTripsA := by
  simp only [Bool.and_eq_true, decide_eq_true_eq] at hop
  obtain ⟨hop, hlt⟩ := hop
  obtain ⟨hw, hzero, hread⟩ := hread w rfl
  have hop8 : w / 2 ^ 24 % 256 = op := by omega
  refine ⟨_, henc, by omega, decodeBundle_of_reads (w := 0) (e := w) (opC := 0) (by omega) (by omega) rfl hop8 rfl rfl ?_ rfl
    (hread hop8) (by rw [hwf]; rfl)⟩
  rw [hop, hz, hzero]
  rfl

section
variable {d a b : Reg} {r : Rm} (op : Nat)

/-- Three registers. -/
theorem roundTripsA_regs {mk : Reg → Reg → Reg → Instr} (hop : (assignedA op && op < 256) = true) (hz : zeroA op = [(0, 9)])
    (henc : encode (mk d a b) = some ((op * 2 ^ 24 + d.val * 524288 + a.val * 16384 + b.val * 512) * 2 ^ 32)) (hwf : (mk d a b).wf = true)
    (hread : ∀ w, w / 2 ^ 24 % 256 = op → readA w = some (mk (reg w 19) (reg w 14) (reg w 9))) :
    (mk d a b).RoundTripsA := by
  refine roundTripsA_of_reads op _ hop hz henc hwf fun v hv => ⟨by omega, by simp; omega, fun hv24 => ?_⟩
  have hd : reg v 19 = d := (reg_eq_iff ..).2 (by omega)
  have ha : reg v 14 = a := (reg_eq_iff ..).2 (by omega)
  have hb : reg v 9 = b := (reg_eq_iff ..).2 (by omega)
  rw [hread v hv24, hd, ha, hb]
/-- Two registers. -/
theorem roundTripsA_unary {mk : Reg → Reg → Instr} (hop : (assignedA op && op < 256) = true) (hz : zeroA op = [(0, 14)])
    (henc : encode (mk d a) = some ((op * 2 ^ 24 + d.val * 524288 + a.val * 16384) * 2 ^ 32)) (hwf : (mk d a).wf = true)
    (hread : ∀ w, w / 2 ^ 24 % 256 = op → readA w = some (mk (reg w 19) (reg w 14))) :
    (mk d a).RoundTripsA := by
  refine roundTripsA_of_reads op _ hop hz henc hwf fun v hv => ⟨by omega, by simp; omega, fun hv24 => ?_⟩
  have hd : reg v 19 = d := (reg_eq_iff ..).2 (by omega)
  have ha : reg v 14 = a := (reg_eq_iff ..).2 (by omega)
  rw [hread v hv24, hd, ha]
/-- Two registers, and a bit field. -/
theorem roundTripsA_bits {p l : BitVec 6} {mk : Reg → Reg → BitVec 6 → BitVec 6 → Instr} (hop : (assignedA op && op < 256) = true)
    (hz : zeroA op = [(12, 2)])
    (henc : encode (mk d a p l) = some ((op * 2 ^ 24 + d.val * 524288 + a.val * 16384 + p.toNat * 64 + l.toNat) * 2 ^ 32))
      (hwf : (mk d a p l).wf = true)
    (hread : ∀ w, w / 2 ^ 24 % 256 = op → readA w = some (mk (reg w 19) (reg w 14) (bv 6 w 6) (bv 6 w 0))) :
    (mk d a p l).RoundTripsA := by
  refine roundTripsA_of_reads op _ hop hz henc hwf fun v hv => ⟨by omega, by simp; omega, fun hv24 => ?_⟩
  have hd : reg v 19 = d := (reg_eq_iff ..).2 (by omega)
  have ha : reg v 14 = a := (reg_eq_iff ..).2 (by omega)
  have hp : bv 6 v 6 = p := (bv_eq_iff ..).2 (by omega)
  have hl : bv 6 v 0 = l := (bv_eq_iff ..).2 (by omega)
  rw [hread v hv24, hd, ha, hp, hl]
/-- Two registers and an immediate. -/
theorem roundTripsA_imm {i : BitVec 14} {mk : Reg → Reg → BitVec 14 → Instr} (hop : (assignedA op && op < 256) = true) (hz : zeroA op = [])
    (henc : encode (mk d a i) = some ((op * 2 ^ 24 + d.val * 524288 + a.val * 16384 + i.toNat) * 2 ^ 32)) (hwf : (mk d a i).wf = true)
    (hread : ∀ w, w / 2 ^ 24 % 256 = op → readA w = some (mk (reg w 19) (reg w 14) (bv 14 w 0))) :
    (mk d a i).RoundTripsA := by
  refine roundTripsA_of_reads op _ hop hz henc hwf fun v hv => ⟨by omega, by simp, fun hv24 => ?_⟩
  have hd : reg v 19 = d := (reg_eq_iff ..).2 (by omega)
  have ha : reg v 14 = a := (reg_eq_iff ..).2 (by omega)
  have hi : bv 14 v 0 = i := (bv_eq_iff ..).2 (by omega)
  rw [hread v hv24, hd, ha, hi]
/-- Two registers and a shift amount. -/
theorem roundTripsA_shift {i : BitVec 6} {mk : Reg → Reg → BitVec 6 → Instr} (hop : (assignedA op && op < 256) = true) (hz : zeroA op = [(6, 8)])
    (henc : encode (mk d a i) = some ((op * 2 ^ 24 + d.val * 524288 + a.val * 16384 + i.toNat) * 2 ^ 32)) (hwf : (mk d a i).wf = true)
    (hread : ∀ w, w / 2 ^ 24 % 256 = op → readA w = some (mk (reg w 19) (reg w 14) (bv 6 w 0))) :
    (mk d a i).RoundTripsA := by
  refine roundTripsA_of_reads op _ hop hz henc hwf fun v hv => ⟨by omega, by simp; omega, fun hv24 => ?_⟩
  have hd : reg v 19 = d := (reg_eq_iff ..).2 (by omega)
  have ha : reg v 14 = a := (reg_eq_iff ..).2 (by omega)
  have hi : bv 6 v 0 = i := (bv_eq_iff ..).2 (by omega)
  rw [hread v hv24, hd, ha, hi]
/-- One register and an immediate. -/
theorem roundTripsA_movi {i : BitVec 14} {mk : Reg → BitVec 14 → Instr} (hop : (assignedA op && op < 256) = true) (hz : zeroA op = [(14, 5)])
    (henc : encode (mk d i) = some ((op * 2 ^ 24 + d.val * 524288 + i.toNat) * 2 ^ 32)) (hwf : (mk d i).wf = true)
    (hread : ∀ w, w / 2 ^ 24 % 256 = op → readA w = some (mk (reg w 19) (bv 14 w 0))) :
    (mk d i).RoundTripsA := by
  refine roundTripsA_of_reads op _ hop hz henc hwf fun v hv => ⟨by omega, by simp; omega, fun hv24 => ?_⟩
  have hd : reg v 19 = d := (reg_eq_iff ..).2 (by omega)
  have hi : bv 14 v 0 = i := (bv_eq_iff ..).2 (by omega)
  rw [hread v hv24, hd, hi]
/-- Three registers and a rounding code. -/
theorem roundTripsA_round {mk : Reg → Reg → Reg → Rm → Instr} (hop : (assignedA op && op < 256) = true) (hz : zeroA op = [(0, 6)])
    (henc : encode (mk d a b r) = some ((op * 2 ^ 24 + d.val * 524288 + a.val * 16384 + b.val * 512 + r.code * 64) * 2 ^ 32))
      (hwf : (mk d a b r).wf = true)
    (hread : ∀ w, w / 2 ^ 24 % 256 = op → readA w = 
      (Rm.ofCode? (fld w 6 3)).bind fun r => some (mk (reg w 19) (reg w 14) (reg w 9) r)) :
    (mk d a b r).RoundTripsA := by
  have hcode := r.code_lt
  refine roundTripsA_of_reads op _ hop hz henc hwf fun v hv => ⟨by omega, by simp; omega, fun hv24 => ?_⟩
  have hd : reg v 19 = d := (reg_eq_iff ..).2 (by omega)
  have ha : reg v 14 = a := (reg_eq_iff ..).2 (by omega)
  have hb : reg v 9 = b := (reg_eq_iff ..).2 (by omega)
  have hr : Rm.ofCode? (fld v 6 3) = some r := by simp; omega
  rw [hread v hv24, hd, ha, hb, hr]
  rfl
/-- Two registers, the code of a conversion and a rounding code. -/
theorem roundTripsA_convert {α : Type} {x : α} {read : Nat → Option α} {code : Nat} (hlt : code < 32) (hcode : read code = some x)
    {mk : Reg → Reg → α → Rm → Instr} (hop : (assignedA op && op < 256) = true) (hz : zeroA op = [(0, 6)])
    (henc : encode (mk d a x r) = some ((op * 2 ^ 24 + d.val * 524288 + a.val * 16384 + code * 512 + r.code * 64) * 2 ^ 32))
      (hwf : (mk d a x r).wf = true)
    (hread : ∀ w, w / 2 ^ 24 % 256 = op → readA w = 
      (read (fld w 9 5)).bind fun x => (Rm.ofCode? (fld w 6 3)).bind fun r => some (mk (reg w 19) (reg w 14) x r)) :
    (mk d a x r).RoundTripsA := by
  have hround := r.code_lt
  refine roundTripsA_of_reads op _ hop hz henc hwf fun v hv => ⟨by omega, by simp; omega, fun hv24 => ?_⟩
  have hd : reg v 19 = d := (reg_eq_iff ..).2 (by omega)
  have ha : reg v 14 = a := (reg_eq_iff ..).2 (by omega)
  have hr : Rm.ofCode? (fld v 6 3) = some r := by simp; omega
  have hx : fld v 9 5 = code := by simp; omega
  rw [hread v hv24, hd, ha, hr, hx, hcode]
  rfl
end

theorem roundTripsA_fsqrt (d a : Reg) (r : Rm) : (Instr.fsqrt d a r).RoundTripsA := by
  have hround := r.code_lt
  refine roundTripsA_of_reads 0x66 _ (z := [(0, 6), (9, 5)]) rfl rfl rfl rfl fun v hv => ⟨by omega, by simp; omega, fun hv24 => ?_⟩
  rw [readA, hv24]
  show Option.bind _ _ = _
  simp [Option.bind_eq_some_iff]
  omega
theorem roundTripsA_unpk (d a : Reg) (f : NarrowFmt) : (Instr.unpk d a f).RoundTripsA := by
  have hcode := f.code_lt
  refine roundTripsA_of_reads 0x74 _ (z := [(0, 9)]) rfl rfl rfl rfl fun v hv => ⟨by omega, by simp; omega, fun hv24 => ?_⟩
  rw [readA, hv24]
  show Option.bind _ _ = _
  simp [Option.bind_eq_some_iff]
  omega

/-- Every instruction of word A round-trips: each by its format. -/
theorem Instr.roundTripsA (i : Instr) (hA : i.isA = true) : i.RoundTripsA := by
  cases i with
  | nopA  => exact ⟨0, rfl, by decide, rfl⟩
  | add d a b => exact roundTripsA_regs 0x01 rfl rfl rfl rfl fun w h => by rw [readA, h]; rfl
  | sub d a b => exact roundTripsA_regs 0x02 rfl rfl rfl rfl fun w h => by rw [readA, h]; rfl
  | mul d a b => exact roundTripsA_regs 0x03 rfl rfl rfl rfl fun w h => by rw [readA, h]; rfl
  | mulh d a b => exact roundTripsA_regs 0x04 rfl rfl rfl rfl fun w h => by rw [readA, h]; rfl
  | mulhn d a b => exact roundTripsA_regs 0x05 rfl rfl rfl rfl fun w h => by rw [readA, h]; rfl
  | div d a b => exact roundTripsA_regs 0x06 rfl rfl rfl rfl fun w h => by rw [readA, h]; rfl
  | divn d a b => exact roundTripsA_regs 0x07 rfl rfl rfl rfl fun w h => by rw [readA, h]; rfl
  | rem d a b => exact roundTripsA_regs 0x08 rfl rfl rfl rfl fun w h => by rw [readA, h]; rfl
  | remn d a b => exact roundTripsA_regs 0x09 rfl rfl rfl rfl fun w h => by rw [readA, h]; rfl
  | andR d a b => exact roundTripsA_regs 0x0A rfl rfl rfl rfl fun w h => by rw [readA, h]; rfl
  | orR d a b => exact roundTripsA_regs 0x0B rfl rfl rfl rfl fun w h => by rw [readA, h]; rfl
  | xorR d a b => exact roundTripsA_regs 0x0C rfl rfl rfl rfl fun w h => by rw [readA, h]; rfl
  | andn d a b => exact roundTripsA_regs 0x0D rfl rfl rfl rfl fun w h => by rw [readA, h]; rfl
  | orn d a b => exact roundTripsA_regs 0x0E rfl rfl rfl rfl fun w h => by rw [readA, h]; rfl
  | shl d a b => exact roundTripsA_regs 0x0F rfl rfl rfl rfl fun w h => by rw [readA, h]; rfl
  | shr d a b => exact roundTripsA_regs 0x10 rfl rfl rfl rfl fun w h => by rw [readA, h]; rfl
  | sar d a b => exact roundTripsA_regs 0x11 rfl rfl rfl rfl fun w h => by rw [readA, h]; rfl
  | rol d a b => exact roundTripsA_regs 0x12 rfl rfl rfl rfl fun w h => by rw [readA, h]; rfl
  | minR d a b => exact roundTripsA_regs 0x13 rfl rfl rfl rfl fun w h => by rw [readA, h]; rfl
  | maxR d a b => exact roundTripsA_regs 0x14 rfl rfl rfl rfl fun w h => by rw [readA, h]; rfl
  | minn d a b => exact roundTripsA_regs 0x15 rfl rfl rfl rfl fun w h => by rw [readA, h]; rfl
  | maxn d a b => exact roundTripsA_regs 0x16 rfl rfl rfl rfl fun w h => by rw [readA, h]; rfl
  | ceq d a b => exact roundTripsA_regs 0x17 rfl rfl rfl rfl fun w h => by rw [readA, h]; rfl
  | cne d a b => exact roundTripsA_regs 0x18 rfl rfl rfl rfl fun w h => by rw [readA, h]; rfl
  | clt d a b => exact roundTripsA_regs 0x19 rfl rfl rfl rfl fun w h => by rw [readA, h]; rfl
  | cle d a b => exact roundTripsA_regs 0x1A rfl rfl rfl rfl fun w h => by rw [readA, h]; rfl
  | cltn d a b => exact roundTripsA_regs 0x1B rfl rfl rfl rfl fun w h => by rw [readA, h]; rfl
  | clen d a b => exact roundTripsA_regs 0x1C rfl rfl rfl rfl fun w h => by rw [readA, h]; rfl
  | sel d a b => exact roundTripsA_regs 0x1D rfl rfl rfl rfl fun w h => by rw [readA, h]; rfl
  | clz d a => exact roundTripsA_unary 0x1E rfl rfl rfl rfl fun w h => by rw [readA, h]; rfl
  | ctz d a => exact roundTripsA_unary 0x1F rfl rfl rfl rfl fun w h => by rw [readA, h]; rfl
  | popc d a => exact roundTripsA_unary 0x20 rfl rfl rfl rfl fun w h => by rw [readA, h]; rfl
  | sxb d a => exact roundTripsA_unary 0x21 rfl rfl rfl rfl fun w h => by rw [readA, h]; rfl
  | sxh d a => exact roundTripsA_unary 0x22 rfl rfl rfl rfl fun w h => by rw [readA, h]; rfl
  | sxw d a => exact roundTripsA_unary 0x23 rfl rfl rfl rfl fun w h => by rw [readA, h]; rfl
  | zxb d a => exact roundTripsA_unary 0x24 rfl rfl rfl rfl fun w h => by rw [readA, h]; rfl
  | zxh d a => exact roundTripsA_unary 0x25 rfl rfl rfl rfl fun w h => by rw [readA, h]; rfl
  | zxw d a => exact roundTripsA_unary 0x26 rfl rfl rfl rfl fun w h => by rw [readA, h]; rfl
  | addw d a b => exact roundTripsA_regs 0x27 rfl rfl rfl rfl fun w h => by rw [readA, h]; rfl
  | subw d a b => exact roundTripsA_regs 0x28 rfl rfl rfl rfl fun w h => by rw [readA, h]; rfl
  | mulw d a b => exact roundTripsA_regs 0x29 rfl rfl rfl rfl fun w h => by rw [readA, h]; rfl
  | bext d a pos len => exact roundTripsA_bits 0x2A rfl rfl rfl rfl fun w h => by rw [readA, h]; rfl
  | bins d a pos len => exact roundTripsA_bits 0x2B rfl rfl rfl rfl fun w h => by rw [readA, h]; rfl
  | bswp d a => exact roundTripsA_unary 0x2C rfl rfl rfl rfl fun w h => by rw [readA, h]; rfl
  | addi d a i => exact roundTripsA_imm 0x40 rfl rfl rfl rfl fun w h => by rw [readA, h]; rfl
  | andi d a i => exact roundTripsA_imm 0x41 rfl rfl rfl rfl fun w h => by rw [readA, h]; rfl
  | ori d a i => exact roundTripsA_imm 0x42 rfl rfl rfl rfl fun w h => by rw [readA, h]; rfl
  | xori d a i => exact roundTripsA_imm 0x43 rfl rfl rfl rfl fun w h => by rw [readA, h]; rfl
  | shli d a s => exact roundTripsA_shift 0x44 rfl rfl rfl rfl fun w h => by rw [readA, h]; rfl
  | shri d a s => exact roundTripsA_shift 0x45 rfl rfl rfl rfl fun w h => by rw [readA, h]; rfl
  | sari d a s => exact roundTripsA_shift 0x46 rfl rfl rfl rfl fun w h => by rw [readA, h]; rfl
  | ceqi d a i => exact roundTripsA_imm 0x47 rfl rfl rfl rfl fun w h => by rw [readA, h]; rfl
  | clti d a i => exact roundTripsA_imm 0x48 rfl rfl rfl rfl fun w h => by rw [readA, h]; rfl
  | cltni d a i => exact roundTripsA_imm 0x49 rfl rfl rfl rfl fun w h => by rw [readA, h]; rfl
  | movi d i => exact roundTripsA_movi 0x4A rfl rfl rfl rfl fun w h => by rw [readA, h]; rfl
  | movhi d i => exact roundTripsA_movi 0x4B rfl rfl rfl rfl fun w h => by rw [readA, h]; rfl
  | fadd d a b r => exact roundTripsA_round 0x60 rfl rfl rfl rfl fun w h => by rw [readA, h]; rfl
  | fsub d a b r => exact roundTripsA_round 0x61 rfl rfl rfl rfl fun w h => by rw [readA, h]; rfl
  | fmul d a b r => exact roundTripsA_round 0x62 rfl rfl rfl rfl fun w h => by rw [readA, h]; rfl
  | fma d a b r => exact roundTripsA_round 0x63 rfl rfl rfl rfl fun w h => by rw [readA, h]; rfl
  | fms d a b r => exact roundTripsA_round 0x64 rfl rfl rfl rfl fun w h => by rw [readA, h]; rfl
  | fdiv d a b r => exact roundTripsA_round 0x65 rfl rfl rfl rfl fun w h => by rw [readA, h]; rfl
  | fsqrt d a r => exact roundTripsA_fsqrt d a r
  | fmin d a b => exact roundTripsA_regs 0x67 rfl rfl rfl rfl fun w h => by rw [readA, h]; rfl
  | fmax d a b => exact roundTripsA_regs 0x68 rfl rfl rfl rfl fun w h => by rw [readA, h]; rfl
  | fceq d a b => exact roundTripsA_regs 0x69 rfl rfl rfl rfl fun w h => by rw [readA, h]; rfl
  | fclt d a b => exact roundTripsA_regs 0x6A rfl rfl rfl rfl fun w h => by rw [readA, h]; rfl
  | fcle d a b => exact roundTripsA_regs 0x6B rfl rfl rfl rfl fun w h => by rw [readA, h]; rfl
  | fabs d a => exact roundTripsA_unary 0x6C rfl rfl rfl rfl fun w h => by rw [readA, h]; rfl
  | fneg d a => exact roundTripsA_unary 0x6D rfl rfl rfl rfl fun w h => by rw [readA, h]; rfl
  | fcpys d a b => exact roundTripsA_regs 0x6E rfl rfl rfl rfl fun w h => by rw [readA, h]; rfl
  | cvtif d a src dst r =>
    have hsrc := src.code_lt
    have hdst := dst.code_lt
    exact roundTripsA_convert (mk := fun d a p r => .cvtif d a p.1 p.2 r) (x := (src, dst)) (read := cvtif?) (code := 4 * dst.code + src.code) 0x70
      (by omega) ((cvtif?_eq_some_iff ..).2 rfl) rfl rfl rfl rfl fun w h => by rw [readA, h]; rfl
  | cvtfi d a src dst r =>
    have hsrc := src.code_lt
    have hdst := dst.code_lt
    exact roundTripsA_convert (mk := fun d a p r => .cvtfi d a p.1 p.2 r) (x := (src, dst)) (read := cvtfi?) (code := 4 * src.code + dst.code) 0x71
      (by omega) ((cvtfi?_eq_some_iff ..).2 rfl) rfl rfl rfl rfl fun w h => by rw [readA, h]; rfl
  | cvtff d a p r =>
    exact roundTripsA_convert 0x72 (p.code_lt.trans (by decide)) ((FfPair.ofCode?_eq_some_iff ..).2 rfl) rfl rfl rfl rfl
      fun w h => by rw [readA, h]; rfl
  | pk2 d a f r =>
    exact roundTripsA_convert 0x73 (f.code_lt.trans (by decide)) ((NarrowFmt.ofCode?_eq_some_iff ..).2 rfl) rfl rfl rfl rfl
      fun w h => by rw [readA, h]; rfl
  | unpk d a f => exact roundTripsA_unpk d a f
  | _ => cases hA

/-! ### Word C (R235 to R239) -/

/-- With the second half its form takes, encoding and decoding give a word C instruction back. -/
def Instr.RoundTripsC (i : Instr) : Prop :=
  ∃ b, encode i = some b ∧ b < 2 ^ 64 ∧ decodeBundle b = some { c := i, a := .nopA }

section
variable {w e : Nat} {i : Instr} (op : Nat)

/-- A word C that is not lone, its fixed fields zero, decodes beside a NOP to what is read of it. -/
theorem roundTripsC_of_word {z : List (Nat × Nat)} (hop : (assignedC op && op < 128 && !loneBad op false) = true)
    (hz : ∀ v, v = w → zeroC op false v = z) (henc : encode i = some w) (hwf : i.wf = true)
    (hcond : ∀ v, v = w → condZero op v 0 = false)
    (hread : ∀ v, v = w → v / 2 ^ 24 = op ∧ allZero v z = true ∧ (v / 2 ^ 24 % 128 = op → readC false v 0 = some i)) :
    i.RoundTripsC := by
  simp only [Bool.and_eq_true, decide_eq_true_eq, Bool.not_eq_true'] at hop
  obtain ⟨⟨hop, hop7⟩, hbad⟩ := hop
  obtain ⟨hw, hzero, hc⟩ := hread w rfl
  have hop7' : w / 2 ^ 24 % 128 = op := by omega
  refine ⟨_, henc, by omega, decodeBundle_of_reads (w := w) (e := 0) (opA := 0) (by omega) (by omega) hop7' rfl ?_ ?_ rfl
    (hc hop7') rfl (by rw [hwf]; rfl)⟩
  · exact (flag_eq_iff ..).2 (by simp [bit]; omega)
  · rw [ite_self, hop, hz w rfl, hzero, hbad, hcond w rfl]
    rfl

/-- A lone word C and its E, their fixed fields zero, decode to what is read of them. -/
theorem roundTripsC_of_lone {zc ze : List (Nat × Nat)} (hop : (assignedC op && op < 128 && !loneBad op true) = true)
    (hzc : ∀ v, zeroC op true v = zc) (hze : zeroE op = ze) (henc : encode i = some (w + e * 2 ^ 32)) (hwf : i.wf = true)
    (hcond : ∀ v x, v = w → x = e → condZero op v x = false) (hfar : ∀ x, x = e → loneFar op true x = false)
    (hread : ∀ v x, v = w → x = e → (v / 2 ^ 24 = 128 + op ∧ x < 2 ^ 32 ∧ allZero v zc = true ∧ allZero x ze = true) ∧
      (v / 2 ^ 24 % 128 = op → readC true v x = some i)) :
    i.RoundTripsC := by
  simp only [Bool.and_eq_true, decide_eq_true_eq, Bool.not_eq_true'] at hop
  obtain ⟨⟨hop, hop7⟩, hbad⟩ := hop
  obtain ⟨⟨hw, he, hzero, hzeroE⟩, hc⟩ := hread w e rfl rfl
  have hlow : (w + e * 2 ^ 32) % 2 ^ 32 = w := by omega
  have hhigh : (w + e * 2 ^ 32) / 2 ^ 32 % 2 ^ 32 = e := by omega
  have hopC : w / 2 ^ 24 % 128 = op := by omega
  have hlone : flag w 31 = true := (flag_eq_iff ..).2 (by simp [bit]; omega)
  have hwfa : Instr.nopA.wf = true := rfl
  refine ⟨_, henc, by omega, ?_⟩
  simp only [decodeBundle, hlow, hhigh, hopC, hop, hbad, hzc, hze, hzero, hcond w e rfl rfl, hlone, hc hopC, hzeroE, hfar e rfl,
    Bool.true_or, if_true]
  refine (if_pos rfl).trans ?_
  simp [hwf, hwfa]

/-- A lone word C without a field in E decodes, with E zero, to what is read of it. -/
theorem roundTripsC_of_loneWord {zc ze : List (Nat × Nat)} (hop : (assignedC op && op < 128 && !loneBad op true) = true)
    (hzc : ∀ v, zeroC op true v = zc) (hze : zeroE op = ze ∧ allZero 0 ze = true) (henc : encode i = some w) (hwf : i.wf = true)
    (hcond : ∀ v, v = w → condZero op v 0 = false)
    (hread : ∀ v, v = w → v / 2 ^ 24 = 128 + op ∧ allZero v zc = true ∧ (v / 2 ^ 24 % 128 = op → readC true v 0 = some i)) :
    i.RoundTripsC := by
  refine roundTripsC_of_lone (e := 0) op hop hzc hze.1 (henc.trans (by simp)) hwf (fun v x hv hx => hx ▸ hcond v hv)
    (fun x hx => ?_) fun v x hv hx => ?_
  · simp [loneFar, hx]
  · obtain ⟨hw, hzero, hc⟩ := hread v hv
    rw [hx]
    exact ⟨⟨hw, by decide, hzero, hze.2⟩, hc⟩

/-- A bundle index is no far target. -/
theorem loneFar_of_index (t : BitVec 13) : ∀ x, x = t.toNat → loneFar op true x = false := by
  rintro x rfl
  have := t.isLt
  simp [loneFar]
  omega
end

section
variable (op : Nat)

/-- A branch or a call. -/
theorem roundTripsC_branch {n : Bool} {t : BitVec 18} {mk : Bool → BitVec 18 → Instr}
    (hop : (assignedC op && op < 128 && !loneBad op false) = true) (hz : ∀ v, zeroC op false v = [(19, 5)])
    (henc : encode (mk n t) = some (op * 2 ^ 24 + bit n * 262144 + t.toNat))
    (hwf : (mk n t).wf = true) (hcond : ∀ v x, condZero op v x = false)
    (hread : ∀ w e, w / 2 ^ 24 % 128 = op → readC false w e =
      some (mk (flag w 18) (bv 18 w 0))) :
    (mk n t).RoundTripsC := by
  have nlt := bit_lt n
  refine roundTripsC_of_word op hop (fun v _ => hz v) henc hwf (fun v _ => hcond v 0) fun v hv => ⟨by omega, by simp; omega, fun hv24 => ?_⟩
  have hn : flag v 18 = n := (flag_eq_iff ..).2 (by omega)
  have ht : bv 18 v 0 = t := (bv_eq_iff ..).2 (by omega)
  rw [hread v 0 hv24, hn, ht]
/-- A lone branch or call. -/
theorem roundTripsC_branchLone {n : Bool} {t : BitVec 13} {mk : Bool → BitVec 13 → Instr}
    (hop : (assignedC op && op < 128 && !loneBad op true) = true) (hz : ∀ v, zeroC op true v = [(0, 18), (19, 5)]) (hze : zeroE op = [])
    (henc : encode (mk n t) = some ((128 + op) * 2 ^ 24 + bit n * 262144 + (t.toNat) * 2 ^ 32))
    (hwf : (mk n t).wf = true) (hcond : ∀ v x, condZero op v x = false)
    (hread : ∀ w e, w / 2 ^ 24 % 128 = op → readC true w e =
      some (mk (flag w 18) (bv 13 e 0))) :
    (mk n t).RoundTripsC := by
  have nlt := bit_lt n
  refine roundTripsC_of_lone op hop hz hze henc hwf (fun v x _ _ => hcond v x) (loneFar_of_index op _) fun v x hv hx =>
    ⟨⟨by omega, by omega, by simp; omega, rfl⟩, fun hv24 => ?_⟩
  have hn : flag v 18 = n := (flag_eq_iff ..).2 (by omega)
  have ht : bv 13 x 0 = t := (bv_eq_iff ..).2 (by omega)
  rw [hread v x hv24, hn, ht]
/-- One address register. -/
theorem roundTripsC_jump {a : Reg} {mk : Reg → Instr}
    (hop : (assignedC op && op < 128 && !loneBad op false) = true) (hz : ∀ v, zeroC op false v = [(0, 14), (19, 5)])
    (henc : encode (mk a) = some (op * 2 ^ 24 + a.val * 16384))
    (hwf : (mk a).wf = true) (hcond : ∀ v x, condZero op v x = false)
    (hread : ∀ w e, w / 2 ^ 24 % 128 = op → readC false w e =
      some (mk (reg w 14))) :
    (mk a).RoundTripsC := by
  refine roundTripsC_of_word op hop (fun v _ => hz v) henc hwf (fun v _ => hcond v 0) fun v hv => ⟨by omega, by simp; omega, fun hv24 => ?_⟩
  have ha : reg v 14 = a := (reg_eq_iff ..).2 (by omega)
  rw [hread v 0 hv24, ha]
/-- A branch that tests one register. -/
theorem roundTripsC_test {a : Reg} {n : Bool} {t : BitVec 18} {mk : Reg → Bool → BitVec 18 → Instr}
    (hop : (assignedC op && op < 128 && !loneBad op false) = true) (hz : ∀ v, zeroC op false v = [])
    (henc : encode (mk a n t) = some (op * 2 ^ 24 + a.val * 524288 + bit n * 262144 + t.toNat))
    (hwf : (mk a n t).wf = true) (hcond : ∀ v x, condZero op v x = false)
    (hread : ∀ w e, w / 2 ^ 24 % 128 = op → readC false w e =
      some (mk (reg w 19) (flag w 18) (bv 18 w 0))) :
    (mk a n t).RoundTripsC := by
  have nlt := bit_lt n
  refine roundTripsC_of_word op hop (fun v _ => hz v) henc hwf (fun v _ => hcond v 0) fun v hv => ⟨by omega, by simp, fun hv24 => ?_⟩
  have ha : reg v 19 = a := (reg_eq_iff ..).2 (by omega)
  have hn : flag v 18 = n := (flag_eq_iff ..).2 (by omega)
  have ht : bv 18 v 0 = t := (bv_eq_iff ..).2 (by omega)
  rw [hread v 0 hv24, ha, hn, ht]
/-- A lone branch that tests one register. -/
theorem roundTripsC_testLone {a : Reg} {n : Bool} {t : BitVec 13} {mk : Reg → Bool → BitVec 13 → Instr}
    (hop : (assignedC op && op < 128 && !loneBad op true) = true) (hz : ∀ v, zeroC op true v = [(0, 18)]) (hze : zeroE op = [])
    (henc : encode (mk a n t) = some ((128 + op) * 2 ^ 24 + a.val * 524288 + bit n * 262144 + (t.toNat) * 2 ^ 32))
    (hwf : (mk a n t).wf = true) (hcond : ∀ v x, condZero op v x = false)
    (hread : ∀ w e, w / 2 ^ 24 % 128 = op → readC true w e =
      some (mk (reg w 19) (flag w 18) (bv 13 e 0))) :
    (mk a n t).RoundTripsC := by
  have nlt := bit_lt n
  refine roundTripsC_of_lone op hop hz hze henc hwf (fun v x _ _ => hcond v x) (loneFar_of_index op _) fun v x hv hx =>
    ⟨⟨by omega, by omega, by simp; omega, rfl⟩, fun hv24 => ?_⟩
  have ha : reg v 19 = a := (reg_eq_iff ..).2 (by omega)
  have hn : flag v 18 = n := (flag_eq_iff ..).2 (by omega)
  have ht : bv 13 x 0 = t := (bv_eq_iff ..).2 (by omega)
  rw [hread v x hv24, ha, hn, ht]
/-- A branch that compares two registers. -/
theorem roundTripsC_compare {a : Reg} {b : Reg} {n : Bool} {t : BitVec 13} {mk : Reg → Reg → Bool → BitVec 13 → Instr}
    (hop : (assignedC op && op < 128 && !loneBad op false) = true) (hz : ∀ v, zeroC op false v = [])
    (henc : encode (mk a b n t) = some (op * 2 ^ 24 + a.val * 524288 + b.val * 16384 + bit n * 8192 + t.toNat))
    (hwf : (mk a b n t).wf = true) (hcond : ∀ v x, condZero op v x = false)
    (hread : ∀ w e, w / 2 ^ 24 % 128 = op → readC false w e =
      some (mk (reg w 19) (reg w 14) (flag w 13) (bv 13 w 0))) :
    (mk a b n t).RoundTripsC := by
  have nlt := bit_lt n
  refine roundTripsC_of_word op hop (fun v _ => hz v) henc hwf (fun v _ => hcond v 0) fun v hv => ⟨by omega, by simp, fun hv24 => ?_⟩
  have ha : reg v 19 = a := (reg_eq_iff ..).2 (by omega)
  have hb : reg v 14 = b := (reg_eq_iff ..).2 (by omega)
  have hn : flag v 13 = n := (flag_eq_iff ..).2 (by omega)
  have ht : bv 13 v 0 = t := (bv_eq_iff ..).2 (by omega)
  rw [hread v 0 hv24, ha, hb, hn, ht]
/-- A lone branch that compares two registers. -/
theorem roundTripsC_compareLone {a : Reg} {b : Reg} {n : Bool} {t : BitVec 13} {mk : Reg → Reg → Bool → BitVec 13 → Instr}
    (hop : (assignedC op && op < 128 && !loneBad op true) = true) (hz : ∀ v, zeroC op true v = [(0, 13)]) (hze : zeroE op = [])
    (henc : encode (mk a b n t) = some ((128 + op) * 2 ^ 24 + a.val * 524288 + b.val * 16384 + bit n * 8192 + (t.toNat) * 2 ^ 32))
    (hwf : (mk a b n t).wf = true) (hcond : ∀ v x, condZero op v x = false)
    (hread : ∀ w e, w / 2 ^ 24 % 128 = op → readC true w e =
      some (mk (reg w 19) (reg w 14) (flag w 13) (bv 13 e 0))) :
    (mk a b n t).RoundTripsC := by
  have nlt := bit_lt n
  refine roundTripsC_of_lone op hop hz hze henc hwf (fun v x _ _ => hcond v x) (loneFar_of_index op _) fun v x hv hx =>
    ⟨⟨by omega, by omega, by simp; omega, rfl⟩, fun hv24 => ?_⟩
  have ha : reg v 19 = a := (reg_eq_iff ..).2 (by omega)
  have hb : reg v 14 = b := (reg_eq_iff ..).2 (by omega)
  have hn : flag v 13 = n := (flag_eq_iff ..).2 (by omega)
  have ht : bv 13 x 0 = t := (bv_eq_iff ..).2 (by omega)
  rw [hread v x hv24, ha, hb, hn, ht]
/-- A code of 14 bits. -/
theorem roundTripsC_code {i : BitVec 14} {mk : BitVec 14 → Instr}
    (hop : (assignedC op && op < 128 && !loneBad op false) = true) (hz : ∀ v, zeroC op false v = [(14, 10)])
    (henc : encode (mk i) = some (op * 2 ^ 24 + i.toNat))
    (hwf : (mk i).wf = true) (hcond : ∀ v x, condZero op v x = false)
    (hread : ∀ w e, w / 2 ^ 24 % 128 = op → readC false w e =
      some (mk (bv 14 w 0))) :
    (mk i).RoundTripsC := by
  refine roundTripsC_of_word op hop (fun v _ => hz v) henc hwf (fun v _ => hcond v 0) fun v hv => ⟨by omega, by simp; omega, fun hv24 => ?_⟩
  have hi : bv 14 v 0 = i := (bv_eq_iff ..).2 (by omega)
  rw [hread v 0 hv24, hi]
/-- A load or a store. -/
theorem roundTripsC_access {d : Reg} {a : Reg} {sz : Size} {p : BitVec 9} {mk : Reg → Reg → Size → BitVec 9 → Instr}
    (hop : (assignedC op && op < 128 && !loneBad op false) = true) (hz : ∀ v, zeroC op false v = [(9, 3)])
    (henc : encode (mk d a sz p) = some (op * 2 ^ 24 + d.val * 524288 + a.val * 16384 + sz.code * 4096 + p.toNat))
    (hwf : (mk d a sz p).wf = true) (hcond : ∀ v x, condZero op v x = false)
    (hread : ∀ w e, w / 2 ^ 24 % 128 = op → readC false w e =
      some (mk (reg w 19) (reg w 14) (Size.ofCode (fld w 12 2)) (bv 9 w 0))) :
    (mk d a sz p).RoundTripsC := by
  have szlt := sz.code_lt
  refine roundTripsC_of_word op hop (fun v _ => hz v) henc hwf (fun v _ => hcond v 0) fun v hv => ⟨by omega, by simp; omega, fun hv24 => ?_⟩
  have hd : reg v 19 = d := (reg_eq_iff ..).2 (by omega)
  have ha : reg v 14 = a := (reg_eq_iff ..).2 (by omega)
  have hsz : Size.ofCode (fld v 12 2) = sz := (Size.ofCode_eq_iff ..).2 (by omega)
  have hp : bv 9 v 0 = p := (bv_eq_iff ..).2 (by omega)
  rw [hread v 0 hv24, hd, ha, hsz, hp]
/-- A lone load or store. -/
theorem roundTripsC_accessLone {d : Reg} {a : Reg} {sz : Size} {e : BitVec 32} {mk : Reg → Reg → Size → BitVec 32 → Instr}
    (hop : (assignedC op && op < 128 && !loneBad op true) = true) (hz : ∀ v, zeroC op true v = [(0, 12)]) (hze : zeroE op = [])
    (henc : encode (mk d a sz e) = some ((128 + op) * 2 ^ 24 + d.val * 524288 + a.val * 16384 + sz.code * 4096 + (e.toNat) * 2 ^ 32))
    (hwf : (mk d a sz e).wf = true) (hcond : ∀ v x, condZero op v x = false) (hfar : ∀ x, loneFar op true x = false)
    (hread : ∀ w e, w / 2 ^ 24 % 128 = op → readC true w e =
      some (mk (reg w 19) (reg w 14) (Size.ofCode (fld w 12 2)) (bv 32 e 0))) :
    (mk d a sz e).RoundTripsC := by
  have szlt := sz.code_lt
  refine roundTripsC_of_lone op hop hz hze henc hwf (fun v x _ _ => hcond v x) (fun x _ => hfar x) fun v x hv hx =>
    ⟨⟨by omega, by omega, by simp; omega, rfl⟩, fun hv24 => ?_⟩
  have hd : reg v 19 = d := (reg_eq_iff ..).2 (by omega)
  have ha : reg v 14 = a := (reg_eq_iff ..).2 (by omega)
  have hsz : Size.ofCode (fld v 12 2) = sz := (Size.ofCode_eq_iff ..).2 (by omega)
  have he : bv 32 x 0 = e := (bv_eq_iff ..).2 (by omega)
  rw [hread v x hv24, hd, ha, hsz, he]
/-- An indexed load or store. -/
theorem roundTripsC_indexed {d : Reg} {a : Reg} {b : Reg} {sz : Size} {mk : Reg → Reg → Reg → Size → Instr}
    (hop : (assignedC op && op < 128 && !loneBad op false) = true) (hz : ∀ v, zeroC op false v = [(2, 7)])
    (henc : encode (mk d a b sz) = some (op * 2 ^ 24 + d.val * 524288 + a.val * 16384 + b.val * 512 + sz.code))
    (hwf : (mk d a b sz).wf = true) (hcond : ∀ v x, condZero op v x = false)
    (hread : ∀ w e, w / 2 ^ 24 % 128 = op → readC false w e =
      some (mk (reg w 19) (reg w 14) (reg w 9) (Size.ofCode (fld w 0 2)))) :
    (mk d a b sz).RoundTripsC := by
  have szlt := sz.code_lt
  refine roundTripsC_of_word op hop (fun v _ => hz v) henc hwf (fun v _ => hcond v 0) fun v hv => ⟨by omega, by simp; omega, fun hv24 => ?_⟩
  have hd : reg v 19 = d := (reg_eq_iff ..).2 (by omega)
  have ha : reg v 14 = a := (reg_eq_iff ..).2 (by omega)
  have hb : reg v 9 = b := (reg_eq_iff ..).2 (by omega)
  have hsz : Size.ofCode (fld v 0 2) = sz := (Size.ofCode_eq_iff ..).2 (by omega)
  rw [hread v 0 hv24, hd, ha, hb, hsz]
/-- A load or store with a scope. -/
theorem roundTripsC_scoped {d : Reg} {a : Reg} {sz : Size} {sc : Scope} {p : BitVec 9} {mk : Reg → Reg → Size → Scope → BitVec 9 → Instr}
    (hop : (assignedC op && op < 128 && !loneBad op false) = true) (hz : ∀ v, zeroC op false v = [])
    (henc : encode (mk d a sz sc p) = some (op * 2 ^ 24 + d.val * 524288 + a.val * 16384 + sz.code * 4096 + sc.code * 512 + p.toNat))
    (hwf : (mk d a sz sc p).wf = true) (hcond : ∀ v x, condZero op v x = false)
    (hread : ∀ w e, w / 2 ^ 24 % 128 = op → readC false w e =
      (Scope.ofCode? (fld w 9 3)).bind fun xsc => some (mk (reg w 19) (reg w 14) (Size.ofCode (fld w 12 2)) xsc (bv 9 w 0))) :
    (mk d a sz sc p).RoundTripsC := by
  have szlt := sz.code_lt
  have sclt := sc.code_lt
  refine roundTripsC_of_word op hop (fun v _ => hz v) henc hwf (fun v _ => hcond v 0) fun v hv => ⟨by omega, by simp, fun hv24 => ?_⟩
  have hd : reg v 19 = d := (reg_eq_iff ..).2 (by omega)
  have ha : reg v 14 = a := (reg_eq_iff ..).2 (by omega)
  have hsz : Size.ofCode (fld v 12 2) = sz := (Size.ofCode_eq_iff ..).2 (by omega)
  have hsc : (Scope.ofCode? (fld v 9 3)) = some sc := (Scope.ofCode?_eq_some_iff ..).2 (by simp; omega)
  have hp : bv 9 v 0 = p := (bv_eq_iff ..).2 (by omega)
  rw [hread v 0 hv24, hd, ha, hsz, hsc, hp]
  rfl
/-- A lone load or store with a scope. -/
theorem roundTripsC_scopedLone {d : Reg} {a : Reg} {sz : Size} {sc : Scope} {e : BitVec 32} {mk : Reg → Reg → Size → Scope → BitVec 32 → Instr}
    (hop : (assignedC op && op < 128 && !loneBad op true) = true) (hz : ∀ v, zeroC op true v = [(0, 9)]) (hze : zeroE op = [])
    (henc : encode (mk d a sz sc e) = some ((128 + op) * 2 ^ 24 + d.val * 524288 + a.val * 16384 + sz.code * 4096 + sc.code * 512 + (e.toNat) * 2 ^ 32))
    (hwf : (mk d a sz sc e).wf = true) (hcond : ∀ v x, condZero op v x = false) (hfar : ∀ x, loneFar op true x = false)
    (hread : ∀ w e, w / 2 ^ 24 % 128 = op → readC true w e =
      (Scope.ofCode? (fld w 9 3)).bind fun xsc => some (mk (reg w 19) (reg w 14) (Size.ofCode (fld w 12 2)) xsc (bv 32 e 0))) :
    (mk d a sz sc e).RoundTripsC := by
  have szlt := sz.code_lt
  have sclt := sc.code_lt
  refine roundTripsC_of_lone op hop hz hze henc hwf (fun v x _ _ => hcond v x) (fun x _ => hfar x) fun v x hv hx =>
    ⟨⟨by omega, by omega, by simp; omega, rfl⟩, fun hv24 => ?_⟩
  have hd : reg v 19 = d := (reg_eq_iff ..).2 (by omega)
  have ha : reg v 14 = a := (reg_eq_iff ..).2 (by omega)
  have hsz : Size.ofCode (fld v 12 2) = sz := (Size.ofCode_eq_iff ..).2 (by omega)
  have hsc : (Scope.ofCode? (fld v 9 3)) = some sc := (Scope.ofCode?_eq_some_iff ..).2 (by simp; omega)
  have he : bv 32 x 0 = e := (bv_eq_iff ..).2 (by omega)
  rw [hread v x hv24, hd, ha, hsz, hsc, he]
  rfl
/-- An access to a word, with a scope. -/
theorem roundTripsC_word {d : Reg} {a : Reg} {sc : Scope} {p : BitVec 9} {mk : Reg → Reg → Scope → BitVec 9 → Instr}
    (hop : (assignedC op && op < 128 && !loneBad op false) = true) (hz : ∀ v, zeroC op false v = [])
    (henc : encode (mk d a sc p) = some (op * 2 ^ 24 + 12288 + d.val * 524288 + a.val * 16384 + sc.code * 512 + p.toNat))
    (hwf : (mk d a sc p).wf = true) (hcond : ∀ v x, condZero op v x = false)
    (hread : ∀ w e, w / 2 ^ 24 % 128 = op → readC false w e =
      if fld w 12 2 = 3 then (Scope.ofCode? (fld w 9 3)).bind fun xsc => some (mk (reg w 19) (reg w 14) xsc (bv 9 w 0)) else none) :
    (mk d a sc p).RoundTripsC := by
  have sclt := sc.code_lt
  refine roundTripsC_of_word op hop (fun v _ => hz v) henc hwf (fun v _ => hcond v 0) fun v hv => ⟨by omega, by simp, fun hv24 => ?_⟩
  have hd : reg v 19 = d := (reg_eq_iff ..).2 (by omega)
  have ha : reg v 14 = a := (reg_eq_iff ..).2 (by omega)
  have hsc : (Scope.ofCode? (fld v 9 3)) = some sc := (Scope.ofCode?_eq_some_iff ..).2 (by simp; omega)
  have hp : bv 9 v 0 = p := (bv_eq_iff ..).2 (by omega)
  have h3 : fld v 12 2 = 3 := by simp; omega
  rw [hread v 0 hv24, if_pos h3, hd, ha, hsc, hp]
  rfl
/-- A lone access to a word, with a scope. -/
theorem roundTripsC_wordLone {d : Reg} {a : Reg} {sc : Scope} {e : BitVec 32} {mk : Reg → Reg → Scope → BitVec 32 → Instr}
    (hop : (assignedC op && op < 128 && !loneBad op true) = true) (hz : ∀ v, zeroC op true v = [(0, 9)]) (hze : zeroE op = [])
    (henc : encode (mk d a sc e) = some ((128 + op) * 2 ^ 24 + 12288 + d.val * 524288 + a.val * 16384 + sc.code * 512 + (e.toNat) * 2 ^ 32))
    (hwf : (mk d a sc e).wf = true) (hcond : ∀ v x, condZero op v x = false) (hfar : ∀ x, loneFar op true x = false)
    (hread : ∀ w e, w / 2 ^ 24 % 128 = op → readC true w e =
      if fld w 12 2 = 3 then (Scope.ofCode? (fld w 9 3)).bind fun xsc => some (mk (reg w 19) (reg w 14) xsc (bv 32 e 0)) else none) :
    (mk d a sc e).RoundTripsC := by
  have sclt := sc.code_lt
  refine roundTripsC_of_lone op hop hz hze henc hwf (fun v x _ _ => hcond v x) (fun x _ => hfar x) fun v x hv hx =>
    ⟨⟨by omega, by omega, by simp; omega, rfl⟩, fun hv24 => ?_⟩
  have hd : reg v 19 = d := (reg_eq_iff ..).2 (by omega)
  have ha : reg v 14 = a := (reg_eq_iff ..).2 (by omega)
  have hsc : (Scope.ofCode? (fld v 9 3)) = some sc := (Scope.ofCode?_eq_some_iff ..).2 (by simp; omega)
  have he : bv 32 x 0 = e := (bv_eq_iff ..).2 (by omega)
  have h3 : fld v 12 2 = 3 := by simp; omega
  rw [hread v x hv24, if_pos h3, hd, ha, hsc, he]
  rfl
/-- An access to a word without a register of data. -/
theorem roundTripsC_mark {a : Reg} {p : BitVec 9} {mk : Reg → BitVec 9 → Instr}
    (hop : (assignedC op && op < 128 && !loneBad op false) = true) (hz : ∀ v, zeroC op false v = [(9, 3), (19, 5)])
    (henc : encode (mk a p) = some (op * 2 ^ 24 + 12288 + a.val * 16384 + p.toNat))
    (hwf : (mk a p).wf = true) (hcond : ∀ v x, condZero op v x = false)
    (hread : ∀ w e, w / 2 ^ 24 % 128 = op → readC false w e =
      if fld w 12 2 = 3 then some (mk (reg w 14) (bv 9 w 0)) else none) :
    (mk a p).RoundTripsC := by
  refine roundTripsC_of_word op hop (fun v _ => hz v) henc hwf (fun v _ => hcond v 0) fun v hv => ⟨by omega, by simp; omega, fun hv24 => ?_⟩
  have ha : reg v 14 = a := (reg_eq_iff ..).2 (by omega)
  have hp : bv 9 v 0 = p := (bv_eq_iff ..).2 (by omega)
  have h3 : fld v 12 2 = 3 := by simp; omega
  rw [hread v 0 hv24, if_pos h3, ha, hp]
/-- A lone access to a word without a register of data. -/
theorem roundTripsC_markLone {a : Reg} {e : BitVec 32} {mk : Reg → BitVec 32 → Instr}
    (hop : (assignedC op && op < 128 && !loneBad op true) = true) (hz : ∀ v, zeroC op true v = [(0, 12), (19, 5)]) (hze : zeroE op = [])
    (henc : encode (mk a e) = some ((128 + op) * 2 ^ 24 + 12288 + a.val * 16384 + (e.toNat) * 2 ^ 32))
    (hwf : (mk a e).wf = true) (hcond : ∀ v x, condZero op v x = false) (hfar : ∀ x, loneFar op true x = false)
    (hread : ∀ w e, w / 2 ^ 24 % 128 = op → readC true w e =
      if fld w 12 2 = 3 then some (mk (reg w 14) (bv 32 e 0)) else none) :
    (mk a e).RoundTripsC := by
  refine roundTripsC_of_lone op hop hz hze henc hwf (fun v x _ _ => hcond v x) (fun x _ => hfar x) fun v x hv hx =>
    ⟨⟨by omega, by omega, by simp; omega, rfl⟩, fun hv24 => ?_⟩
  have ha : reg v 14 = a := (reg_eq_iff ..).2 (by omega)
  have he : bv 32 x 0 = e := (bv_eq_iff ..).2 (by omega)
  have h3 : fld v 12 2 = 3 := by simp; omega
  rw [hread v x hv24, if_pos h3, ha, he]
/-- A query of a word. -/
theorem roundTripsC_query {d : Reg} {a : Reg} {p : BitVec 9} {mk : Reg → Reg → BitVec 9 → Instr}
    (hop : (assignedC op && op < 128 && !loneBad op false) = true) (hz : ∀ v, zeroC op false v = [(9, 3)])
    (henc : encode (mk d a p) = some (op * 2 ^ 24 + 12288 + d.val * 524288 + a.val * 16384 + p.toNat))
    (hwf : (mk d a p).wf = true) (hcond : ∀ v x, condZero op v x = false)
    (hread : ∀ w e, w / 2 ^ 24 % 128 = op → readC false w e =
      if fld w 12 2 = 3 then some (mk (reg w 19) (reg w 14) (bv 9 w 0)) else none) :
    (mk d a p).RoundTripsC := by
  refine roundTripsC_of_word op hop (fun v _ => hz v) henc hwf (fun v _ => hcond v 0) fun v hv => ⟨by omega, by simp; omega, fun hv24 => ?_⟩
  have hd : reg v 19 = d := (reg_eq_iff ..).2 (by omega)
  have ha : reg v 14 = a := (reg_eq_iff ..).2 (by omega)
  have hp : bv 9 v 0 = p := (bv_eq_iff ..).2 (by omega)
  have h3 : fld v 12 2 = 3 := by simp; omega
  rw [hread v 0 hv24, if_pos h3, hd, ha, hp]
/-- A lone query of a word. -/
theorem roundTripsC_queryLone {d : Reg} {a : Reg} {e : BitVec 32} {mk : Reg → Reg → BitVec 32 → Instr}
    (hop : (assignedC op && op < 128 && !loneBad op true) = true) (hz : ∀ v, zeroC op true v = [(0, 12)]) (hze : zeroE op = [])
    (henc : encode (mk d a e) = some ((128 + op) * 2 ^ 24 + 12288 + d.val * 524288 + a.val * 16384 + (e.toNat) * 2 ^ 32))
    (hwf : (mk d a e).wf = true) (hcond : ∀ v x, condZero op v x = false) (hfar : ∀ x, loneFar op true x = false)
    (hread : ∀ w e, w / 2 ^ 24 % 128 = op → readC true w e =
      if fld w 12 2 = 3 then some (mk (reg w 19) (reg w 14) (bv 32 e 0)) else none) :
    (mk d a e).RoundTripsC := by
  refine roundTripsC_of_lone op hop hz hze henc hwf (fun v x _ _ => hcond v x) (fun x _ => hfar x) fun v x hv hx =>
    ⟨⟨by omega, by omega, by simp; omega, rfl⟩, fun hv24 => ?_⟩
  have hd : reg v 19 = d := (reg_eq_iff ..).2 (by omega)
  have ha : reg v 14 = a := (reg_eq_iff ..).2 (by omega)
  have he : bv 32 x 0 = e := (bv_eq_iff ..).2 (by omega)
  have h3 : fld v 12 2 = 3 := by simp; omega
  rw [hread v x hv24, if_pos h3, hd, ha, he]
/-- A barrier of a level. -/
theorem roundTripsC_level {l : Level} {mk : Level → Instr}
    (hop : (assignedC op && op < 128 && !loneBad op false) = true) (hz : ∀ v, zeroC op false v = [(3, 21)])
    (henc : encode (mk l) = some (op * 2 ^ 24 + l.code))
    (hwf : (mk l).wf = true) (hcond : ∀ v x, condZero op v x = false)
    (hread : ∀ w e, w / 2 ^ 24 % 128 = op → readC false w e =
      some (mk (Level.ofCode (fld w 0 3)))) :
    (mk l).RoundTripsC := by
  have llt := l.code_lt
  refine roundTripsC_of_word op hop (fun v _ => hz v) henc hwf (fun v _ => hcond v 0) fun v hv => ⟨by omega, by simp; omega, fun hv24 => ?_⟩
  have hl : Level.ofCode (fld v 0 3) = l := (Level.ofCode_eq_iff ..).2 (by omega)
  rw [hread v 0 hv24, hl]
/-- A register and an immediate in E. -/
theorem roundTripsC_immLone {d : Reg} {e : BitVec 32} {mk : Reg → BitVec 32 → Instr}
    (hop : (assignedC op && op < 128 && !loneBad op true) = true) (hz : ∀ v, zeroC op true v = [(0, 19)]) (hze : zeroE op = [])
    (henc : encode (mk d e) = some ((128 + op) * 2 ^ 24 + d.val * 524288 + (e.toNat) * 2 ^ 32))
    (hwf : (mk d e).wf = true) (hcond : ∀ v x, condZero op v x = false) (hfar : ∀ x, loneFar op true x = false)
    (hread : ∀ w e, w / 2 ^ 24 % 128 = op → readC true w e =
      some (mk (reg w 19) (bv 32 e 0))) :
    (mk d e).RoundTripsC := by
  refine roundTripsC_of_lone op hop hz hze henc hwf (fun v x _ _ => hcond v x) (fun x _ => hfar x) fun v x hv hx =>
    ⟨⟨by omega, by omega, by simp; omega, rfl⟩, fun hv24 => ?_⟩
  have hd : reg v 19 = d := (reg_eq_iff ..).2 (by omega)
  have he : bv 32 x 0 = e := (bv_eq_iff ..).2 (by omega)
  rw [hread v x hv24, hd, he]
end

/-! The instructions of word C that have a format of their own (R238, R239 and the engine chapters). -/

theorem roundTripsC_movl (d : Reg) (i : BitVec 14) (hwf : (Instr.movl d i).wf = true) : (Instr.movl d i).RoundTripsC := by
  refine roundTripsC_of_word 0x11 (z := [(14, 5)]) rfl (fun _ _ => rfl) rfl hwf (fun _ _ => rfl) fun v hv => ⟨by omega, by simp; omega, fun hop => ?_⟩
  rw [readC, hop]
  show some _ = _
  simp
  omega
theorem roundTripsC_pref (a : Reg) (p : BitVec 9) (hwf : (Instr.pref a p).wf = true) : (Instr.pref a p).RoundTripsC := by
  refine roundTripsC_of_word 0x1F (z := [(9, 5), (19, 5)]) rfl (fun _ _ => rfl) rfl hwf (fun _ _ => rfl) fun v hv =>
    ⟨by omega, by simp; omega, fun hop => ?_⟩
  rw [readC, hop]
  show some _ = _
  simp
  omega
theorem roundTripsC_prefLone (a : Reg) (e : W32) (hwf : (Instr.prefLone a e).wf = true) : (Instr.prefLone a e).RoundTripsC := by
  refine roundTripsC_of_lone 0x1F (zc := [(0, 14), (19, 5)]) (ze := []) rfl (fun _ => rfl) rfl rfl hwf (fun _ _ _ _ => rfl) (fun _ _ => rfl)
    fun v x hv hx => ⟨⟨by omega, by omega, by simp; omega, rfl⟩, fun hop => ?_⟩
  rw [readC, hop]
  show some _ = _
  simp
  omega
theorem roundTripsC_amo (d a b : Reg) (op : AmoOp) (sc : Scope) (w fe : Bool) (hwf : (Instr.amo d a b op sc w fe).wf = true) :
    (Instr.amo d a b op sc w fe).RoundTripsC := by
  have hoplt := op.code_lt
  have hsclt := sc.code_lt
  have hwlt := bit_lt w
  have hfelt := bit_lt fe
  refine roundTripsC_of_word 0x29 (z := []) rfl (fun _ _ => rfl) rfl hwf (fun _ _ => rfl) fun v hv => ⟨by omega, by simp, fun hop => ?_⟩
  rw [readC, hop]
  show Option.bind _ _ = _
  simp [Option.bind_eq_some_iff]
  omega
theorem roundTripsC_cas (d a b : Reg) (sc : Scope) (w : Bool) (hwf : (Instr.cas d a b sc w).wf = true) : (Instr.cas d a b sc w).RoundTripsC := by
  have hsclt := sc.code_lt
  have hwlt := bit_lt w
  refine roundTripsC_of_word 0x2A (z := [(0, 1), (5, 4)]) rfl (fun _ _ => rfl) rfl hwf (fun _ _ => rfl) fun v hv =>
    ⟨by omega, by simp; omega, fun hop => ?_⟩
  rw [readC, hop]
  show Option.bind _ _ = _
  simp [Option.bind_eq_some_iff]
  omega
theorem roundTripsC_send (a b : Reg) (l : Fin 8) (hwf : (Instr.send a b l).wf = true) : (Instr.send a b l).RoundTripsC := by
  refine roundTripsC_of_word 0x30 (z := [(3, 6), (19, 5)]) rfl (fun _ _ => rfl) rfl hwf (fun _ _ => rfl) fun v hv =>
    ⟨by omega, by simp; omega, fun hop => ?_⟩
  rw [readC, hop]
  show some _ = _
  simp
  omega
theorem roundTripsC_recv (d a : Reg) (p w : Fin 8) (hwf : (Instr.recv d a p w).wf = true) : (Instr.recv d a p w).RoundTripsC := by
  refine roundTripsC_of_word 0x31 (z := [(0, 3), (9, 5)]) rfl (fun _ _ => rfl) rfl hwf (fun _ _ => rfl) fun v hv =>
    ⟨by omega, by simp; omega, fun hop => ?_⟩
  rw [readC, hop]
  show some _ = _
  simp
  omega
theorem roundTripsC_pcnt (d : Reg) (p : Fin 8) (hwf : (Instr.pcnt d p).wf = true) : (Instr.pcnt d p).RoundTripsC := by
  refine roundTripsC_of_word 0x32 (z := [(0, 6), (9, 10)]) rfl (fun _ _ => rfl) rfl hwf (fun _ _ => rfl) fun v hv =>
    ⟨by omega, by simp; omega, fun hop => ?_⟩
  rw [readC, hop]
  show some _ = _
  simp
  omega
theorem roundTripsC_rbc (a b : Reg) (sc : Scope) (hwf : (Instr.rbc a b sc).wf = true) : (Instr.rbc a b sc).RoundTripsC := by
  have hsclt := sc.code_lt
  refine roundTripsC_of_word 0x36 (z := [(0, 2), (5, 4), (19, 5)]) rfl (fun _ _ => rfl) rfl hwf (fun _ _ => rfl) fun v hv =>
    ⟨by omega, by simp; omega, fun hop => ?_⟩
  rw [readC, hop]
  show Option.bind _ _ = _
  simp [Option.bind_eq_some_iff]
  omega
theorem roundTripsC_rclr (b : Reg) (sc : Scope) (hwf : (Instr.rclr b sc).wf = true) : (Instr.rclr b sc).RoundTripsC := by
  have hsclt := sc.code_lt
  refine roundTripsC_of_word 0x37 (z := [(0, 2), (5, 4), (14, 10)]) rfl (fun _ _ => rfl) rfl hwf (fun _ _ => rfl) fun v hv =>
    ⟨by omega, by simp; omega, fun hop => ?_⟩
  rw [readC, hop]
  show Option.bind _ _ = _
  simp [Option.bind_eq_some_iff]
  omega
theorem roundTripsC_cpy (d a b c w : Reg) (mode : CopyMode) (sc : Scope) (hwf : (Instr.cpy d a b c w mode sc).wf = true) :
    (Instr.cpy d a b c w mode sc).RoundTripsC := by
  have hmodelt := mode.code_lt
  have hsclt := sc.code_lt
  refine roundTripsC_of_lone 0x40 (zc := [(0, 4)]) (ze := [(10, 22)]) rfl (fun _ => rfl) rfl rfl hwf (fun _ _ _ _ => rfl) (fun _ _ => rfl)
    fun v x hv hx => ⟨⟨by omega, by omega, by simp; omega, by simp; omega⟩, fun hop => ?_⟩
  rw [readC, hop]
  show Option.bind _ _ = _
  simp [Option.bind_eq_some_iff]
  omega
theorem roundTripsC_cpy2 (d a b c w st : Reg) (mode : CopyMode) (sc : Scope) (esz : Size) (tr : Bool)
    (hwf : (Instr.cpy2 d a b c w st mode sc esz tr).wf = true) : (Instr.cpy2 d a b c w st mode sc esz tr).RoundTripsC := by
  have hmodelt := mode.code_lt
  have hsclt := sc.code_lt
  have heszlt := esz.code_lt
  have htrlt := bit_lt tr
  refine roundTripsC_of_lone 0x41 (zc := [(0, 4)]) (ze := [(18, 14)]) rfl (fun _ => rfl) rfl rfl hwf (fun _ _ _ _ => rfl) (fun _ _ => rfl)
    fun v x hv hx => ⟨⟨by omega, by omega, by simp; omega, by simp; omega⟩, fun hop => ?_⟩
  rw [readC, hop]
  show Option.bind _ _ = _
  simp [Option.bind_eq_some_iff]
  omega
theorem roundTripsC_cpyw (mask : BitVec 8) (hwf : (Instr.cpyw mask).wf = true) : (Instr.cpyw mask).RoundTripsC := by
  refine roundTripsC_of_loneWord 0x42 (zc := [(8, 16)]) (ze := [(0, 32)]) rfl (fun _ => rfl) ⟨rfl, rfl⟩ rfl hwf (fun _ _ => rfl) fun v hv =>
    ⟨by omega, by simp; omega, fun hop => ?_⟩
  rw [readC, hop]
  show some _ = _
  simp
  omega
theorem roundTripsC_rcfg (h : RingNo) (a b : Reg) (hwf : (Instr.rcfg h a b).wf = true) : (Instr.rcfg h a b).RoundTripsC := by
  refine roundTripsC_of_loneWord 0x43 (zc := [(0, 6), (16, 5)]) (ze := [(0, 32)]) rfl (fun _ => rfl) ⟨rfl, rfl⟩ rfl hwf (fun _ _ => rfl) fun v hv =>
    ⟨by omega, by simp; omega, fun hop => ?_⟩
  rw [readC, hop]
  show some _ = _
  simp
  omega
theorem roundTripsC_rpush (h : RingNo) (remote : Bool) (a : Reg) (hwf : (Instr.rpush h remote a).wf = true) :
    (Instr.rpush h remote a).RoundTripsC := by
  have hremotelt := bit_lt remote
  refine roundTripsC_of_loneWord 0x44 (zc := [(1, 10), (16, 5)]) (ze := [(0, 32)]) rfl (fun _ => rfl) ⟨rfl, rfl⟩ rfl hwf (fun _ _ => rfl) fun v hv =>
    ⟨by omega, by simp; omega, fun hop => ?_⟩
  rw [readC, hop]
  show some _ = _
  simp
  omega
theorem roundTripsC_rpop (h : RingNo) (d : Reg) (hwf : (Instr.rpop h d).wf = true) : (Instr.rpop h d).RoundTripsC := by
  refine roundTripsC_of_loneWord 0x45 (zc := [(0, 16)]) (ze := [(0, 32)]) rfl (fun _ => rfl) ⟨rfl, rfl⟩ rfl hwf (fun _ _ => rfl) fun v hv =>
    ⟨by omega, by simp; omega, fun hop => ?_⟩
  rw [readC, hop]
  show some _ = _
  simp
  omega
theorem roundTripsC_rwait (h : RingNo) (n : BitVec 6) (cond : RingCond) (hwf : (Instr.rwait h n cond).wf = true) :
    (Instr.rwait h n cond).RoundTripsC := by
  have hcondlt := cond.code_lt
  refine roundTripsC_of_loneWord 0x46 (zc := [(2, 8), (16, 5)]) (ze := [(0, 32)]) rfl (fun _ => rfl) ⟨rfl, rfl⟩ rfl hwf (fun _ _ => rfl) fun v hv =>
    ⟨by omega, by simp; omega, fun hop => ?_⟩
  rw [readC, hop]
  show Option.bind _ _ = _
  simp [Option.bind_eq_some_iff]
  omega
theorem roundTripsC_rfree (h : RingNo) (n : BitVec 6) (hwf : (Instr.rfree h n).wf = true) : (Instr.rfree h n).RoundTripsC := by
  refine roundTripsC_of_loneWord 0x47 (zc := [(0, 10), (16, 5)]) (ze := [(0, 32)]) rfl (fun _ => rfl) ⟨rfl, rfl⟩ rfl hwf (fun _ _ => rfl) fun v hv =>
    ⟨by omega, by simp; omega, fun hop => ?_⟩
  rw [readC, hop]
  show some _ = _
  simp
  omega
theorem roundTripsC_rq (h : RingNo) (d : Reg) (sel : Fin 5) (hwf : (Instr.rq h d sel).wf = true) : (Instr.rq h d sel).RoundTripsC := by
  refine roundTripsC_of_loneWord 0x48 (zc := [(3, 13)]) (ze := [(0, 32)]) rfl (fun _ => rfl) ⟨rfl, rfl⟩ rfl hwf (fun _ _ => rfl) fun v hv =>
    ⟨by omega, by simp; omega, fun hop => ?_⟩
  rw [readC, hop]
  show Option.bind _ _ = _
  simp [Option.bind_eq_some_iff]
  omega
theorem roundTripsC_mfold (acc : Acc) (fmt : FoldFmt) (home : Fin 4) (ra rb : RingNo) (solo pin : Bool) (nkm1 : BitVec 8)
    (hwf : (Instr.mfold acc fmt home ra rb solo pin nkm1).wf = true) : (Instr.mfold acc fmt home ra rb solo pin nkm1).RoundTripsC := by
  have hfmtlt := fmt.code_lt
  have hsololt := bit_lt solo
  have hpinlt := bit_lt pin
  refine roundTripsC_of_lone 0x50 (zc := [(0, 8)]) (ze := [(8, 24)]) rfl (fun _ => rfl) rfl rfl hwf (fun _ _ _ _ => rfl) (fun _ _ => rfl)
    fun v x hv hx => ⟨⟨by omega, by omega, by simp; omega, by simp; omega⟩, fun hop => ?_⟩
  rw [readC, hop]
  show Option.bind _ _ = _
  simp [Option.bind_eq_some_iff]
  omega
theorem roundTripsC_mzero (acc : Acc) (hwf : (Instr.mzero acc).wf = true) : (Instr.mzero acc).RoundTripsC := by
  refine roundTripsC_of_loneWord 0x51 (zc := [(0, 22)]) (ze := [(0, 32)]) rfl (fun _ => rfl) ⟨rfl, rfl⟩ rfl hwf (fun _ _ => rfl) fun v hv =>
    ⟨by omega, by simp; omega, fun hop => ?_⟩
  rw [readC, hop]
  show some _ = _
  simp
  omega
theorem roundTripsC_mwid (acc : Acc) (fmt : WidFmt) (a b : Reg) (hwf : (Instr.mwid acc fmt a b).wf = true) :
    (Instr.mwid acc fmt a b).RoundTripsC := by
  have hfmtlt := fmt.code_lt
  refine roundTripsC_of_loneWord 0x53 (zc := [(0, 5), (15, 3)]) (ze := [(0, 32)]) rfl (fun _ => rfl) ⟨rfl, rfl⟩ rfl hwf (fun _ _ => rfl) fun v hv =>
    ⟨by omega, by simp; omega, fun hop => ?_⟩
  rw [readC, hop]
  show Option.bind _ _ = _
  simp [Option.bind_eq_some_iff]
  omega
theorem roundTripsC_mrec (acc : Acc) (d : Reg) (hwf : (Instr.mrec acc d).wf = true) : (Instr.mrec acc d).RoundTripsC := by
  refine roundTripsC_of_loneWord 0x54 (zc := [(0, 17)]) (ze := [(0, 32)]) rfl (fun _ => rfl) ⟨rfl, rfl⟩ rfl hwf (fun _ _ => rfl) fun v hv =>
    ⟨by omega, by simp; omega, fun hop => ?_⟩
  rw [readC, hop]
  show some _ = _
  simp
  omega
theorem roundTripsC_mwait (mask : BitVec 4) (hwf : (Instr.mwait mask).wf = true) : (Instr.mwait mask).RoundTripsC := by
  refine roundTripsC_of_loneWord 0x55 (zc := [(4, 20)]) (ze := [(0, 32)]) rfl (fun _ => rfl) ⟨rfl, rfl⟩ rfl hwf (fun _ _ => rfl) fun v hv =>
    ⟨by omega, by simp; omega, fun hop => ?_⟩
  rw [readC, hop]
  show some _ = _
  simp
  omega
theorem roundTripsC_mq (d : Reg) (hwf : (Instr.mq d).wf = true) : (Instr.mq d).RoundTripsC := by
  refine roundTripsC_of_loneWord 0x56 (zc := [(0, 17), (22, 2)]) (ze := [(0, 32)]) rfl (fun _ => rfl) ⟨rfl, rfl⟩ rfl hwf (fun _ _ => rfl) fun v hv =>
    ⟨by omega, by simp; omega, fun hop => ?_⟩
  rw [readC, hop]
  show some _ = _
  simp
  omega
theorem roundTripsC_ausq (start : BitVec 8) (doff aoff boff : BitVec 9) (hwf : (Instr.ausq start doff aoff boff).wf = true) :
    (Instr.ausq start doff aoff boff).RoundTripsC := by
  refine roundTripsC_of_lone 0x63 (zc := [(0, 16)]) (ze := [(27, 5)]) rfl (fun _ => rfl) rfl rfl hwf (fun _ _ _ _ => rfl) (fun _ _ => rfl)
    fun v x hv hx => ⟨⟨by omega, by omega, by simp; omega, by simp; omega⟩, fun hop => ?_⟩
  rw [readC, hop]
  show some _ = _
  simp
  omega
theorem roundTripsC_abnd (dt : Tag) (a b : Reg) (hwf : (Instr.abnd dt a b).wf = true) : (Instr.abnd dt a b).RoundTripsC := by
  refine roundTripsC_of_loneWord 0x64 (zc := [(0, 4), (14, 7)]) (ze := [(0, 32)]) rfl (fun _ => rfl) ⟨rfl, rfl⟩ rfl hwf (fun _ _ => rfl) fun v hv =>
    ⟨by omega, by simp; omega, fun hop => ?_⟩
  rw [readC, hop]
  show some _ = _
  simp
  omega
theorem roundTripsC_atag (dt ta tb : Tag) (fn : BitVec 4) (hwf : (Instr.atag dt ta tb fn).wf = true) : (Instr.atag dt ta tb fn).RoundTripsC := by
  refine roundTripsC_of_loneWord 0x65 (zc := [(0, 11)]) (ze := [(0, 32)]) rfl (fun _ => rfl) ⟨rfl, rfl⟩ rfl hwf (fun _ _ => rfl) fun v hv =>
    ⟨by omega, by simp; omega, fun hop => ?_⟩
  rw [readC, hop]
  show some _ = _
  simp
  omega
theorem roundTripsC_acnt (d : Reg) (ta : Tag) (hwf : (Instr.acnt d ta).wf = true) : (Instr.acnt d ta).RoundTripsC := by
  refine roundTripsC_of_loneWord 0x66 (zc := [(0, 16)]) (ze := [(0, 32)]) rfl (fun _ => rfl) ⟨rfl, rfl⟩ rfl hwf (fun _ _ => rfl) fun v hv =>
    ⟨by omega, by simp; omega, fun hop => ?_⟩
  rw [readC, hop]
  show some _ = _
  simp
  omega
theorem roundTripsC_afst (d : Reg) (ta : Tag) (clr : Bool) (hwf : (Instr.afst d ta clr).wf = true) : (Instr.afst d ta clr).RoundTripsC := by
  have hclrlt := bit_lt clr
  refine roundTripsC_of_loneWord 0x67 (zc := [(0, 15)]) (ze := [(0, 32)]) rfl (fun _ => rfl) ⟨rfl, rfl⟩ rfl hwf (fun _ _ => rfl) fun v hv =>
    ⟨by omega, by simp; omega, fun hop => ?_⟩
  rw [readC, hop]
  show some _ = _
  simp
  omega
theorem roundTripsC_ard (d a : Reg) (sg : Bool) (f : Field) (hwf : (Instr.ard d a sg f).wf = true) : (Instr.ard d a sg f).RoundTripsC := by
  have hsglt := bit_lt sg
  refine roundTripsC_of_lone 0x69 (zc := [(0, 13)]) (ze := [(15, 17)]) rfl (fun _ => rfl) rfl rfl hwf (fun _ _ _ _ => rfl) (fun _ _ => rfl)
    fun v x hv hx => ⟨⟨by omega, by omega, by simp; omega, by simp; omega⟩, fun hop => ?_⟩
  rw [readC, hop]
  show some _ = _
  simp
  omega
theorem roundTripsC_awr (a b : Reg) (f : Field) (hwf : (Instr.awr a b f).wf = true) : (Instr.awr a b f).RoundTripsC := by
  refine roundTripsC_of_lone 0x6A (zc := [(0, 9), (19, 5)]) (ze := [(15, 17)]) rfl (fun _ => rfl) rfl rfl hwf (fun _ _ _ _ => rfl) (fun _ _ => rfl)
    fun v x hv hx => ⟨⟨by omega, by omega, by simp; omega, by simp; omega⟩, fun hop => ?_⟩
  rw [readC, hop]
  show some _ = _
  simp
  omega
theorem roundTripsC_asql (a : Reg) (hwf : (Instr.asql a).wf = true) : (Instr.asql a).RoundTripsC := by
  refine roundTripsC_of_loneWord 0x6C (zc := [(0, 14), (19, 5)]) (ze := [(0, 32)]) rfl (fun _ => rfl) ⟨rfl, rfl⟩ rfl hwf (fun _ _ => rfl) fun v hv =>
    ⟨by omega, by simp; omega, fun hop => ?_⟩
  rw [readC, hop]
  show some _ = _
  simp
  omega
theorem roundTripsC_arws (d : Reg) (hwf : (Instr.arws d).wf = true) : (Instr.arws d).RoundTripsC := by
  refine roundTripsC_of_loneWord 0x6D (zc := [(0, 19)]) (ze := [(0, 32)]) rfl (fun _ => rfl) ⟨rfl, rfl⟩ rfl hwf (fun _ _ => rfl) fun v hv =>
    ⟨by omega, by simp; omega, fun hop => ?_⟩
  rw [readC, hop]
  show some _ = _
  simp
  omega
theorem roundTripsC_atrc (s : Reg) (hwf : (Instr.atrc s).wf = true) : (Instr.atrc s).RoundTripsC := by
  refine roundTripsC_of_loneWord 0x6E (zc := [(0, 9), (14, 10)]) (ze := [(0, 32)]) rfl (fun _ => rfl) ⟨rfl, rfl⟩ rfl hwf (fun _ _ => rfl) fun v hv =>
    ⟨by omega, by simp; omega, fun hop => ?_⟩
  rw [readC, hop]
  show some _ = _
  simp
  omega
theorem roundTripsC_arwd (a : Reg) (hwf : (Instr.arwd a).wf = true) : (Instr.arwd a).RoundTripsC := by
  refine roundTripsC_of_loneWord 0x6F (zc := [(0, 9), (14, 10)]) (ze := [(0, 32)]) rfl (fun _ => rfl) ⟨rfl, rfl⟩ rfl hwf (fun _ _ => rfl) fun v hv =>
    ⟨by omega, by simp; omega, fun hop => ?_⟩
  rw [readC, hop]
  show some _ = _
  simp
  omega
theorem roundTripsC_mfc (d : Reg) (n : BitVec 14) (hwf : (Instr.mfc d n).wf = true) : (Instr.mfc d n).RoundTripsC := by
  refine roundTripsC_of_word 0x70 (z := [(14, 5)]) rfl (fun _ _ => rfl) rfl hwf (fun _ _ => rfl) fun v hv => ⟨by omega, by simp; omega, fun hop => ?_⟩
  rw [readC, hop]
  show some _ = _
  simp
  omega
theorem roundTripsC_mtc (a : Reg) (n : BitVec 14) (hwf : (Instr.mtc a n).wf = true) : (Instr.mtc a n).RoundTripsC := by
  refine roundTripsC_of_word 0x71 (z := [(19, 5)]) rfl (fun _ _ => rfl) rfl hwf (fun _ _ => rfl) fun v hv => ⟨by omega, by simp; omega, fun hop => ?_⟩
  rw [readC, hop]
  show some _ = _
  simp
  omega
theorem roundTripsC_resume (a b : Reg) (hwf : (Instr.resume a b).wf = true) : (Instr.resume a b).RoundTripsC := by
  refine roundTripsC_of_word 0x72 (z := [(0, 9), (19, 5)]) rfl (fun _ _ => rfl) rfl hwf (fun _ _ => rfl) fun v hv =>
    ⟨by omega, by simp; omega, fun hop => ?_⟩
  rw [readC, hop]
  show some _ = _
  simp
  omega
theorem roundTripsC_tlbw (d a b : Reg) (hwf : (Instr.tlbw d a b).wf = true) : (Instr.tlbw d a b).RoundTripsC := by
  refine roundTripsC_of_word 0x73 (z := [(0, 9)]) rfl (fun _ _ => rfl) rfl hwf (fun _ _ => rfl) fun v hv => ⟨by omega, by simp; omega, fun hop => ?_⟩
  rw [readC, hop]
  show some _ = _
  simp
  omega
theorem roundTripsC_mnar (acc : Acc) (fmt : NarFmt) (rm : Rm) (a b c : Reg) (arr : Option (BitVec 9))
    (hwf : (Instr.mnar acc fmt rm a b c arr).wf = true) : (Instr.mnar acc fmt rm a b c arr).RoundTripsC := by
  have hfmtlt := fmt.code_lt
  have hrmlt := rm.code_lt
  have harr : arrBit arr + arrOff arr * 2 < 1024 := by
    rcases arr with _ | o
    · decide
    · simp only [arrBit, arrOff]; omega
  refine roundTripsC_of_lone 0x52 (zc := []) (ze := [(10, 22)]) rfl (fun _ => rfl) rfl rfl hwf (fun _ _ _ _ => rfl) (fun _ _ => rfl)
    fun v x hv hx => ⟨⟨by omega, by omega, by simp, by simp; omega⟩, fun hop => ?_⟩
  rw [readC, hop]
  show Option.bind _ _ = _
  simp [Option.bind_eq_some_iff]
  omega
theorem roundTripsC_red (a b : Reg) (op : RedOp) (sc : Scope) (w : Bool) (hwf : (Instr.red a b op sc w).wf = true) :
    (Instr.red a b op sc w).RoundTripsC := by
  have hsclt := sc.code_lt
  have hwlt := bit_lt w
  cases op with
  | int o =>
    have holt := o.code_lt
    have hswap : o ≠ .swap := by
      have hne : (o != .swap) = true := hwf
      simpa using hne
    refine roundTripsC_of_word 0x2B (z := [(0, 1), (22, 2)]) rfl (fun _ _ => rfl) rfl hwf (fun v hv => ?_) fun v hv =>
      ⟨by simp [RedOp.code, RedOp.round] at hv; omega, by simp [RedOp.code, RedOp.round] at hv ⊢; omega, fun hop => ?_⟩
    all_goals simp only [RedOp.code, RedOp.round] at hv
    · show (_ && _) = false
      simp
      omega
    · rw [readC, hop]
      show Option.bind _ _ = _
      simp [Option.bind_eq_some_iff, hswap]
      omega
  | fadd r =>
    have hrlt := r.code_lt
    refine roundTripsC_of_word 0x2B (z := [(0, 1), (22, 2)]) rfl (fun _ _ => rfl) rfl hwf (fun v hv => ?_) fun v hv =>
      ⟨by simp [RedOp.code, RedOp.round] at hv; omega, by simp [RedOp.code, RedOp.round] at hv ⊢; omega, fun hop => ?_⟩
    all_goals simp only [RedOp.code, RedOp.round] at hv
    · show (_ && _) = false
      simp
      omega
    · rw [readC, hop]
      show Option.bind _ _ = _
      simp [Option.bind_eq_some_iff]
      omega
theorem roundTripsC_fenceOrd (sc : Scope) (hwf : (Instr.fenceOrd sc).wf = true) : (Instr.fenceOrd sc).RoundTripsC := by
  have hsclt := sc.code_lt
  refine roundTripsC_of_word 0x2C (z := [(5, 19)]) rfl (fun v hv => if_pos ?_) rfl hwf (fun _ _ => rfl) fun v hv =>
    ⟨by omega, by simp; omega, fun hop => ?_⟩
  · simp; omega
  · have h0 : fld v 0 2 = 0 := by simp; omega
    rw [readC, hop, h0]
    show Option.bind _ _ = _
    simp [Option.bind_eq_some_iff]
    omega

/-! A mask or a key is read back from its parts, and the parts that it does not use are zero. -/

theorem maskMu_lt (m : Option Tag) : maskMu m < 2 := by
  cases m with
  | none => decide
  | some _ => exact Nat.zero_lt_succ _
theorem maskMt_lt (m : Option Tag) : maskMt m < 8 := by
  cases m with
  | none => decide
  | some t => exact t.isLt
theorem KeySrc.kr_lt (k : KeySrc) : k.kr < 2 := by cases k <;> simp [KeySrc.kr]
theorem KeySrc.a_lt (k : KeySrc) : k.a < 32 := by
  cases k with
  | reg a => exact a.isLt
  | imm _ => exact Nat.zero_lt_succ _
theorem KeySrc.imm17_lt (k : KeySrc) : k.imm17 < 2 ^ 17 := by
  cases k with
  | reg _ => exact Nat.two_pow_pos 17
  | imm i => exact i.isLt
theorem mask_of_parts {w mu mt : Nat} {m : Option Tag} (hmu : w / 2 ^ mu % 2 = maskMu m) (hmt : w / 2 ^ mt % 8 = maskMt m) :
    mask w mu mt = m ∧ (flag w mu && fld w mt 3 != 0) = false := by
  cases m with
  | none => simp_all [maskMu, maskMt, flag]
  | some t => simp_all [maskMu, maskMt, flag]
theorem zero_of_unused {u : Bool} {n : Nat} (h : (u || n == 0) = true) : (!u && n != 0) = false := by
  cases u with
  | false => simpa using h
  | true => rfl
theorem key_of_parts {w e : Nat} {k : KeySrc} (hkr : w / 2 ^ 14 % 2 = k.kr) (ha : w / 2 ^ 9 % 32 = k.a)
    (himm : e / 2 ^ 15 % 2 ^ 17 = k.imm17) :
    key w e = k ∧ (if flag w 14 then fld e 15 17 != 0 else fld w 9 5 != 0) = false := by
  cases k with
  | reg a => simp_all [KeySrc.kr, KeySrc.a, KeySrc.imm17, flag]
  | imm i => simp_all [KeySrc.kr, KeySrc.a, KeySrc.imm17, flag]
theorem roundTripsC_awrt (mask : Option Tag) (f : Field) (v : BitVec 17) (hwf : (Instr.awrt mask f v).wf = true) :
    (Instr.awrt mask f v).RoundTripsC := by
  have hmulo := maskMu_lt mask
  have hmtlo := maskMt_lt mask
  refine roundTripsC_of_lone 0x61 (zc := [(0, 17), (21, 3)]) (ze := []) rfl (fun _ => rfl) rfl rfl hwf
    (fun v x hv _ => (mask_of_parts (mu := 17) (mt := 18) (m := mask) (by omega) (by omega)).2) (fun _ _ => rfl)
    fun v x hv hx => ⟨⟨by omega, by omega, by simp; omega, rfl⟩, fun hop => ?_⟩
  rw [readC, hop]
  show some _ = _
  rw [(mask_of_parts (m := mask) (by omega) (by omega)).1]
  simp
  omega
theorem roundTripsC_ascw (mask : Option Tag) (a : Reg) (f : Field) (hwf : (Instr.ascw mask a f).wf = true) : (Instr.ascw mask a f).RoundTripsC := by
  have hmulo := maskMu_lt mask
  have hmtlo := maskMt_lt mask
  refine roundTripsC_of_lone 0x6B (zc := [(0, 9), (14, 3), (21, 3)]) (ze := [(15, 17)]) rfl (fun _ => rfl) rfl rfl hwf
    (fun v x hv _ => (mask_of_parts (mu := 17) (mt := 18) (m := mask) (by omega) (by omega)).2) (fun _ _ => rfl)
    fun v x hv hx => ⟨⟨by omega, by omega, by simp; omega, by simp; omega⟩, fun hop => ?_⟩
  rw [readC, hop]
  show some _ = _
  rw [(mask_of_parts (m := mask) (by omega) (by omega)).1]
  simp
  omega
theorem roundTripsC_arsum (d : Reg) (mask : Option Tag) (sg : Bool) (f : Field) (hwf : (Instr.arsum d mask sg f).wf = true) :
    (Instr.arsum d mask sg f).RoundTripsC := by
  have hsglt := bit_lt sg
  have hmulo := maskMu_lt mask
  have hmtlo := maskMt_lt mask
  refine roundTripsC_of_lone 0x68 (zc := [(0, 14)]) (ze := [(15, 17)]) rfl (fun _ => rfl) rfl rfl hwf
    (fun v x hv _ => (mask_of_parts (mu := 15) (mt := 16) (m := mask) (by omega) (by omega)).2) (fun _ _ => rfl)
    fun v x hv hx => ⟨⟨by omega, by omega, by simp; omega, by simp; omega⟩, fun hop => ?_⟩
  rw [readC, hop]
  show some _ = _
  rw [(mask_of_parts (m := mask) (by omega) (by omega)).1]
  simp
  omega
theorem roundTripsC_acmp (dt : Tag) (mask : Option Tag) (op : TagOp) (key : KeySrc) (f : Field)
    (hwf : (Instr.acmp dt mask op key f).wf = true) : (Instr.acmp dt mask op key f).RoundTripsC := by
  have hoplt := op.code_lt
  have hmulo := maskMu_lt mask
  have hmtlo := maskMt_lt mask
  have hkrlt := key.kr_lt
  have halt := key.a_lt
  have himmlt := key.imm17_lt
  have hparts : ∀ v x : Nat, v = 0xE0000000 + dt.val * 2097152 + maskMt mask * 262144 + maskMu mask * 131072 + op.code * 32768 + key.kr *
    16384 + key.a * 512 →
      x = key.imm17 * 32768 + f.off.toNat + f.wm1.toNat * 512 →
      (v / 2 ^ 17 % 2 = maskMu mask ∧ v / 2 ^ 18 % 8 = maskMt mask) ∧
        v / 2 ^ 14 % 2 = key.kr ∧ v / 2 ^ 9 % 32 = key.a ∧ x / 2 ^ 15 % 2 ^ 17 = key.imm17 := by
    intro v x hv hx
    exact ⟨⟨by omega, by omega⟩, by omega, by omega, by omega⟩
  refine roundTripsC_of_lone 0x60 (zc := [(0, 9)]) (ze := []) rfl (fun _ => rfl) rfl rfl hwf (fun v x hv hx => ?_) (fun _ _ => rfl)
    fun v x hv hx => ⟨⟨by omega, by omega, by simp; omega, rfl⟩, fun hop => ?_⟩
  · obtain ⟨⟨hmu, hmt⟩, hkr, ha, himm⟩ := hparts v x hv hx
    show (_ || _) = false
    rw [(mask_of_parts hmu hmt).2, (key_of_parts hkr ha himm).2]
    rfl
  · obtain ⟨⟨hmu, hmt⟩, hkr, ha, himm⟩ := hparts v x hv hx
    rw [readC, hop]
    show some _ = _
    rw [(mask_of_parts hmu hmt).1, (key_of_parts hkr ha himm).1]
    simp
    omega
theorem roundTripsC_aseq (code : SeqCode) (mask : Option Tag) (dt : Tag) (s : Reg) (w1m1 w2m1 : BitVec 4) (doff aoff boff : BitVec 9)
    (hwf : (Instr.aseq code mask dt s w1m1 w2m1 doff aoff boff).wf = true) :
    (Instr.aseq code mask dt s w1m1 w2m1 doff aoff boff).RoundTripsC := by
  have hcodelt := code.code_lt
  have hmulo := maskMu_lt mask
  have hmtlo := maskMt_lt mask
  have hused : (code.usesD || doff.toNat == 0) = true ∧ (code.usesA || aoff.toNat == 0) = true ∧ (code.usesB || boff.toNat == 0) = true ∧
      (code.usesS || s.val == 0) = true ∧ (code.usesW2 || w2m1.toNat == 0) = true := by
    have h : aseqWf code mask dt s w1m1 w2m1 doff aoff boff = true := hwf
    simp only [aseqWf, Bool.and_eq_true] at h
    obtain ⟨⟨⟨⟨⟨⟨⟨⟨⟨⟨⟨⟨⟨-, hD⟩, hA⟩, hB⟩, hS⟩, hW⟩, -⟩, -⟩, -⟩, -⟩, -⟩, -⟩, -⟩, -⟩ := h
    exact ⟨hD, hA, hB, hS, hW⟩
  have hmask : ∀ v, v = 0xE2000000 + code.code * 524288 + maskMt mask * 65536 + maskMu mask * 32768 + dt.val * 4096 + s.val * 64 + w1m1.toNat * 4 →
      (v / 2 ^ 15 % 2 = maskMu mask ∧ v / 2 ^ 16 % 8 = maskMt mask) ∧ SeqCode.ofCode? (fld v 19 5) = some code := by
    intro v hv
    exact ⟨by omega, (SeqCode.ofCode?_eq_some_iff ..).2 (by simp; omega)⟩
  refine roundTripsC_of_lone 0x62 (zc := [(0, 2), (11, 1)]) (ze := [(31, 1)]) rfl (fun _ => rfl) rfl rfl hwf (fun v x hv hx => ?_) (fun _ _ => rfl)
    fun v x hv hx => ⟨⟨by omega, by omega, by simp; omega, by simp; omega⟩, fun hop => ?_⟩
  · obtain ⟨⟨hmu, hmt⟩, hcode⟩ := hmask v hv
    have hD : fld x 0 9 = doff.toNat := by simp; omega
    have hA : fld x 9 9 = aoff.toNat := by simp; omega
    have hB : fld x 18 9 = boff.toNat := by simp; omega
    have hS : fld v 6 5 = s.val := by simp; omega
    have hW : fld x 27 4 = w2m1.toNat := by simp; omega
    obtain ⟨huD, huA, huB, huS, huW⟩ := hused
    show (_ || _) = false
    rw [(mask_of_parts hmu hmt).2, hcode, hD, hA, hB, hS, hW]
    show ((((_ || _) || _) || _) || _) = false
    rw [zero_of_unused huD, zero_of_unused huA, zero_of_unused huB, zero_of_unused huS, zero_of_unused huW]
    rfl
  · obtain ⟨⟨hmu, hmt⟩, hcode⟩ := hmask v hv
    rw [readC, hop]
    show Option.bind _ _ = _
    rw [(mask_of_parts hmu hmt).1, hcode]
    simp
    omega

/-- SEAL, whose opcode word is all of it, round-trips; its name is a keyword too, with which no case below can begin. -/
theorem roundTripsC_seal : Instr.seal.RoundTripsC := ⟨_, rfl, by decide, rfl⟩
/-- Every instruction of word C round-trips: each by its format, or by its own lemma. -/
theorem Instr.roundTripsC (i : Instr) (hwf : i.wf = true) (hC : i.isC = true) : i.RoundTripsC := by
  cases i with
  | nopC  => exact ⟨_, rfl, by decide, rfl⟩
  | endFiring  => exact ⟨_, rfl, by decide, rfl⟩
  | br n t => exact roundTripsC_branch 0x02 rfl (fun _ => rfl) rfl hwf (fun _ _ => rfl) fun w e h => by rw [readC, h]; rfl
  | brLone n t => exact roundTripsC_branchLone 0x02 rfl (fun _ => rfl) rfl rfl hwf (fun _ _ => rfl) fun w e h => by rw [readC, h]; rfl
  | call n t => exact roundTripsC_branch 0x03 rfl (fun _ => rfl) rfl hwf (fun _ _ => rfl) fun w e h => by rw [readC, h]; rfl
  | callLone n t => exact roundTripsC_branchLone 0x03 rfl (fun _ => rfl) rfl rfl hwf (fun _ _ => rfl) fun w e h => by rw [readC, h]; rfl
  | jmp a => exact roundTripsC_jump 0x04 rfl (fun _ => rfl) rfl hwf (fun _ _ => rfl) fun w e h => by rw [readC, h]; rfl
  | callr a => exact roundTripsC_jump 0x05 rfl (fun _ => rfl) rfl hwf (fun _ _ => rfl) fun w e h => by rw [readC, h]; rfl
  | bz a n t => exact roundTripsC_test 0x06 rfl (fun _ => rfl) rfl hwf (fun _ _ => rfl) fun w e h => by rw [readC, h]; rfl
  | bzLone a n t => exact roundTripsC_testLone 0x06 rfl (fun _ => rfl) rfl rfl hwf (fun _ _ => rfl) fun w e h => by rw [readC, h]; rfl
  | bnz a n t => exact roundTripsC_test 0x07 rfl (fun _ => rfl) rfl hwf (fun _ _ => rfl) fun w e h => by rw [readC, h]; rfl
  | bnzLone a n t => exact roundTripsC_testLone 0x07 rfl (fun _ => rfl) rfl rfl hwf (fun _ _ => rfl) fun w e h => by rw [readC, h]; rfl
  | bltz a n t => exact roundTripsC_test 0x08 rfl (fun _ => rfl) rfl hwf (fun _ _ => rfl) fun w e h => by rw [readC, h]; rfl
  | bltzLone a n t => exact roundTripsC_testLone 0x08 rfl (fun _ => rfl) rfl rfl hwf (fun _ _ => rfl) fun w e h => by rw [readC, h]; rfl
  | bgez a n t => exact roundTripsC_test 0x09 rfl (fun _ => rfl) rfl hwf (fun _ _ => rfl) fun w e h => by rw [readC, h]; rfl
  | bgezLone a n t => exact roundTripsC_testLone 0x09 rfl (fun _ => rfl) rfl rfl hwf (fun _ _ => rfl) fun w e h => by rw [readC, h]; rfl
  | beq a b n t => exact roundTripsC_compare 0x0A rfl (fun _ => rfl) rfl hwf (fun _ _ => rfl) fun w e h => by rw [readC, h]; rfl
  | beqLone a b n t => exact roundTripsC_compareLone 0x0A rfl (fun _ => rfl) rfl rfl hwf (fun _ _ => rfl) fun w e h => by rw [readC, h]; rfl
  | bne a b n t => exact roundTripsC_compare 0x0B rfl (fun _ => rfl) rfl hwf (fun _ _ => rfl) fun w e h => by rw [readC, h]; rfl
  | bneLone a b n t => exact roundTripsC_compareLone 0x0B rfl (fun _ => rfl) rfl rfl hwf (fun _ _ => rfl) fun w e h => by rw [readC, h]; rfl
  | blt a b n t => exact roundTripsC_compare 0x0C rfl (fun _ => rfl) rfl hwf (fun _ _ => rfl) fun w e h => by rw [readC, h]; rfl
  | bltLone a b n t => exact roundTripsC_compareLone 0x0C rfl (fun _ => rfl) rfl rfl hwf (fun _ _ => rfl) fun w e h => by rw [readC, h]; rfl
  | bge a b n t => exact roundTripsC_compare 0x0D rfl (fun _ => rfl) rfl hwf (fun _ _ => rfl) fun w e h => by rw [readC, h]; rfl
  | bgeLone a b n t => exact roundTripsC_compareLone 0x0D rfl (fun _ => rfl) rfl rfl hwf (fun _ _ => rfl) fun w e h => by rw [readC, h]; rfl
  | bltn a b n t => exact roundTripsC_compare 0x0E rfl (fun _ => rfl) rfl hwf (fun _ _ => rfl) fun w e h => by rw [readC, h]; rfl
  | bltnLone a b n t => exact roundTripsC_compareLone 0x0E rfl (fun _ => rfl) rfl rfl hwf (fun _ _ => rfl) fun w e h => by rw [readC, h]; rfl
  | bgen a b n t => exact roundTripsC_compare 0x0F rfl (fun _ => rfl) rfl hwf (fun _ _ => rfl) fun w e h => by rw [readC, h]; rfl
  | bgenLone a b n t => exact roundTripsC_compareLone 0x0F rfl (fun _ => rfl) rfl rfl hwf (fun _ _ => rfl) fun w e h => by rw [readC, h]; rfl
  | loop a n t => exact roundTripsC_test 0x10 rfl (fun _ => rfl) rfl hwf (fun _ _ => rfl) fun w e h => by rw [readC, h]; rfl
  | loopLone a n t => exact roundTripsC_testLone 0x10 rfl (fun _ => rfl) rfl rfl hwf (fun _ _ => rfl) fun w e h => by rw [readC, h]; rfl
  | movl d i => exact roundTripsC_movl d i hwf
  | movlLone d e => exact roundTripsC_immLone 0x11 rfl (fun _ => rfl) rfl rfl hwf (fun _ _ => rfl) (fun _ => rfl) fun w e h => by rw [readC, h]; rfl
  | movlh d e => exact roundTripsC_immLone 0x12 rfl (fun _ => rfl) rfl rfl hwf (fun _ _ => rfl) (fun _ => rfl) fun w e h => by rw [readC, h]; rfl
  | trap i => exact roundTripsC_code 0x13 rfl (fun _ => rfl) rfl hwf (fun _ _ => rfl) fun w e h => by rw [readC, h]; rfl
  | sleep i => exact roundTripsC_code 0x14 rfl (fun _ => rfl) rfl hwf (fun _ _ => rfl) fun w e h => by rw [readC, h]; rfl
  | brk i => exact roundTripsC_code 0x15 rfl (fun _ => rfl) rfl hwf (fun _ _ => rfl) fun w e h => by rw [readC, h]; rfl
  | ld d a sz p => exact roundTripsC_access 0x18 rfl (fun _ => rfl) rfl hwf (fun _ _ => rfl) fun w e h => by rw [readC, h]; rfl
  | ldLone d a sz e =>
    exact roundTripsC_accessLone 0x18 rfl (fun _ => rfl) rfl rfl hwf (fun _ _ => rfl) (fun _ => rfl) fun w e h => by rw [readC, h]; rfl
  | ldn d a sz p => exact roundTripsC_access 0x19 rfl (fun _ => rfl) rfl hwf (fun _ _ => rfl) fun w e h => by rw [readC, h]; rfl
  | ldnLone d a sz e =>
    exact roundTripsC_accessLone 0x19 rfl (fun _ => rfl) rfl rfl hwf (fun _ _ => rfl) (fun _ => rfl) fun w e h => by rw [readC, h]; rfl
  | st d a sz p => exact roundTripsC_access 0x1A rfl (fun _ => rfl) rfl hwf (fun _ _ => rfl) fun w e h => by rw [readC, h]; rfl
  | stLone d a sz e =>
    exact roundTripsC_accessLone 0x1A rfl (fun _ => rfl) rfl rfl hwf (fun _ _ => rfl) (fun _ => rfl) fun w e h => by rw [readC, h]; rfl
  | ldx d a b sz => exact roundTripsC_indexed 0x1B rfl (fun _ => rfl) rfl hwf (fun _ _ => rfl) fun w e h => by rw [readC, h]; rfl
  | stx d a b sz => exact roundTripsC_indexed 0x1C rfl (fun _ => rfl) rfl hwf (fun _ _ => rfl) fun w e h => by rw [readC, h]; rfl
  | lda d a sz sc p => exact roundTripsC_scoped 0x1D rfl (fun _ => rfl) rfl hwf (fun _ _ => rfl) fun w e h => by rw [readC, h]; rfl
  | ldaLone d a sz sc e =>
    exact roundTripsC_scopedLone 0x1D rfl (fun _ => rfl) rfl rfl hwf (fun _ _ => rfl) (fun _ => rfl) fun w e h => by rw [readC, h]; rfl
  | stl d a sz sc p => exact roundTripsC_scoped 0x1E rfl (fun _ => rfl) rfl hwf (fun _ _ => rfl) fun w e h => by rw [readC, h]; rfl
  | stlLone d a sz sc e =>
    exact roundTripsC_scopedLone 0x1E rfl (fun _ => rfl) rfl rfl hwf (fun _ _ => rfl) (fun _ => rfl) fun w e h => by rw [readC, h]; rfl
  | pref a p => exact roundTripsC_pref a p hwf
  | prefLone a e => exact roundTripsC_prefLone a e hwf
  | ldw d a sc p => exact roundTripsC_word 0x20 rfl (fun _ => rfl) rfl hwf (fun _ _ => rfl) fun w e h => by rw [readC, h]; rfl
  | ldwLone d a sc e =>
    exact roundTripsC_wordLone 0x20 rfl (fun _ => rfl) rfl rfl hwf (fun _ _ => rfl) (fun _ => rfl) fun w e h => by rw [readC, h]; rfl
  | ldt d a sc p => exact roundTripsC_word 0x21 rfl (fun _ => rfl) rfl hwf (fun _ _ => rfl) fun w e h => by rw [readC, h]; rfl
  | ldtLone d a sc e =>
    exact roundTripsC_wordLone 0x21 rfl (fun _ => rfl) rfl rfl hwf (fun _ _ => rfl) (fun _ => rfl) fun w e h => by rw [readC, h]; rfl
  | stp d a sc p => exact roundTripsC_word 0x22 rfl (fun _ => rfl) rfl hwf (fun _ _ => rfl) fun w e h => by rw [readC, h]; rfl
  | stpLone d a sc e =>
    exact roundTripsC_wordLone 0x22 rfl (fun _ => rfl) rfl rfl hwf (fun _ _ => rfl) (fun _ => rfl) fun w e h => by rw [readC, h]; rfl
  | stf d a sc p => exact roundTripsC_word 0x23 rfl (fun _ => rfl) rfl hwf (fun _ _ => rfl) fun w e h => by rw [readC, h]; rfl
  | stfLone d a sc e =>
    exact roundTripsC_wordLone 0x23 rfl (fun _ => rfl) rfl rfl hwf (fun _ _ => rfl) (fun _ => rfl) fun w e h => by rw [readC, h]; rfl
  | emp a p => exact roundTripsC_mark 0x24 rfl (fun _ => rfl) rfl hwf (fun _ _ => rfl) fun w e h => by rw [readC, h]; rfl
  | empLone a e => exact roundTripsC_markLone 0x24 rfl (fun _ => rfl) rfl rfl hwf (fun _ _ => rfl) (fun _ => rfl) fun w e h => by rw [readC, h]; rfl
  | feq d a p => exact roundTripsC_query 0x25 rfl (fun _ => rfl) rfl hwf (fun _ _ => rfl) fun w e h => by rw [readC, h]; rfl
  | feqLone d a e =>
    exact roundTripsC_queryLone 0x25 rfl (fun _ => rfl) rfl rfl hwf (fun _ _ => rfl) (fun _ => rfl) fun w e h => by rw [readC, h]; rfl
  | ldwt d a sc p => exact roundTripsC_word 0x26 rfl (fun _ => rfl) rfl hwf (fun _ _ => rfl) fun w e h => by rw [readC, h]; rfl
  | ldwtLone d a sc e =>
    exact roundTripsC_wordLone 0x26 rfl (fun _ => rfl) rfl rfl hwf (fun _ _ => rfl) (fun _ => rfl) fun w e h => by rw [readC, h]; rfl
  | ldtt d a sc p => exact roundTripsC_word 0x27 rfl (fun _ => rfl) rfl hwf (fun _ _ => rfl) fun w e h => by rw [readC, h]; rfl
  | ldttLone d a sc e =>
    exact roundTripsC_wordLone 0x27 rfl (fun _ => rfl) rfl rfl hwf (fun _ _ => rfl) (fun _ => rfl) fun w e h => by rw [readC, h]; rfl
  | stpt d a sc p => exact roundTripsC_word 0x28 rfl (fun _ => rfl) rfl hwf (fun _ _ => rfl) fun w e h => by rw [readC, h]; rfl
  | stptLone d a sc e =>
    exact roundTripsC_wordLone 0x28 rfl (fun _ => rfl) rfl rfl hwf (fun _ _ => rfl) (fun _ => rfl) fun w e h => by rw [readC, h]; rfl
  | amo d a b op sc w fe => exact roundTripsC_amo d a b op sc w fe hwf
  | cas d a b sc w => exact roundTripsC_cas d a b sc w hwf
  | red a b op sc w => exact roundTripsC_red a b op sc w hwf
  | fenceOrd sc => exact roundTripsC_fenceOrd sc hwf
  | fenceR  => exact ⟨_, rfl, by decide, rfl⟩
  | fenceA  => exact ⟨_, rfl, by decide, rfl⟩
  | fenceE  => exact ⟨_, rfl, by decide, rfl⟩
  | send a b l => exact roundTripsC_send a b l hwf
  | recv d a p w => exact roundTripsC_recv d a p w hwf
  | pcnt d p => exact roundTripsC_pcnt d p hwf
  | bar l => exact roundTripsC_level 0x33 rfl (fun _ => rfl) rfl hwf (fun _ _ => rfl) fun w e h => by rw [readC, h]; rfl
  | bara l => exact roundTripsC_level 0x34 rfl (fun _ => rfl) rfl hwf (fun _ _ => rfl) fun w e h => by rw [readC, h]; rfl
  | barw l => exact roundTripsC_level 0x35 rfl (fun _ => rfl) rfl hwf (fun _ _ => rfl) fun w e h => by rw [readC, h]; rfl
  | rbc a b sc => exact roundTripsC_rbc a b sc hwf
  | rclr b sc => exact roundTripsC_rclr b sc hwf
  | ltrig  => exact ⟨_, rfl, by decide, rfl⟩
  | migr a => exact roundTripsC_jump 0x39 rfl (fun _ => rfl) rfl hwf (fun _ _ => rfl) fun w e h => by rw [readC, h]; rfl
  | park d a p => exact roundTripsC_query 0x3A rfl (fun _ => rfl) rfl hwf (fun _ _ => rfl) fun w e h => by rw [readC, h]; rfl
  | parkLone d a e =>
    exact roundTripsC_queryLone 0x3A rfl (fun _ => rfl) rfl rfl hwf (fun _ _ => rfl) (fun _ => rfl) fun w e h => by rw [readC, h]; rfl
  | tarm a p => exact roundTripsC_mark 0x3B rfl (fun _ => rfl) rfl hwf (fun _ _ => rfl) fun w e h => by rw [readC, h]; rfl
  | tarmLone a e => exact roundTripsC_markLone 0x3B rfl (fun _ => rfl) rfl rfl hwf (fun _ _ => rfl) (fun _ => rfl) fun w e h => by rw [readC, h]; rfl
  | cpy d a b c w mode sc => exact roundTripsC_cpy d a b c w mode sc hwf
  | cpy2 d a b c w st mode sc esz tr => exact roundTripsC_cpy2 d a b c w st mode sc esz tr hwf
  | cpyw mask => exact roundTripsC_cpyw mask hwf
  | rcfg h a b => exact roundTripsC_rcfg h a b hwf
  | rpush h remote a => exact roundTripsC_rpush h remote a hwf
  | rpop h d => exact roundTripsC_rpop h d hwf
  | rwait h n cond => exact roundTripsC_rwait h n cond hwf
  | rfree h n => exact roundTripsC_rfree h n hwf
  | rq h d sel => exact roundTripsC_rq h d sel hwf
  | mfold acc fmt home ra rb solo pin nkm1 => exact roundTripsC_mfold acc fmt home ra rb solo pin nkm1 hwf
  | mzero acc => exact roundTripsC_mzero acc hwf
  | mnar acc fmt rm a b c arr => exact roundTripsC_mnar acc fmt rm a b c arr hwf
  | mwid acc fmt a b => exact roundTripsC_mwid acc fmt a b hwf
  | mrec acc d => exact roundTripsC_mrec acc d hwf
  | mwait mask => exact roundTripsC_mwait mask hwf
  | mq d => exact roundTripsC_mq d hwf
  | acmp dt mask op key f => exact roundTripsC_acmp dt mask op key f hwf
  | awrt mask f v => exact roundTripsC_awrt mask f v hwf
  | aseq code mask dt s w1m1 w2m1 doff aoff boff => exact roundTripsC_aseq code mask dt s w1m1 w2m1 doff aoff boff hwf
  | ausq start doff aoff boff => exact roundTripsC_ausq start doff aoff boff hwf
  | abnd dt a b => exact roundTripsC_abnd dt a b hwf
  | atag dt ta tb fn => exact roundTripsC_atag dt ta tb fn hwf
  | acnt d ta => exact roundTripsC_acnt d ta hwf
  | afst d ta clr => exact roundTripsC_afst d ta clr hwf
  | arsum d mask sg f => exact roundTripsC_arsum d mask sg f hwf
  | ard d a sg f => exact roundTripsC_ard d a sg f hwf
  | awr a b f => exact roundTripsC_awr a b f hwf
  | ascw mask a f => exact roundTripsC_ascw mask a f hwf
  | asql a => exact roundTripsC_asql a hwf
  | arws d => exact roundTripsC_arws d hwf
  | atrc s => exact roundTripsC_atrc s hwf
  | arwd a => exact roundTripsC_arwd a hwf
  | mfc d n => exact roundTripsC_mfc d n hwf
  | mtc a n => exact roundTripsC_mtc a n hwf
  | resume a b => exact roundTripsC_resume a b hwf
  | tlbw d a b => exact roundTripsC_tlbw d a b hwf
  | tlbi a => exact roundTripsC_jump 0x74 rfl (fun _ => rfl) rfl hwf (fun _ _ => rfl) fun w e h => by rw [readC, h]; rfl
  | tlbs a => exact roundTripsC_jump 0x75 rfl (fun _ => rfl) rfl hwf (fun _ _ => rfl) fun w e h => by rw [readC, h]; rfl
  | _ => cases hC <;> exact roundTripsC_seal

/-! ### The opcodes that no instruction has (R238, R241, R243) -/

theorem decodeBundle_of_unassignedC {b : Nat} (h : assignedC (b / 2 ^ 24 % 128) = false) : decodeBundle b = none := by
  have hop : b % 2 ^ 32 / 2 ^ 24 % 128 = b / 2 ^ 24 % 128 := by omega
  exact if_neg (by rw [hop, h]; simp)

theorem decodeBundle_of_unassignedA {b : Nat} (hlone : b / 2 ^ 31 % 2 = 0) (h : assignedA (b / 2 ^ 56 % 256) = false) :
    decodeBundle b = none := by
  have hop : b / 2 ^ 32 % 2 ^ 32 / 2 ^ 24 % 256 = b / 2 ^ 56 % 256 := by omega
  have hflag : flag (b % 2 ^ 32) 31 = false := (flag_eq_iff ..).2 (by simp [bit]; omega)
  exact if_neg (by rw [hop, h, hflag]; simp)

theorem assignedC_eq_false {c : Nat} (h : c = 0x16 ∨ c = 0x17 ∨ (0x2D ≤ c ∧ c ≤ 0x2F) ∨ (0x3C ≤ c ∧ c ≤ 0x3F) ∨ (0x49 ≤ c ∧ c ≤ 0x4F) ∨
    (0x57 ≤ c ∧ c ≤ 0x5F) ∨ (0x76 ≤ c ∧ c ≤ 0x7E)) : assignedC c = false := by
  simp [assignedC]
  omega
theorem assignedA_eq_false {a : Nat} (h : (0x2D ≤ a ∧ a ≤ 0x3F) ∨ (0x4C ≤ a ∧ a ≤ 0x5F) ∨ a = 0x6F ∨ 0x75 ≤ a) : assignedA a = false := by
  simp [assignedA]
  omega

/-- Settles O26: every format of word A keeps each field in its own bits. -/
theorem wordARoundTrip : Obligations.WordARoundTrip := fun i _ hA => i.roundTripsA hA

/-- Settles O27: every format of word C keeps each field in its own bits of the word and of E, and a well-formed instruction leaves the
fields zero that it does not use. -/
theorem wordCRoundTrip : Obligations.WordCRoundTrip := fun i hwf hC => i.roundTripsC hwf hC

/-- Settles O28: an opcode that the tables do not assign fails the first check of the decoder; the sample words decode as they run. -/
theorem unassignedAndSampleWords : Obligations.UnassignedAndSampleWords := by
  refine ⟨fun b => ⟨fun hc => ?_, fun hlone ha => ?_⟩, by decide⟩
  · exact decodeBundle_of_unassignedC (assignedC_eq_false hc)
  · exact decodeBundle_of_unassignedA hlone (assignedA_eq_false ha)

end Sys2Proof
end

section
/-!
SUPPORT. The plain word C instructions: NOP, the moves, branches, calls and LOOP, and the step of the PC queue
(13_instruction_formats, 17_control_flow).
-/
namespace Sys2Proof.Machine

/-! ### Moves, conditions and targets (R242, R306, R307, R310) -/

/-- The word that MOVLH writes: E above the old low half (R242). -/
theorem movlh_word (e : W32) (x : Word) :
    (e.setWidth 64 <<< 32) ||| (x &&& 0xFFFFFFFF) = BitVec.ofNat 64 (e.toNat * 2 ^ 32 + x.toNat % 2 ^ 32) := by
  have hmask : x.toNat &&& (0xFFFFFFFF : Word).toNat = x.toNat % 2 ^ 32 := Nat.and_two_pow_sub_one_eq_mod x.toNat 32
  have hlow : x.toNat % 2 ^ 32 < 2 ^ 32 := Nat.mod_lt _ (by decide)
  have he : e.toNat < 2 ^ 32 := e.isLt
  have hor : (e.toNat * 2 ^ 32) ||| (x.toNat % 2 ^ 32) = e.toNat * 2 ^ 32 + x.toNat % 2 ^ 32 := by
    rw [Nat.mul_comm, ← Nat.two_pow_add_eq_or_of_lt hlow]
  have hwide : e.toNat % 2 ^ 64 = e.toNat := Nat.mod_eq_of_lt (by omega)
  have hhigh : e.toNat * 2 ^ 32 % 2 ^ 64 = e.toNat * 2 ^ 32 := Nat.mod_eq_of_lt (by omega)
  apply BitVec.eq_of_toNat_eq
  rw [BitVec.toNat_or, BitVec.toNat_shiftLeft, BitVec.toNat_setWidth, BitVec.toNat_and, BitVec.toNat_ofNat, Nat.shiftLeft_eq, hmask,
    hwide, hhigh, hor]
  omega

theorem relTarget_near (pc t : Bundle13) : relTarget pc t = pc + t := by rw [relTarget, BitVec.signExtend_eq]

theorem slt_eq (x y : Word) : x.slt y = decide (x.toInt < y.toInt) := rfl
theorem not_slt_eq (x y : Word) : (!x.slt y) = decide (y.toInt ≤ x.toInt) := by rw [slt_eq, ← decide_not]; exact decide_eq_decide.2 Int.not_lt
theorem ult_eq (x y : Word) : x.ult y = decide (x.toNat < y.toNat) := rfl
theorem not_ult_eq (x y : Word) : (!x.ult y) = decide (y.toNat ≤ x.toNat) := by rw [ult_eq, ← decide_not]; exact decide_eq_decide.2 Nat.not_lt

/-- The link of a call, as a number modulo the 8192 bundles of a store (R310). -/
theorem linkOf_eq (pc : Bundle13) : linkOf pc = BitVec.ofNat 64 ((pc.toNat + 3) % 8192) := by
  apply BitVec.eq_of_toNat_eq
  simp [linkOf, BitVec.toNat_add]

/-- A counter after `k` executions of its LOOP has one left to make exactly while fewer than its value less one are done (R311). -/
theorem loop_goes_on_iff {c : Word} {k : Nat} (hk : k < c.toNat) : c - BitVec.ofNat 64 k - 1 ≠ 0 ↔ k + 1 < c.toNat := by
  have hc := c.isLt
  have hval : (c - BitVec.ofNat 64 k - 1).toNat = c.toNat - k - 1 := by
    rw [BitVec.toNat_sub, BitVec.toNat_sub, BitVec.toNat_ofNat, show (1 : Word).toNat = 1 from rfl]
    omega
  rw [Ne, ← BitVec.toNat_inj, hval]
  simp
  omega

/-- A branch whose condition is a word that differs from zero, written as a condition (R311). -/
theorem flow_of_ne {x : Word} {f g : Flow} : (if (x != 0) = true then f else g) = if x ≠ 0 then f else g := by
  by_cases h : x = 0 <;> simp [h]

/-! ### The PC queue (R303, R305)

What the front of the queue becomes under each of the flows that the bundle at PC may have chosen. -/

/-- The queue as `PcQueueSteps` looks at it: the three places, and the tick in which the next bundle may issue. -/
def Bank.queue (b : Bank) : Bundle13 × Bundle13 × Bundle13 × Nat := (b.pc, b.npc1, b.npc2, b.readyAt)

section
variable (b : Bank) (tick : Nat)

/-- Where neither successor is annulled, the next bundle of the queue is at its front in the next tick. -/
theorem Bank.advance_kept (h1 : b.ann1 = false) :
    (({ b with flow := .seq }).advance tick).queue = (b.npc1, b.npc2, b.npc2 + 1, tick + 1) ∧
    (({ b with flow := .seq }).advance tick).ann1 = b.ann2 ∧
    ∀ t, (({ b with flow := .taken t }).advance tick).queue = (b.npc1, b.npc2, t, tick + 1) := by
  simp [Bank.advance, Bank.shift, Bank.skip, Bank.queue, h1]
/-- Both delay bundles of an untaken nullifying branch are passed over. -/
theorem Bank.advance_annul (h2 : b.ann2 = false) :
    (({ b with flow := .annul }).advance tick).queue = (b.npc2 + 1, b.npc2 + 1 + 1, b.npc2 + 1 + 1 + 1, tick + 3) := by
  simp [Bank.advance, Bank.shift, Bank.skip, Bank.queue, h2]
/-- One annulled successor is passed over. -/
theorem Bank.advance_one (h1 : b.ann1 = true) (h2 : b.ann2 = false) :
    (({ b with flow := .seq }).advance tick).queue = (b.npc2, b.npc2 + 1, b.npc2 + 1 + 1, tick + 2) := by
  simp [Bank.advance, Bank.shift, Bank.skip, Bank.queue, h1, h2]
/-- Two annulled successors are passed over. -/
theorem Bank.advance_both (h1 : b.ann1 = true) (h2 : b.ann2 = true) :
    (({ b with flow := .seq }).advance tick).queue = (b.npc2 + 1, b.npc2 + 1 + 1, b.npc2 + 1 + 1 + 1, tick + 3) := by
  simp [Bank.advance, Bank.shift, Bank.skip, Bank.queue, h1, h2]
end

theorem Bundle13.add_two (p : Bundle13) : p + 1 + 1 = p + 2 := by rw [BitVec.add_assoc]; rfl
theorem Bundle13.add_three (p : Bundle13) : p + 1 + 1 + 1 = p + 3 := by rw [BitVec.add_assoc, BitVec.add_assoc]; rfl

/-- Settles O6: the moves write what `setC` is given; MOVLH joins E and the old low half. -/
theorem nopsAndMoves : Obligations.NopsAndMoves := by
  intro s d i e
  refine ⟨rfl, rfl, rfl, rfl, ?_⟩
  rw [← movlh_word]
  rfl

/-- Settles O7: each branch is `branch` with its condition, read as an order of numbers, and its target. -/
theorem branchesAndJump : Obligations.BranchesAndJump := by
  constructor
  · intro s a b n t u
    refine ⟨rfl, rfl, rfl, rfl, ?_, ?_, ?_, ?_, ?_, ?_, ?_, rfl⟩
    · rw [← BitVec.toInt_zero (w := 64), ← not_slt_eq]; rfl
    all_goals rw [← relTarget_near]
    · rfl
    · rfl
    · rfl
    · rw [← not_slt_eq]; rfl
    · rfl
    · rw [← not_ult_eq]; rfl
  · intro s a b n t
    refine ⟨rfl, rfl, rfl, rfl, ?_, rfl, rfl, rfl, ?_, rfl, ?_⟩
    · rw [← BitVec.toInt_zero (w := 64), ← not_slt_eq]; rfl
    · rw [← not_slt_eq]; rfl
    · rw [← not_ult_eq]; rfl

/-- Settles O8: a call is a taken branch behind the write of its link. -/
theorem callsLink : Obligations.CallsLink := by
  intro s a n t u
  rw [← linkOf_eq]
  exact ⟨rfl, rfl, rfl, rfl, rfl⟩

/-- Settles O9: LOOP branches on the count that it writes, and of g0 that count is -1. -/
theorem loopCounts : Obligations.LoopCounts := by
  intro s a n t u c k tick b next s2 rel
  have hloop : exec (.loop a n t) s = .next (s2.flow (if next ≠ 0 then .taken rel else if n then .annul else .seq)).issue := by
    rw [← flow_of_ne]; rfl
  have hlone : exec (.loopLone a n u) s = .next (s2.flow (if next ≠ 0 then .taken u else if n then .annul else .seq)).issue := by
    rw [← flow_of_ne]; rfl
  refine ⟨hloop, hlone, ?_, loop_goes_on_iff, rfl, fun h1 h2 => ?_⟩
  · rintro rfl
    have hnext : next ≠ 0 := by
      show (0 : Word) - 1 ≠ 0
      decide
    rw [if_pos hnext] at hloop hlone
    exact ⟨hloop, hlone, State.me_modMe ..⟩
  · have h := Bank.advance_annul b tick h2
    rw [Bundle13.add_three, Bundle13.add_two] at h
    obtain ⟨hpc, hnpc⟩ := Prod.mk.inj h
    obtain ⟨hnpc1, hnpc⟩ := Prod.mk.inj hnpc
    exact ⟨hpc, hnpc1, (Prod.mk.inj hnpc).1⟩

/-- Settles O10: the front of the queue after each flow, over each setting of the annul bits. -/
theorem pcQueueSteps : Obligations.PcQueueSteps := by
  intro b tick t q
  simp only [← Bundle13.add_two, ← Bundle13.add_three]
  refine ⟨fun h1 h2 => ?_, Bank.advance_one b tick, Bank.advance_both b tick, fun h1 h2 => ?_⟩
  · obtain ⟨hseq, -, htaken⟩ := b.advance_kept tick h1
    exact ⟨hseq, htaken t, b.advance_annul tick h2⟩
  · obtain ⟨hseq, hann, -⟩ := b.advance_kept tick h1
    exact ⟨hseq, hann.trans h2⟩

end Sys2Proof.Machine
end

section
/-!
SUPPORT. The values of the integer instructions of slot A, as sums, quotients, orders and bits (14_scalar R253 to R256).
-/
namespace Sys2Proof.Machine

/-! ### Multiplication and division (R253, R254) -/

theorem divWord_eq (x y : Word) : divWord x y = if y = 0 then BitVec.allOnes 64 else x.sdiv y := by
  have hdiv : BitVec.ofInt 64 (x.toInt.tdiv y.toInt) = x.sdiv y := by
    apply BitVec.eq_of_toInt_eq
    rw [BitVec.toInt_ofInt, BitVec.toInt_sdiv]
  rw [divWord, hdiv]
theorem remWord_eq (x y : Word) : remWord x y = if y = 0 then x else x.srem y := by
  have hrem : BitVec.ofInt 64 (x.toInt.tmod y.toInt) = x.srem y := by rw [← BitVec.toInt_srem, BitVec.ofInt_toInt]
  rw [remWord, hrem]

/-! ### Orders (R253) -/

theorem min_of_slt (x y : Word) : (if x.slt y then x else y) = if x.toInt ≤ y.toInt then x else y := by
  rcases lt_trichotomy x.toInt y.toInt with h | h | h
  · simp [BitVec.slt, h, h.le]
  · simp [BitVec.eq_of_toInt_eq h]
  · simp [BitVec.slt, h.not_gt, h.not_ge]
theorem max_of_slt (x y : Word) : (if x.slt y then y else x) = if x.toInt ≤ y.toInt then y else x := by
  rcases lt_trichotomy x.toInt y.toInt with h | h | h
  · simp [BitVec.slt, h, h.le]
  · simp [BitVec.eq_of_toInt_eq h]
  · simp [BitVec.slt, h.not_gt, h.not_ge]
theorem min_of_ult (x y : Word) : (if x.ult y then x else y) = if x.toNat ≤ y.toNat then x else y := by
  rcases lt_trichotomy x.toNat y.toNat with h | h | h
  · simp [BitVec.ult, h, h.le]
  · simp [BitVec.eq_of_toNat_eq h]
  · simp [BitVec.ult, h.not_gt, h.not_ge]
theorem max_of_ult (x y : Word) : (if x.ult y then y else x) = if x.toNat ≤ y.toNat then y else x := by
  rcases lt_trichotomy x.toNat y.toNat with h | h | h
  · simp [BitVec.ult, h, h.le]
  · simp [BitVec.eq_of_toNat_eq h]
  · simp [BitVec.ult, h.not_gt, h.not_ge]

theorem boolWord_decide (p : Prop) [Decidable p] : boolWord (decide p) = if p then 1 else 0 := by simp [boolWord]
theorem boolWord_beq (x y : Word) : boolWord (x == y) = if x = y then 1 else 0 := by simp [boolWord]
theorem boolWord_bne (x y : Word) : boolWord (x != y) = if x = y then 0 else 1 := by
  by_cases h : x = y <;> simp [boolWord, h]

/-! ### Rotation (R253) -/

theorem rolWord_eq (x y : Word) :
    rolWord x y = (x <<< (y.toNat % 64)) ||| (if y.toNat % 64 = 0 then x else x >>> (64 - y.toNat % 64)) := by
  rw [rolWord, shAmt, BitVec.rotateLeft_def, Nat.mod_mod]
  split_ifs with h
  · rw [h, BitVec.shiftLeft_zero, show x >>> (64 - 0) = 0#64 from BitVec.ushiftRight_eq_zero (by decide), BitVec.or_zero, BitVec.or_self]
  · rfl

/-! ### Counting bits (R253) -/

/-- CLZ of a word: `n` zero bits stand above its highest one. -/
theorem clzWord_spec (x : Word) : ∃ n, clzWord x = BitVec.ofNat 64 n ∧ n ≤ 64 ∧ (∀ i, 64 - n ≤ i → x.getLsbD i = false) ∧
    (n < 64 → x.getLsbD (63 - n) = true) := by
  by_cases h0 : x = 0
  · exact ⟨64, if_pos h0, le_rfl, fun i _ => by simp [h0], fun h => absurd h (lt_irrefl _)⟩
  · have hne : x.toNat ≠ 0 := fun h => h0 (BitVec.eq_of_toNat_eq h)
    have hlog : x.toNat.log2 < 64 := (Nat.log2_lt hne).2 x.isLt
    refine ⟨63 - x.toNat.log2, if_neg h0, by omega, fun i hi => ?_, fun _ => ?_⟩
    · exact Nat.testBit_lt_two_pow (Nat.lt_log2_self.trans_le (Nat.pow_le_pow_right (by decide) (by omega)))
    · rw [show 63 - (63 - x.toNat.log2) = x.toNat.log2 by omega]
      exact Nat.testBit_log2 hne

theorem ctzNat_spec (k n : Nat) : ctzNat k n ≤ k ∧ (∀ i, i < ctzNat k n → n.testBit i = false) ∧
    (ctzNat k n < k → n.testBit (ctzNat k n) = true) := by
  induction k generalizing n with
  | zero => simp [ctzNat]
  | succ k ih =>
    obtain ⟨hle, hzero, hone⟩ := ih (n / 2)
    by_cases h : n % 2 = 1
    · simp [ctzNat, h]
    · simp only [ctzNat, if_neg h]
      refine ⟨by omega, fun i hi => ?_, fun hk => ?_⟩
      · cases i with
        | zero => simpa using h
        | succ i => rw [Nat.testBit_succ]; exact hzero i (by omega)
      · rw [Nat.testBit_succ]; exact hone (by omega)
/-- CTZ of a word: `n` zero bits stand below its lowest one. -/
theorem ctzWord_spec (x : Word) : ∃ n, ctzWord x = BitVec.ofNat 64 n ∧ n ≤ 64 ∧ (∀ i, i < n → x.getLsbD i = false) ∧
    (n < 64 → x.getLsbD n = true) := ⟨ctzNat 64 x.toNat, rfl, ctzNat_spec 64 x.toNat⟩

theorem popNat_eq (k n : Nat) : popNat k n = ((List.range k).filter n.testBit).length := by
  induction k generalizing n with
  | zero => rfl
  | succ k ih =>
    rw [popNat, ih, List.range_succ_eq_map, List.filter_cons, List.filter_map]
    have hsucc : n.testBit ∘ Nat.succ = (n / 2).testBit := funext fun i => Nat.testBit_succ n i
    rw [hsucc, Nat.testBit_zero]
    rcases Nat.mod_two_eq_zero_or_one n with h | h <;> simp [h, Nat.add_comm]

/-! ### Parts of a word (R253) -/

theorem lowMask_toNat {l : Nat} (h : l ≤ 64) : (lowMask l).toNat = 2 ^ l - 1 := by
  have hpow : 2 ^ l ≤ 2 ^ 64 := Nat.pow_le_pow_right (by decide) h
  have hpos := Nat.two_pow_pos l
  rw [lowMask, BitVec.toNat_ofNat, Nat.mod_eq_of_lt (by omega)]
theorem zxFrom_eq {n : Nat} (x : Word) (h : n ≤ 64) : zxFrom n x = x &&& lowMask n := by
  have hx : x.toNat % 2 ^ n < 2 ^ 64 := (Nat.mod_le _ _).trans_lt x.isLt
  apply BitVec.eq_of_toNat_eq
  rw [zxFrom, BitVec.toNat_setWidth, BitVec.toNat_setWidth, BitVec.toNat_and, lowMask_toNat h, Nat.mod_eq_of_lt hx,
    Nat.and_two_pow_sub_one_eq_mod]

theorem sxFrom_eq {n : Nat} (x : Word) (h : n ≤ 64) : sxFrom n x = (x.extractLsb' 0 n).signExtend 64 := by
  rw [sxFrom, BitVec.setWidth_eq_extractLsb' h]
theorem sxFrom_add (x y : Word) : sxFrom 32 (x + y) = ((x.extractLsb' 0 32) + (y.extractLsb' 0 32)).signExtend 64 := by
  rw [sxFrom, BitVec.setWidth_add _ _ (by decide), BitVec.setWidth_eq_extractLsb' (by decide), BitVec.setWidth_eq_extractLsb' (by decide)]
theorem sxFrom_mul (x y : Word) : sxFrom 32 (x * y) = ((x.extractLsb' 0 32) * (y.extractLsb' 0 32)).signExtend 64 := by
  rw [sxFrom, BitVec.setWidth_mul _ _ (by decide), BitVec.setWidth_eq_extractLsb' (by decide), BitVec.setWidth_eq_extractLsb' (by decide)]
theorem sxFrom_sub (x y : Word) : sxFrom 32 (x - y) = ((x.extractLsb' 0 32) - (y.extractLsb' 0 32)).signExtend 64 := by
  have hsub : (x - y).setWidth 32 = x.setWidth 32 - y.setWidth 32 := by
    apply BitVec.eq_of_toNat_eq
    simp only [BitVec.toNat_setWidth, BitVec.toNat_sub]
    omega
  rw [sxFrom, hsub, BitVec.setWidth_eq_extractLsb' (by decide), BitVec.setWidth_eq_extractLsb' (by decide)]

/-- The number whose `n` bytes are given, the first one highest, is below `256 ^ n`, and these are its bytes. -/
theorem bytes_of_fold (f : Nat → Nat) (hf : ∀ i, f i < 256) (n : Nat) :
    (List.range n).foldl (fun acc i => acc * 256 + f i) 0 < 256 ^ n ∧
    ∀ j < n, (List.range n).foldl (fun acc i => acc * 256 + f i) 0 / 256 ^ j % 256 = f (n - 1 - j) := by
  induction n with
  | zero => exact ⟨Nat.one_pos, fun j hj => absurd hj (Nat.not_lt_zero j)⟩
  | succ n ih =>
    obtain ⟨hlt, hbyte⟩ := ih
    have hn := hf n
    rw [List.range_succ, List.foldl_append, List.foldl_cons, List.foldl_nil]
    refine ⟨by rw [Nat.pow_succ]; omega, fun j hj => ?_⟩
    cases j with
    | zero =>
      rw [Nat.pow_zero, Nat.div_one, Nat.add_sub_cancel, Nat.sub_zero]
      omega
    | succ j =>
      rw [Nat.pow_succ', ← Nat.div_div_eq_div_mul, show ∀ m, (m * 256 + f n) / 256 = m by omega, hbyte j (by omega)]
      congr 1
      omega
theorem bswpWord_byte (x : Word) (j : Nat) (hj : j < 8) : (bswpWord x).extractLsb' (8 * j) 8 = x.extractLsb' (8 * (7 - j)) 8 := by
  obtain ⟨hlt, hbyte⟩ := bytes_of_fold (fun i => x.toNat / 256 ^ i % 256) (fun i => Nat.mod_lt _ (by decide)) 8
  apply BitVec.eq_of_toNat_eq
  rw [BitVec.extractLsb'_toNat, BitVec.extractLsb'_toNat, Nat.shiftRight_eq_div_pow, Nat.shiftRight_eq_div_pow, bswpWord, BitVec.toNat_ofNat,
    Nat.mod_eq_of_lt (show _ < 2 ^ 64 from hlt), Nat.pow_mul, Nat.pow_mul]
  exact hbyte j hj

/-! ### Bit fields (R256) -/

theorem bfLen_le (len : BitVec 6) : bfLen len ≤ 64 := by
  have := len.isLt
  rw [bfLen]
  split_ifs <;> omega
theorem bextWord_eq (x : Word) (pos len : BitVec 6) :
    bextWord x pos len = BitVec.ofNat 64 (x.toNat / 2 ^ pos.toNat % 2 ^ bfLen len) := by
  have hx : x.toNat / 2 ^ pos.toNat % 2 ^ bfLen len < 2 ^ 64 :=
    (Nat.mod_le _ _).trans_lt ((Nat.div_le_self _ _).trans_lt x.isLt)
  apply BitVec.eq_of_toNat_eq
  rw [bextWord, BitVec.toNat_and, BitVec.toNat_ofNat, BitVec.toNat_ushiftRight, Nat.shiftRight_eq_div_pow, lowMask_toNat (bfLen_le len),
    Nat.and_two_pow_sub_one_eq_mod, Nat.mod_eq_of_lt hx]
theorem lowMask_shift (l p : Nat) : lowMask l <<< p = BitVec.ofNat 64 ((2 ^ l - 1) * 2 ^ p) := by
  apply BitVec.eq_of_toNat_eq
  rw [lowMask, BitVec.toNat_shiftLeft, BitVec.toNat_ofNat, BitVec.toNat_ofNat, Nat.shiftLeft_eq, Nat.mod_mul_mod]

/-! ### The statement -/

/-- What a result is, is an equation of values. -/
theorem ResultA.of_eq {i : Instr} {s : State} {lat : Nat} {d : Reg} {v w : Word} (hv : v = w) (h : ResultA i s lat d v) :
    ResultA i s lat d w := hv ▸ h

/-- Settles O1: each instruction writes what its function of the operands gives, and the lemmas above say what that is. -/
theorem integerForms : Obligations.IntegerForms := by
  refine ⟨fun s d a b => ?_, fun s d a b => ⟨fun hy => ?_, fun hx hy => ?_⟩, fun s d a i k pos len => ?_⟩
  · intro x y sh
    obtain ⟨clz, hclz, hclzSpec⟩ := clzWord_spec x
    obtain ⟨ctz, hctz, hctzSpec⟩ := ctzWord_spec x
    exact ⟨rfl, rfl, rfl, rfl, rfl, .of_eq (divWord_eq x y) rfl, rfl, .of_eq (remWord_eq x y) rfl, rfl, rfl, rfl, rfl, rfl, rfl, rfl, rfl, rfl,
      .of_eq (rolWord_eq x y) rfl, .of_eq (min_of_slt x y) rfl, .of_eq (max_of_slt x y) rfl, .of_eq (min_of_ult x y) rfl,
      .of_eq (max_of_ult x y) rfl, .of_eq (boolWord_beq x y) rfl, .of_eq (boolWord_bne x y) rfl, .of_eq (boolWord_decide _) rfl,
      .of_eq (boolWord_decide _) rfl, .of_eq (boolWord_decide _) rfl, .of_eq (boolWord_decide _) rfl, .of_eq (ite_not ..).symm rfl,
      ⟨clz, .of_eq hclz rfl, hclzSpec⟩, ⟨ctz, .of_eq hctz rfl, hctzSpec⟩, .of_eq (congrArg _ (popNat_eq 64 x.toNat)) rfl,
      .of_eq (sxFrom_eq x (n := 8) (by decide)) rfl, .of_eq (sxFrom_eq x (n := 16) (by decide)) rfl,
      .of_eq (sxFrom_eq x (n := 32) (by decide)) rfl, .of_eq (zxFrom_eq x (n := 8) (by decide)) rfl,
      .of_eq (zxFrom_eq x (n := 16) (by decide)) rfl, .of_eq (zxFrom_eq x (n := 32) (by decide)) rfl, .of_eq (sxFrom_add x y) rfl,
      .of_eq (sxFrom_sub x y) rfl, .of_eq (sxFrom_mul x y) rfl, bswpWord x, rfl, bswpWord_byte x⟩
  · refine ⟨.of_eq (v := divWord (s.rd a) (s.rd b)) ?_ rfl, .of_eq (v := divnWord (s.rd a) (s.rd b)) ?_ rfl,
      .of_eq (v := remWord (s.rd a) (s.rd b)) ?_ rfl, .of_eq (v := remnWord (s.rd a) (s.rd b)) ?_ rfl⟩
    all_goals
      rw [hy]
      exact if_pos rfl
  · refine ⟨.of_eq (v := divWord (s.rd a) (s.rd b)) ?_ rfl, .of_eq (v := remWord (s.rd a) (s.rd b)) ?_ rfl⟩
    all_goals
      rw [hx, hy]
      decide
  · intro x v l mask
    exact ⟨rfl, rfl, rfl, rfl, rfl, rfl, rfl, .of_eq (boolWord_beq x v) rfl, .of_eq (boolWord_decide _) rfl, .of_eq (boolWord_decide _) rfl,
      rfl, rfl, .of_eq (bextWord_eq x pos len) rfl, .of_eq (congrArg (fun m => (s.rd d &&& ~~~m) ||| ((x <<< pos.toNat) &&& m))
        (lowMask_shift (bfLen len) pos.toNat)) rfl⟩

end Sys2Proof.Machine
end

section
/-!
SUPPORT. The FP32 instructions and the conversions: the rule of NaN operands, and the operations that have no value (14_scalar R257 to R266).
-/
namespace Sys2Proof.Machine

/-! ### The rule that stands before every operation (R258) -/

theorem f32Guard_of_nan {ops : List Val} {r : FRes} (h : ops.any Val.isNan = true) :
    f32Guard ops r = (0x7FC00000, if ops.any Val.isSnan then 1 else 0) := if_pos h
theorem f32Guard_of_noNan {ops : List Val} {r : FRes} (h : ops.any Val.isNan = false) : f32Guard ops r = r :=
  if_neg (by rw [h]; decide)

/-- Two operands, one of them a NaN. -/
theorem f32Guard_pair {x y : Val} {r : FRes} (h : x.isNan = true ∨ y.isNan = true) :
    f32Guard [x, y] r = (0x7FC00000, if x.isSnan || y.isSnan then 1 else 0) := by
  rw [f32Guard_of_nan (by simpa using h)]
  simp

/-- A sign operation of a NaN, read as a choice of its word (R261). -/
theorem fsignRes_eq (a r : Word) : fsignRes a r = (if (f32 a).isNan then 0x7FC00000 else r, 0) := by
  rw [fsignRes]
  split <;> rfl

/-! ### Operations without a value, and division by zero (R258) -/

section
variable {m : Mode} {a b z : Word}

theorem faddRes_of_opposite {t : Bool} (ha : f32 a = .inf t) (hb : f32 b = .inf !t) : faddRes m a b = (0x7FC00000, 1) := by
  rw [faddRes, ha, hb]
  cases t <;> rfl
theorem fsubRes_of_same {t : Bool} (ha : f32 a = .inf t) (hb : f32 b = .inf t) : fsubRes m a b = (0x7FC00000, 1) := by
  rw [fsubRes, ha, hb]
  cases t <;> rfl
theorem fdivRes_of_inf {s t : Bool} (ha : f32 a = .inf s) (hb : f32 b = .inf t) : fdivRes m a b = (0x7FC00000, 1) := by
  rw [fdivRes, ha, hb]
  rfl

/-- A zero has no product with an infinity. -/
theorem Val.mul_zero_inf {x y : Val} (hx : x.isZero = true) (hy : y.isInf = true) : x.mul y = none := by
  cases x with
  | fin s n d =>
    cases y with
    | inf t => exact if_pos (by rw [hx]; rfl)
    | _ => cases hy
  | _ => cases hx
theorem isNan_of_isZero {x : Val} (h : x.isZero = true) : x.isNan = false := by cases x <;> simp_all [Val.isZero, Val.isNan]
theorem isNan_of_isInf {x : Val} (h : x.isInf = true) : x.isNan = false := by cases x <;> simp_all [Val.isInf, Val.isNan]

theorem fmulRes_of_zero_inf (ha : (f32 a).isZero = true) (hb : (f32 b).isInf = true) : fmulRes m a b = (0x7FC00000, 1) := by
  rw [fmulRes, Val.mul_zero_inf ha hb, f32Guard_of_noNan (by simp [isNan_of_isZero ha, isNan_of_isInf hb])]
  rfl
theorem fmaRes_of_zero_inf (ha : (f32 a).isZero = true) (hb : (f32 b).isInf = true) (hz : (f32 z).isNan = false) :
    fmaRes m z a b = (0x7FC00000, 1) ∧ fmsRes m z a b = (0x7FC00000, 1) := by
  rw [fmaRes, fmsRes, Val.mul_zero_inf ha hb, f32Guard_of_noNan (by simp [isNan_of_isZero ha, isNan_of_isInf hb, hz]),
    f32Guard_of_noNan (by simp [isNan_of_isZero ha, isNan_of_isInf hb, hz])]
  exact ⟨rfl, rfl⟩

theorem fdivRes_of_zero_zero (ha : (f32 a).isZero = true) (hb : (f32 b).isZero = true) : fdivRes m a b = (0x7FC00000, 1) := by
  rw [fdivRes, f32Guard_of_noNan (by simp [isNan_of_isZero ha, isNan_of_isZero hb])]
  cases hx : f32 a with
  | fin s n d =>
    cases hy : f32 b with
    | fin t p q =>
      rw [hx] at ha
      rw [hy] at hb
      have hn : n = 0 := by simpa [Val.isZero] using ha
      have hp : p = 0 := by simpa [Val.isZero] using hb
      rw [hn, hp]
      rfl
    | _ => rw [hy] at hb; cases hb
  | _ => rw [hx] at ha; cases ha

theorem f32Round_inf (fl : BitVec 5) (s : Bool) : f32Round m fl (.inf s) = (if s then 0xFF800000 else 0x7F800000, fl) := by
  have hround : FpFmt.fp32.round m (.inf s) = (FpFmt.fp32.signed s FpFmt.fp32.inf, 0) := by simp [FpFmt.round]
  rw [f32Round, hround]
  show (BitVec.ofNat 64 (FpFmt.fp32.signed s FpFmt.fp32.inf), fl ||| 0#5) = _
  rw [BitVec.or_zero]
  cases s <;> rfl
/-- A finite value that is not zero, divided by zero: an infinity of the sign of the quotient, with divide by zero. -/
theorem fdivRes_of_zero (hfin : (f32 a).isFin = true) (ha : (f32 a).isZero = false) (hb : (f32 b).isZero = true) :
    fdivRes m a b = (if (f32 a).neg != (f32 b).neg then 0xFF800000 else 0x7F800000, 2) := by
  cases hx : f32 a with
  | fin s n d =>
    cases hy : f32 b with
    | fin t p q =>
      rw [hx] at ha
      rw [hy] at hb
      have hn : n ≠ 0 := by simpa [Val.isZero] using ha
      have hp : p = 0 := by simpa [Val.isZero] using hb
      rw [fdivRes, hx, hy, f32Guard_of_noNan rfl]
      exact (if_pos hp).trans ((if_neg hn).trans (f32Round_inf fDZ (s != t)))
    | _ => rw [hy] at hb; cases hb
  | _ => rw [hx] at hfin; cases hfin

theorem fsqrtRes_of_neg (hnan : (f32 a).isNan = false) (hneg : (f32 a).neg = true) (hzero : (f32 a).isZero = false) :
    fsqrtRes m a = (0x7FC00000, 1) := by
  rw [fsqrtRes, f32Guard_of_noNan (by simp [hnan])]
  cases hx : f32 a with
  | nan s => rw [hx] at hnan; cases hnan
  | inf s =>
    rw [hx] at hneg
    exact if_pos hneg
  | fin s n d =>
    rw [hx] at hneg hzero
    have hn : n ≠ 0 := by simpa [Val.isZero] using hzero
    exact (if_neg hn).trans (if_pos hneg)
end

/-! ### Conversion to an integer (R265) -/

theorem cvtfiRes_of_nan {f : FpTy} {t : IntTy} {m : Mode} {w : Word} (h : ((fpTyFmt f).decode w.toNat).isNan = true) :
    cvtfiRes f t m w = (0, 1) := by
  rw [cvtfiRes]
  cases hx : (fpTyFmt f).decode w.toNat with
  | nan s => rfl
  | _ => rw [hx] at h; cases h
theorem cvtfiRes_of_inf {f : FpTy} {t : IntTy} {m : Mode} {w : Word} {neg : Bool} (h : (fpTyFmt f).decode w.toNat = .inf neg) :
    cvtfiRes f t m w = (BitVec.ofInt 64 (if neg then intMin t else intMax t), 1) := by
  rw [cvtfiRes, h]
  rfl

/-- What a result and its flags are, is an equation of pairs. -/
theorem ResultF.of_eq {i : Instr} {s : State} {lat : Nat} {d : Reg} {v w : Word × BitVec 5} (hv : v = w) (h : ResultF i s lat d v) :
    ResultF i s lat d w := hv ▸ h

/-- Settles O2: each instruction writes what its function of the operands gives; the sign operations choose a word, not a pair. -/
theorem floatForms : Obligations.FloatForms := by
  refine ⟨fun s d a b r => ?_, fun s d a t f p n r => ?_⟩
  · intro x y z m
    exact ⟨rfl, rfl, rfl, rfl, rfl, rfl, rfl, rfl, rfl, rfl, rfl, rfl, .of_eq (fsignRes_eq ..) rfl, .of_eq (fsignRes_eq ..) rfl,
      .of_eq (fsignRes_eq ..) rfl⟩
  · exact ⟨rfl, rfl, rfl, rfl, rfl, fun m => cvtfiRes_of_nan, fun m => cvtfiRes_of_inf, fun m => cvtfiRes_of_inf⟩

/-- Settles O3: a NaN operand is met by the rule before the operation; the other cases have no value, or divide by zero. -/
theorem floatInvalidCases : Obligations.FloatInvalidCases := by
  intro m a b z
  refine ⟨fun h => ?_, fun h => ?_, faddRes_of_opposite, faddRes_of_opposite, fun t ha hb => ⟨fsubRes_of_same ha hb, fdivRes_of_inf ha hb⟩,
    fun ha hb => ⟨fmulRes_of_zero_inf ha hb, fmaRes_of_zero_inf ha hb⟩, fdivRes_of_zero_zero, fdivRes_of_zero, fsqrtRes_of_neg⟩
  · exact ⟨f32Guard_pair h, f32Guard_pair h, f32Guard_pair h, f32Guard_pair h, f32Guard_pair h, f32Guard_pair h⟩
  · rw [fsqrtRes, f32Guard_of_nan (by simpa using h)]
    simp

end Sys2Proof.Machine
end

section
/-!
SUPPORT. The associative arrays: rows and fields, instructions of one pass and of several, user sequences, and the store of passes
(22_associative_arrays).
-/
namespace Sys2Proof.Machine

/-! ### Bits of a number replaced (R385) -/

/-- A number with bits replaced, by its parts: those above, the new ones, and those below. -/
theorem putBits_eq (w lo n v : Nat) : putBits w lo n v = (w / 2 ^ (lo + n) * 2 ^ n + v % 2 ^ n) * 2 ^ lo + w % 2 ^ lo := by
  have hlow : w = w / 2 ^ lo * 2 ^ lo + w % 2 ^ lo := (Nat.div_add_mod' w (2 ^ lo)).symm
  have hmid : w / 2 ^ lo = w / 2 ^ (lo + n) * 2 ^ n + w / 2 ^ lo % 2 ^ n := by
    rw [Nat.pow_add, ← Nat.div_div_eq_div_mul]
    exact (Nat.div_add_mod' (w / 2 ^ lo) (2 ^ n)).symm
  have hparts : w = w / 2 ^ (lo + n) * 2 ^ n * 2 ^ lo + w / 2 ^ lo % 2 ^ n * 2 ^ lo + w % 2 ^ lo := by
    rw [← Nat.add_mul, ← hmid, ← hlow]
  rw [putBits, Nat.add_mul]
  omega

section
variable (w lo n v : Nat)

theorem putBits_mod : putBits w lo n v % 2 ^ lo = w % 2 ^ lo := by
  rw [putBits_eq, Nat.mul_add_mod_self_right, Nat.mod_mod]
theorem putBits_div_lo : putBits w lo n v / 2 ^ lo = w / 2 ^ (lo + n) * 2 ^ n + v % 2 ^ n := by
  rw [putBits_eq, Nat.add_comm, Nat.add_mul_div_right _ _ (Nat.two_pow_pos lo), Nat.div_eq_of_lt (Nat.mod_lt _ (Nat.two_pow_pos lo)),
    Nat.zero_add]
theorem putBits_mid : putBits w lo n v / 2 ^ lo % 2 ^ n = v % 2 ^ n := by
  rw [putBits_div_lo, Nat.mul_add_mod_self_right, Nat.mod_mod]
theorem putBits_div_hi : putBits w lo n v / 2 ^ (lo + n) = w / 2 ^ (lo + n) := by
  rw [Nat.pow_add, ← Nat.div_div_eq_div_mul, putBits_div_lo, ← Nat.pow_add, Nat.add_comm, Nat.add_mul_div_right _ _ (Nat.two_pow_pos n),
    Nat.div_eq_of_lt (Nat.mod_lt _ (Nat.two_pow_pos n)), Nat.zero_add]
theorem putBits_lt {b : Nat} (hw : w < 2 ^ b) (hb : lo + n ≤ b) : putBits w lo n v < 2 ^ b := by
  obtain ⟨k, rfl⟩ := Nat.exists_eq_add_of_le hb
  rw [Nat.pow_add 2 (lo + n) k, Nat.mul_comm] at hw ⊢
  rw [← Nat.div_lt_iff_lt_mul (Nat.two_pow_pos _)] at hw ⊢
  rw [putBits_div_hi]
  exact hw
/-- Bits that lie outside those replaced stay. -/
theorem putBits_other {p q : Nat} (h : p + q ≤ lo ∨ lo + n ≤ p) : putBits w lo n v / 2 ^ p % 2 ^ q = w / 2 ^ p % 2 ^ q := by
  rcases h with h | h
  · obtain ⟨k, rfl⟩ := Nat.exists_eq_add_of_le h
    have hpart (x : Nat) : x / 2 ^ p % 2 ^ q = x % 2 ^ (p + q + k) / 2 ^ p % 2 ^ q := by
      rw [Nat.add_assoc, Nat.pow_add 2 p, Nat.mod_mul_right_div_self, Nat.pow_add, Nat.mod_mul_right_mod]
    rw [hpart, putBits_mod, ← hpart]
  · obtain ⟨k, rfl⟩ := Nat.exists_eq_add_of_le h
    rw [Nat.pow_add 2 (lo + n) k, ← Nat.div_div_eq_div_mul, ← Nat.div_div_eq_div_mul, putBits_div_hi]
end

/-! ### Rows, fields and tags (R385) -/

section
variable (r : Row) {o w : Nat} (v : Nat)

theorem Row.put_bits (h : o + w ≤ 512) : (r.put o w v).bits.toNat = putBits r.bits.toNat o w v := by
  rw [Row.put, BitVec.toNat_ofNat, Nat.mod_eq_of_lt (putBits_lt _ _ _ _ r.bits.isLt h)]
theorem Row.get_put_same (h : o + w ≤ 512) : (r.put o w v).get o w = v % 2 ^ w := by
  rw [Row.get, Row.put_bits r v h, putBits_mid]
theorem Row.get_put_other {p q : Nat} (h : o + w ≤ 512) (hpq : p + q ≤ o ∨ o + w ≤ p) : (r.put o w v).get p q = r.get p q := by
  rw [Row.get, Row.put_bits r v h, putBits_other _ _ _ _ hpq, Row.get]

theorem Row.setTag_tags (t : Tag) (b : Bool) : (r.setTag t b).tags.toNat = putBits r.tags.toNat t.val 1 (bitN b) :=
  Nat.mod_eq_of_lt (putBits_lt _ _ _ _ r.tags.isLt (by omega))
theorem Row.tag_eq (t : Tag) : r.tag t = decide (r.tags.toNat / 2 ^ t.val % 2 ^ 1 = 1) := Nat.testBit_eq_decide_div_mod_eq
theorem Row.tag_setTag_same (t : Tag) (b : Bool) : (r.setTag t b).tag t = b := by
  rw [Row.tag_eq, Row.setTag_tags, putBits_mid]
  cases b <;> rfl
theorem Row.tag_setTag_other {t u : Tag} (b : Bool) (h : u ≠ t) : (r.setTag t b).tag u = r.tag u := by
  have hval : u.val ≠ t.val := fun e => h (Fin.ext e)
  rw [Row.tag_eq, Row.setTag_tags, putBits_other _ _ _ _ (by omega), Row.tag_eq]
end

/-- The entry of a key in a list that leaves out the default. -/
def Sparse.listed {α : Type} [DecidableEq α] (z : α) (f : Nat → α) (k : Nat) : Option (Nat × α) := if f k = z then none else some (k, f k)
/-- What is listed of a stretch of keys reads back, and elsewhere the default. -/
theorem Sparse.get_listed {α : Type} [DecidableEq α] (z : α) (f : Nat → α) (l : Nat) :
    ∀ a n, Sparse.get (fun _ => z) ((List.range' a l).filterMap (Sparse.listed z f)) n = if a ≤ n ∧ n < a + l then f n else z := by
  induction l with
  | zero => intro a n; simp [Sparse.get]
  | succ l ih =>
    intro a n
    rw [List.range'_succ]
    by_cases hz : f a = z
    · have hnone : Sparse.listed z f a = none := if_pos hz
      rw [List.filterMap_cons_none hnone, ih]
      by_cases hn : n = a
      · rw [hn, hz, ite_self, ite_self]
      · exact if_congr (by omega) rfl rfl
    · have hsome : Sparse.listed z f a = some (a, f a) := if_neg hz
      rw [List.filterMap_cons_some hsome, Sparse.get, ih]
      by_cases hn : a = n
      · rw [if_pos hn, if_pos (by omega), hn]
      · rw [if_neg hn]
        by_cases hlt : n < a
        · rw [if_pos hlt, if_neg (by omega)]
        · rw [if_neg hlt]
          exact if_congr (by omega) rfl rfl

theorem Core.row_mapRows (k : Core) (f : Nat → Row → Row) {n : Nat} (h : n < 4096) : (k.mapRows f).row n = f n (k.row n) := by
  rw [Core.row, Core.mapRows, List.range_eq_range']
  exact (Sparse.get_listed Row.reset (fun n => f n (k.row n)) 4096 0 n).trans (if_pos ⟨Nat.zero_le _, by omega⟩)

/-- Settles O44: a field keeps its own bits, as a tag does, and a pass lists what it makes of each row. -/
theorem rowsAndFields : Obligations.RowsAndFields := fun k f r _ _ _ v _ _ t _ b =>
  ⟨k.row_mapRows f, fun h => ⟨r.get_put_same v h, rfl, fun hpq _ => r.get_put_other v h hpq⟩, r.tag_setTag_same t b,
    r.tag_setTag_other b, rfl⟩

/-! ### An instruction of one pass (R386, R387, R404) -/

section
variable {s : State} {i : Instr} {bad : Core → Option Nat} {f : State → State} (hi : exec i s = s.onePass bad f)
include hi

/-- What keeps an instruction of one pass from it, in the order in which it is looked at. -/
theorem exec_onePass_kept :
    (s.mine.nested = true → Traps i s 0x0D 0 0) ∧
    (s.mine.nested = false → s.mayPass = false → exec i s = .next s) ∧
    (∀ row, s.mine.nested = false → s.mayPass = true → bad s.mine = some row →
      exec i s = .next ((s.countUncorr 6).trapHere 0x0E (BitVec.ofNat 48 row) 0)) := by
  refine ⟨fun hn => hi.trans ?_, fun hn hp => hi.trans ?_, fun row hn hp hb => hi.trans ?_⟩
  · rw [State.onePass, if_pos hn]
  · rw [State.onePass, hn, hp]
    rfl
  · rw [State.onePass, hn, hp, hb]
    rfl

/-- With the array free and its parity good the pass is made. -/
theorem exec_onePass_ready (h : s.ArrayReady) (hbad : bad s.mine = none) : exec i s = .next (f s).issueArray := by
  obtain ⟨hn, hp, -⟩ := h
  rw [hi, State.onePass, hn, hp, hbad]
  rfl
end

/-! The check and the effect of each (R388 to R392, R394, R395). -/

section
variable (s : State) (d a b : Reg) (t u v : Tag) (m : Option Tag) (f : Field)

theorem exec_acmp (op : TagOp) (key : KeySrc) : exec (.acmp t m op key f) s =
    s.onePass (·.badRow m [(f.off.toNat, fieldW f)]) fun s' => s'.modMine fun k => k.mapRows fun _ r =>
      r.setTag t (tagOp op (r.tag t) (r.sel m && r.get f.off.toNat (fieldW f) == s.acmpKey key % 2 ^ fieldW f)) := rfl
theorem exec_awrt (k : BitVec 17) : exec (.awrt m f k) s =
    s.onePass (·.badRow m [(f.off.toNat, fieldW f)]) fun s => s.modMine fun c => c.mapRows fun _ r =>
      if r.sel m then r.put f.off.toNat (fieldW f) k.toNat else r := rfl
theorem exec_ascw : exec (.ascw m a f) s =
    s.onePass (·.badRow m [(f.off.toNat, fieldW f)]) fun s' => s'.modMine fun c => c.mapRows fun _ r =>
      if r.sel m then r.put f.off.toNat (fieldW f) (s.rd a).toNat else r := rfl
theorem exec_abnd : exec (.abnd t a b) s =
    s.onePass (·.badRow none []) fun s' => s'.modMine fun c => c.mapRows fun n r =>
      r.setTag t (decide ((n : Int) < (s.rd a - s.rd b).toInt)) := rfl
theorem exec_atag (fn : BitVec 4) : exec (.atag t u v fn) s =
    s.onePass (·.badRow none []) fun s => s.modMine fun c => c.mapRows fun _ r => r.setTag t (tagFn fn (r.tag u) (r.tag v)) := rfl
theorem exec_ard (sg : Bool) : exec (.ard d a sg f) s =
    s.onePass (·.badOne (rowIx (s.rd a)) [(f.off.toNat, fieldW f)]) fun s' =>
      s'.wrC 1 d (fieldWord sg (fieldW f) ((s'.mine.row (rowIx (s.rd a))).get f.off.toNat (fieldW f))) := rfl
theorem exec_awr : exec (.awr a b f) s =
    s.onePass (·.badOne (rowIx (s.rd a)) [(f.off.toNat, fieldW f)]) fun s' => s'.modMine fun c =>
      c.setRow (rowIx (s.rd a)) ((c.row (rowIx (s.rd a))).put f.off.toNat (fieldW f) (s.rd b).toNat) := rfl
theorem exec_arws : exec (.arws d) s = s.onePass (·.badRow none []) fun s => s.wrC 1 d (BitVec.ofNat 64 arrayRows) := rfl

/-- AFST writes the first row with the tag and may clear it there, or writes that there is none (R392). -/
theorem exec_afst (clr : Bool) : ∃ g, exec (.afst d t clr) s = s.onePass (·.badRow none []) g ∧
    (s.mine.firstTag t = none → g s = s.wrC 1 d (BitVec.allOnes 64)) ∧
    ∀ i, s.mine.firstTag t = some i → g s =
      (if clr then s.modMine fun k => k.setRow i ((k.row i).setTag t false) else s).wrC 1 d (BitVec.ofNat 64 i) := by
  have hexec : exec (.afst d t clr) s = execAfst d t clr s := rfl
  refine ⟨_, hexec.trans (by rw [execAfst]), fun h => ?_, fun i h => ?_⟩
  · simp only [h]
  · simp only [h]
end

section
variable {k : Core} (m : Option Tag) (l : List (Nat × Nat)) (n : Nat)

theorem Core.badRow_of_sound (h : k.badPar = []) : k.badRow m l = none := by rw [Core.badRow, h]; rfl
theorem Core.badOne_of_sound (h : k.badPar = []) : k.badOne n l = none := by rw [Core.badOne, h]; rfl

/-- A pass looks at an entry of bad parity: a tag byte, or a segment that holds a bit of a field of a row that its mask selects. -/
def Core.looksAt (k : Core) (m : Option Tag) (l : List (Nat × Nat)) (z : Nat) : Prop :=
  z % 9 = 8 ∨ (∃ f ∈ l, f.1 < 64 * (z % 9 + 1) ∧ 64 * (z % 9) < f.1 + f.2) ∧ (k.row (z / 9)).sel m = true

theorem Core.looksAt_iff (z : Nat) :
    (z % 9 == 8 || (segsOf l).contains (z % 9) && (k.row (z / 9)).sel m) = true ↔ k.looksAt m l z := by
  have hz : z % 9 < 9 := Nat.mod_lt _ (by decide)
  by_cases h8 : z % 9 = 8
  · simp [Core.looksAt, h8]
  · have hseg : z % 9 < 8 := by omega
    simp [Core.looksAt, segsOf, h8, hseg]

theorem Core.mem_badRow_list (n : Nat) :
    n ∈ (k.badPar.filter fun x => x % 9 == 8 || (segsOf l).contains (x % 9) && (k.row (x / 9)).sel m).map (fun x => x / 9) ↔
      ∃ z ∈ k.badPar, k.looksAt m l z ∧ z / 9 = n := by
  simp only [List.mem_map, List.mem_filter, Core.looksAt_iff, and_assoc]

theorem Core.badRow_eq_none_iff : k.badRow m l = none ↔ ∀ z ∈ k.badPar, ¬ k.looksAt m l z := by
  rw [Core.badRow, List.min?_eq_none_iff, List.map_eq_nil_iff, List.filter_eq_nil_iff]
  simp only [Core.looksAt_iff]
theorem Core.badRow_eq_some {n : Nat} (h : k.badRow m l = some n) :
    (∃ z ∈ k.badPar, k.looksAt m l z ∧ z / 9 = n) ∧ ∀ z ∈ k.badPar, k.looksAt m l z → n ≤ z / 9 := by
  rw [Core.badRow, List.min?_eq_some_iff] at h
  obtain ⟨hmem, hle⟩ := h
  exact ⟨(Core.mem_badRow_list m l n).1 hmem, fun z hz hlook => hle _ ((Core.mem_badRow_list m l _).2 ⟨z, hz, hlook, rfl⟩)⟩
end

/-! ### An instruction of several passes (R386, R402, R412, R421) -/

section
variable {s : State} {i : Instr} {p : Nat} {c : Option Nat} {bad : Core → Option Nat} {last wait : State → State}
  {code : Option Nat} {n st : Nat} {v : Word} (hi : exec i s = s.passes p c bad last wait)
include hi

/-- One that is running, behind its last pass. -/
theorem exec_passes_over (hop : s.me.op = .array n code (some st) true v) (hbad : bad s.mine = none) : exec i s = .next (last s).issueArray := by
  rw [hi, State.passes, hop, hbad]
  rfl
/-- One that is running, with passes left. -/
theorem exec_passes_left (hop : s.me.op = .array n code (some st) false v) (hbad : bad s.mine = none) : exec i s = .next s := by
  rw [hi, State.passes, hop, hbad]
  rfl
theorem exec_passes_idle (hop : s.me.op = .idle) : exec i s = .next (s.firstPass p c bad last wait) := by
  rw [hi, State.passes, hop]
theorem exec_passes_nested (hop : s.me.op = .idle) (hn : s.mine.nested = true) : Traps i s 0x0D 0 0 := by
  rw [Traps, exec_passes_idle hi hop, State.firstPass, if_pos hn]
end

section
variable (s : State) (d a : Reg) (t : Tag) (m : Option Tag) (f : Field)

theorem exec_acnt : exec (.acnt d t) s =
    s.passes 3 none (·.badRow none []) (fun s => s.wrC 1 d (BitVec.ofNat 64 (s.mine.countTag t))) State.hold := rfl
theorem exec_arsum (sg : Bool) : exec (.arsum d m sg f) s =
    s.passes (2 * fieldW f + 1) none (·.badRow m [(f.off.toNat, fieldW f)])
      (fun s => s.wrC 1 d (BitVec.ofInt 64 (s.mine.sumRows m sg f.off.toNat (f.wm1.toNat + 1)))) State.hold := rfl
theorem exec_aseq (c : SeqCode) (x y : BitVec 4) (p q r : BitVec 9) : exec (.aseq c m t a x y p q r) s =
    s.passes (seqPasses c (x.toNat + 1) (y.toNat + 1) (s.rd a)) (some (seqCode c))
      (·.badRow m (seqFields c (x.toNat + 1) (y.toNat + 1) p.toNat q.toNat r.toNat))
      (fun s' => s'.modMine fun k => k.seqRows c m t (x.toNat + 1) (y.toNat + 1) (s.rd a) p.toNat q.toNat r.toNat) State.hold := rfl
theorem exec_arwd : exec (.arwd a) s =
    s.passes 2000 (some 0x42) learnBad (fun s' => s'.modMine fun k => k.rewardRows ((s.rd a).setWidth 16) []) State.holdOp := rfl
end

section
variable {s : State} {a : Reg} {b : BitVec 8} {p q r : BitVec 9} {code : Option Nat} {n st : Nat} {v : Word}

theorem exec_atrc_nested (hop : s.me.op = .idle) (hn : s.mine.nested = true) : Traps (.atrc a) s 0x0D 0 0 := by
  show execAtrc a s = _
  rw [execAtrc, hop]
  exact congrArg _ (if_pos hn)
theorem exec_atrc_over (hop : s.me.op = .array n code (some st) true v) : exec (.atrc a) s = .next s.issueArray := by
  show execAtrc a s = _
  rw [execAtrc, hop]
  rfl
theorem exec_atrc_left (hop : s.me.op = .array n code (some st) false v) (hbad : learnBad s.mine = none) : exec (.atrc a) s = .next s := by
  show execAtrc a s = _
  rw [execAtrc, hop, hbad]
  rfl

theorem exec_ausq_nested (hop : s.me.op = .idle) (hn : s.mine.nested = true) : Traps (.ausq b p q r) s 0x0D 0 0 := by
  show execAusq b p q r s = _
  rw [execAusq, hop]
  exact congrArg _ (if_pos hn)
/-- A user sequence that is running makes the pass of this tick. -/
theorem exec_ausq_pass {e : Bool} (hop : s.me.op = .array n code (some st) e v) : exec (.ausq b p q r) s =
    .next (s.userPass b.toNat p.toNat q.toNat r.toNat (n + (s.tick - st)) (.array n code (some st) e v)) := by
  show execAusq b p q r s = _
  rw [execAusq, hop]
/-- A pass that ends its sequence issues the bundle. -/
theorem State.userPass_ends {start d x y i : Nat} {op : Op} (hbad : s.mine.badPar = [])
    (hends : passEnds (s.mine.seqWord (start + i)) (start + i) = true) :
    s.userPass start d x y i op =
      (s.modMine fun k => k.mapRows fun _ z => passRow (s.mine.seqWord (start + i)) d x y z).issueArray := by
  rw [State.userPass, Core.badRow_of_sound _ _ hbad]
  exact if_pos hends

theorem exec_asql_nested (hn : s.mine.nested = true) : Traps (.asql a) s 0x0D 0 0 := congrArg _ (if_pos hn)
end

/-- Settles O43: every one of these instructions is `onePass` of its own check and effect, and of each the check finds nothing where
every parity is good. -/
theorem onePassInstructions : Obligations.OnePassInstructions := by
  refine ⟨fun s d a b t u v m op f k fn sg clr h => ?_, fun s d a b t u v m op f k fn sg clr c x y p q r n => ?_, fun k m l n =>
    ⟨Core.badRow_eq_none_iff m l, Core.badRow_eq_some m l⟩⟩
  · intro o w n set
    have rows (m : Option Tag) (l : List (Nat × Nat)) : s.mine.badRow m l = none := Core.badRow_of_sound m l h.parity
    have row (l : List (Nat × Nat)) : s.mine.badOne n l = none := Core.badOne_of_sound l n h.parity
    obtain ⟨g, hafst, hnone, hsome⟩ := exec_afst s d t clr
    refine ⟨exec_onePass_ready (exec_acmp ..) h (rows ..), exec_onePass_ready (exec_acmp ..) h (rows ..),
      exec_onePass_ready (exec_awrt ..) h (rows ..), exec_onePass_ready (exec_ascw ..) h (rows ..),
      exec_onePass_ready (exec_abnd ..) h (rows ..), exec_onePass_ready (exec_atag ..) h (rows ..),
      exec_onePass_ready (exec_ard ..) h (row _), exec_onePass_ready (exec_awr ..) h (row _), exec_onePass_ready (exec_arws ..) h (rows ..),
      fun hfirst => ?_, fun i hfirst => ?_⟩
    · rw [exec_onePass_ready hafst h (rows ..), hnone hfirst]
      rfl
    · rw [exec_onePass_ready hafst h (rows ..), hsome i hfirst]
  · intro l one rows tags row
    obtain ⟨g, hafst, -⟩ := exec_afst s d t clr
    exact ⟨exec_onePass_kept (exec_acmp ..), exec_onePass_kept (exec_acmp ..), exec_onePass_kept (exec_awrt ..),
      exec_onePass_kept (exec_ascw ..), exec_onePass_kept (exec_abnd ..), exec_onePass_kept (exec_atag ..), exec_onePass_kept hafst,
      exec_onePass_kept (exec_arws ..), exec_onePass_kept (exec_ard ..), exec_onePass_kept (exec_awr ..), fun hn hop =>
      ⟨exec_passes_nested (exec_acnt ..) hop hn, exec_passes_nested (exec_arsum ..) hop hn, exec_passes_nested (exec_aseq ..) hop hn,
        exec_ausq_nested hop hn, exec_asql_nested hn, exec_passes_nested (exec_arwd ..) hop hn, exec_atrc_nested hop hn⟩⟩


/-! ### Words of the pass store (R399) -/

/-- ASQL begins to read its words: they are in one page, and none of them traps. -/
theorem State.readWords_begin {s : State} {va : Word} {n pa : Nat} {e : TlbEntry} {k : State → List Word → Bool × State} (hop : s.me.op = .idle)
    (hgo : s.resolve (reqLoad va 8) = .go e pa) (hroute : (s.touch s.here e).unreachable pa = false)
    (hpage : 8 * n ≤ e.bytes - va.toNat % e.bytes) (htrap : (s.touch s.here e).wordsTrap va.toNat pa n = none) :
    s.readWords va n k = ((((s.touch s.here e).modMe fun b => { b with op := .gather (s.touch s.here e).nextId n }).loadWords e va pa n)).holdOp := by
  have hn : min n ((e.bytes - va.toNat % e.bytes) / 8) = n := by omega
  simp only [State.readWords, hop, State.withPage, hgo, hn, hroute, htrap]
  rfl
/-- The words have come, and what follows is over with them. -/
theorem State.readWords_collected {s : State} {va : Word} {n first m : Nat} {l : List Word} {k : State → List Word → Bool × State} {t : State}
    (hop : s.me.op = .gather first m) (hall : collected (s.grouped first m) = some (.ok l)) (hk : k s l = (true, t)) :
    s.readWords va n k = t.dropRead first m := by
  simp only [State.readWords, hop, hall, hk, if_true]
theorem State.readWords_waits {s : State} {va : Word} {n first m : Nat} {k : State → List Word → Bool × State}
    (hop : s.me.op = .gather first m) (hall : collected (s.grouped first m) = none) : s.readWords va n k = s.holdOp := by
  simp only [State.readWords, hop, hall]

/-- ASQL reads its words, and with every tag byte sound they become the store (R399). -/
theorem exec_asql {s : State} {a : Reg} (hn : s.mine.nested = false) (hready : s.me.op ≠ .idle ∨ s.mayPass = true) :
    ∃ k, exec (.asql a) s = .next (s.readWords (s.rd a) 256 k) ∧ ∀ l, s.mine.badRow none [] = none →
      k s l = (true, (s.modMine fun c => { c with seq := seqStore l, asql := some (s.rd a) }).issueArray) := by
  have hexec : exec (.asql a) s = execAsql a s := rfl
  have hgo : ¬(s.me.op = .idle ∧ s.mayPass = false) := by
    rintro ⟨hop, hp⟩
    exact hready.elim (fun h => h hop) fun h => by simp [hp] at h
  refine ⟨_, hexec.trans (by rw [execAsql, hn, if_neg (by decide), if_neg hgo]), fun l hbad => ?_⟩
  simp only [hbad]

/-- The array of the issuing core is looked at as it is, whatever its firing's bank holds. -/
theorem State.badRow_modMe (s : State) (g : Bank → Bank) (m : Option Tag) (l : List (Nat × Nat)) :
    (s.modMe g).mine.badRow m l = s.mine.badRow m l := by
  rw [State.mine_modMe]
  cases hcur : s.mine.cur <;> rfl

/-- Settles O45: a running instruction is over at its last pass and else goes on; ACNT begins by its three passes; ASQL by its loads. -/
theorem sequencesAndPasses : Obligations.SequencesAndPasses := by
  constructor
  · intro s d a t m sg f c x y p q r n code st v b w1 w2 done
    refine ⟨fun ⟨hop, hpar⟩ => ?_, fun hop hpar => ?_, fun hop h => ?_, fun e hop hpar => ?_⟩
    · have hbad (m : Option Tag) (l : List (Nat × Nat)) : s.mine.badRow m l = none := Core.badRow_of_sound m l hpar
      have hacnt := exec_passes_over (exec_acnt s d t) hop (hbad ..)
      have harsum := exec_passes_over (exec_arsum s d m f sg) hop (hbad ..)
      have haseq := exec_passes_over (exec_aseq s a t m c x y p q r) hop (hbad ..)
      have harwd := exec_passes_over (exec_arwd s a) hop (hbad ..)
      exact ⟨hacnt, harsum, haseq, harwd, exec_atrc_over hop⟩
    · have hbad (m : Option Tag) (l : List (Nat × Nat)) : s.mine.badRow m l = none := Core.badRow_of_sound m l hpar
      exact ⟨exec_passes_left (exec_acnt ..) hop (hbad ..), exec_passes_left (exec_arsum ..) hop (hbad ..),
        exec_passes_left (exec_aseq ..) hop (hbad ..), exec_passes_left (exec_arwd ..) hop (hbad ..), exec_atrc_left hop (hbad ..)⟩
    · obtain ⟨hn, hp, hpar⟩ := h
      have hbad := (State.badRow_modMe s (fun k => { k with pass := 0 }) none []).trans (Core.badRow_of_sound none [] hpar)
      have hbegin : s.mayBegin none = true := hp
      rw [exec_passes_idle (exec_acnt s d t) hop, State.firstPass, if_neg (by rw [hn]; decide), if_neg (by rw [hbegin]; decide),
        State.beginPasses, hbad, State.mine_modMe, Core.cur_modBank]
      rfl
    · intro i word hends
      rw [exec_ausq_pass hop, State.userPass_ends hpar hends]
  · intro s a e pa first n l s1 hn
    refine ⟨fun hop hp ⟨hgo, hroute⟩ hroute1 hpage htrap => ?_, fun hop hall => ?_, fun hop hall hbad => ?_⟩
    · obtain ⟨k, hexec, -⟩ := exec_asql (a := a) hn (.inr hp)
      rw [Holds, hexec, State.readWords_begin hop hgo hroute1 hpage htrap]
    · obtain ⟨k, hexec, -⟩ := exec_asql (a := a) hn (.inl (by rw [hop]; exact Op.noConfusion))
      rw [Holds, hexec, State.readWords_waits hop hall]
    · obtain ⟨k, hexec, hk⟩ := exec_asql (a := a) hn (.inl (by rw [hop]; exact Op.noConfusion))
      rw [hexec, State.readWords_collected hop hall (hk l hbad)]

end Sys2Proof.Machine
end

section
/-!
SUPPORT. Learning: the layout of the fields, traces, reward broadcasts, and the rewards that an array applies (23_learning).
-/
namespace Sys2Proof.Machine

/-! ### %astep and traces (R405, R412, R413, R417) -/

/-- A reward as %astep reaches a stamp (R417). -/
def Reward.reached (v : Word) (x : Reward) : Reward :=
  if x.due = false ∧ x.s.toNat ≤ v.toNat then { x with due := true, late := decide (x.s.toNat < v.toNat) } else x

theorem State.core_setStep (s : State) (c : Nat) (v : Word) :
    (s.setStep c v).core c = { s.core c with astep := v, rewards := (s.core c).rewards.map (Reward.reached v) } := by
  have hreached : Reward.reached v = fun x =>
      if !x.due && decide (x.s.toNat ≤ v.toNat) then { x with due := true, late := decide (x.s.toNat < v.toNat) } else x := by
    funext x
    simp only [Reward.reached, Bool.and_eq_true, Bool.not_eq_true', decide_eq_true_eq]
  rw [State.setStep, State.pokeApply, State.core_enqueueLast, State.core_modCore_same, hreached]

section
variable {s : State} {a : Reg} (hop : s.me.op = .idle) (hpass : s.me.pass = 0) (hn : s.mine.nested = false)
include hop hpass hn

/-- An ATRC that has not begun: the check of its stamp, then the horizon (R413). -/
theorem exec_atrc_begin : exec (.atrc a) s = .next
    (if (s.rd a).toNat ≠ s.mine.astep.toNat + 1 then s.trapHere 0x0F 0 0
     else if s.mine.ahz.toNat + s.mine.rlag.toNat < (s.rd a).toNat then s.holdOp
     else if s.mayPass then (s.modMe fun b => { b with pass := 0 }).beginTrace 0 (s.rd a)
     else s.holdOp) := by
  have hpassNot : s.me.hasPass 0x41 = false := by rw [Bank.hasPass, hpass]; rfl
  show execAtrc a s = _
  rw [execAtrc, hop]
  simp only [hn, hpassNot]
  rfl
end

theorem Core.row_congr {k k' : Core} {n : Nat} (h : k.rows = k'.rows) : k.row n = k'.row n := by rw [Core.row, Core.row, h]
/-- The row of an array behind its traces (R412). -/
theorem State.row_endTrace (s : State) (c : Nat) (st : Word) {n : Nat} (h : n < 4096) :
    ((s.endTrace c st).core c).row n =
      if ((s.core c).row n).tag (s.core c).plasTag
      then (((s.core c).row n).put ((s.core c).woff + 16) 32 0).put (s.core c).eoff 12 ((s.core c).nextTrace ((s.core c).row n))
      else (s.core c).row n := by
  have hrows : ((s.endTrace c st).core c).rows = (s.core c).traces.rows := by
    rw [State.endTrace, State.core_setStep, State.core_modCore_same]
  rw [Core.row_congr hrows, Core.traces, Core.row_mapRows _ _ h]

section
variable {s : State} {d st : Nat} {code : Option Nat} {v : Word}
  (hop : (s.bank s.here s.evPrio).op = .array d code (some s.evNum) false v)
include hop

theorem exec_arrayLastPass : exec .arrayLastPass s = .next
    (if code ≠ some 0x41 then s.modBank s.here s.evPrio fun b => { b with op := .array d code (some s.evNum) true v }
     else if ((s.core s.here).badRow none (s.core s.here).learnFields).isNone then
       (s.modBank s.here s.evPrio fun b => { b with op := .array d code (some s.evNum) true v }).endTrace s.here v
     else s) := by
  show execArrayLastPass s = _
  rw [execArrayLastPass, hop]
  exact congrArg _ (if_pos rfl)
end

/-! ### Broadcasts (R414 to R417) -/

section
variable {s : State} {i : Instr} {r : Option (BitVec 16)} {v : Word} {sc : Scope} (hi : exec i s = s.bcastIns r v sc)
include hi

theorem exec_bcastIns_service (hsvc : isSvc s.here = true) : Issues i s s := hi.trans (congrArg _ (if_pos hsvc))
theorem exec_bcastIns_leaves (hsvc : isSvc s.here = false) (hfree : s.mine.bcast = none) : Issues i s (s.broadcast r v sc) := by
  rw [Issues, hi, State.bcastIns, hsvc, hfree]
  rfl
theorem exec_bcastIns_waits (hsvc : isSvc s.here = false) {x : Bcast} (hout : s.mine.bcast = some x) : Holds i s s := by
  rw [Holds, hi, State.bcastIns, hsvc, hout]
  rfl
end

theorem exec_rewardBroadcastArrive {s : State} {x : Bcast} (h : (s.core s.here).bcast = some x) : exec .rewardBroadcastArrive s = .next
    (let got := s.takeBcast ((s.core s.here).lid?.getD 0) s.evNum x.r x.s
     if got.1 = .accept then got.2.bcastAnswer s.here s.evNum .accept
     else got.2.enqueue (s.tick + bcastWay x.sc) s.here .low (bcastNum + s.evNum) (.messageAnswerArrive s.here .low got.1)) := by
  show execRewardBroadcastArrive s = _
  rw [execRewardBroadcastArrive, h]
theorem exec_broadcastRetry {s : State} {x : Bcast} (h : (s.core s.here).bcast = some x) : exec .broadcastRetry s = .next
    (if x.left.contains s.evNum && !(s.core s.here).halt then s.sendBcast s.here s.evNum x.sc else s) := by
  show execBroadcastRetry s = _
  rw [execBroadcastRetry, h]

section
variable {s : State} {c : Nat} {lid : W32} {r : BitVec 16} {v : Word} (hf : s.coreFenced c = false)
include hf

theorem State.takeBcast_preempted (hp : s.preempted lid = true) : s.takeBcast lid c (some r) v = (.refuse, s) := by
  rw [State.takeBcast, if_neg (by rw [hf]; decide), if_pos hp]
theorem State.takeBcast_full (hp : s.preempted lid = false) (hlid : (s.core c).lid? = some lid) (h4 : 4 ≤ (s.core c).pendRewards) :
    s.takeBcast lid c (some r) v = (.refuse, s) := by
  rw [State.takeBcast, if_neg (by rw [hf]; decide), if_neg (by rw [hp]; decide), if_neg (not_not_intro hlid)]
  exact if_pos h4
/-- A reward that finds room is held, and the horizon rises to its stamp. -/
theorem State.takeBcast_taken (hp : s.preempted lid = false) (hlid : (s.core c).lid? = some lid) (h4 : (s.core c).pendRewards < 4) :
    (s.takeBcast lid c (some r) v).1 = .accept ∧ (s.takeBcast lid c (some r) v).2.core c =
      { s.core c with ahz := maxStamp (s.core c).ahz v, rewards := (s.core c).rewards ++
          [{ r := r, s := v, late := decide (v.toNat < (s.core c).astep.toNat), due := decide (v.toNat ≤ (s.core c).astep.toNat) }] } := by
  rw [State.takeBcast, if_neg (by rw [hf]; decide), if_neg (by rw [hp]; decide), if_neg (not_not_intro hlid)]
  simp only [if_neg (Nat.not_le_of_lt h4), true_and]
  split_ifs
  · rw [State.pokeApply, State.core_enqueueLast, State.core_modCore_same]
  · rw [State.core_modCore_same]
end

/-- Settles O46: each clause is one arm of the instruction or event it speaks of; what the arm does to the core is read off by the laws
of `setStep`, `mapRows` and `takeBcast`. -/
theorem tracesAndBroadcasts : Obligations.TracesAndBroadcasts := by
  constructor
  · intro s c v st a n d
    refine ⟨rfl, ⟨s.setStep c v, rfl, ?_⟩, fun hop hpass hn hne => ?_, fun hop hpass hn heq hhz => ?_, fun hop hpar => ?_,
      fun code hcode hop => ?_, s.row_endTrace c st⟩
    · rw [State.core_setStep]
      exact ⟨rfl, rfl, rfl, rfl⟩
    · rw [Traps, exec_atrc_begin hop hpass hn, if_pos hne]
    · rw [Holds, exec_atrc_begin hop hpass hn, if_neg (not_not_intro heq), if_pos hhz]
    · rw [exec_arrayLastPass hop, if_neg (not_not_intro rfl), Core.badRow_of_sound _ _ hpar]
      rfl
    · rw [exec_arrayLastPass hop, if_pos hcode]
  · intro s a b sc x c r v
    have hrbc : exec (.rbc a b sc) s = s.bcastIns (some ((s.rd a).setWidth 16)) (s.rd b) sc := rfl
    have hrclr : exec (.rclr b sc) s = s.bcastIns none (s.rd b) sc := rfl
    refine ⟨fun hsvc => ⟨exec_bcastIns_service hrbc hsvc, exec_bcastIns_service hrclr hsvc⟩,
      fun hsvc hfree => ⟨exec_bcastIns_leaves hrbc hsvc hfree, exec_bcastIns_leaves hrclr hsvc hfree⟩,
      fun hsvc hout => ⟨exec_bcastIns_waits hrbc hsvc hout, exec_bcastIns_waits hrclr hsvc hout⟩, ?_, fun p hnum => ?_,
      fun hout hmem hhalt => ?_, fun lid hf => ⟨State.takeBcast_preempted hf, fun hp hlid => ⟨State.takeBcast_full hf hp hlid, fun h4 => ?_⟩⟩⟩
    · intro lid got hout
      have hexec := exec_rewardBroadcastArrive hout
      refine ⟨fun hgot => hexec.trans ?_, fun hgot => hexec.trans ?_⟩
      · exact congrArg _ (if_pos hgot)
      · have hgot' : (s.takeBcast ((s.core s.here).lid?.getD 0) s.evNum x.r x.s).1 = .refuse := hgot
        simp only [hgot']
        rfl
    · exact congrArg _ (if_pos hnum)
    · rw [exec_broadcastRetry hout, hhalt, List.contains_iff_mem.2 hmem]
      rfl
    · obtain ⟨hacc, hcore⟩ := State.takeBcast_taken (r := r) (v := v) hf hp hlid h4
      rw [hcore]
      exact ⟨hacc, rfl, rfl⟩

/-! ### Rewards that an array applies (R418, R419) -/

/-- The walk for the next reward keeps the one of lower stamp, the earlier of two with one stamp. -/
def Reward.first (b : Option Reward) (x : Reward) : Option Reward :=
  match b with
  | none => some x
  | some y => if x.s.toNat < y.s.toNat then some x else some y
theorem nextReward_eq (l : List Reward) : nextReward l = (l.filter (·.due)).foldl Reward.first none := by
  have hstep : Reward.first = fun b x => match b with
    | none => some x
    | some y => if x.s.toNat < y.s.toNat then some x else b := by
    funext b x
    cases b <;> rfl
  rw [hstep]
  rfl
/-- What the walk ends with came in with it or stands in the list, and no stamp that it met is lower. -/
theorem foldl_first_spec (l : List Reward) (b : Option Reward) {y : Reward} (h : l.foldl Reward.first b = some y) :
    (y ∈ l ∨ b = some y) ∧ (∀ z ∈ l, y.s.toNat ≤ z.s.toNat) ∧ ∀ a, b = some a → y.s.toNat ≤ a.s.toNat := by
  induction l generalizing b with
  | nil =>
    rw [List.foldl_nil] at h
    exact
      ⟨.inr h, fun z hz => absurd hz List.not_mem_nil, fun a ha => le_of_eq (congrArg (fun r : Reward => r.s.toNat) (Option.some.inj (h.symm.trans ha)))⟩
  | cons x l ih =>
    obtain ⟨hmem, hle, hacc⟩ := ih _ h
    cases b with
    | none =>
      have hx := hacc x rfl
      refine ⟨.inl ?_, fun z hz => ?_, fun a ha => nomatch ha⟩
      · exact hmem.elim (List.mem_cons_of_mem x) fun e => Option.some.inj e ▸ List.mem_cons_self
      · rcases List.mem_cons.1 hz with rfl | hz
        · exact hx
        · exact hle z hz
    | some a =>
      by_cases hlt : x.s.toNat < a.s.toNat
      · have hstep : Reward.first (some a) x = some x := if_pos hlt
        have hx := hacc x hstep
        refine ⟨.inl ?_, fun z hz => ?_, fun a' ha => ?_⟩
        · exact hmem.elim (List.mem_cons_of_mem x) fun e => Option.some.inj (hstep.symm.trans e) ▸ List.mem_cons_self
        · rcases List.mem_cons.1 hz with rfl | hz
          · exact hx
          · exact hle z hz
        · rw [← Option.some.inj ha]
          omega
      · have hstep : Reward.first (some a) x = some a := if_neg hlt
        have ha := hacc a hstep
        refine ⟨hmem.imp (List.mem_cons_of_mem x) fun e => hstep.symm.trans e, fun z hz => ?_, fun a' ha' => ?_⟩
        · rcases List.mem_cons.1 hz with rfl | hz
          · omega
          · exact hle z hz
        · rw [← Option.some.inj ha']
          exact ha
theorem nextReward_spec (l : List Reward) {y : Reward} (h : nextReward l = some y) :
    y ∈ l ∧ y.due = true ∧ ∀ z ∈ l, z.due = true → y.s.toNat ≤ z.s.toNat := by
  rw [nextReward_eq] at h
  obtain ⟨hmem, hle, -⟩ := foldl_first_spec _ _ h
  have hy := List.mem_filter.1 (hmem.resolve_right nofun)
  exact ⟨hy.1, hy.2, fun z hz hdue => hle z (List.mem_filter.2 ⟨hz, hdue⟩)⟩

section
variable {s : State} {x : Reward}

theorem exec_rewardApplyStart (hhalt : (s.core s.here).halt = false) (hnone : (s.core s.here).apply = none) : exec .rewardApplyStart s = .next
    (match nextReward (s.core s.here).rewards with
     | none => s
     | some x =>
       if (s.core s.here).low.passesLeft s.tick || (s.core s.here).high.passesLeft s.tick || (s.core s.here).narrowing
       then s.enqueueLast (s.tick + 1) s.here .low 0 .rewardApplyStart
       else (s.modCore s.here fun k => { k with rewards := k.rewards.erase x }).runApply s.here x 0) := by
  show execRewardApplyStart s = _
  rw [execRewardApplyStart, hhalt, hnone]
  rfl

@[simp] theorem State.core_pokeApply (s : State) (c d : Nat) : (s.pokeApply c).core d = s.core d := rfl
@[simp] theorem State.core_seeAgain (s : State) (c d : Nat) (l : List Nat) : (s.seeAgain c l).core d = s.core d := rfl
theorem Core.badPlastic_of_sound {k : Core} (h : k.badPar = []) : k.badPlastic = [] := by rw [Core.badPlastic, h]; rfl

/-- With every parity good an application begins without a count of errors. -/
theorem State.runApply_of_sound (h : (s.core s.here).badPar = []) :
    s.runApply s.here x 0 = (s.modCore s.here fun k => { k with apply := some (x, 0, some s.tick) }).enqueueFirst
      (s.tick + 2000) s.here .low s.tick .rewardApplyDone := by
  rw [State.runApply, Core.badPlastic_of_sound h]
  rfl

theorem exec_rewardApplyDone {d : Nat} (h : (s.core s.here).apply = some (x, d, some s.evNum)) : exec .rewardApplyDone s = .next
    (((s.modCore s.here fun k => { ((k.rewardRows x.r (s.core s.here).badPlastic).lateFlags x) with apply := none }).seeAgain s.here
      [0x048, 0x049]).pokeApply s.here) := by
  show execRewardApplyDone s = _
  rw [execRewardApplyDone, h]
  exact congrArg _ (if_pos rfl)

/-- What a pass of an application makes of each row. -/
def Core.rewardMap (k : Core) (r : BitVec 16) (skip : List Nat) : Core :=
  k.mapRows fun n x => if x.tag k.plasTag && !skip.contains n then k.rewardRow (k.factor r) x else x
theorem Core.rewardRows_eq (k : Core) (r : BitVec 16) (l : List Nat) :
    (k.rewardRows r l).rows = (k.rewardMap r l).rows ∧ (k.rewardRows r l).alate = k.alate := by
  rw [Core.rewardRows, Core.rewardMap]
  dsimp only
  generalize List.any (List.range arrayRows) _ = nonfin
  generalize hk : k.mapRows _ = k1
  have halate : k1.alate = k.alate := by rw [← hk, Core.mapRows]
  cases nonfin
  · exact ⟨rfl, halate⟩
  · exact ⟨rfl, halate⟩
theorem Core.row_rewardRows (k : Core) (r : BitVec 16) {n : Nat} (h : n < 4096) :
    (k.rewardRows r []).row n = if (k.row n).tag k.plasTag then
      ((k.row n).put (k.woff + 16) 32 0).put k.woff 16 (newWeight (k.factor r) ((k.row n).get k.woff 16) (k.trace (k.row n))) else k.row n := by
  rw [Core.row_congr (k.rewardRows_eq r []).1, Core.rewardMap, Core.row_mapRows _ _ h, List.contains_nil, Bool.not_false, Bool.and_true,
    Core.rewardRow]
theorem Core.lateFlags_eq (k : Core) (x : Reward) : (k.lateFlags x).rows = k.rows ∧
    (k.lateFlags x).alate = if x.late then satAdd k.alate 1 else k.alate := by
  rw [Core.lateFlags]
  split <;> exact ⟨rfl, rfl⟩
end

/-- Settles O47: a start is one arm of its event, an end another; the rows are those of a pass, and the next reward is found by one walk
through those held. -/
theorem rewardsApply : Obligations.RewardsApply := by
  intro s x n d k
  refine ⟨fun hhalt hnone hnext hlow hhigh hnar => ?_, fun hhalt hnone hnext => ?_, State.runApply_of_sound, fun happly hpar => ?_,
    fun hrow => k.row_rewardRows x.r hrow, fun y => nextReward_spec k.rewards⟩
  · rw [exec_rewardApplyStart hhalt hnone, hnext, hlow, hhigh, hnar]
    rfl
  · rw [exec_rewardApplyStart hhalt hnone, hnext]
  · refine ⟨_, exec_rewardApplyDone happly, ?_⟩
    obtain ⟨hrows, hlate⟩ := k.rewardRows_eq x.r []
    obtain ⟨hrows', hlate'⟩ := (k.rewardRows x.r []).lateFlags_eq x
    rw [State.core_pokeApply, State.core_seeAgain, State.core_modCore_same, Core.badPlastic_of_sound hpar]
    exact ⟨rfl, hrows', hlate'.trans (by rw [hlate]), rfl⟩

end Sys2Proof.Machine
end

section
/-!
SUPPORT. The memory instructions at their issue: loads, stores, prefetches, fences and the waiting operations, and the statements about
them (15_memory_instructions R267 to R284).
-/
namespace Sys2Proof.Machine

/-! ### An access whose checks pass leaves (R39, R135, R206) -/

section
variable {s : State} {rq : Req} {e : TlbEntry} {pa : Nat} {op : AccOp} {dst : Option (Reg × Option Nat)} {st : Option Reg} {acq : Bool}
  {rel : Option Scope} {i : Instr}

/-- Which packages have a route does not depend on the page entries in use. -/
theorem State.touch_unreachable (c : Nat) : (s.touch c e).unreachable pa = s.unreachable pa := by
  have hroutes : (s.touch c e).routes = s.routes := by
    rw [State.touch, State.useEntry]
    split <;> rfl
  rw [State.unreachable, State.unreachable, State.route, State.route, hroutes, State.touch_pkgId]

theorem State.loadGo_of_reaches (h : s.reaches rq e pa) : s.loadGo rq op dst st acq rel =
    ((s.touch s.here e).launchAccess e pa op rq.va dst st acq rel none).issue := by
  obtain ⟨hgo, hroute⟩ := h
  rw [State.loadGo, State.withPage_go hgo, if_neg (by rw [State.touch_unreachable, hroute]; decide)]
theorem State.storeGo_of_reaches (h : s.reaches rq e pa) (hroom : s.storeBuffer s.here < 16) : s.storeGo rq op rel =
    ((s.touch s.here e).launchAccess e pa op rq.va none none false rel none).issue := by
  obtain ⟨hgo, hroute⟩ := h
  rw [State.storeGo, if_neg (Nat.not_le.2 hroom), State.withPage_go hgo, if_neg (by rw [State.touch_unreachable, hroute]; decide)]

theorem sends_of_loadGo (hi : exec i s = .next (s.loadGo rq op dst st acq rel)) : Sends i s rq op dst st acq rel :=
  fun _ _ h => hi.trans (congrArg Host.Outcome.next (State.loadGo_of_reaches h))
theorem sendsStore_of_storeGo (hi : exec i s = .next (s.storeGo rq op rel)) : SendsStore i s rq op rel :=
  fun hroom _ _ h => hi.trans (congrArg Host.Outcome.next (State.storeGo_of_reaches h hroom))
end

/-- The register after another, modulo 32. -/
theorem nextReg_eq (d : Reg) : nextReg d = d + 1 := Fin.ext (by rw [nextReg, Fin.val_add]; rfl)

/-- Settles O11: each is the issue of a load with the arguments that the statement names. -/
theorem loadsTriesAndAtomicsIssue : Obligations.LoadsTriesAndAtomicsIssue := by
  constructor
  · intro s d a b sz sc p x n va vl vx sx
    refine ⟨?ld, ?ldLone, ?ldn, ?ldnLone, ?ldx, ?lda, ?ldaLone⟩
    all_goals exact sends_of_loadGo rfl
  · intro s d a b sc p x w o va vl d' m
    have hd : d' = nextReg d := (nextReg_eq d).symm
    rw [hd]
    refine ⟨?feq, ?feqLone, ?ldwt, ?ldwtLone, ?ldtt, ?ldttLone, ?stpt, ?stptLone, ?cas, ?amo⟩
    all_goals exact sends_of_loadGo rfl

/-! ### Fences (R39, R198, R284) -/

section
variable {s : State} {sc : Scope} {y : Access}

theorem exec_fenceA : exec .fenceA s = .next (if s.vaultsDone then s.issue else s.holdOp) := rfl
theorem exec_fenceR : exec .fenceR s = .next (s.fence (!(s.accesses.any fun a => s.own a && a.remote))) := rfl
theorem exec_fenceOrd : exec (.fenceOrd sc) s = .next (s.fence (s.released sc && s.vaultsDone)) := rfl

theorem State.fence_ready (h : s.me.dropped = none) : s.fence true = s.issue := by rw [State.fence, h]; rfl
theorem State.fence_waits (h : s.me.dropped = none) : s.fence false = s.holdOp := by rw [State.fence, h]; rfl
theorem State.fence_dropped {ready : Bool} {f : Word} (h : s.me.dropped = some f) : s.fence ready = s.trapHere 0x14 0 f := by
  rw [State.fence, h]

/-- Nothing of a firing is left with a property where the firing has no access, and something is where one of its accesses has it. -/
theorem State.own_any_of_none (h : (s.accesses.filter fun a => s.own a) = []) (q : Access → Bool) :
    (s.accesses.any fun a => s.own a && q a) = false := by
  rw [← List.any_filter, h]
  rfl
theorem State.own_any_of_mem {q : Access → Bool} (hy : y ∈ s.accesses.filter fun a => s.own a) (hq : q y = true) :
    (s.accesses.any fun a => s.own a && q a) = true := by
  rw [← List.any_filter]
  exact List.any_eq_true.2 ⟨y, hy, hq⟩

theorem Access.vault_of_place {v o : Nat} (h : placeOf (offOf y.pa) = .vault v o) : y.vault = true := by rw [Access.vault, h]
/-- An access of the own package that is not performed is waited for at every scope; a remote one is so at pod and sys (R194). -/
theorem Access.owes_of_pending (hans : y.ans = none) (h : y.remote = false ∨ sc = .pod ∨ sc = .sys) : y.owes sc = true := by
  have hpending : y.ans.isNone = true := by rw [hans]; rfl
  rw [Access.owes, hpending, Bool.or_true]
  rcases h with hr | rfl | rfl
  · rw [hr]; rfl
  · exact ite_self _
  · exact ite_self _

theorem State.vaultsDone_of_none (h : (s.accesses.filter fun a => s.own a) = []) : s.vaultsDone = true := by
  have hany := State.own_any_of_none h fun a => a.vault && a.ans.isNone
  rw [State.vaultsDone]
  simp only [Bool.and_assoc, hany, Bool.not_false]
theorem State.vaultsDone_of_pending {v o : Nat} (hy : y ∈ s.accesses.filter fun a => s.own a) (hans : y.ans = none)
    (hplace : placeOf (offOf y.pa) = .vault v o) : s.vaultsDone = false := by
  have hany := State.own_any_of_mem (q := fun a => a.vault && a.ans.isNone) hy (by rw [Access.vault_of_place hplace, hans]; rfl)
  rw [State.vaultsDone]
  simp only [Bool.and_assoc, hany, Bool.not_true]
end

/-! ### Prefetches (R172, R273) -/

section
variable {s : State} {va : Word} {e : TlbEntry}

theorem State.prefetch_missed (h : s.lookup s.here s.mine.space va.toNat = none ∨ 2 ^ 56 ≤ va.toNat) : s.prefetch va = s.issue := by
  have hnone : (if va.toNat < 2 ^ 56 then s.lookup s.here s.mine.space va.toNat else none) = none := by
    rcases h with h | h
    · rw [h, ite_self]
    · rw [if_neg (Nat.not_lt.2 h)]
  rw [State.prefetch, hnone]

variable (hin : va.toNat < 2 ^ 56) (he : s.lookup s.here s.mine.space va.toNat = some e)
include hin he

theorem State.prefetch_line (hr : attrR e.attr = true) (hag : s.agentOf e.attr (e.pbase + va.toNat % e.bytes) = .l1) :
    s.prefetch va = (let line := keyOf (offOf (e.pbase + va.toNat % e.bytes)) / 128 * 128
      if Config.lineThere s.free then s.bumpFree
      else ((s.bumpFree.useEntry s.here e).meetBlock line).meetBlock (line + 64)).issue := by
  rw [State.prefetch, if_pos hin, he]
  simp only [hr, hag]
  rw [if_pos (by decide)]
  exact (apply_ite State.issue ..).symm
theorem State.prefetch_other (h : attrR e.attr = false ∨ s.agentOf e.attr (e.pbase + va.toNat % e.bytes) ≠ .l1) :
    s.prefetch va = s.issue := by
  have hno : (attrR e.attr && s.agentOf e.attr (e.pbase + va.toNat % e.bytes) == .l1) = false := by
    rcases h with h | h
    · rw [h]; rfl
    · rw [beq_false_of_ne h, Bool.and_false]
  rw [State.prefetch, if_pos hin, he]
  simp only [hno, Bool.false_eq_true, if_false]
end

theorem exec_pref (s : State) (a : Reg) (p : BitVec 9) : exec (.pref a p) s = .next (s.prefetch (s.rd a + p.signExtend 64)) := by
  have hea : s.ea a 1 p = s.rd a + p.signExtend 64 := congrArg (s.rd a + ·) (BitVec.mul_one _)
  rw [← hea]
  rfl
theorem exec_prefLone (s : State) (a : Reg) (x : W32) :
    exec (.prefLone a x) s = .next (s.prefetch (s.rd a + x.signExtend 64)) := rfl

/-- Settles O12: the stores by their issue, the fences by the accesses of their firing, and the prefetches by their page. -/
theorem storesFencesAndPrefetch : Obligations.StoresFencesAndPrefetch := by
  constructor
  · intro s d a b sz sc p x w o r n va v8 vl v m
    refine ⟨?st, ?stLone, ?stx, ?stl, ?stlLone, ?stf, ?stfLone, ?emp, ?empLone, ?red, ?redFadd⟩
    all_goals exact sendsStore_of_storeGo rfl
  · intro s a p x sc own
    refine ⟨fun hnone => ?_, fun y hy hrem hdrop => ?_, fun y hy hans hdrop howes => ?_, fun y hy hans ⟨v, o, hplace⟩ => ?_,
      fun f hdrop => ?_, ?_⟩
    · have hvaults := State.vaultsDone_of_none hnone
      have hremote := State.own_any_of_none hnone fun a => a.remote
      have hreleased : s.released sc = true := by rw [State.released, State.own_any_of_none hnone]; rfl
      refine ⟨?_, fun hdrop => ⟨?_, ?_⟩⟩
      · rw [Issues, exec_fenceA, if_pos hvaults]
      · rw [Issues, exec_fenceOrd, hreleased, hvaults, Bool.and_self, State.fence_ready hdrop]
      · rw [Issues, exec_fenceR, hremote, Bool.not_false, State.fence_ready hdrop]
    · rw [Holds, exec_fenceR, State.own_any_of_mem (q := fun a => a.remote) hy hrem, Bool.not_true, State.fence_waits hdrop]
    · have hreleased : s.released sc = false := by
        rw [State.released, State.own_any_of_mem hy (Access.owes_of_pending hans howes)]; rfl
      rw [Holds, exec_fenceOrd, hreleased, Bool.false_and, State.fence_waits hdrop]
    · have hvaults := State.vaultsDone_of_pending hy hans hplace
      refine ⟨?_, fun hdrop => ?_⟩
      · rw [Holds, exec_fenceA, if_neg (by rw [hvaults]; decide)]
      · rw [Holds, exec_fenceOrd, hvaults, Bool.and_false, State.fence_waits hdrop]
    · exact ⟨congrArg Host.Outcome.next (State.fence_dropped hdrop), congrArg Host.Outcome.next (State.fence_dropped hdrop)⟩
    · intro i v hi va
      have hexec : exec i s = .next (s.prefetch v) := by
        rcases hi with ⟨rfl, rfl⟩ | ⟨rfl, rfl⟩
        · exact exec_pref s a p
        · exact exec_prefLone s a x
      refine ⟨fun h => ?_, fun e hin he => ⟨fun hr hag => ?_, fun h => ?_⟩⟩
      · rw [Issues, hexec, State.prefetch_missed h]
      · rw [Issues, hexec, State.prefetch_line hin he hr hag]
      · rw [Issues, hexec, State.prefetch_other hin he h]

/-! ### Waiting operations (R115, R178, R179, R276, R278) -/

section
variable {s : State} {w : Wait} {n key pa lat till : Nat} {v : Word}

/-- An answer other than a failure decides at once. -/
theorem State.waitFE_answered {a : Answer} (hop : s.me.op = .fe n key pa lat (.answered a)) (ha : a ≠ .notReady) :
    s.waitFE w = s.settle w n key pa lat a := by
  have hgo : ¬ (s.me.wasSusp && a == .notReady) = true := by rw [beq_false_of_ne ha, Bool.and_false]; decide
  simp only [State.waitFE, hop]
  exact if_neg hgo
/-- A failure decides too, of a firing that has not been suspended since. -/
theorem State.waitFE_failed (hop : s.me.op = .fe n key pa lat (.answered .notReady)) (hsusp : s.me.wasSusp = false) :
    s.waitFE w = s.settle w n key pa lat .notReady := by
  have hgo : ¬ (s.me.wasSusp && Answer.notReady == .notReady) = true := by rw [hsusp, Bool.false_and]; decide
  simp only [State.waitFE, hop]
  exact if_neg hgo
theorem State.waitFE_reading (hop : s.me.op = .reading till) (h : till ≤ s.tick) : s.waitFE w = s.issue := by
  simp only [State.waitFE, hop]
  exact if_pos h

/-- A PARK of an anchored firing whose bound has run out traps (R115). -/
theorem State.waitFE_parkOver {f : Bool} (hw : w.op = .park f) (hop : s.me.op = .fe n key pa 0 .ready) (hanch : s.me.anch = true)
    (hbud : s.me.rbud ≠ 0xFFFF) (hheld : (s.me.rbud.toNat + 1) * 16 ≤ s.me.feHeld) : s.waitFE w = s.trapHere 0x06 0 0 := by
  have hleft : s.me.parkLeft = some 0 := by rw [Bank.parkLeft, if_neg hbud, Nat.sub_eq_zero_of_le hheld]
  have hover : (s.me.anchoredPark w.op && (0 : Nat) == 0 && s.me.parkLeft == some 0) = true := by
    rw [hw, hleft, Bank.anchoredPark, hanch]; decide
  simp only [State.waitFE, hop]
  rw [if_pos hover, State.budgetEnd, if_pos hanch]

/-- The latest attempt of an operation other than a PARK is the last (R179, R183). -/
theorem Bank.lastTry_iff (b : Bank) (m : Nat) : b.lastTry m = true ↔ b.woken = true ∨ (b.rbud ≠ 0xFFFF ∧ b.rbud.toNat ≤ m) := by
  simp only [Bank.lastTry, Bool.or_eq_true, Bool.and_eq_true, bne_iff_ne, decide_eq_true_eq]
end

section
variable {s : State} {w : Wait} {n key pa lat : Nat} {i : Instr} (hi : exec i s = .next (s.waitFE w))
include hi

theorem exec_wait_done {v : Word} {t : State} (hop : s.me.op = .fe n key pa lat (.answered (.done v)))
    (ht : s.settle w n key pa lat (.done v) = t.issue) : Issues i s t := by
  rw [Issues, hi, State.waitFE_answered hop Answer.noConfusion, ht]
theorem exec_wait_expired (hop : s.me.op = .fe n key pa lat (.answered .expired)) : Traps i s 0x10 0 0 := by
  rw [Traps, hi, State.waitFE_answered hop Answer.noConfusion, State.settle]
/-- A failed attempt that is not the last rests 16 ticks. -/
theorem exec_wait_rests (hop : s.me.op = .fe (n + 1) key pa lat (.answered .notReady)) (hsusp : s.me.wasSusp = false)
    (hlast : s.lastAttempt w n = false) (hrest : s.restFor w = 16) :
    Holds i s ((s.modMe fun b => { b with op := .fe (n + 1) key pa lat (.resting (s.tick + 16)) }).enqueue (s.tick + 16) s.here
      s.mine.cur 0 .feAttempt) := by
  rw [Holds, hi, State.waitFE_failed hop hsusp, State.settle, Nat.add_sub_cancel, if_neg (by rw [hlast]; decide), hrest]
/-- The last attempt of a firing has failed. -/
theorem exec_wait_lastFailed (hop : s.me.op = .fe (n + 1) key pa lat (.answered .notReady)) (hsusp : s.me.wasSusp = false)
    (hlast : s.lastAttempt w n = true) : exec i s = .next (s.budgetEnd key pa (accParkKind w.op)) := by
  rw [hi, State.waitFE_failed hop hsusp, State.settle, Nat.add_sub_cancel, if_pos hlast]
end

section
variable {s : State} {key pa : Nat} {kind : ParkKind}

theorem State.budgetEnd_anchored (h : s.me.anch = true) : s.budgetEnd key pa kind = s.trapHere 0x06 0 0 := if_pos h
theorem State.budgetEnd_high (h : s.me.anch = false) (hcur : s.mine.cur = .high) : s.budgetEnd key pa kind = s.trapHere 0x15 0 0 := by
  rw [State.budgetEnd, if_neg (by rw [h]; decide), if_pos hcur]
theorem State.budgetEnd_loose (h : s.me.anch = false) (hcur : s.mine.cur = .low) :
    s.budgetEnd key pa kind = s.leaveAs s.here s.mine.cur (.park key pa kind) := by
  rw [State.budgetEnd, if_neg (by rw [h]; decide), if_neg (by rw [hcur]; exact Prio.noConfusion)]
end

section
variable (s : State) (d a b : Reg) (sc : Scope) (p : BitVec 9) (x : W32)

theorem exec_ldw : exec (.ldw d a sc p) s = .next (s.waitFE ⟨reqFeRead (s.ea a 8 p), .ldw, some d, 4, true, none⟩) := rfl
theorem exec_ldwLone : exec (.ldwLone d a sc x) s = .next (s.waitFE ⟨reqFeRead (s.eaE a x), .ldw, some d, 4, true, none⟩) := rfl
theorem exec_ldt : exec (.ldt d a sc p) s = .next (s.waitFE ⟨reqFeWrite (s.ea a 8 p), .ldt, some d, 4, true, none⟩) := rfl
theorem exec_ldtLone : exec (.ldtLone d a sc x) s = .next (s.waitFE ⟨reqFeWrite (s.eaE a x), .ldt, some d, 4, true, none⟩) := rfl
theorem exec_stp : exec (.stp d a sc p) s =
    .next (s.waitFE ⟨reqFeWrite (s.ea a 8 p), .stp (s.rd d), none, 4, false, some sc⟩) := rfl
theorem exec_stpLone : exec (.stpLone d a sc x) s =
    .next (s.waitFE ⟨reqFeWrite (s.eaE a x), .stp (s.rd d), none, 4, false, some sc⟩) := rfl
theorem exec_amo_respecting (o : AmoOp) (w : Bool) : exec (.amo d a b o sc w true) s =
    .next (s.waitFE ⟨reqAtom (s.rd a) (atomBytes w) true, .amo o w (s.rd b) true, some d, 6, true, some sc⟩) := rfl
theorem exec_park : exec (.park d a p) s =
    .next (s.waitFE ⟨{ reqFeRead (s.ea a 8 p) with fe := true }, .park (bitOf (s.rd d) 0), none, 4, false, none⟩) := rfl
theorem exec_parkLone : exec (.parkLone d a x) s =
    .next (s.waitFE ⟨{ reqFeRead (s.eaE a x) with fe := true }, .park (bitOf (s.rd d) 0), none, 4, false, none⟩) := rfl
end

/-- Settles O13: what a bundle does is decided by the answer of its latest attempt; the instructions differ in the request alone. -/
theorem waitingOperations : Obligations.WaitingOperations := by
  constructor
  · intro s d a b sc p x w o n key pa lat till v
    refine ⟨fun hop => ⟨?ldw, ?ldwLone, ?ldt, ?ldtLone, ?amo, ?stp, ?stpLone, fun hlat => ⟨?park, ?parkLone⟩⟩,
      fun hop htill => ⟨?_, ?_⟩, fun hop hanch hbud hheld => ⟨?_, ?_⟩⟩
    case ldw => exact exec_wait_done (exec_ldw ..) hop rfl
    case ldwLone => exact exec_wait_done (exec_ldwLone ..) hop rfl
    case ldt => exact exec_wait_done (exec_ldt ..) hop rfl
    case ldtLone => exact exec_wait_done (exec_ldtLone ..) hop rfl
    case amo => exact exec_wait_done (exec_amo_respecting ..) hop rfl
    case stp => exact exec_wait_done (exec_stp ..) hop rfl
    case stpLone => exact exec_wait_done (exec_stpLone ..) hop rfl
    case park => exact exec_wait_done (exec_park ..) hop (if_pos hlat)
    case parkLone => exact exec_wait_done (exec_parkLone ..) hop (if_pos hlat)
    · rw [Issues, exec_park, State.waitFE_reading hop htill]
    · rw [Issues, exec_parkLone, State.waitFE_reading hop htill]
    · rw [Traps, exec_park, State.waitFE_parkOver rfl hop hanch hbud hheld]
    · rw [Traps, exec_parkLone, State.waitFE_parkOver rfl hop hanch hbud hheld]
  · intro s d a sc p n key pa lat park last rest
    have hldw := exec_ldw s d a sc p
    have hldt := exec_ldt s d a sc p
    have hstp := exec_stp s d a sc p
    have hlast : s.me.lastTry n = true ↔ last := s.me.lastTry_iff n
    refine ⟨fun hop => ⟨exec_wait_expired hldw hop, exec_wait_expired hldt hop, exec_wait_expired hstp hop⟩, fun hop hsusp =>
      ⟨fun hnot => ?_, fun hl hanch => ?_, fun hl hanch hcur => ?_, fun hl hanch hcur => ?_⟩⟩
    · have hmore : s.me.lastTry n = false := Bool.eq_false_iff.2 fun h => hnot (hlast.1 h)
      exact ⟨exec_wait_rests hldw hop hsusp hmore rfl, exec_wait_rests hldt hop hsusp hmore rfl, exec_wait_rests hstp hop hsusp hmore rfl⟩
    all_goals
      have hover := hlast.2 hl
      have hldw := exec_wait_lastFailed hldw hop hsusp hover
      have hldt := exec_wait_lastFailed hldt hop hsusp hover
      have hstp := exec_wait_lastFailed hstp hop hsusp hover
    · rw [State.budgetEnd_anchored hanch] at hldw hldt hstp
      exact ⟨hldw, hldt, hstp⟩
    · rw [State.budgetEnd_high hanch hcur] at hldw hldt hstp
      exact ⟨hldw, hldt, hstp⟩
    · rw [State.budgetEnd_loose hanch hcur] at hldw hldt hstp
      exact ⟨hldw, hldt, hstp⟩

end Sys2Proof.Machine
end

section
/-!
SUPPORT. SEND, the ports and the messages between cores, and the statements about them (18_messages_barriers R316 to R323).
-/
namespace Sys2Proof.Machine

/-! ### SEND (R39, R318, R321, R322) -/

section
variable {s : State} {a b : Reg} {l : Fin 8} {n : Nat} {x : MsgAnswer}

theorem exec_send_answered (hop : s.me.op = .send n (.answered x)) : exec (.send a b l) s =
    .next (s.sendAnswered (s.rd a) (s.me.rdFrom b (l.val + 1)) n x) := by
  show execSend a b l s = _
  simp only [execSend, hop]
theorem exec_send_idle (hop : s.me.op = .idle) : exec (.send a b l) s = .next (
    if !portOk (s.rd a) then s.trapHere 0x04 0 (s.rd a)
    else if s.portFar (s.rd a) && !(s.route (portPkg (s.rd a))).valid then
      (s.modMe fun k => { k with dropped := some (k.dropped.getD (s.rd a)) }).issue
    else if s.orderedReleased then s.sendTry (s.rd a) (s.me.rdFrom b (l.val + 1)) 0
    else s.holdOp) := by
  show execSend a b l s = _
  simp only [execSend, hop]

variable {port : Word} {ws : List Word}

/-- A refusal inside the package, of a firing whose attempts are spent. -/
theorem State.sendAnswered_spent (hnear : s.portFar port = false) (hn : n = s.me.rbud.toNat) (hbud : s.me.rbud ≠ 0xFFFF) :
    s.sendAnswered port ws n .refuse = s.trapHere 0x07 0 0 := by
  simp only [State.sendAnswered, hnear, Bool.false_eq_true, if_false]
  exact if_pos ⟨hn, hbud⟩
/-- A refusal inside the package, of a firing that has attempts left. -/
theorem State.sendAnswered_left (hnear : s.portFar port = false) (hleft : n ≠ s.me.rbud.toNat ∨ s.me.rbud = 0xFFFF) :
    s.sendAnswered port ws n .refuse = s.sendAgain (n + 1) fun st m => st.sendTry port ws m := by
  simp only [State.sendAnswered, hnear, Bool.false_eq_true, if_false]
  exact if_neg fun ⟨hn, hbud⟩ => hleft.elim (· hn) hbud
/-- A firing that was not suspended rests before it tries again. -/
theorem State.sendAgain_rests {retry : State → Nat → State} (hsusp : s.me.wasSusp = false) : s.sendAgain n retry =
    ((s.modMe fun k => { k with op := .send n (.resting (s.tick + 16)) }).enqueue (s.tick + 16) s.here s.mine.cur 0 .sendRetry).holdOp := by
  rw [State.sendAgain, if_neg (by rw [hsusp]; decide)]
end

/-- Settles O36: an answered attempt by its answer, and a new bundle by its port address. -/
theorem sending : Obligations.Sending := by
  intro s a b l n port i
  refine ⟨fun hop => ?_, fun hop => ?_, fun hop hnear hn hbud => ?_, fun hop hnear hleft hsusp => ?_, fun hop hbad => ?_,
    fun hop hok hnear hrel => ?_, fun hop hok hfar hroute => ?_⟩
  · exact exec_send_answered hop
  · exact exec_send_answered hop
  · rw [Traps, exec_send_answered hop, State.sendAnswered_spent hnear hn hbud]
  · rw [Holds, exec_send_answered hop, State.sendAnswered_left hnear hleft, State.sendAgain_rests hsusp]
  · rw [Traps, exec_send_idle hop, hbad]
    rfl
  · rw [exec_send_idle hop, hok, hnear, hrel]
    rfl
  · rw [Issues, exec_send_idle hop, hok, hfar, hroute]
    rfl

/-! ### RECV and PCNT (R323) -/

section
variable {s : State} {d a : Reg} {p w : Fin 8} {q : Port} (hq : s.myPort p.val = some q)
include hq

/-- The word of a message that RECV names: the message in bits 31:0 of its operand, the eight words in bits 34:32. -/
theorem exec_recv : exec (.recv d a p w) s = .next (
    match recvAt q ((s.rd a).toNat % 2 ^ 32) (8 * ((s.rd a).toNat / 2 ^ 32 % 8) + w.val) with
    | none => (s.wrC s.portLat d 0).issue
    | some i =>
      if (s.meet (mailKey s.me.home i)).poisoned (mailKey s.me.home i)
      then (s.meet (mailKey s.me.home i)).trapHere 0x14 0 (BitVec.ofNat 64 (s.pkgId.toNat * 2 ^ 44 + mailKey s.me.home i))
      else ((s.meet (mailKey s.me.home i)).wrC s.portLat d (s.rdWord (mailKey s.me.home i))).issue) := by
  have hm : field (s.rd a) 31 0 = (s.rd a).toNat % 2 ^ 32 := rfl
  have hw : field (s.rd a) 34 32 = (s.rd a).toNat / 2 ^ 32 % 8 := congrArg (· % 8) (Nat.shiftRight_eq_div_pow ..)
  show execRecv d a p w s = _
  rw [execRecv, hq, hm, hw]
  rfl
theorem exec_pcnt : exec (.pcnt d p) s =
    .next (s.wrC s.portLat d (BitVec.ofNat 64 (q.msgs.length % 4096 + place q.free 12 12))).issue := by
  show execPcnt d p s = _
  simp only [execPcnt, hq]
end

/-- Settles O38: RECV and PCNT at the home core. -/
theorem portReads : Obligations.PortReads := by
  intro s d a p w q hhome hq m ix word
  have hlat : s.portLat = 2 := if_pos hhome
  refine ⟨fun hm hix hsound => ?_, fun h => ?_, ?_⟩
  · have hat : recvAt q m ix = some (q.at (q.head + (q.msgs.take m).sum + ix)) := if_pos ⟨hm, hix⟩
    rw [Issues, exec_recv hq, hat]
    simp only [hhome, hlat]
    exact congrArg _ (if_neg (by rw [hsound]; decide))
  · have hat : recvAt q m ix = none := if_neg fun ⟨hm, hix⟩ => h.elim (fun h => absurd hm (Nat.not_lt.2 h)) fun h => absurd hix (Nat.not_lt.2 h)
    rw [Issues, exec_recv hq, hat, hlat]
  · rw [Issues, exec_pcnt hq, hlat, place_eq_mul]
    rfl

/-! ### Messages and pushes at their core (R201, R319, R320, R341) -/

section
variable {s : State} {m : Msg} {port : Word} {ws : List Word} {h : RingNo} (hm : (s.msgs.find? fun x => x.id == s.evNum) = some m)
include hm

theorem exec_messageArrive_behind (hk : m.kind = .send port ws) (hcode : s.codeAhead m = true) :
    exec .messageArrive s = .next (s.enqueue (s.tick + 1) m.src m.prio m.id .messageArrive) := by
  show execMessageArrive s = _
  simp only [execMessageArrive, hm, hk, hcode, if_true]
theorem exec_messageArrive_taken (hk : m.kind = .send port ws) (hnear : s.portFar port = false) (hcode : s.codeAhead m = false) :
    exec .messageArrive s = .next ((s.takeMsg m.lid m.dst (portInst port) (portPort port) ws).2.crossing.crossing.enqueue
      (s.tick + oneWay m.src (portCore port)) m.src m.prio m.id
      (.messageAnswerArrive m.src m.prio (s.takeMsg m.lid m.dst (portInst port) (portPort port) ws).1)) := by
  have hway : s.msgWay m.src port = oneWay m.src (portCore port) := if_neg (by rw [hnear]; decide)
  show execMessageArrive s = _
  simp only [execMessageArrive, hm, hk, hcode, hnear, hway, Bool.false_eq_true, if_false]
theorem exec_ringPushArrive_behind (hk : m.kind = .push port h) (hcode : s.codeAhead m = true) :
    exec .ringPushArrive s = .next (s.enqueue (s.tick + 1) m.src m.prio m.id .ringPushArrive) := by
  show execRingPushArrive s = _
  simp only [execRingPushArrive, hm, hk, hcode, if_true]
theorem exec_ringPushArrive_taken (hk : m.kind = .push port h) (hnear : (portPkg port != s.pkgId) = false) (hcode : s.codeAhead m = false) :
    exec .ringPushArrive s = .next ((if m.src = m.dst then (s.takePush m.lid m.dst h).2
      else (s.takePush m.lid m.dst h).2.crossing.crossing).enqueue (s.tick + oneWay m.src m.dst) m.src m.prio m.id
      (.messageAnswerArrive m.src m.prio (s.takePush m.lid m.dst h).1)) := by
  show execRingPushArrive s = _
  simp only [execRingPushArrive, hm, hk, hcode, hnear, Bool.false_eq_true, if_false, and_true]
end

section
variable {s : State} {lid : BitVec 32} {c i p : Nat} {ws : List Word} {h : RingNo}

theorem State.takeMsg_fenced (hf : s.coreFenced c = true) : s.takeMsg lid c i p ws = (.accept, s) := by rw [State.takeMsg, if_pos hf]
theorem State.takePush_fenced (hf : s.coreFenced c = true) : s.takePush lid c h = (.accept, s) := by rw [State.takePush, if_pos hf]

variable (hf : s.coreFenced c = false)
include hf

/-- A message is appended to its port where that one is placed and has room. -/
theorem State.takeMsg_placed {inst : Inst} {q : Port} (hlid : (s.core c).lid? = some lid) (hi : s.inst c i = some inst)
    (hq : inst.port p = some q) (hplaced : inst.placed = true) :
    s.takeMsg lid c i p ws = if ws.length ≤ q.free then (.accept, s.appendMsg c i p ws) else (.refuse, s) := by
  rw [State.takeMsg, if_neg (by rw [hf]; decide), if_neg (not_not_intro hlid), hi]
  simp only [hq, hplaced, Bool.not_true, Bool.false_eq_true, if_false]
theorem State.takeMsg_otherLaunch (hlid : (s.core c).lid? ≠ some lid) : s.takeMsg lid c i p ws = (.invalid, s) := by
  rw [State.takeMsg, if_neg (by rw [hf]; decide), if_pos hlid]
theorem State.takeMsg_noInst (hi : s.inst c i = none) : s.takeMsg lid c i p ws = (.invalid, s) := by
  rw [State.takeMsg, if_neg (by rw [hf]; decide), hi]
  exact ite_self _
theorem State.takeMsg_notPlaced {inst : Inst} (hi : s.inst c i = some inst) (h : inst.placed = false ∨ inst.port p = none) :
    s.takeMsg lid c i p ws = (.invalid, s) := by
  rw [State.takeMsg, if_neg (by rw [hf]; decide), hi]
  cases hq : inst.port p with
  | none => simp only [hq, ite_self]
  | some q =>
    have hplaced : inst.placed = false := h.resolve_right (by rw [hq]; exact Option.some_ne_none q)
    simp only [hq, hplaced, Bool.not_false, if_true, ite_self]

theorem State.takePush_invalid (h' : (s.core c).lid? ≠ some lid ∨ ((s.core c).ring h).valid = false) :
    s.takePush lid c h = (.invalid, s) := by
  rw [State.takePush, if_neg (by rw [hf]; decide), if_pos h']
theorem State.takePush_valid (hlid : (s.core c).lid? = some lid) (hv : ((s.core c).ring h).valid = true) :
    s.takePush lid c h = if ((s.core c).ring h).free = 0 then (.refuse, s) else (.accept, s.modRing c h Ring.push) := by
  have hgo : ¬ ((s.core c).lid? ≠ some lid ∨ ((s.core c).ring h).valid = false) := by
    rintro (h' | h')
    · exact h' hlid
    · rw [hv] at h'; exact Bool.noConfusion h'
  rw [State.takePush, if_neg (by rw [hf]; decide), if_neg hgo]
end

/-! ### The answer (R318, R322) -/

section
variable {s : State} {c n d : Nat} {p : Prio} {x : MsgAnswer}

/-- What the end of a message leaves: its record is gone, and its launch is looked at. -/
def State.msgOver (s : State) : State :=
  ((s.msgs.filter fun m => m.id == s.evNum).map (·.lid)).foldl State.poke { s with msgs := s.msgs.filter fun m => m.id != s.evNum }

theorem State.foldl_poke_msgs (l : List (BitVec 32)) (t : State) : (l.foldl State.poke t).msgs = t.msgs := by
  induction l generalizing t with
  | nil => rfl
  | cons lid l ih => exact ih (t.poke lid)
theorem State.msgOver_msgs : s.msgOver.msgs = s.msgs.filter fun m => m.id != s.evNum := State.foldl_poke_msgs _ _
/-- An answer to no message ends none. -/
theorem State.msgOver_of_none (h : (s.msgs.filter fun m => m.id == s.evNum) = []) : s.msgOver = s := by
  have hall : (s.msgs.filter fun m => m.id != s.evNum) = s.msgs := by
    refine List.filter_eq_self.2 fun m hm => ?_
    have hne : ¬ (m.id == s.evNum) = true := List.filter_eq_nil_iff.1 h m hm
    exact congrArg not (Bool.eq_false_iff.2 hne)
  rw [State.msgOver, h, hall]
  rfl

/-- The answer to a SEND or a push, which is no number of a broadcast's target. -/
theorem exec_messageAnswerArrive (hn : s.evNum < 2 ^ 64) : exec (.messageAnswerArrive c p x) s = .next (s.msgOver.modBank c p fun b =>
    match b.op with
    | .send n (.flying k) => if k = s.evNum then { b with op := .send n (.answered x) } else b
    | _ => b) :=
  congrArg Host.Outcome.next (if_neg (Nat.not_le.2 hn))
theorem exec_messageAnswerArrive_waits (hn : s.evNum < 2 ^ 64) (hop : (s.bank c p).op = .send n (.flying s.evNum))
    (hover : (s.msgs.filter fun m => m.id == s.evNum) = []) : exec (.messageAnswerArrive c p x) s =
      .next (s.modBank c p fun b => { b with op := .send n (.answered x) }) := by
  rw [exec_messageAnswerArrive hn, State.msgOver_of_none hover]
  refine congrArg _ (State.modBank_congr ?_)
  simp only [hop, if_true]
theorem exec_sendRetry_rested (hop : (s.bank s.here s.evPrio).op = .send n (.resting d)) (hd : d ≤ s.tick) :
    exec .sendRetry s = .next (s.modBank s.here s.evPrio fun b => { b with op := .send n .ready }) := by
  refine congrArg _ (State.modBank_congr ?_)
  simp only [hop, if_pos hd]
end

/-- Settles O37: an arrival by the message that it finds, and an answer by the attempt that waits for it. -/
theorem messagesAndAnswers : Obligations.MessagesAndAnswers := by
  constructor
  · intro s m port ws h hm
    refine ⟨fun hk _ hcode => exec_messageArrive_behind hm hk hcode, fun hk hnear hcode => exec_messageArrive_taken hm hk hnear hcode,
      fun hk hcode => exec_ringPushArrive_behind hm hk hcode, fun hk hnear hcode => exec_ringPushArrive_taken hm hk hnear hcode,
      fun c i p inst q hf hlid hi hq hplaced => ⟨fun hroom => ?_, fun hfull => ?_⟩, fun c i p hf hbad => ?_,
      fun c i p hf => ⟨State.takeMsg_fenced hf, State.takePush_fenced hf⟩, fun i p hp => List.getElem?_eq_none hp,
      fun c hf => ⟨State.takePush_invalid hf, State.takePush_valid hf⟩⟩
    · rw [State.takeMsg_placed hf hlid hi hq hplaced, if_pos hroom]
    · rw [State.takeMsg_placed hf hlid hi hq hplaced, if_neg (Nat.not_le.2 hfull)]
    · rcases hbad with hlid | hi | ⟨inst, hi, hbad⟩
      · exact State.takeMsg_otherLaunch hf hlid
      · exact State.takeMsg_noInst hf hi
      · exact State.takeMsg_notPlaced hf hi hbad
  · intro s c n p x d
    refine ⟨exec_messageAnswerArrive_waits, exec_sendRetry_rested, fun t ht hn m hm => ?_⟩
    rw [exec_messageAnswerArrive hn] at ht
    obtain rfl := Host.Outcome.next.inj ht
    rw [State.modBank_msgs, State.msgOver_msgs] at hm
    exact bne_iff_ne.1 (List.mem_filter.1 hm).2

end Sys2Proof.Machine
end

section
/-!
SUPPORT. Control registers, the system instructions, migration and RESUME, and the statements about them (16_system R285 to R298,
06_firings R117).
-/
namespace Sys2Proof.Machine

/-! ### TRAP, BRK and SLEEP (R291 to R293) -/

section
variable {s : State} {i : BitVec 14} {till : Nat} {fin : Bool}

theorem exec_brk_traps (h : s.mine.brken = true) : Traps (.brk i) s 0x13 (0x4000 + i.setWidth 48) 0 := congrArg Host.Outcome.next (if_pos h)
theorem exec_brk_issues (h : s.mine.brken = false) : Issues (.brk i) s s := congrArg Host.Outcome.next (if_neg (by rw [h]; decide))

theorem exec_sleep_counting (hop : s.me.op = .sleep till fin) : exec (.sleep i) s = .next (if fin then s.issue else s) := by
  show execSleep i s = _
  rw [execSleep, hop]
  rfl
theorem exec_sleep_idle (hop : s.me.op = .idle) : exec (.sleep i) s =
    if i = 0 then .next s.issue
    else .next ((s.modMe fun b => { b with op := .sleep (s.tick + i.toNat) false }).enqueue (s.tick + i.toNat) s.here s.mine.cur 0
      .sleepExpiry) := by
  show execSleep i s = _
  rw [execSleep, hop]
  rfl
theorem exec_sleepExpiry (hop : (s.bank s.here s.evPrio).op = .sleep till false) (h : till ≤ s.tick) :
    exec .sleepExpiry s = .next (s.modBank s.here s.evPrio fun b => { b with op := .sleep till true }) := by
  refine congrArg _ (State.modBank_congr ?_)
  simp only [hop, if_pos h]
end

/-! ### LTRIG (R296) -/

section
variable {s : State} {i : Inst} (hrel : s.released .pkg = true) (hi : s.inst s.me.home s.me.inst = some i)
include hrel hi

theorem exec_ltrig : exec .ltrig s = .next
    ((if i.trig then s else (s.modLaunch s.me.lid fun l => { l with trig := l.trig + 1 }).pokeStarts).modInst s.me.home s.me.inst
      fun x => { x with trig := true }).issue := by
  show execLtrig s = _
  rw [execLtrig, if_pos hrel, hi]
  rfl
end

/-! ### MIGR (R117, R297) -/

section
variable {s : State} {a : Reg} {e : TlbEntry} {pa t : Nat} (hgo : s.translate (s.rd a) = .go e pa)
include hgo

theorem exec_migr_stays (h : s.migrTo pa = none) : Issues (.migr a) s (s.touch s.here e) := by
  show execMigr a s = _
  simp only [execMigr, hgo, h]
theorem exec_migr_to (h : s.migrTo pa = some t) : exec (.migr a) s = .next (if s.mine.hasCopy s.me.key then s.holdOp
    else (s.touch s.here e).issue.modMe fun b => { b with leaving := some (.migrate t) }) := by
  show execMigr a s = _
  simp only [execMigr, hgo, h]
end

/-- Settles O20: each instruction by the case of its state that the statement names. -/
theorem trapsSleepLaunchAndMigration : Obligations.TrapsSleepLaunchAndMigration := by
  refine ⟨fun s i => ⟨rfl, rfl, exec_brk_traps, exec_brk_issues⟩, fun s i till => ?_, fun s i hrel hi => ?_, fun s a e pa hgo => ?_⟩
  · refine ⟨fun hop hi => ?_, fun hop hi => ?_, exec_sleep_counting, exec_sleep_counting, ?_⟩
    · rw [Issues, exec_sleep_idle hop, if_pos hi]
    · rw [exec_sleep_idle hop, if_neg hi]
    · rintro p rfl hop htill
      exact exec_sleepExpiry hop htill
  · refine ⟨fun htrig => ?_, fun htrig => ?_⟩
    · rw [Issues, exec_ltrig hrel hi, if_pos htrig]
    · rw [Issues, exec_ltrig hrel hi, if_neg (by rw [htrig]; decide)]
  · refine ⟨exec_migr_stays hgo, fun t ht hcopy => ?_, fun t ht hcopy => ?_⟩
    · rw [exec_migr_to hgo ht, if_neg (by rw [hcopy]; decide)]
    · rw [Holds, exec_migr_to hgo ht, if_pos hcopy]

/-! ### RESUME (R298) -/

section
variable {s : State} {a b : Reg} {f : List Word}

/-- What RESUME does with the words of a record. -/
def State.resumeWith (a b : Reg) (s : State) (f : List Word) : Bool × State :=
  if s.resumeBad f (s.rd b).toNat then (false, s.trapHere 0x04 0 (s.rd a))
  else if s.released .pkg then (true, (s.shipResume f (s.rd b).toNat).issue)
  else (false, s.holdOp)

theorem exec_resume : exec (.resume a b) s = .next (s.readWords (s.rd a) 64 (State.resumeWith a b)) := rfl
theorem State.resumeWith_good (hbad : s.resumeBad f (s.rd b).toNat = false) (hrel : s.released .pkg = true) :
    s.resumeWith a b f = (true, (s.shipResume f (s.rd b).toNat).issue) := by
  rw [State.resumeWith, if_neg (by rw [hbad]; decide), if_pos hrel]
theorem State.resumeWith_bad (hbad : s.resumeBad f (s.rd b).toNat = true) : s.resumeWith a b f = (false, s.trapHere 0x04 0 (s.rd a)) :=
  if_pos hbad

/-- The words have come, and the bundle goes on without them being used up. -/
theorem State.readWords_unused {va : Word} {n first m : Nat} {k : State → List Word → Bool × State} {t : State}
    (hop : s.me.op = .gather first m) (hall : collected (s.grouped first m) = some (.ok f)) (hk : k s f = (false, t)) :
    s.readWords va n k = t := by
  simp only [State.readWords, hop, hall, hk, Bool.false_eq_true, if_false]
end

/-- Settles O22: the loads leave together, and what their words are decides. -/
theorem resuming : Obligations.Resuming := by
  intro s a b e pa first n f s1
  refine ⟨fun hop ⟨hgo, _⟩ hroute hpage htrap => ?_, fun hop => ⟨fun hall => ?_, fun hall => ⟨fun hbad hrel => ?_, fun hbad => ?_⟩⟩⟩
  · rw [Holds, exec_resume, State.readWords_begin hop hgo hroute hpage htrap]
  · rw [Holds, exec_resume, State.readWords_waits hop hall]
  · rw [exec_resume, State.readWords_collected hop hall (State.resumeWith_good hbad hrel)]
  · rw [Traps, exec_resume, State.readWords_unused hop hall (State.resumeWith_bad hbad)]

/-! ### Control registers (R285 to R289) -/

section
variable {s : State} {d a : Reg} {n : BitVec 14}

theorem exec_mfc (h : n.toNat < 0x100 ∨ isSvc s.here = true) : ResultC (.mfc d n) s d (s.mfcVal n.toNat) := by
  refine if_neg fun ⟨hn, hsvc⟩ => h.elim (Nat.not_lt.2 hn) fun h' => ?_
  rw [h'] at hsvc
  exact Bool.noConfusion hsvc
theorem exec_mfc_traps (hn : 0x100 ≤ n.toNat) (hsvc : isSvc s.here = false) : Traps (.mfc d n) s 0x02 0 0 := if_pos ⟨hn, hsvc⟩

theorem exec_mtc_above (hn : 0x100 ≤ n.toNat) : exec (.mtc a n) s =
    if isSvc s.here then .next s.issue else .next (s.trapHere 0x02 0 0) := if_pos hn
theorem exec_mtc_below (hn : n.toNat < 0x100) : exec (.mtc a n) s =
    if 0x040 ≤ n.toNat ∧ n.toNat ≤ 0x049 ∧ s.mine.arrayDone = false then .next s.holdOp
    else .next (s.mtcVal n.toNat (s.rd a)).issue := if_neg (Nat.not_le.2 hn)
theorem exec_mtc_issues (h : n.toNat < 0x040 ∨ (n.toNat < 0x100 ∧ (0x049 < n.toNat ∨ s.mine.arrayDone = true))) :
    Issues (.mtc a n) s (s.mtcVal n.toNat (s.rd a)) := by
  have hn : n.toNat < 0x100 := by omega
  rw [Issues, exec_mtc_below hn, if_neg]
  rintro ⟨hlo, hhi, hdone⟩
  rcases h with h | ⟨_, h | h⟩
  · omega
  · omega
  · rw [h] at hdone
    exact Bool.noConfusion hdone
end

section
variable {s : State} {n : Nat}

/-- A register that no event of a tick changes reads as it stands. -/
theorem State.seenReg_unwatched (hport : n < 0x010 ∨ 0x017 < n) (hn : seenRegs.contains n = false) : s.seenReg n = none := by
  have hp : (decide (0x010 ≤ n) && decide (n ≤ 0x017)) = false := by
    rw [Bool.and_eq_false_iff, decide_eq_false_iff_not, decide_eq_false_iff_not]
    omega
  simp only [State.seenReg, hp, hn]
  rfl
theorem State.mfcVal_seen {v : Word} (h : s.seenReg n = some v) : s.mfcVal n = v := by rw [State.mfcVal, h]; rfl
theorem State.mfcVal_unseen (h : s.seenReg n = none) : s.mfcVal n =
    ((s.bankReg s.here s.mine.cur n).or ((s.coreHeld s.here n).or (s.mine.arrayReg n))).getD 0 := by rw [State.mfcVal, h]; rfl
theorem State.mfcVal_unwatched (hport : n < 0x010 ∨ 0x017 < n) (hn : seenRegs.contains n = false) : s.mfcVal n =
    ((s.bankReg s.here s.mine.cur n).or ((s.coreHeld s.here n).or (s.mine.arrayReg n))).getD 0 :=
  State.mfcVal_unseen (State.seenReg_unwatched hport hn)

/-- There is no register at a number above 0x0FF (R286). -/
theorem State.mfcVal_above (hn : 0x100 ≤ n) : s.mfcVal n = 0 := by
  have hseen : seenRegs.contains n = false := by
    have hall : ∀ m ∈ seenRegs, m < 0x100 := by decide
    exact Bool.eq_false_iff.2 fun h => Nat.not_lt.2 hn (hall n (List.contains_iff_mem.1 h))
  have hbank : s.bankReg s.here s.mine.cur n = none := by
    simp only [State.bankReg]
    split
    case h_9 => exact if_neg (by omega)
    all_goals omega
  have hcore : s.coreHeld s.here n = none := by
    simp only [State.coreHeld]
    split
    case h_15 => rfl
    all_goals omega
  have harray : s.mine.arrayReg n = none := by
    simp only [Core.arrayReg]
    split
    case h_12 => rfl
    all_goals omega
  rw [State.mfcVal_unwatched (.inr (by omega)) hseen, hbank, hcore, harray]
  rfl
end

/-- The five bits of %status (R287). -/
theorem status_bits : ∀ (i : Fin 5) (p q r t u : Bool), (BitVec.ofNat 64 (bitN p + place (bitN q) 1 1 + place (bitN r) 1 2 +
    place (bitN t) 1 3 + place (bitN u) 1 4)).getLsbD i.val = [p, q, r, t, u].getD i.val false := by
  decide
theorem Core.status_getLsbD (k : Core) (p : Prio) (svc : Bool) (i : Fin 5) : (k.status p svc).getLsbD i.val =
    [p == .high, (k.bank p).anch, svc, k.brken, k.low.run == .suspended].getD i.val false := status_bits i ..

/-- Two bytes side by side are read back each (R325). -/
theorem extract_byte_pair (x y : BitVec 8) :
    (BitVec.ofNat 64 (x.toNat + place y.toNat 8 8)).extractLsb' 0 8 = x ∧
    (BitVec.ofNat 64 (x.toNat + place y.toNat 8 8)).extractLsb' 8 8 = y := by
  have hx := x.isLt
  have hy := y.isLt
  constructor <;> apply BitVec.eq_of_toNat_eq <;>
    simp only [BitVec.extractLsb'_toNat, BitVec.toNat_ofNat, Nat.shiftRight_eq_div_pow, place_eq_mul] <;> omega

/-- Settles O18: MFC and MTC by the number of the register, and each value by what holds it. -/
theorem controlRegisters : Obligations.ControlRegisters := by
  constructor
  · intro s d n
    refine ⟨exec_mfc, exec_mtc_issues, fun hn hsvc => ⟨State.mfcVal_above hn, ?_⟩, fun hn hsvc => ⟨exec_mfc_traps hn hsvc, ?_⟩,
      fun hlo hhi hdone => ?_⟩
    · rw [Issues, exec_mtc_above hn, if_pos hsvc]
    · rw [Traps, exec_mtc_above hn, if_neg (by rw [hsvc]; decide)]
    · rw [Holds, exec_mtc_below (by omega), if_pos ⟨hlo, hhi, hdone⟩]
  · intro s b k
    have unwatched (n : Nat) (hport : n < 0x010 ∨ 0x017 < n) (hn : seenRegs.contains n = false) := State.mfcVal_unwatched (s := s) hport hn
    refine ⟨fun _ _ => State.mfcVal_seen, fun h => State.mfcVal_unseen h, unwatched 0x006 (by decide) (by decide),
      unwatched 0x007 (by decide) (by decide), unwatched 0x008 (by decide) (by decide), unwatched 0x009 (by decide) (by decide),
      unwatched 0x00A (by decide) (by decide), unwatched 0x00B (by decide) (by decide), unwatched 0x021 (by decide) (by decide),
      unwatched 0x030 (by decide) (by decide), unwatched 0x032 (by decide) (by decide), unwatched 0x033 (by decide) (by decide),
      unwatched 0x037 (by decide) (by decide), fun h => State.mfcVal_unseen h, fun h => State.mfcVal_unseen h,
      unwatched 0x042 (by decide) (by decide), unwatched 0x043 (by decide) (by decide), unwatched 0x044 (by decide) (by decide),
      unwatched 0x045 (by decide) (by decide), unwatched 0x047 (by decide) (by decide), fun h => State.mfcVal_unseen h,
      unwatched 0x04A (by decide) (by decide), fun i => ?_, fun h => ?_⟩
    · rw [unwatched 0x000 (by decide) (by decide)]
      exact Core.status_getLsbD ..
    · rw [State.mfcVal_unseen h]
      exact extract_byte_pair ..

end Sys2Proof.Machine
end

section
/-!
SUPPORT. The barrier levels, their arrivals and releases, and the statement about them (18_messages_barriers R324 to R329).
-/
namespace Sys2Proof.Machine

/-! ### ARR bits (R324, R325) -/

theorem levelIx_lt (l : Level) : levelIx l < 8 := by cases l <;> decide
theorem levelIx_injective : Function.Injective levelIx :=
  Function.LeftInverse.injective (g := fun i => allLevels.getD i .quad) fun l => by cases l <;> rfl

theorem getLsbD_levelBit (l m : Level) : (BitVec.ofNat 8 (2 ^ levelIx l)).getLsbD (levelIx m) = decide (m = l) := by
  rw [BitVec.getLsbD_ofNat, Nat.testBit_two_pow, decide_eq_true (levelIx_lt m), Bool.true_and]
  exact decide_eq_decide.2 ⟨fun h => (levelIx_injective h).symm, fun h => congrArg levelIx h.symm⟩
/-- To clear the bit of one level leaves the others. -/
theorem Core.arrived_clear (k : Core) (l m : Level) : (k.setArr l false).arrived m = (k.arrived m && !decide (m = l)) := by
  show (k.barArr &&& ~~~ BitVec.ofNat 8 (2 ^ levelIx l)).getLsbD (levelIx m) = _
  rw [BitVec.getLsbD_and, BitVec.getLsbD_not, getLsbD_levelBit, decide_eq_true (levelIx_lt m), Bool.true_and]
  rfl

/-! ### The barrier instructions (R327, R328) -/

section
variable {s : State} {l : Level}

theorem exec_bar_service (h : isSvc s.here = true) : Issues (.bar l) s s := congrArg Host.Outcome.next (if_pos h)
theorem exec_bara_service (h : isSvc s.here = true) : Issues (.bara l) s s := congrArg Host.Outcome.next (if_pos h)
theorem exec_barw_service (h : isSvc s.here = true) : Issues (.barw l) s s := congrArg Host.Outcome.next (if_pos h)

section
variable (h : isSvc s.here = false)
include h

/-- A BAR that has arrived waits, and one that has not arrives. -/
theorem exec_bar_own {q : Level × Bool} (hown : s.me.arrOwn = some q) : exec (.bar l) s = .next (s.waitBar l true) := by
  have hexec : exec (.bar l) s = execBar l s := rfl
  rw [hexec, execBar, if_neg (by rw [h]; decide), if_pos (by rw [hown]; rfl)]
theorem exec_bar_first (hown : s.me.arrOwn = none) : exec (.bar l) s =
    .next (s.arriveBar l fun st => (st.modMe fun b => { b with arrOwn := some (l, false) }).holdBar l (.wait true)) := by
  have hexec : exec (.bar l) s = execBar l s := rfl
  rw [hexec, execBar, if_neg (by rw [h]; decide), if_neg (by rw [hown]; decide)]
theorem exec_bara : exec (.bara l) s = .next (s.arriveBar l State.issue) := congrArg Host.Outcome.next (if_neg (by rw [h]; decide))
theorem exec_barw : exec (.barw l) s = .next (s.waitBar l false) := congrArg Host.Outcome.next (if_neg (by rw [h]; decide))
end

theorem State.arriveBar_arrives {go : State → State} (harr : s.mine.arrived l = false) (hrel : s.released (levelScope l) = true) :
    s.arriveBar l go = go ((s.modMine fun k => k.setArr l true).checkPhase l (s.mine.lid?.getD 0) (barGroup l s.here)) :=
  if_neg (by rw [harr, hrel]; decide)

section
variable {own : Bool}

theorem State.waitBar_over (harr : s.mine.arrived l = false) : s.waitBar l own = s.issue := if_neg (by rw [harr, Bool.false_and]; decide)
theorem State.waitBar_released (hown : s.me.arrOwn = some (l, true)) : s.waitBar l own = s.issue := by
  rw [State.waitBar, hown, bne_self_eq_false, Bool.and_false]
  rfl
theorem State.waitBar_held (harr : s.mine.arrived l = true) (hown : s.me.arrOwn ≠ some (l, true)) : s.waitBar l own = s.holdBar l (.wait own) :=
  if_pos (by rw [harr, bne_iff_ne.2 hown]; rfl)
end
end

/-! ### The release (R327) -/

/-- What the release of a phase does at a member that had arrived. -/
def State.releaseAt (lv : Level) (s : State) (c : Nat) : State :=
  s.modCore c fun k => { (k.setArr lv false) with
    barSense := k.barSense ^^^ BitVec.ofNat 8 (2 ^ levelIx lv), low := k.low.phaseOver lv, high := k.high.phaseOver lv }
/-- The members at which a phase releases. -/
def State.waitsAt (s : State) (lv : Level) (lid : BitVec 32) (grp c : Nat) : Bool :=
  (s.core c).lid? == some lid && barGroup lv c == grp && (s.core c).arrived lv

section
variable {s : State} {lv : Level}

theorem State.arrived_releaseAt_same (c : Nat) : ((s.releaseAt lv c).core c).arrived lv = false := by
  have hclear : ((s.core c).setArr lv false).arrived lv = false := by rw [Core.arrived_clear, decide_eq_true rfl]; exact Bool.and_false _
  rw [State.releaseAt, State.core_modCore_same]
  exact hclear
/-- A member that has been released stays so, and one of the list is released. -/
theorem State.arrived_foldl_releaseAt {c : Nat} (cs : List Nat) (h : (s.core c).arrived lv = false ∨ c ∈ cs) :
    ((cs.foldl (State.releaseAt lv) s).core c).arrived lv = false := by
  induction cs generalizing s with
  | nil => exact h.resolve_right List.not_mem_nil
  | cons d cs ih =>
    refine ih ?_
    by_cases hd : c = d
    · rw [hd]
      exact .inl (State.arrived_releaseAt_same d)
    · refine h.imp (fun h => ?_) fun h => (List.mem_cons.1 h).resolve_left hd
      rw [State.releaseAt, State.core_modCore_ne s _ hd]
      exact h
theorem State.foldl_releaseAt_mem (cs : List Nat) : (cs.foldl (State.releaseAt lv) s).mem = s.mem :=
  List.foldlRecOn (motive := fun t : State => t.mem = s.mem) _ _ rfl fun _ ht _ _ => ht

theorem exec_barrierRelease {lid : BitVec 32} {grp : Nat} {x : Launch} (hx : s.launchOf lid = some x) (hst : x.st ≠ .preempted) :
    exec (.barrierRelease lv lid grp) s = .next ((x.cores.filter (s.waitsAt lv lid grp)).foldl (State.releaseAt lv) s) := by
  have hexec : exec (.barrierRelease lv lid grp) s = execBarrierRelease lv lid grp s := rfl
  rw [hexec, execBarrierRelease, hx]
  exact congrArg _ (if_neg hst)
end

/-! ### Withdrawal (R325) -/

/-- What a write of WD bits does at one level. -/
def State.withdrawBit (c : Nat) (v : Word) (s : State) (l : Level) : State :=
  if bitOf v (16 + levelIx l) && (s.core c).arrived l then s.withdraw c l else s

section
variable {s : State} {c : Nat} {v : Word} {l : Level}

theorem exec_barphWithdraw : exec (.barphWithdraw c v) s = .next (allLevels.foldl (State.withdrawBit c v) s) := rfl
theorem State.withdraw_stands (h : s.phaseDone l ((s.core c).lid?.getD 0) (barGroup l c) = true) : s.withdraw c l = s := if_pos h
theorem State.core_withdraw (h : s.phaseDone l ((s.core c).lid?.getD 0) (barGroup l c) = false) :
    (s.withdraw c l).core c = { ((s.core c).setArr l false) with low := (s.core c).low.phaseOver l, high := (s.core c).high.phaseOver l } := by
  rw [State.withdraw, if_neg (by rw [h]; decide), State.core_modCore_same]
/-- Whether a phase is complete does not depend on the withdrawal of another. -/
theorem State.phaseDone_withdrawBit (m : Level) (lid : BitVec 32) (g : Nat) :
    (s.withdrawBit c v m).phaseDone l lid g = s.phaseDone l lid g := by
  rw [State.withdrawBit]
  split
  · rw [State.withdraw]
    split <;> rfl
  · rfl
theorem State.lid_withdrawBit (m : Level) : ((s.withdrawBit c v m).core c).lid? = (s.core c).lid? := by
  rw [State.withdrawBit]
  split
  · cases h : s.phaseDone m ((s.core c).lid?.getD 0) (barGroup m c)
    · rw [State.core_withdraw h]; rfl
    · rw [State.withdraw_stands h]
  · rfl
/-- An arrival at a level is over where its WD bit is written and its phase is not complete. -/
theorem State.arrived_withdrawBit (m : Level) : ((s.withdrawBit c v m).core c).arrived l = ((s.core c).arrived l &&
    !(decide (l = m) && bitOf v (16 + levelIx m) && !s.phaseDone m ((s.core c).lid?.getD 0) (barGroup m c))) := by
  rw [State.withdrawBit]
  split
  case isTrue hbit =>
    obtain ⟨hbit, -⟩ := Bool.and_eq_true_iff.1 hbit
    rw [hbit, Bool.and_true]
    cases h : s.phaseDone m ((s.core c).lid?.getD 0) (barGroup m c)
    · rw [State.core_withdraw h, Bool.not_false, Bool.and_true]
      exact Core.arrived_clear ..
    · rw [State.withdraw_stands h, Bool.not_true, Bool.and_false, Bool.not_false, Bool.and_true]
  case isFalse hbit =>
    by_cases hl : l = m
    · subst hl
      cases harr : (s.core c).arrived l
      · rfl
      · cases hb : bitOf v (16 + levelIx l)
        · rw [Bool.and_false]; rfl
        · exact absurd (by rw [hb, harr]; rfl) hbit
    · rw [decide_eq_false hl]
      exact (Bool.and_true _).symm

theorem State.arrived_foldl_withdraw_kept (hv : bitOf v (16 + levelIx l) = false) (ls : List Level) :
    ((ls.foldl (State.withdrawBit c v) s).core c).arrived l = (s.core c).arrived l := by
  refine List.foldlRecOn (motive := fun t : State => (t.core c).arrived l = (s.core c).arrived l) _ _ rfl fun t ht m _ => ?_
  rw [State.arrived_withdrawBit, ← ht]
  by_cases hl : l = m
  · rw [← hl, hv, Bool.and_false]
    exact Bool.and_true _
  · rw [decide_eq_false hl]
    exact Bool.and_true _
theorem State.arrived_foldl_withdraw_over (hv : bitOf v (16 + levelIx l) = true) (ls : List Level)
    (hphase : s.phaseDone l ((s.core c).lid?.getD 0) (barGroup l c) = false) (h : (s.core c).arrived l = false ∨ l ∈ ls) :
    ((ls.foldl (State.withdrawBit c v) s).core c).arrived l = false := by
  induction ls generalizing s with
  | nil => exact h.resolve_right List.not_mem_nil
  | cons m ls ih =>
    refine ih (by rw [State.phaseDone_withdrawBit, State.lid_withdrawBit, hphase]) ?_
    rw [State.arrived_withdrawBit]
    by_cases hl : l = m
    · rw [← hl, hv, hphase, decide_eq_true rfl]
      exact .inl (Bool.and_false _)
    · refine h.imp (fun h => ?_) fun h => (List.mem_cons.1 h).resolve_left hl
      rw [h, Bool.false_and]
theorem mem_allLevels (l : Level) : l ∈ allLevels := by cases l <;> decide
end

/-! ### The bound (R328) -/

theorem exec_barrierTimeout {s : State} (hrun : (s.bank s.here s.evPrio).run = .running) (hleaving : (s.bank s.here s.evPrio).leaving = none)
    (hlim : (s.bank s.here s.evPrio).barb ≠ 0) (hheld : (s.bank s.here s.evPrio).barb.toNat * 64 ≤ (s.bank s.here s.evPrio).barHeld) :
    exec .barrierTimeout s = .next (if s.barStuck s.here s.evPrio then s.takeTrap s.here s.evPrio 0x09 0 0 else s) := by
  have hne : (s.bank s.here s.evPrio).barb.toNat ≠ 0 := fun h => hlim (BitVec.eq_of_toNat_eq h)
  have hexec : exec .barrierTimeout s = execBarrierTimeout s := rfl
  rw [hexec, execBarrierTimeout]
  refine congrArg Host.Outcome.next (if_congr ?_ rfl rfl)
  exact ⟨fun ⟨_, _, _, _, h⟩ => h, fun h => ⟨hrun, hleaving, by omega, hheld, h⟩⟩

/-- Settles O39: the instructions by the ARR bit and the bundle's own arrival, the release and the withdrawal by their members and
levels. -/
theorem barriers : Obligations.Barriers := by
  constructor
  · intro s l lid arrives
    refine ⟨fun h => ⟨exec_bar_service h, exec_bara_service h, exec_barw_service h⟩, fun h harr hrel => ⟨?_, fun hown => ?_⟩,
      fun h harr => ⟨?_, fun q hown => ?_⟩, fun h hown => ?_, fun h harr => ⟨fun hown => ?_, fun hown => ?_⟩,
      fun lid c g ⟨x, hx, hst, hc⟩ hlid hg harr => ⟨_, exec_barrierRelease hx hst, ?_, State.foldl_releaseAt_mem _⟩⟩
    · rw [Issues, exec_bara h, State.arriveBar_arrives harr hrel]
    · rw [exec_bar_first h hown, State.arriveBar_arrives harr hrel]
    · rw [Issues, exec_barw h, State.waitBar_over harr]
    · rw [Issues, exec_bar_own h hown, State.waitBar_over harr]
    · rw [Issues, exec_bar_own h hown, State.waitBar_released hown]
    · rw [exec_barw h, State.waitBar_held harr (by rw [hown]; exact (Option.some_ne_none _).symm)]
    · rw [exec_bar_own h hown, State.waitBar_held harr (by rw [hown]; simp)]
    · refine State.arrived_foldl_releaseAt _ (.inr (List.mem_filter.2 ⟨hc, ?_⟩))
      rw [State.waitsAt, hlid, hg, harr]
      simp
  · intro s c l v src lid
    refine ⟨⟨_, exec_barphWithdraw, fun hv hphase => ?_, fun hv => ?_⟩, fun hsrc => ?_, fun hrun hleaving hlim hheld => ⟨fun h => ?_, fun h => ?_⟩⟩
    · exact State.arrived_foldl_withdraw_over hv _ hphase (.inr (mem_allLevels l))
    · exact State.arrived_foldl_withdraw_kept hv _
    · exact congrArg Host.Outcome.next (if_neg hsrc)
    · rw [exec_barrierTimeout hrun hleaving hlim hheld, if_pos h]
    · rw [exec_barrierTimeout hrun hleaving hlim hheld, if_neg (by rw [h]; decide)]

end Sys2Proof.Machine
end

section
/-!
SUPPORT. The start of a copy and the wait for copies, and the statement about them (19_copy_rings R330 to R332, R336).
-/
namespace Sys2Proof.Machine

/-! ### The alignment checks (R332) -/

/-- Whether a word is a multiple of 8. -/
def aligned8 (v : Word) : Prop := v.toNat % 8 = 0

theorem misaligned_eight (l : List Word) : misaligned (l.map fun v => (v, 8)) = l.find? fun v => v.toNat % 8 != 0 := by
  rw [misaligned, List.find?_map, Option.map_map]
  exact Option.map_id' ..
theorem find_misaligned_none {l : List Word} (h : ∀ v ∈ l, aligned8 v) : (l.find? fun v => v.toNat % 8 != 0) = none :=
  List.find?_eq_none.2 fun v hv => by rw [bne_iff_ne]; exact not_not_intro (h v hv)

section
variable {s : State} {d : Reg} {l : List Word} {f : Nat → Copy} {v : Word} {id : Nat}

theorem State.startCopy_misaligned (h : (l.find? fun v => v.toNat % 8 != 0) = some v) : s.startCopy d l f = s.trapHere 0x03 0 v := by
  rw [State.startCopy, misaligned_eight, h]
variable (h : ∀ v ∈ l, aligned8 v)
include h
theorem State.startCopy_full (hfree : s.mine.freeCopy (copyLimit s.here) = none) : s.startCopy d l f = s := by
  rw [State.startCopy, misaligned_eight, find_misaligned_none h]
  simp only [hfree, State.hold]
theorem State.startCopy_starts (hfree : s.mine.freeCopy (copyLimit s.here) = some id) : s.startCopy d l f =
    if (f id).count = 0 then
      ((((s.modMine fun k => { k with copies := k.copies ++ [f id] }).wrC 1 d (BitVec.ofNat 64 id)).issue).modCopy s.here id fun y =>
        { y with emptied := true }).enqueue (s.tick + 1) s.here .low id .copyCompletionFill
    else (((s.modMine fun k => { k with copies := k.copies ++ [f id] }).wrC 1 d (BitVec.ofNat 64 id)).issue).kickCopies s.here (s.tick + 2) := by
  rw [State.startCopy, misaligned_eight, find_misaligned_none h]
  simp only [hfree]
end

/-! ### CPY and CPY2 (R331) -/

section
variable (s : State) (d a b c w st : Reg) (m : CopyMode) (sc : Scope) (z : Size) (tr : Bool)

/-- The copy that CPY describes, under an id. -/
def State.plainCopy (id : Nat) : Copy := { s.newCopy a b w m sc id with cols := (s.rd c).toNat }
/-- The copy that CPY2 describes, under an id: its columns and rows in one register, its strides in another. -/
def State.gridCopy (id : Nat) : Copy :=
  { s.newCopy a b w m sc id with
    twoD := true, cols := (s.rd c).toNat % 65536, rows := (s.rd c).toNat / 65536 % 65536,
    sstr := (((s.rd st).setWidth 32).signExtend 64).toInt, dstr := (((s.rd st >>> 32).setWidth 32).signExtend 64).toInt, esz := z, tr := tr }
/-- The operands of CPY that must be aligned. -/
def State.plainChecks : List Word := [s.rd a, s.rd b, if w = 0 then 0 else s.rd w]
/-- Those of CPY2. -/
def State.gridChecks : List Word :=
  s.plainChecks a b w ++ [((s.rd st).setWidth 32).signExtend 64, ((s.rd st >>> 32).setWidth 32).signExtend 64,
    BitVec.ofNat 64 ((s.rd c).toNat % 65536 * z.bytes)] ++
    (if tr = true then [BitVec.ofNat 64 ((s.rd c).toNat / 65536 % 65536 * z.bytes)] else [])

theorem State.completion_getD : (s.completion w).getD 0 = if w = 0 then 0 else s.rd w := by
  rw [State.completion]
  split <;> rfl
theorem exec_cpy : exec (.cpy d a b c w m sc) s = .next (s.startCopy d (s.plainChecks a b w) (s.plainCopy a b c w m sc)) := by
  rw [State.plainChecks, ← State.completion_getD]
  rfl
theorem exec_cpy2 : exec (.cpy2 d a b c w st m sc z tr) s =
    .next (s.startCopy d (s.gridChecks a b c w st z tr) (s.gridCopy a b c w st m sc z tr)) := by
  have hrows : field (s.rd c) 31 16 = (s.rd c).toNat / 65536 % 65536 := congrArg (· % 65536) (Nat.shiftRight_eq_div_pow ..)
  have hexec : exec (.cpy2 d a b c w st m sc z tr) s = execCpy2 d a b c w st m sc z tr s := rfl
  rw [hexec, execCpy2, hrows, State.completion_getD]
  rfl

variable {s a b w}

theorem State.plainChecks_aligned (ha : aligned8 (s.rd a)) (hb : aligned8 (s.rd b)) (hw : w = 0 ∨ aligned8 (s.rd w)) :
    ∀ v ∈ s.plainChecks a b w, aligned8 v := by
  have hfill : aligned8 (if w = 0 then 0 else s.rd w) := by
    split
    · rfl
    next hne => exact hw.resolve_left hne
  simp only [State.plainChecks, List.mem_cons, List.not_mem_nil, or_false, forall_eq_or_imp, forall_eq]
  exact ⟨ha, hb, hfill⟩
theorem State.gridChecks_aligned {c st : Reg} {z : Size} {tr : Bool} (hplain : ∀ v ∈ s.plainChecks a b w, aligned8 v)
    (hss : aligned8 (((s.rd st).setWidth 32).signExtend 64)) (hds : aligned8 (((s.rd st >>> 32).setWidth 32).signExtend 64))
    (hcs : aligned8 (BitVec.ofNat 64 ((s.rd c).toNat % 65536 * z.bytes)))
    (hrs : tr = true → aligned8 (BitVec.ofNat 64 ((s.rd c).toNat / 65536 % 65536 * z.bytes))) :
    ∀ v ∈ s.gridChecks a b c w st z tr, aligned8 v := by
  have hrows : ∀ v ∈ (if tr = true then [BitVec.ofNat 64 ((s.rd c).toNat / 65536 % 65536 * z.bytes)] else []), aligned8 v := by
    split
    next htr => exact fun v hv => (List.mem_singleton.1 hv) ▸ hrs htr
    · exact fun v hv => absurd hv List.not_mem_nil
  have hmiddle : ∀ v ∈ [((s.rd st).setWidth 32).signExtend 64, ((s.rd st >>> 32).setWidth 32).signExtend 64,
      BitVec.ofNat 64 ((s.rd c).toNat % 65536 * z.bytes)], aligned8 v := by
    simp only [List.mem_cons, List.not_mem_nil, or_false, forall_eq_or_imp, forall_eq]
    exact ⟨hss, hds, hcs⟩
  intro v hv
  rcases List.mem_append.1 hv with hv | hv
  · exact (List.mem_append.1 hv).elim (hplain v) (hmiddle v)
  · exact hrows v hv
end

/-! ### CPYW (R336) -/

section
variable {s : State} {mask : BitVec 8}

theorem exec_cpyw_waits {x : Copy} (hx : x ∈ s.attached mask) (h : x.done = false) : Holds (.cpyw mask) s s :=
  congrArg Host.Outcome.next (if_pos (List.any_eq_true.2 ⟨x, hx, by rw [h]; rfl⟩))
theorem exec_cpyw_over (h : ∀ x ∈ s.attached mask, x.done = true) : exec (.cpyw mask) s = .next (
    match lowestStop (s.attached mask) with
    | some t => s.trapHere t.cause t.info t.faddr
    | none => s.issue) := by
  refine congrArg Host.Outcome.next (if_neg ?_)
  rw [List.any_eq_true]
  rintro ⟨x, hx, hdone⟩
  rw [h x hx] at hdone
  exact Bool.noConfusion hdone
theorem lowestStop_nil : lowestStop [] = none := rfl
end

/-- Settles O40: both copies start by `State.startCopy`, of the operands and with the parameters that the statement names. -/
theorem copiesStart : Obligations.CopiesStart := by
  intro s d a b c w st m sc z tr id mask cols rows ss ds one two begun put none_ ok plain cs rs bad ops1 ops2 free
  have hplain : plain → ∀ v ∈ s.plainChecks a b w, aligned8 v := fun ⟨ha, hb, hw⟩ => State.plainChecks_aligned ha hb hw
  have hgrid : plain → ok ss → ok ds → ok cs → (tr = true → ok rs) → ∀ v ∈ s.gridChecks a b c w st z tr, aligned8 v :=
    fun h hss hds hcs hrs => State.gridChecks_aligned (hplain h) hss hds hcs hrs
  refine ⟨fun hfree h => ?_, fun hfree h hss hds hcs hrs => ?_, fun v hv => ?_, fun v hv => ?_, rfl, fun h hfree => ⟨?_, fun hss hds hcs hrs => ?_⟩,
    fun hnone => ?_, fun ⟨x, hx, hdone⟩ => exec_cpyw_waits hx hdone, fun t hdone ht => ?_⟩
  · rw [exec_cpy, State.startCopy_starts (hplain h) hfree]
    rfl
  · rw [exec_cpy2, State.startCopy_starts (hgrid h hss hds hcs hrs) hfree]
    rfl
  · rw [Traps, exec_cpy, State.startCopy_misaligned (l := s.plainChecks a b w) hv]
  · rw [Traps, exec_cpy2, State.startCopy_misaligned (l := s.gridChecks a b c w st z tr) hv]
  · rw [exec_cpy, State.startCopy_full (hplain h) hfree]
  · rw [exec_cpy2, State.startCopy_full (hgrid h hss hds hcs hrs) hfree]
  · rw [Issues, exec_cpyw_over (by rw [hnone]; exact fun x hx => absurd hx List.not_mem_nil), hnone, lowestStop_nil]
  · rw [Traps, exec_cpyw_over hdone, ht]

end Sys2Proof.Machine
end

section
/-!
SUPPORT. The ring instructions, pushes and the freeing of slots, and the statement about them (19_copy_rings R340 to R345).
-/
namespace Sys2Proof.Machine

/-! ### RCFG, RPOP, RWAIT, RFREE and RQ (R340, R342 to R344) -/

section
variable {s : State} {h : RingNo} {d a b : Reg} {n : BitVec 6} {cond : RingCond} {sel : Fin 5}

theorem exec_rcfg : exec (.rcfg h a b) s = .next (
    if (s.mine.ring h).filled ≠ 0 ∨ (s.mine.ring h).held ≠ 0 ∨ (s.mine.ring h).pend ≠ 0 ∨ s.folds s.here h = true ∨
      ringBad (ringOf (s.rd a) (s.rd b)) = true then s.trapHere 0x11 0 0
    else (s.modRing s.here h fun _ => ringOf (s.rd a) (s.rd b)).issue) := rfl
theorem exec_rpop : exec (.rpop h d) s = .next (
    if (s.mine.ring h).valid = false ∨ s.folds s.here h = true then s.trapHere 0x11 0 0
    else if (s.mine.ring h).filled = 0 then (s.wrC 1 d 0x8000000000000000).issue
    else ((s.modRing s.here h Ring.pop).wrC 1 d ((s.mine.ring h).slot (s.mine.ring h).head.toNat)).issue) := rfl
theorem exec_rwait : exec (.rwait h n cond) s = .next (
    if (s.mine.ring h).valid = false then s.trapHere 0x11 0 0
    else if (s.mine.ring h).meets (n.toNat + 1) cond then s.issue else s.holdOp) := rfl
theorem exec_rfree : exec (.rfree h n) s = .next (
    if (s.mine.ring h).valid = false ∨ (s.mine.ring h).held.toNat < n.toNat + 1 ∨ s.folds s.here h = true then s.trapHere 0x11 0 0
    else (s.freeSlots s.here s.mine.cur false h (n.toNat + 1) s.tick).issue) := rfl
theorem exec_rq : exec (.rq h d sel) s = .next (
    if (s.mine.ring h).valid = false then s.trapHere 0x11 0 0 else (s.wrC 1 d ((s.mine.ring h).query sel.val)).issue) := rfl

theorem exec_rcfg_puts (hfilled : (s.mine.ring h).filled = 0) (hheld : (s.mine.ring h).held = 0) (hpend : (s.mine.ring h).pend = 0)
    (hfold : s.folds s.here h = false) (hbad : ringBad (ringOf (s.rd a) (s.rd b)) = false) :
    Issues (.rcfg h a b) s (s.modRing s.here h fun _ => ringOf (s.rd a) (s.rd b)) := by
  rw [Issues, exec_rcfg, hfilled, hheld, hpend, hfold, hbad, if_neg (by decide)]
theorem exec_rcfg_traps (hrefused : (s.mine.ring h).filled ≠ 0 ∨ (s.mine.ring h).held ≠ 0 ∨ (s.mine.ring h).pend ≠ 0 ∨
    ringBad (ringOf (s.rd a) (s.rd b)) = true) : Traps (.rcfg h a b) s 0x11 0 0 :=
  congrArg Host.Outcome.next (if_pos (hrefused.imp_right (Or.imp_right (Or.imp_right Or.inr))))

section
variable (hv : (s.mine.ring h).valid = true)
include hv

theorem exec_rwait_valid : exec (.rwait h n cond) s = .next (if (s.mine.ring h).meets (n.toNat + 1) cond then s.issue else s.holdOp) := by
  rw [exec_rwait, hv, if_neg (by decide)]
theorem exec_rq_valid : ResultC (.rq h d sel) s d ((s.mine.ring h).query sel.val) := by
  rw [ResultC, exec_rq, hv, if_neg (by decide)]

variable (hfold : s.folds s.here h = false)
include hfold

theorem exec_rpop_valid : exec (.rpop h d) s = .next (
    if (s.mine.ring h).filled = 0 then (s.wrC 1 d 0x8000000000000000).issue
    else ((s.modRing s.here h Ring.pop).wrC 1 d ((s.mine.ring h).slot (s.mine.ring h).head.toNat)).issue) := by
  rw [exec_rpop, hv, hfold]
  exact congrArg _ (if_neg (by decide))
theorem exec_rfree_held (hn : n.toNat < (s.mine.ring h).held.toNat) :
    Issues (.rfree h n) s (s.freeSlots s.here s.mine.cur false h (n.toNat + 1) s.tick) := by
  have hgo : ¬ ((s.mine.ring h).valid = false ∨ (s.mine.ring h).held.toNat < n.toNat + 1 ∨ s.folds s.here h = true) := by
    rw [hv, hfold]
    rintro (h' | h' | h')
    · exact Bool.noConfusion h'
    · omega
    · exact Bool.noConfusion h'
  rw [Issues, exec_rfree, if_neg hgo]
end
theorem exec_rfree_traps (hn : (s.mine.ring h).held.toNat ≤ n.toNat) : Traps (.rfree h n) s 0x11 0 0 :=
  congrArg Host.Outcome.next (if_pos (.inr (.inl (Nat.lt_succ_of_le hn))))

/-- A ring that is not there (R338). -/
theorem exec_rings_invalid (hv : (s.mine.ring h).valid = false) : Traps (.rpop h d) s 0x11 0 0 ∧ Traps (.rfree h n) s 0x11 0 0 ∧
    Traps (.rwait h n cond) s 0x11 0 0 ∧ Traps (.rq h d sel) s 0x11 0 0 := by
  refine ⟨?_, ?_, ?_, ?_⟩
  · rw [Traps, exec_rpop, if_pos (.inl hv)]
  · rw [Traps, exec_rfree, if_pos (.inl hv)]
  · rw [Traps, exec_rwait, if_pos hv]
  · rw [Traps, exec_rq, if_pos hv]
end

/-! ### RPUSH (R341) -/

section
variable {s : State} {h : RingNo} {a : Reg} {rem : Bool} {n : Nat} {x : MsgAnswer}

theorem exec_rpush_answered (hop : s.me.op = .send n (.answered x)) : exec (.rpush h rem a) s =
    .next (s.pushAnswered h rem (s.pushAddr rem a) n x) := by
  have hpush : exec (.rpush h rem a) s = execRpush h rem a s := rfl
  simp only [hpush, execRpush, hop]
theorem exec_rpush_noRing (hop : s.me.op = .idle) (hv : (s.mine.ring h).valid = false) : Traps (.rpush h false a) s 0x11 0 0 := by
  have hpush : exec (.rpush h false a) s = execRpush h false a s := rfl
  have hgo : (!false && !(s.mine.ring h).valid) = true := by rw [hv]; rfl
  simp only [Traps, hpush, execRpush, hop]
  rw [if_pos hgo]
/-- A refusal inside the package, of a firing whose attempts are spent. -/
theorem State.pushAnswered_spent {addr : Word} (hnear : s.portFar addr = false) (hn : n = s.me.rbud.toNat) (hbud : s.me.rbud ≠ 0xFFFF) :
    s.pushAnswered h rem addr n .refuse = s.trapHere 0x11 0 0 := by
  simp only [State.pushAnswered, hnear, Bool.false_eq_true, if_false]
  exact if_pos ⟨hn, hbud⟩
end

/-! ### The freeing of a slot (R343) -/

section
variable (s : State)

/-- The ring whose slot the event frees. -/
def State.freedRing : RingNo := ⟨s.evNum / 131072 % 8, Nat.mod_lt _ (by decide)⟩
/-- The slot that it frees. -/
def State.freedSlot : Nat := s.evNum / 2048 % 64
/-- The words of the slot's 64 bytes that are emptied next. -/
def State.freedWords : List Word := ((s.core s.here).ring s.freedRing).lineWords s.freedSlot (s.evNum % 2048)
/-- The freeing goes on in the next tick. -/
def State.freedAgain (t : State) (n : Nat) : State := t.enqueue (s.tick + 1) s.here s.evPrio n .ringSlotFreed

variable {s} (hpend : ((s.core s.here).ring s.freedRing).pend ≠ 0)
include hpend

theorem exec_ringSlotFreed_waits (hw : s.freeWaits s.here s.evPrio s.evNum = true) :
    exec .ringSlotFreed s = .next (s.freedAgain s s.evNum) :=
  congrArg Host.Outcome.next ((if_neg hpend).trans (if_pos hw))

variable (hw : s.freeWaits s.here s.evPrio s.evNum = false)
include hw

/-- Behind the accesses before its RFREE, a freeing goes on by what is left to empty. -/
theorem exec_ringSlotFreed_goes : exec .ringSlotFreed s = .next (
    if !((s.core s.here).ring s.freedRing).fe || decide (((s.core s.here).ring s.freedRing).lines ≤ s.evNum % 2048) then
      (if ((s.core s.here).ring s.freedRing).oldest s.freedSlot && s.slotPerformed s.here s.freedRing s.freedSlot then
        s.slotFree s.here s.freedRing ((s.core s.here).lid?.getD 0) else s.freedAgain s s.evNum)
    else if s.freeAhead s.here s.evNum || s.freeSent s.here then s.freedAgain s s.evNum
    else match s.emptyReach s.here ((s.core s.here).lid?.getD 0) s.freedWords with
      | (false, s1) => s.freedAgain s1 s.evNum
      | (true, s1) => s.freedAgain (s1.emptyWords s.here s.freedRing ((s.core s.here).lid?.getD 0) s.freedWords) (s.evNum + 1)) :=
  congrArg Host.Outcome.next ((if_neg hpend).trans (if_neg (by rw [hw]; decide)))

theorem exec_ringSlotFreed_emptied
    (hdone : ((s.core s.here).ring s.freedRing).fe = false ∨ ((s.core s.here).ring s.freedRing).lines ≤ s.evNum % 2048) :
    exec .ringSlotFreed s = .next (
      if ((s.core s.here).ring s.freedRing).oldest s.freedSlot && s.slotPerformed s.here s.freedRing s.freedSlot then
        s.slotFree s.here s.freedRing ((s.core s.here).lid?.getD 0) else s.freedAgain s s.evNum) := by
  rw [exec_ringSlotFreed_goes hpend hw, if_pos]
  rcases hdone with h | h
  · rw [h]; rfl
  · rw [decide_eq_true h, Bool.or_true]

variable (hfe : ((s.core s.here).ring s.freedRing).fe = true) (hline : s.evNum % 2048 < ((s.core s.here).ring s.freedRing).lines)
include hfe hline

theorem exec_ringSlotFreed_left : exec .ringSlotFreed s = .next (
    if s.freeAhead s.here s.evNum || s.freeSent s.here then s.freedAgain s s.evNum
    else match s.emptyReach s.here ((s.core s.here).lid?.getD 0) s.freedWords with
      | (false, s1) => s.freedAgain s1 s.evNum
      | (true, s1) => s.freedAgain (s1.emptyWords s.here s.freedRing ((s.core s.here).lid?.getD 0) s.freedWords) (s.evNum + 1)) := by
  rw [exec_ringSlotFreed_goes hpend hw, hfe, decide_eq_false (Nat.not_le.2 hline), if_neg (by decide)]
end

/-- Settles O42: the instructions by what the ring holds, RPUSH by its answer, and the freeing of a slot line by line. -/
theorem rings : Obligations.Rings := by
  constructor
  · intro s h d a b n cond sel r
    refine ⟨exec_rcfg_puts, exec_rcfg_traps, fun hv hfold => ⟨fun hfilled => ?_, fun hfilled => ?_, exec_rfree_held hv hfold, exec_rfree_traps⟩,
      fun hv => ⟨fun hmeets => ?_, fun hmeets => ?_, exec_rq_valid hv⟩, exec_rings_invalid⟩
    · rw [ResultC, exec_rpop_valid hv hfold, if_pos hfilled]
    · rw [Issues, exec_rpop_valid hv hfold, if_neg hfilled]
      rfl
    · rw [Issues, exec_rwait_valid hv, if_pos hmeets]
    · rw [Holds, exec_rwait_valid hv, if_neg (by rw [hmeets]; decide)]
  · intro s h rem a n
    refine ⟨fun hop => exec_rpush_answered hop, fun hop => exec_rpush_answered hop, fun hop hnear hn hbud => ?_, exec_rpush_noRing, ?_⟩
    · rw [Traps, exec_rpush_answered hop, State.pushAnswered_spent hnear hn hbud]
    · intro h' r lid slot words again
      refine ⟨rfl, fun hpend => ⟨exec_ringSlotFreed_waits hpend, fun hw => ⟨fun hdone => ⟨fun hold hperf => ?_, fun hnot => ?_⟩,
        fun hfe hline => ⟨fun hbusy => ?_, fun u hahead hsent hreach => ?_⟩⟩⟩⟩
      · refine (exec_ringSlotFreed_emptied hpend hw hdone).trans (congrArg Host.Outcome.next (if_pos ?_))
        exact Bool.and_eq_true_iff.2 ⟨hold, hperf⟩
      · refine (exec_ringSlotFreed_emptied hpend hw hdone).trans (congrArg Host.Outcome.next (if_neg ?_))
        exact Bool.eq_false_iff.1 (Bool.and_eq_false_iff.2 hnot)
      · refine (exec_ringSlotFreed_left hpend hw hfe hline).trans (congrArg Host.Outcome.next (if_pos ?_))
        exact Bool.or_eq_true_iff.2 hbusy
      · have hfree : ¬ (s.freeAhead s.here s.evNum || s.freeSent s.here) = true := by rw [hahead, hsent]; decide
        have hreach' : s.emptyReach s.here ((s.core s.here).lid?.getD 0) s.freedWords = (true, u) := hreach
        rw [exec_ringSlotFreed_left hpend hw hfe hline, if_neg hfree, hreach']
        rfl

end Sys2Proof.Machine
end

section
/-!
SUPPORT. The translation instructions, walks, shoot-downs and page tokens, and the statement about them (16_system R299, 07_translation
R138 to R151).
-/
namespace Sys2Proof.Machine

/-! ### TLBW, TLBI and TLBS (R299) -/

section
variable {s : State} {d a b : Reg} {n : Nat} {i : Instr} {w : Word} {cores : List Nat}

theorem exec_tlbi : exec (.tlbi a) s = s.shootIns (s.rd a) (layerCores (coreLayer s.here)) := rfl
theorem exec_tlbs : exec (.tlbs a) s = s.shootIns (s.rd a) (s.shootCores (s.rd a)) := rfl
theorem exec_tlbw_compute (h : isSvc s.here = false) : Traps (.tlbw d a b) s 0x02 0 0 := if_neg (by rw [h]; decide)
theorem traps_of_shootIns (hi : exec i s = s.shootIns w cores) (h : isSvc s.here = false) : Traps i s 0x02 0 0 :=
  hi.trans (if_neg (by rw [h]; decide))

variable (h : isSvc s.here = true)
include h

theorem exec_tlbw_service : exec (.tlbw d a b) s = .next
    (if (s.rd d).toNat < 8192 ∧ coreLayer (s.rd d).toNat = coreLayer s.here then s.tlbWrite (s.rd d).toNat (s.rd a) (s.rd b) else s).issue :=
  if_pos h
theorem State.shootIns_begins (hop : s.me.op = .idle) : s.shootIns w cores = .next ((s.modMe fun k => { k with op := .shoot s.nextId }).startShoot
    (shootOf s.nextId w cores s.here s.mine.cur)).holdOp := by
  rw [State.shootIns, if_pos h, hop]
theorem State.shootIns_again (hop : s.me.op = .shoot n) : s.shootIns w cores = .next (
    if s.shoots.any fun y => y.id == n && !y.done then s.holdOp else { s with shoots := s.shoots.filter fun y => y.id != n }.issue) := by
  rw [State.shootIns, if_pos h, hop]
theorem holds_of_shootIns (hi : exec i s = s.shootIns w cores) (hop : s.me.op = .shoot n)
    (hleft : (s.shoots.any fun y => y.id == n && !y.done) = true) : Holds i s s := by
  rw [Holds, hi, State.shootIns_again h hop, if_pos hleft]
theorem issues_of_shootIns (hi : exec i s = s.shootIns w cores) (hop : s.me.op = .shoot n)
    (hdone : (s.shoots.any fun y => y.id == n && !y.done) = false) : Issues i s { s with shoots := s.shoots.filter fun y => y.id != n } := by
  rw [Issues, hi, State.shootIns_again h hop, if_neg (by rw [hdone]; decide)]
end

/-! ### Walks (R138, R146, R151) -/

section
variable {s : State} {c : Nat} {p : Prio} {w : Word} {l : Launch} (hl : (s.core c).lid?.bind s.launchOf = some l) (hahead : s.missAhead c = false)
  (hmotion : s.inMotion l w.toNat = false) (hshut : s.stacksShut (s.tableWords l w.toNat) = false)
include hl hahead hmotion hshut

theorem exec_translationRequest : exec (.translationRequest c p w) s = .next (
    match (s.meetAll (s.tableWords l w.toNat)).walkFor l c w.toNat with
    | some e => ((s.meetAll (s.tableWords l w.toNat)).install c e).releaseXl c p w.toNat .none false
    | none => (s.meetAll (s.tableWords l w.toNat)).releaseXl c p w.toNat (.fault w) false) := by
  have hexec : exec (.translationRequest c p w) s = execTranslationRequest c p w s := rfl
  have hgo : ¬ (s.missAhead c || s.inMotion l w.toNat || s.stacksShut (s.tableWords l w.toNat)) = true := by
    rw [hahead, hmotion, hshut]; decide
  rw [hexec, execTranslationRequest, hl]
  exact congrArg _ (if_neg hgo)
end

/-! ### Shoot-downs (R141, R142, R147) -/

/-- A shoot-down as the last acknowledgement under a number leaves it. -/
def Shoot.ended (id : Nat) (x : Shoot) : Shoot := if x.id == id && x.left.isEmpty then { x with done := true } else x

theorem Shoot.ended_id (id : Nat) (x : Shoot) : (x.ended id).id = x.id := by
  rw [Shoot.ended]
  split <;> rfl
theorem State.endShoot_shoots (s : State) (id : Nat) :
    (s.endShoot id).shoots = (s.shoots.map (Shoot.ended id)).filter fun x => !(x.done && s.orphan x) := rfl

section
variable {s : State} {x : Shoot} (hx : (s.shoots.find? fun y => y.id == s.evNum) = some x)
include hx

theorem exec_shootdownArrive : exec .shootdownArrive s = .next (
    if s.sleeps s.here then (s.invalidateQuad s.here x).shootAck x.id s.here
    else if (s.invalidate s.here x).usesPage s.here x then
      (s.invalidate s.here x).enqueue (s.tick + 1) s.here .low x.id .shootdownArrive
    else (s.invalidate s.here x).shootAck x.id s.here) := by
  have hexec : exec .shootdownArrive s = execShootdownArrive s := rfl
  rw [hexec, execShootdownArrive, hx]

/-- A shoot-down of a page token that no core has still to acknowledge is complete, and is kept for its token (R147). -/
theorem State.find_endShoot (hissuer : x.issuer = none) (hleft : x.left = []) :
    ((s.endShoot s.evNum).shoots.find? fun y => y.id == s.evNum) = some { x with done := true } := by
  obtain ⟨hid, before, after, hl, hbefore⟩ := List.find?_eq_some_iff_append.1 hx
  have hended : x.ended s.evNum = { x with done := true } := if_pos (by rw [hid, hleft]; rfl)
  have hkept : (!(({ x with done := true } : Shoot).done && s.orphan { x with done := true })) = true := by
    simp only [State.orphan, hissuer]
    rfl
  refine List.find?_eq_some_iff_append.2 ⟨hid, (before.map (Shoot.ended s.evNum)).filter fun y => !(y.done && s.orphan y),
    (after.map (Shoot.ended s.evNum)).filter fun y => !(y.done && s.orphan y), ?_, fun y hy => ?_⟩
  · rw [State.endShoot_shoots, hl, List.map_append, List.map_cons, hended, List.filter_append,
      List.filter_cons_of_pos (p := fun y : Shoot => !(y.done && s.orphan y)) hkept]
  · obtain ⟨z, hz, rfl⟩ := List.mem_map.1 (List.mem_filter.1 hy).1
    rw [Shoot.ended_id]
    exact hbefore z hz

theorem exec_shootdownComplete {t : Token} (hissuer : x.issuer = none) (hleft : x.left = [])
    (ht : (s.tokens.find? fun k => k.shoot == s.evNum) = some t)
    (hshut : (s.endShoot s.evNum).stacksShut ((s.endShoot s.evNum).moveWords t) = false) : exec .shootdownComplete s =
      .next (({ s.endShoot s.evNum with shoots := (s.endShoot s.evNum).shoots.filter fun y => y.id != x.id } : State).fillToken t) := by
  have hexec : exec .shootdownComplete s = execShootdownComplete s := rfl
  have ht' : ((s.endShoot s.evNum).tokens.find? fun k => k.shoot == s.evNum) = some t := ht
  rw [hexec, execShootdownComplete]
  simp only [ht', State.find_endShoot hx hissuer hleft, hshut, Bool.and_false, Bool.false_eq_true, if_false, if_true]
end

/-! ### Page tokens (R69, R146, R150) -/

/-- What a shoot-down that starts leaves alone. -/
theorem State.startShoot_keeps (s : State) (x : Shoot) :
    (s.startShoot x).mem = s.mem ∧ (s.startShoot x).empties = s.empties ∧ (s.startShoot x).tokens = s.tokens := by
  have hat : ∀ (cs : List Nat) (t : State), (t.shootAt x cs).mem = t.mem ∧ (t.shootAt x cs).empties = t.empties ∧
      (t.shootAt x cs).tokens = t.tokens := by
    intro cs
    induction cs with
    | nil => exact fun t => ⟨rfl, rfl, rfl⟩
    | cons c cs ih => exact fun t => ih _
  rw [State.startShoot]
  split
  · exact ⟨rfl, rfl, rfl⟩
  · exact hat _ _

/-- The token that a request takes. -/
def State.newToken (s : State) (rq : TokenReq) (l : Launch) (e : TlbEntry) : Token :=
  { lid := l.r.lid, va := e.vbase, holder := some rq, shoot := s.nextId, waiting := [] }

section
variable {s : State} {rq : TokenReq} {l : Launch} {va at_ : Nat} {e : TlbEntry} (hpage : s.reqPage rq = some (l, va))
  (hleaf : s.leaf l va = some (e, at_))
include hpage hleaf

theorem exec_tokenRequest_host {rid : W32} {dev : Bool} {lid : BitVec 32} {va' dest res : Nat} (hrq : rq = .host rid dev lid va' dest res)
    (htaken : (s.tokens.any fun t => t.lid == l.r.lid && t.va == e.vbase) = true) : exec (.tokenRequest rq) s = .next (s.endReq rq 1) := by
  have hexec : exec (.tokenRequest rq) s = execTokenRequest rq s := rfl
  subst hrq
  rw [hexec, execTokenRequest, hpage]
  simp only [hleaf, isCollapse, Bool.false_and, Bool.false_eq_true, if_false]
  exact congrArg _ (if_pos htaken)

/-- A request that nothing keeps from starting takes a free token, and its shoot-down starts. -/
theorem exec_tokenRequest_takes (hfree : (s.tokens.any fun t => t.lid == l.r.lid && t.va == e.vbase) = false) (hbar : s.reqBar rq e = none) :
    ∃ x, exec (.tokenRequest rq) s = .next (({ s with tokens := s.tokens ++ [s.newToken rq l e] } : State).startShoot x) := by
  have hexec : exec (.tokenRequest rq) s = execTokenRequest rq s := rfl
  have hwrite : (isCollapse rq && !attrD e.attr && s.writeAhead l e) = false := by
    cases rq with
    | collapse c p v =>
      have hd : attrD e.attr = true := by
        by_contra hd
        rw [State.reqBar, if_neg hd] at hbar
        exact Option.some_ne_none 0 hbar
      rw [hd]; rfl
    | _ => rfl
  refine ⟨
    { id := s.nextId, space := l.space, size := e.size, vpn := e.vpn, allv := false, alls := false, left := l.cores, done := false,
      src := 8192 + 4 * s.tokenLayer e.pbase, issuer := none }, ?_⟩
  rw [hexec, execTokenRequest, hpage]
  simp only [hleaf, hwrite, hfree, hbar, Bool.false_eq_true, if_false]
  rfl
end

/-- Settles O23: the instructions, the service's answer, the shoot-down at a core, and the token of a page. -/
theorem translationAndPages : Obligations.TranslationAndPages := by
  constructor
  · intro s d a b n
    refine ⟨fun h => ⟨exec_tlbw_compute h, traps_of_shootIns exec_tlbi h, traps_of_shootIns exec_tlbs h⟩, fun h => ?_⟩
    intro c
    refine ⟨fun hc hlayer => ?_, fun hc => ?_, fun hop => ⟨?_, ?_⟩, fun hop => ⟨fun hleft => ⟨?_, ?_⟩, fun hdone => ⟨?_, ?_⟩⟩⟩
    · rw [Issues, exec_tlbw_service h, if_pos ⟨hc, hlayer⟩]
    · rw [Issues, exec_tlbw_service h, if_neg fun ⟨hc', _⟩ => absurd hc' (Nat.not_lt.2 hc)]
    · rw [Holds, exec_tlbi, State.shootIns_begins h hop]
    · rw [Holds, exec_tlbs, State.shootIns_begins h hop]
    · exact holds_of_shootIns h exec_tlbi hop hleft
    · exact holds_of_shootIns h exec_tlbs hop hleft
    · exact issues_of_shootIns h exec_tlbi hop hdone
    · exact issues_of_shootIns h exec_tlbs hop hdone
  · intro s c va p w l e at_ x rq t
    refine ⟨fun hl hahead hmotion hshut => ⟨fun hwalk => ?_, fun hwalk => ?_⟩, fun hx => ⟨fun hsleeps => ?_, fun hawake huses => ?_⟩,
      fun hpage hleaf => ⟨fun rid dev lid va' dest res hrq => exec_tokenRequest_host hpage hleaf hrq, fun hfree hbar => ?_⟩,
      fun hx hissuer hleft ht hshut => exec_shootdownComplete hx hissuer hleft ht hshut⟩
    · rw [exec_translationRequest hl hahead hmotion hshut, hwalk]
    · rw [exec_translationRequest hl hahead hmotion hshut, hwalk]
    · rw [exec_shootdownArrive hx, if_pos hsleeps]
    · rw [exec_shootdownArrive hx, if_neg (by rw [hawake]; decide), if_neg (by rw [huses]; decide)]
    · obtain ⟨y, hexec⟩ := exec_tokenRequest_takes hpage hleaf hfree hbar
      obtain ⟨hmem, hempties, htokens⟩ := State.startShoot_keeps { s with tokens := s.tokens ++ [s.newToken rq l e] } y
      refine ⟨_, hexec, hmem, hempties, s.newToken rq l e, ?_, rfl, rfl, rfl⟩
      rw [htokens]
      exact List.mem_append_right _ List.mem_cons_self

end Sys2Proof.Machine
end

section
/-!
SUPPORT. MFOLD, the joins of a gang and their commitment, and the statement about them (20_fold R353, R354).
-/
namespace Sys2Proof.Machine

/-! ### MFOLD (R353) -/

section
variable {s : State} {c : Acc} {f : FoldFmt} {h : Fin 4} {ra rb : RingNo} {pin solo : Bool} {nk : BitVec 8} {id : Nat}

/-- The join that an MFOLD of the issuing core offers. -/
def State.newJoin (s : State) (c : Acc) (f : FoldFmt) (h : Fin 4) (ra rb : RingNo) (pin : Bool) (nk : BitVec 8) : Join :=
  { fold := foldOf s.here, core := s.here, prio := s.mine.cur, acc := c, fmt := f, home := h, ra := ra, rb := rb, pin := pin, nkm1 := nk,
    fmask := s.mine.fmask, fpin := s.mine.fpin, at_ := s.tick }

theorem exec_mfold_placed {placed : Bool} (hop : s.me.op = .fold (some id) placed) :
    exec (.mfold c f h ra rb solo pin nk) s = .next (if placed then s.anchor.issue else s) := by
  have hexec : exec (.mfold c f h ra rb solo pin nk) s = execMfold c f h ra rb solo pin nk s := rfl
  rw [hexec, execMfold]
  simp only [hop, State.issuePlaced]
  cases placed <;> rfl
theorem exec_mfold_joined {placed : Bool} (hop : s.me.op = .fold none placed) :
    exec (.mfold c f h ra rb solo pin nk) s = .next s.holdJoin := by
  have hexec : exec (.mfold c f h ra rb solo pin nk) s = execMfold c f h ra rb solo pin nk s := rfl
  rw [hexec, execMfold]
  simp only [hop]

variable (hop : s.me.op = .idle)
include hop

/-- An MFOLD that has not begun, by its rings, whether it is solo, and whether the core is of its own set. -/
theorem exec_mfold_idle : exec (.mfold c f h ra rb solo pin nk) s = .next (
    if !ringServes f (s.mine.ring ra) || !ringServes f (s.mine.ring rb) then s.trapHere 0x11 0 0
    else if solo then
      (s.commitFold (newFold s.nextId (foldOf s.here) c f (layerIn s.here) [(s.here, ra, rb)] [] true pin nk (layerBit (layerIn s.here)))
        [(s.here, s.mine.cur)] []).issuePlaced
    else if !(s.memberSet s.here).getLsbD (layerIn s.here) then s.trapHere 0x0B 0 0
    else ({ s with joins := (s.joins.filter fun (x : Join) => x.core != s.here) ++ [s.newJoin c f h ra rb pin nk] } : State).holdJoin.checkJoin
      s.here) := by
  have hexec : exec (.mfold c f h ra rb solo pin nk) s = execMfold c f h ra rb solo pin nk s := rfl
  rw [hexec, execMfold]
  simp only [hop]
  rfl
theorem exec_mfold_unserved (hserves : ¬ (ringServes f (s.mine.ring ra) = true ∧ ringServes f (s.mine.ring rb) = true)) :
    Traps (.mfold c f h ra rb solo pin nk) s 0x11 0 0 := by
  have hno : (!ringServes f (s.mine.ring ra) || !ringServes f (s.mine.ring rb)) = true := by
    rw [← Bool.not_and]
    exact congrArg not (Bool.eq_false_iff.2 fun h => hserves (Bool.and_eq_true_iff.1 h))
  rw [Traps, exec_mfold_idle hop, if_pos hno]

variable (hserves : ringServes f (s.mine.ring ra) = true ∧ ringServes f (s.mine.ring rb) = true)
include hserves

theorem exec_mfold_served : exec (.mfold c f h ra rb solo pin nk) s = .next (
    if solo then
      (s.commitFold (newFold s.nextId (foldOf s.here) c f (layerIn s.here) [(s.here, ra, rb)] [] true pin nk (layerBit (layerIn s.here)))
        [(s.here, s.mine.cur)] []).issuePlaced
    else if !(s.memberSet s.here).getLsbD (layerIn s.here) then s.trapHere 0x0B 0 0
    else ({ s with joins := (s.joins.filter fun (x : Join) => x.core != s.here) ++ [s.newJoin c f h ra rb pin nk] } : State).holdJoin.checkJoin
      s.here) := by
  rw [exec_mfold_idle hop, if_neg (by rw [hserves.1, hserves.2]; decide)]
theorem exec_mfold_outside (hmember : (s.memberSet s.here).getLsbD (layerIn s.here) = false) :
    Traps (.mfold c f h ra rb false pin nk) s 0x0B 0 0 := by
  rw [Traps, exec_mfold_served hop hserves, if_neg (by decide), if_pos (by rw [hmember]; rfl)]
theorem exec_mfold_joins (hmember : (s.memberSet s.here).getLsbD (layerIn s.here) = true) :
    exec (.mfold c f h ra rb false pin nk) s = .next (
      ({ s with joins := (s.joins.filter fun (x : Join) => x.core != s.here) ++ [s.newJoin c f h ra rb pin nk] } : State).holdJoin.checkJoin
        s.here) := by
  rw [exec_mfold_served hop hserves, if_neg (by decide), if_neg (by rw [hmember]; decide)]
end

/-! ### A gang whose joins stand (R353, R354) -/

section
variable {s : State} {j : Join} {r : List Join} (hl : s.liveJoins s.evNum (s.core s.here).lid? = j :: r)
include hl

theorem exec_foldJoinComplete_waits (hready : s.joinReady (j :: r) = false) : exec .foldJoinComplete s = .next s := by
  have hexec : exec .foldJoinComplete s = execFoldJoinComplete s := rfl
  have hgo : ((s.core s.here).halt || !s.joinReady (j :: r) || ((j :: r).any fun j => decide (s.tick < j.at_ + 4))) = true := by
    rw [hready, Bool.not_false, Bool.or_true, Bool.true_or]
  rw [hexec, execFoldJoinComplete, hl]
  exact congrArg _ (if_pos hgo)

variable (hhalt : (s.core s.here).halt = false) (hready : s.joinReady (j :: r) = true) (hticks : ∀ x ∈ j :: r, x.at_ + 4 ≤ s.tick)
include hhalt hready hticks

/-- The joins of a gang become one operation, or every one of them fails. -/
theorem exec_foldJoinComplete_ready : exec .foldJoinComplete s = .next (
    if (r.all fun x => j.agrees x) && (s.joinSet j).getLsbD j.home.val then
      ({ s with joins := s.joins.filter fun x => !(j :: r).contains x } : State).commitFold
        (newFold s.nextId j.fold j.acc j.fmt j.home.val ((j :: r).map fun (x : Join) => (x.core, x.ra, x.rb)) (j :: r) false j.pin j.nkm1
          (s.joinSet j))
        (((j :: r).filter fun (x : Join) => !((j :: r).filter fun (x : Join) => (s.core x.core).stands x).contains x).map
          fun (x : Join) => (x.core, x.prio))
        ((j :: r).filter fun (x : Join) => (s.core x.core).stands x)
    else (j :: r).foldl State.joinFails { s with joins := s.joins.filter fun x => !(j :: r).contains x }) := by
  have hexec : exec .foldJoinComplete s = execFoldJoinComplete s := rfl
  have hcame : ((j :: r).any fun j => decide (s.tick < j.at_ + 4)) = false := by
    rw [List.any_eq_false]
    exact fun x hx => by rw [decide_eq_true_eq]; exact Nat.not_lt.2 (hticks x hx)
  have hgo : ¬ ((s.core s.here).halt || !s.joinReady (j :: r) || ((j :: r).any fun j => decide (s.tick < j.at_ + 4))) = true := by
    rw [hhalt, hready, hcame]; decide
  rw [hexec, execFoldJoinComplete, hl]
  exact congrArg _ (if_neg hgo)
end

theorem State.joinFails_bundle {s : State} {j : Join} (h : (s.core j.core).stands j = false) : s.joinFails j = s.takeTrap j.core j.prio 0x0B 0 0 :=
  if_neg (by rw [h]; decide)

/-- Settles O49: MFOLD by where its operation stands, and a gang by whether its joins agree. -/
theorem foldStarts : Obligations.FoldStarts := by
  constructor
  · intro s c f h ra rb pin solo nk id serves me
    refine ⟨fun hop => exec_mfold_placed hop, fun hop => exec_mfold_placed hop, fun hop => exec_mfold_joined hop, exec_mfold_unserved,
      fun hop hserves => ?_, exec_mfold_outside, exec_mfold_joins⟩
    rw [exec_mfold_served hop hserves, if_pos rfl]
  · intro s j r hl l rest stand who
    refine ⟨exec_foldJoinComplete_waits hl, fun hhalt hready hticks => ⟨fun hagree hhome => ?_, fun hbad => ?_⟩, State.joinFails_bundle⟩
    · rw [exec_foldJoinComplete_ready hl hhalt hready hticks, if_pos]
      rw [hhome, Bool.and_true]
      exact List.all_eq_true.2 hagree
    · rw [exec_foldJoinComplete_ready hl hhalt hready hticks, if_neg]
      rw [Bool.and_eq_true_iff, List.all_eq_true]
      rintro ⟨hagree, hhome⟩
      rcases hbad with ⟨x, hx, hnot⟩ | hnot
      · rw [hagree x hx] at hnot
        exact Bool.noConfusion hnot
      · rw [hhome] at hnot
        exact Bool.noConfusion hnot

end Sys2Proof.Machine
end

section
/-!
SUPPORT. The course of a fold operation and the accumulator instructions at the head of their queue, and the statement about them (20_fold
R350, R354 to R369).
-/
namespace Sys2Proof.Machine

/-! ### The start of an operation (R350, R354) -/

theorem State.foldl_modCore_foldSeq (l : List Nat) (g : Core → Core) (s : State) :
    (l.foldl (fun st c => st.modCore c g) s).foldSeq = s.foldSeq :=
  List.foldlRecOn (motive := fun t : State => t.foldSeq = s.foldSeq) _ _ rfl fun _ ht _ _ => ht

section
variable {s : State} {o : FoldOp} (ho : s.foldOp s.evNum = some o)
include ho

theorem exec_foldOpStart_begun (hbegun : o.begun = true) : exec .foldOpStart s = .next s := by
  have hexec : exec .foldOpStart s = execFoldOpStart s := rfl
  rw [hexec, execFoldOpStart, ho]
  exact congrArg _ (if_pos (by rw [hbegun]; rfl))

variable (hbegun : o.begun = false) (hruns : ∀ c ∈ o.cores, (s.core c).halt = false)
include hbegun hruns

omit ho in
theorem foldOpStart_goes : ¬ (o.begun || (o.cores.any fun c => (s.core c).halt)) = true := by
  have hany : (o.cores.any fun c => (s.core c).halt) = false := List.any_eq_false.2 fun c hc => by rw [hruns c hc]; decide
  rw [hbegun, hany]
  decide
theorem exec_foldOpStart_fenced (hfenced : s.foldFenced o = true) : exec .foldOpStart s =
    .next ((s.modFold o.id fun x => { x with begun := true, abort := true }).endFold o) := by
  have hexec : exec .foldOpStart s = execFoldOpStart s := rfl
  rw [hexec, execFoldOpStart, ho]
  exact congrArg _ ((if_neg (foldOpStart_goes hbegun hruns)).trans (if_pos hfenced))
/-- A start takes the sequence number of its fold, also where the operation ends at once (R350). -/
theorem exec_foldOpStart_takesSeq (hfenced : s.foldFenced o = false) (hactive : s.nowSet (o.fold / 256) &&& o.members ≠ 0) :
    ∃ t, exec .foldOpStart s = .next t ∧
      t.foldSeq = Sparse.set (fun _ => 0) s.foldSeq o.fold (Sparse.get (fun _ => 0) s.foldSeq o.fold + 1) := by
  have hexec : exec .foldOpStart s = execFoldOpStart s := rfl
  have hwhole : ¬ s.foldFenced o = true := by rw [hfenced]; decide
  rw [execFoldOpStart, ho] at hexec
  dsimp only at hexec
  rw [if_neg (foldOpStart_goes hbegun hruns), if_neg hwhole, if_neg hactive] at hexec
  refine ⟨_, hexec, ?_⟩
  split
  · exact State.foldl_modCore_foldSeq ..
  · exact State.foldl_modCore_foldSeq ..
end

/-! ### Round boundaries and rounds (R357 to R361) -/

section
variable {s : State} {o : FoldOp}

theorem State.atBoundary_halted {c : Nat} (hc : c ∈ o.cores) (hhalt : (s.core c).halt = true) : s.atBoundary o =
    (s.roundOver o).modFold o.id fun x => { x with preempted := true, bound := true } :=
  if_pos (List.any_eq_true.2 ⟨c, hc, hhalt⟩)
theorem State.atBoundary_fenced (hruns : ∀ c ∈ o.cores, (s.core c).halt = false) (hfenced : s.foldFenced o = true) :
    s.atBoundary o = (s.modFold o.id fun x => { x with abort := true }).endFold o := by
  have hany : ¬ (o.cores.any fun c => (s.core c).halt) = true := by
    rw [List.any_eq_true]
    rintro ⟨c, hc, hhalt⟩
    rw [hruns c hc] at hhalt
    exact Bool.noConfusion hhalt
  exact (if_neg hany).trans (if_pos hfenced)

/-- The end of a round whose accumulator is sound. -/
theorem State.closeRound_sound {data : List (Nat × Nat × Nat)} (hsound : (s.core o.homeCore).accBad o.acc 0 1024 = false) :
    State.closeRound o s data =
      (let sum := o.sumOf data
       let new := ((sum.map (·.v)).zip ((s.core o.homeCore).accAll o.acc)).map fun p => foldAdd o.fmt p.2 p.1
       let o1 := { o with rounds := o.rounds + 1, ill := o.ill || sum.any (·.ill), nan := o.nan || sum.any (·.nan) || new.any (·.nan),
                          ovf := o.ovf || sum.any (·.ovf) || new.any (·.ovf), busy := none, bound := true,
                          ref := if o.sampled then refRound o.fmt o.ref (data.map fun d => d.2) else o.ref }
       let s2 := ((s.modCore o.homeCore fun k => k.accSet o.acc (new.map (·.v))).retire o).modFold o.id fun _ => o1
       if o.count ≤ o1.rounds ∧ s2.foldFenced o1 = false then s2.endFold o1 else s2.atBoundary o1) :=
  if_neg (by rw [hsound]; decide)

variable (ho : s.foldOp s.evNum = some o) (hn : s.evNum ≠ 0) (hbegun : o.begun = true) (hfin : o.fin = false)
include ho hn hbegun hfin

theorem exec_foldRoundEnd : exec .foldRoundEnd s = .next (
    match o.busy with
    | none => s.atBoundary o
    | some till => s.roundStep o till (State.closeRound o)) := by
  have hexec : exec .foldRoundEnd s = execFoldRoundEnd s := rfl
  rw [hexec, execFoldRoundEnd, if_neg hn, ho]
  exact congrArg _ (if_neg (by rw [hbegun, hfin]; decide))
theorem exec_foldRoundEnd_between (hbusy : o.busy = none) : exec .foldRoundEnd s = .next (s.atBoundary o) := by
  rw [exec_foldRoundEnd ho hn hbegun hfin, hbusy]

variable {till : Nat} {s1 : State} (hbusy : o.busy = some till)
include hbusy

theorem exec_foldRoundEnd_reading : exec .foldRoundEnd s = .next (
    match s.readRound o o.owners with
    | (none, s1) => s1.foldAgain o
    | (some (.error x), s1) => ((s1.roundOver o).modFold o.id fun y => { y with stop := some x }).endFold o
    | (some (.ok data), s1) =>
      if s.tick < till then s1.enqueue till o.homeCore .low o.id .foldRoundEnd else State.closeRound o (s1.roundOver o) data) := by
  rw [exec_foldRoundEnd ho hn hbegun hfin, hbusy]
  rfl
end

/-! ### The end of an operation (R358) -/

/-- The numbers of the operations that are not over. -/
def State.foldIds (s : State) : List Nat := s.foldOps.map fun o => o.id

section
variable {s : State}

theorem State.foldOp_of_not_mem {id : Nat} (h : id ∉ s.foldIds) : s.foldOp id = none := by
  refine List.find?_eq_none.2 fun o ho hid => h ?_
  rw [← eq_of_beq hid]
  exact List.mem_map_of_mem ho
theorem State.modFold_foldIds {id : Nat} {f : FoldOp → FoldOp} (hf : ∀ o, (f o).id = o.id) : (s.modFold id f).foldIds = s.foldIds := by
  rw [State.foldIds, State.modFold, List.map_map]
  refine List.map_congr_left fun o _ => ?_
  show (if (o.id == id) = true then f o else o).id = o.id
  split
  · exact hf o
  · rfl
theorem State.takePlace_foldIds (c : Nat) : (s.takePlace c).foldIds = s.foldIds := by
  simp only [State.takePlace]
  split
  · rfl
  split
  · split
    · exact State.modFold_foldIds fun _ => rfl
    · exact State.modFold_foldIds fun _ => rfl
  · rfl
theorem State.restIdle_foldIds (c : Nat) : (s.restIdle c).foldIds = s.foldIds := by
  rw [State.restIdle]
  split <;> rfl
theorem State.kick_foldIds (c : Nat) : (s.kick c).foldIds = s.foldIds := by
  rw [State.kick]
  split
  · rfl
  split
  · rfl
  dsimp only
  split
  case h_5 =>
    split
    · rfl
    · split <;> rfl
  all_goals rfl

/-- An operation that is over is gone. -/
theorem exec_foldOpComplete_over {o : FoldOp} (ho : s.foldOp s.evNum = some o) (hn : s.evNum ≠ 0) (hfin : o.fin = true) :
    ∃ t, exec .foldOpComplete s = .next t ∧ t.foldOp o.id = none := by
  have hexec : exec .foldOpComplete s = execFoldOpComplete s := rfl
  rw [execFoldOpComplete, if_neg hn, ho] at hexec
  dsimp only at hexec
  rw [if_neg (by rw [hfin]; decide)] at hexec
  refine ⟨_, hexec, State.foldOp_of_not_mem ?_⟩
  · have hkicks (l : List Nat) (t : State) : (l.foldl (fun st c => st.kick c) t).foldIds = t.foldIds :=
      List.foldlRecOn (motive := fun u : State => u.foldIds = t.foldIds) _ _ rfl fun _ h c _ => (State.kick_foldIds c).trans h
    have hplaces (l : List Nat) (t : State) : (l.foldl (fun st c => (st.takePlace c).restIdle c) t).foldIds = t.foldIds :=
      List.foldlRecOn (motive := fun u : State => u.foldIds = t.foldIds) _ _ rfl fun _ h c _ =>
        (State.restIdle_foldIds c).trans ((State.takePlace_foldIds c).trans h)
    have hgone (t : State) : o.id ∉ ({ t with foldOps := t.foldOps.filter fun x => x.id != o.id } : State).foldIds := by
      intro h
      obtain ⟨x, hx, hid⟩ := List.mem_map.1 h
      exact bne_iff_ne.1 (List.mem_filter.1 hx).2 hid
    split
    · show o.id ∉ (State.foldIds (List.foldl _ _ _))
      rw [hkicks, hplaces]
      exact hgone _
    · rw [hkicks, hplaces]
      exact hgone _
theorem exec_foldOpComplete_early {o : FoldOp} (ho : s.foldOp s.evNum = some o) (hn : s.evNum ≠ 0) (hfin : o.fin = false) :
    exec .foldOpComplete s = .next s := by
  have hexec : exec .foldOpComplete s = execFoldOpComplete s := rfl
  rw [hexec, execFoldOpComplete, if_neg hn, ho]
  exact congrArg _ (if_pos (by rw [hfin]; rfl))
end

/-! ### The end of a tick (R345, R364) -/

section
variable {s : State} {r : Ring} {h : RingNo}

theorem exec_foldRoundEnd_slots (hn : s.evNum = 0) : exec .foldRoundEnd s = .next (s.takeSlots s.here) := congrArg Host.Outcome.next (if_pos hn)
theorem exec_foldOpComplete_log (hn : s.evNum = 0) : exec .foldOpComplete s = .next (State.devFlush s.here s.devPend s) :=
  congrArg Host.Outcome.next (if_pos hn)
theorem Ring.taken_read (hr : r.read = true) : r.taken =
    { r with read := false, head := r.plus r.head 1, filled := r.filled - 1, held := r.held + 1, pops := r.pops + 1 } :=
  if_pos hr
theorem State.folds_read (hr : ((s.core s.here).ring h).read = true) : s.folds s.here h = true := by
  rw [State.folds, hr, Bool.true_or]
end

/-! ### Accumulator instructions at the head of their queue (R366 to R368) -/

/-- The work of the issuing core's queue goes on some ticks from now. -/
def State.accAgain (s u : State) (n : Nat) : State := u.enqueue (s.tick + n) s.here .low 0 .accOpComplete
/-- The item at the head of the queue as it goes on. -/
def State.accPut (s : State) (w : Option Nat) (r : List QEntry) (u : State) (it : QItem) : State :=
  u.modCore s.here fun k => { k with fq := { owner := w, item := it, begun := true } :: r }
/-- The item at the head of the queue fails. -/
def State.accFails (s : State) (w : Option Nat) (a : Acc) (lid : BitVec 32) (u : State) (t : Stop) : State :=
  (((u.dropGroup (unitKey s.here 8)).failItem s.here w a false t).popQueue s.here).poke lid
/-- A row as an MNAR narrows it. -/
def State.accRow (s : State) (a : Acc) (g : NarFmt) (m : Mode) (gap row : Nat) : Nat × List Nat :=
  narRow g m gap ((List.range 32).map fun j => (s.core s.here).accGet a (32 * row + j))

/-- A halted core stops after the row in progress, whose stores are all acknowledged (R97). -/
theorem exec_accOpComplete_halted {s : State} (hhalt : (s.core s.here).halt = true) (hdone : s.rowsDone s.here = true)
    (hfailed : s.rowFailed s.here = none) : exec .accOpComplete s = .next (s.dropGroup (unitKey s.here 8)) := by
  have hexec : exec .accOpComplete s = execAccOpComplete s := rfl
  rw [hexec, execAccOpComplete]
  simp only [hhalt, hdone, hfailed, if_true, Option.isNone_none, Bool.and_self]
  split
  · rfl
  · split <;> rfl

section
variable {s : State} {lid : BitVec 32} {w : Option Nat} {r : List QEntry} {a : Acc} {it : QItem} (hhalt : (s.core s.here).halt = false)
  (hlid : (s.core s.here).lid? = some lid)
include hhalt hlid

theorem exec_accOpComplete_zero (hq : (s.core s.here).fq = { owner := w, item := .zero a, begun := true } :: r) :
    exec .accOpComplete s = .next (((s.modCore s.here fun k => k.accSet a []).popQueue s.here).poke lid) := by
  have hexec : exec .accOpComplete s = execAccOpComplete s := rfl
  rw [hexec, execAccOpComplete]
  simp only [hhalt, hlid, hq, Bool.false_eq_true, if_false, Bool.not_true]

section
variable {f : WidFmt} {ga gb : Word}

theorem exec_accOpComplete_widened (hq : (s.core s.here).fq = { owner := w, item := .wid a f ga gb true, begun := true } :: r) :
    exec .accOpComplete s = .next ((s.popQueue s.here).poke lid) := by
  have hexec : exec .accOpComplete s = execAccOpComplete s := rfl
  rw [hexec, execAccOpComplete]
  simp only [hhalt, hlid, hq, Bool.false_eq_true, if_false, Bool.not_true]
theorem exec_accOpComplete_wid (hq : (s.core s.here).fq = { owner := w, item := .wid a f ga gb false, begun := true } :: r) :
    exec .accOpComplete s = .next (
      match s.readElems s.here lid f ga gb (List.range 1024) with
      | (none, s1) => s.accAgain s1 1
      | (some (.error t), s1) => s.accFails w a lid s1 t
      | (some (.ok l), s1) =>
        s.accAgain (s.accPut w r ((s1.dropGroup (unitKey s.here 8)).modCore s.here fun k => k.accSet a l) (.wid a f ga gb true)) 32) := by
  have hexec : exec .accOpComplete s = execAccOpComplete s := rfl
  rw [hexec, execAccOpComplete]
  simp only [hhalt, hlid, hq, Bool.false_eq_true, if_false, Bool.not_true, Option.getD_some]
  generalize s.readElems s.here lid f ga gb (List.range 1024) = read
  rfl
end

section
variable {g : NarFmt} {m : Mode} {ga gb gc : Word} {arr : Option (BitVec 9)} {row gap : Nat}
  (hq : (s.core s.here).fq = { owner := w, item := .nar a g m ga gb gc arr row gap, begun := true } :: r)
include hq

/-- An MNAR that goes on: by a row, into the array or to memory, or by the wait behind the last. -/
theorem exec_accOpComplete_nar : exec .accOpComplete s = .next (
    match s.rowFailed s.here with
    | some t => s.accFails w a lid s t
    | none =>
      if 32 ≤ row then
        (if s.rowsDone s.here then ((s.dropGroup (unitKey s.here 8)).popQueue s.here).poke lid else s.accAgain s 1)
      else if (s.core s.here).accBad a (32 * row) 32 then s.accFails w a lid (s.countUncorr 7).bumpFree s.accStop
      else match arr with
        | some off =>
          if (s.core s.here).arrayBusy then s.enqueueFirst (s.tick + 1) s.here .low 0 .accOpComplete
          else if row = 31 then
            ((s.modCore s.here fun k => k.rowToArray g ga off row (s.accRow a g m gap row).2).popQueue s.here).poke lid
          else s.accAgain (s.accPut w r (s.modCore s.here fun k => k.rowToArray g ga off row (s.accRow a g m gap row).2)
            (.nar a g m ga gb gc (some off) (row + 1) gap)) 1
        | none =>
          match s.rowReach s.here lid (rowStores g ga gb gc row (s.accRow a g m gap row)) with
          | (false, s0) => s.accAgain s0 1
          | (true, s0) =>
            match s0.rowStoresAll s.here lid (rowStores g ga gb gc row (s.accRow a g m gap row)) with
            | (s1, some t) => s.accFails w a lid s1 t
            | (s1, none) => s.accAgain (s.accPut w r s1 (.nar a g m ga gb gc none (row + 1) gap)) 1) := by
  have hexec : exec .accOpComplete s = execAccOpComplete s := rfl
  rw [hexec, execAccOpComplete]
  simp only [hhalt, hlid, hq, Bool.false_eq_true, if_false, Bool.not_true, Option.getD_some]
  cases arr <;> rfl

theorem exec_accOpComplete_narFails {t : Stop} (hfailed : s.rowFailed s.here = some t) : exec .accOpComplete s = .next (s.accFails w a lid s t) := by
  rw [exec_accOpComplete_nar hhalt hlid hq, hfailed]

variable (hfailed : s.rowFailed s.here = none)
include hfailed

/-- Behind its last row an MNAR waits for its stores. -/
theorem exec_accOpComplete_rowsOver (hrow : 32 ≤ row) : exec .accOpComplete s = .next (
    if s.rowsDone s.here then ((s.dropGroup (unitKey s.here 8)).popQueue s.here).poke lid else s.accAgain s 1) := by
  rw [exec_accOpComplete_nar hhalt hlid hq, hfailed]
  exact congrArg _ (if_pos hrow)

variable (hrow : row < 32) (hsound : (s.core s.here).accBad a (32 * row) 32 = false)
include hrow hsound

theorem exec_accOpComplete_rowToArray {off : BitVec 9} (harr : arr = some off) : exec .accOpComplete s = .next (
    if (s.core s.here).arrayBusy then s.enqueueFirst (s.tick + 1) s.here .low 0 .accOpComplete
    else if row = 31 then ((s.modCore s.here fun k => k.rowToArray g ga off row (s.accRow a g m gap row).2).popQueue s.here).poke lid
    else s.accAgain (s.accPut w r (s.modCore s.here fun k => k.rowToArray g ga off row (s.accRow a g m gap row).2)
      (.nar a g m ga gb gc (some off) (row + 1) gap)) 1) := by
  subst harr
  rw [exec_accOpComplete_nar hhalt hlid hq, hfailed]
  exact congrArg _ ((if_neg (Nat.not_le.2 hrow)).trans (if_neg (by rw [hsound]; decide)))
theorem exec_accOpComplete_rowToMemory (harr : arr = none) : exec .accOpComplete s = .next (
    match s.rowReach s.here lid (rowStores g ga gb gc row (s.accRow a g m gap row)) with
    | (false, s0) => s.accAgain s0 1
    | (true, s0) =>
      match s0.rowStoresAll s.here lid (rowStores g ga gb gc row (s.accRow a g m gap row)) with
      | (s1, some t) => s.accFails w a lid s1 t
      | (s1, none) => s.accAgain (s.accPut w r s1 (.nar a g m ga gb gc none (row + 1) gap)) 1) := by
  subst harr
  rw [exec_accOpComplete_nar hhalt hlid hq, hfailed]
  exact congrArg _ ((if_neg (Nat.not_le.2 hrow)).trans (if_neg (by rw [hsound]; decide)))
end
end

/-! ### The stores of a row (R368) -/

theorem rowStores_word {g : NarFmt} {ga gb gc : Word} {row j : Nat} {y : Nat × List Nat} (hj : j < narBits g / 2) :
    (rowStores g ga gb gc row y)[j]? = some (ga + BitVec.ofInt 64 (row * (((gb.setWidth 32).signExtend 64 : Word).toInt)) +
      BitVec.ofNat 64 (8 * j), 8, packRow (narBits g) y.2 / 2 ^ (64 * j) % 2 ^ 64) := by
  rw [rowStores, List.getElem?_append_left (by rw [List.length_map, List.length_range]; exact hj), List.getElem?_map,
    List.getElem?_range hj]
  rfl
theorem State.rowStore_reached {s : State} {c : Nat} {lid : BitVec 32} {va : Word} {v pa : Nat} {e : TlbEntry}
    (hgo : s.find c lid va true = .go e pa) : s.rowStore c lid (va, 8, v) =
      .ok ((s.useEntry c e).engineSend c (unitKey c 8) e va pa (.store .d (BitVec.ofNat 64 v)) true) := by
  have hreach : s.reach c lid va true = (.go e pa, s.useEntry c e) := by rw [State.reach, hgo]; rfl
  simp only [State.rowStore, hreach]
  exact if_neg fun h => h.1 rfl

/-- Settles O50: the operation by where it stands, the end of the tick by the number 0, and the accumulator instructions by the item at
the head of the queue. -/
theorem foldEngineAtWork : Obligations.FoldEngineAtWork := by
  refine ⟨fun s o ho hn => ?_, fun s r => ⟨fun h0 => ⟨exec_foldRoundEnd_slots h0, exec_foldOpComplete_log h0⟩, Ring.taken_read,
    fun h => State.folds_read⟩, ?_⟩
  · intro runs
    refine ⟨exec_foldOpStart_begun ho, exec_foldOpStart_fenced ho, fun hbegun hruns hfenced hactive hwf => ?_,
      exec_foldRoundEnd_between ho hn, fun ⟨c, hc, hhalt⟩ => State.atBoundary_halted hc hhalt, State.atBoundary_fenced, ?_,
      exec_foldOpComplete_early ho hn, exec_foldOpComplete_over ho hn⟩
    · obtain ⟨t, hexec, hseq⟩ := exec_foldOpStart_takesSeq ho hbegun hruns hfenced hactive
      exact ⟨t, hexec, by rw [hseq, Sparse.get_set_same _ _ _ _ hwf]⟩
    · intro till s1 x data hbegun hfin hbusy u
      have hround := exec_foldRoundEnd_reading ho hn hbegun hfin hbusy
      refine ⟨fun hread => ?_, fun hread => ?_, fun hread htill => ?_, fun hread htill hsound => ?_⟩
      · rw [hround, hread]
      · rw [hround, hread]
      · rw [hround, hread]
        exact congrArg _ (if_pos htill)
      · rw [hround, hread]
        exact congrArg _ ((if_neg (Nat.not_lt.2 htill)).trans (State.closeRound_sound hsound))
  · intro s a w r f g m ga gb gc l s0 s1 arr row gap lid t k key at_ again put fails y stores nar narNext go sound
    refine ⟨exec_accOpComplete_halted, fun ⟨hhalt, hlid, hq⟩ => exec_accOpComplete_zero hhalt hlid hq,
      fun ⟨hhalt, hlid, hq⟩ => exec_accOpComplete_widened hhalt hlid hq, fun ⟨hhalt, hlid, hq⟩ hread => ?_,
      fun ⟨hhalt, hlid, hq⟩ hread => ?_, fun ⟨hhalt, hlid, hq⟩ hread => ?_,
      fun ⟨hhalt, hlid, hq⟩ hfailed => exec_accOpComplete_narFails hhalt hlid hq hfailed,
      fun ⟨⟨hhalt, hlid, hq⟩, hfailed⟩ hrow => ⟨fun hdone => ?_, fun hdone => ?_⟩, ?_,
      fun harr ⟨⟨hhalt, hlid, hq⟩, hfailed⟩ ⟨hrow, hsound⟩ => ?_, fun j hj => rowStores_word hj, fun va v pa e => State.rowStore_reached⟩
    · rw [exec_accOpComplete_wid hhalt hlid hq, hread]
      rfl
    · rw [exec_accOpComplete_wid hhalt hlid hq, hread]
      rfl
    · rw [exec_accOpComplete_wid hhalt hlid hq, hread]
      rfl
    · rw [exec_accOpComplete_rowsOver hhalt hlid hq hfailed hrow, if_pos hdone]
    · rw [exec_accOpComplete_rowsOver hhalt hlid hq hfailed hrow, if_neg (by rw [hdone]; decide)]
      rfl
    · rintro off harr ⟨⟨hhalt, hlid, hq⟩, hfailed⟩ ⟨hrow, hsound⟩ s2
      have hgo := exec_accOpComplete_rowToArray hhalt hlid hq hfailed hrow hsound harr
      refine ⟨fun hbusy => ?_, fun hbusy hlast => ?_, fun hbusy hlast => ?_⟩
      · rw [hgo, if_pos hbusy]
      · subst harr
        rw [hgo, if_neg (by rw [hbusy]; decide), if_neg (Nat.ne_of_lt hlast)]
        rfl
      · rw [hgo, if_neg (by rw [hbusy]; decide), if_pos hlast]
        rfl
    · have hgo := exec_accOpComplete_rowToMemory hhalt hlid hq hfailed hrow hsound harr
      subst harr
      refine ⟨fun hreach => ?_, fun hreach hstores => ?_, fun hreach hstores => ?_⟩
      · have hreach' : s.rowReach s.here lid (rowStores g ga gb gc row (s.accRow a g m gap row)) = (false, s0) := hreach
        rw [hgo, hreach']
        rfl
      all_goals
        have hreach' : s.rowReach s.here lid (rowStores g ga gb gc row (s.accRow a g m gap row)) = (true, s0) := hreach
      · have hstores' : s0.rowStoresAll s.here lid (rowStores g ga gb gc row (s.accRow a g m gap row)) = (s1, some t) := hstores
        rw [hgo, hreach']
        simp only [hstores']
        rfl
      · have hstores' : s0.rowStoresAll s.here lid (rowStores g ga gb gc row (s.accRow a g m gap row)) = (s1, none) := hstores
        rw [hgo, hreach']
        simp only [hstores']
        rfl

end Sys2Proof.Machine
end

section
/-!
SUPPORT. The copy engine: one tick of it, the move and the write of a word, and the end of a copy, and the statement about them
(19_copy_rings R332 to R337).
-/
namespace Sys2Proof.Machine

/-! ### One tick of the engine (R335, R337) -/

/-- The engine of the issuing core after the words of this tick. -/
def State.copyTick (s : State) : State :=
  (List.range 8).foldl (fun st i => (st.copyRest s.here i).copyOver s.here i)
    (State.moveLines s.here 8 (((List.range 8).foldl (fun st i => st.nextPhase s.here i) s).writeLines s.here))

theorem exec_copyDataPhase (s : State) : exec .copyDataPhase s = .next (
    if (s.copyTick.core s.here).copies.any (s.copyTick.copyWorks s.here) then s.copyTick.kickCopies s.here (s.tick + 1) else s.copyTick) := rfl

/-- No more words are written than there is room for. -/
theorem State.writeWords_le (c id n : Nat) (s : State) : (State.writeWords c id n s).1 ≤ n := by
  induction n generalizing s with
  | zero => exact Nat.le_refl 0
  | succ n ih =>
    rw [State.writeWords]
    split
    · exact Nat.le_refl _
    split
    · exact Nat.le_refl _
    split
    · exact Nat.le_succ_of_le (ih _)
    · exact Nat.le_refl _

section
variable {s u : State} {c : Nat} {x : Copy} {l : List Copy}

theorem State.moveOne_passed (h : s.mayMove c x = false) : s.moveOne c (x :: l) = s.moveOne c l := by
  rw [State.moveOne, if_neg (by rw [h]; decide)]
theorem State.moveOne_moved (h : s.mayMove c x = true) (hmove : s.copyMove c x = (true, u)) : s.moveOne c (x :: l) = (some x.id, u) := by
  rw [State.moveOne, if_pos h, hmove]
theorem State.moveOne_stuck (h : s.mayMove c x = true) (hmove : s.copyMove c x = (false, u)) : s.moveOne c (x :: l) = u.moveOne c l := by
  rw [State.moveOne, if_pos h, hmove]
theorem State.mayMove_halted (hhalt : (s.core c).halt = true) (hline : x.inLine = false) : s.mayMove c x = false := by
  rw [State.mayMove, hhalt, hline]
  exact Bool.and_false _
theorem State.mayMove_early (h : s.tick < x.start) : s.mayMove c x = false := by
  rw [State.mayMove, decide_eq_false (Nat.not_le.2 h), Bool.and_false, Bool.false_and]
end

/-! ### The move of a word (R332, R333) -/

/-- A copy stops at an address whose checks fail: what it waits for there is forgotten. -/
def State.stopsAt (s : State) (c : Nat) (x : Copy) (va : Word) (t : Stop) : State :=
  (s.modCore c fun k => { k with misses := k.misses.filter fun y => y.1 != va }).stopCopy c x t

section
variable {s : State} {c : Nat} {x : Copy} {e : TlbEntry} {pa : Nat} {a va : Word} {t : Stop} {wr : Bool}

theorem State.reach_go (h : s.find c x.lid va wr = .go e pa) : s.reach c x.lid va wr = (.go e pa, s.useEntry c e) := by
  rw [State.reach, h]
  rfl
theorem State.reach_stop (h : s.find c x.lid va wr = .stop t) : s.reach c x.lid va wr =
    (.stop t, s.modCore c fun k => { k with misses := k.misses.filter fun y => y.1 != va }) := by
  rw [State.reach, h]
  rfl

/-- The place of a copy's next destination word, where it may be written now. -/
theorem State.copyDest_go (hfind : s.find c x.lid (x.rising x.pos) true = .go e pa) (hcontrol : toControl pa = false)
    (hstore : toStore pa = true → x.mode = .keep) (harming : ((s.useEntry c e).armCopy c x e).arming (x.unit c) = false) :
    s.copyDest c x = (.go e pa, (s.useEntry c e).armCopy c x e) := by
  have hkeep : ¬ (toStore pa && x.mode != .keep) = true := by
    rw [Bool.and_eq_true_iff, bne_iff_ne]
    exact fun ⟨h, hne⟩ => hne (hstore h)
  simp only [State.copyDest, State.reach_go hfind, hcontrol, harming, Bool.false_eq_true, if_false]
  exact if_neg hkeep
theorem State.copyDest_stop (hfind : s.find c x.lid (x.rising x.pos) true = .stop t) : s.copyDest c x =
    (.stop t, s.modCore c fun k => { k with misses := k.misses.filter fun y => y.1 != x.rising x.pos }) := by
  simp only [State.copyDest, State.reach_stop hfind]

/-- A word of one source element: its read leaves. -/
theorem State.copyMove_reads (hemptied : x.emptied = true) (hsources : x.sources (x.index x.head) = [a])
    (hfind : s.find c x.lid a false = .go e pa) : s.copyMove c x =
      (true, ((s.useEntry c e).engineAsk c (x.reader c) e a (wordOf pa) .fetch).modCopy c x.id fun y =>
        { y with reads := y.reads ++ [[(s.useEntry c e).nextId]] }) := by
  have hstuck : s.firstStuck c x.lid false [a] = none := by
    rw [State.firstStuck, List.findSome?_cons, hfind]
    rfl
  rw [State.copyMove, if_pos hemptied, hsources]
  simp only [hstuck, List.foldl_cons, List.foldl_nil, State.reach_go hfind]
  rfl
theorem State.copyMove_empties (hdest : s.copyDest c x = (.go e pa, (s.useEntry c e).armCopy c x e)) (hemptied : x.emptied = false) :
    s.copyMove c x = (true, (((s.useEntry c e).armCopy c x e).engineEmpty c (x.unit c) (x.rising x.pos) e pa).modCopy c x.id fun y =>
      { y with pos := y.pos + 1 }) := by
  rw [State.copyMove, if_neg (by rw [hemptied]; decide), hdest]
theorem State.copyMove_stops (hfind : s.find c x.lid (x.rising x.pos) true = .stop t) (hemptied : x.emptied = false) :
    s.copyMove c x = (false, s.stopsAt c x (x.rising x.pos) t) := by
  rw [State.copyMove, if_neg (by rw [hemptied]; decide), State.copyDest_stop hfind]
  rfl
end

/-! ### The write of a word (R331 to R333) -/

section
variable {s : State} {c : Nat} {x : Copy} {ids : List Nat} {rest : List (List Nat)} (hreads : x.reads = ids :: rest)
include hreads

theorem State.copyWrite_waits (hback : s.wordBack ids = none) : s.copyWrite c x = (false, s) := by
  simp only [State.copyWrite, hreads, hback]

variable {ws : List Answer} {e : TlbEntry} {pa : Nat} {t : Stop} {v : Nat × Bool} (hback : s.wordBack ids = some ws)
include hback

theorem State.copyWrite_failed (hjoined : joinWord x.elemBytes ((x.sources (x.index x.pos)).zip ws) = .error t) :
    s.copyWrite c x = (false, s.stopCopy c x t) := by
  simp only [State.copyWrite, hreads, hback, hjoined]

variable (hjoined : joinWord x.elemBytes ((x.sources (x.index x.pos)).zip ws) = .ok v)
include hjoined

theorem State.copyWrite_stops (hfind : s.find c x.lid (x.rising x.pos) true = .stop t) :
    s.copyWrite c x = (false, s.stopsAt c x (x.rising x.pos) t) := by
  simp only [State.copyWrite, hreads, hback, hjoined, State.copyDest_stop hfind, State.stopsAt]
/-- The word leaves with the bit that the mode says, and the copy goes on to the next. -/
theorem State.copyWrite_writes (hdest : s.copyDest c x = (.go e pa, (s.useEntry c e).armCopy c x e)) : s.copyWrite c x =
    (true, (ids.foldl State.dropAccess (((s.useEntry c e).armCopy c x e).engineWrite c (x.unit c) (x.rising x.pos) e pa
      (BitVec.ofNat 64 v.1) (copyBit x.mode v.2))).modCopy c x.id fun y =>
        { y with pos := y.pos + 1, reads := rest, sealed := y.sealed.or (sealedBy pa (BitVec.ofNat 64 v.1)) }) := by
  simp only [State.copyWrite, hreads, hback, hjoined, hdest]
end

/-- A write of an engine outside the instruction stores is one access more. -/
theorem State.engineWrite_sends (s : State) (c key : Nat) (va : Word) (e : TlbEntry) {pa : Nat} (w : Word) (f : Option Bool)
    (h : toStore pa = false) : ∃ y : Access, (s.engineWrite c key va e pa w f).accesses = s.accesses ++ [y] ∧ y.op = .put w f ∧ y.pa = pa ∧
      y.va = va ∧ y.ans = none ∧ (s.engineWrite c key va e pa w f).mem = s.mem := by
  have hop : (match placeOf (offOf pa) with | .istore .. => AccOp.store .d w | _ => .put w f) = .put w f := by
    rw [toStore] at h
    split
    next heq => rw [heq] at h; exact Bool.noConfusion h
    · rfl
  refine ⟨_, rfl, ?_, rfl, rfl, rfl, rfl⟩
  exact hop

/-! ### Phases and the end of a copy (R332, R334) -/

section
variable {s : State} {c id : Nat} {x : Copy} (hx : (s.core c).copyOf id = some x)
include hx

theorem State.nextPhase_begins (hemptied : x.emptied = false) (hstop : x.stop = none) (hover : x.count ≤ x.pos)
    (hacked : s.acked (x.unit c) = true) :
    s.nextPhase c id = s.modCopy c id fun y => { y with emptied := true, pos := 0, start := s.tick } := by
  rw [State.nextPhase, hx]
  exact if_pos (by rw [hemptied, hstop, decide_eq_true hover, hacked]; rfl)
theorem State.copyOver_fills (h : x.emptied = true ∧ x.moving = false ∨ x.stop ≠ none) (hacked : s.acked (x.unit c) = true)
    (hdue : s.fillDue c id = false) : s.copyOver c id = s.enqueue (s.tick + 1) c .low id .copyCompletionFill := by
  have hthrough : (x.stop.isSome || (x.emptied && !x.moving)) = true := by
    rcases h with ⟨hemptied, hmoving⟩ | hstop
    · rw [hemptied, hmoving]; exact Bool.or_true _
    · rw [Option.isSome_iff_ne_none.2 hstop, Bool.true_or]
  rw [State.copyOver, hx]
  exact if_pos (by rw [hthrough, hacked, hdue]; rfl)
end

/-- A copy that is over is not one of the core's any more: its id is free. -/
theorem State.copyOf_endCopy (s : State) (c id : Nat) : ((s.endCopy c id).core c).copyOf id = none := by
  have hpoke (t : State) : ((match (s.core c).lid? with | some l => t.poke l | none => t).core c) = t.core c := by split <;> rfl
  have hrest (t : State) : ((t.restIdle c).core c).copies = (t.core c).copies := by
    rw [State.restIdle]
    split
    · rw [State.core_enqueue, State.core_modCore_same]
    · rfl
  show List.find? _ (((match (s.core c).lid? with | some l => State.poke _ l | none => _ : State).core c).copies) = none
  rw [hpoke, hrest, State.core_modCore_same]
  refine List.find?_eq_none.2 fun y hy => ?_
  obtain ⟨hy, -⟩ := List.mem_filter.1 hy
  rw [State.modCopy, State.core_modCore_same] at hy
  obtain ⟨z, -, rfl⟩ := List.mem_map.1 hy
  split
  · simp
  next h => exact h

/-! ### The completion fill (R334) -/

/-- The fill of the copy under the number of the event is looked at again in the next tick. -/
def State.fillAgain (s u : State) : State := u.enqueue (s.tick + 1) s.here .low s.evNum .copyCompletionFill

section
variable {s : State} {x : Copy} (hx : (s.core s.here).copyOf s.evNum = some x) (hmoving : x.moving = false)
include hx hmoving

theorem exec_copyCompletionFill : exec .copyCompletionFill s = .next (
    if !s.acked (x.unit s.here) then s.fillAgain s
    else if x.filling then s.endCopy s.here x.id
    else if (s.core s.here).halt then s
    else match x.cw with
      | none => s.endCopy s.here x.id
      | some va =>
        match s.follow s.here va (s.findFill s.here x.lid va) with
        | (.stop t, s1) => s1.noFill s.here x va t
        | (.go e pa, s1) =>
          if e.host then s.fillAgain (s1.askDevice s.here va)
          else s.fillAgain ((s1.engineAsk s.here (x.unit s.here) e va pa (.put x.value (some true))).modCopy s.here x.id fun y =>
            { y with filling := true })
        | (_, s1) => s.fillAgain s1) := by
  have hexec : exec .copyCompletionFill s = execCopyCompletionFill s := rfl
  rw [hexec, execCopyCompletionFill, hx]
  exact congrArg _ (if_neg (by rw [hmoving]; decide))
theorem exec_copyCompletionFill_waits (hacked : s.acked (x.unit s.here) = false) : exec .copyCompletionFill s = .next (s.fillAgain s) := by
  rw [exec_copyCompletionFill hx hmoving, if_pos (by rw [hacked]; rfl)]

variable (hacked : s.acked (x.unit s.here) = true)
include hacked

theorem exec_copyCompletionFill_filled (hfilling : x.filling = true) : exec .copyCompletionFill s = .next (s.endCopy s.here x.id) := by
  rw [exec_copyCompletionFill hx hmoving, if_neg (by rw [hacked]; decide), if_pos hfilling]

variable (hfilling : x.filling = false)
include hfilling

theorem exec_copyCompletionFill_halted (hhalt : (s.core s.here).halt = true) : exec .copyCompletionFill s = .next s := by
  rw [exec_copyCompletionFill hx hmoving, if_neg (by rw [hacked]; decide), if_neg (by rw [hfilling]; decide), if_pos hhalt]

variable (hhalt : (s.core s.here).halt = false)
include hhalt

theorem exec_copyCompletionFill_goes : exec .copyCompletionFill s = .next (
    match x.cw with
    | none => s.endCopy s.here x.id
    | some va =>
      match s.follow s.here va (s.findFill s.here x.lid va) with
      | (.stop t, s1) => s1.noFill s.here x va t
      | (.go e pa, s1) =>
        if e.host then s.fillAgain (s1.askDevice s.here va)
        else s.fillAgain ((s1.engineAsk s.here (x.unit s.here) e va pa (.put x.value (some true))).modCopy s.here x.id fun y =>
          { y with filling := true })
      | (_, s1) => s.fillAgain s1) := by
  rw [exec_copyCompletionFill hx hmoving, if_neg (by rw [hacked]; decide), if_neg (by rw [hfilling]; decide), if_neg (by rw [hhalt]; decide)]

variable {va : Word} {e : TlbEntry} {pa : Nat} {t : Stop}

theorem exec_copyCompletionFill_noWord (hcw : x.cw = none) : exec .copyCompletionFill s = .next (s.endCopy s.here x.id) := by
  rw [exec_copyCompletionFill_goes hx hmoving hacked hfilling hhalt, hcw]
theorem exec_copyCompletionFill_sends (hcw : x.cw = some va) (hfind : s.findFill s.here x.lid va = .go e pa) (hhost : e.host = false) :
    exec .copyCompletionFill s = .next (s.fillAgain (((s.useEntry s.here e).engineAsk s.here (x.unit s.here) e va pa
      (.put x.value (some true))).modCopy s.here x.id fun y => { y with filling := true })) := by
  rw [exec_copyCompletionFill_goes hx hmoving hacked hfilling hhalt, hcw]
  simp only [hfind, State.follow, hhost, Bool.false_eq_true, if_false]
theorem exec_copyCompletionFill_cannot (hcw : x.cw = some va) (hfind : s.findFill s.here x.lid va = .stop t) :
    ∃ u, exec .copyCompletionFill s = .next u ∧ (u.core s.here).copyOf x.id = none := by
  have hexec := exec_copyCompletionFill_goes hx hmoving hacked hfilling hhalt
  rw [hcw] at hexec
  dsimp only at hexec
  rw [hfind] at hexec
  exact ⟨_, hexec, State.copyOf_endCopy ..⟩
end

/-- Settles O41: the tick of the engine, a word's way through it, and the end of a copy. -/
theorem copiesAtWork : Obligations.CopiesAtWork := by
  constructor
  · intro s u x l c id n m e pa a va w v t ids rest ws f closes s1 s2 dst at_ here back joined
    have hdest : here → s.copyDest c x = (.go e pa, at_) := fun ⟨hfind, hcontrol, hstore, harming⟩ =>
      State.copyDest_go hfind hcontrol hstore harming
    refine ⟨fun hworks => ?_, fun hworks => ?_, State.writeWords_le c id n s, State.moveOne_passed, State.moveOne_moved, State.moveOne_stuck,
      State.mayMove_halted, State.mayMove_early, State.copyMove_reads, fun hhere => State.copyMove_empties (hdest hhere),
      State.copyMove_stops, State.copyWrite_waits, fun ⟨hreads, hback⟩ => State.copyWrite_failed hreads hback,
      fun ⟨hreads, hback⟩ hjoined => State.copyWrite_stops hreads hback hjoined,
      fun ⟨hreads, hback⟩ hjoined hhere => State.copyWrite_writes hreads hback hjoined (hdest hhere),
      s.engineWrite_sends c m va e w f, State.nextPhase_begins, State.copyOver_fills⟩
    · exact (exec_copyDataPhase s).trans (congrArg Host.Outcome.next (if_pos hworks))
    · exact (exec_copyDataPhase s).trans (congrArg Host.Outcome.next (if_neg (Bool.eq_false_iff.1 hworks)))
  · intro s x va e pa t again
    refine ⟨fun hx hmoving => ⟨exec_copyCompletionFill_waits hx hmoving, fun hacked => ⟨exec_copyCompletionFill_filled hx hmoving hacked,
      exec_copyCompletionFill_halted hx hmoving hacked, fun hfilling hhalt => ⟨exec_copyCompletionFill_noWord hx hmoving hacked hfilling hhalt,
      fun hcw => ⟨exec_copyCompletionFill_sends hx hmoving hacked hfilling hhalt hcw,
        exec_copyCompletionFill_cannot hx hmoving hacked hfilling hhalt hcw⟩⟩⟩⟩, s.copyOf_endCopy s.here s.evNum⟩

end Sys2Proof.Machine
end
